-- ==== Sys2Proof/Word.lean ====
section
/-!
DEFINITION. Word: the bit-vector widths the Triren's spec names (bytes, 16-, 32-, 64- and 128-bit words).
-/
namespace Sys2Proof

/-- One byte of a row, a register field or a ring entry (00_scope R4). -/
abbrev Byte := BitVec 8
/-- A 16-bit field. -/
abbrev W16 := BitVec 16
/-- A CFG register word (00_scope R6). -/
abbrev W32 := BitVec 32
/-- A 64-bit field, for example a tick sequence number (02_the_tick R38). -/
abbrev W64 := BitVec 64
/-- A command word of an engine queue (10_command_queues R224). -/
abbrev CmdWord := BitVec 128

end Sys2Proof
end

