-- ==== Sys2Proof/Syntax.lean ====
section
/-!
DEFINITION. Syntax: the commands the block takes, one constructor of Instr per row of spec/opcode_table.json, and
the operand records they carry. Engine commands carry the header and body fields of the 128-bit command word
(10_command_queues, Tables 10-1 and 10-3); events carry what the outside brings with them.
-/
namespace Sys2Proof

/-- The four engine queues of a core, in the order of R224 and R245. -/
inductive Queue where
  | me | se | ve | de
deriving DecidableEq, Repr

/-- The command header, Table 10-1, without OP and GRP, which the constructor fixes. -/
structure Hdr where
  /-- DELTA, the issue delta in cycles. -/
  delta : BitVec 16
  /-- MASK, index of the predicate mask; 0 selects every row and lane. -/
  mask : BitVec 6
  /-- RESGATE, the residency gate. -/
  resgate : Bool
  /-- PRED: 0 always, 1 to 4 CMP0 to CMP3. -/
  pred : BitVec 3
  /-- PINV: run when the selected comparator is 0. -/
  pinv : Bool
deriving DecidableEq, Repr

/-- A command of core `core` falling due: its header, and the packet whose streams it works on, which the plan
fixes and the word does not carry (DESIGN CHOICE, log 9). -/
structure Iss where
  core : BitVec 3
  hdr : Hdr
  pkt : Nat
deriving DecidableEq, Repr

/-- Body of MM, Table 10-3. Fields named with a final 1 hold the value minus 1. -/
structure MmF where
  shape : BitVec 3
  s1 : BitVec 2
  n1 : BitVec 7
  ibs : BitVec 2
  wh : BitVec 1
  wofs : BitVec 10
  tsel : BitVec 4
  fmtA : BitVec 6
  fmtW : BitVec 6
  accExp : BitVec 9
  accAdd : BitVec 1
  abank : BitVec 1
  acol : BitVec 7
  dst : BitVec 2
  fmtO : BitVec 6
  fmtL : BitVec 6
  rel : BitVec 6
  addr : BitVec 14
deriving DecidableEq, Repr

/-- Body of WFILL. -/
structure WfillF where
  wh : BitVec 1
  wrow : BitVec 7
  nrows1 : BitVec 7
  addr : BitVec 14
  xk : BitVec 4
  srows : BitVec 6
  swrow : BitVec 5
deriving DecidableEq, Repr

/-- Body of TLOAD. -/
structure TloadF where
  addr : BitVec 14
  xk : BitVec 4
deriving DecidableEq, Repr

/-- Body of SMIX, SOUT and SCARRY. -/
structure SeF where
  spb : BitVec 14
  first : BitVec 12
  count1 : BitVec 12
  part : BitVec 1
  xk : BitVec 4
deriving DecidableEq, Repr

/-- Body of the group 0x3 VE commands. -/
structure VArithF where
  vd : BitVec 5
  va : BitVec 5
  vb : BitVec 5
  vc : BitVec 5
  qd : BitVec 8
  qa : BitVec 8
  qb : BitVec 8
  qc : BitVec 8
  sym : BitVec 1
  raw : BitVec 1
  sta : BitVec 6
  sda : BitVec 3
  stb : BitVec 6
  sdb : BitVec 3
  stc : BitVec 6
  sdc : BitVec 3
  ct : BitVec 3
  mulx : BitVec 1
  cond : BitVec 3
deriving DecidableEq, Repr

/-- Body of VCONV; `lc` codes 8, 16, 32, 64. -/
structure VConvF where
  vd : BitVec 5
  va : BitVec 5
  vb : BitVec 5
  vc : BitVec 5
  qd : BitVec 8
  qa : BitVec 8
  qb : BitVec 8
  qc : BitVec 8
  sym : BitVec 1
  kc2 : BitVec 2
  lc : BitVec 2
deriving DecidableEq, Repr

/-- Body of VRSUM, VRSSQ and VRMAX. -/
structure VRedF where
  vd : BitVec 5
  va : BitVec 5
  qd : BitVec 8
  qa : BitVec 8
  sym : BitVec 1
  cnt1 : BitVec 4
  std : BitVec 6
deriving DecidableEq, Repr

/-- Body of VLD (`vr` is VD) and VST (`vr` is VA). -/
structure VMemF where
  vr : BitVec 5
  cnt1 : BitVec 4
  qd : BitVec 8
  qa : BitVec 8
  sym : BitVec 1
  fmti : BitVec 6
  addr : BitVec 18
  e0 : BitVec 12
  str : BitVec 12
  saddr : BitVec 18
deriving DecidableEq, Repr

/-- Body of VIB. -/
structure VibF where
  va : BitVec 5
  cnt1 : BitVec 4
  qa : BitVec 8
  qd : BitVec 8
  sym : BitVec 1
  fmti : BitVec 6
  slot : BitVec 2
  srow : BitVec 4
  last : BitVec 1
deriving DecidableEq, Repr

/-- Body of VFT. -/
structure VftF where
  vd : BitVec 5
  qd : BitVec 8
  raw : BitVec 1
  dstw : BitVec 1
  addr : BitVec 18
deriving DecidableEq, Repr

/-- Body of VTOPK. -/
structure VTopkF where
  vd : BitVec 5
  va : BitVec 5
  qd : BitVec 8
  qa : BitVec 8
  sym : BitVec 1
  fmti : BitVec 6
  k1 : BitVec 4
  dir : BitVec 1
  acc : BitVec 1
  pos0 : BitVec 16
  msrc : BitVec 1
  m1 : BitVec 12
  addr : BitVec 18
deriving DecidableEq, Repr

/-- Body of VWADD. -/
structure VWaddF where
  vd : BitVec 5
  va : BitVec 5
  qd : BitVec 8
  ql : BitVec 8
  nw2 : BitVec 3
  src : BitVec 2
  dstw : BitVec 2
  addr : BitVec 18
  e0 : BitVec 1
  ostr : BitVec 10
  pstr : BitVec 10
deriving DecidableEq, Repr

/-- Body of VCTL. -/
structure VCtlF where
  ct : BitVec 3
  addr : BitVec 18
deriving DecidableEq, Repr

/-- Body of DMOVE. -/
structure DmoveF where
  sl : BitVec 2
  dl : BitVec 2
  sadr : BitVec 18
  dadr : BitVec 18
  nrows1 : BitVec 8
  fmtS : BitVec 6
  fmtD : BitVec 6
  cflg : BitVec 7
  bcnt1 : BitVec 8
  bss : BitVec 8
  bds : BitVec 8
deriving DecidableEq, Repr

/-- Body of DMOVEX. -/
structure DmovexF where
  sl : BitVec 2
  dl : BitVec 2
  sadr : BitVec 18
  dadr : BitVec 18
  nrows1 : BitVec 8
  fmtS : BitVec 6
  fmtD : BitVec 6
  cflg : BitVec 7
  xk : BitVec 4
  xsc : BitVec 8
  xs : BitVec 1
  xd : BitVec 1
deriving DecidableEq, Repr

/-- Body of DREMOTE. -/
structure DremoteF where
  cch : BitVec 3
  sadr : BitVec 18
  rofs : BitVec 8
  nrows1 : BitVec 8
  cflg : BitVec 7
  rflg : BitVec 6
deriving DecidableEq, Repr

/-- Body of DCRET. -/
structure DcretF where
  tcore : BitVec 3
  cch : BitVec 3
  nrows1 : BitVec 8
deriving DecidableEq, Repr

/-- Body of DMEM; `dir` 0 reads from MEM. -/
structure DmemF where
  port : BitVec 1
  dir : BitVec 1
  mrow : BitVec 31
  ladr : BitVec 18
  nrows1 : BitVec 8
  fmtS : BitVec 6
  fmtD : BitVec 6
  cflg : BitVec 7
deriving DecidableEq, Repr

/-- Body of DGATHER. -/
structure DgatherF where
  iadr : BitVec 18
  iofs : BitVec 12
  sadr : BitVec 18
  dadr : BitVec 18
  nrows1 : BitVec 8
  cflg : BitVec 7
deriving DecidableEq, Repr

/-- A row that reaches a core's memory from outside the core other than by a remote write (R215). -/
inductive RowSrc where
  | core (k : BitVec 3)
  | sp | xp | dbg
deriving DecidableEq, Repr

/-- An out-of-service row: its source, its core-memory row and its bytes. -/
structure OutRow where
  src : RowSrc
  row : BitVec 14
  data : List Byte
deriving DecidableEq, Repr

/-- TICK descriptor, Tables 14-2 and 14-4. `rsv` is bytes 1 to 3, `rest` bytes 0x37 to 0x3B. -/
structure TickDesc where
  sq : BitVec 4
  tag : W32
  rsv : BitVec 24
  tickSeq : W64
  ctlAddr : W64
  errAddr : W64
  vdim : List W16
  ctlCrc : W32
  ctlRows : W16
  cores : Byte
  rest : BitVec 40
  crc : W32
deriving DecidableEq, Repr

/-- State-management descriptor, Tables 14-2 and 7-3; OP is fixed by the constructor. `rest` is the body after ADDR. -/
structure StateDesc where
  sq : BitVec 4
  tag : W32
  rsv : BitVec 24
  flags : Byte
  stream : W16
  adapt : Byte
  group : Byte
  place : W16
  addr : W64
  rest : List Byte
  crc : W32
deriving DecidableEq, Repr

/-- LOAD descriptor (Table 14-3). -/
structure LoadDesc where
  sq : BitVec 4
  tag : W32
  rsv : BitVec 24
  addr : W64
  len : W32
  rest : List Byte
  crc : W32
deriving DecidableEq, Repr

/-- UNLOAD, NOP and reserved-TYPE descriptors: the 52 body bytes as they stand. -/
structure BareDesc where
  sq : BitVec 4
  tag : W32
  rsv : BitVec 24
  body : List Byte
  crc : W32
deriving DecidableEq, Repr

/-- One entry of a core's format table (R228). -/
structure FmtEntry where
  fmt : BitVec 12
  fq : BitVec 8
  fixs : Byte
deriving DecidableEq, Repr

/-- One entry of a core's mask table (Table 11-3). -/
structure MaskEntry where
  rowBits : W64
  colBits : CmdWord
  rdim : BitVec 4
  srow : Bool
  lmap : BitVec 2
  rofs : BitVec 6
  cdim : BitVec 4
  cofs : BitVec 12
deriving DecidableEq, Repr

/-- A region of a level (R211). -/
structure RegionDef where
  base : Nat
  rows : Nat
  w : Bool
  scrub : Bool
  cache : Bool
  lock : Bool
deriving DecidableEq, Repr

/-- A credit channel as the loader sets it (R212). -/
structure ChanDef where
  ch : BitVec 3
  tgt : BitVec 3
  rbase : BitVec 14
  rrows : BitVec 9
  flag : BitVec 6
deriving DecidableEq, Repr

/-- A scan parameter block (R140). Addresses are core-memory offsets in rows (DESIGN CHOICE, log 13). -/
structure Spb where
  c : Nat
  n : Nat
  p : Nat
  l : Nat
  complex : Bool
  fx : FmtEntry
  fb : FmtEntry
  fc : FmtEntry
  symState : Bool
  eg : Int
  qg : Int
  ey : Int
  tExp : BitVec 3
  tCos : BitVec 3
  tSin : BitVec 3
  aLam : Nat
  aTheta : Nat
  aB : Nat
  aC : Nat
  aCi : Nat
  aX : Nat
  aG : Nat
  aGi : Nat
  aM : Nat
  aMi : Nat
  aOut : Nat
  aRst : Nat
  aQh : Nat
  seBase : Nat
  initOfs : Nat
deriving DecidableEq, Repr

/-- A place of the package: its batch and position, its chain, and the (packet, row) of each step (R151). -/
structure PlaceDef where
  batch : Byte
  pos : Byte
  chain : Nat
  rows : List (Nat × Nat)
deriving DecidableEq, Repr

/-- Catch-up rows for one stream (R55): the batch that they lie in, and the (packet, row) of each step. -/
structure CuDef where
  batch : Byte
  rows : List (Nat × Nat)
deriving DecidableEq, Repr

/-- Adapter record, Table 13-1; `headCore` is the core of the head, `slotRow` the first adapter row in a slot, `retBase` the
first row of the retention rings of its head (DESIGN CHOICE, log 43), `inFmt` the format of the head's input (R280). -/
structure AdapterDef where
  headCore : BitVec 3
  dIn : Nat
  dOut : Nat
  rank : Nat
  inFmt : FmtEntry
  qA : Int
  qB : Int
  eZ : Int
  qZ : Int
  eG : Int
  qGZ : Int
  lrM : Nat
  lrE : Int
  clipM : Nat
  clipE : Int
  wmax : Nat
  ret : Nat
  updCyc : Nat
  positions : Nat
  slotRow : Nat
  retBase : Nat
  initRows : List Byte
  group : Option Byte
deriving DecidableEq, Repr

/-- What fills a curve table: a vendor curve by its CURVE_ID (R191), or a row of the package. -/
inductive CurveSrc where
  | vendor (id : Byte)
  | row (data : List Byte)
deriving DecidableEq, Repr

/-- What the package holds for one logical core. `blocks` are the words of one tick's block per queue, `pkts` the packet of
each command of a block, `planned`
the planned cycle count per queue, `masks` the 32-byte mask entries (Table 11-3), `adMasks` the mask entries of the adapter commands (DESIGN CHOICE, log 42), `cuCycles` that of one catch-up chunk, `fills` the W-class rows, `curves` the
curve tables of the loader's fill, `ballast` the entries of the ballast schedule (R386; DESIGN CHOICE, log 127). -/
structure CorePlan where
  cmBase : BitVec 14
  cmRows : BitVec 15
  orBase : BitVec 17
  orRows : BitVec 18
  regions : List RegionDef
  chans : List ChanDef
  cacheSize : BitVec 2
  fmts : List (BitVec 6 × FmtEntry)
  masks : List (BitVec 6 × List Byte)
  adMasks : List (BitVec 6)
  spbs : List (BitVec 14 × Spb)
  curves : List (BitVec 3 × CurveSrc)
  flgInit : W64
  kInit : List W16
  cmpInit : BitVec 4
  blocks : List (List CmdWord)
  pkts : List (List Nat)
  planned : List Nat
  cuCycles : Nat
  fills : List (Nat × List Byte)
  ballast : List Nat
deriving DecidableEq, Repr

/-- A layer that the package divides between two neighbouring cores (R251, R253). A head split: in each core the MM commands of the
partial sums, by index in the ME block, and the VWADDs that join them, by index in the second core's VE block. A chunk split: the
layer's scan parameter block, the chunks of the first core, the DREMOTE that sends the end state, by index in the first core's DE
block, and the second core's FWAIT for it, by queue and index. -/
inductive SplitDef where
  | head (first second : BitVec 3) (parts1 parts2 adds : List Nat)
  | chunk (first second : BitVec 3) (spb : BitVec 14) (count send : Nat) (waitQ : Queue) (waitIdx : Nat)
deriving DecidableEq, Repr

/-- A package (JGP) as the loader sees it once fetched. The spec gives no byte layout of a JGP (DESIGN CHOICE, log 8). `bloomMap` are the
slot rows of the Bloom layers in slot order (R270); `cuRows` are the catch-up rows set aside, batch by batch (R55); `splits` the divided layers;
`ramp` the ballast entries that stand before core time 0 (R386). -/
structure Package where
  pkgId : W32
  gen : Byte
  signer : Option Nat
  sigOk : Bool
  measure : BitVec 256
  sections : List (List Byte × W32)
  cores : Nat
  chains : List (List (BitVec 3))
  steps : Nat
  minL : Nat
  places : List PlaceDef
  cuRows : List CuDef
  vmax : List (Option Nat)
  plans : List CorePlan
  orRegions : List RegionDef
  orRows : Nat
  stateBase : Nat
  stateRows : Nat
  slotState : Nat
  slotSide : Nat
  layoutId : W32
  bloomBase : Nat
  bloomMap : List Nat
  bloomLayers : Nat
  adapters : List AdapterDef
  dispBase : Nat
  intakeBase : Nat
  smpBytes : Nat
  embBase : Nat
  embRows : Nat
  embFmtS : FmtEntry
  embFmtD : FmtEntry
  outBase : Nat
  outPayload : Nat
  errBase : Nat
  lrnBase : Nat
  journalBase : Nat
  cuReserve : Byte
  dflgInit : W64
  pkgLim : List W32
  eComp : W32
  splits : List SplitDef
  ramp : Nat
deriving DecidableEq, Repr

/-- A firmware processor (R14). -/
inductive Proc where
  | xp | pp | sp
  | cp (k : BitVec 3)
deriving DecidableEq, Repr

/-- The rings of Table 14-1. -/
inductive RingId where
  | sq (n : BitVec 4)
  | cq (m : BitVec 4)
  | evt | err | log
deriving DecidableEq, Repr

/-- A check unit (R315). -/
inductive UnitId where
  | cu (core : BitVec 3) (u : BitVec 1)
  | du (d : BitVec 2)
deriving DecidableEq, Repr

/-- By which path a register write comes: the CFG window, or the owner's internal path (R222, R315, R323). -/
inductive Via where
  | cfg | owner
deriving DecidableEq, Repr

/-- What a HELLO carries of the peer (R360). -/
structure HelloInfo where
  pkgId : W32
  measure : BitVec 256
  period : BitVec 21
  dispatchOfs : BitVec 21
  computeOfs : BitVec 21
  deadlineOfs : BitVec 21
  sigOfs : BitVec 21
  mode : BitVec 2
  role : Bool
  srcExt : Bool
  registered : Nat
  l3Free : Bool
  seq : W64
deriving DecidableEq, Repr

/-- Fields of OTP that provisioning programs (Table 19-4). -/
inductive OtpField where
  | uid (v : CmdWord)
  | grade (v : Byte)
  | pcoreEn (v : Byte)
  | certNb (v : W32)
  | keySeed (v : BitVec 256)
  | certSig (v : BitVec 512)
  | dbgKeyHash (v : BitVec 256)
  | ownerKey (i : BitVec 3) (v : BitVec 256)
  | ownerRevoke (i : BitVec 3)
  | lifecycle (bit : BitVec 2)
deriving DecidableEq, Repr

/-- A stream-table change carried by the link (R369, R370): the change the active twin made. -/
structure TableChange where
  op : Byte
  stream : W16
  place : W16
  flags : Byte
  adapt : Byte
  group : Byte
  addr : W64
deriving DecidableEq, Repr

/-- The operand of a debug command (R419): TGT, ADDR, ARG and ARG2 of DBG_CMD. -/
structure DbgCmd where
  tgt : Byte
  addr : BitVec 24
  arg : BitVec 24
  arg2 : W32
deriving DecidableEq, Repr

/-- The commands of the block: one constructor per row of spec/opcode_table.json. -/
inductive Instr where
  -- control group
  | nop (i : Iss) (q : Queue)
  | fset (i : Iss) (q : Queue) (flag : BitVec 6) (dev : Bool)
  | fclr (i : Iss) (q : Queue) (flag : BitVec 6) (dev : Bool)
  | fwait (i : Iss) (q : Queue) (flag : BitVec 6) (dev : Bool) (val : Bool) (clr : Bool) (tmo : BitVec 24)
  | kset (i : Iss) (q : Queue) (k : BitVec 3) (value : W16)
  | kadd (i : Iss) (q : Queue) (k : BitVec 3) (value : W16)
  | cset (i : Iss) (q : Queue) (cmp : BitVec 2) (k : BitVec 3) (cond : BitVec 3) (value : W16)
  | wclaim (i : Iss) (q : Queue) (wct : BitVec 4) (n1 : BitVec 8) (k : BitVec 3) (cmp : BitVec 2) (cen : Bool)
  | wrst (i : Iss) (q : Queue) (wct : BitVec 4) (limit : W16)
  -- matrix engine
  | mm (i : Iss) (f : MmF)
  | wfill (i : Iss) (f : WfillF)
  | tload (i : Iss) (f : TloadF)
  -- scan engine
  | smix (i : Iss) (f : SeF)
  | sout (i : Iss) (f : SeF)
  | scarry (i : Iss) (f : SeF)
  -- vector engine
  | vmov (i : Iss) (f : VArithF)
  | vadd (i : Iss) (f : VArithF)
  | vsub (i : Iss) (f : VArithF)
  | vmul (i : Iss) (f : VArithF)
  | vmac (i : Iss) (f : VArithF)
  | vmax (i : Iss) (f : VArithF)
  | vmin (i : Iss) (f : VArithF)
  | vabs (i : Iss) (f : VArithF)
  | vneg (i : Iss) (f : VArithF)
  | vclp (i : Iss) (f : VArithF)
  | vcmp (i : Iss) (f : VArithF)
  | vsel (i : Iss) (f : VArithF)
  | vcrv (i : Iss) (f : VArithF)
  | vconv (i : Iss) (f : VConvF)
  | vrsum (i : Iss) (f : VRedF)
  | vrssq (i : Iss) (f : VRedF)
  | vrmax (i : Iss) (f : VRedF)
  | vld (i : Iss) (f : VMemF)
  | vst (i : Iss) (f : VMemF)
  | vib (i : Iss) (f : VibF)
  | vft (i : Iss) (f : VftF)
  | vtopk (i : Iss) (f : VTopkF)
  | vwadd (i : Iss) (f : VWaddF)
  | vctl (i : Iss) (f : VCtlF)
  -- data mover
  | dmove (i : Iss) (f : DmoveF)
  | dmovex (i : Iss) (f : DmovexF)
  | dremote (i : Iss) (f : DremoteF)
  | dcret (i : Iss) (f : DcretF)
  | dmem (i : Iss) (f : DmemF)
  | dgather (i : Iss) (f : DgatherF)
  | dmemComplete (core : BitVec 3) (resp : BitVec 2) (data : List Byte)
  | inboundRowLand (core : BitVec 3) (row : Option OutRow)
  -- control processors
  | queueWrite (core : BitVec 3) (q : Queue) (word : CmdWord)
  | blockRelease (core : BitVec 3) (q : Queue) (endIdx : BitVec 9)
  | windowChange (core : BitVec 3) (w : BitVec 2) (base : BitVec 14) (rows : BitVec 14) (srcCore : Byte) (sp : Bool) (xp : Bool) (dbg : Bool) (opn : Bool)
  -- descriptors
  | tick (d : TickDesc)
  | controlBlock (resp : BitVec 2) (data : List Byte)
  | errorBlock (resp : BitVec 2) (data : List Byte)
  | register (d : StateDesc)
  | unregister (d : StateDesc)
  | swapIn (d : StateDesc)
  | swapOut (d : StateDesc)
  | bind (d : StateDesc)
  | unbind (d : StateDesc)
  | writeInit (d : StateDesc)
  | clearInit (d : StateDesc)
  | load (d : LoadDesc)
  | unload (d : BareDesc)
  | nopDescriptor (d : BareDesc)
  | packageCheck (p : Package)
  | loaderFill
  | imageCheck (stream : W16) (resp : BitVec 2) (data : List Byte)
  | swapOutComplete (stream : W16) (resp : BitVec 2)
  | initImageLanded (stream : W16) (resp : BitVec 2) (data : List Byte)
  -- the tick
  | tickBoundary
  | flywheelBoundary
  | tkcExtWait
  | dispatch
  | computeStart
  | pit
  | publish
  | earlyIntake
  | earlyDispatch
  -- gates, recovery and reports
  | timeout (core : BitVec 3) (q : Queue)
  | waitCycle (chain : Nat)
  | tileReadyLimit (core : BitVec 3)
  | gateResolve (core : BitVec 3)
  | chainRestart (chain : Nat) (fetchOk : Bool) (rows : List (Nat × List Byte))
  | eccWriteBack (granule : BitVec 23)
  | errorFifoDrain
  | errClsClr (mask : W16)
  -- firmware
  | watchdogExpiry (p : Proc)
  | watchdogKick (p : Proc)
  | mpuFault (p : Proc)
  | logEntry (level : BitVec 3) (source : BitVec 4) (code : W32) (args : List W32)
  | tracePacket (source : BitVec 4) (point : BitVec 12) (cls : BitVec 4) (arg0 : W32) (arg1 : W32) (debug : Bool)
  | fwrWrite (ofs : W16) (value : W32) (strb : BitVec 4)
  | fwrWriteApply
  | fwrLate
  -- CFG window
  | cfgWrite (ofs : W16) (value : W32) (strb : BitVec 4) (via : Via)
  | tkcRunStart (src : Bool) (fly : Bool) (outEn : Bool)
  | tkcRunStop (src : Bool) (fly : Bool) (outEn : Bool)
  | tkcOutEn (src : Bool) (fly : Bool)
  | tkcSeqLoRead
  | hifDb (n : BitVec 4) (value : W32)
  | hifKill
  | ringEnable (r : RingId) (value : W32)
  | head (r : RingId) (value : BitVec 12)
  | ringEntryWritten (r : RingId) (resp : BitVec 2)
  -- check units
  | start (u : UnitId) (src : Bool) (fold : W32)
  | preset (u : UnitId) (p : BitVec 2)
  | dataB (u : UnitId) (b : Byte)
  | dataH (u : UnitId) (h : W16)
  | dataW (u : UnitId) (w : W32)
  | rowFeed (u : UnitId) (data : List Byte)
  | runWrite (u : UnitId) (run : Option W64) (count : Option W32)
  -- boot, identity, power, reset
  | secBootGo
  | bootRelease (resp : BitVec 2) (img : List Byte) (sigOk : Bool) (measure : BitVec 256)
  | initScrubComplete (failed : Option (BitVec 17))
  | secAttGo (alsoCert : Bool)
  | secCertGo
  | attestationDone (resp : BitVec 2)
  | pwrCap (value : W32) (strb : BitVec 4)
  | pwrGnt (lvl : BitVec 2)
  | powerFault (lvl : BitVec 2)
  | pwrGntLate
  | ballastWindow (work : List Nat) (sched : List Nat)
  | poresetN
  | rstN
  -- pins
  | tickIn
  | sinPacket (port : BitVec 2) (stream : W16) (data : List Byte) (keepOk : Bool)
  -- the Amielle link
  | twnAttach
  | twnDetach
  | twnTakeover
  | align (seq : W64) (skew : Nat)
  | sig (seq : W64) (group : W16) (sigs : List W64) (bitmap : W64)
  | verdict (seq : W64) (group : W16) (link : Bool) (selftest : Bool) (commit : W64) (mismatch : W64)
  | delta (seq : W64) (stream : W16) (group : Byte) (row : Nat) (data : List Byte)
  | deltaEnd (seq : W64) (frames : W32) (streams : W16) (abandon : Bool)
  | hello (h : HelloInfo)
  | ctrlDetach (seq : W64)
  | stateRequest (seq : W64)
  | streamTableChange (seq : W64) (c : TableChange)
  | selfTestResult (pass : Bool)
  | twlTxCrd
  | twlRxUp (level : Bool)
  | linkDown
  | sealTick
  | verdictDeadline
  | selftestEnd (pass : Bool) (peerLate : Bool)
  | deltaSend
  | deltaAbandon
  | syncComplete
  -- the debug port
  | tapReset
  | idcode
  | dbgStat
  | dbgChal (nonce : BitVec 256)
  | dbgResp (level : Byte) (key : BitVec 512) (sg : BitVec 512)
  | unlockDecision (sigOk : Bool) (virell : Bool) (keyMatch : Bool)
  | dbgData (shiftIn : BitVec 160)
  | otpProg (f : OtpField) (vpp : Bool)
  | bypass
  | freeze
  | halt
  | resume
  | stepCmd (c : DbgCmd)
  | stepTick
  | read (c : DbgCmd)
  | write (c : DbgCmd)
  | bpSet (c : DbgCmd)
  | bpClr (c : DbgCmd)
  | claim (c : DbgCmd)
  | lock
  -- rows at the table's end
  | embeddingFetchComplete (stream : W16) (resp : BitVec 2) (data : List Byte)
  | frameDiscard (beats : BitVec 8)
  | reservedTypeDescriptor (type : Byte) (d : BareDesc)
deriving DecidableEq, Repr

end Sys2Proof
end

