-- ==== Sys2Proof/Decode.lean ====
section
/-!
DEFINITION. Decode: the command a word of the opcode table's bits spells. The table gives no row any bits, so no word
spells a command. The 128-bit command words of the engine queues are read in Machine/CommandWord.lean.
-/
namespace Sys2Proof

/-- The command of a word of `nbits` bits: none, since no row of spec/opcode_table.json gives bits. -/
def decodeTableWord (_nbits _w : Nat) : Option Instr := none

end Sys2Proof
end

