-- ==== Sys2Proof/Machine/CommandWord.lean ====
section
/-!
DEFINITION. Machine/CommandWord: the 128-bit command word of an engine queue (10_command_queues R227, R228, Tables 10-1
to 10-3): the fields of every engine command packed from bit 0 upward, header first, and their reading back.
-/
namespace Sys2Proof.Machine

/-- Fields of the given widths packed from bit 0 upward (R228). -/
def packFields : List (Nat × Nat) → Nat
  | [] => 0
  | (w, v) :: r => v % 2 ^ w + 2 ^ w * packFields r

/-- The fields of the given widths, from bit 0 upward. -/
def unpackFields : List Nat → Nat → List Nat
  | [], _ => []
  | w :: ws, n => n % 2 ^ w :: unpackFields ws (n / 2 ^ w)

/-- Widths of the header of Table 10-1: DELTA, OP, GRP, MASK, RESGATE, PRED, PINV. -/
def hdrWidths : List Nat := [16, 4, 4, 6, 1, 3, 1]

/-- The header's field values. -/
def hdrValues (h : Hdr) (grp op : Nat) : List Nat :=
  [h.delta.toNat, op, grp, h.mask.toNat, h.resgate.toNat, h.pred.toNat, h.pinv.toNat]

/-- A command's group, operation, header, body widths and body values. -/
structure WordParts where
  grp : Nat
  op : Nat
  hdr : Hdr
  widths : List Nat
  values : List Nat
deriving DecidableEq, Repr

/-- Body widths, Table 10-3. -/
def wMm : List Nat := [3, 2, 7, 2, 1, 10, 4, 6, 6, 9, 1, 1, 7, 2, 6, 6, 6, 14]
def vMm (f : MmF) : List Nat :=
  [f.shape.toNat, f.s1.toNat, f.n1.toNat, f.ibs.toNat, f.wh.toNat, f.wofs.toNat, f.tsel.toNat, f.fmtA.toNat, f.fmtW.toNat, f.accExp.toNat, f.accAdd.toNat, f.abank.toNat, f.acol.toNat, f.dst.toNat, f.fmtO.toNat, f.fmtL.toNat, f.rel.toNat, f.addr.toNat]
def rMm : List Nat → Option MmF
  | [a0, a1, a2, a3, a4, a5, a6, a7, a8, a9, a10, a11, a12, a13, a14, a15, a16, a17] => some ⟨.ofNat 3 a0, .ofNat 2 a1, .ofNat 7 a2, .ofNat 2 a3, .ofNat 1 a4, .ofNat 10 a5, .ofNat 4 a6, .ofNat 6 a7, .ofNat 6 a8, .ofNat 9 a9, .ofNat 1 a10, .ofNat 1 a11, .ofNat 7 a12, .ofNat 2 a13, .ofNat 6 a14, .ofNat 6 a15, .ofNat 6 a16, .ofNat 14 a17⟩
  | _ => none

/-- Body widths, Table 10-3. -/
def wWfill : List Nat := [1, 7, 7, 14, 4, 6, 5]
def vWfill (f : WfillF) : List Nat :=
  [f.wh.toNat, f.wrow.toNat, f.nrows1.toNat, f.addr.toNat, f.xk.toNat, f.srows.toNat, f.swrow.toNat]
def rWfill : List Nat → Option WfillF
  | [a0, a1, a2, a3, a4, a5, a6] => some ⟨.ofNat 1 a0, .ofNat 7 a1, .ofNat 7 a2, .ofNat 14 a3, .ofNat 4 a4, .ofNat 6 a5, .ofNat 5 a6⟩
  | _ => none

/-- Body widths, Table 10-3. -/
def wTload : List Nat := [14, 4]
def vTload (f : TloadF) : List Nat :=
  [f.addr.toNat, f.xk.toNat]
def rTload : List Nat → Option TloadF
  | [a0, a1] => some ⟨.ofNat 14 a0, .ofNat 4 a1⟩
  | _ => none

/-- Body widths, Table 10-3. -/
def wSe : List Nat := [14, 12, 12, 1, 4]
def vSe (f : SeF) : List Nat :=
  [f.spb.toNat, f.first.toNat, f.count1.toNat, f.part.toNat, f.xk.toNat]
def rSe : List Nat → Option SeF
  | [a0, a1, a2, a3, a4] => some ⟨.ofNat 14 a0, .ofNat 12 a1, .ofNat 12 a2, .ofNat 1 a3, .ofNat 4 a4⟩
  | _ => none

/-- Body widths, Table 10-3. -/
def wVArith : List Nat := [5, 5, 5, 5, 8, 8, 8, 8, 1, 1, 6, 3, 6, 3, 6, 3, 3, 1, 3]
def vVArith (f : VArithF) : List Nat :=
  [f.vd.toNat, f.va.toNat, f.vb.toNat, f.vc.toNat, f.qd.toNat, f.qa.toNat, f.qb.toNat, f.qc.toNat, f.sym.toNat, f.raw.toNat, f.sta.toNat, f.sda.toNat, f.stb.toNat, f.sdb.toNat, f.stc.toNat, f.sdc.toNat, f.ct.toNat, f.mulx.toNat, f.cond.toNat]
def rVArith : List Nat → Option VArithF
  | [a0, a1, a2, a3, a4, a5, a6, a7, a8, a9, a10, a11, a12, a13, a14, a15, a16, a17, a18] => some ⟨.ofNat 5 a0, .ofNat 5 a1, .ofNat 5 a2, .ofNat 5 a3, .ofNat 8 a4, .ofNat 8 a5, .ofNat 8 a6, .ofNat 8 a7, .ofNat 1 a8, .ofNat 1 a9, .ofNat 6 a10, .ofNat 3 a11, .ofNat 6 a12, .ofNat 3 a13, .ofNat 6 a14, .ofNat 3 a15, .ofNat 3 a16, .ofNat 1 a17, .ofNat 3 a18⟩
  | _ => none

/-- Body widths, Table 10-3. -/
def wVConv : List Nat := [5, 5, 5, 5, 8, 8, 8, 8, 1, 2, 2]
def vVConv (f : VConvF) : List Nat :=
  [f.vd.toNat, f.va.toNat, f.vb.toNat, f.vc.toNat, f.qd.toNat, f.qa.toNat, f.qb.toNat, f.qc.toNat, f.sym.toNat, f.kc2.toNat, f.lc.toNat]
def rVConv : List Nat → Option VConvF
  | [a0, a1, a2, a3, a4, a5, a6, a7, a8, a9, a10] => some ⟨.ofNat 5 a0, .ofNat 5 a1, .ofNat 5 a2, .ofNat 5 a3, .ofNat 8 a4, .ofNat 8 a5, .ofNat 8 a6, .ofNat 8 a7, .ofNat 1 a8, .ofNat 2 a9, .ofNat 2 a10⟩
  | _ => none

/-- Body widths, Table 10-3. -/
def wVRed : List Nat := [5, 5, 8, 8, 1, 4, 6]
def vVRed (f : VRedF) : List Nat :=
  [f.vd.toNat, f.va.toNat, f.qd.toNat, f.qa.toNat, f.sym.toNat, f.cnt1.toNat, f.std.toNat]
def rVRed : List Nat → Option VRedF
  | [a0, a1, a2, a3, a4, a5, a6] => some ⟨.ofNat 5 a0, .ofNat 5 a1, .ofNat 8 a2, .ofNat 8 a3, .ofNat 1 a4, .ofNat 4 a5, .ofNat 6 a6⟩
  | _ => none

/-- Body widths, Table 10-3. -/
def wVMem : List Nat := [5, 4, 8, 8, 1, 6, 18, 12, 12, 18]
def vVMem (f : VMemF) : List Nat :=
  [f.vr.toNat, f.cnt1.toNat, f.qd.toNat, f.qa.toNat, f.sym.toNat, f.fmti.toNat, f.addr.toNat, f.e0.toNat, f.str.toNat, f.saddr.toNat]
def rVMem : List Nat → Option VMemF
  | [a0, a1, a2, a3, a4, a5, a6, a7, a8, a9] => some ⟨.ofNat 5 a0, .ofNat 4 a1, .ofNat 8 a2, .ofNat 8 a3, .ofNat 1 a4, .ofNat 6 a5, .ofNat 18 a6, .ofNat 12 a7, .ofNat 12 a8, .ofNat 18 a9⟩
  | _ => none

/-- Body widths, Table 10-3. -/
def wVib : List Nat := [5, 4, 8, 8, 1, 6, 2, 4, 1]
def vVib (f : VibF) : List Nat :=
  [f.va.toNat, f.cnt1.toNat, f.qa.toNat, f.qd.toNat, f.sym.toNat, f.fmti.toNat, f.slot.toNat, f.srow.toNat, f.last.toNat]
def rVib : List Nat → Option VibF
  | [a0, a1, a2, a3, a4, a5, a6, a7, a8] => some ⟨.ofNat 5 a0, .ofNat 4 a1, .ofNat 8 a2, .ofNat 8 a3, .ofNat 1 a4, .ofNat 6 a5, .ofNat 2 a6, .ofNat 4 a7, .ofNat 1 a8⟩
  | _ => none

/-- Body widths, Table 10-3. -/
def wVft : List Nat := [5, 8, 1, 1, 18]
def vVft (f : VftF) : List Nat :=
  [f.vd.toNat, f.qd.toNat, f.raw.toNat, f.dstw.toNat, f.addr.toNat]
def rVft : List Nat → Option VftF
  | [a0, a1, a2, a3, a4] => some ⟨.ofNat 5 a0, .ofNat 8 a1, .ofNat 1 a2, .ofNat 1 a3, .ofNat 18 a4⟩
  | _ => none

/-- Body widths, Table 10-3. -/
def wVTopk : List Nat := [5, 5, 8, 8, 1, 6, 4, 1, 1, 16, 1, 12, 18]
def vVTopk (f : VTopkF) : List Nat :=
  [f.vd.toNat, f.va.toNat, f.qd.toNat, f.qa.toNat, f.sym.toNat, f.fmti.toNat, f.k1.toNat, f.dir.toNat, f.acc.toNat, f.pos0.toNat, f.msrc.toNat, f.m1.toNat, f.addr.toNat]
def rVTopk : List Nat → Option VTopkF
  | [a0, a1, a2, a3, a4, a5, a6, a7, a8, a9, a10, a11, a12] => some ⟨.ofNat 5 a0, .ofNat 5 a1, .ofNat 8 a2, .ofNat 8 a3, .ofNat 1 a4, .ofNat 6 a5, .ofNat 4 a6, .ofNat 1 a7, .ofNat 1 a8, .ofNat 16 a9, .ofNat 1 a10, .ofNat 12 a11, .ofNat 18 a12⟩
  | _ => none

/-- Body widths, Table 10-3. -/
def wVWadd : List Nat := [5, 5, 8, 8, 3, 2, 2, 18, 1, 10, 10]
def vVWadd (f : VWaddF) : List Nat :=
  [f.vd.toNat, f.va.toNat, f.qd.toNat, f.ql.toNat, f.nw2.toNat, f.src.toNat, f.dstw.toNat, f.addr.toNat, f.e0.toNat, f.ostr.toNat, f.pstr.toNat]
def rVWadd : List Nat → Option VWaddF
  | [a0, a1, a2, a3, a4, a5, a6, a7, a8, a9, a10] => some ⟨.ofNat 5 a0, .ofNat 5 a1, .ofNat 8 a2, .ofNat 8 a3, .ofNat 3 a4, .ofNat 2 a5, .ofNat 2 a6, .ofNat 18 a7, .ofNat 1 a8, .ofNat 10 a9, .ofNat 10 a10⟩
  | _ => none

/-- Body widths, Table 10-3. -/
def wVCtl : List Nat := [3, 18]
def vVCtl (f : VCtlF) : List Nat :=
  [f.ct.toNat, f.addr.toNat]
def rVCtl : List Nat → Option VCtlF
  | [a0, a1] => some ⟨.ofNat 3 a0, .ofNat 18 a1⟩
  | _ => none

/-- Body widths, Table 10-3. -/
def wDmove : List Nat := [2, 2, 18, 18, 8, 6, 6, 7, 8, 8, 8]
def vDmove (f : DmoveF) : List Nat :=
  [f.sl.toNat, f.dl.toNat, f.sadr.toNat, f.dadr.toNat, f.nrows1.toNat, f.fmtS.toNat, f.fmtD.toNat, f.cflg.toNat, f.bcnt1.toNat, f.bss.toNat, f.bds.toNat]
def rDmove : List Nat → Option DmoveF
  | [a0, a1, a2, a3, a4, a5, a6, a7, a8, a9, a10] => some ⟨.ofNat 2 a0, .ofNat 2 a1, .ofNat 18 a2, .ofNat 18 a3, .ofNat 8 a4, .ofNat 6 a5, .ofNat 6 a6, .ofNat 7 a7, .ofNat 8 a8, .ofNat 8 a9, .ofNat 8 a10⟩
  | _ => none

/-- Body widths, Table 10-3. -/
def wDmovex : List Nat := [2, 2, 18, 18, 8, 6, 6, 7, 4, 8, 1, 1]
def vDmovex (f : DmovexF) : List Nat :=
  [f.sl.toNat, f.dl.toNat, f.sadr.toNat, f.dadr.toNat, f.nrows1.toNat, f.fmtS.toNat, f.fmtD.toNat, f.cflg.toNat, f.xk.toNat, f.xsc.toNat, f.xs.toNat, f.xd.toNat]
def rDmovex : List Nat → Option DmovexF
  | [a0, a1, a2, a3, a4, a5, a6, a7, a8, a9, a10, a11] => some ⟨.ofNat 2 a0, .ofNat 2 a1, .ofNat 18 a2, .ofNat 18 a3, .ofNat 8 a4, .ofNat 6 a5, .ofNat 6 a6, .ofNat 7 a7, .ofNat 4 a8, .ofNat 8 a9, .ofNat 1 a10, .ofNat 1 a11⟩
  | _ => none

/-- Body widths, Table 10-3. -/
def wDremote : List Nat := [3, 18, 8, 8, 7, 6]
def vDremote (f : DremoteF) : List Nat :=
  [f.cch.toNat, f.sadr.toNat, f.rofs.toNat, f.nrows1.toNat, f.cflg.toNat, f.rflg.toNat]
def rDremote : List Nat → Option DremoteF
  | [a0, a1, a2, a3, a4, a5] => some ⟨.ofNat 3 a0, .ofNat 18 a1, .ofNat 8 a2, .ofNat 8 a3, .ofNat 7 a4, .ofNat 6 a5⟩
  | _ => none

/-- Body widths, Table 10-3. -/
def wDcret : List Nat := [3, 3, 8]
def vDcret (f : DcretF) : List Nat :=
  [f.tcore.toNat, f.cch.toNat, f.nrows1.toNat]
def rDcret : List Nat → Option DcretF
  | [a0, a1, a2] => some ⟨.ofNat 3 a0, .ofNat 3 a1, .ofNat 8 a2⟩
  | _ => none

/-- Body widths, Table 10-3. -/
def wDmem : List Nat := [1, 1, 31, 18, 8, 6, 6, 7]
def vDmem (f : DmemF) : List Nat :=
  [f.port.toNat, f.dir.toNat, f.mrow.toNat, f.ladr.toNat, f.nrows1.toNat, f.fmtS.toNat, f.fmtD.toNat, f.cflg.toNat]
def rDmem : List Nat → Option DmemF
  | [a0, a1, a2, a3, a4, a5, a6, a7] => some ⟨.ofNat 1 a0, .ofNat 1 a1, .ofNat 31 a2, .ofNat 18 a3, .ofNat 8 a4, .ofNat 6 a5, .ofNat 6 a6, .ofNat 7 a7⟩
  | _ => none

/-- Body widths, Table 10-3. -/
def wDgather : List Nat := [18, 12, 18, 18, 8, 7]
def vDgather (f : DgatherF) : List Nat :=
  [f.iadr.toNat, f.iofs.toNat, f.sadr.toNat, f.dadr.toNat, f.nrows1.toNat, f.cflg.toNat]
def rDgather : List Nat → Option DgatherF
  | [a0, a1, a2, a3, a4, a5] => some ⟨.ofNat 18 a0, .ofNat 12 a1, .ofNat 18 a2, .ofNat 18 a3, .ofNat 8 a4, .ofNat 7 a5⟩
  | _ => none

/-- The parts of an engine command's word; none for a command that is not of an engine queue. -/
def wordParts : Instr → Option WordParts
  | .nop i _ => some ⟨0, 0, i.hdr, [], []⟩
  | .fset i _ flag dev => some ⟨0, 1, i.hdr, [6, 1], [flag.toNat, dev.toNat]⟩
  | .fclr i _ flag dev => some ⟨0, 2, i.hdr, [6, 1], [flag.toNat, dev.toNat]⟩
  | .fwait i _ flag dev val clr tmo => some ⟨0, 3, i.hdr, [6, 1, 1, 1, 24], [flag.toNat, dev.toNat, val.toNat, clr.toNat, tmo.toNat]⟩
  | .kset i _ k value => some ⟨0, 4, i.hdr, [3, 16], [k.toNat, value.toNat]⟩
  | .kadd i _ k value => some ⟨0, 5, i.hdr, [3, 16], [k.toNat, value.toNat]⟩
  | .cset i _ cmp k cond value => some ⟨0, 6, i.hdr, [2, 3, 3, 16], [cmp.toNat, k.toNat, cond.toNat, value.toNat]⟩
  | .wclaim i _ wct n1 k cmp cen => some ⟨0, 7, i.hdr, [4, 8, 3, 2, 1], [wct.toNat, n1.toNat, k.toNat, cmp.toNat, cen.toNat]⟩
  | .wrst i _ wct limit => some ⟨0, 8, i.hdr, [4, 16], [wct.toNat, limit.toNat]⟩
  | .mm i f => some ⟨1, 0, i.hdr, wMm, vMm f⟩
  | .wfill i f => some ⟨1, 1, i.hdr, wWfill, vWfill f⟩
  | .tload i f => some ⟨1, 2, i.hdr, wTload, vTload f⟩
  | .smix i f => some ⟨2, 0, i.hdr, wSe, vSe f⟩
  | .sout i f => some ⟨2, 1, i.hdr, wSe, vSe f⟩
  | .scarry i f => some ⟨2, 2, i.hdr, wSe, vSe f⟩
  | .vmov i f => some ⟨3, 0, i.hdr, wVArith, vVArith f⟩
  | .vadd i f => some ⟨3, 1, i.hdr, wVArith, vVArith f⟩
  | .vsub i f => some ⟨3, 2, i.hdr, wVArith, vVArith f⟩
  | .vmul i f => some ⟨3, 3, i.hdr, wVArith, vVArith f⟩
  | .vmac i f => some ⟨3, 4, i.hdr, wVArith, vVArith f⟩
  | .vmax i f => some ⟨3, 5, i.hdr, wVArith, vVArith f⟩
  | .vmin i f => some ⟨3, 6, i.hdr, wVArith, vVArith f⟩
  | .vabs i f => some ⟨3, 7, i.hdr, wVArith, vVArith f⟩
  | .vneg i f => some ⟨3, 8, i.hdr, wVArith, vVArith f⟩
  | .vclp i f => some ⟨3, 9, i.hdr, wVArith, vVArith f⟩
  | .vcmp i f => some ⟨3, 10, i.hdr, wVArith, vVArith f⟩
  | .vsel i f => some ⟨3, 11, i.hdr, wVArith, vVArith f⟩
  | .vcrv i f => some ⟨3, 12, i.hdr, wVArith, vVArith f⟩
  | .vconv i f => some ⟨4, 0, i.hdr, wVConv, vVConv f⟩
  | .vrsum i f => some ⟨4, 1, i.hdr, wVRed, vVRed f⟩
  | .vrssq i f => some ⟨4, 2, i.hdr, wVRed, vVRed f⟩
  | .vrmax i f => some ⟨4, 3, i.hdr, wVRed, vVRed f⟩
  | .vld i f => some ⟨4, 4, i.hdr, wVMem, vVMem f⟩
  | .vst i f => some ⟨4, 5, i.hdr, wVMem, vVMem f⟩
  | .vib i f => some ⟨4, 6, i.hdr, wVib, vVib f⟩
  | .vft i f => some ⟨4, 7, i.hdr, wVft, vVft f⟩
  | .vtopk i f => some ⟨4, 8, i.hdr, wVTopk, vVTopk f⟩
  | .vwadd i f => some ⟨4, 9, i.hdr, wVWadd, vVWadd f⟩
  | .vctl i f => some ⟨4, 10, i.hdr, wVCtl, vVCtl f⟩
  | .dmove i f => some ⟨5, 0, i.hdr, wDmove, vDmove f⟩
  | .dmovex i f => some ⟨5, 1, i.hdr, wDmovex, vDmovex f⟩
  | .dremote i f => some ⟨5, 2, i.hdr, wDremote, vDremote f⟩
  | .dcret i f => some ⟨5, 3, i.hdr, wDcret, vDcret f⟩
  | .dmem i f => some ⟨5, 4, i.hdr, wDmem, vDmem f⟩
  | .dgather i f => some ⟨5, 5, i.hdr, wDgather, vDgather f⟩
  | _ => none

/-- The queue an engine command stands in (Table 10-2); none for a command that is not of an engine queue. -/
def queueOf : Instr → Option Queue
  | .nop _ q => some q
  | .fset _ q _ _ => some q
  | .fclr _ q _ _ => some q
  | .fwait _ q _ _ _ _ _ => some q
  | .kset _ q _ _ => some q
  | .kadd _ q _ _ => some q
  | .cset _ q _ _ _ _ => some q
  | .wclaim _ q _ _ _ _ _ => some q
  | .wrst _ q _ _ => some q
  | .mm _ _ => some .me
  | .wfill _ _ => some .me
  | .tload _ _ => some .me
  | .smix _ _ => some .se
  | .sout _ _ => some .se
  | .scarry _ _ => some .se
  | .vmov _ _ => some .ve
  | .vadd _ _ => some .ve
  | .vsub _ _ => some .ve
  | .vmul _ _ => some .ve
  | .vmac _ _ => some .ve
  | .vmax _ _ => some .ve
  | .vmin _ _ => some .ve
  | .vabs _ _ => some .ve
  | .vneg _ _ => some .ve
  | .vclp _ _ => some .ve
  | .vcmp _ _ => some .ve
  | .vsel _ _ => some .ve
  | .vcrv _ _ => some .ve
  | .vconv _ _ => some .ve
  | .vrsum _ _ => some .ve
  | .vrssq _ _ => some .ve
  | .vrmax _ _ => some .ve
  | .vld _ _ => some .ve
  | .vst _ _ => some .ve
  | .vib _ _ => some .ve
  | .vft _ _ => some .ve
  | .vtopk _ _ => some .ve
  | .vwadd _ _ => some .ve
  | .vctl _ _ => some .ve
  | .dmove _ _ => some .de
  | .dmovex _ _ => some .de
  | .dremote _ _ => some .de
  | .dcret _ _ => some .de
  | .dmem _ _ => some .de
  | .dgather _ _ => some .de
  | _ => none

/-- The issue record of an engine command. -/
def issOf : Instr → Option Iss
  | .nop i _ => some i
  | .fset i _ _ _ => some i
  | .fclr i _ _ _ => some i
  | .fwait i _ _ _ _ _ _ => some i
  | .kset i _ _ _ => some i
  | .kadd i _ _ _ => some i
  | .cset i _ _ _ _ _ => some i
  | .wclaim i _ _ _ _ _ _ => some i
  | .wrst i _ _ _ => some i
  | .mm i _ => some i
  | .wfill i _ => some i
  | .tload i _ => some i
  | .smix i _ => some i
  | .sout i _ => some i
  | .scarry i _ => some i
  | .vmov i _ => some i
  | .vadd i _ => some i
  | .vsub i _ => some i
  | .vmul i _ => some i
  | .vmac i _ => some i
  | .vmax i _ => some i
  | .vmin i _ => some i
  | .vabs i _ => some i
  | .vneg i _ => some i
  | .vclp i _ => some i
  | .vcmp i _ => some i
  | .vsel i _ => some i
  | .vcrv i _ => some i
  | .vconv i _ => some i
  | .vrsum i _ => some i
  | .vrssq i _ => some i
  | .vrmax i _ => some i
  | .vld i _ => some i
  | .vst i _ => some i
  | .vib i _ => some i
  | .vft i _ => some i
  | .vtopk i _ => some i
  | .vwadd i _ => some i
  | .vctl i _ => some i
  | .dmove i _ => some i
  | .dmovex i _ => some i
  | .dremote i _ => some i
  | .dcret i _ => some i
  | .dmem i _ => some i
  | .dgather i _ => some i
  | _ => none

/-- The word's value from its parts. -/
def wordOf (p : WordParts) : Nat :=
  packFields ((hdrWidths ++ p.widths).zip (hdrValues p.hdr p.grp p.op ++ p.values))

/-- The command word of an engine command (R227, R228). -/
def encodeCmd (c : Instr) : Option CmdWord := (wordParts c).map (fun p => BitVec.ofNat 128 (wordOf p))

/-- The header read from the first 35 bits, with GRP and OP. -/
def readHdr (n : Nat) : Option (Nat × Nat × Hdr) :=
  match unpackFields hdrWidths n with
  | [d, o, g, m, r, p, v] => some (g, o, ⟨.ofNat 16 d, .ofNat 6 m, r != 0, .ofNat 3 p, v != 0⟩)
  | _ => none

/-- The body fields; none when a bit above the last field is set (R228). -/
def readBody (ws : List Nat) (n : Nat) : Option (List Nat) :=
  if n / 2 ^ (35 + ws.sum) = 0 then some (unpackFields ws (n / 2 ^ 35)) else none

def rCtlNop (i : Iss) (q : Queue) : List Nat → Option Instr
  | [] => some (.nop i q)
  | _ => none
def rCtlFset (i : Iss) (q : Queue) : List Nat → Option Instr
  | [a0, a1] => some (.fset i q (.ofNat 6 a0) (a1 != 0))
  | _ => none
def rCtlFclr (i : Iss) (q : Queue) : List Nat → Option Instr
  | [a0, a1] => some (.fclr i q (.ofNat 6 a0) (a1 != 0))
  | _ => none
def rCtlFwait (i : Iss) (q : Queue) : List Nat → Option Instr
  | [a0, a1, a2, a3, a4] => some (.fwait i q (.ofNat 6 a0) (a1 != 0) (a2 != 0) (a3 != 0) (.ofNat 24 a4))
  | _ => none
def rCtlKset (i : Iss) (q : Queue) : List Nat → Option Instr
  | [a0, a1] => some (.kset i q (.ofNat 3 a0) (.ofNat 16 a1))
  | _ => none
def rCtlKadd (i : Iss) (q : Queue) : List Nat → Option Instr
  | [a0, a1] => some (.kadd i q (.ofNat 3 a0) (.ofNat 16 a1))
  | _ => none
def rCtlCset (i : Iss) (q : Queue) : List Nat → Option Instr
  | [a0, a1, a2, a3] => some (.cset i q (.ofNat 2 a0) (.ofNat 3 a1) (.ofNat 3 a2) (.ofNat 16 a3))
  | _ => none
def rCtlWclaim (i : Iss) (q : Queue) : List Nat → Option Instr
  | [a0, a1, a2, a3, a4] => some (.wclaim i q (.ofNat 4 a0) (.ofNat 8 a1) (.ofNat 3 a2) (.ofNat 2 a3) (a4 != 0))
  | _ => none
def rCtlWrst (i : Iss) (q : Queue) : List Nat → Option Instr
  | [a0, a1] => some (.wrst i q (.ofNat 4 a0) (.ofNat 16 a1))
  | _ => none

/-- A command word read back, for a queue, a core and a packet (R224, R228); none for a reserved group or operation, a
command of another queue, or a set bit above the last field. -/
def decodeCmd (core : BitVec 3) (pkt : Nat) (q : Queue) (w : CmdWord) : Option Instr :=
  match readHdr w.toNat with
  | none => none
  | some (g, o, h) =>
    let i : Iss := ⟨core, h, pkt⟩
    let b := fun ws => readBody ws w.toNat
    match g, o, q with
    | 0, 0, _ => (b []).bind (rCtlNop i q)
    | 0, 1, _ => (b [6, 1]).bind (rCtlFset i q)
    | 0, 2, _ => (b [6, 1]).bind (rCtlFclr i q)
    | 0, 3, _ => (b [6, 1, 1, 1, 24]).bind (rCtlFwait i q)
    | 0, 4, _ => (b [3, 16]).bind (rCtlKset i q)
    | 0, 5, _ => (b [3, 16]).bind (rCtlKadd i q)
    | 0, 6, _ => (b [2, 3, 3, 16]).bind (rCtlCset i q)
    | 0, 7, _ => (b [4, 8, 3, 2, 1]).bind (rCtlWclaim i q)
    | 0, 8, _ => (b [4, 16]).bind (rCtlWrst i q)
    | 1, 0, .me => ((b wMm).bind rMm).map (fun f => .mm i f)
    | 1, 1, .me => ((b wWfill).bind rWfill).map (fun f => .wfill i f)
    | 1, 2, .me => ((b wTload).bind rTload).map (fun f => .tload i f)
    | 2, 0, .se => ((b wSe).bind rSe).map (fun f => .smix i f)
    | 2, 1, .se => ((b wSe).bind rSe).map (fun f => .sout i f)
    | 2, 2, .se => ((b wSe).bind rSe).map (fun f => .scarry i f)
    | 3, 0, .ve => ((b wVArith).bind rVArith).map (fun f => .vmov i f)
    | 3, 1, .ve => ((b wVArith).bind rVArith).map (fun f => .vadd i f)
    | 3, 2, .ve => ((b wVArith).bind rVArith).map (fun f => .vsub i f)
    | 3, 3, .ve => ((b wVArith).bind rVArith).map (fun f => .vmul i f)
    | 3, 4, .ve => ((b wVArith).bind rVArith).map (fun f => .vmac i f)
    | 3, 5, .ve => ((b wVArith).bind rVArith).map (fun f => .vmax i f)
    | 3, 6, .ve => ((b wVArith).bind rVArith).map (fun f => .vmin i f)
    | 3, 7, .ve => ((b wVArith).bind rVArith).map (fun f => .vabs i f)
    | 3, 8, .ve => ((b wVArith).bind rVArith).map (fun f => .vneg i f)
    | 3, 9, .ve => ((b wVArith).bind rVArith).map (fun f => .vclp i f)
    | 3, 10, .ve => ((b wVArith).bind rVArith).map (fun f => .vcmp i f)
    | 3, 11, .ve => ((b wVArith).bind rVArith).map (fun f => .vsel i f)
    | 3, 12, .ve => ((b wVArith).bind rVArith).map (fun f => .vcrv i f)
    | 4, 0, .ve => ((b wVConv).bind rVConv).map (fun f => .vconv i f)
    | 4, 1, .ve => ((b wVRed).bind rVRed).map (fun f => .vrsum i f)
    | 4, 2, .ve => ((b wVRed).bind rVRed).map (fun f => .vrssq i f)
    | 4, 3, .ve => ((b wVRed).bind rVRed).map (fun f => .vrmax i f)
    | 4, 4, .ve => ((b wVMem).bind rVMem).map (fun f => .vld i f)
    | 4, 5, .ve => ((b wVMem).bind rVMem).map (fun f => .vst i f)
    | 4, 6, .ve => ((b wVib).bind rVib).map (fun f => .vib i f)
    | 4, 7, .ve => ((b wVft).bind rVft).map (fun f => .vft i f)
    | 4, 8, .ve => ((b wVTopk).bind rVTopk).map (fun f => .vtopk i f)
    | 4, 9, .ve => ((b wVWadd).bind rVWadd).map (fun f => .vwadd i f)
    | 4, 10, .ve => ((b wVCtl).bind rVCtl).map (fun f => .vctl i f)
    | 5, 0, .de => ((b wDmove).bind rDmove).map (fun f => .dmove i f)
    | 5, 1, .de => ((b wDmovex).bind rDmovex).map (fun f => .dmovex i f)
    | 5, 2, .de => ((b wDremote).bind rDremote).map (fun f => .dremote i f)
    | 5, 3, .de => ((b wDcret).bind rDcret).map (fun f => .dcret i f)
    | 5, 4, .de => ((b wDmem).bind rDmem).map (fun f => .dmem i f)
    | 5, 5, .de => ((b wDgather).bind rDgather).map (fun f => .dgather i f)
    | _, _, _ => none

end Sys2Proof.Machine
end

