-- ==== Sys2Proof/Config.lean ====
section
/-!
DEFINITION. Config: what an implementation fixes and the spec leaves open, and the free values: constants without a
body, so that no proof can see what they are (DESIGN CHOICE, log 10). A free value is applied to the state's counter of free values.
-/
namespace Sys2Proof.Config

/-- The bytes an engine reads from an uncorrectable granule (09_scratchpads Table 9-3), and every other byte the spec
calls undefined. -/
opaque freeByte : Nat → BitVec 8

/-- The three words of an accumulator entry that no command of the tick has written (05_matrix_engine R116), in the order of R92. -/
opaque freeAcc : Nat → BitVec 96

/-- The nine SECDED check bits of an A-class granule over its data and its address tag (09_scratchpads Table 9-2): the code matrix is
not in the spec. -/
opaque eccSecded : (data : BitVec 128) → (tag : BitVec 8) → BitVec 9

/-- The seventeen DEC-TED check bits of a W-class granule over its data and its granule address (Table 9-2): the code matrix is not in
the spec. -/
opaque eccDected : (data : BitVec 128) → (granule : BitVec 23) → BitVec 17

/-- SHA-256 (19_power_clocks_identity). The spec names the function and does not define it. -/
opaque sha256 : List (BitVec 8) → BitVec 256

/-- An ECDSA P-256 signature by the device key over a message (R391). -/
opaque deviceSignature : List (BitVec 8) → BitVec 512

/-- A word of 32 bits the spec leaves open. -/
opaque freeWord : Nat → BitVec 32

/-- The device certificate and the Virell Device CA certificate in DER (R390): the template is in the boot ROM, not in the spec. -/
opaque certificates : (uid : BitVec 128) → (notBefore : BitVec 32) → (sig : BitVec 512) → List (BitVec 8)

/-- Whether an MPU region of the Orchard view, given by base and size in bytes, names only dispatch-record rows and error-report
rows (R326): the spec places neither at boot. -/
opaque cpRowsNamed : (base : Nat) → (size : Nat) → Bool

end Sys2Proof.Config
end

