-- ==== Sys2Proof/Machine/Num.lean ====
section
/-!
DEFINITION. Machine/Num: the eight storage formats (03_number_formats): the decoded form, loads, shared scales,
expansion, the store conversion with its flags, and scale on store. No state.
-/
namespace Sys2Proof.Machine

/-- FMT, Table 3-3. -/
inductive Fmt where
  | i4 | i8 | i16 | i32 | m4 | m8v | m8g | f32
deriving DecidableEq, Repr

/-- The classes of R59 and of Table 4-1; a load gives only finite, posInf, negInf and nan. -/
inductive Cls where
  | finite | satPos | satNeg | posInf | negInf | nan
deriving DecidableEq, Repr

/-- A decoded value (R59): sig × 2^exp when finite. -/
structure Dec where
  cls : Cls
  sig : Int
  exp : Int
deriving DecidableEq, Repr

/-- The four sticky flags one operation raises (R99). -/
structure NFlags where
  ovf : Bool
  unf : Bool
  inx : Bool
  inv : Bool
deriving DecidableEq, Repr

/-- EXP, Table 3-3. -/
inductive Expand where
  | none | table | zero
deriving DecidableEq, Repr

/-- The operand format field, Table 3-3. `blk` is the code 0 to 7, `dirN` sharing along N, `smode` scale on store. -/
structure OpFmt where
  fmt : Fmt
  sym : Bool
  blk : BitVec 3
  dirN : Bool
  expand : Expand
  smode : Bool
deriving DecidableEq, Repr

/-! ### Flags -/

/-- No flag. -/
def NFlags.none : NFlags := ⟨false, false, false, false⟩

/-- The union of two flag sets (R99: a flag once set stays set). -/
def NFlags.or (a b : NFlags) : NFlags := ⟨a.ovf || b.ovf, a.unf || b.unf, a.inx || b.inx, a.inv || b.inv⟩

/-- The union over a list. -/
def flagsAll (l : List NFlags) : NFlags := l.foldl NFlags.or NFlags.none

/-- The flags as the nibble of Table 4-3: OVF bit 0, UNF bit 1, INX bit 2, INV bit 3. -/
def NFlags.bits (f : NFlags) : BitVec 4 :=
  BitVec.ofBool f.inv ++ BitVec.ofBool f.inx ++ BitVec.ofBool f.unf ++ BitVec.ofBool f.ovf

/-! ### Integer helpers -/

/-- rne(n / 2^k): to the nearest integer, halves to even (R2). -/
def rneShift (n : Int) (k : Nat) : Int :=
  let d : Int := 2 ^ k
  let f := n / d
  let r := n % d
  if 2 * r < d then f else if d < 2 * r then f + 1 else if f % 2 = 0 then f else f + 1

/-- rne(n × 2^e). -/
def rneScale (n e : Int) : Int :=
  if 0 ≤ e then n * 2 ^ e.toNat else rneShift n (-e).toNat

/-- n × 2^e is an integer. -/
def isIntScale (n e : Int) : Bool :=
  if 0 ≤ e then true else n % (2 ^ (-e).toNat) == 0

/-- floor(n × 2^e). -/
def floorScale (n e : Int) : Int :=
  if 0 ≤ e then n * 2 ^ e.toNat else n / (2 ^ (-e).toNat)

/-- The two's-complement value of the low n bits of v. -/
def signedOf (n : Nat) (v : Nat) : Int := (BitVec.ofNat n v).toInt

/-- The n-bit two's-complement code of v. -/
def codeOf (n : Nat) (v : Int) : Nat := (BitVec.ofInt n v).toNat

/-- v clamped to lo..hi. -/
def clampInt (lo hi v : Int) : Int := if v < lo then lo else if hi < v then hi else v

/-! ### Formats -/

/-- Bits of one element (R58). -/
def Fmt.bits : Fmt → Nat
  | .i4 => 4 | .m4 => 4 | .i8 => 8 | .m8v => 8 | .m8g => 8 | .i16 => 16 | .i32 => 32 | .f32 => 32

/-- Elements in a row of 512 bytes (R58). -/
def Fmt.perRow (f : Fmt) : Nat := 4096 / f.bits

def Fmt.isInt : Fmt → Bool
  | .i4 => true | .i8 => true | .i16 => true | .i32 => true | _ => false

def Fmt.ofCode : BitVec 3 → Fmt
  | 0 => .i4 | 1 => .i8 | 2 => .i16 | 3 => .i32 | 4 => .m4 | 5 => .m8v | 6 => .m8g | _ => .f32

/-- The 12-bit operand format field (Table 3-3); `none` for a reserved BLK or EXP code (R71). -/
def OpFmt.ofField (v : BitVec 12) : Option OpFmt :=
  let blk := v.extractLsb' 4 3
  let exp := v.extractLsb' 8 2
  if blk = 7 ∨ exp = 3 then none else
  some { fmt := Fmt.ofCode (v.extractLsb' 0 3), sym := v.getLsbD 3, blk := blk, dirN := v.getLsbD 7,
         expand := if exp = 1 then .table else if exp = 2 then .zero else .none, smode := v.getLsbD 10 }

/-- The combinations R71 refuses for any operand; `store`: the operand is stored, `me`: it is bound for the ME. The
whole-row rule depends on the operand's layout and is not decided here. -/
def OpFmt.legal (o : OpFmt) (store me : Bool) : Bool :=
  !(o.sym && !o.fmt.isInt) &&
  !(o.expand == .table && o.fmt != .i4) &&
  !(o.expand == .zero && (!(o.fmt == .i4 || o.fmt == .i8) || o.blk == 0)) &&
  !(o.blk != 0 && o.fmt == .f32) &&
  !(o.expand != .none && (store || !me))

/-- The plain format: no symmetric option, scale or expansion. -/
def OpFmt.plain (f : Fmt) : OpFmt := ⟨f, false, 0, false, .none, false⟩

/-- Elements in one block along the shared dimension, `row` being the elements of the operand in one row (R67);
0 when there is no shared scale. -/
def OpFmt.block (o : OpFmt) (row : Nat) : Nat :=
  match o.blk with
  | 1 => 8 | 2 => 16 | 3 => 32 | 4 => 64 | 5 => 128 | 6 => row | _ => 0

/-- (e, m, b) and the code of the largest finite magnitude of a float format (R61 to R64, Table 3-2). -/
def Fmt.params : Fmt → Nat × Nat × Int × Nat
  | .m4 => (2, 1, 1, 0x7)
  | .m8v => (4, 3, 7, 0x7E)
  | .m8g => (5, 2, 15, 0x7B)
  | _ => (8, 23, 127, 0x7F7FFFFF)

/-! ### Loads -/

def Dec.zero : Dec := ⟨.finite, 0, 0⟩

/-- The negated value: of a finite value and of a signed class. -/
def Dec.neg (d : Dec) : Dec :=
  { d with cls := (match d.cls with | .posInf => .negInf | .negInf => .posInf | .satPos => .satNeg | .satNeg => .satPos | x => x),
           sig := -d.sig }

/-- Of a finite value only the significand changes. -/
@[simp] theorem Dec.neg_finite (s e : Int) : Dec.neg ⟨.finite, s, e⟩ = ⟨.finite, -s, e⟩ := rfl
def Dec.nan : Dec := ⟨.nan, 0, 0⟩
/-- A finite decoded value. -/
def Dec.fin (sig exp : Int) : Dec := ⟨.finite, sig, exp⟩

/-- The class of a float code that is not finite (R61 to R64). -/
def specialOf (f : Fmt) (code : Nat) : Option Cls :=
  match f with
  | .m4 => if code = 8 then some .nan else none
  | .m8v => if code % 128 = 127 then some .nan else none
  | .m8g => if code % 128 < 0x7C then none else if code = 0x7C then some .posInf else if code = 0xFC then some .negInf
            else some .nan
  | .f32 => if code % 0x80000000 < 0x7F800000 then none else if code = 0x7F800000 then some .posInf
            else if code = 0xFF800000 then some .negInf else some .nan
  | _ => none

/-- The load of one element code with exponent q (R59 to R65). -/
def decodeElem (f : Fmt) (sym : Bool) (code : Nat) (q : Int) : Dec :=
  if f.isInt then
    if sym && code == 2 ^ (f.bits - 1) then .nan else .fin (signedOf f.bits code) q
  else
    match specialOf f code with
    | some c => ⟨c, 0, 0⟩
    | none =>
      let p := f.params
      let m := p.2.1
      let e := (code >>> m) % 2 ^ p.1
      let man := code % 2 ^ m
      let mag : Nat := if e = 0 then man else 2 ^ m + man
      let s : Int := if code >>> (f.bits - 1) = 1 then -(mag : Int) else mag
      .fin s ((max e 1 : Nat) - p.2.2.1 - m + q)

/-- The exponent a scale byte gives; none: a poisoned block (R66). -/
def scaleExp (s : Byte) : Option Int := if s = 0xFF then none else some (s.toNat - 127)

/-- A load with the scale byte of its block, when it has one, and the fixed exponent fq; a poisoned block gives NAN and
INV (R60, R66). -/
def loadElem (o : OpFmt) (code : Nat) (scale : Option Byte) (fq : Int) : Dec × Bool :=
  match scale with
  | none => (decodeElem o.fmt o.sym code fq, false)
  | some s =>
    match scaleExp s with
    | none => (.nan, true)
    | some q => (decodeElem o.fmt o.sym code (q + fq), false)

/-- The load of an element bound for the ME with its expansion (R69, R70): `tab` is the expansion table, `z` the zero
point of the block. -/
def loadMe (o : OpFmt) (code : Nat) (scale : Option Byte) (z : Byte) (tab : Nat → Int) (fq : Int) : Dec × Bool :=
  match scale.map scaleExp with
  | some none => (.nan, true)
  | sc =>
    let q : Int := match sc with | some (some q) => q + fq | _ => fq
    match o.expand with
    | .none => (decodeElem o.fmt o.sym code q, false)
    | .table => (.fin (tab code) q, false)
    | .zero =>
      let d := decodeElem o.fmt o.sym code q
      (match d.cls with | .finite => .fin (d.sig - z.toInt) q | _ => d, false)

/-! ### Stores -/

/-- Bounds of an integer destination (R73). -/
def intBounds (n : Nat) (sym : Bool) : Int × Int :=
  let hi : Int := 2 ^ (n - 1) - 1
  (if sym then -hi else -hi - 1, hi)

/-- The store of a finite value to an integer of n bits in units of 2^q (R72, R73, R76). -/
def storeInt (n : Nat) (sym : Bool) (sig exp q : Int) : Nat × NFlags :=
  let v := rneScale sig (exp - q)
  let b := intBounds n sym
  let c := clampInt b.1 b.2 v
  let outside := c != v
  (codeOf n c, { ovf := outside, unf := !outside && sig != 0 && v == 0,
                 inx := outside || !isIntScale sig (exp - q), inv := false })

/-- The store of a finite value to a float format in units of 2^q (R72, R74, R76). -/
def storeFloat (f : Fmt) (sig exp q : Int) : Nat × NFlags :=
  if sig = 0 then (0, .none) else
  let p := f.params
  let m := p.2.1
  let b := p.2.2.1
  let x := sig.natAbs
  let ex := exp - q
  let h : Int := (x.log2 : Int) + ex
  let u := max (h - m) (1 - b - m)
  let r := rneScale x (ex - u)
  let exact := isIntScale x (ex - u)
  let code := (((u + b + m - 1) * 2 ^ m) + r).toNat
  let sgn := if sig < 0 then 2 ^ (f.bits - 1) else 0
  if p.2.2.2 < code then
    ((if f = .f32 then 0x7F800000 else p.2.2.2) + sgn, { ovf := true, unf := false, inx := true, inv := false })
  else
    (if code = 0 then 0 else code + sgn,
      { ovf := false, unf := !exact && h < 1 - b, inx := !exact, inv := false })

/-- The code of the destination's largest finite value, negative when `neg` (R94). -/
def maxCode (f : Fmt) (sym neg : Bool) : Nat :=
  if f.isInt then
    let b := intBounds f.bits sym
    codeOf f.bits (if neg then b.1 else b.2)
  else f.params.2.2.2 + (if neg then 2 ^ (f.bits - 1) else 0)

/-- The stores of NaN, infinities and saturated values (Table 3-4, R94). -/
def storeSpecial (f : Fmt) (sym : Bool) (c : Cls) : Nat × NFlags :=
  let bound (neg : Bool) : Nat × NFlags := (maxCode f sym neg, { ovf := true, unf := false, inx := true, inv := false })
  match c with
  | .finite => (0, .none)
  | .satPos => bound false
  | .satNeg => bound true
  | .nan =>
    match f with
    | .f32 => (0x7FC00000, .none)
    | .m8g => (0x7F, .none)
    | .m8v => (0x7F, .none)
    | .m4 => (8, .none)
    | _ => if sym then (2 ^ (f.bits - 1), .none) else (0, { NFlags.none with inv := true })
  | .posInf =>
    match f with
    | .f32 => (0x7F800000, .none)
    | .m8g => (0x7C, .none)
    | _ => bound false
  | .negInf =>
    match f with
    | .f32 => (0xFF800000, .none)
    | .m8g => (0xFC, .none)
    | _ => bound true

/-- The store conversion (R72 to R76) in units of 2^q. -/
def storeElem (f : Fmt) (sym : Bool) (d : Dec) (q : Int) : Nat × NFlags :=
  match d.cls with
  | .finite => if f.isInt then storeInt f.bits sym d.sig d.exp q else storeFloat f d.sig d.exp q
  | c => storeSpecial f sym c

/-- G of R77. -/
def Fmt.scaleG : Fmt → Int
  | .i4 => 2 | .m4 => 2 | .i8 => 6 | .i16 => 14 | .i32 => 30 | .m8v => 8 | _ => 15

/-- floor(log2 |value|) of a finite non-zero decoded value (R77). -/
def Dec.topBit (d : Dec) : Int := (d.sig.natAbs.log2 : Int) + d.exp

/-- The scale byte R77 chooses for a block under the fixed exponent fq, so that amax / 2^q lies in [2^G, 2^(G+1)) (DEDUCED, log 14); 255: the
block is poisoned (R78). -/
def chooseScale (f : Fmt) (fq : Int) (ds : List Dec) : Nat :=
  let tops := (ds.filter (fun d => d.cls == .finite && d.sig != 0)).map Dec.topBit
  match tops with
  | [] => 0x7F
  | t :: ts => (min 255 (max 0 (127 + ts.foldl max t - fq - f.scaleG))).toNat

/-- The exponent of a block whose scale byte is s, the fixed exponent added (R60). -/
def blockExp (fq : Int) (s : Byte) : Int := (s.toNat : Int) - 127 + fq

/-- The scale byte of a block (R77, R78); 0xFF: the block is poisoned. -/
def blockScale (o : OpFmt) (fixs : Byte) (fq : Int) (ds : List Dec) : Byte :=
  if o.smode then BitVec.ofNat 8 (chooseScale o.fmt fq ds) else fixs

/-- The elements of one block of scale s, each with its flags (R77, R78). A poisoned block sets OVF and no other flag (DEDUCED, log 132). -/
def blockElems (o : OpFmt) (fq : Int) (s : Byte) (ds : List Dec) : List (Nat × NFlags) :=
  if s = 0xFF then ds.map (fun _ => (0, { NFlags.none with ovf := true }))
  else ds.map (fun d =>
    let r := storeElem o.fmt o.sym d (blockExp fq s)
    if o.smode && d.cls == .finite then (r.1, { r.2 with ovf := false }) else r)

/-- The store of one block (R77, R78): codes, flags and scale byte. `fixs` is FIXS. -/
def storeBlock (o : OpFmt) (fixs : Byte) (fq : Int) (ds : List Dec) : List Nat × NFlags × Byte :=
  let s := blockScale o fixs fq ds
  let rs := blockElems o fq s ds
  (rs.map (fun r => r.1), flagsAll (rs.map (fun r => r.2)), s)

/-- The exact value of a stored code under exponent q, as a decoded value (used by R95 for the residual). -/
def valueOf (f : Fmt) (sym : Bool) (code : Nat) (q : Int) : Dec := decodeElem f sym code q

/-! ### Packing (R58) -/

/-- Little-endian value of a list of bytes (R5). -/
def leNat : List Byte → Nat
  | [] => 0
  | b :: bs => b.toNat + 256 * leNat bs

/-- The n low bytes of v, little-endian. -/
def leBytes : Nat → Nat → List Byte
  | 0, _ => []
  | n + 1, v => BitVec.ofNat 8 v :: leBytes n (v / 256)

/-- Element i of a byte string read through `rd` (R58). -/
def elemAt (bits : Nat) (rd : Nat → Byte) (i : Nat) : Nat :=
  if bits = 4 then
    let b := (rd (i / 2)).toNat
    if i % 2 = 0 then b % 16 else b / 16
  else leNat ((List.range (bits / 8)).map (fun j => rd (i * (bits / 8) + j)))

/-- The bytes of a list of 4-bit codes; an odd last code leaves the upper half 0. -/
def packNibbles : List Nat → List Byte
  | [] => []
  | [a] => [BitVec.ofNat 8 (a % 16)]
  | a :: b :: r => BitVec.ofNat 8 (a % 16 + 16 * (b % 16)) :: packNibbles r

/-- The bytes of element codes packed with no padding (R58). -/
def packCodes (bits : Nat) (cs : List Nat) : List Byte :=
  if bits = 4 then packNibbles cs else cs.flatMap (fun c => leBytes (bits / 8) c)

end Sys2Proof.Machine
end

