-- ==== Sys2Proof/Machine/Accum.lean ====
section
/-!
DEFINITION. Machine/Accum: the A88 accumulator format (04_accumulation): products, sums, the end check, write-out, the
full-width load, the compensated pair and the wide add. No state.
-/
namespace Sys2Proof.Machine

/-- An A88 value (R81): class and the signed 88-bit W. -/
structure A88 where
  cls : Cls
  w : Int
deriving DecidableEq, Repr

/-- What has reached an entry while an instruction runs: which classes, and the exact finite sum (R88, R89). -/
structure Sum where
  nan : Bool
  pinf : Bool
  ninf : Bool
  spos : Bool
  sneg : Bool
  total : Int
deriving DecidableEq, Repr

/-- The entry an accumulation starts from with ACC_ADD at 0 (R87). -/
def A88.zero : A88 := ⟨.finite, 0⟩

def a88Max : Int := 2 ^ 87 - 1
def a88Min : Int := -(2 ^ 87)

/-- The value of a class with its forced W (Table 4-1). -/
def A88.ofCls (c : Cls) : A88 :=
  ⟨c, match c with | .satPos => a88Max | .satNeg => a88Min | _ => 0⟩

def Cls.code : Cls → Nat
  | .finite => 0 | .satPos => 1 | .satNeg => 2 | .posInf => 3 | .negInf => 4 | .nan => 7

/-- The class of a code of Table 4-1; none for 5 and 6. -/
def Cls.ofCode (c : Nat) : Option Cls :=
  match c with
  | 0 => some .finite | 1 => some .satPos | 2 => some .satNeg | 3 => some .posInf | 4 => some .negInf | 7 => some .nan
  | _ => none

def Dec.isNeg (d : Dec) : Bool := d.cls == .negInf || d.cls == .satNeg || (d.cls == .finite && d.sig < 0)
def Dec.isZero (d : Dec) : Bool := d.cls == .finite && d.sig == 0
def Dec.isInf (d : Dec) : Bool := d.cls == .posInf || d.cls == .negInf

/-- The exact product of two decoded values and whether it sets INV (R84). -/
def mulDec (a b : Dec) : Dec × Bool :=
  if a.cls = .nan ∨ b.cls = .nan then (.nan, false)
  else if a.isInf || b.isInf then
    if a.isZero || b.isZero then (.nan, true)
    else (⟨if a.isNeg == b.isNeg then .posInf else .negInf, 0, 0⟩, false)
  else (.fin (a.sig * b.sig) (a.exp + b.exp), false)

/-- A term entering an accumulator of exponent e: rounded once to units of 2^(e−24), with its flags (R85, R86). -/
def termOf (d : Dec) (e : Int) : A88 × NFlags :=
  match d.cls with
  | .finite =>
    let p := rneScale d.sig (d.exp - (e - 24))
    let exact := isIntScale d.sig (d.exp - (e - 24))
    if a88Max < p then (A88.ofCls .satPos, { ovf := true, unf := false, inx := true, inv := false })
    else if p < a88Min then (A88.ofCls .satNeg, { ovf := true, unf := false, inx := true, inv := false })
    else (⟨.finite, p⟩, { ovf := false, unf := d.sig != 0 && p == 0, inx := !exact, inv := false })
  | c => (A88.ofCls c, .none)

/-- The product of two loads as a term (R84 to R86). -/
def prodTerm (a b : Dec) (e : Int) : A88 × NFlags :=
  let p := mulDec a b
  let t := termOf p.1 e
  (t.1, { t.2 with inv := p.2 })

def Sum.start : Sum := ⟨false, false, false, false, false, 0⟩

/-- One value joins the sum (R88, R89). -/
def Sum.add (s : Sum) (v : A88) : Sum :=
  match v.cls with
  | .finite => { s with total := s.total + v.w }
  | .nan => { s with nan := true }
  | .posInf => { s with pinf := true }
  | .negInf => { s with ninf := true }
  | .satPos => { s with spos := true }
  | .satNeg => { s with sneg := true }

/-- The entry's final value and flags: R89's class, R90's single window check. -/
def Sum.finish (s : Sum) : A88 × NFlags :=
  if s.nan then (A88.ofCls .nan, .none)
  else if s.pinf && s.ninf then (A88.ofCls .nan, { NFlags.none with inv := true })
  else if s.pinf then (A88.ofCls .posInf, .none)
  else if s.ninf then (A88.ofCls .negInf, .none)
  else if s.spos && s.sneg then (A88.ofCls .nan, { NFlags.none with inv := true })
  else if s.spos then (A88.ofCls .satPos, .none)
  else if s.sneg then (A88.ofCls .satNeg, .none)
  else if a88Max < s.total then (A88.ofCls .satPos, { ovf := true, unf := false, inx := true, inv := false })
  else if s.total < a88Min then (A88.ofCls .satNeg, { ovf := true, unf := false, inx := true, inv := false })
  else (⟨.finite, s.total⟩, .none)

/-- Sum of values with their flags already raised: R89, R90. -/
def a88Sum (vs : List A88) : A88 × NFlags := (vs.foldl Sum.add Sum.start).finish

/-- A dot product into one entry: start value, then the products in K order (R87 to R90). -/
def dotEntry (start : A88) (ps : List (Dec × Dec)) (e : Int) : A88 × NFlags :=
  let r := ps.foldl (fun (acc : Sum × NFlags) ab =>
    let t := prodTerm ab.1 ab.2 e
    (acc.1.add t.1, acc.2.or t.2)) (Sum.start.add start, NFlags.none)
  let f := r.1.finish
  (f.1, r.2.or f.2)

/-- The wide add of 2 to 8 operands (R96). -/
def wideAdd (vs : List A88) : A88 × NFlags := a88Sum vs

/-- The three words of an A88 value (R92). -/
def A88.words (v : A88) : List Nat :=
  let u := codeOf 88 v.w
  [(u / 2 ^ 24) % 2 ^ 32, u / 2 ^ 56, u % 2 ^ 24 + v.cls.code * 2 ^ 24]

/-- The full-width load of three words (R93); the Bool is INV. -/
def A88.ofWords (w0 w1 w2 : Nat) : A88 × Bool :=
  match Cls.ofCode ((w2 / 2 ^ 24) % 8) with
  | none => (A88.ofCls .nan, true)
  | some .finite => (⟨.finite, signedOf 88 (w1 % 2 ^ 32 * 2 ^ 56 + w0 % 2 ^ 32 * 2 ^ 24 + w2 % 2 ^ 24)⟩, false)
  | some c => (A88.ofCls c, false)

/-- The decoded form in which an A88 value of exponent e enters the store path (R94). -/
def A88.toDec (v : A88) (e : Int) : Dec :=
  match v.cls with
  | .finite => .fin v.w (e - 24)
  | c => ⟨c, 0, 0⟩

/-- a − b of two finite decoded values, exact. -/
def subExact (a b : Dec) : Dec :=
  let x := min a.exp b.exp
  .fin (a.sig * 2 ^ (a.exp - x).toNat - b.sig * 2 ^ (b.exp - x).toNat) x

/-- The value to store to lo of a compensated pair, given the value, and the hi code with its flags and exponent (R95):
none when lo is the all-zeros code. -/
def pairResidual (v : Dec) (f : Fmt) (sym : Bool) (hi : Nat × NFlags) (q : Int) : Option Dec :=
  if v.cls = .finite ∧ hi.2.ovf = false then
    let h := valueOf f sym hi.1 q
    if h.cls = .finite then some (subExact v h) else none
  else none

/-- The flags a hi store of a pair keeps (R95): OVF with its INX, and INV. -/
def pairHiFlags (f : NFlags) : NFlags := { ovf := f.ovf, unf := false, inx := f.ovf, inv := f.inv }

end Sys2Proof.Machine
end

