-- ==== Sys2Proof/Machine/Mem.lean ====
section
/-!
DEFINITION. Machine/Mem: memory as a canonical list of (address, byte) pairs: addresses strictly rising, no zero byte
listed; an unlisted byte reads as 0 (DESIGN CHOICE, log 5).
-/
namespace Sys2Proof.Machine

/-- A byte memory. -/
abbrev Mem := List Host.Cell

/-- The canonical form. -/
abbrev memWf (m : Mem) : Prop :=
  m.Pairwise (fun a b => a.1 < b.1) ∧ ∀ c ∈ m, c.2 ≠ 0#8

/-- What an unlisted byte reads as. -/
def memDefault : Byte := 0#8

/-- One byte. -/
def memRead (m : Mem) (a : Nat) : Byte :=
  match m.find? (fun c => c.1 == a) with
  | some c => c.2
  | none => memDefault

/-- n bytes read from cells whose addresses are at or above a. -/
def memSliceGo : Nat → Nat → Mem → List Byte
  | 0, _, _ => []
  | n + 1, a, [] => memDefault :: memSliceGo n (a + 1) []
  | n + 1, a, c :: r => if c.1 = a then c.2 :: memSliceGo n (a + 1) r else memDefault :: memSliceGo n (a + 1) (c :: r)

/-- n bytes from address a. -/
def memSlice (m : Mem) (a n : Nat) : List Byte := memSliceGo n a (m.dropWhile (fun c => c.1 < a))

/-- The cells of a byte string at a, zero bytes left out. -/
def memCells : Nat → List Byte → Mem
  | _, [] => []
  | a, b :: bs => if b = memDefault then memCells (a + 1) bs else (a, b) :: memCells (a + 1) bs

/-- The byte string bs written from address a. -/
def memWrite (m : Mem) (a : Nat) (bs : List Byte) : Mem :=
  m.filter (fun c => decide (c.1 < a)) ++ memCells a bs ++ m.filter (fun c => decide (a + bs.length ≤ c.1))

/-- n zero bytes written from address a. -/
def memZero (m : Mem) (a n : Nat) : Mem :=
  m.filter (fun c => decide (c.1 < a)) ++ m.filter (fun c => decide (a + n ≤ c.1))

/-- A list padded with zero bytes, or cut, to n bytes. -/
def padTo (n : Nat) (l : List Byte) : List Byte := l.take n ++ List.replicate (n - l.length) memDefault

/-- A little-endian value of n bytes at a. -/
def memNat (m : Mem) (a n : Nat) : Nat :=
  (memSlice m a n).foldr (fun b acc => b.toNat + 256 * acc) 0

/-! ### Small tables indexed by a bit vector -/

/-- Entry i of a table of 2^w entries. -/
def vget {α : Type} {w : Nat} (v : Vector α (2 ^ w)) (i : BitVec w) : α := v[i.toNat]'i.isLt

/-- The table with entry i replaced. -/
def vset {α : Type} {w : Nat} (v : Vector α (2 ^ w)) (i : BitVec w) (x : α) : Vector α (2 ^ w) := v.set i.toNat x i.isLt

end Sys2Proof.Machine
end

