-- ==== Sys2Proof/Machine/State.lean ====
section
/-!
DEFINITION. Machine/State: the state of the block as plain data, the faults and refusals, and the state after reset.
Each structure's docstring cites the rules that name its fields.
-/
namespace Sys2Proof.Machine

/-- Why a meaning stops. -/
inductive Fault where
  /-- An engine command whose operand field `field`, or whose format-table entry, holds a code the spec calls reserved or outside its
  range (R71, R105, R109, R116, R171, R176, R181, R228, Tables 5-2, 5-4, 8-1, 10-1, 10-3): the loader refuses it, and the spec gives it
  no effect. Raised by the engine meanings. Safe: the hardware never issues it from an accepted package (log 108). -/
  | reservedField (field : String)
deriving DecidableEq, Repr

/-- Why a command has no meaning. -/
inductive Refusal where
  /-- The command's arm has no meaning yet. Raised by no meaning. Safe. -/
  | notModelled (mnemonic : String)
deriving DecidableEq, Repr

/-! ### Cores -/

/-- A finished tile (R117, R432): its format-table index (63 full-width A88), element and scale bytes. -/
structure Tile where
  fmti : BitVec 6
  elems : List Byte
  scale : List Byte
deriving DecidableEq, Repr

/-- The matrix engine of a core (R107 to R124). Byte buffers: slot s of the input buffer at 8192 s, its scales at 2048 s;
half h at 65536 h, its scales at 16384 h; table t at 32 t. `accZero`: an entry of the accumulator
file that `acc` does not list holds the all-zeros code (R220, R387), else it is undefined (R116). `runs` are the spans of device cycles in which a column is in the weight
read stage or the chain; `arrayIdle` and `fillIdle` are the device cycles at which
the two units fall idle. The `Shown` counters cover the last completed tick. -/
structure Me where
  ib : Mem
  ibScale : Mem
  wh : Mem
  whScale : Mem
  tb : Mem
  acc : List (Nat × A88)
  accZero : Bool
  ftq : List Tile
  outq : List Tile
  ibReady : BitVec 4
  whReady : BitVec 2
  runs : List (Nat × Nat)
  arrayIdle : Nat
  fillIdle : Nat
  busyCyc : W32
  gateCyc : W32
  busyShown : W32
  gateShown : W32
deriving DecidableEq, Repr

/-- The scan engine of a core (R146, R147); `buf` is the state buffer of 256 rows. -/
structure Se where
  buf : Mem
  op : BitVec 2
  idle : Nat
  busyCyc : W32
  lamClamp : W32
  busyShown : W32
  lamShown : W32
deriving DecidableEq, Repr

/-- A VFT that issued by a single step and waits for a tile (R183): its packet and mask, its operands, and whether its predicate
held. -/
structure FtPend where
  iss : Iss
  f : VftF
  run : Bool
deriving DecidableEq, Repr

/-- The vector engine of a core (R171, R190, R196): register n at 256 n, curve table t at 512 t of the active and
the pending copy; `ftPend` is the VFT that waits for a tile under single-step. -/
structure Ve where
  regs : Mem
  ctActive : Mem
  ctPending : Mem
  ctValid : BitVec 8
  idle : Nat
  ftPend : Option FtPend
  ftUnder : W32
  busyCyc : W32
  busyShown : W32
deriving DecidableEq, Repr

/-- Region n of a level (Tables 9-5 and 9-6). CACHE and LOCK are the Orchard's. -/
structure Region where
  base : Nat
  rows : Nat
  w : Bool
  scrub : Bool
  cache : Bool
  lock : Bool
  valid : Bool
deriving DecidableEq, Repr

/-- Credit channel m (Table 9-5). -/
structure Chan where
  credit : Nat
  init : Nat
  tgt : BitVec 3
  en : Bool
  flag : BitVec 6
  rbase : BitVec 14
  rrows : BitVec 9
deriving DecidableEq, Repr

/-- Window w (Table 9-5). -/
structure Window where
  base : BitVec 14
  rows : BitVec 14
  srcCore : Byte
  sp : Bool
  xp : Bool
  dbg : Bool
  opened : Bool
deriving DecidableEq, Repr

/-- A remote-write row on its way into a core's memory (R200): its core-memory row, its bytes, and the flag it sets
when it is the last row of its write. -/
structure InRow where
  src : RowSrc
  row : Option Nat
  data : List Byte
  flag : Option (BitVec 6)
deriving DecidableEq, Repr

/-- The memory of a core and what confines it (R205 to R222). `inbound` is the inbound buffer of 16 rows,
`fabric` what waits before a full one (R200); `locked` are the Orchard rows locked in the cache partition, with their copies (R206). -/
structure Cmem where
  base : Nat
  rows : Nat
  orBase : Nat
  orRows : Nat
  cacheSize : BitVec 2
  inService : Bool
  ce : W32
  ue : W16
  last : BitVec 23
  lastW : Bool
  inbound : List InRow
  fabric : List InRow
  regions : Vector Region (2 ^ 3)
  chans : Vector Chan (2 ^ 3)
  windows : Vector Window (2 ^ 2)
  locked : List (Nat × List Byte)
deriving DecidableEq, Repr

/-- An engine queue (R224, R231): the commands it holds, the next to issue first; the released blocks in tick order,
each with its tick and the commands still to issue; Q_REL and Q_HEAD; how many commands of the tick have issued and the
core time of the last issue; `got`: the block of the core's tick is released; `discarded`: the rest of a block was discarded
at a pit. -/
structure EngQ where
  cmds : List CmdWord
  blocks : List (W64 × Nat)
  rel : BitVec 9
  head : BitVec 9
  issued : Nat
  last : Nat
  got : Bool
  discarded : Bool
deriving DecidableEq, Repr

/-- The gates that hold a core's issue (Table 10-5, Table 10-6): bit 0 tile-ready, bit 1 flag, bit 2 residency; the lowest queue
that holds, and all that do; the packet of the command that holds. -/
structure Hold where
  gate : BitVec 3
  queue : Queue
  queues : BitVec 4
  flag : BitVec 7
  pkt : Nat
  cycles : Nat
deriving DecidableEq, Repr

/-- What a core's dispatch record says of one packet (R15, R141, R256): its stream row mask, its reset word, and per row the
first Orchard row of the init slot of the row's stream, none while its INIT_SET is 0; `adsel` are the rows whose adapter is
selected (R279). -/
structure PktRec where
  pkt : Nat
  mask : W64
  adsel : W64
  reset : W64
  inits : List (Option Nat)
deriving DecidableEq, Repr

/-- A DMEM transfer not yet complete (Table 10-4, R235): what the command names, and whether its port meter defers it.
`rows` are the row bits of its predicate, `data` what a write takes from the core, `tick` and `pkt` the tick and the packet of the command. -/
structure DmemXfer where
  port : BitVec 1
  dir : BitVec 1
  mrow : BitVec 31
  ladr : BitVec 18
  nrows : Nat
  fmtS : BitVec 6
  fmtD : BitVec 6
  cflg : BitVec 7
  rows : W64
  data : List Byte
  ticket : Option Nat
  tick : W64
  pkt : Nat
deriving DecidableEq, Repr

/-- The slots of a stream as a dispatch record names them (R15, R154, Table 12-2): the first Orchard rows of the slot that its tick
reads and of the slot that it writes, and of its Bloom slots, where it has them. -/
structure SlotRec where
  stream : W16
  src : Option Nat
  dst : Option Nat
  srcBloom : Option Nat
  dstBloom : Option Nat
deriving DecidableEq, Repr

/-- The dispatch record a core works under: the commands of the block to release for each queue, the slots of its streams, and what it
says of each packet (R15). -/
structure DispRec where
  seq : W64
  blocks : List Nat
  slots : List SlotRec
  vdim : Vector W16 (2 ^ 3)
  pkts : List PktRec
deriving DecidableEq, Repr

/-- Where a core stands in its tick (R18, R226, R239, R347). -/
inductive CoreRun where
  /-- no block to issue from -/
  | idle
  /-- the tick's commands issue -/
  | computing
  /-- issues nothing further in the tick -/
  | stopped
deriving DecidableEq, Repr

/-- One core. `nflagNew` are the flags raised in device cycle `nflagCyc` (R100), `nflagHeld` are the flags that speculative work of a tick holds back (R101); `adMasks` the mask entries that
the package's adapter commands use (DESIGN CHOICE, log 42); `ftPlan` the rows of the tile that the plan delivers to the VFT at an index
of its block (R182); `rstRow` the core-memory offset of the reset rows that the package's scan parameter blocks name (R141); `pktEnds` are, by tick and packet, the device cycles at which
everything that issued commands of the packet write has landed (R24, R26), `cpWait` the operations of its control processor that wait behind a
write to a full queue, oldest first (R19). -/
structure Core where
  nflag : W16
  nflagNew : W16
  nflagCyc : Nat
  nflagHeld : List (W64 × W16)
  adMasks : List (BitVec 6)
  me : Me
  se : Se
  ve : Ve
  cm : Cmem
  queues : Vector EngQ (2 ^ 2)
  run : CoreRun
  startIn : Nat
  time : Nat
  slip : W32
  fwaitCyc : W32
  resCyc : W32
  slipShown : W32
  fwaitShown : W32
  resShown : W32
  hold : Option Hold
  flg : W64
  flgInit : W64
  k : Vector W16 (2 ^ 3)
  kInit : Vector W16 (2 ^ 3)
  cmp : BitVec 4
  cmpInit : BitVec 4
  fmts : List (BitVec 6 × FmtEntry)
  masks : List (BitVec 6 × MaskEntry)
  ftPlan : List (Nat × Nat)
  rstRow : Option Nat
  tick : W64
  disp : DispRec
  dispNext : Option DispRec
  dmem : List DmemXfer
  pktEnds : List (W64 × Nat × Nat)
  cpWait : List Instr
  restart : Bool
deriving DecidableEq, Repr

/-! ### The datapath -/

/-- What the stored bits of a granule come to on a read (Table 9-3, R423): corrected, uncorrectable, or an address mismatch. -/
inductive EccKind where
  | corrected | uncorrectable | mismatch
deriving DecidableEq, Repr

/-- A granule whose stored bits do not check (R207, R208): `w`, its class at its last write; `wb`: it was read and corrected and waits
for its write-back. -/
structure EccMark where
  gran : Nat
  kind : EccKind
  w : Bool
  wb : Bool
deriving DecidableEq, Repr

/-- The granule delivers no data: uncorrectable, or an address mismatch (Table 9-3). -/
def EccMark.unc (m : EccMark) : Bool := m.kind != .corrected

/-- A work counter (R244). -/
structure Wct where
  val : W16
  lim : W16
deriving DecidableEq, Repr

/-- An effect of an issued command that is first seen some cycles later (Table 10-4, R110, R111, R190, R214, R237, R244,
R247): a core or device flag, the end of a DE command with its CFLG, a loop counter or comparator, tile-ready bits (slots
[3:0], halves [5:4]), expansion tables, a work counter, a credit return, a curve table that becomes active. And the data that
issued commands write (R114, R117, R146, R180, R204, Table 10-4): lanes of vector registers as (register, lane, code), a device
row, bytes of the SE state buffer as (address, bytes), a finished tile, a row of a remote write that enters an inbound buffer (R200). And rows that leave the
stream row mask of a core in a tick, as (packet, rows) (R16, R163). -/
inductive Landing where
  | flag (core : BitVec 3) (flag : BitVec 6) (v : Bool)
  | deDone (core : BitVec 3) (cflg : BitVec 7)
  | kset (core : BitVec 3) (q : Queue) (k : BitVec 3) (v : W16)
  | kadd (core : BitVec 3) (q : Queue) (k : BitVec 3) (v : W16)
  | cmp (core : BitVec 3) (q : Queue) (i : BitVec 2) (v : Bool)
  | ready (core : BitVec 3) (bits : BitVec 6) (v : Bool)
  | tables (core : BitVec 3) (data : List Byte)
  | dflag (flag : BitVec 6) (v : Bool)
  | claimUnit (core : BitVec 3) (q : Queue) (wct : BitVec 4) (n : Nat) (k : BitVec 3) (cmp : BitVec 2) (cen : Bool)
  | claimResult (core : BitVec 3) (q : Queue) (k : BitVec 3) (v : W16) (cmp : BitVec 2) (cen : Bool) (granted : Bool)
  | wrst (wct : BitVec 4) (limit : W16)
  | creditReturn (prod : BitVec 3) (ch : BitVec 3) (n : Nat) (from_ : BitVec 3)
  | curve (core : BitVec 3) (ct : BitVec 3) (data : List Byte)
  | regs (core : BitVec 3) (lanes : List (Nat × Nat × Nat))
  | row (row : Nat) (data : List Byte)
  | sbuf (core : BitVec 3) (cells : List (Nat × List Byte))
  | tile (core : BitVec 3) (t : Tile)
  | inRow (core : BitVec 3) (r : InRow)
  | narrow (core : BitVec 3) (seq : W64) (rows : List (Nat × W64))
deriving DecidableEq, Repr

/-- A budget meter (R45 to R47, R269): the count of the tick and of the early tick, the limit in force and the pending
one, whether it deferred a unit in this tick, the count shown for the last completed tick, the deferred units in order
by ticket and size, and the device cycle of the last write of the pending limit with the limit that it replaced (R20); `carry` is what the
next tick is charged from its start on, `carryEarly` the tick after it (R41). -/
structure Meter where
  count : Nat
  early : Nat
  lim : W32
  limP : W32
  deferred : Bool
  shown : W32
  queue : List (Nat × Nat)
  limAt : Option Nat
  limWas : W32
  carry : Nat
  carryEarly : Nat
deriving DecidableEq, Repr

/-- One report as it is raised (R340). `restart`, `restore` and `rollback` are the actions of Table 17-3 it calls for;
`tick` the tick it is charged to where that is not the tick its core works on. -/
structure Report where
  cls : BitVec 4
  status : BitVec 7
  unit : BitVec 4
  queue : BitVec 2
  core : Option (BitVec 3)
  info0 : W32
  info1 : W32
  rollback : Bool
  restart : Bool
  restore : Bool
  tick : Option W64 := none
deriving DecidableEq, Repr

/-- The datapath: cores, memories and synchronisation, which the engines change; `wcls` are the spans of granules whose last write was
of class W (R207). -/
structure Dp where
  cores : Vector Core (2 ^ 3)
  dev : Mem
  ecc : List EccMark
  wcls : List (Nat × Nat)
  org : List Region
  orCe : W32
  orUe : W16
  orLast : BitVec 23
  orLastW : Bool
  dflg : W64
  dflgInit : W64
  wct : Vector Wct (2 ^ 4)
  landings : List (Nat × Landing)
  meters : Vector Meter (2 ^ 4)
  metering : Bool
  tickets : Nat
  cycle : Nat
  free : Nat
  ext : Mem
deriving DecidableEq, Repr

/-! ### Reset values of the datapath -/

def regionReset : Region := ⟨0, 0, false, false, false, false, false⟩
def chanReset : Chan := ⟨0, 0, 0, false, 0, 0, 0⟩
def windowReset : Window := ⟨0, 0, 0, false, false, false, false⟩
def dispReset : DispRec := { seq := 0, blocks := [], slots := [], vdim := Vector.replicate _ 0, pkts := [] }
def engqReset : EngQ := { cmds := [], blocks := [], rel := 0, head := 0, issued := 0, last := 0, got := false, discarded := false }

/-- R107 to R124, R387: buffers hold zeros. -/
def meReset : Me :=
  { ib := [], ibScale := [], wh := [], whScale := [], tb := [], acc := [], accZero := true, ftq := [], outq := [], ibReady := 0,
    whReady := 0, runs := [], arrayIdle := 0, fillIdle := 0, busyCyc := 0, gateCyc := 0, busyShown := 0, gateShown := 0 }

def seReset : Se := { buf := [], op := 0, idle := 0, busyCyc := 0, lamClamp := 0, busyShown := 0, lamShown := 0 }

def veReset : Ve :=
  { regs := [], ctActive := [], ctPending := [], ctValid := 0, idle := 0, ftPend := none, ftUnder := 0, busyCyc := 0,
    busyShown := 0 }

def cmemReset : Cmem :=
  { base := 0, rows := 0, orBase := 0, orRows := 0, cacheSize := 0, inService := false, ce := 0, ue := 0, last := 0,
    lastW := false, inbound := [], fabric := [], regions := Vector.replicate _ regionReset, chans := Vector.replicate _ chanReset,
    windows := Vector.replicate _ windowReset, locked := [] }

def coreReset : Core :=
  { nflag := 0, nflagNew := 0, nflagCyc := 0, nflagHeld := [], adMasks := [], me := meReset, se := seReset, ve := veReset, cm := cmemReset,
    queues := Vector.replicate _ engqReset, run := .idle, startIn := 0, time := 0, slip := 0, fwaitCyc := 0, resCyc := 0,
    slipShown := 0, fwaitShown := 0, resShown := 0, hold := none, flg := 0, flgInit := 0, k := Vector.replicate _ 0,
    kInit := Vector.replicate _ 0, cmp := 0, cmpInit := 0, fmts := [], masks := [], ftPlan := [], rstRow := none, tick := 0,
    disp := dispReset, dispNext := none, dmem := [], pktEnds := [], cpWait := [], restart := false }

/-- R46, R393: limits at their reset value. -/
def meterReset : Meter :=
  { count := 0, early := 0, lim := 0xFFFFFFFF, limP := 0xFFFFFFFF, deferred := false, shown := 0, queue := [], limAt := none,
    limWas := 0xFFFFFFFF, carry := 0, carryEarly := 0 }

def dpReset : Dp :=
  { cores := Vector.replicate _ coreReset, dev := [], ecc := [], wcls := [], org := List.replicate 32 regionReset, orCe := 0,
    orUe := 0, orLast := 0, orLastW := false, dflg := 0, dflgInit := 0, wct := Vector.replicate _ ⟨0, 0⟩, landings := [],
    meters := Vector.replicate _ meterReset, metering := false, tickets := 0, cycle := 0, free := 0, ext := [] }

/-! ### The tick block (R28 to R57) -/

/-- TKC: the fields of Tables 2-5 to 2-7; `stopAt`: a stop is pending, `ending`: it has taken
effect and the last publish runs (R37); `startIn`: cycles to the
first boundary of an accepted start (R33); `edgeIn`: cycles to the boundary of an accepted TICK_IN edge (R34); `edgeOnly`: after RESUME from a halt the boundary
follows an edge (R421); `pulse`:
cycles TICK_OUT stays high (R36); `hiLatch`: the latched high word (R57). -/
structure Tkc where
  run : Bool
  src : Bool
  fly : Bool
  outEn : Bool
  active : Bool
  phase : BitVec 3
  cfgErr : Bool
  wrIgn : Bool
  extWait : Bool
  period : BitVec 21
  dispOfs : BitVec 21
  compOfs : BitVec 21
  deadOfs : BitVec 21
  extTol : BitVec 21
  seq : W64
  hiLatch : W32
  time : Nat
  skip : W32
  late : W32
  earlyCnt : W32
  miss : W32
  cuDrop : W32
  cuReserve : Byte
  defer : BitVec 15
  stopAt : Bool
  ending : Bool
  startIn : Option Nat
  edgeIn : Option Nat
  edgeOnly : Bool
  pulse : Nat
deriving DecidableEq, Repr

/-! ### Host rings (R290 to R313) -/

/-- A submission ring (Table 14-8): `seq` is its descriptor sequence (R296). -/
structure SqRing where
  baseLo : BitVec 20
  baseHi : Byte
  sizeLog2 : BitVec 4
  enable : Bool
  port : Bool
  cq : BitVec 4
  head : BitVec 12
  db : BitVec 12
  seq : W64
deriving DecidableEq, Repr

/-- A record waiting for a produced ring: its bytes without PHASE, the byte that takes PHASE, whether meter 10 has been
offered it and with which ticket, and whether it is a record of a tick's publish (R350). -/
structure RingRec where
  bytes : List Byte
  phaseAt : Nat
  offered : Bool
  ticket : Option Nat
  tick : Bool
deriving DecidableEq, Repr

/-- A produced ring (Table 14-8, R293, R294); `dead`: disabled by an error response and not enabled since (R295). -/
structure PRing where
  baseLo : BitVec 20
  baseHi : Byte
  sizeLog2 : BitVec 4
  enable : Bool
  port : Bool
  kind : Bool
  irq : Bool
  head : BitVec 12
  tail : BitVec 12
  phase : Bool
  dead : Bool
  waiting : List RingRec
deriving DecidableEq, Repr

structure Hif where
  tickRing : BitVec 4
  outRing : BitVec 4
  osigEn : Bool
  kill : Bool
  dbErr : Bool
  wrIgn : Bool
  memErr : Bool
  irqMask : BitVec 3
  outRecsz : BitVec 12
  evtLost : W32
  crcCnt : W32
  sqs : Vector SqRing (2 ^ 4)
  cqs : Vector PRing (2 ^ 4)
  evt : PRing
  err : PRing
  log : PRing
deriving DecidableEq, Repr

/-! ### FWR block (R310 to R314 and the register rules of the chapters) -/

/-- A write waiting in the FWR queue (R310): its offset and its value merged with the shadow (R402); `left` are the TU to its limit (R311), and `late` says
that the limit has been counted or does not hold for it. -/
structure FwrWrite where
  ofs : W16
  value : W32
  left : Nat
  late : Bool
deriving DecidableEq, Repr

/-- Stream-state fields (Table 7-6). -/
structure FwrStm where
  gateLim : BitVec 21
  qid : W16
  qState : BitVec 3
  qBound : Bool
  qCur : Bool
  qInit : Bool
  qPolicy : Bool
  qPins : BitVec 9
  qSeq : W64
  refStatus : Byte
  refReason : Byte
  refId : W16
  imgFail : W32
  gateExp : W16
deriving DecidableEq, Repr

/-- Loader fields (Table 11-5). -/
structure FwrLdr where
  status : Byte
  reason : Byte
  busy : Bool
  fcore : BitVec 3
  fvalid : Bool
  fqueue : BitVec 2
  findex : BitVec 9
  pkgId : W32
  cores : BitVec 4
  sloeOk : Bool
  steps : BitVec 7
  places : W16
  vmax : Vector (Option W16) (2 ^ 3)
  shapeCnt : W32
  shapeDim : BitVec 3
  shapeVal : W16
deriving DecidableEq, Repr

/-- Speculation fields (Table 12-4); `predNow` is FWR_SPEC_PRED as the newest dispatch took it (R266). -/
structure FwrSpec where
  early : Bool
  pred : Bool
  ofs : BitVec 21
  cfgErr : Bool
  earlyCnt : W32
  nostart : W32
  predCnt : W32
  discard : W32
  mismatch : W16
  lateDesc : W16
  bloomRows : W16
  bloomLayers : Byte
  lateSmp : W32
  predNow : Bool
deriving DecidableEq, Repr

/-- Learning fields (Table 13-4); `enNow` is FWR_LRN_EN as the newest intake took it (R289). -/
structure FwrLrn where
  en : Bool
  accept : W32
  refuse : W32
  refReason : Byte
  refId : W16
  commit : W32
  requeue : W32
  nonfin : W16
  blkFail : W16
  enNow : Bool
deriving DecidableEq, Repr

/-- A sensor port's fields (20_integration R407). -/
structure SinPort where
  accept : W32
  discard : W32
  lastReason : BitVec 3
  lastId : W16
deriving DecidableEq, Repr

/-- A trace packet held in the trace memory (R336). -/
structure TracePkt where
  debug : Bool
  words : List W32
deriving DecidableEq, Repr

/-- A log entry the SP holds (R335). -/
structure LogEnt where
  bytes : List Byte
deriving DecidableEq, Repr

/-- The fatal fault that raised FAULT (R334): its cycle, cause and processors, and whether its dump was written. -/
structure FatalRec where
  cycle : Nat
  cause : Nat
  procs : Nat
  dumped : Bool
deriving DecidableEq, Repr

/-- Firmware fields (16_firmware, R329 to R339). `scrubFrom` is the device cycle at which the Orchard initialisation scrub began;
`drainPos` the place of the next drained packet in the host's buffer; `logs` the log entries the SP still holds, `recent` the last 64;
`logTicket` and `trcTicket`: the place with its meter of the oldest log entry and of the oldest packet (R47). -/
structure FwrFw where
  level : BitVec 2
  scrubbed : Bool
  scrubFail : Bool
  scrubFrom : Option Nat
  version : W32
  meas : Vector W32 (2 ^ 3)
  uptime : W32
  wdtExp : W16
  wdtLast : BitVec 4
  mpuFault : W16
  mpuLast : BitVec 4
  trcEn : Bool
  trcSplit : Bool
  trcWrap : Bool
  drainEn : Bool
  trcMask : W16
  trcDrop : W32
  drainLo : W32
  drainHi : Byte
  drainLog2 : BitVec 4
  drainPos : Nat
  trace : List TracePkt
  logLevel : BitVec 3
  logLost : W32
  logs : List LogEnt
  logTicket : Option Nat
  trcTicket : Option Nat
  recent : List LogEnt
  dumpAddr : BitVec 40
  dumpSize : W32
  dumpEn : Bool
  dumpCnt : W16
  dumpSkip : W16
  fatal : Option FatalRec
deriving DecidableEq, Repr

/-- The FWR block: its state (`fell`: FWR_PENDING has fallen once since reset, R311), the queue, the RO words as the SP last showed them (R310), and the fields in force. The shadow of an RW
field is the value in force with the queued writes over it. -/
structure Fwr where
  pending : Bool
  fell : Bool
  ovr : Bool
  late : Bool
  lateCnt : W32
  queue : List FwrWrite
  shown : List (Nat × W32)
  stm : FwrStm
  ldr : FwrLdr
  spec : FwrSpec
  lrn : FwrLrn
  fw : FwrFw
  sin : Vector SinPort (2 ^ 2)
  smpSz : BitVec 10
  npdCnt : W16
  npdCores : Byte
  npdSeq : W32
  toCnt : W16
deriving DecidableEq, Repr

/-! ### Error recorder (R340 to R355) -/

/-- A FIFO entry (Table 17-2): `opened`: a matching report still coalesces; `charged`: meter 10 has admitted it. -/
structure ErrEntry where
  rep : Report
  repeats : W16
  seq : W64
  time : W32
  unrecov : Bool
  opened : Bool
  charged : Bool
deriving DecidableEq, Repr

/-- The counters of a class (Table 17-6). -/
structure ClsRec where
  cnt : W16
  first : W32
  last : W32
  fcore : Byte
  lcore : Byte
deriving DecidableEq, Repr

/-- The last change of the owner of a contested resource (R353): which user, whether it claimed or released, and when. -/
structure OwnChange where
  second : Bool
  on : Bool
  cycle : Nat
deriving DecidableEq, Repr

/-- The error recorder (Table 17-6); `ownLast`: the last change of owner of each resource of Table 17-5; `fifoTicket` is the place with meter 10 of the next entry to be written (R47). -/
structure Err where
  jrnlEn : Bool
  ceReport : Bool
  fifo : List ErrEntry
  fifoTicket : Option Nat
  wrIgn : Bool
  jrnlActive : Bool
  lost : W32
  rollback : W32
  restartCnt : W16
  restartCores : Byte
  unrecov : W16
  ownTrc : BitVec 2
  ownSin : BitVec 2
  ownTout : BitVec 2
  ownL3 : BitVec 2
  ownLast : Vector (Option OwnChange) (2 ^ 2)
  splitSin : Bool
  splitL3 : Bool
  cls : Vector ClsRec (2 ^ 4)
deriving DecidableEq, Repr

/-! ### Check units (R315 to R323) -/

/-- A check unit (Table 15-3): `run` is reg, `busyTo` the device cycle at which it is free, `fresh`: nothing has set RUN or the
configuration since reset. -/
structure Cu where
  width : BitVec 7
  refin : Bool
  refout : Bool
  inv : Bool
  foldEn : Bool
  src : Bool
  feedErr : Bool
  poly : W64
  init : W64
  run : W64
  fold : W32
  count : W32
  busyTo : Nat
  fresh : Bool
deriving DecidableEq, Repr

/-! ### Streams, task and ticks (the SP's state) -/

/-- Lifecycle states other than FREE (Table 7-1); a stream without a record is FREE. -/
inductive Life where
  | absent | arriving | resident | draining | leaving
deriving DecidableEq, Repr

/-- A control field set of one stream in a tick (R53, R279): reset word bits of its steps, ADSEL, LRN. -/
structure CtlFields where
  reset : W64
  adsel : Bool
  lrn : Bool
deriving DecidableEq, Repr

/-- Why a window is pending: missed under the catch-up policy (R53), discarded as speculative work (R276), or in
disagreement with the twin (R367). -/
inductive PendKind where
  | missed | rerun | mirror
deriving DecidableEq, Repr

/-- A window a stream keeps for the next tick (R53): the tick it belongs to, its samples and its control fields. -/
structure PendWin where
  kind : PendKind
  seq : W64
  samples : List (List Byte)
  ctl : CtlFields
deriving DecidableEq, Repr

/-- The descriptor a request completes with: its tag, ring and sequence; `silent`: a change of the other twin, which
completes with no record (R369). -/
structure ReqTicket where
  tag : W32
  sq : BitVec 4
  seq : W64
  silent : Bool
deriving DecidableEq, Repr

/-- A WRITE_INIT under way (R155): the slot allocated, the image's address, whether every row has landed, and the request. -/
structure InitJob where
  slot : Nat
  addr : BitVec 40
  landed : Bool
  ticket : Option Nat
  req : ReqTicket
deriving DecidableEq, Repr

/-- A swap under way: the request that completes with it, the image address, whether meter 11 has admitted the image
(R166, R167), whether the place was bound with it, and whether it waited in DRAINING, so that it holds back no descriptor (R150). -/
structure SwapJob where
  req : ReqTicket
  addr : BitVec 40
  anySeq : Bool
  ticket : Option Nat
  bound : Bool
  drained : Bool
deriving DecidableEq, Repr

/-- A stream outside FREE (R148 to R163). `place` is the place in force, `placeNext` the one from the next dispatch on;
`pins` counts by tick; `slot` is the first row of its slot pair, `bloom` of its Bloom slots, `init` of its init slot;
`expSeq` the expected image sequence; `lost`: committed state lost (R349);
`window` are the samples of the newest tick's intake, `nextWindow` those of the tick after it (R40); `emb`: the embedding of
the coming dispatch has landed, `embFly`: its fetch is under way, `embTicket` its place with its meter;
`resAt` is the device cycle in which the residency bit last changed, `resWas` what it was before (R16, R161). -/
structure Stream where
  id : W16
  life : Life
  catchUp : Bool
  adapt : BitVec 2
  group : Byte
  place : Option W16
  placeNext : Option W16
  pins : List (W64 × Nat)
  slot : Option Nat
  cur : Bool
  bloom : Option Nat
  bc : BitVec 2
  init : Option Nat
  initJob : Option InitJob
  swap : Option SwapJob
  expSeq : Option W64
  seq : W64
  lost : Bool
  window : List (List Byte)
  nextWindow : List (List Byte)
  emb : Bool
  embFly : Bool
  embTicket : Option Nat
  pend : Option PendWin
  resAt : Option Nat := none
  resWas : Bool := false
deriving DecidableEq, Repr

/-- An adapter group's slot pair (R156). -/
structure GroupSlot where
  group : Byte
  slot : Nat
  cur : Bool
deriving DecidableEq, Repr

/-- What became of a stream-tick (R24, R50, R345, R275). -/
inductive StOut where
  | running | skipped | rolledBack | discarded | committed
deriving DecidableEq, Repr

/-- A stream-tick of a tick: its chunks (2 for a rerun, the older sequence first), its window and control fields, whether a
learning update of its adapter runs, the Bloom slots its record names (Table 12-2), whether it reads tick u−1's destination
(`fromDst`), whether that source failed to commit (`srcBad`, R275), and whether its predicted fields differ (`mism`, R274);
`kind` is that of the older chunk, `cuIdx` the catch-up rows it runs in. -/
structure StreamTick where
  stream : W16
  place : W16
  chain : Nat
  seqs : List W64
  kind : Option PendKind
  cuIdx : Option Nat
  window : List (List Byte)
  ctl : CtlFields
  out : StOut
  late : Bool
  lrnRan : Bool
  srcBloom : BitVec 2
  dstBloom : BitVec 2
  fromDst : Bool
  srcBad : Bool
  mism : Bool
deriving DecidableEq, Repr

/-- The descriptor of a tick (Table 14-4) and the ring it came on, with the ring sequence `q` it had there; `ctlWait`: its
control block is still to land, with its place at the meter. -/
structure TickCmd where
  tag : W32
  sq : BitVec 4
  q : W64
  vdim : List W16
  ctlAddr : BitVec 40
  ctlRows : W16
  ctlCrc : W32
  port : Bool
  ctlWait : Bool
  ctlTicket : Option Nat
deriving DecidableEq, Repr

/-- Control fields of a whole tick as the control block gives them: the values of VDIM0 to VDIM7, and fields by place. -/
structure TickCtl where
  vdim : List W16
  places : List (W16 × CtlFields)
deriving DecidableEq, Repr

/-- An error block to be fetched at a tick's intake (R281): the sequence number it must hold, its address, port and place at
the meter, and the place there of the rows after its first. -/
structure ErrFetch where
  seq : W64
  addr : BitVec 40
  port : Bool
  ticket : Option Nat
  more : Option Nat
deriving DecidableEq, Repr

/-- What CORE_STATUS says of a core (R303): a fault status the core raised against the streams of some places, or 1 where it
made the streams of those places SKIPPED. -/
structure CoreNote where
  core : BitVec 3
  status : Byte
  places : List W16
deriving DecidableEq, Repr

/-- A tick in flight (R39, R266): whether it runs before its boundary, on predicted fields, and whether the pit has confirmed
that; the status its descriptor was refused with; its descriptor, control fields in force and error blocks; how far it is;
whether it releases no command block (R362, R368, R373); its seal and verdicts (R364, R365); its stream-ticks; what
its cores did to them, oldest first (R303); whether its pit fell at SLOE (R331) and whether its records
are queued; `unlisted` are the stream-ticks of a standby's tick, which are SKIPPED with no entry in `sts` (R51, R373). -/
structure TickRec where
  seq : W64
  early : Bool
  predicted : Bool
  confirmed : Bool
  refused : Option (BitVec 7)
  cmd : Option TickCmd
  ctl : Option TickCtl
  errs : List ErrFetch
  dispatched : Bool
  computing : Bool
  passive : Bool
  sealed : Bool
  vdDone : Bool
  sts : List StreamTick
  coreStatus : List CoreNote
  sloe : Bool
  done : Bool
  unlisted : Nat
deriving DecidableEq, Repr

/-- A pending place of an adapter's queue (R282): its index in the learning area, the adapter record, the stream, the judged
tick, the rate shift, whether the gradients of its last update were finite (R284), whether an update block that consumes it runs, and in
which tick. -/
structure LrnPlace where
  slot : Nat
  adapter : Nat
  finite : Bool
  stream : W16
  group : Option Byte
  tgtSeq : W64
  lrsh : BitVec 4
  inUse : Bool
  runTick : W64
deriving DecidableEq, Repr

/-- A retention entry (R280): the stream, its position, the tick it holds and whether it is valid. -/
structure Retain where
  stream : W16
  seq : W64
  valid : Bool
deriving DecidableEq, Repr

/-- The task: the loaded package, its place in memory, its owner, and whether the loader set aside a journal (R209, R263, R350). -/
structure Task where
  pkg : Package
  addr : BitVec 40
  owner : Byte
  journal : Bool
deriving DecidableEq, Repr

/-- A load in progress (R262, R263): the descriptor, and the package once its checks have passed. -/
structure LoadJob where
  tag : W32
  sq : BitVec 4
  seq : W64
  addr : BitVec 40
  len : W32
  passed : Option Package
deriving DecidableEq, Repr

/-- A chain in restart (R347): its number and whether W-class rows are to be restored. -/
structure Restart where
  chain : Nat
  restore : Bool
  failed : Bool
deriving DecidableEq, Repr

/-- The SP's tables. `free` is the list of free row spans of the state area; `lastOwner` the owner of the last task;
`scrub` the Orchard rows still to scrub and `cmScrub` the cycles that the scrub of the core memories still takes (R219, R220); `npd` the no-progress count of each chain; `early` the early tick; `pubs` the ticks in
publish, oldest first; `taken` the sequence numbers of the TICK descriptors taken (R300); `errCarry` an error block carried
to the next intake (R281). -/
structure Sp where
  streams : List Stream
  groups : List GroupSlot
  task : Option Task
  lastOwner : Option Byte
  load : Option LoadJob
  scrub : Nat
  cmScrub : Nat
  cur : Option TickRec
  early : Option TickRec
  pubs : List TickRec
  taken : List W64
  errCarry : Option ErrFetch
  lastCtl : Option TickCtl
  lrn : List LrnPlace
  retain : List Retain
  npd : List Nat
  restarts : List Restart
  specOff : Bool
deriving DecidableEq, Repr

/-! ### Power and clocks (R376 to R387, Table 19-6) -/

/-- PWR. `halfNext`: an ACLK divider change to take at the next boundary (R378, R379); `winEst`, `winPeak`, `winSum`, `winCnt`
and `balTick` are the budgeter's estimate of the last window, and the peak, sum, count and ballast cycles of the tick so far;
`coreTot` and `ballast` are each core's total and ballast of the last window; `capLoweredP`: the pending limits are lowered by the cap (R382). -/
structure Pwr where
  cap : W16
  stepMax : Byte
  req : BitVec 2
  gnt : BitVec 2
  aclkRun : Bool
  aclkHalf : Bool
  gntLate : Bool
  gntFault : Bool
  wrIgn : Bool
  corePg : Byte
  est : W16
  peak : Byte
  ecomp : W32
  eavail : W32
  balCyc : W32
  capCnt : W32
  halfNext : Option Bool
  winEst : Nat
  winSum : Nat
  winCnt : Nat
  winPeak : Nat
  balTick : Nat
  coreTot : List Nat
  ballast : List Nat
  capLoweredP : Bool
deriving DecidableEq, Repr

/-! ### Security: OTP, boot, identity, attestation (R338, R388 to R394, R397, R398) -/

/-- The OTP array (Table 19-4); `done` are the fields programmed, by their order in that table. -/
structure Otp where
  uid : BitVec 128
  grade : Byte
  pcoreEn : Byte
  certNb : W32
  keySeed : BitVec 256
  certSig : BitVec 512
  dbgKeyHash : BitVec 256
  dbgKeySet : Bool
  ownerKeys : Vector (BitVec 256) (2 ^ 3)
  ownerValid : Byte
  ownerRevoked : Byte
  life : BitVec 2
  done : List Nat
deriving DecidableEq, Repr

structure Sec where
  bootAddr : BitVec 40
  bootLen : BitVec 22
  bootState : BitVec 3
  bootCode : Byte
  bootReason : Byte
  goHeld : Bool
  otp : Otp
  sensed : Otp
  idShown : Bool
  keyReady : Bool
  attState : BitVec 2
  attCode : BitVec 7
  wrIgn : Bool
  attAddr : BitVec 40
  certAddr : BitVec 40
  certLen : BitVec 12
  nonce : Vector W32 (2 ^ 3)
  attPend : Bool
  certPend : Bool
  pkgMeas : BitVec 256
  pkgOwner : Byte
deriving DecidableEq, Repr

/-! ### Debug port (R416 to R425) -/

/-- A comparator (Table 21-4); `cfg` is the configuration word of bits [9:0]. -/
structure Bp where
  cfg : BitVec 10
  hits : W16
  value : W32
deriving DecidableEq, Repr

/-- Run states of the device (DBG_RUNSTATE). -/
inductive RunState where
  | run | frozen | halted | stepping
deriving DecidableEq, Repr

/-- A response waiting for its decision (R417). -/
structure UnlockResp where
  level : Byte
  key : BitVec 512
  sg : BitVec 512
deriving DecidableEq, Repr

/-- The debug port. `freezePend`: a comparator's freeze takes effect in the next cycle (R420); `haltPend`: a halt waits
for the next boundary (R421); `dr` is what the last TAP instruction captured, `data` is DBG_DATA. -/
structure Dbg where
  ir : BitVec 5
  level : BitVec 2
  virell : Bool
  lockout : Bool
  runState : RunState
  freezePend : Bool
  haltPend : Bool
  fails : BitVec 3
  marker : Bool
  trace : Bool
  bpHit : Byte
  bpSpec : Byte
  stopSeq : W64
  stopTu : BitVec 21
  unlockOk : W16
  unlockBad : W16
  bps : Vector Bp (2 ^ 3)
  dr : BitVec 256
  data : BitVec 160
  nonce : Option (BitVec 256)
  resp : Option UnlockResp
  stepTick : Bool
deriving DecidableEq, Repr

/-! ### Twin pairing and the link (R356 to R375) -/

/-- A link frame (R357): TYPE, COPY, SEQ, header bytes 12 to 27, the payload and FCRC. -/
structure Frame where
  type : Byte
  copy : Byte
  seq : W64
  fields : List Byte
  payload : List Byte
  fcrc : W32
deriving DecidableEq, Repr

/-- TWN_STATE (R360). -/
inductive TwnState where
  | unpaired | attaching | syncing | mirror | active | standby | selftest | fenced
deriving DecidableEq, Repr

/-- A change of pairing state that waits for the first boundary at least `wait` TU later (R363, R374); `stopRun`: TKC_RUN
goes to 0 with it. -/
structure TwnChange where
  wait : Nat
  dest : TwnState
  reason : Byte
  stopRun : Bool
deriving DecidableEq, Repr

/-- A stream-table change named for a tick's dispatch (R369, R372): the operation, its descriptor and the request it
completes; `remote`: the other twin made it. -/
structure PendChange where
  seq : W64
  op : Byte
  desc : StateDesc
  req : ReqTicket
  remote : Bool
deriving DecidableEq, Repr

/-- A group's SIG frame of role 1 (R365). -/
structure SigRec where
  seq : W64
  group : W16
  sigs : List W64
  bitmap : W64
deriving DecidableEq, Repr

/-- A group's VERDICT (R365). -/
structure VerdictRec where
  seq : W64
  group : W16
  link : Bool
  commit : W64
  mismatch : W64
deriving DecidableEq, Repr

/-- A row of a DELTA frame received (R372): it stands in the non-current slot of its stream or group. -/
structure DeltaRow where
  stream : W16
  group : Byte
  row : Nat
deriving DecidableEq, Repr

/-- TWN and the link (Table 18-7). `tx` are frames that wait for credits, `wire` the frames sent, `crdOut` the credits
returned to the peer; `down`: LINK_DOWN is declared; `attach` an attach requested, `peer` the HELLO received; `change` a
state change that waits for its boundary; `mine` the own seals, `sigs` and `verdicts` those received; `rows` and `rxFrames`
the delta of a tick as received; `changes` stream-table changes that wait for their dispatch or delta; `deltaOf` the tick whose
delta is being sent, `deltaLeft` its frames still to send, `deltaTicket` the place of the first with its meter, `deltaIds` its streams and `deltaSent` the DELTA frames sent; `carry`
the streams of abandoned deltas; `quiet` a quiet tick (R362, R374); `testLeft` the cycles of the self-test still to run; `own`
and `other` the self-test results; `badFrames` the consecutive FCRC failures; `skew` the distance of the last ALIGN from the own
boundary; `copied`: role 1 has applied a delta of the sync; `lower`: ACLK halves at the next boundary (R379). -/
structure Twn where
  mode : BitVec 2
  role : Bool
  auto : Bool
  linkEn : Bool
  state : TwnState
  rxUp : Bool
  down : Bool
  wrIgn : Bool
  reason : Byte
  credit : Nat
  crdOut : Nat
  sigOfs : BitVec 21
  skewMax : W16
  lastSeq : W64
  mismatch : W16
  rerunDrop : W16
  abandon : W32
  fcrc : W32
  txBytes : Nat
  rxBytes : Nat
  txShown : W32
  rxShown : W32
  tx : List Frame
  wire : List Frame
  attach : Bool
  peer : Option HelloInfo
  change : Option TwnChange
  mine : List SigRec
  sigs : List SigRec
  verdicts : List VerdictRec
  rows : List DeltaRow
  rxFrames : Nat
  changes : List PendChange
  deltaOf : Option W64
  deltaLeft : List Frame
  deltaTicket : Option Nat
  deltaIds : List W16
  deltaSent : Nat
  carry : List W16
  quiet : Option W64
  testLeft : Nat
  own : Option Bool
  other : Option Bool
  badFrames : Nat
  skew : Option Nat
  copied : Bool
  lower : Bool
deriving DecidableEq, Repr

/-- A region of a memory protection unit (R325, Table 16-1): base, size, permissions (bit 0 R, 1 W, 2 X) and space. -/
structure MpuRegion where
  base : W32
  sizeLog2 : Byte
  perm : BitVec 3
  space : Byte
deriving DecidableEq, Repr

/-- A firmware processor (R324, R325, R332, R333): its private memory as the XP's load path left it, its MPU's regions and lock,
whether it is released from reset, its watchdog's period in µs and count in TU, and the tick of its last expiry or fault. -/
structure ProcRec where
  mem : Mem
  mpu : List MpuRegion
  mpuLocked : Bool
  released : Bool
  wdPeriod : W16
  wdCount : Nat
  lastExp : Option W64
deriving DecidableEq, Repr

/-- The state of the block. -/
structure State where
  pending : List Instr
  dp : Dp
  tkc : Tkc
  hif : Hif
  fwr : Fwr
  err : Err
  cus : Vector Cu (2 ^ 4)
  dus : Vector Cu (2 ^ 2)
  pwr : Pwr
  sec : Sec
  dbg : Dbg
  twn : Twn
  sp : Sp
  xp : ProcRec
  pp : ProcRec
  spp : ProcRec
  cps : Vector ProcRec (2 ^ 3)
deriving DecidableEq, Repr

/-! ### Reset -/

/-- Tables 2-5 to 2-7. -/
def tkcReset : Tkc :=
  { run := false, src := false, fly := true, outEn := false, active := false, phase := 0, cfgErr := false,
    wrIgn := false, extWait := false, period := 0x61A80, dispOfs := 0x3E80, compOfs := 0x5DC0, deadOfs := 0x57E40,
    extTol := 0xFA0, seq := 0, hiLatch := 0, time := 0, skip := 0, late := 0, earlyCnt := 0, miss := 0, cuDrop := 0,
    cuReserve := 0, defer := 0, stopAt := false, ending := false, startIn := none, edgeIn := none, edgeOnly := false, pulse := 0 }

/-- Table 14-8: SIZE_LOG2 resets to 4. -/
def sqReset : SqRing :=
  { baseLo := 0, baseHi := 0, sizeLog2 := 4, enable := false, port := false, cq := 0, head := 0, db := 0, seq := 0 }

/-- Table 14-8 and R294: PHASE starts at 1. -/
def pringReset : PRing :=
  { baseLo := 0, baseHi := 0, sizeLog2 := 4, enable := false, port := false, kind := false, irq := false, head := 0,
    tail := 0, phase := true, dead := false, waiting := [] }

def hifReset : Hif :=
  { tickRing := 0, outRing := 0, osigEn := false, kill := false, dbErr := false, wrIgn := false, memErr := false,
    irqMask := 0, outRecsz := 0, evtLost := 0, crcCnt := 0, sqs := Vector.replicate _ sqReset,
    cqs := Vector.replicate _ pringReset, evt := pringReset, err := pringReset, log := pringReset }

/-- R310 and the initial values of the FWR registers. -/
def fwrReset : Fwr :=
  { pending := true, fell := false, ovr := false, late := false, lateCnt := 0, queue := [], shown := [],
    stm := { gateLim := 0x4000, qid := 0xFFFF, qState := 0, qBound := false, qCur := false, qInit := false,
             qPolicy := false, qPins := 0, qSeq := 0, refStatus := 0, refReason := 0, refId := 0xFFFF, imgFail := 0,
             gateExp := 0 },
    ldr := { status := 0, reason := 0, busy := false, fcore := 0, fvalid := false, fqueue := 0, findex := 0, pkgId := 0,
             cores := 0, sloeOk := false, steps := 0, places := 0, vmax := Vector.replicate _ none, shapeCnt := 0,
             shapeDim := 0, shapeVal := 0 },
    spec := { early := false, pred := false, ofs := 0x48C10, cfgErr := false, earlyCnt := 0, nostart := 0, predCnt := 0,
              discard := 0, mismatch := 0, lateDesc := 0, bloomRows := 0, bloomLayers := 0, lateSmp := 0, predNow := false },
    lrn := { en := false, accept := 0, refuse := 0, refReason := 0, refId := 0xFFFF, commit := 0, requeue := 0,
             nonfin := 0, blkFail := 0, enNow := false },
    fw := { level := 0, scrubbed := false, scrubFail := false, scrubFrom := none, version := 0,
            meas := Vector.replicate _ 0, uptime := 0, wdtExp := 0, wdtLast := 0, mpuFault := 0, mpuLast := 0,
            trcEn := false, trcSplit := false, trcWrap := false, drainEn := false, trcMask := 0, trcDrop := 0,
            drainLo := 0, drainHi := 0, drainLog2 := 0, drainPos := 0, trace := [], logLevel := 2, logLost := 0, logs := [], logTicket := none, trcTicket := none, recent := [],
            dumpAddr := 0, dumpSize := 0, dumpEn := false, dumpCnt := 0, dumpSkip := 0, fatal := none },
    sin := Vector.replicate _ ⟨0, 0, 0, 0xFFFF⟩, smpSz := 0, npdCnt := 0, npdCores := 0, npdSeq := 0, toCnt := 0 }

/-- Table 17-6. -/
def errReset : Err :=
  { jrnlEn := true, ceReport := false, fifo := [], fifoTicket := none, wrIgn := false, jrnlActive := false, lost := 0, rollback := 0,
    restartCnt := 0, restartCores := 0, unrecov := 0, ownTrc := 0, ownSin := 0, ownTout := 0, ownL3 := 0, ownLast := Vector.replicate _ none,
    splitSin := false, splitL3 := false, cls := Vector.replicate _ ⟨0, 0, 0, 0xFF, 0xFF⟩ }

/-- Table 15-3. -/
def cuReset : Cu :=
  { width := 0x20, refin := true, refout := true, inv := true, foldEn := true, src := false, feedErr := false,
    poly := 0x1EDC6F41, init := 0xFFFFFFFF, run := 0, fold := 0, count := 0, busyTo := 0, fresh := true }

/-- Table 19-6. -/
def pwrReset : Pwr :=
  { cap := 0x2710, stepMax := 0x18, req := 0, gnt := 0, aclkRun := false, aclkHalf := true, gntLate := false,
    gntFault := false, wrIgn := false, corePg := 0xFF, est := 0, peak := 0, ecomp := 0, eavail := 0, balCyc := 0,
    capCnt := 0, halfNext := none, winEst := 0, winSum := 0, winCnt := 0, winPeak := 0, balTick := 0,
    coreTot := List.replicate 8 0,
    ballast := List.replicate 8 0, capLoweredP := false }

/-- The OTP of the modelled part: a provisioned TR8 (DESIGN CHOICE, log 7). -/
def otpReset : Otp :=
  { uid := 0, grade := 8, pcoreEn := 0xFF, certNb := 0, keySeed := 0, certSig := 0, dbgKeyHash := 0, dbgKeySet := true,
    ownerKeys := Vector.replicate _ 0, ownerValid := 1, ownerRevoked := 0, life := 2, done := [0, 1, 2, 3, 4, 5, 6, 7] }

/-- Tables 16-4 and 19-7. -/
def secReset : Sec :=
  { bootAddr := 0, bootLen := 0, bootState := 0, bootCode := 0, bootReason := 0, goHeld := false, otp := otpReset,
    sensed := otpReset, idShown := false, keyReady := false, attState := 0, attCode := 0, wrIgn := false, attAddr := 0,
    certAddr := 0, certLen := 0, nonce := Vector.replicate _ 0, attPend := false, certPend := false, pkgMeas := 0,
    pkgOwner := 0xFF }

/-- Table 21-4; the instruction register selects IDCODE after a TAP reset (PRESUMED, log 25). -/
def dbgReset : Dbg :=
  { ir := 0x01, level := 0, virell := false, lockout := false, runState := .run, freezePend := false, haltPend := false, fails := 0,
    marker := false, trace := false, bpHit := 0, bpSpec := 0, stopSeq := 0, stopTu := 0, unlockOk := 0, unlockBad := 0,
    bps := Vector.replicate _ ⟨0, 0, 0⟩, dr := 0, data := 0, nonce := none, resp := none, stepTick := false }

/-- Table 18-7. -/
def twnReset : Twn :=
  { mode := 0, role := false, auto := false, linkEn := false, state := .unpaired, rxUp := false, down := false,
    wrIgn := false, reason := 0, credit := 0, crdOut := 0, sigOfs := 0x55F00, skewMax := 0x7D0, lastSeq := 0, mismatch := 0,
    rerunDrop := 0, abandon := 0, fcrc := 0, txBytes := 0, rxBytes := 0, txShown := 0, rxShown := 0, tx := [], wire := [],
    attach := false, peer := none, change := none, mine := [], sigs := [], verdicts := [], rows := [], rxFrames := 0,
    changes := [], deltaOf := none, deltaLeft := [], deltaTicket := none, deltaIds := [], deltaSent := 0, carry := [], quiet := none, testLeft := 0,
    own := none, other := none, badFrames := 0, skew := none, copied := false, lower := false }

def spReset : Sp :=
  { streams := [], groups := [], task := none, lastOwner := none, load := none, scrub := 0, cmScrub := 0, cur := none,
    early := none, pubs := [], taken := [], errCarry := none, lastCtl := none, lrn := [], retain := [], npd := [], restarts := [],
    specOff := false }

def procReset : ProcRec :=
  { mem := [], mpu := [], mpuLocked := false, released := false, wdPeriod := 0, wdCount := 0, lastExp := none }

/-- The block right after reset, with nothing commanded. -/
def State.reset : State :=
  { pending := [], dp := dpReset, tkc := tkcReset, hif := hifReset, fwr := fwrReset, err := errReset,
    cus := Vector.replicate _ cuReset, dus := Vector.replicate _ cuReset, pwr := pwrReset, sec := secReset,
    dbg := dbgReset, twn := twnReset, sp := spReset, xp := { procReset with released := true, mpuLocked := true }, pp := procReset,
    spp := procReset, cps := Vector.replicate _ procReset }

end Sys2Proof.Machine
end

