-- ==== Sys2Proof/Machine/Ops.lean ====
section
/-!
DEFINITION. Machine/Ops: the shared operations of the engines over the datapath: rows and their bounds (09_scratchpads
R198, R209, R210), ECC on reading (R207, R208), violations and reports, and time passing.
-/
namespace Sys2Proof.Machine

/-- An engine command at work: the datapath, the command's core, queue and index in its block, its tick, how many cycles remain
until the pit of its tick (none: no pit ahead), the spans of Orchard rows that hold stream state (base and rows: the state area and
the Bloom slots), whether the work is speculative, whether
it is an early tick's, whether the command issues by a single step of the debug port, the state rows whose write came too late, the cycle from now
in which the last row that it writes has landed, and the reports raised. -/
structure Work where
  d : Dp
  core : BitVec 3
  queue : Queue
  idx : Nat
  tick : W64
  pitIn : Option Nat
  areas : List (Nat × Nat)
  spec : Bool
  early : Bool
  step : Bool
  lateRows : List Nat
  ends : Nat
  reps : List Report
deriving DecidableEq, Repr

def queueIndex : Queue → BitVec 2
  | .me => 0 | .se => 1 | .ve => 2 | .de => 3

/-- UNIT codes of the engines (R341). -/
def queueUnit : Queue → BitVec 4
  | .me => 4 | .se => 5 | .ve => 6 | .de => 7

/-- The core of a command at work. -/
def Work.me (w : Work) : Core := vget w.d.cores w.core

/-- Core c replaced. -/
def Dp.setCore (d : Dp) (c : BitVec 3) (x : Core) : Dp := { d with cores := vset d.cores c x }

/-- Core c changed. -/
def Dp.modCore (d : Dp) (c : BitVec 3) (f : Core → Core) : Dp := d.setCore c (f (vget d.cores c))

/-- The command's own core changed. -/
def Work.modMe (w : Work) (f : Core → Core) : Work := { w with d := w.d.modCore w.core f }

/-- A report joins the list. -/
def Work.report (w : Work) (r : Report) : Work := { w with reps := w.reps ++ [r] }

/-- A report of the command's own engine and core. -/
def Work.mkReport (w : Work) (cls : BitVec 4) (status : BitVec 7) (info0 info1 : Nat) (rollback restart restore : Bool) :
    Report :=
  { cls := cls, status := status, unit := queueUnit w.queue, queue := queueIndex w.queue, core := some w.core,
    info0 := BitVec.ofNat 32 info0, info1 := BitVec.ofNat 32 info1, rollback := rollback, restart := restart,
    restore := restore }

/-- BOUND_VIOLATION (R209, R210): the offending row offset and the index of the command. -/
def Work.bound (w : Work) (off : Nat) : Work := w.report (w.mkReport 2 8 off w.idx true false false)

/-! ### Rows -/

/-- Bytes of a row. -/
def rowBytes : Nat := 512

/-- Rows of a core memory (R198). -/
def coreMemRows : Nat := 12288

/-- The device row of row r of core k's memory (R198). -/
def coreRow (k : BitVec 3) (r : Nat) : Nat := 0x20000 + 0x4000 * k.toNat + r

/-- Region r is valid and holds offset o. -/
def Region.holds (r : Region) (o : Nat) : Bool := r.valid && decide (r.base ≤ o) && decide (o < r.base + r.rows)

/-- The device row a core-memory offset of core k names, none where it is out of bounds or in no valid region (R209). -/
def cmRow (d : Dp) (k : BitVec 3) (o : Nat) : Option Nat :=
  let c := (vget d.cores k).cm
  if o < c.rows ∧ c.regions.toList.any (fun r => r.holds o) ∧ c.base + o < coreMemRows then some (coreRow k (c.base + o))
  else none

/-- The Orchard row an offset of core k names (R209). -/
def orRow (d : Dp) (k : BitVec 3) (o : Nat) : Option Nat :=
  let c := (vget d.cores k).cm
  if o < c.orRows ∧ d.org.any (fun r => r.holds o) ∧ c.orBase + o < 0x20000 then some (c.orBase + o) else none

/-- The row a reference of level `orch` and offset `o` names for core k. -/
def refRow (d : Dp) (k : BitVec 3) (orch : Bool) (o : Nat) : Option Nat := if orch then orRow d k o else cmRow d k o

/-- The row is one of the device row space (R198). -/
def rowExists (row : Nat) : Bool :=
  decide (row < 0x20000) || (decide (row < 0x40000) && decide ((row - 0x20000) % 0x4000 < coreMemRows))

/-- The Orchard holds the row. -/
def isOrchard (row : Nat) : Bool := decide (row < 0x20000)

/-- The core whose memory holds the row. -/
def rowCore (row : Nat) : BitVec 3 := BitVec.ofNat 3 ((row - 0x20000) / 0x4000)

/-- The bytes of a device row, without checks. -/
def rowData (d : Dp) (row : Nat) : List Byte := memSlice d.dev (row * rowBytes) rowBytes

/-! ### The class of what is stored (R207) -/

/-- Granules of a row. -/
def rowGrans : Nat := 32

/-- Device rows of the W-class regions in force, as spans (R211). -/
def wRegions (d : Dp) : List (Nat × Nat) :=
  ((d.org.filter (fun r => r.valid && r.w)).map (fun r => ((vget d.cores 0).cm.orBase + r.base, r.rows))) ++
  d.cores.toList.zipIdx.flatMap (fun x => (x.1.cm.regions.toList.filter (fun r => r.valid && r.w)).map (fun r =>
    (coreRow (BitVec.ofNat 3 x.2) (x.1.cm.base + r.base), r.rows)))

/-- What two spans have in common. -/
def spanMeet (a b : Nat × Nat) : Option (Nat × Nat) :=
  let lo := max a.1 b.1
  let hi := min (a.1 + a.2) (b.1 + b.2)
  if lo < hi then some (lo, hi - lo) else none

/-- Spans without what a span covers. -/
def spanCut (l : List (Nat × Nat)) (x : Nat × Nat) : List (Nat × Nat) :=
  l.flatMap (fun a => (spanMeet a (0, x.1)).toList ++ (spanMeet a (x.1 + x.2, a.1 + a.2)).toList)

/-- Granules of a span of rows, or one granule, just written: their class is that of the region that holds the row now (R207). -/
def Dp.classed (d : Dp) (g n : Nat) : List (Nat × Nat) :=
  spanCut d.wcls (g, n) ++ (wRegions d).filterMap (fun r => spanMeet (g, n) (rowGrans * r.1, rowGrans * r.2))

/-- A granule's last write was of class W. -/
def isW (d : Dp) (g : Nat) : Bool := d.wcls.any (fun a => decide (a.1 ≤ g) && decide (g < a.1 + a.2))

/-- Contents of n rows from a row on replaced, with valid checks: their ECC marks go with the old contents (R208). -/
def Dp.rewrite (d : Dp) (row n : Nat) (dev : Mem) : Dp :=
  { d with dev := dev, ecc := d.ecc.filter (fun m => !(decide (row ≤ m.gran / 32) && decide (m.gran / 32 < row + n))),
           wcls := d.classed (rowGrans * row) (rowGrans * n) }

/-- A row written whole. -/
def writeRow (d : Dp) (row : Nat) (data : List Byte) : Dp :=
  d.rewrite row 1 (memWrite d.dev (row * rowBytes) (padTo rowBytes data))

/-! ### ECC (R207, R208) -/

/-- A saturating increment. -/
def satInc {n : Nat} (v : BitVec n) : BitVec n := if v = BitVec.allOnes n then v else v + 1

/-- The counters of the level that holds a granule (R208, R222, R223). -/
def countEcc (d : Dp) (m : EccMark) : Dp :=
  if isOrchard (m.gran / 32) then
    if m.unc then { d with orUe := satInc d.orUe, orLast := BitVec.ofNat 23 m.gran, orLastW := m.w }
    else { d with orCe := d.orCe + 1 }
  else d.modCore (rowCore (m.gran / 32)) (fun c =>
    { c with cm := if m.unc then { c.cm with ue := satInc c.cm.ue, last := BitVec.ofNat 23 m.gran, lastW := m.w }
                   else { c.cm with ce := c.cm.ce + 1 } })

/-- The report a marked granule raises when a unit reads it: ECC_UNCORR or ECC_CORR (Table 17-1, Table 17-3). -/
def eccReport (m : EccMark) (unit : BitVec 4) (queue : BitVec 2) (core : Option (BitVec 3)) : Report :=
  let orch := isOrchard (m.gran / 32)
  if m.unc then
    { cls := 1, status := 0xD, unit := unit, queue := queue, core := core, info0 := BitVec.ofNat 32 m.gran,
      info1 := BitVec.ofNat 32 (m.w.toNat + 2 * orch.toNat), rollback := true, restart := m.w, restore := m.w }
  else
    { cls := 0, status := 0, unit := unit, queue := queue, core := core, info0 := BitVec.ofNat 32 m.gran,
      info1 := BitVec.ofNat 32 orch.toNat, rollback := false, restart := false, restore := false }

/-- The marks of a row. -/
def rowMarks (d : Dp) (row : Nat) : List EccMark := d.ecc.filter (fun m => m.gran / 32 == row)

/-- The corrected granules of a row now wait for their write-back. -/
def markRead (d : Dp) (row : Nat) : Dp :=
  { d with ecc := d.ecc.map (fun m => if m.gran / 32 == row && !m.unc then { m with wb := true } else m) }

/-- The bytes an engine gets: those of an uncorrectable granule are free (Table 9-3). -/
def eccBytes (d : Dp) (row : Nat) (data : List Byte) : List Byte :=
  let bad := (rowMarks d row).filter (fun m => m.unc)
  data.zipIdx.map (fun x =>
    if bad.any (fun m => m.gran % 32 == x.2 / 16) then Config.freeByte (d.free + x.2) else x.1)

/-! ### When an access sees a row (R180, R201, R202, R204) -/

/-- The slot of a core at the bank of an Orchard row, for a request made k cycles from now: in device cycle n, bank b belongs to
core (b + n) mod 8, and the request takes the first such cycle among the eight after it (R201, R202). In cycles from now. -/
def orSlot (d : Dp) (core : BitVec 3) (row k : Nat) : Nat :=
  k + 1 + (core.toNat + 8 - (row % 16 + d.cycle + k + 1) % 8) % 8

/-- The cycle, from now, in which an access requested k cycles from now meets its row: at once in core memory (R199), at the
core's slot in the Orchard. -/
def accessAt (d : Dp) (core : BitVec 3) (row k : Nat) : Nat := if isOrchard row then orSlot d core row k else k

/-- What a write on its way leaves in a row by cycle n from now: that of the latest write landed by then; none where none is on
its way. -/
def rowOnWay (d : Dp) (row n : Nat) : Option (List Byte) :=
  (d.landings.foldl (fun (a : Option (Nat × List Byte)) x =>
    match x.2 with
    | .row r data =>
      if r == row && decide (x.1 ≤ n) && (match a with | some y => decide (y.1 ≤ x.1) | none => true) then some (x.1, data) else a
    | _ => a) none).map (fun y => y.2)

/-- An engine's request of k cycles from now reads a device row: the bytes it gets, with counters, reports and write-backs
(R208). A row that a write has reached by then holds that write, with fresh checks. -/
def Work.readDev (w : Work) (row k : Nat) : List Byte × Work :=
  match rowOnWay w.d row (accessAt w.d w.core row k) with
  | some data => (padTo rowBytes data, w)
  | none =>
  let marks := rowMarks w.d row
  if marks.isEmpty then (rowData w.d row, w) else
  let data := eccBytes w.d row (rowData w.d row)
  let d := marks.foldl countEcc (markRead w.d row)
  let d := if marks.any (fun m => m.unc) then { d with free := d.free + rowBytes } else d
  (data, { w with d := d, reps := w.reps ++ marks.map (fun m => eccReport m (queueUnit w.queue) (queueIndex w.queue) (some w.core)) })

/-- A row of zeros: what a violating read returns (R210). -/
def zeroRow : List Byte := List.replicate rowBytes memDefault

/-- A command's request of cycle I + k reads the row of a reference (R209, R210). -/
def Work.readRef (w : Work) (orch : Bool) (o k : Nat) : List Byte × Work :=
  match refRow w.d w.core orch o with
  | none => (zeroRow, w.bound o)
  | some row => w.readDev row k

/-- n consecutive rows from a reference, one a cycle from I + k on, as one byte string. -/
def Work.readRows (w : Work) (orch : Bool) (o k : Nat) : Nat → List Byte × Work
  | 0 => ([], w)
  | n + 1 =>
    let a := w.readRef orch o k
    let b := a.2.readRows orch (o + 1) (k + 1) n
    (a.1 ++ b.1, b.2)

/-- The rows of a list of offsets, each with its cycle, in order. -/
def Work.readList (w : Work) (orch : Bool) : List (Nat × Nat) → List (List Byte) × Work
  | [] => ([], w)
  | o :: os =>
    let a := w.readRef orch o.1 o.2
    let b := a.2.readList orch os
    (a.1 :: b.1, b.2)

/-- The row holds stream state: it lies in the state area or in a Bloom slot. -/
def Work.inArea (w : Work) (row : Nat) : Bool :=
  isOrchard row && w.areas.any (fun a => decide (a.1 ≤ row) && decide (row < a.1 + a.2))

/-- A row whose write lands in cycle n from now is seen from the cycle after; in the Orchard the write takes effect at its core's
slot (R180, R204). -/
def Dp.rowLands (d : Dp) (core : BitVec 3) (row : Nat) (data : List Byte) (n : Nat) : Dp :=
  { d with landings := d.landings ++ [(accessAt d core row n + 1, .row row data)] }

/-- A command writes the row of a reference, landing `land` cycles after its issue: a violation writes nothing (R210), and
a state write that lands at or after the pit is discarded (R23). -/
def Work.writeRef (w : Work) (orch : Bool) (o : Nat) (data : List Byte) (land : Nat) : Work :=
  match refRow w.d w.core orch o with
  | none => w.bound o
  | some row =>
    if w.inArea row && w.queue == .de && (match w.pitIn with | some p => decide (p ≤ land) | none => false) then
      { w with lateRows := w.lateRows ++ [row] }
    else { w with d := w.d.rowLands w.core row data land, ends := max w.ends (land + 1) }

/-- A write of state rows whose final beat comes too late changes no slot: none of the state rows that the command writes lands
(R23). `n` are the landings that stood before the command. -/
def Work.dropLate (w : Work) (n : Nat) : Work :=
  if w.lateRows.isEmpty then w else
  { w with d := { w.d with landings := w.d.landings.take n ++ (w.d.landings.drop n).filter (fun x =>
      match x.2 with | .row r _ => !w.inArea r | _ => true) } }

/-- A byte string written to consecutive rows, the last one padded with zeros. -/
def Work.writeRows (w : Work) (orch : Bool) (o : Nat) (data : List Byte) (land : Nat) : Nat → Work
  | 0 => w
  | n + 1 => (w.writeRef orch o (data.take rowBytes) land).writeRows orch (o + 1) (data.drop rowBytes) (land + 1) n

/-- Rows that n bytes fill. -/
def rowsFor (n : Nat) : Nat := (n + rowBytes - 1) / rowBytes

/-- The level and offset of an 18-bit row address (R228). -/
def adrOrch (a : BitVec 18) : Bool := a.getLsbD 17
def adrOff (a : BitVec 18) : Nat := (a.extractLsb' 0 17).toNat

/-- The offset of an 18-bit address moved by a signed number of rows; none below 0. -/
def moveOff (o : Nat) (by_ : Int) : Option Nat := if 0 ≤ (o : Int) + by_ then some ((o : Int) + by_).toNat else none

/-! ### Flags, counters and comparators (R237, R247) -/

/-- A flag bit. -/
def setBit {n : Nat} (v : BitVec n) (i : Nat) (b : Bool) : BitVec n :=
  if b then v ||| (1#n <<< i) else v &&& ~~~(1#n <<< i)

/-- A core flag changes. -/
def Dp.setFlg (d : Dp) (c : BitVec 3) (f : BitVec 6) (v : Bool) : Dp :=
  d.modCore c (fun x => { x with flg := setBit x.flg f.toNat v })

/-- An effect that lands n cycles from now. -/
def Dp.landIn (d : Dp) (n : Nat) (l : Landing) : Dp := { d with landings := d.landings ++ [(n, l)] }

/-- A DE command stays outstanding until its CFLG would land, n cycles from now (Table 10-4). -/
def Work.deEnds (w : Work) (n : Nat) (f : BitVec 7) : Work := { w with d := w.d.landIn n (.deDone w.core f) }

/-- CFLG: bit 6 enables, bits 5 to 0 name the flag (Table 10-3). -/
def Dp.cflg (d : Dp) (c : BitVec 3) (f : BitVec 7) : Dp :=
  if f.getLsbD 6 then d.setFlg c (f.extractLsb' 0 6) true else d

/-- Tile-ready bits change (R110). -/
def Dp.setReady (d : Dp) (c : BitVec 3) (bits : BitVec 6) (v : Bool) : Dp :=
  d.modCore c (fun x =>
    let now := x.me.whReady ++ x.me.ibReady
    let new := if v then now ||| bits else now &&& ~~~bits
    { x with me := { x.me with ibReady := new.extractLsb' 0 4, whReady := new.extractLsb' 4 2 } })

/-- A credit return reaches the producer (R214): the count, the channel's flag; above the initial count it is a
CREDIT_VIOLATION of the returning core. -/
def landCredit (d : Dp) (prod ch : BitVec 3) (n : Nat) (from_ : BitVec 3) : Dp × List Report :=
  let x := vget (vget d.cores prod).cm.chans ch
  let excess := decide (x.init < x.credit + n)
  let d := d.modCore prod (fun c =>
    { c with cm := { c.cm with chans := vset c.cm.chans ch { x with credit := min x.init (x.credit + n) } },
             flg := setBit c.flg x.flag.toNat true })
  (d, if excess then
        [{ cls := 4, status := 0xA, unit := queueUnit .de, queue := queueIndex .de, core := some from_,
           info0 := BitVec.ofNat 32 ch.toNat,
           info1 := BitVec.ofNat 32 (x.credit % 65536 + 65536 * (n % 65536)), rollback := true, restart := true,
           restore := false }]
      else [])

/-- A claim reaches the counter unit (R244): the result lands in the core two cycles later (I + 4). -/
def landClaim (d : Dp) (c : BitVec 3) (q : Queue) (i : BitVec 4) (n : Nat) (k : BitVec 3) (cmp : BitVec 2) (cen : Bool) :
    Dp :=
  let x := vget d.wct i
  let ok := decide (x.val.toNat + n ≤ x.lim.toNat)
  let d := if ok then { d with wct := vset d.wct i { x with val := x.val + BitVec.ofNat 16 n } } else d
  d.landIn 2 (.claimResult c q k x.val cmp cen ok)

/-- A curve table as VCTL loaded it becomes active (R190). -/
def landCurve (d : Dp) (c : BitVec 3) (t : BitVec 3) (data : List Byte) : Dp :=
  d.modCore c (fun x => { x with ve := { x.ve with
    ctActive := memWrite x.ve.ctActive (512 * t.toNat) (padTo 512 data),
    ctValid := setBit x.ve.ctValid t.toNat true } })

/-! ### Vector registers, the state buffer and finished tiles (R118, R171, R174) -/

/-- A lane of a vector register written. -/
def setLane (c : Core) (n j code : Nat) : Core :=
  { c with ve := { c.ve with regs := memWrite c.ve.regs (256 * n + 4 * j) (leBytes 4 code) } }

/-- Several lanes written in order: (register, lane, code). -/
def setLanes (c : Core) (l : List (Nat × Nat × Nat)) : Core := l.foldl (fun c x => setLane c x.1 x.2.1 x.2.2) c

/-- Bytes of a memory written in order: (address, bytes). -/
def setCells (m : Mem) (l : List (Nat × List Byte)) : Mem := l.foldl (fun m x => memWrite m x.1 x.2) m

/-- A tile enters the finished-tile queue; a full queue leaves it with the output stage (R118). -/
def pushTile (m : Me) (t : Tile) : Me :=
  if m.ftq.length < 8 ∧ m.outq.isEmpty then { m with ftq := m.ftq ++ [t] } else { m with outq := m.outq ++ [t] }

/-- A row enters a core's inbound buffer of 16 rows, or waits in the fabric before it (R200). -/
def Cmem.arrive (c : Cmem) (r : InRow) : Cmem :=
  if c.fabric.isEmpty && decide (c.inbound.length < 16) then { c with inbound := c.inbound ++ [r] } else { c with fabric := c.fabric ++ [r] }

/-- Rows leave the stream row masks of the dispatch record of tick t: (packet, rows) (R16, R163). -/
def DispRec.narrow (x : DispRec) (t : W64) (l : List (Nat × W64)) : DispRec :=
  if x.seq ≠ t then x else
  { x with pkts := x.pkts.map (fun r => match l.find? (fun y => y.1 == r.pkt) with | some y => { r with mask := r.mask &&& ~~~y.2 } | none => r) }

/-- One landing takes effect. -/
def land (d : Dp) (l : Landing) : Dp × List Report :=
  match l with
  | .flag c f v => (d.setFlg c f v, [])
  | .deDone c f => (d.cflg c f, [])
  | .kset c _ k v => (d.modCore c (fun x => { x with k := vset x.k k v }), [])
  | .kadd c _ k v => (d.modCore c (fun x => { x with k := vset x.k k (vget x.k k + v) }), [])
  | .cmp c _ i v => (d.modCore c (fun x => { x with cmp := setBit x.cmp i.toNat v }), [])
  | .ready c b v => (d.setReady c b v, [])
  | .tables c data => (d.modCore c (fun x => { x with me := { x.me with tb := memWrite x.me.tb 0 data } }), [])
  | .dflag f v => ({ d with dflg := setBit d.dflg f.toNat v }, [])
  | .claimUnit c q i n k cmp cen => (landClaim d c q i n k cmp cen, [])
  | .claimResult c _ k v cmp cen ok =>
    (d.modCore c (fun x => { x with k := vset x.k k v, cmp := if cen then setBit x.cmp cmp.toNat ok else x.cmp }), [])
  | .wrst i lim => ({ d with wct := vset d.wct i ⟨0, lim⟩ }, [])
  | .creditReturn p ch n from_ => landCredit d p ch n from_
  | .curve c t data => (landCurve d c t data, [])
  | .regs c l => (d.modCore c (fun x => setLanes x l), [])
  | .row r data => (writeRow d r data, [])
  | .sbuf c l => (d.modCore c (fun x => { x with se := { x.se with buf := setCells x.se.buf l } }), [])
  | .tile c t => (d.modCore c (fun x => { x with me := pushTile x.me t }), [])
  | .inRow c r => (d.modCore c (fun x => { x with cm := x.cm.arrive r }), [])
  | .narrow c t l =>
    (d.modCore c (fun x => { x with disp := x.disp.narrow t l, dispNext := x.dispNext.map (fun r => r.narrow t l) }), [])

/-- An effect that counts as a command's result, rows apart (R26). -/
def Landing.isResult : Landing → Bool
  | .regs _ _ => true
  | .sbuf _ _ => true
  | .tile _ _ => true
  | .inRow _ _ => true
  | .tables _ _ => true
  | .curve _ _ _ => true
  | _ => false

/-- Cycles from now until everything that a command writes has landed; `n` are the landings that stood before it. -/
def Work.endsIn (w : Work) (n : Nat) : Nat :=
  ((w.d.landings.drop n).filter (fun x => x.2.isResult)).foldl (fun a x => max a x.1) w.ends

/-- Commands of a packet of tick t write up to device cycle e (R24, R26). -/
def Core.packetEnds (c : Core) (t : W64) (pkt e : Nat) : Core :=
  if c.pktEnds.any (fun x => x.1 == t && x.2.1 == pkt) then
    { c with pktEnds := c.pktEnds.map (fun x => if x.1 == t && x.2.1 == pkt then (t, pkt, max e x.2.2) else x) }
  else { c with pktEnds := c.pktEnds ++ [(t, pkt, e)] }

/-- The order in which effects that land in one cycle apply: clears of a flag or ready bit before its sets (R110, R237),
claims by core and queue (R245), resets of a counter after the claims, counters and comparators in queue order and claim
results last (R247). -/
def Landing.rank : Landing → Nat
  | .dflag _ v => v.toNat
  | .flag _ _ v => v.toNat
  | .ready _ _ v => v.toNat
  | .deDone _ _ => 1
  | .claimUnit c q _ _ _ _ _ => 2 + 4 * c.toNat + (queueIndex q).toNat
  | .wrst _ _ => 34
  | .kset _ q _ _ => 35 + (queueIndex q).toNat
  | .kadd _ q _ _ => 35 + (queueIndex q).toNat
  | .cmp _ q _ _ => 35 + (queueIndex q).toNat
  | .claimResult _ _ _ _ _ _ _ => 39
  | .creditReturn _ _ _ _ => 40
  | .curve _ _ _ => 41
  | .tables _ _ => 42
  | .regs _ _ => 43
  | .row _ _ => 44
  | .sbuf _ _ => 45
  | .tile _ _ => 46
  | .inRow _ _ => 47
  | .narrow _ _ _ => 48

/-- The next landing of those due: the least rank, first in order. -/
def landBefore (a b : Nat × Landing) : Bool := a.1 < b.1 || (a.1 == b.1 && a.2.rank < b.2.rank)

/-- A landing put in its place in the order. -/
def insertLanding (x : Nat × Landing) : List (Nat × Landing) → List (Nat × Landing)
  | [] => [x]
  | y :: ys => if landBefore x y then x :: y :: ys else y :: insertLanding x ys

/-- Landings in the order in which they take effect; of equal rank the earlier issued first. -/
def sortLandings : List (Nat × Landing) → List (Nat × Landing) → List (Nat × Landing)
  | acc, [] => acc
  | acc, x :: xs => sortLandings (insertLanding x acc) xs

/-- Every effect due within n cycles lands, in order of cycle and rank; the others move n cycles nearer. -/
def Dp.passLandings (d : Dp) (n : Nat) : Dp × List Report :=
  let due := sortLandings [] (d.landings.filter (fun x => decide (x.1 ≤ n)))
  let rest := (d.landings.filter (fun x => decide (n < x.1))).map (fun x => (x.1 - n, x.2))
  due.foldl (fun (acc : Dp × List Report) x =>
    match x.2 with
    | .claimUnit c q i m k cmp cen =>
      let late := n - x.1
      let y := landClaim { acc.1 with landings := [] } c q i m k cmp cen
      match late, y.landings with
      | 0, l => ({ y with landings := acc.1.landings ++ l }, acc.2)
      | 1, l => ({ y with landings := acc.1.landings ++ l.map (fun z => (z.1 - 1, z.2)) }, acc.2)
      | _, l =>
        let z := l.foldl (fun (a : Dp) e => (land a e.2).1) { y with landings := [] }
        ({ z with landings := acc.1.landings }, acc.2)
    | l =>
      let r := land acc.1 l
      (r.1, acc.2 ++ r.2)) ({ d with landings := rest }, [])

/-- The writes of core c's vector registers that have landed by cycle k from now, in order. -/
def regsOnWay (d : Dp) (c : BitVec 3) (k : Nat) : List (Nat × Nat × Nat) :=
  (sortLandings [] (d.landings.filter (fun x => decide (x.1 ≤ k)))).flatMap (fun x =>
    match x.2 with | .regs j l => if j = c then l else [] | _ => [])

/-- The command's core with its registers as a read of cycle I + k finds them: every write that landed before that cycle (R174). -/
def Work.meAt (w : Work) (k : Nat) : Core := setLanes w.me (regsOnWay w.d w.core k)

/-- The state buffer of core c as a read k cycles from now finds it. -/
def bufAt (d : Dp) (c : BitVec 3) (k : Nat) : Mem :=
  setCells (vget d.cores c).se.buf ((sortLandings [] (d.landings.filter (fun x => decide (x.1 ≤ k)))).flatMap (fun x =>
    match x.2 with | .sbuf j l => if j = c then l else [] | _ => []))

/-- Core c's clock of issue over n cycles: core time runs from the start of compute unless a gate holds, and a held core
counts its slip (R231, R232, Table 10-5). -/
def Core.pass (c : Core) (n : Nat) : Core :=
  match c.hold with
  | some h =>
    { c with slip := c.slip + BitVec.ofNat 32 n,
             fwaitCyc := if h.gate.getLsbD 1 then c.fwaitCyc + BitVec.ofNat 32 n else c.fwaitCyc,
             resCyc := if h.gate.getLsbD 2 then c.resCyc + BitVec.ofNat 32 n else c.resCyc,
             me := if h.gate.getLsbD 0 then { c.me with gateCyc := c.me.gateCyc + BitVec.ofNat 32 n } else c.me,
             hold := some { h with cycles := h.cycles + n } }
  | none => match c.run with
    | .computing => { c with startIn := c.startIn - n, time := c.time + (n - c.startIn) }
    | _ => c

/-- n device cycles pass for the datapath; while it is frozen only effects already on their way land (R420). -/
def Dp.pass (d : Dp) (n : Nat) (frozen : Bool) : Dp × List Report :=
  let r := d.passLandings n
  ({ r.1 with cycle := r.1.cycle + n, cores := if frozen then r.1.cores else r.1.cores.map (fun c => c.pass n) }, r.2)

end Sys2Proof.Machine
end

