-- ==== Sys2Proof/Machine/Flags.lean ====
section
/-!
DEFINITION. Machine/Flags: the sticky flags of the engines (04_accumulation R99 to R102): where a command's flags go.
-/
namespace Sys2Proof.Machine

/-- The flag bits of an engine at its place in COREc_NFLAG (Table 4-3). -/
def nflagBits (q : Queue) (f : NFlags) : W16 := (f.bits.zeroExtend 16) <<< (4 * (queueIndex q).toNat)

/-- Flags of a tick held back, joined with those it already holds. -/
def holdFlags (t : W64) (f : W16) (l : List (W64 × W16)) : List (W64 × W16) :=
  if f = 0 then l
  else if l.any (fun x => x.1 == t) then l.map (fun x => if x.1 == t then (t, x.2 ||| f) else x) else l ++ [(t, f)]

/-- Flags set in device cycle n: a clear that comes in the same cycle leaves them at 1 (R100). -/
def Core.setNflag (c : Core) (f : W16) (n : Nat) : Core :=
  { c with nflag := c.nflag ||| f, nflagNew := if c.nflagCyc = n then c.nflagNew ||| f else f, nflagCyc := n }

/-- Flags cleared in device cycle n by a write of ones (R100, R102). -/
def Core.clearNflag (c : Core) (f : W16) (n : Nat) : Core :=
  { c with nflag := c.nflag &&& ~~~(if c.nflagCyc = n then f &&& ~~~c.nflagNew else f) }

/-- The command's engine raises flags: into COREc_NFLAG, or held with the Bloom slots when the work is speculative. -/
def Work.raise (w : Work) (f : NFlags) : Work :=
  w.modMe (fun c =>
    if w.spec then { c with nflagHeld := holdFlags w.tick (nflagBits w.queue f) c.nflagHeld }
    else c.setNflag (nflagBits w.queue f) w.d.cycle)

end Sys2Proof.Machine
end

