-- ==== Sys2Proof/Machine/Operands.lean ====
section
/-!
DEFINITION. Machine/Operands: operand forms of the engine commands: format-table entries (10_command_queues R228),
predicate masks (11_tiling_and_loader R255 to R257), loop counters (R230), comparators, byte-buffer elements with their
shared scales (R67, R68), and the registers of the VE (R171 to R177).
-/
namespace Sys2Proof.Machine

/-! ### Format table -/

/-- A format-table entry decoded: the operand format, FQ and FIXS (R228). -/
structure FmtSel where
  op : OpFmt
  fq : Int
  fixs : Byte
deriving DecidableEq, Repr

/-- The FMTIs a command uses that select a table entry (1 to 62). -/
def tableFmtis : Instr → List (BitVec 6)
  | .mm _ f => [f.fmtA, f.fmtW] ++ (if f.dst == 0 then [] else [f.fmtO, f.fmtL])
  | .vld _ f => [f.fmti]
  | .vst _ f => [f.fmti]
  | .vib _ f => [f.fmti]
  | .vtopk _ f => if f.msrc == 1 then [f.fmti] else []
  | .dmove _ f => [f.fmtS, f.fmtD]
  | .dmovex _ f => [f.fmtS, f.fmtD]
  | .dmem _ f => [f.fmtS, f.fmtD]
  | _ => []

/-- The entry at an index; one that the loader has not filled holds zeros (DESIGN CHOICE, log 126). -/
def fmtEntry (c : Core) (i : BitVec 6) : FmtEntry :=
  match c.fmts.find? (fun e => e.1 == i) with
  | some e => e.2
  | none => ⟨0, 0, 0⟩

/-- The entry an FMTI selects, none when it holds a reserved code (R71). -/
def fmtSel (c : Core) (i : BitVec 6) : Option FmtSel :=
  let e := fmtEntry c i
  (OpFmt.ofField e.fmt).map (fun o => ⟨o, e.fq.toInt, e.fixs⟩)

/-- The index selects an entry with no reserved code, or needs none (0, 63). -/
def fmtiOk (c : Core) (i : BitVec 6) : Bool := i == 0 || i == 63 || (fmtSel c i).isSome

/-- Plain I8: what stands in for an index that needs no entry. -/
def fmtNone : FmtSel := ⟨OpFmt.plain .i8, 0, 0x7F⟩

/-- The entry, or plain I8 for an index without one. -/
def fmtGet (c : Core) (i : BitVec 6) : FmtSel := (fmtSel c i).getD fmtNone

/-! ### Predicate masks (R255 to R257) -/

/-- The mask entry a MASK field selects; an entry the loader has not filled holds zeros. -/
def maskEntry (c : Core) (m : BitVec 6) : MaskEntry :=
  match c.masks.find? (fun e => e.1 == m) with
  | some e => e.2
  | none => ⟨0, 0, 0, false, 0, 0, 0, 0⟩

/-- The tick's value of the dimension a RDIM or CDIM code 1 to 8 selects. -/
def vdimOf (c : Core) (code : BitVec 4) : Nat :=
  if 1 ≤ code.toNat ∧ code.toNat ≤ 8 then (vget c.disp.vdim (BitVec.ofNat 3 (code.toNat - 1))).toNat else 0

/-- The stream row mask of a packet, as the dispatch record gives it. -/
def pktMask (c : Core) (pkt : Nat) : W64 :=
  match c.disp.pkts.find? (fun p => p.pkt == pkt) with | some p => p.mask | none => 0

/-- The row's stream has its adapter selected, where the mask entry is one of the package's adapter commands (R279). -/
def adapterOn (c : Core) (m : BitVec 6) (pkt r : Nat) : Bool :=
  !c.adMasks.any (fun x => x == m) ||
    (match c.disp.pkts.find? (fun p => p.pkt == pkt) with | some p => p.adsel.getLsbD r | none => false)

/-- Row r is enabled (R256). -/
def rowOn (c : Core) (m : BitVec 6) (pkt r : Nat) : Bool :=
  m == 0 ||
    (let e := maskEntry c m
     e.rowBits.getLsbD r &&
     (e.rdim == 0 || (decide (e.rofs.toNat ≤ r) && decide (r < e.rofs.toNat + vdimOf c e.rdim))) &&
     (!e.srow || (pktMask c pkt).getLsbD r) && adapterOn c m pkt r)

/-- The column dimension test of R256, which alone applies to a memory candidate (R257). -/
def colDimOn (c : Core) (m : BitVec 6) (n : Nat) : Bool :=
  m == 0 ||
    (let e := maskEntry c m
     e.cdim == 0 || (decide (e.cofs.toNat ≤ n) && decide (n < e.cofs.toNat + vdimOf c e.cdim)))

/-- Column n is enabled (R256). -/
def colOn (c : Core) (m : BitVec 6) (n : Nat) : Bool :=
  m == 0 || ((maskEntry c m).colBits.getLsbD n && colDimOn c m n)

/-- Lane j of register i of an operand is enabled under the entry's lane map (R257). -/
def laneOn (c : Core) (m : BitVec 6) (pkt i j : Nat) : Bool :=
  m == 0 ||
    (match (maskEntry c m).lmap.toNat with
     | 0 => rowOn c m pkt j && colOn c m j
     | 1 => rowOn c m pkt (4 * i + j / 16) && colOn c m (j % 16)
     | _ => rowOn c m pkt 0 && colOn c m j)

/-! ### Loop counters and predicates -/

/-- The value an XK field adds (R230): the counter read in the issue cycle, or 0; a code of 1 to 7, bit [3] clear, adds nothing
(DEDUCED, log 131). -/
def xkValue (c : Core) (x : BitVec 4) : Nat :=
  if x.getLsbD 3 then (vget c.k (x.extractLsb' 0 3)).toNat else 0

/-- The command's predicate holds (Table 10-1). -/
def predOn (c : Core) (h : Hdr) : Bool :=
  h.pred == 0 || ((c.cmp.getLsbD (h.pred.toNat - 1)) ^^ h.pinv)

/-- COND codes 0 EQ, 1 NE, 2 LT, 3 LE, 4 GT, 5 GE (Table 10-3). -/
def condHolds (code : BitVec 3) (lt eq : Bool) : Bool :=
  match code.toNat with
  | 0 => eq | 1 => !eq | 2 => lt | 3 => lt || eq | 4 => !(lt || eq) | _ => !lt

/-! ### Elements of a byte string with shared scales -/

/-- Byte i of a list. -/
def byteAt (l : List Byte) (i : Nat) : Byte := l.getD i memDefault

/-- Element i of a packed byte string. -/
def codeAt (f : Fmt) (l : List Byte) (i : Nat) : Nat := elemAt f.bits (byteAt l) i

/-- The entry index of the block that element k of run r lies in: blocks of each run of `len` elements in order (R67,
R68). `row` is the elements of the operand that lie in one row. -/
def blockIndex (o : OpFmt) (row len r k : Nat) : Nat :=
  let b := o.block row
  if b = 0 then 0 else r * ((len + b - 1) / b) + k / b

/-- Blocks in a span of n elements that starts at a block (R67). -/
def blocksIn (o : OpFmt) (row n : Nat) : Nat :=
  let b := o.block row
  if b = 0 then 0 else (n + b - 1) / b

/-- A list cut into runs of n (the last may be shorter). -/
def chunks {α : Type} (n : Nat) : Nat → List α → List (List α)
  | 0, _ => []
  | fuel + 1, l => if l.isEmpty then [] else l.take n :: chunks n fuel (l.drop n)

/-- Decoded values stored under a format in blocks of b elements: packed element bytes, scale bytes and flags (R72 to
R78). -/
def storeElems (o : OpFmt) (fixs : Byte) (q : Int) (b : Nat) (ds : List Dec) : List Byte × List Byte × NFlags :=
  if o.blk = 0 then
    let rs := ds.map (fun d => storeElem o.fmt o.sym d q)
    (packCodes o.fmt.bits (rs.map (fun r => r.1)), [], flagsAll (rs.map (fun r => r.2)))
  else
    let bs := (chunks (max 1 b) ds.length ds).map (storeBlock o fixs q)
    (packCodes o.fmt.bits (bs.flatMap (fun x => x.1)), bs.map (fun x => x.2.2), flagsAll (bs.map (fun x => x.2.1)))

/-- The elements of one block in an ME input slot: along K within a batch row of 128 bytes, or a whole 512-byte row (R67,
R107, log 16). -/
def slotBlock (o : OpFmt) : Nat := if o.blk = 6 then o.fmt.perRow else min (o.block 0) (1024 / o.fmt.bits)

/-- Blocks in one slot row (R107). -/
def slotRowBlocks (o : OpFmt) : Nat := if o.blk = 0 then 0 else o.fmt.perRow / max 1 (slotBlock o)

/-! ### VE registers (R171, R172) -/

/-- The code of lane j of register n. -/
def laneCode (c : Core) (n j : Nat) : Nat := memNat c.ve.regs (256 * n + 4 * j) 4

/-- The decoded value of a lane read at exponent q (R172). -/
def laneDec (c : Core) (sym : Bool) (n j : Nat) (q : Int) : Dec := decodeElem .i32 sym (laneCode c n j) q

/-- Lanes of the core's registers written in cycle I + n − 1, readable from I + n (R174, R180). -/
def Work.regsLand (w : Work) (n : Nat) (l : List (Nat × Nat × Nat)) : Work := { w with d := w.d.landIn n (.regs w.core l) }

/-- The strides of the SD codes (R176). -/
def strideOf (sd : BitVec 3) : Nat :=
  match sd.toNat with | 0 => 0 | 1 => 1 | 2 => 2 | 3 => 4 | 4 => 8 | _ => 16

/-- The lane a single-register source reads for lane j (R176). -/
def srcLane (st : BitVec 6) (sd : BitVec 3) (j : Nat) : Nat := (st.toNat + j * strideOf sd) % 64

end Sys2Proof.Machine
end

