-- ==== Sys2Proof/Machine/Control.lean ====
section
/-!
DEFINITION. Machine/Control: what the control-group commands do to the datapath (10_command_queues R237 to R247,
Table 10-4). An effect in cycle I + n that is seen from the cycle after is a landing n + 1 cycles ahead; flags, counters and
comparators written in cycle I are seen from I + 1 (R237, R247).
-/
namespace Sys2Proof.Machine

/-- A flag write of a command: a core flag in cycle I, a device flag in I + 2 (Table 10-4). -/
def Work.flagWrite (w : Work) (flag : BitVec 6) (dev v : Bool) : Work :=
  { w with d := if dev then w.d.landIn 3 (.dflag flag v) else w.d.landIn 1 (.flag w.core flag v) }

/-- What the core sees of a flag. -/
def flagSeen (d : Dp) (c : BitVec 3) (flag : BitVec 6) (dev : Bool) : Bool :=
  if dev then d.dflg.getLsbD flag.toNat else (vget d.cores c).flg.getLsbD flag.toNat

/-- A control-group command whose predicate is false has no effect at all (R229). -/
def effNop (_run : Bool) (w : Work) : Work := w
def effFset (flag : BitVec 6) (dev : Bool) (run : Bool) (w : Work) : Work := if run then w.flagWrite flag dev true else w
def effFclr (flag : BitVec 6) (dev : Bool) (run : Bool) (w : Work) : Work := if run then w.flagWrite flag dev false else w
/-- A wait that has succeeded clears its flag with CLR 1 (R238). -/
def effFwait (flag : BitVec 6) (dev clr : Bool) (run : Bool) (w : Work) : Work :=
  if run && clr then w.flagWrite flag dev false else w
def effKset (k : BitVec 3) (v : W16) (run : Bool) (w : Work) : Work :=
  if run then { w with d := w.d.landIn 1 (.kset w.core w.queue k v) } else w
def effKadd (k : BitVec 3) (v : W16) (run : Bool) (w : Work) : Work :=
  if run then { w with d := w.d.landIn 1 (.kadd w.core w.queue k v) } else w
/-- CSET compares signed, in its issue cycle (R247). -/
def effCset (cmp : BitVec 2) (k : BitVec 3) (cond : BitVec 3) (v : W16) (run : Bool) (w : Work) : Work :=
  let a := (vget w.me.k k).toInt
  if run then { w with d := w.d.landIn 1 (.cmp w.core w.queue cmp (condHolds cond (decide (a < v.toInt)) (a == v.toInt))) }
  else w
def effWclaim (wct : BitVec 4) (n1 : BitVec 8) (k : BitVec 3) (cmp : BitVec 2) (cen run : Bool) (w : Work) : Work :=
  if run then { w with d := w.d.landIn 3 (.claimUnit w.core w.queue wct (n1.toNat + 1) k cmp cen) } else w
def effWrst (wct : BitVec 4) (limit : W16) (run : Bool) (w : Work) : Work :=
  if run then { w with d := w.d.landIn 3 (.wrst wct limit) } else w

end Sys2Proof.Machine
end

