-- ==== Sys2Proof/Machine/Report.lean ====
section
/-!
DEFINITION. Machine/Report: the error recorder (17_errors_and_recovery R340 to R343) and what a fault does to its tick
(R344 to R349): rollback, chain restart called for, lost committed state.
-/
namespace Sys2Proof.Machine

/-! ### Streams, task and chains -/

/-- The record of a stream outside FREE. -/
def findStream (s : State) (id : W16) : Option Stream := s.sp.streams.find? (fun x => x.id == id)

/-- A stream's record changed. -/
def modStream (s : State) (id : W16) (f : Stream → Stream) : State :=
  { s with sp := { s.sp with streams := s.sp.streams.map (fun x => if x.id == id then f x else x) } }

/-- The loaded package. -/
def taskPkg (s : State) : Option Package := s.sp.task.map (fun t => t.pkg)

/-- Chains of the loaded package. -/
def taskChains (s : State) : List (List (BitVec 3)) := (taskPkg s).elim [] (fun p => p.chains)

/-- The chain of a core. -/
def chainOf (s : State) (c : BitVec 3) : Option Nat := (taskChains s).findIdx? (fun l => l.any (fun x => x == c))

/-- The cores of a chain. -/
def chainCores (s : State) (n : Nat) : List (BitVec 3) := (taskChains s).getD n []

/-- Active cores of the grade (R1, 19_power_clocks_identity R388). -/
def activeCores (s : State) : Nat := s.sec.sensed.grade.toNat

/-- The core exists on this grade. -/
def corePresent (s : State) (c : BitVec 3) : Bool := decide (c.toNat < activeCores s)

/-- Rows of one slot (R153). -/
def slotRows (p : Package) : Nat := p.slotState + p.slotSide

/-- Rows of one Bloom slot (R270). -/
def bloomRows (p : Package) : Nat := p.bloomMap.length

/-- Rows of one group adapter slot: its A and B rows (R156). -/
def adapterRows (a : AdapterDef) : Nat := rowsFor ((a.dIn + a.dOut) * a.rank * 2)

/-- The adapter record of a group. -/
def groupAdapter (p : Package) (g : Byte) : Option AdapterDef := p.adapters.find? (fun a => a.group == some g)

/-- A row lies in n rows from b. -/
def inRows (row b n : Nat) : Bool := decide (b ≤ row) && decide (row < b + n)

/-- The row holds committed state of the stream: slot CUR, Bloom slot BC or its init slot (R349). -/
def streamHolds (p : Package) (x : Stream) (row : Nat) : Bool :=
  (match x.slot with | some b => inRows row (b + (if x.cur then slotRows p else 0)) (slotRows p) | none => false) ||
  (match x.bloom with | some b => inRows row (b + x.bc.toNat * bloomRows p) (bloomRows p) | none => false) ||
  (match x.init with | some b => inRows row b p.slotState | none => false)

/-- The row lies in the current slot of a group's pair. -/
def groupHolds (p : Package) (g : GroupSlot) (row : Nat) : Bool :=
  match groupAdapter p g.group with
  | some a => inRows row (g.slot + (if g.cur then adapterRows a else 0)) (adapterRows a)
  | none => false

/-- Streams that hold an uncorrectable row, the members of a group that holds it among them (R349). -/
def holdersOf (s : State) (row : Nat) : List W16 :=
  match taskPkg s with
  | none => []
  | some p =>
    let gs := (s.sp.groups.filter (fun g => groupHolds p g row)).map (fun g => g.group)
    (s.sp.streams.filter (fun x => streamHolds p x row || (x.adapt == 2 && gs.any (fun g => g == x.group)))).map
      (fun x => x.id)

/-- The row lies in the journal that is kept (R350). -/
def inJournal (s : State) (row : Nat) : Bool :=
  match taskPkg s with | some p => s.err.jrnlActive && inRows row p.journalBase 64 | none => false

/-! ### Recording (R342) -/

/-- The core byte of a report. -/
def coreByte (c : Option (BitVec 3)) : Byte := match c with | some k => k.zeroExtend 8 | none => 0xFF

/-- An entry a report coalesces into. -/
def ErrEntry.matches (e : ErrEntry) (r : Report) : Bool :=
  e.opened && e.rep.cls == r.cls && e.rep.status == r.status && e.rep.core == r.core && e.rep.unit == r.unit

/-- The first matching open entry counts one more. -/
def coalesce (r : Report) : List ErrEntry → Option (List ErrEntry)
  | [] => none
  | e :: es => if e.matches r then some ({ e with repeats := satInc e.repeats } :: es) else (coalesce r es).map (e :: ·)

/-- The class counters take a report (R342 step 1). -/
def countClass (c : ClsRec) (seq : W32) (core : Byte) : ClsRec :=
  { cnt := satInc c.cnt, last := seq, lcore := core, first := if c.cnt = 0 then seq else c.first,
    fcore := if c.cnt = 0 then core else c.fcore }

/-- The recorder takes one report. ECC_CORR is raised only with ERR_CE_REPORT at 1. -/
def recordReport (s : State) (r : Report) : State :=
  if r.cls = 0 ∧ !s.err.ceReport then s else
  let e := s.err
  let cl := countClass (vget e.cls r.cls) (s.tkc.seq.setWidth 32) (coreByte r.core)
  let e := { e with cls := vset e.cls r.cls cl,
                    unrecov := if r.cls = 15 then satInc e.unrecov else e.unrecov }
  let s := if r.cls = 6 then { s with fwr := { s.fwr with toCnt := satInc s.fwr.toCnt } } else s
  match coalesce r e.fifo with
  | some l => { s with err := { e with fifo := l } }
  | none =>
    if e.fifo.length < 64 then
      let x : ErrEntry := { rep := r, repeats := 0, seq := s.tkc.seq, time := BitVec.ofNat 32 s.tkc.time,
                            unrecov := r.cls == 15, opened := true, charged := false }
      { s with err := { e with fifo := e.fifo ++ [x] } }
    else { s with err := { e with lost := e.lost + 1 } }

/-- A report of a device-level unit. -/
def deviceReport (cls : BitVec 4) (status : BitVec 7) (unit : BitVec 4) (info0 info1 : W32) : Report :=
  { cls := cls, status := status, unit := unit, queue := 0, core := none, info0 := info0, info1 := info1,
    rollback := false, restart := false, restore := false }

/-- An UNRECOVERED report (Table 17-1). -/
def unrecovered (s : State) (status : BitVec 7) (stream : W16) (cause : Nat) : State :=
  recordReport s (deviceReport 15 status 2 (stream.zeroExtend 32) (BitVec.ofNat 32 cause))

/-! ### What a fault does (R344 to R349) -/

/-- A rerun that is never admitted leaves its discarded stream-tick SKIPPED (R276, Table 2-4). -/
def rerunLost (s : State) (w : Option PendWin) : State :=
  match w with
  | some w => if w.kind = .rerun then { s with tkc := { s.tkc with skip := s.tkc.skip + 1 } } else s
  | none => s

/-- The tick records not yet past their pit, changed. -/
def mapTicks (s : State) (f : TickRec → TickRec) : State :=
  { s with sp := { s.sp with cur := s.sp.cur.map f, early := s.sp.early.map f } }

/-- A running stream-tick is rolled back (R345). -/
def StreamTick.roll (x : StreamTick) : StreamTick := if x.out = .running then { x with out := .rolledBack } else x

/-- The twin's own seal of a place in a tick (R364). -/
def sealedPlace (s : State) (seq : W64) (place : W16) : Bool :=
  s.twn.mine.any (fun m => m.seq == seq && m.group.toNat == place.toNat / 64 && m.bitmap.getLsbD (place.toNat % 64))

/-- The stream-ticks of a tick that a test selects are rolled back. -/
def rollTick (seq : W64) (p : StreamTick → Bool) (t : TickRec) : TickRec :=
  if t.seq = seq then { t with sts := t.sts.map (fun x => if p x then x.roll else x) } else t

/-- What a core did to the stream-ticks of a tick that a test selects, for CORE_STATUS (R303). -/
def noteCore (seq : W64) (core : BitVec 3) (status : BitVec 7) (p : StreamTick → Bool) (t : TickRec) : TickRec :=
  let n : CoreNote := ⟨core, status.zeroExtend 8, (t.sts.filter p).map (fun y => y.place)⟩
  if t.seq = seq ∧ !t.coreStatus.contains n then { t with coreStatus := t.coreStatus ++ [n] } else t

/-- The chain's stream-ticks of an early tick are discarded and will rerun (R275, R276, R347). -/
def discardEarly (chain : Nat) (t : TickRec) : TickRec :=
  { t with sts := t.sts.map (fun x => if x.chain = chain ∧ x.out = .running then { x with out := .discarded } else x) }

/-- Running stream-ticks of a chain in a tick. -/
def runningIn (chain : Nat) (t : TickRec) : Nat := (t.sts.filter (fun x => x.chain = chain ∧ x.out = .running)).length

/-- The early tick after tick seq loses the chain's stream-ticks. -/
def dropEarly (s : State) (seq : W64) (chain : Nat) : State :=
  match s.sp.early with
  | some e =>
    if e.seq ≠ seq ∧ e.dispatched then
      { s with sp := { s.sp with early := some (discardEarly chain e) },
               fwr := { s.fwr with spec := { s.fwr.spec with
                 discard := s.fwr.spec.discard + BitVec.ofNat 32 (runningIn chain e) } } }
    else s
  | none => s

/-- A chain's restart is called for (R347 step 1): no core of the chain issues further, and the restart stands in the SP's
list. -/
def callRestart (s : State) (chain : Nat) (seq : W64) (restore : Bool) : State :=
  let cs := chainCores s chain
  let d := cs.foldl (fun (d : Dp) c => d.modCore c (fun x =>
    { x with restart := true, hold := none,
             run := if x.run = .computing ∧ seq.toNat ≤ x.tick.toNat then .stopped else x.run })) s.dp
  let rs := if s.sp.restarts.any (fun r => r.chain = chain) then
      s.sp.restarts.map (fun r => if r.chain = chain then { r with restore := r.restore || restore } else r)
    else s.sp.restarts ++ [⟨chain, restore, false⟩]
  dropEarly { s with dp := d, sp := { s.sp with restarts := rs } } seq chain

/-- The tick a report is charged to (R344): an engine's is the tick its core works on. -/
def tickOfReport (s : State) (r : Report) : W64 :=
  match r.tick, r.core with | some t, _ => t | none, some c => (vget s.dp.cores c).tick | none, none => s.tkc.seq

/-- The fault rolls back its chain. -/
def rollChain (s : State) (r : Report) (chain : Nat) : State :=
  let seq := tickOfReport s r
  let p := fun (x : StreamTick) => x.chain == chain && !sealedPlace s seq x.place
  let s := mapTicks s (rollTick seq p)
  match r.core with | some c => mapTicks s (noteCore seq c r.status p) | none => s

/-- Lost committed state of a stream (R349). -/
def loseStream (seq : W64) (s : State) (id : W16) : State :=
  let s := modStream s id (fun x => { x with lost := true })
  unrecovered (mapTicks s (fun t => rollTick seq (fun x => x.stream = id && !sealedPlace s seq x.place) t)) 0xD id 1

/-- A lost journal row takes the commit set of its tick with it: nothing more of that tick is published (R349). -/
def loseJournal (s : State) (row : Nat) : State :=
  let n := row - (taskPkg s).elim 0 (fun p => p.journalBase)
  let mine := fun (t : TickRec) => t.done && t.seq.toNat % 64 == n
  let cut := match s.sp.pubs with | t :: _ => mine t | [] => false
  let cqs := if cut then s.hif.cqs.map (fun r => { r with waiting := r.waiting.filter (fun x => !x.tick) }) else s.hif.cqs
  unrecovered { s with sp := { s.sp with pubs := s.sp.pubs.filter (fun t => !mine t) }, hif := { s.hif with cqs := cqs } } 0xD 0xFFFF 1

/-- The chain a fault is confined to: of a W-class granule of a core memory the chain of the core that owns the row, else
the chain of the raising core (Table 17-3). -/
def faultChain (s : State) (r : Report) : Option Nat :=
  if r.cls = 1 ∧ r.restore ∧ !isOrchard (r.info0.toNat / 32) then chainOf s (rowCore (r.info0.toNat / 32))
  else match r.core with | some c => chainOf s c | none => none

/-- A report is recorded and its fault acts (Table 17-3). -/
def takeReport (s : State) (r : Report) : State :=
  let s := recordReport s r
  let row := r.info0.toNat / 32
  let seq := tickOfReport s r
  let hold := if r.cls = 1 ∧ !r.restore then holdersOf s row else []
  if !hold.isEmpty then hold.foldl (loseStream seq) s
  else if r.cls = 1 ∧ inJournal s row then loseJournal s row
  else match faultChain s r with
    | none => s
    | some ch =>
      let s := if r.rollback then rollChain s r ch else s
      if r.restart then callRestart s ch seq r.restore else s

/-- Reports taken in the order in which they were raised. -/
def takeReports (s : State) (rs : List Report) : State := rs.foldl takeReport s

/-! ### Contested resources (R353, Table 17-5) -/

/-- The owner field of a resource: bit 0 its first user, bit 1 its second. -/
def Err.own (e : Err) (r : BitVec 2) : BitVec 2 :=
  match r.toNat with | 0 => e.ownTrc | 1 => e.ownSin | 2 => e.ownTout | _ => e.ownL3

/-- A user takes or leaves a resource in a cycle. -/
def Err.move (e : Err) (r : BitVec 2) (second on : Bool) (now : Nat) : Err :=
  let v := setBit (e.own r) second.toNat on
  let e := { e with ownLast := vset e.ownLast r (some ⟨second, on, now⟩) }
  match r.toNat with
  | 0 => { e with ownTrc := v } | 1 => { e with ownSin := v } | 2 => { e with ownTout := v } | _ => { e with ownL3 := v }

def moveOwn (s : State) (r : BitVec 2) (second on : Bool) : State := { s with err := s.err.move r second on s.dp.cycle }

/-- A user that holds a resource leaves it. -/
def leaveOwn (s : State) (r : BitVec 2) (second : Bool) : State :=
  if (s.err.own r).getLsbD second.toNat then moveOwn s r second false else s

/-- The second user claimed the free resource in this cycle: the first one's claim of the same cycle is granted in its place. -/
def displaces (s : State) (r : BitVec 2) (split : Bool) : Bool :=
  !split && s.err.own r == 2 && vget s.err.ownLast r == some ⟨true, true, s.dp.cycle⟩

/-- A claim succeeds: the resource is free, and was so before this cycle, or it is split and the claimant's part is free
(DEDUCED of a part, log 140). -/
def mayOwn (s : State) (r : BitVec 2) (second split : Bool) : Bool :=
  if split then !(s.err.own r).getLsbD second.toNat
  else s.err.own r == 0 && vget s.err.ownLast r != some ⟨!second, false, s.dp.cycle⟩

/-- A claim refused: the RESOURCE report names the resource and the claimant's unit (Table 17-1). -/
def refuseOwn (s : State) (r : BitVec 2) (unit : BitVec 4) : State :=
  takeReport s (deviceReport 14 5 unit (r.zeroExtend 32) (unit.zeroExtend 32))

end Sys2Proof.Machine
end

