-- ==== Sys2Proof/Machine/Curves.lean ====
section
/-!
DEFINITION. Machine/Curves: curve tables (08_vector_engine R187 to R191, Table 8-3) and the decay and rotation functions of
the scan (06_scan_engine R128 to R130).
-/
namespace Sys2Proof.Machine

/-- Intercept and slope of segment j of a curve-table row. -/
def curveI (t : List Byte) (j : Nat) : Int := signedOf 16 (leNat ((t.drop (4 * j)).take 2))
def curveS (t : List Byte) (j : Nat) : Int := signedOf 16 (leNat ((t.drop (4 * j + 2)).take 2))

/-- The clamp to I16 of step 3 of R188. -/
def clamp16 (v : Int) : Int := clampInt (-32768) 32767 v

/-- Segment j at the offset num / 2^den (R128, R188). -/
def curveSeg (t : List Byte) (j : Nat) (num : Int) (den : Nat) : Int :=
  clamp16 (curveI t j + rneShift (curveS t j * num) den)

/-- R128: a table evaluated at a 24-bit fraction. -/
def curveAt24 (t : List Byte) (f : Nat) : Int := curveSeg t (f / 2 ^ 19) (f % 2 ^ 19 : Nat) 19

/-- Header fields of Table 8-3. -/
def curveDlo (t : List Byte) : Int := signedOf 32 (leNat ((t.drop 0x80).take 4))
def curveDsh (t : List Byte) : Nat := (byteAt t 0x84).toNat
def curveQin (t : List Byte) : Int := (byteAt t 0x85).toInt
def curveQout (t : List Byte) : Int := (byteAt t 0x86).toInt
def curveMode (t : List Byte) : Byte := byteAt t 0x87
def curveClo (t : List Byte) : Int := signedOf 16 (leNat ((t.drop 0x88).take 2))
def curveChi (t : List Byte) : Int := signedOf 16 (leNat ((t.drop 0x8A).take 2))
def curveId (t : List Byte) : Byte := byteAt t 0x8C

/-- The checks the loader and the VE make of a table (R187). -/
def curveLegal (t : List Byte) : Bool :=
  let m := curveMode t
  let wrapLo := m.extractLsb' 0 2 == 3
  let wrapHi := m.extractLsb' 2 2 == 3
  (wrapLo == wrapHi) && decide (5 ≤ curveDsh t) && decide (curveDsh t ≤ 40) && decide (m.toNat < 64) &&
  (t.drop 0x8D).all (fun b => b == 0)

/-- The scaled position of x in the table's domain: numerator and the power of two under it (R188 step 1). -/
def curvePos (t : List Byte) (x : Dec) : Int × Nat :=
  let s := (curveQin t - x.exp).toNat
  (x.sig * 2 ^ (x.exp - curveQin t + s).toNat - curveDlo t * 2 ^ s, s)

/-- T(x) with NORM 0 for a finite x (R188). -/
def curveDirect (t : List Byte) (x : Dec) : Dec :=
  let p := curvePos t x
  let w := curveDsh t + p.2
  let inside (u : Int) : Dec :=
    .fin (curveSeg t (u / 2 ^ (w - 5)).toNat (u % 2 ^ (w - 5)) (w - 5)) (curveQout t)
  if p.1 < 0 then
    match ((curveMode t).extractLsb' 0 2).toNat with
    | 0 => .fin (clamp16 (curveI t 0)) (curveQout t)
    | 1 => .fin (curveClo t) (curveQout t)
    | 2 => x
    | _ => inside (p.1 % 2 ^ w)
  else if p.1 < 2 ^ w then inside p.1
  else
    match ((curveMode t).extractLsb' 2 2).toNat with
    | 0 => .fin (clamp16 (curveI t 31 + curveS t 31)) (curveQout t)
    | 1 => .fin (curveChi t) (curveQout t)
    | 2 => x
    | _ => inside (p.1 % 2 ^ w)

/-- T(x) with NORM 1 or 2 for a finite x above 0 (R189). -/
def curveNorm (t : List Byte) (norm : Nat) (x : Dec) : Dec :=
  let n := x.sig.natAbs
  let top := n.log2
  if norm = 1 then
    let r := (n - 2 ^ top) * 32
    .fin (curveSeg t (r / 2 ^ top) (r % 2 ^ top : Nat) top) (curveQout t - (top + x.exp))
  else
    let k : Int := (top + x.exp) / 2
    let e := x.exp - 2 * k + 3
    if 0 ≤ e then .fin (curveSeg t (n * 2 ^ e.toNat) 0 0) (curveQout t - k)
    else
      let d := (-e).toNat
      .fin (curveSeg t (n / 2 ^ d) (n % 2 ^ d : Nat) d) (curveQout t - k)

/-- T(x) and whether it sets VE_INV (R188, R189). -/
def curveEval (t : List Byte) (x : Dec) : Dec × Bool :=
  match x.cls with
  | .finite =>
    match ((curveMode t).extractLsb' 4 2).toNat with
    | 0 => (curveDirect t x, false)
    | n => if 0 < x.sig then (curveNorm t n x, false) else (.nan, true)
  | _ => (.nan, false)

/-- dexp(d) for d ≤ 0 in units of 2^−24 (R129); `t` is EXP2F. -/
def dexp (t : List Byte) (d : Int) : Dec :=
  let k := d / 2 ^ 24
  let f := (d % 2 ^ 24).toNat
  if k < -64 then .fin 0 0 else .fin (curveAt24 t f) (k - 14)

/-- rot(d) as (cs, sn) (R130); `tc`, `ts` are COSF and SINF. -/
def rot (tc ts : List Byte) (d : Int) : Dec × Dec :=
  let f := (d % 2 ^ 24).toNat
  (.fin (curveAt24 tc f) (-14), .fin (curveAt24 ts f) (-14))

/-- The active copy of curve table n of a core. -/
def activeCurve (c : Core) (n : BitVec 3) : List Byte := memSlice c.ve.ctActive (512 * n.toNat) 512

end Sys2Proof.Machine
end

