-- ==== Sys2Proof/Machine/Matrix.lean ====
section
/-!
DEFINITION. Machine/Matrix: what the ME commands do to the datapath (05_matrix_engine): shapes, operand tiles and weight
columns, accumulation, finished tiles, fills and tables.
-/
namespace Sys2Proof.Machine

/-! ### Shapes (Tables 5-1 and 5-4) -/

/-- Width class of an operand (Table 5-1). -/
def widthClass (o : OpFmt) : Nat :=
  match o.expand, o.fmt with
  | .table, _ => 16
  | .zero, _ => 8
  | .none, .i4 => 4
  | .none, .m4 => 4
  | .none, .i8 => 8
  | .none, .m8v => 8
  | .none, .m8g => 8
  | .none, _ => 16

/-- The factor d (R104). -/
def meFactor (a w : OpFmt) : Nat :=
  match max (widthClass a) (widthClass w) with | 4 => 4 | 8 => 2 | _ => 1

def mmSegs (f : MmF) : Nat := f.s1.toNat + 1
def mmColsN (f : MmF) : Nat := f.n1.toNat + 1
/-- CPLX and MW32 run four passes. -/
def mmPasses (f : MmF) : Nat := if 4 ≤ f.shape.toNat then 4 else 1

/-- Occupancy S·T, or 4·S·T (R114). -/
def mmOccupancy (f : MmF) : Nat := (mmPasses f) * ((mmSegs f) * max (mmColsN f) 16)

/-- Sub-arrays of a shape. -/
def shapeSubs (s : Nat) : Nat := match s with | 1 => 4 | 2 => 16 | _ => 1
/-- Rows of one problem. -/
def shapeRows (s : Nat) : Nat := match s with | 1 => 32 | 2 => 16 | 3 => 1 | _ => 64
/-- K elements of one problem in a segment. -/
def shapeK (s d : Nat) : Nat := match s with | 1 => 32 * d | 2 => 16 * d | 5 => 64 | _ => 64 * d

/-- First bank row and first bank column of sub-array q (R120). -/
def subRow (s q : Nat) : Nat := match s with | 1 => 32 * (q % 2) | 2 => 16 * (q % 4) | _ => 0
def subCol (s q : Nat) : Nat := match s with | 1 => 64 * (q / 2) | 2 => 32 * (q / 4) | _ => 0
/-- First K element of sub-array q in a row of the tile: its cell columns (DEDUCED, log 15). -/
def subK (s d q : Nat) : Nat := match s with | 1 => 32 * d * (q / 2) | 2 => 16 * d * (q / 4) | _ => 0

/-- The slot segment s starts at; part 1 is the imaginary half in CPLX (R121). -/
def segSlot (f : MmF) (s part : Nat) : Nat :=
  if 4 ≤ f.shape.toNat then (f.ibs.toNat + 2 * s + part) % 4 else (f.ibs.toNat + s) % 4

/-- The slots a command names (R112). -/
def mmSlots (f : MmF) : List Nat :=
  (List.range (mmSegs f)).flatMap (fun s =>
    if 4 ≤ f.shape.toNat then [segSlot f s 0, segSlot f s 1] else [segSlot f s 0])

/-! ### Operands -/

/-- The stationary element of bank row r, K element k of segment s (R107, R122): code and value. The 64 I32 elements of an MW32
batch row lie 32 to a slot, each at byte 128 r of its slot (R107; DEDUCED, log 112). -/
def mmA (c : Core) (f : MmF) (sa : FmtSel) (s part r k : Nat) : Dec × Bool :=
  if f.shape = 5 then
    let slot := segSlot f s (k / 32)
    (decodeElem .i32 sa.op.sym (memNat c.me.ib (8192 * slot + 128 * r + 4 * (k % 32)) 4) sa.fq, false)
  else
    let slot := segSlot f s part
    let code := elemAt sa.op.fmt.bits (fun i => memRead c.me.ib (8192 * slot + 128 * r + i)) k
    let kcap := 1024 / sa.op.fmt.bits
    let entry := if sa.op.blk = 6 then r / 4 else r * ((kcap + slotBlock sa.op - 1) / max 1 (slotBlock sa.op)) + k / max 1 (slotBlock sa.op)
    loadElem sa.op code (if sa.op.blk = 0 then none else some (memRead c.me.ibScale (2048 * slot + entry))) sa.fq

/-- Elements and bytes of one weight column. -/
def colElems (f : MmF) (d : Nat) : Nat := shapeSubs f.shape.toNat * shapeK f.shape.toNat d
def colBytes (f : MmF) (d : Nat) (w : OpFmt) : Nat := colElems f d * w.fmt.bits / 8

/-- Position of a column in the half: segment by segment, in CPLX the real columns of a segment before the imaginary
(R108, R121). -/
def colPos (f : MmF) (s n part : Nat) : Nat :=
  if f.shape = 4 then s * (2 * (mmColsN f)) + part * (mmColsN f) + n else s * (mmColsN f) + n

/-- The scale entry of weight element k of column `colIdx` of the half, whose columns run in segments of n (R67, R108). Along K the
blocks of a column end at the column; along N the blocks of a segment begin at its first column and the last ends short. DEDUCED,
log 113: what a block of 128 longer than a column, or one that crosses two sub-arrays' blocks of a column, takes. -/
def wEntry (o : OpFmt) (n colIdx kcol byte k : Nat) : Nat :=
  let b := max 1 (o.block 0)
  if o.blk = 6 then byte / 512
  else if o.dirN then ((colIdx / max 1 n) * ((n + b - 1) / b) + (colIdx % max 1 n) / b) * kcol + k
  else colIdx * ((kcol + b - 1) / b) + k / b

/-- The weight element k of column n of segment s with its expansion (R69, R70, R108). Where WOFS is not a multiple of a column's
bytes, the columns before it count rounded down (DEDUCED, log 113). -/
def mmW (c : Core) (f : MmF) (sw : FmtSel) (d s n part k : Nat) : Dec × Bool :=
  let base := 65536 * f.wh.toNat
  if f.shape = 5 then
    let b := 64 * f.wofs.toNat + colPos f s n 0 * 256 + 4 * k
    (decodeElem .i32 sw.op.sym (memNat c.me.wh (base + b) 4) sw.fq, false)
  else
    let cb := colBytes f d sw.op
    let off := 64 * f.wofs.toNat + colPos f s n part * cb
    let code := elemAt sw.op.fmt.bits (fun i => memRead c.me.wh (base + off + i)) k
    let colIdx := 64 * f.wofs.toNat / max 1 cb + colPos f s n part
    let e := wEntry sw.op (mmColsN f) colIdx (colElems f d) (off + k * sw.op.fmt.bits / 8) k
    let sb := 16384 * f.wh.toNat
    let zp := sw.op.expand == .zero
    let sc := if sw.op.blk = 0 then none else some (memRead c.me.whScale (sb + (if zp then 2 * e else e)))
    let z := if zp then memRead c.me.whScale (sb + 2 * e + 1) else 0
    loadMe sw.op code sc z (fun i => signedOf 16 (memNat c.me.tb (32 * f.tsel.toNat + 2 * i) 2)) sw.fq

/-! ### Accumulation -/

/-- One accumulator entry a command writes: its bank row and column, the operand pairs in K order. -/
structure AccJob where
  row : Nat
  col : Nat
  pairs : List (Dec × Dec)
  inv : Bool
deriving DecidableEq, Repr

/-- The operand pairs of (row, column n) for tile part pa and weight part pw, over all segments in K order (R88). -/
def mmPairs (c : Core) (f : MmF) (sa sw : FmtSel) (d q r n pa pw : Nat) (neg : Bool) : List (Dec × Dec) × Bool :=
  let s := f.shape.toNat
  let kk := shapeK s d
  let xs := (List.range (mmSegs f)).flatMap (fun seg => (List.range kk).map (fun k =>
    let a := mmA c f sa seg pa (subRow s q + r) (subK s d q + k)
    let w := mmW c f sw d seg n pw (q * kk + k)
    (((if neg then a.1.neg else a.1), w.1), a.2 || w.2)))
  (xs.map (fun x => x.1), xs.any (fun x => x.2))

/-- The entries a command writes, masked ones left out (R120, R121, R123). -/
def mmJobs (c : Core) (i : Iss) (f : MmF) (sa sw : FmtSel) : List AccJob :=
  let s := f.shape.toNat
  let d := meFactor sa.op sw.op
  (List.range (shapeSubs s)).flatMap (fun q => (List.range (shapeRows s)).flatMap (fun r =>
    if !rowOn c i.hdr.mask i.pkt (subRow s q + r) then [] else
    (List.range (mmColsN f)).flatMap (fun n =>
      let row := subRow s q + r
      let col := subCol s q + f.acol.toNat + n
      if s = 4 then
        let p1 := mmPairs c f sa sw d q r n 0 0 false
        let p2 := mmPairs c f sa sw d q r n 1 1 true
        let p3 := mmPairs c f sa sw d q r n 0 1 false
        let p4 := mmPairs c f sa sw d q r n 1 0 false
        (if colOn c i.hdr.mask col then [⟨row, col, p1.1 ++ p2.1, p1.2 || p2.2⟩] else []) ++
        (if colOn c i.hdr.mask (col + 64) then [⟨row, col + 64, p3.1 ++ p4.1, p3.2 || p4.2⟩] else [])
      else if colOn c i.hdr.mask col then
        let p := mmPairs c f sa sw d q r n 0 0 false
        [⟨row, col, p.1, p.2⟩]
      else [])))

/-- Key of an accumulator entry (R116). -/
def accKey (bank : BitVec 1) (row col : Nat) : Nat := 8192 * bank.toNat + 128 * row + col

/-- An A88 entry the spec leaves open. -/
def accFree (n : Nat) : A88 :=
  let v := (Config.freeAcc n).toNat
  (A88.ofWords (v % 2 ^ 32) (v / 2 ^ 32 % 2 ^ 32) (v / 2 ^ 64)).1

/-- The entry's content; one no command of the tick has written is undefined (R116): a free value, but for a file just cleared. -/
def accAt (c : Core) (free key : Nat) : A88 :=
  match c.me.acc.find? (fun x => x.1 == key) with
  | some x => x.2
  | none => if c.me.accZero then A88.zero else accFree (free + key)

/-- The columns a command writes in its bank, masked or not. -/
def mmCols (f : MmF) : List Nat :=
  let s := f.shape.toNat
  (List.range (shapeSubs s)).flatMap (fun q => (List.range (mmColsN f)).flatMap (fun n =>
    let col := subCol s q + f.acol.toNat + n
    if s = 4 then [col, col + 64] else [col]))

/-! ### Finished tiles (R117, R432) -/

/-- The first columns of the finished tiles a command completes, in increasing order. -/
def tileGroups (f : MmF) : List Nat :=
  (List.range 8).filter (fun g => (mmCols f).any (fun col => col / 16 == g))

/-- The elements of one tile in row order: the decoded value of an entry the command wrote, exact zero elsewhere. -/
def tileValues (res : List (Nat × Nat × A88)) (g : Nat) : List (Option A88) :=
  (List.range 64).flatMap (fun r => (List.range 16).map (fun k =>
    (res.find? (fun x => x.1 == r && x.2.1 == 16 * g + k)).map (fun x => x.2.2)))

/-- Elements stored under an output format in blocks along the 16 elements of a batch row: codes with their flags, and
scale bytes (R432). -/
def tileStore (s : FmtSel) (ds : List Dec) : List (Nat × NFlags) × List Byte × List Int :=
  if s.op.blk = 0 then (ds.map (fun d => storeElem s.op.fmt s.op.sym d s.fq), [], ds.map (fun _ => s.fq))
  else
    let b := min 16 (max 1 (s.op.block 16))
    let bs := (chunks b ds.length ds).map (fun blk =>
      let sc := blockScale s.op s.fixs s.fq blk
      (blockElems s.op s.fq sc blk, sc))
    (bs.flatMap (fun x => x.1), bs.map (fun x => x.2),
      bs.flatMap (fun x => x.1.map (fun _ => blockExp s.fq x.2)))

/-- A tile of codes under a format. -/
def mkTile (fmti : BitVec 6) (bits : Nat) (codes : List Nat) (scale : List Byte) : Tile :=
  ⟨fmti, packCodes bits codes, scale⟩

/-- The tiles of one column group and the flags of their stores (R95, R117). -/
def groupTiles (c : Core) (f : MmF) (e : Int) (vals : List (Option A88)) : List Tile × NFlags :=
  if f.fmtO = 63 then
    let ws := vals.map (fun v => (v.getD A88.zero).words)
    ((List.range 3).map (fun p => mkTile 63 32 (ws.map (fun w => w.getD p 0)) []), .none)
  else
    let so := fmtGet c f.fmtO
    let ds := vals.map (fun v => match v with | some a => a.toDec e | none => Dec.zero)
    let hi := tileStore so ds
    let tHi := mkTile f.fmtO so.op.fmt.bits (hi.1.map (fun x => x.1)) hi.2.1
    if f.fmtL = 0 then ([tHi], flagsAll (hi.1.map (fun x => x.2)))
    else
      let sl := fmtGet c f.fmtL
      let rs := ((ds.zip hi.1).zip hi.2.2).map (fun x =>
        (pairResidual x.1.1 so.op.fmt so.op.sym x.1.2 x.2).getD Dec.zero)
      let lo := tileStore sl rs
      ([tHi, mkTile f.fmtL sl.op.fmt.bits (lo.1.map (fun x => x.1)) lo.2.1],
        (flagsAll (hi.1.map (fun x => pairHiFlags x.2))).or (flagsAll (lo.1.map (fun x => x.2))))

/-- A tile of all-zeros codes in every element and scale byte (R229). -/
def zeroTile (c : Core) (fmti : BitVec 6) : Tile :=
  let s := fmtGet c fmti
  let bits := if fmti = 63 then 32 else s.op.fmt.bits
  ⟨fmti, List.replicate (1024 * bits / 8) memDefault,
    if fmti = 63 || s.op.blk = 0 then [] else List.replicate (64 * (16 / min 16 (max 1 (s.op.block 16)))) memDefault⟩

/-- The zero tiles of one column group of a command that does not run. -/
def zeroGroup (c : Core) (f : MmF) : List Tile :=
  if f.fmtO = 63 then [zeroTile c 63, zeroTile c 63, zeroTile c 63]
  else if f.fmtL = 0 then [zeroTile c f.fmtO] else [zeroTile c f.fmtO, zeroTile c f.fmtL]

/-- The rows of a tile: its element rows, and its scale row when it has one (R117, R432). -/
def tileRows (t : Tile) : List Byte :=
  padTo (rowsFor t.elems.length * rowBytes) t.elems ++ (if t.scale.isEmpty then [] else padTo rowBytes t.scale)

/-- The last column of a pass that lies in column group g. -/
def lastCol (f : MmF) (g : Nat) : Nat :=
  ((List.range (mmColsN f)).filter (fun n => (List.range (shapeSubs f.shape.toNat)).any (fun q =>
    (subCol f.shape.toNat q + f.acol.toNat + n) / 16 == g ||
      (f.shape == 4 && (f.acol.toNat + n + 64) / 16 == g)))).foldl max 0

/-- Cycles from its issue until a command's tile of group g is visible: 73 after the entry cycle of the tile's last written column
in the final segment and pass (R114, R117). -/
def tileAt (f : MmF) (g : Nat) : Nat :=
  16 + (mmPasses f * mmSegs f - 1) * max (mmColsN f) 16 + lastCol f g + 73

/-- Finished tiles enter the queue in the cycle in which they become visible (R117). -/
def Work.tilesEnter (w : Work) : List (Nat × Tile) → Work
  | [] => w
  | t :: ts => ({ w with d := w.d.landIn t.1 (.tile w.core t.2) } : Work).tilesEnter ts

/-- The bytes of a row string written to consecutive rows that all land in cycle I + land. -/
def Work.writeTogether (w : Work) (orch : Bool) (o : Nat) (data : List Byte) (land : Nat) : Nat → Work
  | 0 => w
  | n + 1 => (w.writeRef orch o (data.take rowBytes) land).writeTogether orch (o + 1) (data.drop rowBytes) land n

/-- Tiles written to core memory in consecutive rows, each in its cycle (DST 2, R117). -/
def Work.writeTiles (w : Work) (o : Nat) : List (Nat × Tile) → Work
  | [] => w
  | t :: ts =>
    let b := tileRows t.2
    (w.writeTogether false o b t.1 (rowsFor b.length)).writeTiles (o + rowsFor b.length) ts

/-! ### The commands -/

/-- The segment positions, over all passes, at which a command copies slot k (R114). In CPLX the first and third pass copy the real
part and the second and fourth the imaginary part (R121); every pass of MW32 copies both slots. -/
def slotUses (f : MmF) (k : Nat) : List Nat :=
  (List.range (mmPasses f)).flatMap (fun p => ((List.range (mmSegs f)).filter (fun s =>
    if f.shape = 4 then segSlot f s (p % 2) == k
    else segSlot f s 0 == k || (decide (4 < f.shape.toNat) && segSlot f s 1 == k))).map (fun s => p * mmSegs f + s))

/-- REL clears the ready bits of the released slots and halves: a slot in the cycle after its last copy, a half in the
cycle after its last column is read (R110, R114). -/
def Work.mmRelease (w : Work) (f : MmF) : Work :=
  let t := max (mmColsN f) 16
  let slots := ((List.range 4).filter (fun k => f.rel.getLsbD k)).map (fun k =>
    ((slotUses f k).foldl max 0 * t + 17, Landing.ready w.core (1#6 <<< k) false))
  let halves := ((List.range 2).filter (fun k => f.rel.getLsbD (4 + k))).map (fun k =>
    (16 + (mmPasses f * mmSegs f - 1) * t + (mmColsN f - 1) + 2, Landing.ready w.core (1#6 <<< (4 + k)) false))
  { w with d := { w.d with landings := w.d.landings ++ slots ++ halves } }

/-- The tile-ready gate of an MM (R112). -/
def mmReady (c : Core) (f : MmF) : Bool :=
  (mmSlots f).all (fun s => c.me.ibReady.getLsbD s) && c.me.whReady.getLsbD f.wh.toNat

/-- The columns of a command that works enter the weight read stage (R114, Table 5-6, log 30). -/
def Work.meBusy (w : Work) (f : MmF) : Work :=
  w.modMe (fun c => { c with me := { c.me with
    busyCyc := c.me.busyCyc + BitVec.ofNat 32 ((mmPasses f) * ((mmSegs f) * (mmColsN f))),
    runs := c.me.runs.filter (fun r => decide (w.d.cycle < r.2)) ++ [(w.d.cycle + 16, w.d.cycle + 16 + (mmOccupancy f) + 72)],
    arrayIdle := max c.me.arrayIdle (w.d.cycle + 16 + (mmOccupancy f) + 72) } })

/-- The results of a command: bank row, column, value, and flags. -/
def mmResults (c : Core) (free : Nat) (i : Iss) (f : MmF) : List (Nat × Nat × A88) × NFlags :=
  let sa := fmtGet c f.fmtA
  let sw := fmtGet c f.fmtW
  let e := f.accExp.toInt
  let jobs := mmJobs c i f sa sw
  let rs := jobs.map (fun j =>
    let start := if f.accAdd = 1 then accAt c free (accKey f.abank j.row j.col) else A88.zero
    let r := dotEntry start j.pairs e
    ((j.row, j.col, r.1), r.2, j.inv))
  let fl := flagsAll (rs.map (fun r => r.2.1))
  (rs.map (fun r => r.1), { fl with inv := fl.inv || rs.any (fun r => r.2.2) })

/-- The accumulator file with a command's results (R116). -/
def accWrite (acc : List (Nat × A88)) (bank : BitVec 1) (rs : List (Nat × Nat × A88)) : List (Nat × A88) :=
  let new := rs.map (fun r => (accKey bank r.1 r.2.1, r.2.2))
  acc.filter (fun x => !new.any (fun y => y.1 == x.1)) ++ new

/-- No accumulator entry of the command is enabled (R260). -/
def mmZeroShape (c : Core) (i : Iss) (f : MmF) : Bool :=
  let s := f.shape.toNat
  !((List.range (shapeSubs s)).any (fun q => (List.range (shapeRows s)).any (fun r =>
      rowOn c i.hdr.mask i.pkt (subRow s q + r))) &&
    (mmCols f).any (fun col => colOn c i.hdr.mask col))

def effMm (i : Iss) (f : MmF) (run : Bool) (w : Work) : Work :=
  let c := w.me
  if !run || mmZeroShape c i f then
    (if f.dst = 1 then w.tilesEnter ((tileGroups f).flatMap (fun g => (zeroGroup c f).map (fun t => (tileAt f g, t)))) else w).mmRelease f
  else
    let w := w.meBusy f
    let r := mmResults c w.d.free i f
    let w := { w with d := { w.d with free := w.d.free + 16384 } }
    let w := (w.modMe (fun c => { c with me := { c.me with acc := accWrite c.me.acc f.abank r.1 } })).mmRelease f
    let w := w.raise r.2
    if f.dst = 0 then w else
    let ts := (tileGroups f).map (fun g => (g, groupTiles c f f.accExp.toInt (tileValues r.1 g)))
    let tiles := ts.flatMap (fun t => t.2.1.map (fun x => (tileAt f t.1, x)))
    let w := w.raise (flagsAll (ts.map (fun t => t.2.2)))
    if f.dst = 1 then w.tilesEnter tiles else w.writeTiles f.addr.toNat tiles

/-- The fill unit is occupied (R115). -/
def Work.fillBusy (w : Work) (o : Nat) : Work :=
  w.modMe (fun c => { c with me := { c.me with fillIdle := max c.me.fillIdle (w.d.cycle + o) } })

/-- A half's tile-ready bit set when the last of n rows lands, 6 cycles after its request (R109, R110). -/
def Work.halfReady (w : Work) (h n : Nat) : Work :=
  { w with d := w.d.landIn (n + 6) (.ready w.core (1#6 <<< (4 + h)) true) }

def effWfill (_ : Iss) (f : WfillF) (run : Bool) (w : Work) : Work :=
  let n := f.nrows1.toNat + 1
  let w := w.fillBusy (n + f.srows.toNat + 6)
  let rows := n + f.srows.toNat
  if !run then w.halfReady f.wh.toNat rows else
  let o := f.addr.toNat + xkValue w.me f.xk
  let a := w.readRows false o 0 n
  let b := a.2.readRows false (o + n) n f.srows.toNat
  (b.2.modMe (fun c => { c with me := { c.me with
    wh := memWrite c.me.wh (65536 * f.wh.toNat + 512 * f.wrow.toNat) a.1,
    whScale := memWrite c.me.whScale (16384 * f.wh.toNat + 512 * f.swrow.toNat) b.1 } })).halfReady f.wh.toNat rows

/-- TLOAD completes 8 cycles after it issues; an MM that issues in that cycle still sees the old tables (R109, R111). -/
def effTload (_ : Iss) (f : TloadF) (run : Bool) (w : Work) : Work :=
  let w := w.fillBusy 8
  if !run then w else
  let a := w.readRef false (f.addr.toNat + xkValue w.me f.xk) 0
  { a.2 with d := a.2.d.landIn 9 (.tables w.core a.1) }

end Sys2Proof.Machine
end

