-- ==== Sys2Proof/Machine/Vector.lean ====
section
/-!
DEFINITION. Machine/Vector: what each VE command does to the datapath (08_vector_engine). A meaning at the level of State
stands in Machine/Issue.lean.
-/
namespace Sys2Proof.Machine

/-! ### Exact arithmetic on decoded values -/

/-- a + b, exact (R173). -/
def addExact (a b : Dec) : Dec :=
  let x := min a.exp b.exp
  .fin (a.sig * 2 ^ (a.exp - x).toNat + b.sig * 2 ^ (b.exp - x).toNat) x

def negDec (a : Dec) : Dec := a.neg
def absDec (a : Dec) : Dec := { a with sig := a.sig.natAbs }
def mulExact (a b : Dec) : Dec := .fin (a.sig * b.sig) (a.exp + b.exp)

/-- a < b for finite values and infinities (R193). -/
def ltDec (a b : Dec) : Bool :=
  match a.cls, b.cls with
  | .finite, .finite => decide ((subExact a b).sig < 0)
  | .negInf, .negInf => false
  | .negInf, _ => true
  | _, .negInf => false
  | .posInf, _ => false
  | _, .posInf => true
  | _, _ => false

def eqDec (a b : Dec) : Bool := !ltDec a b && !ltDec b a

/-- NAN if any of the values is NAN (R173). -/
def nanOr (l : List Dec) (d : Dec) : Dec := if l.any (fun x => x.cls == .nan) then .nan else d

/-- The exact sum of a list; NAN if a term is NAN. -/
def sumExact (l : List Dec) : Dec := nanOr l (l.foldl addExact (.fin 0 0))

/-! ### Lane-wise instructions (Table 8-2) -/

/-- What a lane-wise instruction gives a lane: its code and flags. -/
abbrev LaneFn := Core → VArithF → Nat → Nat × NFlags

/-- The three operands of a lane (R176). -/
def opA (c : Core) (f : VArithF) (j : Nat) : Dec :=
  laneDec c (f.sym == 1) f.va.toNat (srcLane f.sta f.sda j) f.qa.toInt
def opB (c : Core) (f : VArithF) (j : Nat) : Dec :=
  laneDec c (f.sym == 1) f.vb.toNat (srcLane f.stb f.sdb j) f.qb.toInt
def opC (c : Core) (f : VArithF) (j : Nat) : Dec :=
  laneDec c (f.sym == 1) f.vc.toNat (srcLane f.stc f.sdc j) f.qc.toInt
/-- The raw code of operand a, and of operand c. -/
def rawA (c : Core) (f : VArithF) (j : Nat) : Nat := laneCode c f.va.toNat (srcLane f.sta f.sda j)
def rawC (c : Core) (f : VArithF) (j : Nat) : Nat := laneCode c f.vc.toNat (srcLane f.stc f.sdc j)

/-- The store of a lane result at QD (R172). -/
def laneStore (f : VArithF) (d : Dec) : Nat × NFlags := storeElem .i32 (f.sym == 1) d f.qd.toInt

def laneVmov : LaneFn := fun c f j => if f.raw = 1 then (rawA c f j, .none) else laneStore f (opA c f j)
def laneVadd : LaneFn := fun c f j =>
  laneStore f (nanOr [opA c f j, opB c f j] (addExact (opA c f j) (opB c f j)))
def laneVsub : LaneFn := fun c f j =>
  laneStore f (nanOr [opA c f j, opB c f j] (subExact (opA c f j) (opB c f j)))
def laneVmul : LaneFn := fun c f j =>
  laneStore f (nanOr [opA c f j, opB c f j] (mulExact (opA c f j) (opB c f j)))
def laneVmac : LaneFn := fun c f j =>
  laneStore f (nanOr [opA c f j, opB c f j, opC c f j] (addExact (mulExact (opA c f j) (opB c f j)) (opC c f j)))
/-- The larger and the smaller of two values. -/
def maxDec (a b : Dec) : Dec := if ltDec a b then b else a
def minDec (a b : Dec) : Dec := if ltDec b a then b else a
def laneVmax : LaneFn := fun c f j => laneStore f (nanOr [opA c f j, opB c f j] (maxDec (opA c f j) (opB c f j)))
def laneVmin : LaneFn := fun c f j => laneStore f (nanOr [opA c f j, opB c f j] (minDec (opA c f j) (opB c f j)))
def laneVabs : LaneFn := fun c f j => laneStore f (nanOr [opA c f j] (absDec (opA c f j)))
def laneVneg : LaneFn := fun c f j => laneStore f (nanOr [opA c f j] (negDec (opA c f j)))
def laneVclp : LaneFn := fun c f j =>
  laneStore f (nanOr [opA c f j, opB c f j, opC c f j] (maxDec (opB c f j) (minDec (opA c f j) (opC c f j))))
/-- VCMP: code 1 or 0; with a NaN operand only NE holds. -/
def laneVcmp : LaneFn := fun c f j =>
  let a := opA c f j
  let b := opB c f j
  let holds := if a.cls == .nan || b.cls == .nan then decide (f.cond.toNat = 1) else condHolds f.cond (ltDec a b) (eqDec a b)
  (if holds then 1 else 0, .none)
def laneVsel : LaneFn := fun c f j => laneStore f (if rawC c f j ≠ 0 then opA c f j else opB c f j)
/-- VCRV: T(a), or b × T(a) with MULX at 1 (R188, R189). -/
def laneVcrv : LaneFn := fun c f j =>
  let t := curveEval (activeCurve c f.ct) (opA c f j)
  let r := if f.mulx = 1 then nanOr [t.1, opB c f j] (mulExact (opB c f j) t.1) else t.1
  let s := laneStore f r
  (s.1, { s.2 with inv := s.2.inv || t.2 })

/-- The VE is occupied for o cycles, and its last result lands o + lat − 1 cycles on (R180, R196). -/
def Work.veBusy (w : Work) (o lat : Nat) : Work :=
  w.modMe (fun c => { c with ve := { c.ve with busyCyc := c.ve.busyCyc + BitVec.ofNat 32 o,
                                               idle := max c.ve.idle (w.d.cycle + o + lat) } })

/-- A lane-wise instruction reads its registers in its issue cycle; every enabled lane of VD takes its result `lat` cycles later,
and the flags of all lanes join (R173, R174, R178, R180). -/
def effLanes (fn : LaneFn) (lat : Nat) (i : Iss) (f : VArithF) (run : Bool) (w : Work) : Work :=
  let w := w.veBusy 1 lat
  if !run then w else
  let c := w.me
  let on := (List.range 64).filter (fun j => laneOn c i.hdr.mask i.pkt 0 j)
  let rs := on.map (fun j => (j, fn c f j))
  (w.regsLand (1 + lat) (rs.map (fun r => (f.vd.toNat, r.1, r.2.1)))).raise (flagsAll (rs.map (fun r => r.2.2)))

/-! ### Reductions (R192) -/

/-- The decoded enabled lanes of CNT registers; `v k` is the core as a read of cycle I + k finds it (R174). -/
def reduceLanes (v : Nat → Core) (i : Iss) (f : VRedF) : List Dec :=
  (List.range (f.cnt1.toNat + 1)).flatMap (fun r =>
    ((List.range 64).filter (fun j => laneOn (v 0) i.hdr.mask i.pkt r j)).map (fun j =>
      laneDec (v r) (f.sym == 1) (f.va.toNat + r) j f.qa.toInt))

def redSum (l : List Dec) : Dec := sumExact l
def redSsq (l : List Dec) : Dec := sumExact (l.map (fun a => nanOr [a] (mulExact a a)))
def redMax (l : List Dec) : Dec := nanOr l ((l.map absDec).foldl maxDec (.fin 0 0))

/-- A reduction stored once into lane STD of VD. With every lane masked the result is exact zero, as R192 says of it (log
29); R260 in general has a zero-shape command compute nothing. -/
def effReduce (fn : List Dec → Dec) (i : Iss) (f : VRedF) (run : Bool) (w : Work) : Work :=
  let w := w.veBusy (f.cnt1.toNat + 1) 6
  if !run then w else
  let l := reduceLanes w.meAt i f
  let r := storeElem .i32 (f.sym == 1) (fn l) f.qd.toInt
  (w.regsLand (f.cnt1.toNat + 1 + 6) [(f.vd.toNat, f.std.toNat, r.1)]).raise r.2

/-! ### VLD and VST (R177, R181) -/

/-- The distinct values of a list of numbers, in order of first appearance. -/
def distinct : List Nat → List Nat
  | [] => []
  | x :: xs => x :: (distinct xs).filter (fun y => y != x)

/-- Rows of an operand and of its scales read once each, (offset, cycle): their offsets with their bytes. -/
def Work.readDistinct (w : Work) (orch : Bool) (offs : List (Nat × Nat)) : List (Nat × List Byte) × Work :=
  let r := w.readList orch offs
  ((offs.map (fun o => o.1)).zip r.1, r.2)

/-- Rows that the two read ports of the VE take from cycle I + t on, two a cycle, the first of them in place `from_` of the order
(Table 8-2). -/
def twoPorts (t from_ : Nat) (offs : List Nat) : List (Nat × Nat) := offs.zipIdx.map (fun x => (x.1, t + (from_ + x.2) / 2))

/-- Of the rows a plan reads, those that are needed, each in its planned cycle. -/
def neededOf (planned : List (Nat × Nat)) (offs : List Nat) : List (Nat × Nat) := planned.filter (fun x => offs.contains x.1)

/-- The bytes of a row among those read. -/
def rowOf (rows : List (Nat × List Byte)) (o : Nat) : List Byte :=
  match rows.find? (fun x => x.1 == o) with | some x => x.2 | none => []

/-- Element e of an operand that starts at row `o`, with its scale byte from rows starting at `so` (R58, R68, R177). -/
def spanElem (s : FmtSel) (rows srows : List (Nat × List Byte)) (o so e : Nat) (q : Int) : Dec × Bool :=
  let per := s.op.fmt.perRow
  let code := codeAt s.op.fmt (rowOf rows (o + e / per)) (e % per)
  let sc := if s.op.blk = 0 then none else
    let b := e / max 1 (s.op.block per)
    some (byteAt (rowOf srows (so + b / rowBytes)) (b % rowBytes))
  loadElem s.op code sc (s.fq + q)

/-- The rows of elements and of their scales. -/
def spanRows (s : FmtSel) (o so : Nat) (es : List Nat) : List Nat × List Nat :=
  let per := s.op.fmt.perRow
  (distinct (es.map (fun e => o + e / per)),
   if s.op.blk = 0 then [] else distinct (es.map (fun e => so + e / max 1 (s.op.block per) / rowBytes)))

/-- The lanes of CNT registers, (register, lane). -/
def spanLanes (n : Nat) : List (Nat × Nat) := (List.range n).flatMap (fun r => (List.range 64).map (fun j => (r, j)))

/-- The element of a memory operand that a lane takes (R177). -/
def memElem (f : VMemF) (x : Nat × Nat) : Nat := f.e0.toNat + (64 * x.1 + x.2) * f.str.toNat

/-- The rows that a VLD reads: of its elements, and of their scales. -/
def vldRows (c : Core) (f : VMemF) : List Nat × List Nat :=
  spanRows (fmtGet c f.fmti) (adrOff f.addr) (adrOff f.saddr) ((spanLanes (f.cnt1.toNat + 1)).map (memElem f))

/-- Its occupancy: two rows a cycle (Table 8-2). -/
def vldOcc (c : Core) (f : VMemF) : Nat := max 1 (((vldRows c f).1.length + (vldRows c f).2.length + 1) / 2)

def effVld (i : Iss) (f : VMemF) (run : Bool) (w : Work) : Work :=
  let c := w.me
  let s := fmtGet c f.fmti
  let all := spanLanes (f.cnt1.toNat + 1)
  let eOf := memElem f
  let o := adrOff f.addr
  let so := adrOff f.saddr
  let planned := vldRows c f
  let occ := vldOcc c f
  let lat := if adrOrch f.addr then 15 else 7
  let w := w.veBusy occ lat
  if !run then w else
  let on := all.filter (fun x => laneOn c i.hdr.mask i.pkt x.1 x.2)
  let rs := spanRows s o so (on.map eOf)
  let a := w.readDistinct (adrOrch f.addr) (neededOf (twoPorts 0 0 planned.1) rs.1)
  let b := a.2.readDistinct (adrOrch f.saddr) (neededOf (twoPorts 0 planned.1.length planned.2) rs.2)
  let res := on.map (fun x =>
    let d := spanElem s a.1 b.1 o so (eOf x) f.qa.toInt
    (x, storeElem .i32 (f.sym == 1) d.1 f.qd.toInt, d.2))
  let fl := flagsAll (res.map (fun x => x.2.1.2))
  (b.2.regsLand (occ + lat) (res.map (fun x => (f.vr.toNat + x.1.1, x.1.2, x.2.1.1)))).raise
    { fl with inv := fl.inv || res.any (fun x => x.2.2) }

/-- The lanes of CNT registers as the elements of a store: a turned-off lane stores zero (R178). `v k` is the core as a read of
cycle I + k finds it (R174). -/
def storeLanes (v : Nat → Core) (i : Iss) (va cnt : Nat) (sym : Bool) (qa : Int) : List Dec × Bool :=
  let l := (List.range cnt).flatMap (fun r => (List.range 64).map (fun j =>
    (laneOn (v 0) i.hdr.mask i.pkt r j, laneDec (v r) sym (va + r) j qa)))
  (l.map (fun x => if x.1 then x.2 else .zero), l.any (fun x => x.1))

/-- Scale rows a VST writes behind its element rows: one byte a block (R68). -/
def vstScaleRows (s : FmtSel) (cnt : Nat) : Nat :=
  if s.op.blk = 0 then 0 else rowsFor (blocksIn s.op s.op.fmt.perRow (cnt * 64))

/-- Rows that a VST writes: of its elements, and of their scales. -/
def vstRows (c : Core) (f : VMemF) : Nat × Nat :=
  (rowsFor ((f.cnt1.toNat + 1) * 64 * (fmtGet c f.fmti).op.fmt.bits / 8), vstScaleRows (fmtGet c f.fmti) (f.cnt1.toNat + 1))

/-- Its occupancy (Table 8-2). -/
def vstOcc (c : Core) (f : VMemF) : Nat := max (f.cnt1.toNat + 1) ((vstRows c f).1 + (vstRows c f).2)

/-- VST writes a row a cycle through its one port, the last in cycle I + O + 5, and to the Orchard at its slots (Table 8-2, R180,
R204). -/
def effVst (i : Iss) (f : VMemF) (run : Bool) (w : Work) : Work :=
  let s := fmtGet w.me f.fmti
  let cnt := f.cnt1.toNat + 1
  let rows := (vstRows w.me f).1
  let srows := (vstRows w.me f).2
  let occ := vstOcc w.me f
  let w := w.veBusy occ (if adrOrch f.addr then 14 else 6)
  let l := storeLanes w.meAt i f.vr.toNat cnt (f.sym == 1) f.qa.toInt
  if !run || !l.2 then w else
  let r := storeElems s.op s.fixs (s.fq + f.qd.toInt) (s.op.block s.op.fmt.perRow) l.1
  let first := occ - (rows + srows) + 6
  let w := w.writeRows (adrOrch f.addr) (adrOff f.addr) r.1 first rows
  let w := w.writeRows (adrOrch f.saddr) (adrOff f.saddr) r.2.1 (first + rows) srows
  w.raise r.2.2

/-! ### VIB (R184) -/

/-- A slot's tile-ready bit set in cycle I + n (R110). -/
def Work.slotReady (w : Work) (slot n : Nat) : Work :=
  { w with d := w.d.landIn (n + 1) (.ready w.core (1#6 <<< slot) true) }

def effVib (i : Iss) (f : VibF) (run : Bool) (w : Work) : Work :=
  let s := fmtGet w.me f.fmti
  let cnt := f.cnt1.toNat + 1
  let w := w.veBusy cnt 2
  let last := fun (w : Work) => if f.last = 1 then w.slotReady f.slot.toNat (cnt + 1) else w
  let l := storeLanes w.meAt i f.va.toNat cnt (f.sym == 1) f.qa.toInt
  if !run || !l.2 then last w else
  let r := storeElems s.op s.fixs (s.fq + f.qd.toInt) (slotBlock s.op) l.1
  let n := slotRowBlocks s.op
  let w := w.modMe (fun c => { c with me := { c.me with
    ib := memWrite c.me.ib (8192 * f.slot.toNat + 512 * f.srow.toNat)
      (r.1.take (8192 - 512 * f.srow.toNat)),
    ibScale := memWrite c.me.ibScale (2048 * f.slot.toNat + f.srow.toNat * n)
      (r.2.1.take (2048 - f.srow.toNat * n)) } })
  last (w.raise r.2.2)

/-! ### VFT (R182, R183, R229) -/

/-- Element e of a tile as (code, value, poisoned): a full-width plane holds plain I32 codes. -/
def tileElem (c : Core) (t : Tile) (e : Nat) : Nat × Dec × Bool :=
  if t.fmti = 63 then
    let code := codeAt .i32 t.elems e
    (code, decodeElem .i32 false code 0, false)
  else
    let s := fmtGet c t.fmti
    let code := codeAt s.op.fmt t.elems e
    let perRow := max 1 (16 / max 1 (s.op.block 16))
    let b := min 16 (max 1 (s.op.block 16))
    let sc := if s.op.blk = 0 then none else some (byteAt t.scale ((e / 16) * perRow + (e % 16) / b))
    let d := loadElem s.op code sc s.fq
    (code, d.1, d.2)

/-- The underflow of a VFT that finds the queue empty (R183); one that does not run sets no flag (R229, R260, log 30). -/
def Work.ftUnder (w : Work) (run : Bool) : Work :=
  let w := w.modMe (fun c => { c with ve := { c.ve with ftUnder := c.ve.ftUnder + 1 } })
  (w.raise { NFlags.none with inv := run }).report (w.mkReport 7 7 2 w.idx true true false)

/-- A lane of the sixteen registers is enabled: without one the VFT moves nothing (R260). -/
def vftLive (c : Core) (i : Iss) : Bool :=
  (List.range 16).any (fun r => (List.range 64).any (fun j => laneOn c i.hdr.mask i.pkt r j))

/-- Rows of the tile the plan delivers to the VFT at index k of its block (R182); 8 where it delivers none. -/
def plannedRows (c : Core) (k : Nat) : Nat :=
  match c.ftPlan.find? (fun x => x.1 == k) with | some x => x.2 | none => 8

/-- Sixteen registers from the tile's elements, or zeros. -/
def vftLanes (c : Core) (i : Iss) (f : VftF) (t : Option Tile) : List (Nat × Nat × Nat) × NFlags :=
  let xs := (List.range 16).flatMap (fun r => ((List.range 64).filter (fun j => laneOn c i.hdr.mask i.pkt r j)).map
    (fun j =>
      match t with
      | none => ((f.vd.toNat + r, j, 0), NFlags.none)
      | some t =>
        let e := tileElem c t (64 * r + j)
        if f.raw = 1 then ((f.vd.toNat + r, j, e.1), NFlags.none)
        else
          let s := storeElem .i32 false e.2.1 f.qd.toInt
          ((f.vd.toNat + r, j, s.1), { s.2 with inv := s.2.inv || e.2.2 })))
  (xs.map (fun x => x.1), flagsAll (xs.map (fun x => x.2)))

/-- The bytes of a tile to consecutive rows, a row a cycle, readable from I + O + 6 (R182, Table 8-2). -/
def Work.vftRows (w : Work) (f : VftF) (rows : List Byte) (n : Nat) : Work :=
  w.writeRows (adrOrch f.addr) (adrOff f.addr) rows 6 n

/-- A VFT takes the head tile: to registers, readable from I + 16 + 3, or unchanged to rows (R182, R183). -/
def takeTile (i : Iss) (f : VftF) (run : Bool) (w : Work) : Work :=
  match w.me.me.ftq with
  | [] => w
  | t :: ts =>
    let w := w.modMe (fun c => { c with me := { c.me with ftq := ts ++ c.me.outq.take 1, outq := c.me.outq.drop 1 },
                                        ve := { c.ve with ftPend := none } })
    let rows := tileRows t
    let n := rowsFor rows.length
    let live := run && vftLive w.me i
    if f.dstw = 1 then
      let w := w.veBusy n 6
      if live then w.vftRows f rows n else w
    else
      let w := w.veBusy 16 3
      if !live then w else
      let r := vftLanes w.me i f (some t)
      (w.regsLand 19 r.1).raise r.2

/-- VFT: with the queue empty, a single step leaves it waiting for a tile; any other issue is an underflow that writes the
all-zeros code (R183). -/
def effVft (i : Iss) (f : VftF) (run : Bool) (w : Work) : Work :=
  if !w.me.me.ftq.isEmpty then takeTile i f run w
  else if w.step then w.modMe (fun c => { c with ve := { c.ve with ftPend := some ⟨i, f, run⟩ } })
  else
    let live := run && vftLive w.me i
    let n := plannedRows w.me w.idx
    let w := (if f.dstw = 1 then w.veBusy n 6 else w.veBusy 16 3).ftUnder live
    if !live then w
    else if f.dstw = 1 then w.vftRows f [] n
    else w.regsLand 19 (vftLanes w.me i f none).1

/-- A VFT that waits under single-step takes the tile that has come (R183). -/
def Work.ftResume (w : Work) : Work :=
  match w.me.ve.ftPend with
  | some p => if w.me.me.ftq.isEmpty then w else takeTile p.iss p.f p.run w
  | none => w

/-! ### VCONV (R185, R186, R137) -/

/-- Chunk length of the LC code. -/
def lcOf (lc : BitVec 2) : Nat := 8 * 2 ^ lc.toNat

/-- The reset word of a packet as its dispatch record gives it (R15). -/
def pktReset (c : Core) (pkt : Nat) : W64 :=
  match c.disp.pkts.find? (fun p => p.pkt == pkt) with | some p => p.reset | none => 0

/-- The word of packet `pkt` in a reset row, 64 words to a row (R15, R141). -/
def resetWordIn (row : List Byte) (pkt : Nat) : W64 := BitVec.ofNat 64 (leNat ((row.drop (8 * (pkt % 64))).take 8))

/-- The reset word a VCONV reads (R141, R185): from the reset rows that the package's scan parameter blocks name; of a package without
one, that of the dispatch record (DESIGN CHOICE, log 114). -/
def Work.convResets (w : Work) (i : Iss) : W64 × Work :=
  match w.me.rstRow with
  | some a =>
    let r := w.readRef false (a + i.pkt / 64) 0
    (resetWordIn r.1 i.pkt, r.2)
  | none => (pktReset w.me i.pkt, w)

/-- Row ρ of a tile group counts a reset: its bit is set and the row is not masked off (R136). -/
def convReset (c : Core) (i : Iss) (word : W64) (row : Nat) : Bool := word.getLsbD row && rowOn c i.hdr.mask i.pkt row

/-- A reset falls at some step from a + 1 to b of a stream whose step 1 is row base. -/
def resetIn (c : Core) (i : Iss) (word : W64) (base a b : Nat) : Bool :=
  (List.range (b - a)).any (fun k => convReset c i word (base + a + k))

/-- The halo input of lag lam of stream s, column col: its register is read in its place among the halo registers (R174). -/
def convHalo (v : Nat → Core) (f : VConvF) (s lam col : Nat) : Dec :=
  let hr := (64 / lcOf f.lc + 3) / 4
  let n := (lam - 1) * hr + s / 4
  laneDec (v n) (f.sym == 1) (f.vc.toNat + n) (16 * (s % 4) + col) f.qc.toInt

/-- The input at step t of stream s (0 or below: from the halo), before any reset is looked at. -/
def convInput (v : Nat → Core) (f : VConvF) (s : Nat) (t : Int) (col : Nat) : Dec :=
  if 1 ≤ t then
    let row := s * lcOf f.lc + t.toNat - 1
    laneDec (v (row / 4)) (f.sym == 1) (f.va.toNat + row / 4) (16 * (row % 4) + col) f.qa.toInt
  else convHalo v f s (1 - t).toNat col

/-- The input as it counts for the output at step `at_`: zero behind a reset (R137) or on a masked lane (R178). -/
def convIn (v : Nat → Core) (i : Iss) (f : VConvF) (word : W64) (s : Nat) (t : Int) (at_ col : Nat) : Dec :=
  let base := s * lcOf f.lc
  let row := base + t.toNat - 1
  if resetIn (v 0) i word base t.toNat at_ then .zero
  else if decide (1 ≤ t) && !laneOn (v 0) i.hdr.mask i.pkt (row / 4) (16 * (row % 4) + col) then .zero
  else convInput v f s t col

/-- The output of row ρ, column col. -/
def convOut (v : Nat → Core) (i : Iss) (f : VConvF) (word : W64) (row col : Nat) : Dec :=
  let lc := lcOf f.lc
  let s := row / lc
  let t := row % lc + 1
  sumExact ((List.range (f.kc2.toNat + 2)).map (fun (k : Nat) =>
    let x := convIn v i f word s ((t : Int) - k) t col
    let tap := laneDec (v 0) (f.sym == 1) f.vb.toNat (16 * k + col) f.qb.toInt
    nanOr [x, tap] (mulExact tap x)))

/-- The rows of a stream are all masked. -/
def streamMasked (c : Core) (i : Iss) (lc s : Nat) : Bool :=
  (List.range lc).all (fun k => !rowOn c i.hdr.mask i.pkt (s * lc + k))

/-- The new halo lanes: (register, lane, code, flags). An input is written as zero where a reset follows it; the mask does not
count here (R137, R186). -/
def convNewHalo (v : Nat → Core) (i : Iss) (f : VConvF) (word : W64) : List ((Nat × Nat × Nat) × NFlags) :=
  let lc := lcOf f.lc
  let streams := 64 / lc
  let hr := (streams + 3) / 4
  (List.range (f.kc2.toNat + 1)).flatMap (fun l0 => (List.range (4 * hr)).flatMap (fun s => (List.range 16).filterMap
    (fun col =>
      let reg := f.vc.toNat + l0 * hr + s / 4
      let lane := 16 * (s % 4) + col
      let t : Int := (lc : Int) - l0
      if streams ≤ s then some ((reg, lane, 0), NFlags.none)
      else if streamMasked (v 0) i lc s then none
      else
        let x := if resetIn (v 0) i word (s * lc) t.toNat lc then .zero else convInput v f s t col
        let r := storeElem .i32 (f.sym == 1) x f.qc.toInt
        some ((reg, lane, r.1), r.2))))

def effVconv (i : Iss) (f : VConvF) (run : Bool) (w : Work) : Work :=
  let w := w.veBusy 16 6
  if !run then w else
  let cells := (List.range 64).flatMap (fun row => (List.range 16).map (fun col => (row, col)))
  let on := cells.filter (fun x => laneOn w.me i.hdr.mask i.pkt (x.1 / 4) (16 * (x.1 % 4) + x.2))
  if on.isEmpty then w else
  let word := w.convResets i
  let w := word.2
  let outs := on.map (fun x =>
    let r := storeElem .i32 (f.sym == 1) (convOut w.meAt i f word.1 x.1 x.2) f.qd.toInt
    ((f.vd.toNat + x.1 / 4, 16 * (x.1 % 4) + x.2, r.1), r.2))
  let halo := convNewHalo w.meAt i f word.1
  (w.regsLand 22 (outs.map (fun o => o.1) ++ halo.map (fun o => o.1))).raise
    ((flagsAll (outs.map (fun o => o.2))).or (flagsAll (halo.map (fun o => o.2))))

/-! ### VTOPK (R193, R194) -/

/-- A candidate: its value and position. -/
abbrev Cand := Dec × Nat

/-- a comes before b in the selection (R193). -/
def candBefore (smallest : Bool) (a b : Cand) : Bool :=
  let lt := if smallest then ltDec a.1 b.1 else ltDec b.1 a.1
  let gt := if smallest then ltDec b.1 a.1 else ltDec a.1 b.1
  lt || (!gt && decide (a.2 < b.2))

/-- A candidate put in its rank. -/
def insertCand (smallest : Bool) (x : Cand) : List Cand → List Cand
  | [] => [x]
  | y :: ys => if candBefore smallest x y then x :: y :: ys else y :: insertCand smallest x ys

/-- The k first candidates in order; NAN is never selected. -/
def topCands (smallest : Bool) (k : Nat) (l : List Cand) : List Cand :=
  l.foldl (fun acc x => if x.1.cls == .nan then acc else (insertCand smallest x acc).take k) []

/-- The entries already in VD and VD + 1 (R194). -/
def heldCands (c : Core) (f : VTopkF) (k : Nat) : List Cand :=
  (List.range k).filterMap (fun r =>
    let pos := laneCode c (f.vd.toNat + 1) r
    if pos = 0xFFFFFFFF then none else some (laneDec c (f.sym == 1) f.vd.toNat r f.qd.toInt, pos))

/-- Candidates of a VTOPK, and its occupancy (Table 8-2). -/
def vtopkCount (f : VTopkF) : Nat := if f.msrc = 1 then f.m1.toNat + 1 else 64
def vtopkOcc (f : VTopkF) : Nat := (vtopkCount f + 63) / 64 + (f.k1.toNat + 1)

/-- The rows of a VTOPK's memory operand. -/
def vtopkRows (c : Core) (f : VTopkF) : List Nat :=
  if f.msrc = 1 then distinct ((List.range (vtopkCount f)).map (fun e => adrOff f.addr + e / (fmtGet c f.fmti).op.fmt.perRow)) else []

/-- VTOPK. A memory candidate is decoded under its format with no scale, since the command names no scale row (DEDUCED, log 115). -/
def effVtopk (i : Iss) (f : VTopkF) (run : Bool) (w : Work) : Work :=
  let c := w.me
  let k : Nat := f.k1.toNat + 1
  let m := vtopkCount f
  let occ := vtopkOcc f
  let w := w.veBusy occ 8
  if !run then w else
  let s := fmtGet c f.fmti
  let es := if f.msrc = 1 then (List.range m).filter (colDimOn c i.hdr.mask)
            else (List.range 64).filter (fun j => laneOn c i.hdr.mask i.pkt 0 j)
  let o := adrOff f.addr
  let planned := twoPorts 0 0 (vtopkRows c f)
  let rows := if f.msrc = 1 then distinct (es.map (fun e => o + e / s.op.fmt.perRow)) else []
  let a := w.readDistinct (adrOrch f.addr) (neededOf planned rows)
  let cands := es.map (fun e =>
    ((if f.msrc = 1 then
        decodeElem s.op.fmt s.op.sym (codeAt s.op.fmt (rowOf a.1 (o + e / s.op.fmt.perRow)) (e % s.op.fmt.perRow))
          (s.fq + f.qa.toInt)
      else laneDec c (f.sym == 1) f.va.toNat e f.qa.toInt), f.pos0.toNat + e))
  let held := if f.acc = 1 then heldCands c f k else []
  let top := topCands (f.dir == 1) k (held ++ cands)
  let outs := (List.range k).map (fun r =>
    match top[r]? with
    | none => ((r, 0, 0xFFFFFFFF), NFlags.none)
    | some x =>
      let st := storeElem .i32 (f.sym == 1) x.1 f.qd.toInt
      ((r, st.1, x.2), st.2))
  (a.2.regsLand (occ + 8) (outs.flatMap (fun o =>
    [(f.vd.toNat, o.1.1, o.1.2.1), (f.vd.toNat + 1, o.1.1, o.1.2.2)]))).raise (flagsAll (outs.map (fun o => o.2)))

/-! ### VWADD (R195) -/

/-- The triple in registers n, n + 1 and n + 2 of an operand that starts at register `va`, lane j; register n of the operand is
read in cycle I + n (R174; DEDUCED, log 137). -/
def tripleAt (v : Nat → Core) (va n j : Nat) : A88 × Bool :=
  A88.ofWords (laneCode (v n) (va + n) j) (laneCode (v (n + 1)) (va + (n + 1)) j) (laneCode (v (n + 2)) (va + (n + 2)) j)

/-- Register triples and full-width loads of a VWADD (R195). -/
def vwaddRegs (f : VWaddF) : Nat := match f.src.toNat with | 0 => f.nw2.toNat + 2 | 1 => 0 | _ => 1
def vwaddMems (f : VWaddF) : Nat := f.nw2.toNat + 2 - vwaddRegs f

/-- Its occupancy (R195). -/
def vwaddOcc (f : VWaddF) : Nat := vwaddRegs f + (3 * vwaddMems f + 1) / 2

/-- The plane rows it reads, in order. -/
def vwaddRows (f : VWaddF) : List Nat :=
  (List.range (vwaddMems f)).flatMap (fun m => (List.range 3).map (fun p => adrOff f.addr + m * f.ostr.toNat + p * f.pstr.toNat))

def effVwadd (i : Iss) (f : VWaddF) (run : Bool) (w : Work) : Work :=
  let nreg := vwaddRegs f
  let nmem := vwaddMems f
  let occ := vwaddOcc f
  let w := w.veBusy occ 6
  if !run then w else
  let on := (List.range 64).filter (fun j => laneOn w.me i.hdr.mask i.pkt 0 j)
  if on.isEmpty then w else
  let v := w.meAt
  let a := w.readList (adrOrch f.addr) (twoPorts nreg 0 (vwaddRows f))
  let plane := fun (m p j : Nat) => codeAt .i32 (a.1.getD (3 * m + p) []) (64 * f.e0.toNat + j)
  let res := on.map (fun j =>
    let ops := (List.range nreg).map (fun r => tripleAt v f.va.toNat (3 * r) j) ++
      (List.range nmem).map (fun m => A88.ofWords (plane m 0 j) (plane m 1 j) (plane m 2 j))
    let s : A88 × NFlags := wideAdd (ops.map (fun x => x.1))
    let fl : NFlags := { s.2 with inv := s.2.inv || ops.any (fun x => x.2) }
    match f.dstw.toNat with
    | 0 => (s.1.words.zipIdx.map (fun (x : Nat × Nat) => (f.vd.toNat + x.2, j, x.1)), fl)
    | 1 =>
      let r := storeElem .i32 false (s.1.toDec 0) f.qd.toInt
      ([(f.vd.toNat, j, r.1)], fl.or r.2)
    | _ =>
      let v := s.1.toDec 0
      let hi := storeElem .i32 false v f.qd.toInt
      match pairResidual v .i32 false hi f.qd.toInt with
      | none => ([(f.vd.toNat, j, hi.1), (f.vd.toNat + 1, j, 0)], fl.or (pairHiFlags hi.2))
      | some d =>
        let lo := storeElem .i32 false d f.ql.toInt
        ([(f.vd.toNat, j, hi.1), (f.vd.toNat + 1, j, lo.1)], (fl.or (pairHiFlags hi.2)).or lo.2))
  (a.2.regsLand (occ + 6) (res.flatMap (fun r => r.1))).raise (flagsAll (res.map (fun r => r.2)))

/-! ### VCTL (R187, R190) -/

/-- VCTL: the row it reads in its issue cycle is the table's pending copy until it becomes active in cycle I + 8. -/
def effVctl (_ : Iss) (f : VCtlF) (run : Bool) (w : Work) : Work :=
  let w := w.veBusy 1 8
  if !run then w else
  let a := w.readRef (adrOrch f.addr) (adrOff f.addr) 0
  let w := a.2.modMe (fun c => { c with ve := { c.ve with
    ctPending := memWrite c.ve.ctPending (512 * f.ct.toNat) (padTo 512 a.1) } })
  { w with d := w.d.landIn 8 (.curve w.core f.ct a.1) }

end Sys2Proof.Machine
end

