-- ==== Sys2Proof/Machine/Clock.lean ====
section
/-!
DEFINITION. Machine/Clock: how time passes for the block. A command that falls due later lets the cycles up to its instant
pass; no cycle passes over an instant at which something of the plan falls due (logs 1, 2, 3, 35).
-/
namespace Sys2Proof.Machine

/-! ### Cores by physical position (R2, R424) -/

/-- The physical core at a logical index: the enabled positions in order. -/
def physCore (s : State) (c : BitVec 3) : Option Nat :=
  ((List.range 8).filter (fun p => s.sec.sensed.pcoreEn.getLsbD p))[c.toNat]?

/-- The logical core at a physical position; none where it is fused or beyond the grade. -/
def logicalCore (s : State) (p : Nat) : Option (BitVec 3) :=
  (((List.range 8).filter (fun q => s.sec.sensed.pcoreEn.getLsbD q)).findIdx? (fun q => q == p)).bind
    (fun k => if k < activeCores s then some (BitVec.ofNat 3 k) else none)

/-! ### Breakpoints (R424) -/

def Bp.en (b : Bp) : Bool := b.cfg.getLsbD 0
def Bp.type (b : Bp) : Nat := (b.cfg.extractLsb' 1 2).toNat
def Bp.act (b : Bp) : Nat := (b.cfg.extractLsb' 3 2).toNat
def Bp.pcore (b : Bp) : Nat := (b.cfg.extractLsb' 5 3).toNat
def Bp.queue (b : Bp) : BitVec 2 := b.cfg.extractLsb' 8 2

/-- The comparators that a test selects, by index. -/
def bpsWhere (s : State) (p : Bp → Bool) : List (BitVec 3) :=
  (List.range 8).filterMap (fun n =>
    let i := BitVec.ofNat 3 n
    if (vget s.dbg.bps i).en && p (vget s.dbg.bps i) then some i else none)

/-- A comparator's match counted and shown. -/
def hitOne (spec : Bool) (s : State) (i : BitVec 3) : State :=
  let b := vget s.dbg.bps i
  { s with dbg := { s.dbg with bps := vset s.dbg.bps i { b with hits := satInc b.hits },
                               bpHit := setBit s.dbg.bpHit i.toNat true,
                               bpSpec := if spec then setBit s.dbg.bpSpec i.toNat true else s.dbg.bpSpec } }

/-- Matches of one cycle: every comparator's bit is set, and the strongest action is taken. -/
def bpMatch (s : State) (hits : List (BitVec 3)) (spec : Bool) : State :=
  let acts := hits.map (fun i => (vget s.dbg.bps i).act)
  let s := hits.foldl (hitOne spec) s
  if acts.any (fun a => a == 0) then { s with dbg := { s.dbg with freezePend := true } }
  else if acts.any (fun a => a == 1) then { s with dbg := { s.dbg with haltPend := true } }
  else if acts.any (fun a => a == 2) then { s with tkc := { s.tkc with pulse := 16 } }
  else s

/-- The flag a landing sets: its core (none: a device flag) and index. -/
def Landing.sets (d : Dp) : Landing → Option (Option (BitVec 3) × BitVec 6)
  | .flag c f true => some (some c, f)
  | .dflag f true => some (none, f)
  | .deDone c f => if f.getLsbD 6 then some (some c, f.extractLsb' 0 6) else none
  | .creditReturn p ch _ _ => some (some p, (vget (vget d.cores p).cm.chans ch).flag)
  | _ => none

/-- A comparator of TYPE 1 matches a flag that is set. -/
def bpFlag (s : State) (c : Option (BitVec 3)) (f : BitVec 6) (b : Bp) : Bool :=
  b.type == 1 && b.value.toNat % 128 == f.toNat + (if c.isNone then 64 else 0) &&
    (match c with | some k => physCore s k == some b.pcore | none => true)

/-- Comparators that match flags landing within n cycles. -/
def flagHits (s : State) (n : Nat) : List (BitVec 3) :=
  ((s.dp.landings.filter (fun x => decide (x.1 ≤ n))).filterMap (fun x => x.2.sets s.dp)).flatMap (fun y =>
    bpsWhere s (bpFlag s y.1 y.2))

/-! ### Cycles -/

/-- DELTA of a command word. -/
def deltaOf (w : CmdWord) : Nat := w.toNat % 65536

/-- The device's cores. -/
def allCores : List (BitVec 3) := [0, 1, 2, 3, 4, 5, 6, 7]

/-- The engine queues. -/
def allQueues : List Queue := [.me, .se, .ve, .de]

/-- TU per ACLK cycle (R28). -/
def tuStep (s : State) : Nat := if s.pwr.aclkHalf then 2 else 1

/-- Cycles until the count since the boundary equals or exceeds an offset (R28). -/
def cyclesTo (s : State) (ofs : Nat) : Nat := (ofs - s.tkc.time + tuStep s - 1) / tuStep s

/-- The device is frozen (R420). -/
def frozen (s : State) : Bool := s.dbg.runState == .frozen

/-- The TWN countdowns: of a state change in TU (R363, R374), of the self-test in cycles (R368). -/
def Twn.pass (t : Twn) (tu n : Nat) : Twn :=
  { t with change := t.change.map (fun c => { c with wait := c.wait - tu }), testLeft := t.testLeft - n }

/-- The chain makes no progress (R243): every core of it is held by an FWAIT or has issued its last command, one at least
is held, and nothing of it is outstanding. -/
def deOutstanding (d : Dp) (c : BitVec 3) : Bool :=
  !(vget d.cores c).dmem.isEmpty || d.landings.any (fun x => match x.2 with | .deDone k _ => k == c | _ => false)

/-- No remote write into the core is in flight (R243). -/
def noInbound (d : Dp) (c : BitVec 3) : Bool :=
  (vget d.cores c).cm.inbound.isEmpty && (vget d.cores c).cm.fabric.isEmpty &&
    !d.landings.any (fun x => match x.2 with | .inRow k _ => k == c | _ => false)

/-- The core has issued its last command of the tick. -/
def coreDone (c : Core) : Bool :=
  c.queues.toList.all (fun q => q.got && (match q.blocks with | (t, n) :: _ => !(t == c.tick) || n == 0 | [] => true))

def heldByWait (c : Core) : Bool := match c.hold with | some h => h.gate.getLsbD 1 | none => false

def noProgress (s : State) (chain : Nat) : Bool :=
  let cs := chainCores s chain
  cs.all (fun c => heldByWait (vget s.dp.cores c) || coreDone (vget s.dp.cores c)) &&
  cs.any (fun c => heldByWait (vget s.dp.cores c)) &&
  cs.all (fun c => !deOutstanding s.dp c && noInbound s.dp c)

/-- The no-progress counts after n cycles (R243). -/
def npdPass (s : State) (n : Nat) : List Nat :=
  (List.range (taskChains s).length).map (fun k => if noProgress s k then s.sp.npd.getD k 0 + n else 0)

/-- A countdown moves n nearer. -/
def down (n : Nat) (x : Option Nat) : Option Nat := x.map (fun k => k - n)

/-- The tick block over n cycles; while the device is halted the count stands still (R421). -/
def tkcPass (t : Tkc) (n step : Nat) (halted : Bool) : Tkc :=
  { t with time := if t.active && !halted then t.time + n * step else t.time, startIn := down n t.startIn, edgeIn := down n t.edgeIn,
           pulse := t.pulse - n }

/-- The device stands still from now on (R420). -/
def freezeNow (s : State) : State :=
  { s with dbg := { s.dbg with runState := .frozen, freezePend := false, stopSeq := s.tkc.seq,
                               stopTu := BitVec.ofNat 21 s.tkc.time } }

/-! ### The work of a command or of an event -/

/-- Cycles to the pit of a tick; none while that pit is not yet in the count, 0 once it has passed. -/
def pitOfTick (s : State) (t : W64) : Option Nat :=
  match s.sp.cur, s.sp.early with
  | some r, some e => if r.seq == t then some (cyclesTo s s.tkc.deadOfs.toNat) else if e.seq == t then none else some 0
  | some r, none => if r.seq == t then some (cyclesTo s s.tkc.deadOfs.toNat) else some 0
  | none, some e => if e.seq == t then none else some 0
  | none, none => some 0

/-- Cycles to the pit of the tick a core works on; none while that pit is not yet in the count. -/
def pitInOf (s : State) (c : BitVec 3) : Option Nat :=
  match s.sp.cur with
  | some r => if r.seq == (vget s.dp.cores c).tick then some (cyclesTo s s.tkc.deadOfs.toNat) else none
  | none => none

/-- The tick is speculative until a pit confirms it (R273, R275). -/
def TickRec.isSpec (r : TickRec) : Bool := (r.early || r.predicted) && !r.confirmed

/-- The work of a tick is speculative (R101, R273). -/
def specTick (s : State) (t : W64) : Bool :=
  (match s.sp.early with | some e => e.seq == t && e.isSpec | none => false) ||
  (match s.sp.cur with | some r => r.seq == t && r.isSpec | none => false)

/-- The work of a core is speculative. -/
def isSpec (s : State) (c : BitVec 3) : Bool := specTick s (vget s.dp.cores c).tick

/-- The core works on the early tick, before that tick's boundary (R269). -/
def inEarly (s : State) (c : BitVec 3) : Bool :=
  match s.sp.early with | some e => e.early && e.seq == (vget s.dp.cores c).tick | none => false

/-- The spans of Orchard rows that hold stream state: the state area, and the Bloom area with three slots for each slot pair (R23,
R153, R270). -/
def areasOf (s : State) : List (Nat × Nat) :=
  match taskPkg s with
  | none => []
  | some p => [(p.stateBase, p.stateRows), (p.bloomBase, 3 * bloomRows p * (p.stateRows / max 1 (2 * slotRows p)))]

/-- Work of core c outside issue, for its tick. -/
def eventWork (s : State) (c : BitVec 3) (q : Queue) : Work :=
  { d := s.dp, core := c, queue := q, idx := 0, tick := (vget s.dp.cores c).tick, pitIn := pitInOf s c, areas := areasOf s,
    spec := isSpec s c, early := inEarly s c, step := false, lateRows := [], ends := 0, reps := [] }

/-! ### What falls due next -/

/-- The core time at which a queue's next command falls due (R231). -/
def dueTime (q : EngQ) (delta : Nat) : Nat := if q.issued = 0 then delta else q.last + delta

/-- The next released command of a queue for the core's tick. -/
def nextWord (c : Core) (q : Queue) : Option CmdWord :=
  let x := vget c.queues (queueIndex q)
  match x.blocks, x.cmds with
  | (t, n + 1) :: _, w :: _ => if t = c.tick ∧ n + 1 ≠ 0 then some w else none
  | _, _ => none

/-- Cycles until a queue's next command falls due. -/
def queueWait (c : Core) (q : Queue) : Option Nat :=
  (nextWord c q).map (fun w => c.startIn + (dueTime (vget c.queues (queueIndex q)) (deltaOf w) - c.time))

/-- The (packet, row) pairs of a stream-tick: those of its place, and of its catch-up rows (R55, R151). -/
def stRows (p : Package) (x : StreamTick) : List (Nat × Nat) :=
  (p.places.getD x.place.toNat ⟨0, 0, 0, []⟩).rows ++ (match x.cuIdx with | some k => (p.cuRows.getD k ⟨0, []⟩).rows | none => [])

/-- Rows of a packet as a mask. -/
def rowMask (rows : List (Nat × Nat)) (pkt : Nat) : W64 :=
  (rows.filter (fun r => r.1 == pkt)).foldl (fun (m : W64) r => setBit m r.2 true) 0

/-- The stream-ticks of a tick not yet past its pit. -/
def tickSts (s : State) (seq : W64) : List StreamTick :=
  (match s.sp.cur with | some r => if r.seq = seq then r.sts else [] | none => []) ++
  (match s.sp.early with | some e => if e.seq = seq then e.sts else [] | none => [])

/-- Streams of a packet with an unmasked row, as the core's dispatch record and the package place them (R161). -/
def packetStreams (s : State) (c : Core) (pkt : Nat) : List W16 :=
  match taskPkg s, c.disp.pkts.find? (fun p => p.pkt == pkt) with
  | some p, some r =>
    ((tickSts s c.tick).filter (fun x => (stRows p x).any (fun y => y.1 == pkt && r.mask.getLsbD y.2))).map (fun x => x.stream)
  | _, _ => []

/-- The stream's data are in place: it is RESIDENT, or DRAINING (R158, R161). -/
def Stream.resNow (x : Stream) : Bool := x.life == .resident || x.life == .draining

/-- The stream's life changes in device cycle n. -/
def Stream.setLife (x : Stream) (n : Nat) (l : Life) : Stream :=
  if (l == .resident || l == .draining) == x.resNow then { x with life := l }
  else { x with life := l, resAt := some n, resWas := if x.resAt == some n then x.resWas else x.resNow }

/-- What a command that issues in device cycle n sees of the residency bit: a change counts from the cycle after it lands (R16,
R161). -/
def Stream.resSeen (x : Stream) (n : Nat) : Bool := if x.resAt == some n then x.resWas else x.resNow

/-- The stream is RESIDENT to a command that issues now. -/
def isResident (s : State) (id : W16) : Bool :=
  match findStream s id with | some x => x.resSeen s.dp.cycle | none => false

/-- The gate of a command and whether it passes (Table 10-5). -/
def gateOf (s : State) (c : BitVec 3) (i : Instr) : BitVec 3 × Bool :=
  let x := vget s.dp.cores c
  match i with
  | .mm _ f => (1, mmReady x f)
  | .fwait h _ flag dev val _ _ => (2, !predOn x h.hdr || flagSeen s.dp c flag dev == val)
  | _ =>
    match issOf i with
    | some h => if h.hdr.resgate then (4, (packetStreams s x h.pkt).all (isResident s)) else (0, true)
    | none => (0, true)

/-- Held cycles that have passed when a gate gives up (Table 10-5, R238): the masks of a residency gate land in the last of its
FWR_STM_GATE_LIM held cycles, and the command issues in the next (R163). -/
def gateLimit (s : State) (i : Instr) : Nat :=
  match i with
  | .mm _ _ => 1024
  | .fwait _ _ _ _ _ _ tmo => tmo.toNat + 1
  | _ => s.fwr.stm.gateLim.toNat - 1

/-- The packet of the next command of a queue as the package plans it, where it does (R140, R161; DESIGN CHOICE, log 9). -/
def planPkt (s : State) (c : BitVec 3) (q : Queue) : Option Nat :=
  (taskPkg s).bind (fun p => (p.plans[c.toNat]?).bind (fun x => (x.pkts[(queueIndex q).toNat]?).bind (fun l =>
    l[(vget (vget s.dp.cores c).queues (queueIndex q)).issued]?)))

/-- The gate that holds the next command of a queue, due now, and that command. Of a command for which the package plans no packet,
the residency gate is looked at only once it has held its core (DESIGN CHOICE, log 9). -/
def heldHead (s : State) (c : BitVec 3) (q : Queue) : Option (BitVec 3 × Instr) :=
  let x := vget s.dp.cores c
  if queueWait x q != some 0 then none else
  let pkt := match planPkt s c q with | some n => n | none => match x.hold with | some h => h.pkt | none => 0
  let seen := (planPkt s c q).isSome || (match x.hold with | some h => h.gate.getLsbD 2 | none => false)
  match (nextWord x q).bind (decodeCmd c pkt q) with
  | none => none
  | some i =>
    let g := gateOf s c i
    if g.2 || (g.1 == 4 && !seen) then none else some (g.1, i)

/-- HOLD_FLAG of a command that waits for a flag. -/
def waitFlag : Instr → BitVec 7
  | .fwait _ _ flag dev _ _ _ => BitVec.ofNat 7 (flag.toNat + 64 * dev.toNat)
  | _ => 0

/-- Every gate that holds a core now. -/
def heldHeads (s : State) (c : BitVec 3) : List (Queue × BitVec 3 × Instr) :=
  allQueues.filterMap (fun q => (heldHead s c q).map (fun x => (q, x.1, x.2)))

/-- The gates that hold a held core now stand in its record: a gate that has opened counts no further (R232, R249). -/
def refreshHold (s : State) (c : BitVec 3) : State :=
  let x := vget s.dp.cores c
  match x.hold, heldHeads s c with
  | some h, (q, g, i) :: l =>
    let l := (q, g, i) :: l
    { s with dp := s.dp.setCore c { x with hold := some { h with
        gate := l.foldl (fun (b : BitVec 3) y => b ||| y.2.1) 0, queue := q,
        queues := l.foldl (fun (b : BitVec 4) y => setBit b (queueIndex y.1).toNat true) 0,
        flag := match l.find? (fun y => y.2.1 == 2) with | some y => waitFlag y.2.2 | none => 0 } } }
  | _, _ => s

/-- A VFT that waits under single-step takes a tile that has come (R183). -/
def resumeVft (s : State) (c : BitVec 3) : State :=
  if (vget s.dp.cores c).ve.ftPend.isNone then s else
  let w := (eventWork s c .ve).ftResume
  takeReports { s with dp := w.d } w.reps

/-! ### Blocks not released in time (R18) -/

/-- Core time at which the first command of a queue's block falls due, as the package plans it; none for an empty block. -/
def firstDue (s : State) (c : BitVec 3) (q : Queue) : Option Nat :=
  match taskPkg s with
  | none => none
  | some p => (((p.plans[c.toNat]?).bind (fun x => x.blocks[(queueIndex q).toNat]?)).bind (fun b => b.head?)).map deltaOf

/-- Cycles until the first command of an unreleased block of the core's tick falls due. -/
def unreleasedWait (s : State) (c : BitVec 3) : List Nat :=
  let x := vget s.dp.cores c
  if x.run = .computing then
    allQueues.filterMap (fun q =>
      if (vget x.queues (queueIndex q)).got then none else (firstDue s c q).map (fun d => x.startIn + (d - x.time)))
  else []

/-- A core whose block of a queue is still unreleased when its first command falls due issues nothing further of the tick,
and every stream-tick of its chain is SKIPPED (R18). -/
def stopUnreleased (s : State) (c : BitVec 3) : State :=
  if (unreleasedWait s c).any (fun n => n == 0) then
    let t := (vget s.dp.cores c).tick
    let s := { s with dp := s.dp.modCore c (fun x => { x with run := .stopped, hold := none }) }
    match chainOf s c with
    | some ch =>
      let p := fun (y : StreamTick) => y.chain == ch && y.out == .running
      mapTicks s (fun r => let n := noteCore t c 1 p r
        if r.seq = t then { n with sts := r.sts.map (fun y => if p y then { y with out := .skipped } else y) } else r)
    | none => s
  else s

/-- Every core is looked at. -/
def stopLate (s : State) : State := allCores.foldl stopUnreleased s

/-- A watchdog counts (R332). -/
def ProcRec.pass (p : ProcRec) (tu : Nat) : ProcRec := if p.released then { p with wdCount := p.wdCount + tu } else p

/-- Clocks of the firmware side over a span of TU: watchdogs, and the limits of queued FWR writes (R311). -/
def passFirmware (s : State) (tu : Nat) : State :=
  { s with xp := s.xp.pass tu, pp := s.pp.pass tu, spp := s.spp.pass tu, cps := s.cps.map (fun c => c.pass tu),
           fwr := { s.fwr with queue := s.fwr.queue.map (fun w => { w with left := w.left - tu }) } }

/-- n ACLK cycles pass, with no block to be missed within them. While frozen, only effects already on their way land. -/
def State.passSpan (s : State) (n : Nat) : State :=
  if n = 0 then s else
  let s := allCores.foldl refreshHold s
  let hits := flagHits s n
  let npd := npdPass s n
  let r := s.dp.pass n (frozen s)
  let s := if frozen s then { s with dp := r.1, tkc := { s.tkc with pulse := s.tkc.pulse - n } }
    else { s with dp := r.1, tkc := tkcPass s.tkc n (tuStep s) (s.dbg.runState == .halted), sp := { s.sp with npd := npd, scrub := s.sp.scrub - 16 * n, cmScrub := s.sp.cmScrub - n },
                  twn := s.twn.pass (n * tuStep s) n }
  let s := passFirmware s (n * tuStep s)
  let s := if hits.isEmpty then s else bpMatch s hits false
  let s := allCores.foldl resumeVft (stopLate (takeReports s r.2))
  if s.dbg.freezePend then freezeNow s else s

/-- Cycles to the first moment within n at which a core that issues finds a block unreleased. -/
def nextMissed (s : State) (n : Nat) : Option Nat :=
  ((allCores.filter (fun c => (vget s.dp.cores c).hold.isNone)).flatMap (unreleasedWait s)).foldl
    (fun a m => if 0 < m && m < n then some (match a with | some k => min k m | none => m) else a) none

/-- n ACLK cycles pass: span by span, as each of at most k cores stops for an unreleased block (R18). -/
def State.passSpans (s : State) : Nat → Nat → State
  | 0, n => s.passSpan n
  | k + 1, n => match nextMissed s n with
    | some m => (s.passSpan m).passSpans k (n - m)
    | none => s.passSpan n

/-- n ACLK cycles pass. -/
def State.pass (s : State) (n : Nat) : State := s.passSpans 8 n

/-- The lesser of two waits. -/
def minWait (a b : Option Nat) : Option Nat :=
  match a, b with
  | some m, some n => some (min m n)
  | none, y => y
  | y, none => y

/-- Cycles until something of core c's plan falls due: the next command of a queue, or for a held core its gate or the
gate's limit; nothing for a core that an unreleased block stops first (R18). -/
def coreWait (s : State) (c : BitVec 3) : Option Nat :=
  let x := vget s.dp.cores c
  if x.run ≠ .computing then none else
  match x.hold with
  | some h =>
    match heldHeads s c with
    | [] => some 0
    | l => l.foldl (fun a x => minWait a (some (gateLimit s x.2.2 - h.cycles))) none
  | none =>
    let w := allQueues.foldl (fun a q => minWait a (queueWait x q)) none
    if (unreleasedWait s c).any (fun n => match w with | some m => decide (n ≤ m) | none => true) then none else w

/-- Landings matter by the cycle: a core is held, or a comparator watches flags. -/
def landingsMatter (s : State) : Bool :=
  s.dp.cores.toList.any (fun c => c.hold.isSome) || !(bpsWhere s (fun b => b.type == 1)).isEmpty

/-- Cycles at which the no-progress detector of a chain reports (R243). -/
def npdLimit : Nat := 4096

/-- Cycles until a no-progress detector reaches its count, and until a queued FWR write reaches its limit. -/
def limitWaits (s : State) : List Nat :=
  ((List.range (taskChains s).length).filter (noProgress s)).map (fun k => npdLimit - s.sp.npd.getD k 0) ++
  (s.fwr.queue.filter (fun w => !w.late)).map (fun w => (w.left + tuStep s - 1) / tuStep s)

/-- Cycles until something of the cores falls due. -/
def nextIssue (s : State) : Option Nat :=
  let w := allCores.foldl (fun a c => minWait a (coreWait s c)) none
  let w := if landingsMatter s then (s.dp.landings.map (fun x => x.1)).foldl (fun a n => minWait a (some n)) w else w
  let w := if s.sp.streams.any (fun x => x.resAt == some s.dp.cycle) then minWait w (some 1) else w
  let w := (limitWaits s).foldl (fun a n => minWait a (some n)) w
  if s.dbg.freezePend then minWait w (some 1) else w

/-- n cycles may pass without passing over anything of the cores. -/
def mayPass (s : State) (n : Nat) : Bool := match nextIssue s with | some m => decide (n ≤ m) | none => true

/-- No early tick begins: early start is off or the next boundary may start no ordinary tick (R266, R267, log 50). -/
def noEarly (s : State) : Bool :=
  !s.fwr.spec.early || s.sp.specOff || s.tkc.stopAt || s.dbg.haltPend || s.twn.quiet.isSome ||
    (match s.twn.state with | .standby => true | .selftest => true | .syncing => s.twn.role | _ => false)

/-- Offset of the end of a tick whose pit has passed: its period, or the flywheel's limit (R33, R35). -/
def endOfs (s : State) : Option Nat :=
  let t := s.tkc
  if t.startIn.isSome then none
  else if !t.src then some t.period.toNat
  else if t.edgeIn.isSome || t.edgeOnly || (!t.fly && t.extWait) then none
  else some (t.period.toNat + t.extTol.toNat)

/-- Offset of the next phase of the current tick. -/
def phaseOfs (s : State) : Option Nat :=
  match s.sp.cur with
  | some r =>
    if !r.dispatched then some s.tkc.dispOfs.toNat
    else if !r.computing then some s.tkc.compOfs.toNat
    else some s.tkc.deadOfs.toNat
  | none => endOfs s

/-- Offsets of the seal and of role 0's verdicts in mirror mode (R364, R365). -/
def mirrorOfs (s : State) : Option Nat :=
  match s.sp.cur with
  | some r =>
    if s.twn.state ≠ .mirror then none
    else if !r.sealed then some s.twn.sigOfs.toNat
    else if !s.twn.role && !r.vdDone then some (s.tkc.deadOfs.toNat - 1000) else none
  | none => none

/-- Offset of the next instant of the early tick (R267, R269). -/
def earlyOfs (s : State) : Option Nat :=
  let sp := s.fwr.spec
  match s.sp.early with
  | none => if s.sp.cur.isSome && !noEarly s then some sp.ofs.toNat else none
  | some e =>
    if !e.early then none
    else if !e.dispatched then some (sp.ofs.toNat + s.tkc.dispOfs.toNat)
    else if !e.computing then some (sp.ofs.toNat + s.tkc.compOfs.toNat) else none

/-- The offset, in TU, of the next instant of the current tick that is still to come (Table 2-1, R33, R35, R267). While a run
ends, at FAULT and while halted there is none. -/
def nextOfs (s : State) : Option Nat :=
  if !s.tkc.active || s.tkc.ending || s.fwr.fw.level == 3 || s.dbg.runState == .halted then none
  else minWait (phaseOfs s) (minWait (mirrorOfs s) (earlyOfs s))

/-- Cycles until the next instant of the tick. -/
def nextPhase (s : State) : Option Nat :=
  minWait (minWait ((nextOfs s).map (cyclesTo s)) s.tkc.startIn) s.tkc.edgeIn

/-- ACLK runs and the device is not frozen: time runs. -/
def clockRuns (s : State) : Bool := s.pwr.aclkRun && !frozen s

/-- n cycles can pass without passing over anything of the cores or of the tick. -/
def mayReach (s : State) (n : Nat) : Bool :=
  clockRuns s && mayPass s n && (match nextPhase s with | some m => decide (n ≤ m) | none => true)

/-- An instant of the tick at an offset can come now: ticks run, time runs, nothing of the cores falls due before it, and no other
instant of the tick stands before it. -/
def canReach (s : State) (ofs : Nat) : Bool :=
  s.tkc.active && s.fwr.fw.level != 3 && s.dbg.runState != .halted && clockRuns s && mayPass s (cyclesTo s ofs) &&
    (match nextPhase s with | some n => decide (cyclesTo s ofs ≤ n) | none => true)

/-- Time up to an offset passes. -/
def reach (s : State) (ofs : Nat) : State := s.pass (cyclesTo s ofs)

end Sys2Proof.Machine
end

