-- ==== Sys2Proof/Machine/CurveLib.lean ====
section
/-!
DEFINITION. Machine/CurveLib: the vendor curves of the firmware image's curve library (08_vector_engine R191, Table 8-4), by the
construction of R191: rounded points E_0 to E_32 of each function, and the chords between them (DEDUCED, log 53).
-/
namespace Sys2Proof.Machine

/-- Points of EXP2F: 2^(x − 1) on [0, 1), in units of 2^−15. -/
def exp2fPoints : List Int :=
  [16384, 16743, 17109, 17484, 17867, 18258, 18658, 19066, 19484, 19911, 20347, 20792, 21247, 21713, 22188,
  22674, 23170, 23678, 24196, 24726, 25268, 25821, 26386, 26964, 27554, 28158, 28774, 29405, 30048, 30706,
  31379, 32066, 32768]

/-- Points of COSF: cos 2πx on one turn, in units of 2^−14. -/
def cosfPoints : List Int :=
  [16384, 16069, 15137, 13623, 11585, 9102, 6270, 3196, 0, -3196, -6270, -9102, -11585, -13623, -15137, -16069,
  -16384, -16069, -15137, -13623, -11585, -9102, -6270, -3196, 0, 3196, 6270, 9102, 11585, 13623, 15137, 16069,
  16384]

/-- Points of SINF: sin 2πx on one turn, in units of 2^−14. -/
def sinfPoints : List Int :=
  [0, 3196, 6270, 9102, 11585, 13623, 15137, 16069, 16384, 16069, 15137, 13623, 11585, 9102, 6270, 3196, 0,
  -3196, -6270, -9102, -11585, -13623, -15137, -16069, -16384, -16069, -15137, -13623, -11585, -9102, -6270,
  -3196, 0]

/-- Points of SIGF: 1 / (1 + e^−x) on [−8, 8), in units of 2^−14. -/
def sigfPoints : List Int :=
  [5, 9, 15, 25, 41, 67, 110, 180, 295, 480, 777, 1243, 1953, 2989, 4406, 6186, 8192, 10198, 11978, 13395,
  14431, 15141, 15607, 15904, 16089, 16204, 16274, 16317, 16343, 16359, 16369, 16375, 16379]

/-- Points of SPLUSF: ln(1 + e^x) on [−8, 8), in units of 2^−10. -/
def splusfPoints : List Int :=
  [0, 1, 1, 2, 3, 4, 7, 11, 19, 30, 50, 81, 130, 206, 321, 485, 710, 997, 1345, 1742, 2178, 2641, 3122, 3614,
  4115, 4619, 5127, 5636, 6147, 6658, 7169, 7681, 8192]

/-- Points of RSQRTF: m^(−1/2) at m = i / 8, in units of 2^−14; points 0 to 7 are not used. -/
def rsqrtfPoints : List Int :=
  [0, 0, 0, 0, 0, 0, 0, 0, 16384, 15447, 14654, 13972, 13377, 12853, 12385, 11965, 11585, 11239, 10923, 10631,
  10362, 10112, 9880, 9663, 9459, 9268, 9088, 8918, 8758, 8605, 8461, 8323, 8192]

/-- Points of RECIPF: 1 / m at m = 1 + i / 32, in units of 2^−14. -/
def recipfPoints : List Int :=
  [16384, 15888, 15420, 14980, 14564, 14170, 13797, 13443, 13107, 12788, 12483, 12193, 11916, 11651, 11398,
  11155, 10923, 10700, 10486, 10280, 10082, 9892, 9709, 9533, 9362, 9198, 9039, 8886, 8738, 8595, 8456, 8322,
  8192]

/-- The segments of a curve: I_j = E_j and S_j = E_(j+1) − E_j; those below `from` hold 0. -/
def chordBytes (e : List Int) (from_ : Nat) : List Byte :=
  (List.range 32).flatMap (fun j =>
    let i := if j < from_ then 0 else e.getD j 0
    let s := if j < from_ then 0 else e.getD (j + 1) 0 - e.getD j 0
    leBytes 2 (BitVec.ofInt 16 i).toNat ++ leBytes 2 (BitVec.ofInt 16 s).toNat)

/-- A curve-table row (Table 8-3). -/
def curveRow (segs : List Byte) (dlo : Int) (dsh : Nat) (qin qout : Int) (mode : Byte) (clo chi : Int) (id : Byte) : List Byte :=
  padTo 512 (segs ++ leBytes 4 (BitVec.ofInt 32 dlo).toNat ++
    [BitVec.ofNat 8 dsh, BitVec.ofInt 8 qin, BitVec.ofInt 8 qout, mode] ++ leBytes 2 (BitVec.ofInt 16 clo).toNat ++
    leBytes 2 (BitVec.ofInt 16 chi).toNat ++ [id])

/-- The row of a CURVE_ID of Table 8-4; DSH of the curves that ignore it is the least the loader admits (DEDUCED, log 53). -/
def vendorCurve (id : Byte) : Option (List Byte) :=
  match id.toNat with
  | 1 => some (curveRow (chordBytes exp2fPoints 0) 0 24 (-24) (-15) 0x0F 0 0 1)
  | 2 => some (curveRow (chordBytes cosfPoints 0) 0 24 (-24) (-14) 0x0F 0 0 2)
  | 3 => some (curveRow (chordBytes sinfPoints 0) 0 24 (-24) (-14) 0x0F 0 0 3)
  | 4 => some (curveRow (chordBytes sigfPoints 0) (-32768) 16 (-12) (-14) 0x05 0 16384 4)
  | 5 => some (curveRow (chordBytes splusfPoints 0) (-32768) 16 (-12) (-10) 0x09 0 0 5)
  | 6 => some (curveRow (chordBytes rsqrtfPoints 8) 0 5 0 (-14) 0x20 0 0 6)
  | 7 => some (curveRow (chordBytes recipfPoints 0) 0 5 0 (-14) 0x10 0 0 7)
  | _ => none

end Sys2Proof.Machine
end

