-- ==== Sys2Proof/Machine/Meter.lean ====
section
/-!
DEFINITION. Machine/Meter: the budget meters (02_the_tick R45 to R47, R428; 12_speculative_ticks R269). A deferred unit
holds a ticket and keeps its place in its meter's queue until a boundary admits it.
-/
namespace Sys2Proof.Machine

/-- Meter i changed. -/
def Dp.modMeter (d : Dp) (i : BitVec 4) (f : Meter → Meter) : Dp := { d with meters := vset d.meters i (f (vget d.meters i)) }

/-- A unit fits a count: the sum does not exceed the limit, or it is larger than the whole limit and the count is 0 (R46). -/
def fitsCount (count lim size : Nat) : Bool := decide (count + size ≤ lim) || (decide (lim < size) && count == 0)

/-- The count after a unit is admitted: one larger than the limit leaves it at the limit (R46). -/
def addCount (count lim size : Nat) : Nat := if lim < count + size then lim else count + size

/-- A unit admitted to the count of the tick, or of the early tick (R269). -/
def meterAdd (m : Meter) (size : Nat) (early : Bool) : Meter :=
  if early then { m with early := addCount m.early m.lim.toNat size } else { m with count := addCount m.count m.lim.toNat size }

def meterFits (m : Meter) (size : Nat) (early : Bool) : Bool := fitsCount (if early then m.early else m.count) m.lim.toNat size

/-- A unit is offered: admitted (none), or deferred behind the units already waiting, with a ticket. While no tick runs it
is admitted at once and counted nowhere (R46, R47, R428). -/
def meterOffer (d : Dp) (i : BitVec 4) (size : Nat) (early : Bool) : Option Nat × Dp :=
  let m := vget d.meters i
  if !d.metering then (none, d)
  else if m.queue.isEmpty && meterFits m size early then (none, { d with meters := vset d.meters i (meterAdd m size early) })
  else
    let m := { m with deferred := true, queue := m.queue ++ [(d.tickets, size)] }
    (some d.tickets, { d with tickets := d.tickets + 1, meters := vset d.meters i m })

/-- A unit that its owner offers again itself: admitted, or refused until it is next offered; it overtakes no unit that waits (R47). -/
def meterTry (d : Dp) (i : BitVec 4) (size : Nat) (early : Bool) : Bool × Dp :=
  let m := vget d.meters i
  if !d.metering then (true, d)
  else if m.queue.isEmpty && meterFits m size early then (true, { d with meters := vset d.meters i (meterAdd m size early) })
  else (false, { d with meters := vset d.meters i { m with deferred := true } })

/-- A unit with this ticket still waits. -/
def meterHolds (d : Dp) (i : BitVec 4) (t : Option Nat) : Bool :=
  match t with | some k => (vget d.meters i).queue.any (fun x => x.1 == k) | none => false

/-- The one unit of its owner that is next: offered once, it keeps its place until the meter admits it (R47). The answer is whether it is
admitted, and the ticket that its owner keeps. -/
def meterAsk (d : Dp) (i : BitVec 4) (size : Nat) (t : Option Nat) : Bool × Option Nat × Dp :=
  match t with
  | some _ => if meterHolds d i t then (false, t, d) else (true, none, d)
  | none =>
    let m := meterOffer d i size false
    (m.1.isNone, m.1, m.2)

/-- A unit admitted to a tick that is still in flight at the tick's dispatch is charged to the next tick instead (R41). -/
def Meter.carryOver (m : Meter) (size : Nat) (early : Bool) : Meter :=
  if early then { m with early := m.early - size, carryEarly := m.carryEarly + size }
  else { m with count := m.count - size, carry := m.carry + size }

/-- A deferred unit leaves its queue without running (R47, R371). -/
def meterDrop (d : Dp) (i : BitVec 4) (t : Option Nat) : Dp :=
  match t with
  | some k =>
    let m := vget d.meters i
    { d with meters := vset d.meters i { m with queue := m.queue.filter (fun x => x.1 != k) } }
  | none => d

/-- The pending limit written in device cycle n (R20). -/
def Meter.setPending (m : Meter) (n : Nat) (v : W32) : Meter :=
  { m with limP := v, limAt := some n, limWas := if m.limAt == some n then m.limWas else m.limP }

/-- The limit that a boundary in device cycle n brings into force: a limit written in that very cycle waits for the next (R20). -/
def Meter.pendingAt (m : Meter) (n : Nat) : W32 := if m.limAt == some n then m.limWas else m.limP

/-- Deferred units admitted in order, as far as they fit (R47). -/
def meterDrain (m : Meter) : List (Nat × Nat) → Meter
  | [] => { m with queue := [] }
  | x :: xs => if meterFits m x.2 false then meterDrain (meterAdd m x.2 false) xs
    else { m with queue := x :: xs, deferred := true }

/-- A boundary in device cycle n at which a tick starts: the count is shown, the pending limit comes into force, the early count becomes the
count, and deferred units are admitted first (R20, R46, R47, R269). -/
def meterBoundary (n : Nat) (m : Meter) : Meter :=
  meterDrain
    { m with shown := BitVec.ofNat 32 m.count, lim := m.pendingAt n,
             count := addCount m.early (m.pendingAt n).toNat m.carry, early := 0, carry := m.carryEarly, carryEarly := 0,
             deferred := false } m.queue

/-- The boundary at which a stop takes effect: every deferred unit is admitted (R428). -/
def meterStop (m : Meter) : Meter := { m with shown := BitVec.ofNat 32 m.count, queue := [], early := 0, carry := 0, carryEarly := 0 }

/-- The first boundary of a run, in device cycle n: the last tick's shown values stay, and counts start from 0 (R428). -/
def meterStart (n : Nat) (m : Meter) : Meter := 
  { m with lim := m.pendingAt n, count := m.early, early := 0, carry := 0, carryEarly := 0, deferred := false }

end Sys2Proof.Machine
end

