-- ==== Sys2Proof/Machine/Mover.lean ====
section
/-!
DEFINITION. Machine/Mover: what the DE commands do to the datapath (10_command_queues Table 10-4, R429, R430;
09_scratchpads R206, R212 to R217; 11_tiling R257, R258), the completion of a DMEM and the landing of an inbound row.
-/
namespace Sys2Proof.Machine

/-! ### Places rows come from and go to -/

/-- Row k of a source, read in cycle I + t: from a memory reference, or the SE state buffer (level 1). A row past the buffer is not
moved (R430): none. -/
def Work.readLoc (w : Work) (sl : BitVec 2) (adr : BitVec 18) (k : Int) (t : Nat) : Option (List Byte) × Work :=
  if sl = 1 then
    let r := ((adr.extractLsb' 0 8).toNat : Int) + k
    if 0 ≤ r ∧ r < 256 then (some (memSlice (bufAt w.d w.core t) (512 * r.toNat) 512), w)
    else (none, w.bound ((r % 2 ^ 32).toNat))
  else
    match moveOff (adrOff adr) k with
    | none => (some zeroRow, w.bound ((((adrOff adr : Int) + k) % 2 ^ 32).toNat))
    | some o =>
      let r := w.readRef (adrOrch adr) o t
      (some r.1, r.2)

/-- Row k of a destination written, landing in cycle I + landAt: memory, SE state buffer (level 1) or input slot (level 2). -/
def Work.writeLoc (w : Work) (dl : BitVec 2) (adr : BitVec 18) (k : Int) (data : List Byte) (landAt : Nat) : Work :=
  if dl = 1 then
    let r := ((adr.extractLsb' 0 8).toNat : Int) + k
    if 0 ≤ r ∧ r < 256 then
      { w with d := w.d.landIn (landAt + 1) (.sbuf w.core [(512 * r.toNat, padTo 512 data)]) }
    else w.bound ((r % 2 ^ 32).toNat)
  else if dl = 2 then
    let r := ((adr.extractLsb' 0 4).toNat : Int) + k
    if 0 ≤ r ∧ r < 16 then
      w.modMe (fun c => { c with me := { c.me with
        ib := memWrite c.me.ib (8192 * (adr.extractLsb' 4 2).toNat + 512 * r.toNat) (padTo 512 data) } })
    else w.bound ((r % 2 ^ 32).toNat)
  else
    match moveOff (adrOff adr) k with
    | none => w.bound ((((adrOff adr : Int) + k) % 2 ^ 32).toNat)
    | some o => w.writeRef (adrOrch adr) o data landAt

/-- Read latency by source (Table 10-4). -/
def srcLat (sl : BitVec 2) (adr : BitVec 18) : Nat := if sl = 1 then 2 else if adrOrch adr then 14 else 6

/-! ### Conversion in transit (R429) -/

/-- The two formats call for a conversion: both are named and differ. -/
def needsConv (c : Core) (fs fd : BitVec 6) : Bool :=
  fs != 0 && fd != 0 && fs != 63 && fd != 63 &&
  (decide ((fmtGet c fs).op ≠ (fmtGet c fd).op) || (fmtGet c fs).fq != (fmtGet c fd).fq)

/-- The format of a transfer that moves its rows as they are: that of either index that names one. -/
def plainFmt (c : Core) (fs fd : BitVec 6) : FmtSel := if fs != 0 && fs != 63 then fmtGet c fs else if fd != 0 && fd != 63 then fmtGet c fd else fmtNone

/-- A transfer without conversion whose format has a shared scale: its scale rows move behind its element rows (R429; with one index
at none, DEDUCED, log 34). -/
def moveScaled (c : Core) (fs fd : BitVec 6) : Bool := !needsConv c fs fd && (plainFmt c fs fd).op.blk != 0

/-- Scale rows of n elements under a format. -/
def scaleRowsOf (s : FmtSel) (n : Nat) : Nat :=
  if s.op.blk = 0 then 0 else ((n + s.op.block s.op.fmt.perRow - 1) / max 1 (s.op.block s.op.fmt.perRow) + rowBytes - 1) / rowBytes

/-- Element rows of a destination for n source element rows. -/
def destRows (s d : FmtSel) (n : Nat) : Nat := (n * d.op.fmt.bits + s.op.fmt.bits - 1) / s.op.fmt.bits

/-- The elements of n source rows; those of a row that is not enabled count as zeros and raise nothing (R257). -/
def liveElems (s : FmtSel) (en : Nat → Bool) (n : Nat) (elems scales : List Byte) : List (Dec × Bool) :=
  let per := s.op.fmt.perRow
  (List.range (n * per)).map (fun i =>
    if en (i / per) then
      loadElem s.op (codeAt s.op.fmt elems i)
        (if s.op.blk = 0 then none else some (byteAt scales (i / max 1 (s.op.block per)))) s.fq
    else (.zero, false))

/-- n source element rows converted: destination element bytes, scale bytes and flags; `slot`: into an input slot, whose
blocks R107 sets. -/
def convRows (s d : FmtSel) (slot : Bool) (en : Nat → Bool) (n : Nat) (elems scales : List Byte) : List Byte × List Byte × NFlags :=
  let l := liveElems s en n elems scales
  let b := if slot then slotBlock d.op else d.op.block d.op.fmt.perRow
  let r := storeElems d.op d.fixs d.fq b (l.map (fun x => x.1))
  (r.1, r.2.1, { r.2.2 with inv := r.2.2.inv || l.any (fun x => x.2) })

/-- Destination row j of a conversion takes elements of an enabled source row (DEDUCED, log 34). -/
def destLive (s d : FmtSel) (en : Nat → Bool) (n j : Nat) : Bool :=
  let ps := s.op.fmt.perRow
  let pd := d.op.fmt.perRow
  (List.range n).any (fun k => en k && decide (k * ps < (j + 1) * pd) && decide (j * pd < (k + 1) * ps))

/-- Rows k0, k0 + 1, … of a source, row number f in cycle I + t + f: none for a row that is not enabled, which is not read
(R257), and for one past a buffer. -/
def Work.readSpan (w : Work) (sl : BitVec 2) (adr : BitVec 18) (k0 : Int) (en : Nat → Bool) (from_ t : Nat) :
    Nat → List (Option (List Byte)) × Work
  | 0 => ([], w)
  | n + 1 =>
    let r := if en from_ then w.readLoc sl adr k0 (t + from_) else (none, w)
    let rest := r.2.readSpan sl adr (k0 + 1) en (from_ + 1) t n
    (r.1 :: rest.1, rest.2)

/-- Rows as one byte string; a row that was not read counts as zeros. -/
def joinRows (l : List (Option (List Byte))) : List Byte := l.flatMap (fun r => padTo rowBytes (r.getD []))

/-- Row k of those read is there. -/
def rowRead (l : List (Option (List Byte))) (k : Nat) : Bool := match l[k]? with | some (some _) => true | _ => false

/-- A byte string written to rows k0, k0 + 1, …, row number f landing in cycle I + land f; rows not enabled are left out. -/
def Work.writeSpan (w : Work) (dl : BitVec 2) (adr : BitVec 18) (k0 : Int) (en : Nat → Bool) (from_ : Nat) (land : Nat → Nat)
    (data : List Byte) : Nat → Work
  | 0 => w
  | n + 1 =>
    (if en from_ then w.writeLoc dl adr k0 (data.take rowBytes) (land from_) else w).writeSpan dl adr (k0 + 1) en
      (from_ + 1) land (data.drop rowBytes) n

/-- The scale bytes of n slot rows from row k0 on, written to the slot's scale store (R107); those of a row that is not enabled are
left out. -/
def Work.writeSlotScale (w : Work) (d : FmtSel) (adr : BitVec 18) (k0 : Int) (en : Nat → Bool) (scales : List Byte) (n : Nat) : Work :=
  let m := slotRowBlocks d.op
  (List.range n).foldl (fun (w : Work) (i : Nat) =>
    let r := ((adr.extractLsb' 0 4).toNat : Int) + k0 + (i : Int)
    if en i && decide (0 ≤ r) && decide (r < 16) then
      w.modMe (fun c => { c with me := { c.me with
        ibScale := memWrite c.me.ibScale (2048 * (adr.extractLsb' 4 2).toNat + r.toNat * m) ((scales.drop (i * m)).take m) } })
    else w) w

/-! ### DMOVE and DMOVEX -/

/-- A move as both commands describe it: source and destination with their row offsets. -/
structure MoveJob where
  sl : BitVec 2
  dl : BitVec 2
  sadr : BitVec 18
  dadr : BitVec 18
  nrows : Nat
  fs : BitVec 6
  fd : BitVec 6
  cflg : BitVec 7
  soff : Int
  doff : Int
  bcnt : Nat
  bss : Int
  bds : Int
deriving DecidableEq, Repr

/-- Rows of a transfer on its source side and on its destination side, scale rows included (R429). -/
def spanRowsOf (c : Core) (fs fd : BitVec 6) (n : Nat) : Nat × Nat :=
  if needsConv c fs fd then
    let s := fmtGet c fs
    let d := fmtGet c fd
    let el := n * s.op.fmt.perRow
    (n + scaleRowsOf s el, destRows s d n + scaleRowsOf d el)
  else if moveScaled c fs fd then
    let m := n + scaleRowsOf (plainFmt c fs fd) (n * (plainFmt c fs fd).op.fmt.perRow)
    (m, m)
  else (n, n)

/-- Cycles one batch takes: the larger of its rows read and its rows written (R429). -/
def batchOcc (c : Core) (fs fd : BitVec 6) (n : Nat) : Nat := max (spanRowsOf c fs fd n).1 (spanRowsOf c fs fd n).2

/-- One row moved unchanged, the row `at_` of the transfer; a source row that is not moved leaves the destination alone. -/
def Work.moveRow (w : Work) (j : MoveJob) (b i at_ : Nat) : Work :=
  let r := w.readLoc j.sl j.sadr (j.soff + b * j.bss + i) at_
  match r.1 with
  | none => r.2
  | some x => r.2.writeLoc j.dl j.dadr (j.doff + b * j.bds + i) x (at_ + srcLat j.sl j.sadr + 1)

/-- One batch moved unchanged (R258); a shared-scale format brings its scale rows behind its element rows, into a slot the entries of
the enabled rows alone (R257, R429, log 34). A batch with no row enabled moves nothing (R260). -/
def Work.moveBatch (w : Work) (en : Nat → Bool) (j : MoveJob) (b : Nat) : Work :=
  let en := fun k => en (b * j.nrows + k)
  if !(List.range j.nrows).any en then w else
  let t := b * batchOcc w.me j.fs j.fd j.nrows
  let f := plainFmt w.me j.fs j.fd
  let sr := if moveScaled w.me j.fs j.fd then scaleRowsOf f (j.nrows * f.op.fmt.perRow) else 0
  let w := (List.range j.nrows).foldl (fun w i => if en i then w.moveRow j b i (t + i) else w) w
  if j.dl = 2 then
    let s := w.readSpan j.sl j.sadr (j.soff + b * j.bss + j.nrows) (fun _ => true) 0 (t + j.nrows) sr
    s.2.writeSlotScale f j.dadr (j.doff + b * j.bds) en (joinRows s.1) j.nrows
  else (List.range sr).foldl (fun w i => w.moveRow j b (j.nrows + i) (t + j.nrows + i)) w

/-- The last source row, scale rows included, that destination row i of a conversion waits for. -/
def lastSource (s d : FmtSel) (n sr i : Nat) : Nat :=
  if sr = 0 then min (n - 1) (((i + 1) * d.op.fmt.perRow - 1) / max 1 s.op.fmt.perRow) else n + sr - 1

/-- One batch converted (R429); one with no row enabled moves nothing (R260). A source row past its buffer is not moved (R430). -/
def Work.convBatch (w : Work) (en : Nat → Bool) (j : MoveJob) (b : Nat) : Work :=
  let en := fun k => en (b * j.nrows + k)
  if !(List.range j.nrows).any en then w else
  let s := fmtGet w.me j.fs
  let d := fmtGet w.me j.fd
  let t := b * batchOcc w.me j.fs j.fd j.nrows
  let k0 := j.soff + b * j.bss
  let x := w.readSpan j.sl j.sadr k0 en 0 t j.nrows
  let on := rowRead x.1
  let sr := scaleRowsOf s (j.nrows * s.op.fmt.perRow)
  let y := x.2.readSpan j.sl j.sadr (k0 + j.nrows) (fun _ => true) 0 (t + j.nrows) sr
  let r := convRows s d (j.dl == 2) on j.nrows (joinRows x.1) (joinRows y.1)
  let n := destRows s d j.nrows
  let land := fun i => t + max i (lastSource s d j.nrows sr i) + srcLat j.sl j.sadr + 1
  let dst := j.doff + b * j.bds
  let live := destLive s d on j.nrows
  let w := y.2.writeSpan j.dl j.dadr dst live 0 land r.1 n
  let w := if d.op.blk = 0 then w
    else if j.dl = 2 then w.writeSlotScale d j.dadr dst live r.2.1 n
    else w.writeSpan j.dl j.dadr (dst + n) (fun _ => true) n land r.2.1 (rowsFor r.2.1.length)
  w.raise r.2.2

/-- Occupancy of a move in cycles: the rows moved, or the larger stream of a conversion (Table 10-4, R429). -/
def moveOcc (c : Core) (fs fd : BitVec 6) (n bcnt : Nat) : Nat :=
  bcnt * batchOcc c fs fd n

/-- The synchronising effects of a move: the slot's tile-ready bit when its last row lands, and CFLG in the cycle in which
the rows are readable (Table 10-4, R229). -/
def Work.moveDone (w : Work) (j : MoveJob) : Work :=
  let o := moveOcc w.me j.fs j.fd j.nrows j.bcnt
  let ls := srcLat j.sl j.sadr
  let w := if j.dl = 2 then
      { w with d := w.d.landIn (o + ls + 1) (.ready w.core (1#6 <<< (j.dadr.extractLsb' 4 2).toNat) true) }
    else w
  w.deEnds (o + ls + 1 + (if j.dl = 0 && adrOrch j.dadr then 8 else 0) + 1) j.cflg

/-- Row k of a transfer is enabled (R257). -/
def deRowOn (c : Core) (i : Iss) (k : Nat) : Bool := rowOn c i.hdr.mask i.pkt (k % 64)

def runMove (i : Iss) (j : MoveJob) (run : Bool) (w : Work) : Work :=
  let c := w.me
  let en := fun k => deRowOn c i k
  let w := if !run then w
    else if needsConv c j.fs j.fd then (List.range j.bcnt).foldl (fun w b => w.convBatch en j b) w
    else (List.range j.bcnt).foldl (fun w b => w.moveBatch en j b) w
  w.moveDone j

/-- The move a DMOVE makes. -/
def dmoveJob (f : DmoveF) : MoveJob :=
  { sl := f.sl, dl := f.dl, sadr := f.sadr, dadr := f.dadr, nrows := f.nrows1.toNat + 1, fs := f.fmtS, fd := f.fmtD,
              cflg := f.cflg, soff := 0, doff := 0, bcnt := f.bcnt1.toNat + 1, bss := f.bss.toInt, bds := f.bds.toInt }

/-- That of a DMOVEX, whose loop counter adds x rows on the sides that XS and XD name (R230). -/
def dmovexJob (f : DmovexF) (x : Int) : MoveJob :=
  { sl := f.sl, dl := f.dl, sadr := f.sadr, dadr := f.dadr, nrows := f.nrows1.toNat + 1, fs := f.fmtS, fd := f.fmtD,
    cflg := f.cflg, soff := if f.xs = 1 then x else 0, doff := if f.xd = 1 then x else 0, bcnt := 1, bss := 0, bds := 0 }

def effDmove (i : Iss) (f : DmoveF) (run : Bool) (w : Work) : Work := runMove i (dmoveJob f) run w

def effDmovex (i : Iss) (f : DmovexF) (run : Bool) (w : Work) : Work :=
  runMove i (dmovexJob f (xkValue w.me f.xk * f.xsc.toNat : Nat)) run w

/-! ### DREMOTE, DCRET and inbound rows -/

/-- The first cycle from n on, from now, in which no other row enters core t's inbound buffer: the fabric delivers one a cycle
(R200). -/
def Dp.arriveAt (d : Dp) (t : BitVec 3) (n : Nat) : Nat :=
  let used := d.landings.filterMap (fun x => match x.2 with | .inRow k _ => if k = t then some x.1 else none | _ => none)
  n + ((List.range (used.length + 1)).find? (fun k => !used.contains (n + k))).getD used.length

/-- Credits taken from a channel of the command's core (R213). -/
def Work.takeCredit (w : Work) (ch : BitVec 3) (n : Nat) : Work :=
  w.modMe (fun c => { c with cm := { c.cm with
    chans := vset c.cm.chans ch { vget c.cm.chans ch with credit := (vget c.cm.chans ch).credit - n } } })

/-- The flags of a remote write that sends no row: CFLG in I + O + 1, RFLG in I + O + 2 (R213, R229). -/
def Work.remoteFlags (w : Work) (tgt : BitVec 3) (f : DremoteF) : Work :=
  let w := w.deEnds (f.nrows1.toNat + 3) f.cflg
  { w with d := w.d.landIn (f.nrows1.toNat + 1 + 3) (.flag tgt f.rflg true) }

/-- The rows of a remote write that are enabled: number, landing offset and bytes. -/
def Work.remoteRows (w : Work) (i : Iss) (f : DremoteF) (x : Chan) : Nat → List (Nat × Nat × List Byte) × Work
  | 0 => ([], w)
  | n + 1 =>
    let r := w.remoteRows i f x n
    if deRowOn r.2.me i n then
      let y := r.2.readLoc 0 f.sadr n n
      (r.1 ++ [(n, x.rbase.toNat + f.rofs.toNat + n, y.1.getD [])], y.2)
    else r

/-- Row k of a remote write enters the target's inbound buffer in cycle I + k + 2, the last one with RFLG, or as soon as the fabric
has room (R27, R200, R213); the cycle of the last, from now. -/
def Work.sendRows (w : Work) (tgt : BitVec 3) (rflg : BitVec 6) : List (Nat × Nat × List Byte) → Nat × Work
  | [] => (0, w)
  | x :: xs =>
    let r : InRow := { src := .core w.core, row := some x.2.1, data := x.2.2, flag := if xs.isEmpty then some rflg else none }
    let at_ := w.d.arriveAt tgt (x.1 + 3)
    let rest := ({ w with d := w.d.landIn at_ (.inRow tgt r) } : Work).sendRows tgt rflg xs
    (max at_ rest.1, rest.2)

/-- The rows go out; a row that the target's bound or regions refuse is not sent (R209, R210). With no row sent the flags are those
of a stopped write. -/
def Work.sendAll (w : Work) (f : DremoteF) (tgt : BitVec 3) (rows : List (Nat × Nat × List Byte)) : Work :=
  let w := (rows.filter (fun x => (cmRow w.d tgt x.2.1).isNone)).foldl (fun (w : Work) x => w.bound x.2.1) w
  match rows.filterMap (fun x => (cmRow w.d tgt x.2.1).map (fun r => (x.1, r % 0x4000, x.2.2))) with
  | [] => w.remoteFlags tgt f
  | l =>
    let r := w.sendRows tgt f.rflg l
    r.2.deEnds (max r.1 (f.nrows1.toNat + 3)) f.cflg

def effDremote (i : Iss) (f : DremoteF) (run : Bool) (w : Work) : Work :=
  let n := f.nrows1.toNat + 1
  let x := vget w.me.cm.chans f.cch
  if x.credit < n then
    (w.report (w.mkReport 4 0xA f.cch.toNat (x.credit % 65536 + 65536 * n) true true false)).remoteFlags x.tgt f
  else
    let w := w.takeCredit f.cch n
    if x.rrows.toNat < f.rofs.toNat + n then (w.bound (x.rbase.toNat + max f.rofs.toNat x.rrows.toNat)).remoteFlags x.tgt f
    else if !run then w.remoteFlags x.tgt f
    else
      let r := w.remoteRows i f x n
      r.2.sendAll f x.tgt r.1

/-- DCRET: the return arrives in cycle I + 4 and counts from I + 5 (R214). -/
def effDcret (_ : Iss) (f : DcretF) (_run : Bool) (w : Work) : Work :=
  { w with d := w.d.landIn 5 (.creditReturn f.tcore f.cch (f.nrows1.toNat + 1) w.core) }

/-! ### DGATHER (R206, Table 10-3) -/

/-- The row of an index list: the copy that the cache partition holds of a locked row (R206), else the row itself. -/
def Work.readIndex (w : Work) (adr : BitVec 18) (k t : Nat) : List Byte × Work :=
  match refRow w.d w.core (adrOrch adr) (adrOff adr + k) with
  | none => (zeroRow, w.bound (adrOff adr + k))
  | some row => match w.me.cm.locked.find? (fun x => x.1 == row) with
    | some x => (x.2, w)
    | none => w.readDev row t

/-- DGATHER: the index of row k is read 6 cycles ahead of the row, which is read at I + k (Table 10-4). -/
def effDgather (i : Iss) (f : DgatherF) (run : Bool) (w : Work) : Work :=
  let w := if !run then w else
    (List.range (f.nrows1.toNat + 1)).foldl (fun (w : Work) k =>
      if !deRowOn w.me i k then w else
      let e := f.iofs.toNat + k
      let ix := w.readIndex f.iadr (e / 128) (k - 6)
      let idx := codeAt .i32 ix.1 (e % 128)
      let r := ix.2.readLoc 0 f.sadr idx k
      r.2.writeLoc 0 f.dadr k (r.1.getD []) (k + srcLat 0 f.sadr + 1)) w
  let n := f.nrows1.toNat + 1
  w.deEnds (n + srcLat 0 f.sadr + 1 + (if adrOrch f.dadr then 8 else 0) + 1) f.cflg

/-! ### DMEM (R235, R404, R429) -/

/-- A MEM_RESP report of a DMEM (Table 17-1): use 1. -/
def memRespReport (c : BitVec 3) (x : DmemXfer) (resp : BitVec 2) : Report :=
  { cls := 0xB, status := 8, unit := 7, queue := 3, core := some c,
    info0 := BitVec.ofNat 32 (x.mrow.toNat * 512 / 256),
    info1 := BitVec.ofNat 32 (resp.toNat + 4 * x.port.toNat + 16), rollback := true, restart := false, restore := false, tick := some x.tick }

/-- The bytes a DMEM writes to MEM: its local rows, converted where the formats differ. -/
def Work.dmemOut (w : Work) (en : Nat → Bool) (f : DmemF) : List Byte × Work :=
  let n := f.nrows1.toNat + 1
  let x := w.readSpan 0 f.ladr 0 en 0 0 n
  if needsConv w.me f.fmtS f.fmtD then
    let s := fmtGet w.me f.fmtS
    let d := fmtGet w.me f.fmtD
    let y := x.2.readSpan 0 f.ladr n (fun _ => true) 0 n (scaleRowsOf s (n * s.op.fmt.perRow))
    let r := convRows s d false en n (joinRows x.1) (joinRows y.1)
    (padTo (rowBytes * destRows s d n) r.1 ++ padTo (rowBytes * rowsFor r.2.1.length) r.2.1, y.2.raise r.2.2)
  else
    let y := x.2.readSpan 0 f.ladr n (fun _ => true) 0 n ((spanRowsOf w.me f.fmtS f.fmtD n).1 - n)
    (joinRows x.1 ++ joinRows y.1, y.2)

/-- Row j of the destination of a transfer is written: of a conversion, one that takes an enabled row, and every scale row. -/
def destOn (c : Core) (fs fd : BitVec 6) (en : Nat → Bool) (n j : Nat) : Bool :=
  if needsConv c fs fd then
    let s := fmtGet c fs
    let d := fmtGet c fd
    decide (destRows s d n ≤ j) || destLive s d en n j
  else decide (n ≤ j) || en j

/-- Rows of a DMEM that cross its port: source rows of a read, destination rows of a write, those left out not counted (R257). -/
def dmemRows (c : Core) (f : DmemF) (en : Nat → Bool) (n : Nat) : Nat :=
  let r := spanRowsOf c f.fmtS f.fmtD n
  if f.dir = 1 then ((List.range r.2).filter (destOn c f.fmtS f.fmtD en n)).length
  else ((List.range r.1).filter (fun k => en k || decide (n ≤ k))).length

def effDmem (i : Iss) (f : DmemF) (run : Bool) (w : Work) : Work :=
  let n := f.nrows1.toNat + 1
  let c := w.me
  let en := fun k => deRowOn c i k
  if !run || !(List.range n).any en then w.deEnds (moveOcc c f.fmtS f.fmtD n 1 + 2) f.cflg else
  let r := if f.dir = 1 then w.dmemOut en f else ([], w)
  let m := meterOffer r.2.d (8 + f.port.zeroExtend 4) (512 * dmemRows c f en n) w.early
  let rows := (List.range 64).foldl (fun (v : W64) k => setBit v k (en k)) 0
  let x : DmemXfer := { port := f.port, dir := f.dir, mrow := f.mrow, ladr := f.ladr, nrows := n, fmtS := f.fmtS,
                        fmtD := f.fmtD, cflg := f.cflg, rows := rows, data := r.1, ticket := m.1, tick := w.tick, pkt := i.pkt }
  ({ r.2 with d := m.2 }).modMe (fun c => { c with dmem := c.dmem ++ [x] })

/-- The first outstanding transfer of a core that its meter has admitted, and the others. -/
def takeDmem (d : Dp) : List DmemXfer → Option (DmemXfer × List DmemXfer)
  | [] => none
  | x :: xs => if meterHolds d (8 + x.port.zeroExtend 4) x.ticket then (takeDmem d xs).map (fun y => (y.1, x :: y.2))
    else some (x, xs)

/-- Rows of a transfer enabled at its issue. -/
def DmemXfer.on (x : DmemXfer) (k : Nat) : Bool := x.rows.getLsbD (k % 64)

/-- The rows a read DMEM lands: the bytes from MEM, converted where the formats differ. -/
def Work.dmemIn (w : Work) (x : DmemXfer) (data : List Byte) : Work :=
  if needsConv w.me x.fmtS x.fmtD then
    let s := fmtGet w.me x.fmtS
    let d := fmtGet w.me x.fmtD
    let r := convRows s d false x.on x.nrows data (data.drop (rowBytes * x.nrows))
    let n := destRows s d x.nrows
    let w := w.writeSpan 0 x.ladr 0 (destLive s d x.on x.nrows) 0 (fun _ => 0) r.1 n
    (if d.op.blk = 0 then w else w.writeSpan 0 x.ladr n (fun _ => true) n (fun _ => 0) r.2.1 (rowsFor r.2.1.length)).raise r.2.2
  else w.writeSpan 0 x.ladr 0 (fun j => decide (x.nrows ≤ j) || x.on j) 0 (fun _ => 0) data (spanRowsOf w.me x.fmtS x.fmtD x.nrows).2

/-- The rows a write DMEM leaves in external memory; a row left out keeps its bytes (R257). -/
def extRows (m : Mem) (a : Nat) (on : Nat → Bool) (j : Nat) (data : List Byte) : Nat → Mem
  | 0 => m
  | n + 1 =>
    extRows (if on j then memWrite m (a + rowBytes * j) (data.take rowBytes) else m) a on (j + 1) (data.drop rowBytes) n

/-- A DMEM completes: its rows land or its write is in external memory, a bad response is reported, CFLG lands. -/
def effDmemComplete (resp : BitVec 2) (data : List Byte) (w : Work) : Work :=
  match takeDmem w.d w.me.dmem with
  | none => w
  | some (x, rest) =>
    let w := w.modMe (fun c => { c with dmem := rest })
    let w := if 2 ≤ resp.toNat then w.report (memRespReport w.core x resp)
      else if x.dir = 0 then w.dmemIn x data
      else { w with d := { w.d with ext := extRows w.d.ext (512 * x.mrow.toNat) (destOn w.me x.fmtS x.fmtD x.on x.nrows) 0 x.data (rowsFor x.data.length) } }
    w.deEnds 1 x.cflg

/-! ### Inbound rows (R200, R215, R216) -/

/-- An open window of a core admits a row from a source (R215). -/
def windowAdmits (c : Core) (src : RowSrc) (row : Nat) : Bool :=
  c.cm.windows.toList.any (fun w => w.opened && decide (w.base.toNat ≤ row) && decide (row < w.base.toNat + w.rows.toNat) &&
    (match src with
     | .core k => w.srcCore.getLsbD k.toNat
     | .sp => w.sp
     | .xp => w.xp
     | .dbg => w.dbg))

/-- UNIT code of a writer (R341). -/
def srcUnit : RowSrc → BitVec 4
  | .core _ => 7 | .sp => 2 | .xp => 0 | .dbg => 12

/-- A row of a core memory that a source writes may land (R213, R215, R216): in service a remote write of another core's DE, out of
service what an open window admits. -/
def rowAdmitted (d : Dp) (k : BitVec 3) (src : RowSrc) (row : Nat) : Bool :=
  let c := vget d.cores k
  decide (row < coreMemRows) && (if c.cm.inService then (match src with | .core _ => true | _ => false) else windowAdmits c src row)

/-- The WINDOW_VIOLATION of a row that may not land (Table 17-1). -/
def windowReport (d : Dp) (k : BitVec 3) (src : RowSrc) (row : Nat) : Report :=
  { cls := 3, status := 9, unit := srcUnit src, queue := 3, core := match src with | .core j => some j | _ => some k,
    info0 := BitVec.ofNat 32 (coreRow k row), info1 := (srcUnit src).zeroExtend 32, rollback := (vget d.cores k).cm.inService,
    restart := false, restore := false }

/-- A row that reaches core k's memory from outside lands or is discarded with WINDOW_VIOLATION. -/
def landRow (d : Dp) (k : BitVec 3) (r : InRow) : Dp × List Report :=
  match r.row with
  | none => (d, [])
  | some row => if rowAdmitted d k r.src row then (writeRow d (coreRow k row) r.data, []) else (d, [windowReport d k r.src row])

/-- The SP writes device rows: Orchard rows as they are, rows of a core memory under a window that its CP opens for the SP over them and
closes after (R215, R347 step 3; which window, DESIGN CHOICE, log 125). -/
def spWrites (d : Dp) (rows : List (Nat × List Byte)) : Dp × List Report :=
  let was := fun (k : BitVec 3) => (vget d.cores k).cm.windows
  let opened : Dp := { d with cores := d.cores.map (fun c =>
    { c with cm := { c.cm with windows := vset c.cm.windows 0 ⟨0, BitVec.ofNat 14 coreMemRows, 0, true, false, false, true⟩ } }) }
  let r := rows.foldl (fun (a : Dp × List Report) x =>
    if isOrchard x.1 then (writeRow a.1 x.1 x.2, a.2)
    else
      let y := landRow a.1 (rowCore x.1) ⟨.sp, some (x.1 % 0x4000), x.2, none⟩
      (y.1, a.2 ++ y.2)) (opened, [])
  ({ r.1 with cores := Vector.ofFn (fun (k : Fin (2 ^ 3)) =>
      let i : BitVec 3 := BitVec.ofNat 3 k.val
      { vget r.1.cores i with cm := { (vget r.1.cores i).cm with windows := was i } }) }, r.2)

/-- The first row of core k's inbound buffer lands, and one that waited in the fabric enters; in the cycle after the last row of a write its flag is set
(R27, R200). -/
def landInbound (d : Dp) (k : BitVec 3) : Dp × List Report :=
  match (vget d.cores k).cm.inbound with
  | [] => (d, [])
  | r :: rs =>
    let d := d.modCore k (fun c => { c with cm := { c.cm with inbound := rs ++ c.cm.fabric.take 1, fabric := c.cm.fabric.drop 1 } })
    let x := landRow d k r
    (match r.flag with | some f => x.1.landIn 2 (.flag k f true) | none => x.1, x.2)

end Sys2Proof.Machine
end

