-- ==== Sys2Proof/Machine/Scan.lean ====
section
/-!
DEFINITION. Machine/Scan: what SMIX, SOUT and SCARRY do to the datapath (06_scan_engine R125 to R147), over a scan
parameter block whose arrays lie as log 13 states.
-/
namespace Sys2Proof.Machine

/-- The SE reads its operands in its issue cycle: rows with that cycle. -/
def atOnce (offs : List Nat) : List (Nat × Nat) := offs.map (fun o => (o, 0))

/-- The rows of the elements `es` of an array at core-memory offset `a`. -/
def Work.fetch (w : Work) (a bits : Nat) (es : List Nat) : List (Nat × List Byte) × Work :=
  w.readDistinct false (atOnce (distinct (es.map (fun e => a + e / (4096 / bits)))))

/-- Element e of an array among the rows fetched. -/
def fetched (rows : List (Nat × List Byte)) (a bits e : Nat) : Nat :=
  elemAt bits (byteAt (rowOf rows (a + e / (4096 / bits)))) (e % (4096 / bits))

/-- The format an SPB field names. -/
def spbFmt (e : FmtEntry) : FmtSel :=
  match OpFmt.ofField e.fmt with | some o => ⟨o, e.fq.toInt, e.fixs⟩ | none => fmtNone

/-- The row at which the scales of an array of n elements begin: right behind its element rows (DESIGN CHOICE, log 13). -/
def scaleBase (s : FmtSel) (a n : Nat) : Nat := a + (n + s.op.fmt.perRow - 1) / s.op.fmt.perRow

/-- The rows of the elements and scales of a formatted array of n elements. -/
def Work.fetchFmt (w : Work) (s : FmtSel) (a n : Nat) (es : List Nat) : List (Nat × List Byte) × Work :=
  let r := spanRows s a (scaleBase s a n) es
  w.readDistinct false (atOnce (distinct (r.1 ++ r.2)))

/-- Its element e. -/
def fetchedFmt (s : FmtSel) (rows : List (Nat × List Byte)) (a n e : Nat) : Dec × Bool :=
  spanElem s rows rows a (scaleBase s a n) e 0

/-- Heads, and streams of a packet. -/
def spbHeads (s : Spb) : Nat := s.c / max 1 s.p
def spbStreams (s : Spb) : Nat := 64 / max 1 s.l

/-! ### Scan parameter blocks in core memory (R140; DESIGN CHOICE of the byte layout, log 13) -/

/-- A format entry in a word: the format field, FQ and FIXS. -/
def fmtWord (e : FmtEntry) : Nat := e.fmt.toNat + 4096 * e.fq.toNat + 1048576 * e.fixs.toNat

/-- The entry a word holds. -/
def fmtOfWord (n : Nat) : FmtEntry := ⟨BitVec.ofNat 12 n, BitVec.ofNat 8 (n / 4096), BitVec.ofNat 8 (n / 1048576)⟩

/-- A signed number in a word. -/
def intWord (v : Int) : Nat := (v % 2 ^ 32).toNat

/-- The fields of a block in order, a word each. -/
def spbWords (s : Spb) : List Nat :=
  [s.c, s.n, s.p, s.l, s.complex.toNat + 2 * s.symState.toNat, fmtWord s.fx, fmtWord s.fb, fmtWord s.fc, intWord s.eg, intWord s.qg,
   intWord s.ey, s.tExp.toNat, s.tCos.toNat, s.tSin.toNat, s.aLam, s.aTheta, s.aB, s.aC, s.aCi, s.aX, s.aG, s.aGi, s.aM, s.aMi, s.aOut,
   s.aRst, s.aQh, s.seBase, s.initOfs]

/-- The 512-byte row of a block. -/
def spbRow (s : Spb) : List Byte := padTo rowBytes ((spbWords s).flatMap (leBytes 4))

/-- Word k of a row. -/
def rowWord (row : List Byte) (k : Nat) : Nat := leNat ((row.drop (4 * k)).take 4)

/-- The block a row holds. -/
def spbOfRow (row : List Byte) : Spb :=
  let x := rowWord row
  let i := fun k => signedOf 32 (x k)
  { c := x 0, n := x 1, p := x 2, l := x 3, complex := (x 4).testBit 0, symState := (x 4).testBit 1, fx := fmtOfWord (x 5),
    fb := fmtOfWord (x 6), fc := fmtOfWord (x 7), eg := i 8, qg := i 9, ey := i 10, tExp := BitVec.ofNat 3 (x 11),
    tCos := BitVec.ofNat 3 (x 12), tSin := BitVec.ofNat 3 (x 13), aLam := x 14, aTheta := x 15, aB := x 16, aC := x 17, aCi := x 18,
    aX := x 19, aG := x 20, aGi := x 21, aM := x 22, aMi := x 23, aOut := x 24, aRst := x 25, aQh := x 26, seBase := x 27,
    initOfs := x 28 }

/-- The scan parameter block a command names: its row of core memory (R140). -/
def Work.readSpb (w : Work) (a : BitVec 14) : Spb × Work :=
  let r := w.readRef false a.toNat 0
  (spbOfRow r.1, r.2)

/-- The step data of one head over the 64 rows of a packet: log-decay and angle of each row (0 on a masked row, R141), the
reset of each row (none on a masked row), and the count of codes above 0 (R126). -/
structure HeadSteps where
  lam : List Int
  theta : List Int
  rst : List Bool
  on : List Bool
  clamped : Nat
deriving DecidableEq, Repr

/-- Log-decays, angles and resets of head h, read through fetched rows. -/
def headSteps (c : Core) (i : Iss) (s : Spb) (lam theta rst : List (Nat × List Byte)) (h : Nat) : HeadSteps :=
  let on := (List.range 64).map (fun r => rowOn c i.hdr.mask i.pkt r)
  let raw := (List.range 64).map (fun r => signedOf 32 (fetched lam s.aLam 32 (r * spbHeads s + h)))
  let word := resetWordIn (rowOf rst (s.aRst + i.pkt / 64)) i.pkt
  { on := on
    lam := (raw.zip on).map (fun x => if x.2 then min 0 x.1 else 0)
    theta := if s.complex then
        ((List.range 64).zip on).map (fun x =>
          if x.2 then signedOf 32 (fetched theta s.aTheta 32 (x.1 * spbHeads s + h)) else 0)
      else List.replicate 64 0
    rst := on.zipIdx.map (fun x => x.1 && word.getLsbD x.2)
    clamped := ((raw.zip on).filter (fun x => x.2 && decide (0 < x.1))).length }

/-- Sum of entries a .. b−1 of a list (cum[t] − cum[s] of R131 with rows in place of steps). -/
def sumSpan (l : List Int) (a b : Nat) : Int := ((l.drop a).take (b - a)).foldl (· + ·) 0

/-- The latest reset at or before step t (1 to L) of the stream whose first row is b0, or 0 (R131). -/
def baseOf (h : HeadSteps) (b0 : Nat) : Nat → Nat
  | 0 => 0
  | t + 1 => if h.rst.getD (b0 + t) false then t + 1 else baseOf h b0 t

/-- dd(t, s): the decay between steps s and t of a stream (R129, R131). -/
def ddOf (ce : List Byte) (h : HeadSteps) (b0 t s : Nat) : Dec := dexp ce (sumSpan h.lam (b0 + s) (b0 + t))

/-- rot between steps s and t (R130, R139). -/
def rotOf (cc cs : List Byte) (h : HeadSteps) (b0 t s : Nat) : Dec × Dec :=
  rot cc cs (sumSpan h.theta (b0 + s) (b0 + t))

/-- Exact product of several values; NAN if one is. -/
def prodExact : List Dec → Dec
  | [] => .fin 1 0
  | d :: ds => nanOr [d, prodExact ds] (mulExact d (prodExact ds))

/-- The curve tables a block names. -/
structure ScanCurves where
  ce : List Byte
  cc : List Byte
  cs : List Byte
deriving DecidableEq, Repr

def scanCurves (c : Core) (s : Spb) : ScanCurves :=
  ⟨activeCurve c s.tExp, activeCurve c s.tCos, activeCurve c s.tSin⟩

/-- Occupancy of a command: 256 terms a cycle (R146). Its results are readable from I + O + 25. -/
def seOcc (terms : Nat) : Nat := (terms + 255) / 256

/-- The SE is occupied for the cycles its terms take (R146); those of a command that adds no term are not counted (DEDUCED, log 30). -/
def Work.seBusy (w : Work) (op : BitVec 2) (terms : Nat) (works : Bool) : Work :=
  w.modMe (fun c => { c with se := { c.se with
    op := op, busyCyc := if works then c.se.busyCyc + BitVec.ofNat 32 (seOcc terms) else c.se.busyCyc,
    idle := max c.se.idle (w.d.cycle + seOcc terms + 25) } })

/-- SE_LAMCLAMP and SE_INV for n codes above 0 (R126). -/
def Work.lamClamp (w : Work) (n : Nat) : Work :=
  if n = 0 then w else
  (w.modMe (fun c => { c with se := { c.se with lamClamp := c.se.lamClamp + BitVec.ofNat 32 n } })).raise
    { NFlags.none with inv := true }

/-- The log-decay, angle and reset rows of a packet for the given heads. -/
def Work.fetchSteps (w : Work) (i : Iss) (s : Spb) (hs : List Nat) :
    (List (Nat × List Byte) × List (Nat × List Byte) × List (Nat × List Byte)) × Work :=
  let es := hs.flatMap (fun h => (List.range 64).map (fun r => r * spbHeads s + h))
  let a := w.fetch s.aLam 32 es
  let b := if s.complex then a.2.fetch s.aTheta 32 es else ([], a.2)
  let c := b.2.readDistinct false (atOnce [s.aRst + i.pkt / 64])
  ((a.1, b.1, c.1), c.2)

/-! ### SMIX -/

/-- Entry (t row, s row) of a G tile in finished-tile layout. -/
def gAt (rows : List (Nat × List Byte)) (a t s : Nat) (q : Int) : Dec :=
  decodeElem .i32 false (fetched rows (a + 8 * (s / 16)) 32 (t * 16 + s % 16)) q

/-- One row of a decay-weighted tile (R131, R139): part 0 real, 1 with cs, 2 with sn. -/
def mixRow (s : Spb) (k : ScanCurves) (h : HeadSteps) (g : List (Nat × List Byte)) (ag : Nat) (part : Nat) (row : Nat) :
    List Dec :=
  let b0 := row / s.l * s.l
  let t := row % s.l + 1
  let smin := max (baseOf h b0 t) 1
  (List.range 64).map (fun col =>
    let sst := col - b0 + 1
    if h.on.getD row false && h.on.getD col false && decide (b0 ≤ col) && decide (col < b0 + s.l) && decide (smin ≤ sst) &&
        decide (sst ≤ t) then
      let d := ddOf k.ce h b0 t sst
      let gv := gAt g ag row col s.qg
      match part with
      | 0 => prodExact [d, gv]
      | 1 => prodExact [d, (rotOf k.cc k.cs h b0 t sst).1, gv]
      | _ => prodExact [d, (rotOf k.cc k.cs h b0 t sst).2, gv]
    else Dec.zero)

/-- The plain I16 with a scale per row of 64 (R77, SMODE 1). -/
def mixFmt : OpFmt := { OpFmt.plain .i16 with blk := 4, smode := true }

/-- The rows of a tile m: 16 element rows and a scale row, and the flags of their stores. -/
def mixTile (s : Spb) (k : ScanCurves) (h : HeadSteps) (g : List (Nat × List Byte)) (ag part : Nat) :
    List Byte × NFlags :=
  let rs := (List.range 64).map (fun row => storeElems mixFmt 0x7F 0 64 (mixRow s k h g ag part row))
  (rs.flatMap (fun r => r.1) ++ padTo rowBytes (rs.flatMap (fun r => r.2.1)), flagsAll (rs.map (fun r => r.2.2)))

/-- SMIX of one head; its tiles are readable `m` cycles after the issue (R146). -/
def smixHead (i : Iss) (s : Spb) (m : Nat) (w : Work) (h : Nat) : Work :=
  let a := w.fetchSteps i s [h]
  let c := a.2.me
  let hd := headSteps c i s a.1.1 a.1.2.1 a.1.2.2 h
  let k := scanCurves c s
  let gRows := fun (ag : Nat) => (List.range 32).map (fun r => ag + r)
  let g := a.2.readDistinct false (atOnce (gRows s.aG))
  let w := g.2.lamClamp hd.clamped
  if s.complex then
    let gi := w.readDistinct false (atOnce (gRows s.aGi))
    let r := mixTile s k hd g.1 s.aG 1
    let q := mixTile s k hd gi.1 s.aGi 2
    ((gi.2.writeTogether false (s.aM + 17 * h) r.1 (m - 1) 17).writeTogether false (s.aMi + 17 * h) q.1 (m - 1) 17).raise (r.2.or q.2)
  else
    let r := mixTile s k hd g.1 s.aG 0
    (w.writeTogether false (s.aM + 17 * h) r.1 (m - 1) 17).raise r.2

/-- No row of the packet is enabled (R260). -/
def noRows (c : Core) (i : Iss) : Bool := (List.range 64).all (fun r => !rowOn c i.hdr.mask i.pkt r)

/-- The head or channel range of a command: FIRST with its loop counter, and COUNT (R230). -/
def seRange (c : Core) (f : SeF) (limit : Nat) : List Nat :=
  let first := f.first.toNat + xkValue c f.xk
  (List.range (f.count1.toNat + 1)).filterMap (fun k => if first + k < limit then some (first + k) else none)

/-- Terms of an SMIX (Table 6-4). -/
def smixTerms (s : Spb) (f : SeF) : Nat := 4096 * (f.count1.toNat + 1) * (if s.complex then 2 else 1)

def effSmix (i : Iss) (f : SeF) (run : Bool) (w : Work) : Work :=
  let b := w.readSpb f.spb
  let s := b.1
  let w := b.2.seBusy 1 (smixTerms s f) (run && !noRows w.me i)
  if !run || noRows w.me i then w else
    (seRange w.me f (spbHeads s)).foldl (smixHead i s (seOcc (smixTerms s f) + 25)) w

/-! ### Start states -/

/-- Index of a state element in the buffer or in an init image (DESIGN CHOICE, log 13). -/
def stateIdx (s : Spb) (ch n part : Nat) : Nat :=
  if s.complex then 2 * (ch * s.n + n) + part else ch * s.n + n

/-- q_h of a channel, an E8 byte; 0xFF too is read as an exponent, 128 (DEDUCED, log 116). -/
def qhOf (rows : List (Nat × List Byte)) (s : Spb) (ch : Nat) : Int := (fetched rows s.aQh 8 ch : Int) - 127

/-- The state buffer's element (R146): stream, channel, state index, part. -/
def bufCode (c : Core) (s : Spb) (st ch n part : Nat) : Nat :=
  memNat c.se.buf (512 * s.seBase + 4 * (st * stateIdx s s.c 0 0 + stateIdx s ch n part)) 4

/-- The init slot of stream st of the packet: its Orchard row, none while INIT_SET is 0 (R140, R155). -/
def initSlot (c : Core) (i : Iss) (s : Spb) (st : Nat) : Option Nat :=
  match c.disp.pkts.find? (fun p => p.pkt == i.pkt) with
  | some p => p.inits.getD (st * s.l) none
  | none => none

/-- The rows of the init image of a stream that hold the given elements. -/
def Work.fetchInit (w : Work) (s : Spb) (slot : Option Nat) (es : List Nat) : List (Nat × List Byte) × Work :=
  match slot with
  | none => ([], w)
  | some r0 =>
    (distinct (es.map (fun e => r0 + s.initOfs + e / 128))).foldl (fun acc row =>
      let x := acc.2.readDev row 0
      (acc.1 ++ [(row, x.1)], x.2)) ([], w)

/-- An element of the init image; exact zero where the stream has none. -/
def initCode (rows : List (Nat × List Byte)) (s : Spb) (slot : Option Nat) (e : Nat) : Nat :=
  match slot with | none => 0 | some r0 => fetched rows (r0 + s.initOfs) 32 e

/-- The start value of (stream, channel, n, part) for a chunk position whose base is `base` (R131). -/
def startVal (c : Core) (s : Spb) (slot : Option Nat) (ini : List (Nat × List Byte)) (q : Int) (base st ch n part : Nat) :
    Dec :=
  decodeElem .i32 s.symState
    (if base = 0 then bufCode c s st ch n part else initCode ini s slot (stateIdx s ch n part)) q

/-- The init images of all streams of the packet that any element of the channels could need. -/
def Work.fetchInits (w : Work) (i : Iss) (s : Spb) (chs : List Nat) :
    List (Option Nat × List (Nat × List Byte)) × Work :=
  let es := chs.flatMap (fun ch => (List.range s.n).flatMap (fun n =>
    if s.complex then [stateIdx s ch n 0, stateIdx s ch n 1] else [stateIdx s ch n 0]))
  (List.range (spbStreams s)).foldl (fun acc st =>
    let slot := initSlot acc.2.me i s st
    let r := acc.2.fetchInit s slot es
    (acc.1 ++ [(slot, r.1)], r.2)) ([], w)

/-! ### SOUT -/

/-- The terms of yo for a row and channel (R131, R139). -/
def outTerms (s : Spb) (k : ScanCurves) (h : HeadSteps) (row : Nat) (cr ci : Nat → Dec) (st : Nat → Nat → Dec) : List Dec :=
  let b0 := row / s.l * s.l
  let t := row % s.l + 1
  let base := baseOf h b0 t
  let s0 := base - 1
  let d := ddOf k.ce h b0 t s0
  if s.complex then
    let r := rotOf k.cc k.cs h b0 t s0
    (List.range s.n).flatMap (fun n =>
      [prodExact [cr n, d, r.1, st n 0], negDec (prodExact [cr n, d, r.2, st n 1]),
       prodExact [ci n, d, r.2, st n 0], prodExact [ci n, d, r.1, st n 1]])
  else (List.range s.n).map (fun n => prodExact [cr n, d, st n 0])

/-- An A88 sum of exact terms (R84 to R90). -/
def sumTerms (e : Int) (ds : List Dec) : A88 × NFlags :=
  let ts := ds.map (fun d => termOf d e)
  let r := a88Sum (ts.map (fun t => t.1))
  (r.1, (flagsAll (ts.map (fun t => t.2))).or r.2)

/-- Terms of an SOUT (Table 6-4). -/
def soutTerms (s : Spb) (f : SeF) : Nat := 64 * (f.count1.toNat + 1) * s.n * (if s.complex then 4 else 1)

/-- SOUT. The three planes of the group of channels 16 g to 16 g + 15 lie at rows aOut + 24 g + 8 p in finished-tile layout; the
places of channels that the command does not name are written as zeros (DESIGN CHOICE, log 13). -/
def effSout (i : Iss) (f : SeF) (run : Bool) (w : Work) : Work :=
    let spb := w.readSpb f.spb
    let s := spb.1
    let w := spb.2.seBusy 2 (soutTerms s f) (run && !noRows w.me i)
    if !run || noRows w.me i then w else
    let chs := seRange w.me f s.c
    let hs := distinct (chs.map (fun ch => ch / max 1 s.p))
    let rows := (List.range 64).filter (fun r => rowOn w.me i.hdr.mask i.pkt r)
    let a := w.fetchSteps i s hs
    let fc := spbFmt s.fc
    let ces := rows.flatMap (fun r => (List.range s.n).map (fun n => r * s.n + n))
    let b := a.2.fetchFmt fc s.aC (64 * s.n) ces
    let bi := if s.complex then b.2.fetchFmt fc s.aCi (64 * s.n) ces else ([], b.2)
    let q := bi.2.fetch s.aQh 8 chs
    let ini := q.2.fetchInits i s chs
    let w := ini.2
    let c := w.me
    let k := scanCurves c s
    let steps := hs.map (fun h => (h, headSteps c i s a.1.1 a.1.2.1 a.1.2.2 h))
    let w := w.lamClamp ((steps.map (fun x => x.2.clamped)).foldl (· + ·) 0)
    let poisoned := ces.any (fun e => (fetchedFmt fc b.1 s.aC (64 * s.n) e).2 ||
      (s.complex && (fetchedFmt fc bi.1 s.aCi (64 * s.n) e).2))
    let res := rows.flatMap (fun row => chs.map (fun ch =>
      let st := row / s.l
      let im := ini.1.getD st (none, [])
      let h := match steps.find? (fun x => x.1 == ch / max 1 s.p) with | some x => x.2 | none => ⟨[], [], [], [], 0⟩
      let base := baseOf h (st * s.l) (row % s.l + 1)
      let cr := fun n => (fetchedFmt fc b.1 s.aC (64 * s.n) (row * s.n + n)).1
      let ci := fun n => (fetchedFmt fc bi.1 s.aCi (64 * s.n) (row * s.n + n)).1
      let sv := fun n part => startVal c s im.1 im.2 (qhOf q.1 s ch) base st ch n part
      ((row, ch), sumTerms s.ey (outTerms s k h row cr ci sv))))
    let groups := distinct (chs.map (fun ch => ch / 16))
    let w := groups.foldl (fun w g =>
      (List.range 3).foldl (fun (w : Work) p =>
        let codes := (List.range 64).flatMap (fun row => (List.range 16).map (fun col =>
          match res.find? (fun x => x.1 == (row, 16 * g + col)) with
          | some x => x.2.1.words.getD p 0
          | none => 0))
        w.writeTogether false (s.aOut + 24 * g + 8 * p) (packCodes 32 codes) (seOcc (soutTerms s f) + 24) 8) w) w
    let fl := flagsAll (res.map (fun x => x.2.2))
    w.raise { fl with inv := fl.inv || poisoned }

/-! ### SCARRY -/

/-- The new value of one state element part (R131, R133, R139). -/
def carryVal (s : Spb) (k : ScanCurves) (h : HeadSteps) (st part : Nat) (start : Nat → Dec) (bx : Nat → Dec) : Dec :=
  let b0 := st * s.l
  let base := baseOf h b0 s.l
  let s0 := base - 1
  let sl := max base 1
  let d := ddOf k.ce h b0 s.l s0
  let drive := ((List.range s.l).filter (fun t => decide (sl ≤ t + 1) && h.on.getD (b0 + t) false)).map (fun t =>
    let dd := ddOf k.ce h b0 s.l (t + 1)
    if s.complex then
      let r := rotOf k.cc k.cs h b0 s.l (t + 1)
      prodExact [dd, if part = 0 then r.1 else r.2, bx (b0 + t)]
    else prodExact [dd, bx (b0 + t)])
  let first := if s.complex then
      let r := rotOf k.cc k.cs h b0 s.l s0
      if part = 0 then [prodExact [d, r.1, start 0], negDec (prodExact [d, r.2, start 1])]
      else [prodExact [d, r.2, start 0], prodExact [d, r.1, start 1]]
    else [prodExact [d, start 0]]
  sumExact (first ++ drive)

/-- Terms of an SCARRY (Table 6-4). -/
def scarryTerms (s : Spb) (f : SeF) : Nat :=
  spbStreams s * (f.count1.toNat + 1) * s.n * (if s.complex then 2 * (s.l + 2) else s.l + 1)

/-- SCARRY: it reads every start value in its issue cycle, and its new values are readable from I + O + 25 (R142, R146). PART does
not change it (DEDUCED, log 28). -/
def effScarry (i : Iss) (f : SeF) (run : Bool) (w : Work) : Work :=
    let spb := w.readSpb f.spb
    let s := spb.1
    let w := spb.2.seBusy 3 (scarryTerms s f) (run && !noRows w.me i)
    if !run || noRows w.me i then w else
    let chs := seRange w.me f s.c
    let hs := distinct (chs.map (fun ch => ch / max 1 s.p))
    let rows := (List.range 64).filter (fun r => rowOn w.me i.hdr.mask i.pkt r)
    let a := w.fetchSteps i s hs
    let fb := spbFmt s.fb
    let fx := spbFmt s.fx
    let bes := rows.flatMap (fun r => (List.range s.n).map (fun n => r * s.n + n))
    let xes := rows.flatMap (fun r => chs.map (fun ch => r * s.c + ch))
    let b := a.2.fetchFmt fb s.aB (64 * s.n) bes
    let x := b.2.fetchFmt fx s.aX (64 * s.c) xes
    let q := x.2.fetch s.aQh 8 chs
    let ini := q.2.fetchInits i s chs
    let w := ini.2
    let c := w.me
    let k := scanCurves c s
    let steps := hs.map (fun h => (h, headSteps c i s a.1.1 a.1.2.1 a.1.2.2 h))
    let w := w.lamClamp ((steps.map (fun y => y.2.clamped)).foldl (· + ·) 0)
    let poisoned := bes.any (fun e => (fetchedFmt fb b.1 s.aB (64 * s.n) e).2) ||
      xes.any (fun e => (fetchedFmt fx x.1 s.aX (64 * s.c) e).2)
    let live := (List.range (spbStreams s)).filter (fun st => rows.any (fun r => r / s.l == st))
    let res := live.flatMap (fun st => chs.flatMap (fun ch => (List.range s.n).flatMap (fun n =>
      (if s.complex then [0, 1] else [0]).map (fun part =>
        let im := ini.1.getD st (none, [])
        let h := match steps.find? (fun y => y.1 == ch / max 1 s.p) with | some y => y.2 | none => ⟨[], [], [], [], 0⟩
        let base := baseOf h (st * s.l) s.l
        let qh := qhOf q.1 s ch
        let start := fun p => startVal c s im.1 im.2 qh base st ch n p
        let bx := fun row => prodExact [(fetchedFmt fb b.1 s.aB (64 * s.n) (row * s.n + n)).1,
          (fetchedFmt fx x.1 s.aX (64 * s.c) (row * s.c + ch)).1]
        let r := storeElem .i32 s.symState (carryVal s k h st part start bx) qh
        (512 * s.seBase + 4 * (st * stateIdx s s.c 0 0 + stateIdx s ch n part), r.1, r.2)))))
    let w := { w with d := w.d.landIn (seOcc (scarryTerms s f) + 25) (.sbuf w.core (res.map (fun (r : Nat × Nat × NFlags) => (r.1, leBytes 4 r.2.1)))) }
    let fl := flagsAll (res.map (fun r => r.2.2))
    w.raise { fl with inv := fl.inv || poisoned }

end Sys2Proof.Machine
end

