-- ==== Sys2Proof/WellFormed.lean ====
section
/-!
DEFINITION. WellFormed: the operand codes the spec calls reserved or keeps to a range, which the loader refuses (R71, R113,
R176, R228, R255, Tables 10-3 and 8-1). A command of any other family carries no such code.
-/
namespace Sys2Proof

/-- The header: PRED 5 to 7 are reserved; RESGATE is 0 outside the DE (Table 10-1). -/
def Hdr.wf (h : Hdr) (de : Bool) : Bool := decide (h.pred.toNat ≤ 4) && (de || !h.resgate)

/-- MM: SHAPE 0 to 5, DST 0 to 2 (Table 5-2); S at most 2 and N within the shape (Table 5-4). -/
def MmF.wf (f : MmF) : Bool :=
  let n := f.n1.toNat + 1
  decide (f.shape.toNat ≤ 5) && decide (f.dst.toNat ≤ 2) &&
  (match f.shape.toNat with
   | 1 => decide (f.acol.toNat + n ≤ 64)
   | 2 => decide (f.acol.toNat + n ≤ 32)
   | 4 => decide (f.acol.toNat + n ≤ 64) && decide (f.s1.toNat ≤ 1)
   | 5 => decide (n ≤ 64) && decide (f.acol.toNat + n ≤ 128) && decide (f.s1.toNat ≤ 1)
   | _ => decide (f.acol.toNat + n ≤ 128)) &&
  (f.dst == 0 || (f.fmtO != 0 && f.acol.toNat % 16 == 0))

/-- WFILL stays within the half and its scale store (R109). -/
def WfillF.wf (f : WfillF) : Bool :=
  decide (f.wrow.toNat + f.nrows1.toNat + 1 ≤ 128) && decide (f.srows.toNat ≤ 32) &&
  decide (f.swrow.toNat + f.srows.toNat ≤ 32)

/-- Stride codes 6 and 7 and COND codes 6 and 7 are reserved (R176, Table 8-1). -/
def VArithF.wf (f : VArithF) : Bool :=
  decide (f.sda.toNat ≤ 5) && decide (f.sdb.toNat ≤ 5) && decide (f.sdc.toNat ≤ 5) && decide (f.cond.toNat ≤ 5)

/-- A span of registers stays within V0 to V31. -/
def regSpan (r : BitVec 5) (n : Nat) : Bool := decide (r.toNat + n ≤ 32)

/-- KC 2 to 4 (Table 8-1); the tile group has 16 registers (R185). -/
def VConvF.wf (f : VConvF) : Bool :=
  decide (f.kc2.toNat ≤ 2) && regSpan f.va 16 && regSpan f.vd 16 &&
  regSpan f.vc ((f.kc2.toNat + 1) * ((8 / 2 ^ f.lc.toNat + 3) / 4))

/-- FMTI 0 and 63 name no storage format (R181); a VST has E0 0 and fills whole rows. -/
def storageFmti (x : BitVec 6) : Bool := x != 0 && x != 63

/-- DMOVE and DMOVEX: the slot level is a destination only, and level code 3 is not defined (R228). -/
def levelsWf (sl dl : BitVec 2) : Bool := decide (sl.toNat ≤ 1) && decide (dl.toNat ≤ 2)

/-- The levels of a DMOVE. -/
def DmoveF.wf (f : DmoveF) : Bool := levelsWf f.sl f.dl

/-- Every operand code of the command is one the spec defines. -/
def Instr.wf : Instr → Bool
  | .nop i _ => i.hdr.wf false
  | .fset i _ _ _ => i.hdr.wf false
  | .fclr i _ _ _ => i.hdr.wf false
  | .fwait i _ _ _ _ _ _ => i.hdr.wf false
  | .kset i _ _ _ => i.hdr.wf false
  | .kadd i _ _ _ => i.hdr.wf false
  | .cset i _ _ _ c _ => i.hdr.wf false && decide (c.toNat ≤ 5)
  | .wclaim i _ _ _ _ _ _ => i.hdr.wf false
  | .wrst i _ _ _ => i.hdr.wf false
  | .mm i f => i.hdr.wf false && f.wf
  | .wfill i f => i.hdr.wf false && f.wf
  | .tload i _ => i.hdr.wf false
  | .smix i _ => i.hdr.wf false
  | .sout i _ => i.hdr.wf false
  | .scarry i _ => i.hdr.wf false
  | .vmov i f => i.hdr.wf false && f.wf
  | .vadd i f => i.hdr.wf false && f.wf
  | .vsub i f => i.hdr.wf false && f.wf
  | .vmul i f => i.hdr.wf false && f.wf
  | .vmac i f => i.hdr.wf false && f.wf
  | .vmax i f => i.hdr.wf false && f.wf
  | .vmin i f => i.hdr.wf false && f.wf
  | .vabs i f => i.hdr.wf false && f.wf
  | .vneg i f => i.hdr.wf false && f.wf
  | .vclp i f => i.hdr.wf false && f.wf
  | .vcmp i f => i.hdr.wf false && f.wf
  | .vsel i f => i.hdr.wf false && f.wf
  | .vcrv i f => i.hdr.wf false && f.wf
  | .vconv i f => i.hdr.wf false && f.wf
  | .vrsum i f => i.hdr.wf false && regSpan f.va (f.cnt1.toNat + 1)
  | .vrssq i f => i.hdr.wf false && regSpan f.va (f.cnt1.toNat + 1)
  | .vrmax i f => i.hdr.wf false && regSpan f.va (f.cnt1.toNat + 1)
  | .vld i f => i.hdr.wf false && storageFmti f.fmti && regSpan f.vr (f.cnt1.toNat + 1)
  | .vst i f => i.hdr.wf false && storageFmti f.fmti && regSpan f.vr (f.cnt1.toNat + 1) && f.e0 == 0
  | .vib i f => i.hdr.wf false && storageFmti f.fmti && regSpan f.va (f.cnt1.toNat + 1)
  | .vft i f => i.hdr.wf false && (f.dstw == 1 || regSpan f.vd 16)
  | .vtopk i f => i.hdr.wf false && (f.msrc == 0 || storageFmti f.fmti) && regSpan f.vd 2
  | .vwadd i f => i.hdr.wf false && decide (f.src.toNat ≤ 2) && decide (f.dstw.toNat ≤ 2) && decide (f.nw2.toNat ≤ 6) &&
      (match f.src.toNat with | 0 => regSpan f.va (3 * (f.nw2.toNat + 2)) | 2 => regSpan f.va 3 | _ => true) &&
      (match f.dstw.toNat with | 0 => regSpan f.vd 3 | 1 => true | _ => regSpan f.vd 2)
  | .vctl i _ => i.hdr.wf false
  | .dmove i f => i.hdr.wf true && f.wf
  | .dmovex i f => i.hdr.wf true && levelsWf f.sl f.dl
  | .dremote i _ => i.hdr.wf true
  | .dcret i _ => i.hdr.wf true
  | .dmem i f => i.hdr.wf true && f.fmtS != 63 && f.fmtD != 63
  | .dgather i _ => i.hdr.wf true
  | _ => true

end Sys2Proof
end

