-- ==== Sys2Proof/Machine/Plan.lean ====
section
/-!
DEFINITION. Machine/Plan: what the loader makes of a package (11_tiling_and_loader R255, R263): a core as it leaves it, and the
static plan of a tick: every command with its core time (10_command_queues R231), its occupancy (R115, R146, R175, R234) and the rows
it reads and writes (09_scratchpads R199; Tables 8-2 and 10-4).
-/
namespace Sys2Proof.Machine

/-- Ungated engines hold zeros (R387); the counts shown for the last tick stay. -/
def Core.ungate (c : Core) : Core :=
  { c with me := { meReset with busyShown := c.me.busyShown, gateShown := c.me.gateShown },
           se := { seReset with busyShown := c.se.busyShown, lamShown := c.se.lamShown },
           ve := { veReset with ftUnder := c.ve.ftUnder, busyShown := c.ve.busyShown } }

/-- A region as its register shows it. -/
def RegionDef.region (r : RegionDef) : Region := ⟨r.base, r.rows, r.w, r.scrub, r.cache, r.lock, true⟩

/-- A list of at most n regions as a table of n. -/
def regionTable (n : Nat) (l : List RegionDef) : List Region :=
  (List.range n).map (fun k => (l[k]?).elim regionReset RegionDef.region)

/-- The channel table of a core (R212). -/
def chanTable (l : List ChanDef) : Vector Chan (2 ^ 3) :=
  l.foldl (fun (v : Vector Chan (2 ^ 3)) c =>
    vset v c.ch { credit := c.rrows.toNat, init := c.rrows.toNat, tgt := c.tgt, en := true, flag := c.flag, rbase := c.rbase,
                  rrows := c.rrows }) (Vector.replicate _ chanReset)

/-- Eight entries of a list as a table. -/
def table8 {α : Type} (d : α) (l : List α) : Vector α (2 ^ 3) :=
  (List.range 8).foldl (fun (v : Vector α (2 ^ 3)) k => vset v (BitVec.ofNat 3 k) (l.getD k d)) (Vector.replicate _ d)

/-- The bytes of a curve-table source. -/
def curveBytes : CurveSrc → List Byte
  | .vendor i => (vendorCurve i).getD []
  | .row b => b

/-- A curve table filled (R191). -/
def Ve.fillCurve (v : Ve) (x : BitVec 3 × CurveSrc) : Ve :=
  { v with ctActive := memWrite v.ctActive (512 * x.1.toNat) (padTo rowBytes (curveBytes x.2)),
           ctValid := setBit v.ctValid x.1.toNat true }

/-- The memory registers of a core. -/
def Cmem.fill (m : Cmem) (x : CorePlan) : Cmem :=
  { m with base := x.cmBase.toNat, rows := x.cmRows.toNat, orBase := x.orBase.toNat, orRows := x.orRows.toNat,
           cacheSize := x.cacheSize, regions := table8 regionReset (regionTable 8 x.regions), chans := chanTable x.chans,
           locked := [] }

/-- Those of an active core that the package does not use: no rows, no region and no channel (R209). -/
def Cmem.unused (m : Cmem) : Cmem :=
  { m with base := 0, rows := 0, orBase := 0, orRows := 0, cacheSize := 0, regions := table8 regionReset [], chans := chanTable [],
           locked := [] }

/-- A mask entry of 32 bytes (Table 11-3). -/
def maskOfBytes (b : List Byte) : MaskEntry :=
  let n := fun (a k : Nat) => leNat ((b.drop a).take k)
  { rowBits := BitVec.ofNat 64 (n 0 8), colBits := BitVec.ofNat 128 (n 8 16), rdim := BitVec.ofNat 4 (n 24 1),
    srow := (n 24 1).testBit 4, lmap := BitVec.ofNat 2 (n 24 1 / 32), rofs := BitVec.ofNat 6 (n 25 1), cdim := BitVec.ofNat 4 (n 26 1),
    cofs := BitVec.ofNat 12 (n 28 2) }

/-- An entry the loader takes (Table 11-3, check 0x21): 32 bytes, its reserved bits zero, ROFS 0 to 63, dimension codes 0 to 8, and a
lane map of R257. -/
def maskLegal (b : List Byte) : Bool :=
  let n := fun (a k : Nat) => leNat ((b.drop a).take k)
  b.length == 32 && decide (n 24 1 < 128) && decide (n 24 1 % 16 ≤ 8) && decide (n 24 1 / 32 ≤ 2) && decide (n 25 1 < 64) &&
    decide (n 26 1 ≤ 8) && n 27 1 == 0 && decide (n 28 2 < 4096) && n 30 2 == 0

/-! ### The commands of a tick with their core times (R231) -/

/-- A command of the static plan: its core, queue and index in its block, its core time, and its packet. -/
structure PlanCmd where
  core : BitVec 3
  q : Queue
  idx : Nat
  at_ : Nat
  i : Instr
  pkt : Nat
deriving DecidableEq, Repr

/-- The commands of a block from index k on, each its DELTA after the one before it, which fell due at t. -/
def timedCmds (c : BitVec 3) (q : Queue) (pkts : List Nat) (t k : Nat) : List CmdWord → List PlanCmd
  | [] => []
  | w :: ws =>
    let rest := timedCmds c q pkts (t + deltaOf w) (k + 1) ws
    match decodeCmd c (pkts.getD k 0) q w with
    | some i => ⟨c, q, k, t + deltaOf w, i, pkts.getD k 0⟩ :: rest
    | none => rest

/-- The commands of one queue of a core. -/
def planQueue (c : BitVec 3) (x : CorePlan) (q : Queue) : List PlanCmd :=
  timedCmds c q (x.pkts.getD (queueIndex q).toNat []) 0 0 (x.blocks.getD (queueIndex q).toNat [])

/-! ### Finished tiles of the plan (R117, R182, R432) -/

/-- The tiles an MM completes, in order: format, rows, and cycles from its issue until each is visible. -/
def mmTiles (c : Core) (f : MmF) : List (BitVec 6 × Nat × Nat) :=
  (tileGroups f).flatMap (fun g => (zeroGroup c f).map (fun t => (t.fmti, rowsFor (tileRows t).length, tileAt f g)))

/-- A tile that the plan delivers to the finished-tile queue. -/
structure PlanTile where
  by_ : PlanCmd
  fmti : BitVec 6
  rows : Nat
  seen : Nat
deriving DecidableEq, Repr

/-- Those of the ME block of a plan, in the order of their commands. -/
def planTiles (x : CorePlan) (l : List PlanCmd) : List PlanTile :=
  l.flatMap (fun m => match m.i with
    | .mm _ f => if f.dst = 1 then (mmTiles { coreReset with fmts := x.fmts } f).map (fun t => ⟨m, t.1, t.2.1, m.at_ + t.2.2⟩) else []
    | _ => [])

/-- The VFTs of a block, each with the tile it takes: the k-th VFT takes the k-th tile. -/
def planVfts (tiles : List PlanTile) (l : List PlanCmd) : List (PlanCmd × PlanTile) :=
  (l.filter (fun m => match m.i with | .vft _ _ => true | _ => false)).zip tiles

/-! ### A core as the loader leaves it (R240, R263 step 2) -/

/-- A core as the loader leaves it: tables, initial values and engines (R240, R263 step 2). -/
def Core.fill (c : Core) (x : CorePlan) : Core :=
  let c := c.ungate
  let k := table8 0 x.kInit
  let ft := planVfts (planTiles x (planQueue 0 x .me)) (planQueue 0 x .ve)
  { c with cm := c.cm.fill x, fmts := x.fmts, masks := x.masks.map (fun e => (e.1, maskOfBytes e.2)), adMasks := x.adMasks, ftPlan := ft.map (fun y => (y.1.idx, y.2.rows)),
           rstRow := (x.spbs.head?).map (fun e => e.2.aRst),
           ve := x.curves.foldl Ve.fillCurve c.ve, flg := x.flgInit, flgInit := x.flgInit, k := k, kInit := k,
           cmp := x.cmpInit, cmpInit := x.cmpInit }

/-- The static plan of one core: the core as filled, its commands, and those of its blocks of ME and VE. -/
structure PlanCore where
  k : BitVec 3
  x : CorePlan
  c : Core
  cmds : List PlanCmd
deriving DecidableEq, Repr

def planCore (k : BitVec 3) (x : CorePlan) : PlanCore :=
  ⟨k, x, coreReset.fill x, allQueues.flatMap (planQueue k x)⟩

/-- The cores of a package. -/
def planCores (p : Package) : List PlanCore := p.plans.zipIdx.map (fun x => planCore (BitVec.ofNat 3 x.2) x.1)

/-- Every command of the plan. -/
def planAll (p : Package) : List PlanCmd := (planCores p).flatMap (fun n => n.cmds)

/-- Those of one queue. -/
def PlanCore.queue (n : PlanCore) (q : Queue) : List PlanCmd := n.cmds.filter (fun m => m.q == q)

/-- The scan parameter block that a command names; one of zeros where the package has none there. -/
def PlanCore.spb (n : PlanCore) (a : BitVec 14) : Spb :=
  match n.x.spbs.find? (fun e => e.1 == a) with | some e => e.2 | none => spbOfRow []

/-- The datapath as the loader fills it for a package, without rows: its regions and bounds. -/
def planDp (p : Package) : Dp :=
  { dpReset with org := regionTable 32 p.orRegions,
                 cores := (planCores p).foldl (fun (v : Vector Core (2 ^ 3)) n => vset v n.k n.c) dpReset.cores }

/-! ### Occupancy and latency -/

/-- Occupancy of a command in cycles (R115, R146, R175, Table 8-2, Table 10-4). -/
def PlanCore.occ (n : PlanCore) (m : PlanCmd) : Nat :=
  match m.i with
  | .mm _ f => mmOccupancy f
  | .wfill _ f => f.nrows1.toNat + 1 + f.srows.toNat
  | .smix _ f => seOcc (smixTerms (n.spb f.spb) f)
  | .sout _ f => seOcc (soutTerms (n.spb f.spb) f)
  | .scarry _ f => seOcc (scarryTerms (n.spb f.spb) f)
  | .vconv _ _ => 16
  | .vrsum _ f => f.cnt1.toNat + 1
  | .vrssq _ f => f.cnt1.toNat + 1
  | .vrmax _ f => f.cnt1.toNat + 1
  | .vld _ f => vldOcc n.c f
  | .vst _ f => vstOcc n.c f
  | .vib _ f => f.cnt1.toNat + 1
  | .vft _ f => if f.dstw = 1 then plannedRows n.c m.idx else 16
  | .vtopk _ f => vtopkOcc f
  | .vwadd _ f => vwaddOcc f
  | .dmove _ f => moveOcc n.c f.fmtS f.fmtD (f.nrows1.toNat + 1) (f.bcnt1.toNat + 1)
  | .dmovex _ f => moveOcc n.c f.fmtS f.fmtD (f.nrows1.toNat + 1) 1
  | .dremote _ f => f.nrows1.toNat + 1
  | .dgather _ f => f.nrows1.toNat + 1
  | .dmem _ f => moveOcc n.c f.fmtS f.fmtD (f.nrows1.toNat + 1) 1
  | _ => 1

/-- The latency Λ of a VE command whose results go to registers (Table 8-2). -/
def veLat : Instr → Nat
  | .vmac _ _ => 5
  | .vcrv _ _ => 6
  | .vconv _ _ => 6
  | .vrsum _ _ => 6
  | .vrssq _ _ => 6
  | .vrmax _ _ => 6
  | .vld _ f => if adrOrch f.addr then 15 else 7
  | .vft _ _ => 3
  | .vtopk _ _ => 8
  | .vwadd _ _ => 6
  | _ => 4

/-! ### Loop counters and comparators of the plan (R230, R247) -/

/-- A list put in the order of a key; of equal keys the earlier first. -/
def insertOn {α : Type} (key : α → Nat) (x : α) : List α → List α
  | [] => [x]
  | y :: ys => if key x < key y then x :: y :: ys else y :: insertOn key x ys

def sortOn {α : Type} (key : α → Nat) (l : List α) : List α := l.foldl (fun a x => insertOn key x a) []

/-- The core time from which the counter or comparator that a command writes is seen, with the order within a cycle: queues in order,
claim results last (R247). -/
def seenKey (m : PlanCmd) : Nat :=
  match m.i with
  | .wclaim _ _ _ _ _ _ _ => 8 * (m.at_ + 5) + 4
  | _ => 8 * (m.at_ + 1) + (queueIndex m.q).toNat

/-- The commands that write counters and comparators, in the order in which they take effect, those seen by core time t. -/
def PlanCore.writers (n : PlanCore) (t : Nat) : List PlanCmd :=
  sortOn seenKey (n.cmds.filter (fun m => decide (seenKey m < 8 * (t + 1)) && (match m.i with
    | .kset _ _ _ _ => true | .kadd _ _ _ _ => true | .cset _ _ _ _ _ _ => true | .wclaim _ _ _ _ _ _ _ => true | _ => false)))

/-- Counters and comparators as the plan has them; none: a claim's result, which no plan knows. -/
structure PlanRegs where
  k : List (Option W16)
  cmp : List (Option Bool)
deriving DecidableEq, Repr

/-- One write; a predicated command counts as if it runs (Table 11-4). -/
def PlanRegs.write (r : PlanRegs) (m : PlanCmd) : PlanRegs :=
  match m.i with
  | .kset _ _ k v => { r with k := r.k.set k.toNat (some v) }
  | .kadd _ _ k v => { r with k := r.k.set k.toNat ((r.k.getD k.toNat none).map (fun a => a + v)) }
  | .cset _ _ c k cond v =>
    { r with cmp := r.cmp.set c.toNat ((r.k.getD k.toNat none).map (fun a =>
        condHolds cond (decide (a.toInt < v.toInt)) (a.toInt == v.toInt))) }
  | .wclaim _ _ _ _ k c cen => { k := r.k.set k.toNat none, cmp := if cen then r.cmp.set c.toNat none else r.cmp }
  | _ => r

/-- What the loader writes at load. -/
def PlanCore.regsInit (n : PlanCore) : PlanRegs :=
  { k := n.c.kInit.toList.map some, cmp := (List.range 4).map (fun i => some (n.c.cmpInit.getLsbD i)) }

/-- What a command of core time t finds. A CSET compares what the counter holds in its own cycle: writes of one cycle are seen from
the next, so a CSET of that cycle sees none of them (R247). -/
def PlanCore.regsAt (n : PlanCore) (t : Nat) : PlanRegs :=
  (n.writers t).foldl (fun (a : PlanRegs × PlanRegs × Nat) m =>
    let t := seenKey m / 8
    let before := if t = a.2.2 then a.2.1 else a.1
    let now := match m.i with
      | .cset _ _ c _ _ _ => { a.1 with cmp := a.1.cmp.set c.toNat ((before.write m).cmp.getD c.toNat none) }
      | _ => a.1.write m
    (now, before, t)) (n.regsInit, n.regsInit, 0) |>.1

/-- The rows that an XK field adds at a command (R230); none where the plan does not know the counter. -/
def PlanCore.xk (n : PlanCore) (m : PlanCmd) (x : BitVec 4) : Option Nat :=
  if x.getLsbD 3 then (((n.regsAt m.at_).k.getD (x.extractLsb' 0 3).toNat none).map (fun v => v.toNat)) else some 0

/-! ### The rows a command reads and writes -/

/-- A row access of a command: its level, its offset (none: below 0), whether it writes, and its cycle from the issue: of a read
the request, of a write the landing. -/
structure PlanUse where
  orch : Bool
  off : Option Nat
  wr : Bool
  cyc : Nat
deriving DecidableEq, Repr

/-- n consecutive rows, one a cycle from cycle t on. -/
def useRows (orch wr : Bool) (o t n : Nat) : List PlanUse := (List.range n).map (fun k => ⟨orch, some (o + k), wr, t + k⟩)

/-- Rows read each in its cycle. -/
def useList (orch : Bool) (l : List (Nat × Nat)) : List PlanUse := l.map (fun x => ⟨orch, some x.1, false, x.2⟩)

/-- n consecutive rows, all in cycle t. -/
def useBlock (wr : Bool) (o t n : Nat) : List PlanUse := (List.range n).map (fun k => ⟨false, some (o + k), wr, t⟩)

/-- The rows of tiles from row o on, each tile in its cycle (DST 2). -/
def useTiles (o : Nat) : List (BitVec 6 × Nat × Nat) → List PlanUse
  | [] => []
  | t :: ts => useBlock true o t.2.2 t.2.1 ++ useTiles (o + t.2.1) ts

/-- Row offset k of an 18-bit reference. -/
def useAt (adr : BitVec 18) (k : Int) (wr : Bool) (t : Nat) : PlanUse := ⟨adrOrch adr, moveOff (adrOff adr) k, wr, t⟩

/-- A move with its loop-counter offsets as the plan has them; none where it does not know them. -/
def PlanCore.moveJob (n : PlanCore) (m : PlanCmd) : Option MoveJob :=
  match m.i with
  | .dmove _ f => some (dmoveJob f)
  | .dmovex _ f => (n.xk m f.xk).map (fun v => dmovexJob f (v * f.xsc.toNat : Nat))
  | _ => none

/-- Rows of batch b of a move in memory: read, and written. -/
def moveUses (c : Core) (j : MoveJob) (b : Nat) : List PlanUse :=
  let t := b * batchOcc c j.fs j.fd j.nrows
  let r := spanRowsOf c j.fs j.fd j.nrows
  let s := fmtGet c j.fs
  let d := fmtGet c j.fd
  let land := fun (i : Nat) => t + srcLat j.sl j.sadr + 1 +
    (if needsConv c j.fs j.fd then max i (lastSource s d j.nrows (scaleRowsOf s (j.nrows * s.op.fmt.perRow)) i) else i)
  (if j.sl = 0 then (List.range r.1).map (fun k => useAt j.sadr (j.soff + b * j.bss + (k : Nat)) false (t + k)) else []) ++
  (if j.dl = 0 then (List.range r.2).map (fun k => useAt j.dadr (j.doff + b * j.bds + (k : Nat)) true (land k)) else [])

/-- Rows of n bytes from a core-memory offset, read in the issue cycle. -/
def useBytes (o n : Nat) : List PlanUse := useBlock false o 0 (rowsFor n)

/-- The rows of the arrays that SE commands of a block share: log-decays, angles and the reset word of a packet (R140). -/
def spbStepUses (s : Spb) (pkt : Nat) : List PlanUse :=
  useBytes s.aLam (256 * spbHeads s) ++ (if s.complex then useBytes s.aTheta (256 * spbHeads s) else []) ++
    useBlock false (s.aRst + pkt / 64) 0 1

/-- The rows of a formatted array of k elements and of its scales. -/
def spbArrayUses (e : FmtEntry) (o k : Nat) : List PlanUse :=
  let f := spbFmt e
  let rows := (k + f.op.fmt.perRow - 1) / f.op.fmt.perRow
  useBlock false o 0 (rows + scaleRowsOf f k)

/-- The rows a command reads and writes in its core's memory and the Orchard, as the plan fixes them. Those whose row a loop counter
that no plan knows, an index row or a dispatch record gives are computed references, which the device checks as it makes them
(R210). -/
def PlanCore.uses (n : PlanCore) (m : PlanCmd) : List PlanUse :=
  match m.i with
  | .wfill _ f => match n.xk m f.xk with
    | some v => useRows false false (f.addr.toNat + v) 0 (f.nrows1.toNat + 1 + f.srows.toNat)
    | none => []
  | .tload _ f => match n.xk m f.xk with | some v => useRows false false (f.addr.toNat + v) 0 1 | none => []
  | .mm _ f => if f.dst = 2 then useTiles f.addr.toNat (mmTiles n.c f) else []
  | .smix _ f =>
    let s := n.spb f.spb
    let land := seOcc (smixTerms s f) + 24
    useBlock false f.spb.toNat 0 1 ++ spbStepUses s m.pkt ++ useBlock false s.aG 0 32 ++
      (if s.complex then useBlock false s.aGi 0 32 ++ useBlock true s.aMi land (17 * spbHeads s) else []) ++
      useBlock true s.aM land (17 * spbHeads s)
  | .sout _ f =>
    let s := n.spb f.spb
    useBlock false f.spb.toNat 0 1 ++ spbStepUses s m.pkt ++ spbArrayUses s.fc s.aC (64 * s.n) ++
      (if s.complex then spbArrayUses s.fc s.aCi (64 * s.n) else []) ++ useBytes s.aQh s.c ++
      useBlock true s.aOut (seOcc (soutTerms s f) + 24) (24 * ((s.c + 15) / 16))
  | .scarry _ f =>
    let s := n.spb f.spb
    useBlock false f.spb.toNat 0 1 ++ spbStepUses s m.pkt ++ spbArrayUses s.fb s.aB (64 * s.n) ++
      spbArrayUses s.fx s.aX (64 * s.c) ++ useBytes s.aQh s.c
  | .vconv _ _ => match n.c.rstRow with | some a => useBlock false (a + m.pkt / 64) 0 1 | none => []
  | .vld _ f =>
    let r := vldRows n.c f
    useList (adrOrch f.addr) (twoPorts 0 0 r.1) ++ useList (adrOrch f.saddr) (twoPorts 0 r.1.length r.2)
  | .vst _ f =>
    let r := vstRows n.c f
    let first := vstOcc n.c f - (r.1 + r.2) + 6
    useRows (adrOrch f.addr) true (adrOff f.addr) first r.1 ++ useRows (adrOrch f.saddr) true (adrOff f.saddr) (first + r.1) r.2
  | .vft _ f => if f.dstw = 1 then useRows (adrOrch f.addr) true (adrOff f.addr) 6 (plannedRows n.c m.idx) else []
  | .vtopk _ f => useList (adrOrch f.addr) (twoPorts 0 0 (vtopkRows n.c f))
  | .vwadd _ f => useList (adrOrch f.addr) (twoPorts (vwaddRegs f) 0 (vwaddRows f))
  | .vctl _ f => useRows (adrOrch f.addr) false (adrOff f.addr) 0 1
  | .dremote _ f => useRows (adrOrch f.sadr) false (adrOff f.sadr) 0 (f.nrows1.toNat + 1)
  | .dgather _ f => useRows (adrOrch f.dadr) true (adrOff f.dadr) (srcLat 0 f.sadr + 1) (f.nrows1.toNat + 1)
  | .dmem _ f =>
    let r := spanRowsOf n.c f.fmtS f.fmtD (f.nrows1.toNat + 1)
    if f.dir = 1 then useRows (adrOrch f.ladr) false (adrOff f.ladr) 0 r.1 else useRows (adrOrch f.ladr) true (adrOff f.ladr) 0 r.2
  | _ => match n.moveJob m with
    | some j => (List.range j.bcnt).flatMap (moveUses n.c j)
    | none => []

/-- The index rows of a gather (R206). -/
def gatherIndexRows (f : DgatherF) : List Nat :=
  distinct ((List.range (f.nrows1.toNat + 1)).map (fun k => adrOff f.iadr + (f.iofs.toNat + k) / 128))

end Sys2Proof.Machine
end

