-- ==== Sys2Proof/Machine/PlanChecks.lean ====
section
/-!
DEFINITION. Machine/PlanChecks: the loader's checks 0x11 to 0x33 over the static plan of a package (11_tiling_and_loader Table 11-4),
each rule's refusals computed from the package's blocks and tables. Every predicated command counts as running, and every row as
enabled. A check that concerns two commands names the later of them (DESIGN CHOICE, log 128).
-/
namespace Sys2Proof.Machine

/-- A failed check: its status, its reason and the command it concerns. -/
structure LoadFail where
  status : BitVec 7
  reason : Nat
  at_ : Option (BitVec 3 × Queue × Nat)
deriving DecidableEq, Repr

/-- A BOUND_VIOLATION of a reason when a condition does not hold. -/
def need (ok : Bool) (reason : Nat) : Option LoadFail := if ok then none else some ⟨8, reason, none⟩

/-- A failure at a command. -/
def failAt (status : BitVec 7) (reason : Nat) (m : PlanCmd) : LoadFail := ⟨status, reason, some (m.core, m.q, m.idx)⟩

/-- The first command of a core that breaks a check. -/
def coreFail (p : Package) (reason : Nat) (bad : PlanCore → Option PlanCmd) : Option LoadFail :=
  ((planCores p).findSome? bad).map (failAt 8 reason)

/-- The first command that does not pass a test. -/
def needAll (p : Package) (reason : Nat) (ok : PlanCore → PlanCmd → Bool) : Option LoadFail :=
  coreFail p reason (fun n => n.cmds.find? (fun m => !ok n m))

/-- The later of two commands. -/
def later (a b : PlanCmd) : PlanCmd := if a.at_ ≤ b.at_ then b else a

/-- The first pair of a list, in order, that clashes. -/
def clash {α : Type} (bad : α → α → Bool) : List α → Option (α × α)
  | [] => none
  | x :: xs => match xs.find? (bad x) with
    | some y => some (x, y)
    | none => clash bad xs

/-! ### 0x11: row references and buffers (R107, R108, R197, R209, R210, R212, R430) -/

/-- The rows a move takes from and puts into buffers lie within them (R430). -/
def moveBufs (c : Core) (j : MoveJob) : Bool :=
  (List.range j.bcnt).all (fun b =>
    let r := spanRowsOf c j.fs j.fd j.nrows
    let inBuf := fun (first : Int) (n lim : Nat) => decide (0 ≤ first) && decide (first + n ≤ lim)
    let slotRows := if needsConv c j.fs j.fd then destRows (fmtGet c j.fs) (fmtGet c j.fd) j.nrows else j.nrows
    (j.sl != 1 || inBuf ((j.sadr.extractLsb' 0 8).toNat + j.soff + b * j.bss) r.1 256) &&
      (j.dl != 1 || inBuf ((j.dadr.extractLsb' 0 8).toNat + j.doff + b * j.bds) r.2 256) &&
      (j.dl != 2 || inBuf ((j.dadr.extractLsb' 0 4).toNat + j.doff + b * j.bds) slotRows 16))

/-- The buffers a command names hold what it puts into them or takes from them. -/
def bufsOk (n : PlanCore) (m : PlanCmd) : Bool :=
  let state := fun (a : BitVec 14) =>
    let s := n.spb a
    decide (512 * s.seBase + 4 * (spbStreams s * stateIdx s s.c 0 0) ≤ 131072)
  match m.i with
  | .mm _ f =>
    let cb := if f.shape = 5 then 256 else colBytes f (meFactor (fmtGet n.c f.fmtA).op (fmtGet n.c f.fmtW).op) (fmtGet n.c f.fmtW).op
    decide (64 * f.wofs.toNat + mmSegs f * mmColsN f * (if f.shape = 4 then 2 else 1) * cb ≤ 65536)
  | .sout _ f => state f.spb
  | .scarry _ f => state f.spb
  | .vib _ f => decide (512 * f.srow.toNat + (f.cnt1.toNat + 1) * 64 * (fmtGet n.c f.fmti).op.fmt.bits / 8 ≤ 8192)
  | _ => (n.moveJob m).all (moveBufs n.c)

/-- The rows that a remote write lands in exist in its target (R209, R212, R213). -/
def landingOk (d : Dp) (n : PlanCore) (m : PlanCmd) : Bool :=
  match m.i with
  | .dremote _ f =>
    let x := vget n.c.cm.chans f.cch
    !x.en || (decide (f.rofs.toNat + f.nrows1.toNat + 1 ≤ x.rrows.toNat) &&
      (List.range (f.nrows1.toNat + 1)).all (fun k => (cmRow d x.tgt (x.rbase.toNat + f.rofs.toNat + k)).isSome))
  | _ => true

/-- Every reference that the plan fixes is within its bound and in a valid region, every buffer within its size. -/
def refsOk (d : Dp) (n : PlanCore) (m : PlanCmd) : Bool :=
  (n.uses m).all (fun u => match u.off with | some o => (refRow d n.k u.orch o).isSome | none => false) && bufsOk n m &&
    landingOk d n m

/-! ### 0x12: gathers and cached regions (R205, R206) -/

/-- A region that holds an Orchard offset. -/
def regionAt (p : Package) (o : Nat) : Option RegionDef := p.orRegions.find? (fun r => decide (r.base ≤ o) && decide (o < r.base + r.rows))

/-- A gather reads its indices from a locked region, and nothing writes a region with CACHE. -/
def cacheUseOk (p : Package) (n : PlanCore) (m : PlanCmd) : Bool :=
  (match m.i with
   | .dgather _ f => adrOrch f.iadr && (gatherIndexRows f).all (fun o => (regionAt p o).any (fun r => r.lock))
   | _ => true) &&
    (n.uses m).all (fun u => !(u.orch && u.wr) || (match u.off with | some o => !(regionAt p o).any (fun r => r.cache) | none => true))

/-! ### 0x13: credits (R213, R214) -/

/-- The channel that a command names is defined (R213). -/
def chanNamed (cs : List PlanCore) (n : PlanCore) (m : PlanCmd) : Bool :=
  match m.i with
  | .dremote _ f => (vget n.c.cm.chans f.cch).en
  | .dcret _ f => cs.any (fun y => y.k == f.tcore && (vget y.c.cm.chans f.cch).en)
  | _ => true

/-- Rows that the commands of a tick send on a channel of core k, and rows that they return to it. -/
def creditRows (l : List PlanCmd) (k ch : BitVec 3) : Nat × Nat :=
  l.foldl (fun (a : Nat × Nat) m => match m.i with
    | .dremote _ f => if m.core = k ∧ f.cch = ch then (a.1 + f.nrows1.toNat + 1, a.2) else a
    | .dcret _ f => if f.tcore = k ∧ f.cch = ch then (a.1, a.2 + f.nrows1.toNat + 1) else a
    | _ => a) (0, 0)

/-- Every channel gets back in a tick the rows it took (R214). -/
def balanced (p : Package) : Bool :=
  p.plans.zipIdx.all (fun x => x.1.chans.all (fun c =>
    (creditRows (planAll p) (BitVec.ofNat 3 x.2) c.ch).1 == (creditRows (planAll p) (BitVec.ofNat 3 x.2) c.ch).2))

/-! ### 0x21: operand fields (R71, R105, R122, R125, R127, R140, R181, R182, R184, R187, R255) -/

/-- A format field the loader takes: no reserved code, its reserved bit 0, and no combination that R71 refuses. -/
def fieldOk (v : BitVec 12) (store me : Bool) : Bool :=
  !v.getLsbD 11 && (match OpFmt.ofField v with | some o => o.legal store me | none => false)

/-- The entry of an index; indices 0 and 63 name none. -/
def entryOk (n : PlanCore) (k : BitVec 6) (store me : Bool) : Bool := k == 0 || k == 63 || fieldOk (fmtEntry n.c k).fmt store me

/-- Entries of a half's scale store that the columns of an MM reach (R108). -/
def weightEntries (f : MmF) (d : Nat) (w : OpFmt) : Nat :=
  let cb := colBytes f d w
  let off := 64 * f.wofs.toNat + colPos f (mmSegs f - 1) (mmColsN f - 1) (if f.shape = 4 then 1 else 0) * cb
  let col := 64 * f.wofs.toNat / max 1 cb + colPos f (mmSegs f - 1) (mmColsN f - 1) (if f.shape = 4 then 1 else 0)
  if w.blk = 0 then 0 else
  (wEntry w (mmColsN f) col (colElems f d) (off + cb - 1) (colElems f d - 1) + 1) * (if w.expand == .zero then 2 else 1)

/-- The operands of an MM (R105, R122, R432). The entries of a stationary tile never overflow a slot's scale store: 64 batch rows have
at most 32 blocks each. -/
def mmOk (n : PlanCore) (f : MmF) : Bool :=
  let a := fmtGet n.c f.fmtA
  let w := fmtGet n.c f.fmtW
  let wide := f.shape == 5
  let out := fun (k : BitVec 6) => entryOk n k true false &&
    (k == 0 || k == 63 || (fmtGet n.c k).op.blk == 0 || (fmtGet n.c k).op.dirN)
  storageFmti f.fmtA && storageFmti f.fmtW && entryOk n f.fmtA false true && entryOk n f.fmtW false true &&
    a.op.fmt != .f32 && w.op.fmt != .f32 && ((a.op.fmt == .i32) == wide) && ((w.op.fmt == .i32) == wide) &&
    a.op.expand == .none && !(a.op.blk != 0 && a.op.dirN) && !(w.op.blk == 6 && w.op.dirN) &&
    (!wide || (a.op.blk == 0 && w.op.blk == 0 && decide (a.fq + w.fq ≤ f.accExp.toInt) && decide (f.accExp.toInt ≤ a.fq + w.fq + 24))) &&
    decide (weightEntries f (meFactor a.op w.op) w.op ≤ 16384) &&
    (f.dst == 0 || (out f.fmtO && out f.fmtL && f.fmtL != 63))

/-- The scan parameters of R125 and R127, and the formats of x, B and C. -/
def spbOk (p : Package) (s : Spb) : Bool :=
  let fmt := fun (e : FmtEntry) => fieldOk e.fmt false false &&
    ((spbFmt e).op.fmt == .i8 || (spbFmt e).op.fmt == .i16 || (spbFmt e).op.fmt == .m8v)
  decide (1 ≤ s.c) && decide (s.c ≤ 4096) && [1, 2, 4, 8, 16].contains s.n && [1, 2, 4, 8, 16, 32, 64].contains s.p && s.c % s.p == 0 &&
    [1, 8, 16, 32, 64].contains s.l && p.steps % s.l == 0 && fmt s.fx && fmt s.fb && fmt s.fc

/-- The row that the package's fills put at a reference. -/
def filledRow (p : Package) (n : PlanCore) (adr : BitVec 18) : Option (List Byte) :=
  let row := if adrOrch adr then n.c.cm.orBase + adrOff adr else coreRow n.k (n.c.cm.base + adrOff adr)
  ((p.plans.flatMap (fun x => x.fills)).find? (fun y => y.1 == row)).map (fun y => y.2)

/-- The SPB of an SE command is one of the package (R140). -/
def spbNamed (p : Package) (n : PlanCore) (a : BitVec 14) : Bool := n.x.spbs.any (fun e => e.1 == a) && spbOk p (n.spb a)

/-- A VFT copies codes only from an I32 tile; the words of an A88 value are I32 codes (R92, R182). -/
def vftRawOk (n : PlanCore) (m : PlanCmd) (f : VftF) : Bool :=
  f.raw == 0 || (planVfts (planTiles n.x (n.queue .me)) (n.queue .ve)).all (fun y =>
    y.1.idx != m.idx || y.2.fmti == 63 || (fmtGet n.c y.2.fmti).op.fmt == .i32)

/-- CNT registers fill whole rows of a format (R181, R184). -/
def wholeRows (n : PlanCore) (k : BitVec 6) (cnt : Nat) : Bool := cnt * 64 * (fmtGet n.c k).op.fmt.bits % 4096 == 0

/-- Check 0x21 of a command. -/
def operandsOk (p : Package) (n : PlanCore) (m : PlanCmd) : Bool :=
  m.i.wf && (match m.i with
  | .mm _ f => mmOk n f
  | .smix _ f => spbNamed p n f.spb
  | .sout _ f => spbNamed p n f.spb
  | .scarry _ f => spbNamed p n f.spb
  | .vld _ f => entryOk n f.fmti false false
  | .vst _ f => entryOk n f.fmti true false && wholeRows n f.fmti (f.cnt1.toNat + 1)
  | .vib _ f => entryOk n f.fmti true false && wholeRows n f.fmti (f.cnt1.toNat + 1)
  | .vtopk _ f => f.msrc == 0 || entryOk n f.fmti false false
  | .vft _ f => vftRawOk n m f
  | .vctl _ f => (filledRow p n f.addr).all (fun r => curveLegal (padTo rowBytes r))
  | .dmove _ f => entryOk n f.fmtS false false && entryOk n f.fmtD true false
  | .dmovex _ f => entryOk n f.fmtS false false && entryOk n f.fmtD true false
  | .dmem _ f => entryOk n f.fmtS false false && entryOk n f.fmtD true false
  | _ => true)

/-- Curve tables and mask entries of check 0x21 (R187, R255). -/
def tablesOk (p : Package) : Bool :=
  p.plans.all (fun x =>
    x.curves.all (fun c => match c.2 with
      | .vendor i => (vendorCurve i).isSome
      | .row b => curveLegal (padTo rowBytes b)) &&
    x.masks.all (fun m => maskLegal m.2))

/-! ### 0x24: splits and strides (R251 to R253, R258) -/

/-- The batch-loop destination stride (R258). -/
def strideOk (m : PlanCmd) : Bool := match m.i with | .dmove _ f => f.bcnt1 == 0 || f.bds != 0 | _ => true

/-- The command at an index of a queue. -/
def PlanCore.cmdAt (n : PlanCore) (q : Queue) (k : Nat) : Option Instr := (n.cmds.find? (fun m => m.q == q && m.idx == k)).map (fun m => m.i)

/-- A divided layer is divided as R251 or R253 says: the partial sums of a head split leave each core in full A88 width with one
ACC_EXP, and VWADDs of two operands in the second core join them; a chunk split divides two or more chunks of a layer at a chunk
boundary, and the first core's remote write for it sets the flag for which the second core waits. -/
def splitOk (p : Package) (cs : List PlanCore) (x : SplitDef) : Bool :=
  let core := fun (k : BitVec 3) => cs.find? (fun n => n.k == k)
  match x with
  | .head a b parts1 parts2 adds =>
    (match core a, core b with
     | some m, some n =>
       let mms := parts1.map (m.cmdAt .me) ++ parts2.map (n.cmdAt .me)
       let exps := mms.filterMap (fun i => match i with | some (.mm _ f) => some f.accExp | _ => none)
       a.toNat + 1 == b.toNat && !parts1.isEmpty && !parts2.isEmpty && !adds.isEmpty &&
         mms.all (fun i => match i with | some (.mm _ f) => f.dst != 0 && f.fmtO == 63 | _ => false) &&
         exps.all (fun e => exps.head? == some e) &&
         adds.all (fun k => match n.cmdAt .ve k with | some (.vwadd _ f) => f.nw2 == 0 | _ => false)
     | _, _ => false)
  | .chunk a b spb count send q k =>
    (match core a, core b with
     | some m, some n =>
       let chunks := p.steps / max 1 (m.spb spb).l
       a.toNat + 1 == b.toNat && decide (2 ≤ chunks) && decide (1 ≤ count) && decide (count < chunks) &&
         (match m.cmdAt .de send, n.cmdAt q k with
          | some (.dremote _ f), some (.fwait _ _ flag dev val _ _) =>
            (vget m.c.cm.chans f.cch).tgt == b && f.rflg == flag && !dev && val
          | _, _ => false)
     | _, _ => false)

/-! ### 0x30: issue spacing (R115, R146, R175, R231, R234) -/

/-- The unit of the ME queue's commands: the array, or the weight fetch unit (R115). -/
def meUnit : Instr → Option Bool
  | .mm _ _ => some true
  | .wfill _ _ => some false
  | .tload _ _ => some false
  | _ => none

/-- The first command of a queue that comes too soon; `past` are those before it, the latest first. -/
def spaced (n : PlanCore) (past : List PlanCmd) : List PlanCmd → Option PlanCmd
  | [] => none
  | m :: ms =>
    let before := if m.q = .me then past.find? (fun y => (meUnit y.i).isSome && meUnit y.i == meUnit m.i) else past.head?
    if past.head?.all (fun y => decide (y.at_ + 1 ≤ m.at_)) && before.all (fun y => decide (y.at_ + n.occ y ≤ m.at_)) then
      spaced n (m :: past) ms
    else some m

/-! ### 0x31: banks (R199, R202) -/

/-- An access to a bank in a cycle of core time. -/
structure BankUse where
  by_ : PlanCmd
  bank : Nat
  cyc : Nat
deriving DecidableEq, Repr

/-- The bank accesses of a core at a level. The spec gives no cycle to the rows of an SE command and none to those of a DMEM, whose
rows are left out; the rows of a tile that an MM lands in one cycle count once a bank (DESIGN CHOICE, log 128). -/
def PlanCore.bankUses (n : PlanCore) (orch : Bool) : List BankUse :=
  n.cmds.flatMap (fun m =>
    let l := (n.uses m).filterMap (fun u => match u.off with
      | some o => if u.orch == orch then
          some (BankUse.mk m (if orch then (n.c.cm.orBase + o) % 16 else (n.c.cm.base + o) % 12) (m.at_ + u.cyc)) else none
      | none => none)
    match m.i with
    | .mm _ _ => l.eraseDups
    | .dmem _ _ => []
    | _ => if m.q = .se then [] else l)

/-- Two accesses of a core to one bank of its memory in a cycle; or a bank without a free cycle among four. -/
def cmBankBad (n : PlanCore) : Option PlanCmd :=
  let l := n.bankUses false
  let used := fun (b t : Nat) => l.any (fun y => y.bank == b && y.cyc == t)
  match clash (fun a b => a.bank == b.bank && a.cyc == b.cyc) l with
  | some x => some (later x.1.by_ x.2.by_)
  | none => (l.find? (fun a => used a.bank (a.cyc + 1) && used a.bank (a.cyc + 2) && used a.bank (a.cyc + 3))).map (fun a => a.by_)

/-- Two Orchard accesses of a core to one bank within 8 cycles. -/
def orBankBad (n : PlanCore) : Option PlanCmd :=
  (clash (fun (a b : BankUse) => a.bank == b.bank && decide (a.cyc < b.cyc + 8) && decide (b.cyc < a.cyc + 8)) (n.bankUses true)).map
    (fun x => later x.1.by_ x.2.by_)

/-! ### 0x32: hazards -/

/-- Two WFILLs overlap: each occupies the weight fetch unit while the other does (R109, R115; DEDUCED, log 128). -/
def fillsOverlap (n : PlanCore) : Option PlanCmd :=
  let l := (n.queue .me).filter (fun m => match m.i with | .wfill _ _ => true | _ => false)
  (clash (fun a b => decide (a.at_ < b.at_ + n.occ b) && decide (b.at_ < a.at_ + n.occ a)) l).map (fun x => later x.1 x.2)

/-- A fill of an ME buffer (slots 0 to 3, halves 4 and 5): its first and last cycle of writing, and whether it sets the ready bit. -/
structure BufFill where
  by_ : PlanCmd
  buf : Nat
  first : Nat
  last : Nat
  sets : Bool
deriving DecidableEq, Repr

/-- The fills of a core in core time (R109, R184, Table 10-4). -/
def PlanCore.fills (n : PlanCore) : List BufFill :=
  n.cmds.filterMap (fun m => match m.i with
    | .wfill _ f => some ⟨m, 4 + f.wh.toNat, m.at_ + 6, m.at_ + n.occ m + 5, true⟩
    | .vib _ f => some ⟨m, f.slot.toNat, m.at_ + 2, m.at_ + n.occ m + 1, f.last == 1⟩
    | _ => (n.moveJob m).bind (fun j =>
        if j.dl = 2 then
          some ⟨m, (j.dadr.extractLsb' 4 2).toNat, m.at_ + srcLat j.sl j.sadr + 1, m.at_ + n.occ m + srcLat j.sl j.sadr, true⟩
        else none))

/-- The core times at which the releases of a buffer have read it: a slot with its last copy, a half with its last column (R110,
R114). -/
def PlanCore.releases (n : PlanCore) (buf : Nat) : List Nat :=
  n.cmds.filterMap (fun m => match m.i with
    | .mm _ f =>
      let t := max (mmColsN f) 16
      if f.rel.getLsbD buf then
        some (m.at_ + (if buf < 4 then (slotUses f buf).foldl max 0 * t + 15 else 16 + (mmPasses f * mmSegs f - 1) * t + mmColsN f - 1))
      else none
    | _ => none)

/-- A fill writes a buffer between the point where its ready bit is set and the point where the command that releases it reads it
(R109). A bit that is still set at the end of a tick stays set into the next one. -/
def fillClobbers (n : PlanCore) (x : BufFill) : Bool :=
  let sets := n.fills.filter (fun y => y.buf == x.buf && y.sets)
  let rels := n.releases x.buf
  sets.any (fun y =>
    (y.by_ != x.by_ && decide (y.last ≤ x.last) && !rels.any (fun r => decide (y.last ≤ r) && decide (r ≤ x.first))) ||
    (!rels.any (fun r => decide (y.last ≤ r)) && !rels.any (fun r => decide (r ≤ x.first))))

/-- The accumulator entries a command writes, every row and column of its shape (R116). -/
def mmKeys (f : MmF) : List Nat :=
  let s := f.shape.toNat
  (List.range (shapeSubs s)).flatMap (fun q => (List.range (shapeRows s)).flatMap (fun r => (List.range (mmColsN f)).flatMap (fun n =>
    let col := subCol s q + f.acol.toNat + n
    (if s = 4 then [col, col + 64] else [col]).map (accKey f.abank (subRow s q + r)))))

/-- The MM commands of a core with their entries, in order. -/
def PlanCore.mms (n : PlanCore) : List (PlanCmd × MmF × List Nat) :=
  (n.queue .me).filterMap (fun m => match m.i with | .mm _ f => some (m, f, mmKeys f) | _ => none)

/-- The first MM that adds onto an entry no command of the tick has written (R116). -/
def firstAdds (seen : List Nat) : List (PlanCmd × MmF × List Nat) → Option PlanCmd
  | [] => none
  | x :: xs =>
    if x.2.1.accAdd = 1 ∧ !x.2.2.all (fun k => seen.contains k) then some x.1
    else firstAdds (seen ++ x.2.2.filter (fun k => !seen.contains k)) xs

/-- The tiles and VFTs of a core. -/
def PlanCore.tiles (n : PlanCore) : List PlanTile := planTiles n.x (n.queue .me)
def PlanCore.vfts (n : PlanCore) : List PlanCmd := (n.queue .ve).filter (fun m => match m.i with | .vft _ _ => true | _ => false)

/-- A tile that finds more than 8 in the queue, itself among them; the count is taken after the removals of its cycle (R118, R183). A
tick that leaves tiles behind fills the queue over the ticks. -/
def tilesDeep (n : PlanCore) : Option PlanCmd :=
  (n.tiles.zipIdx.find? (fun x => decide (8 + (n.vfts.filter (fun v => decide (v.at_ ≤ x.1.seen))).length < x.2 + 1) ||
    decide (n.vfts.length ≤ x.2))).map (fun x => x.1.by_)

/-- A VFT that no tile has come for by its issue (R183). -/
def vftEarly (n : PlanCore) : Option PlanCmd :=
  (n.vfts.zipIdx.find? (fun x => match n.tiles[x.2]? with | some t => decide (x.1.at_ < t.seen) | none => true)).map (fun x => x.1)

/-- The SPB, packet and range of an SE command. -/
def seOf : Instr → Option SeF
  | .smix _ f => some f
  | .sout _ f => some f
  | .scarry _ f => some f
  | _ => none

/-- An SCARRY that issues less than SOUT's occupancy after the SOUT of its channel group (R142). A range that a claim's result moves
counts as every channel. -/
def carryEarly (n : PlanCore) : Option PlanCmd :=
  let range := fun (m : PlanCmd) (f : SeF) => (n.xk m f.xk).map (fun v => (f.first.toNat + v, f.first.toNat + v + f.count1.toNat + 1))
  (n.queue .se).find? (fun m => match m.i with
    | .scarry _ f => (n.queue .se).any (fun y => match y.i with
        | .sout _ g => g.spb == f.spb && y.pkt == m.pkt && decide (m.at_ < y.at_ + n.occ y) &&
            (match range m f, range y g with | some a, some b => decide (a.1 < b.2) && decide (b.1 < a.2) | _, _ => true)
        | _ => false)
    | _ => false)

/-- The first SE or VCONV command of a core whose reset row no DMOVE of the core has landed before the first such command is due
(R141). -/
def resetLate (n : PlanCore) : Option PlanCmd :=
  let l := n.cmds.filter (fun m => (seOf m.i).isSome || (match m.i with | .vconv _ _ => true | _ => false))
  let first := l.foldl (fun a m => min a m.at_) (2 ^ 40)
  let row := fun (m : PlanCmd) => match seOf m.i with | some f => some ((n.spb f.spb).aRst + m.pkt / 64) | none => n.c.rstRow.map (fun a => a + m.pkt / 64)
  l.find? (fun m => match row m with
    | none => false
    | some r => !(n.queue .de).any (fun y => (match y.i with | .dmove _ _ => true | _ => false) &&
        (n.uses y).any (fun u => u.wr && !u.orch && u.off == some r && decide (y.at_ + u.cyc < first))))

/-- Registers from r on, read one a cycle from the issue on. -/
def regRun (r n : Nat) : List (Nat × Nat) := (List.range n).map (fun k => (r + k, k))

/-- Halo registers of a VCONV (R185). -/
def haloRegs (f : VConvF) : Nat := (f.kc2.toNat + 1) * ((64 / lcOf f.lc + 3) / 4)

/-- The registers a VE command reads, each with its cycle from the issue (R174). -/
def regReads (i : Instr) : List (Nat × Nat) :=
  let one := fun (f : VArithF) => [(f.va.toNat, 0)]
  let two := fun (f : VArithF) => [(f.va.toNat, 0), (f.vb.toNat, 0)]
  let three := fun (f : VArithF) => [(f.va.toNat, 0), (f.vb.toNat, 0), (f.vc.toNat, 0)]
  match i with
  | .vmov _ f => one f
  | .vabs _ f => one f
  | .vneg _ f => one f
  | .vadd _ f => two f
  | .vsub _ f => two f
  | .vmul _ f => two f
  | .vmax _ f => two f
  | .vmin _ f => two f
  | .vcmp _ f => two f
  | .vcrv _ f => if f.mulx = 1 then two f else one f
  | .vmac _ f => three f
  | .vclp _ f => three f
  | .vsel _ f => three f
  | .vconv _ f => regRun f.va.toNat 16 ++ [(f.vb.toNat, 0)] ++ regRun f.vc.toNat (haloRegs f)
  | .vrsum _ f => regRun f.va.toNat (f.cnt1.toNat + 1)
  | .vrssq _ f => regRun f.va.toNat (f.cnt1.toNat + 1)
  | .vrmax _ f => regRun f.va.toNat (f.cnt1.toNat + 1)
  | .vst _ f => regRun f.vr.toNat (f.cnt1.toNat + 1)
  | .vib _ f => regRun f.va.toNat (f.cnt1.toNat + 1)
  | .vtopk _ f => (if f.msrc = 0 then [(f.va.toNat, 0)] else []) ++ (if f.acc = 1 then [(f.vd.toNat, 0), (f.vd.toNat + 1, 0)] else [])
  | .vwadd _ f => regRun f.va.toNat (3 * vwaddRegs f)
  | _ => []

/-- The registers a VE command writes, all in cycle I + O + Λ − 1 (R180). -/
def regWrites (i : Instr) : List Nat :=
  let run := fun (r n : Nat) => (List.range n).map (fun k => r + k)
  match i with
  | .vmov _ f => [f.vd.toNat]
  | .vadd _ f => [f.vd.toNat]
  | .vsub _ f => [f.vd.toNat]
  | .vmul _ f => [f.vd.toNat]
  | .vmac _ f => [f.vd.toNat]
  | .vmax _ f => [f.vd.toNat]
  | .vmin _ f => [f.vd.toNat]
  | .vabs _ f => [f.vd.toNat]
  | .vneg _ f => [f.vd.toNat]
  | .vclp _ f => [f.vd.toNat]
  | .vcmp _ f => [f.vd.toNat]
  | .vsel _ f => [f.vd.toNat]
  | .vcrv _ f => [f.vd.toNat]
  | .vconv _ f => run f.vd.toNat 16 ++ run f.vc.toNat (haloRegs f)
  | .vrsum _ f => [f.vd.toNat]
  | .vrssq _ f => [f.vd.toNat]
  | .vrmax _ f => [f.vd.toNat]
  | .vld _ f => run f.vr.toNat (f.cnt1.toNat + 1)
  | .vft _ f => if f.dstw = 1 then [] else run f.vd.toNat 16
  | .vtopk _ f => run f.vd.toNat 2
  | .vwadd _ f => match f.dstw.toNat with | 0 => run f.vd.toNat 3 | 1 => [f.vd.toNat] | _ => run f.vd.toNat 2
  | _ => []

/-- The core time in which a command's registers are written. -/
def PlanCore.regsAtTime (n : PlanCore) (m : PlanCmd) : Nat := m.at_ + n.occ m + veLat m.i - 1

/-- A command that reads a register before a command of the tick has written it (R171). -/
def readsUnwritten (n : PlanCore) : Option PlanCmd :=
  let l := n.queue .ve
  l.find? (fun m => (regReads m.i).any (fun r =>
    !l.any (fun y => (regWrites y.i).contains r.1 && decide (n.regsAtTime y < m.at_ + r.2))))

/-- Two writes land in one register in one cycle (R174). -/
def writesTogether (n : PlanCore) : Option PlanCmd :=
  (clash (fun a b => n.regsAtTime a == n.regsAtTime b && (regWrites a.i).any (fun r => (regWrites b.i).contains r)) (n.queue .ve)).map
    (fun x => later x.1 x.2)

/-- A VWADD whose destination it still reads when its result lands (R195): it reads its last register before that, so none is refused
but by R174. -/
def wideOverlap (n : PlanCore) : Option PlanCmd :=
  (n.queue .ve).find? (fun m => match m.i with
    | .vwadd _ _ => (regReads m.i).any (fun r => (regWrites m.i).contains r.1 && decide (n.regsAtTime m ≤ m.at_ + r.2))
    | _ => false)

/-- The curve tables a command uses, and its last cycle of use (R188, R190). -/
def PlanCore.curveUse (n : PlanCore) (m : PlanCmd) : List (BitVec 3) × Nat :=
  match m.i with
  | .vcrv _ f => ([f.ct], m.at_ + 6)
  | i => match seOf i with
    | some f =>
      let s := n.spb f.spb
      (s.tExp :: (if s.complex then [s.tCos, s.tSin] else []), m.at_ + n.occ m + 24)
    | none => ([], m.at_)

/-- The VCTLs of a core. -/
def PlanCore.reloads (n : PlanCore) : List (PlanCmd × BitVec 3) :=
  (n.queue .ve).filterMap (fun m => match m.i with | .vctl _ f => some (m, f.ct) | _ => none)

/-- A second VCTL to a table completes while a command that issued before the first completed still uses the table (R190). -/
def reloadsEarly (n : PlanCore) : Option PlanCmd :=
  (clash (fun (a b : PlanCmd × BitVec 3) => a.2 == b.2 && n.cmds.any (fun u =>
    (n.curveUse u).1.contains a.2 && decide (u.at_ < a.1.at_ + 8) && decide (b.1.at_ + 8 ≤ (n.curveUse u).2))) n.reloads).map (fun x => x.2.1)

/-- A command that uses a table that neither the loader's fill nor an earlier VCTL has loaded (R190). -/
def curveUnloaded (n : PlanCore) : Option PlanCmd :=
  n.cmds.find? (fun u => (n.curveUse u).1.any (fun t =>
    !n.x.curves.any (fun y => y.1 == t) && !n.reloads.any (fun y => y.2 == t && decide (y.1.at_ + 8 ≤ u.at_))))

/-- Cycles from the landing of a row until it is readable (R180, Table 10-4). -/
def readableIn (orch : Bool) : Nat := if orch then 9 else 1

/-- A command reads a row that a command which issues after it has written by then (R233). -/
def readsLater (n : PlanCore) : Option PlanCmd :=
  n.cmds.find? (fun m => (n.uses m).any (fun u => !u.wr && n.cmds.any (fun y => decide (m.at_ < y.at_) && (n.uses y).any (fun v =>
    v.wr && v.orch == u.orch && v.off == u.off && decide (y.at_ + v.cyc + readableIn v.orch ≤ m.at_ + u.cyc)))))

/-- Check 0x32 of a core. -/
def hazard (n : PlanCore) : Option PlanCmd :=
  fillsOverlap n <|> (n.fills.find? (fillClobbers n)).map (fun x => x.by_) <|> firstAdds [] n.mms <|> tilesDeep n <|> carryEarly n <|>
  resetLate n <|> readsUnwritten n <|> writesTogether n <|> vftEarly n <|> reloadsEarly n <|> curveUnloaded n <|> wideOverlap n <|>
  readsLater n

/-- A store that early start forbids (R270): before core time `pit` a write of the state area, which holds the layers that are no Bloom
layer, adapter weights and stream records; or a DMEM write to MEM. The Bloom layers' rows lie in the Bloom area. -/
def earlyStore (p : Package) (pit : Nat) (n : PlanCore) (m : PlanCmd) : Bool :=
  decide (m.at_ < pit) && m.q == .de &&
    ((match m.i with | .dmem _ f => f.dir == 1 | _ => false) ||
     (n.uses m).any (fun u => u.wr && u.orch && (match u.off with
       | some o => decide (p.stateBase ≤ n.c.cm.orBase + o) && decide (n.c.cm.orBase + o < p.stateBase + p.stateRows)
       | none => false)))

/-! ### 0x33: accumulator exponents (R87, R254) -/

/-- The first MM that adds onto an entry under another ACC_EXP than its chain, or onto one that a command of the chain has already read
out; `live` are the entries with their ACC_EXP and whether they were read. -/
def chainBad (live : List (Nat × BitVec 9 × Bool)) : List (PlanCmd × MmF × List Nat) → Option PlanCmd
  | [] => none
  | x :: xs =>
    let mine := live.filter (fun e => x.2.2.contains e.1)
    if x.2.1.accAdd = 1 ∧ mine.any (fun e => e.2.1 != x.2.1.accExp || e.2.2) then some x.1
    else chainBad (live.filter (fun e => !x.2.2.contains e.1) ++ x.2.2.map (fun k => (k, x.2.1.accExp, x.2.1.dst != 0))) xs

end Sys2Proof.Machine
end

