-- ==== Sys2Proof/Machine/PlanWaits.lean ====
section
/-!
DEFINITION. Machine/PlanWaits: the loader's checks 0x40 to 0x42 (10_command_queues R240 to R242, R246, R247): every FWAIT of the plan
with the event that satisfies it, the graph of waits, and what the tick leaves in flags, counters and comparators.
-/
namespace Sys2Proof.Machine

/-- A flag: of a core, or the device's. -/
abbrev FlagKey := Option (BitVec 3) × BitVec 6

/-- A write of a flag under the plan: by which command, the value, and the core time from which it is seen. -/
structure FlagEvent where
  key : FlagKey
  by_ : PlanCmd
  v : Bool
  seen : Nat
deriving DecidableEq, Repr

/-- A flag of core c, or of the device. -/
def flagKey (c : BitVec 3) (f : BitVec 6) (dev : Bool) : FlagKey := (if dev then none else some c, f)

/-- The flag that a CFLG sets: bit 6 enables (Table 10-3). -/
def cflgEvent (m : PlanCmd) (f : BitVec 7) (n : Nat) : List FlagEvent :=
  if f.getLsbD 6 then [⟨flagKey m.core (f.extractLsb' 0 6) false, m, true, m.at_ + n⟩] else []

/-- The flag writes of a command with the cycles of Table 10-4: a core flag written in cycle I is seen from I + 1, a device flag from
I + 3; CFLG when the rows are readable; RFLG in I + O + 2 and seen from the next; a credit return from I + 5 (R214). A DMEM's CFLG, and
a clear by a wait, come as their commands end: the plan puts them right behind (DEDUCED, log 129). -/
def flagEvents (cs : List PlanCore) (n : PlanCore) (m : PlanCmd) : List FlagEvent :=
  let wr := fun (f : BitVec 6) (dev v : Bool) => [FlagEvent.mk (flagKey m.core f dev) m v (m.at_ + (if dev then 3 else 1))]
  match m.i with
  | .fset _ _ f dev => wr f dev true
  | .fclr _ _ f dev => wr f dev false
  | .fwait _ _ f dev _ clr _ => if clr then wr f dev false else []
  | .dremote _ f =>
    cflgEvent m f.cflg (n.occ m + 2) ++
      [⟨flagKey (vget n.c.cm.chans f.cch).tgt f.rflg false, m, true, m.at_ + n.occ m + 3⟩]
  | .dcret _ f => match cs.find? (fun y => y.k == f.tcore) with
    | some y => [⟨flagKey f.tcore (vget y.c.cm.chans f.cch).flag false, m, true, m.at_ + 5⟩]
    | none => []
  | .dmove _ f => cflgEvent m f.cflg (n.occ m + srcLat f.sl f.sadr + 1 + (if f.dl = 0 && adrOrch f.dadr then 8 else 0) + 1)
  | .dmovex _ f => cflgEvent m f.cflg (n.occ m + srcLat f.sl f.sadr + 1 + (if f.dl = 0 && adrOrch f.dadr then 8 else 0) + 1)
  | .dgather _ f => cflgEvent m f.cflg (n.occ m + srcLat 0 f.sadr + 1 + (if adrOrch f.dadr then 8 else 0) + 1)
  | .dmem _ f => cflgEvent m f.cflg (n.occ m + 2)
  | _ => []

/-- A wait of the plan: its flag and value. -/
structure PlanWait where
  m : PlanCmd
  key : FlagKey
  v : Bool
deriving DecidableEq, Repr

/-- The waits of a package, in the order of core time. -/
def planWaits (p : Package) : List PlanWait :=
  sortOn (fun w => w.m.at_) ((planAll p).filterMap (fun m => match m.i with
    | .fwait _ _ f dev v _ _ => some ⟨m, flagKey m.core f dev, v⟩
    | _ => none))

/-- The flag writes of a package. -/
def planEvents (p : Package) : List FlagEvent :=
  (planCores p).flatMap (fun n => n.cmds.flatMap (flagEvents (planCores p) n))

/-- The value a flag carries into the tick (R240). -/
def flagInit (p : Package) (k : FlagKey) : Bool :=
  match k.1 with
  | some c => (p.plans[c.toNat]?).any (fun x => x.flgInit.getLsbD k.2.toNat)
  | none => p.dflgInit.getLsbD k.2.toNat

/-- The last of the events seen by core time t, and of those of one cycle a set (R237). -/
def lastEvent (l : List FlagEvent) (t : Nat) : Option FlagEvent :=
  (sortOn (fun e => 2 * e.seen + e.v.toNat) (l.filter (fun e => decide (e.seen ≤ t)))).getLast?

/-- What satisfies a wait. -/
inductive Satisfied where
  | carried
  | event (m : PlanCmd) (seen : Nat)
  | never
deriving DecidableEq, Repr

/-- The event that satisfies a wait under the plan: what its flag holds at its core time, else the first write of its value that is
seen from then on. A write by the wait itself does not satisfy it. -/
def satisfiedBy (p : Package) (es : List FlagEvent) (w : PlanWait) : Satisfied :=
  let l := es.filter (fun e => e.key == w.key && e.by_ != w.m)
  let later := match (sortOn (fun e => e.seen) (l.filter (fun e => decide (w.m.at_ < e.seen) && e.v == w.v))).head? with
    | some e => Satisfied.event e.by_ e.seen
    | none => .never
  match lastEvent l w.m.at_ with
  | some e => if e.v = w.v then .event e.by_ e.seen else later
  | none => if flagInit p w.key = w.v then .carried else later

/-- A wait of CLR 1 clears its flag when it succeeds: no earlier than the event that satisfies it (R238). -/
def delayClear (es : List FlagEvent) (w : PlanWait) : Satisfied → List FlagEvent
  | .event _ seen => es.map (fun e => if e.by_ = w.m then { e with seen := max e.seen (seen + 1) } else e)
  | _ => es

/-- Every wait with what satisfies it, in the order of core time, and the flag writes as the waits leave them. -/
def pairWaits (p : Package) (es : List FlagEvent) : List PlanWait → List (PlanWait × Satisfied) × List FlagEvent
  | [] => ([], es)
  | w :: ws =>
    let x := satisfiedBy p es w
    let r := pairWaits p (delayClear es w x) ws
    ((w, x) :: r.1, r.2)

/-- The waits of a package paired (R241). -/
def pairsOf (p : Package) : List (PlanWait × Satisfied) × List FlagEvent := pairWaits p (planEvents p) (planWaits p)

/-! ### 0x40: the graph of waits (R241) -/

/-- Wait a precedes wait b in the graph: b is another command of a's core whose core time is equal or later, or the command that
satisfies b is a itself or such a command. The other nodes of the graph have edges to waits alone, so each of its cycles is one of
waits. -/
def waitBefore (a b : PlanWait × Satisfied) : Bool :=
  let after := fun (m : PlanCmd) => m.core == a.1.m.core && decide (a.1.m.at_ ≤ m.at_)
  (b.1 != a.1 && after b.1.m) || (match b.2 with | .event m _ => after m | _ => false)

/-- The waits left after those without a predecessor are taken out, n times. -/
def peel : Nat → List (PlanWait × Satisfied) → List (PlanWait × Satisfied)
  | 0, l => l
  | n + 1, l => peel n (l.filter (fun b => l.any (fun a => waitBefore a b)))

/-- Check 0x40: a wait that nothing satisfies, or one on a cycle of the graph. -/
def waitFails (p : Package) : Option LoadFail :=
  let l := (pairsOf p).1
  ((l.find? (fun x => x.2 == .never)).map (fun x => failAt 0xB 0x40 x.1.m)) <|>
    ((peel l.length l).head?.map (fun x => failAt 0xB 0x40 x.1.m))

/-! ### 0x41: chains (R242) -/

/-- The chain of a core in a package. -/
def chainIn (p : Package) (c : BitVec 3) : Option Nat := p.chains.findIdx? (fun l => l.any (fun x => x == c))

/-- A command of the flag group names a device flag (R242). -/
def namesDflag : Instr → Option (BitVec 6)
  | .fset _ _ f true => some f
  | .fclr _ _ f true => some f
  | .fwait _ _ f true _ _ _ => some f
  | _ => none

/-- Check 0x41: a wait satisfied from another chain, or a device flag that commands of two chains name. -/
def chainFails (p : Package) : Option LoadFail :=
  (((pairsOf p).1.find? (fun x => match x.2 with | .event m _ => chainIn p m.core != chainIn p x.1.m.core | _ => false)).map
    (fun x => failAt 0xB 0x41 x.1.m)) <|>
  ((clash (fun (a b : PlanCmd) => (namesDflag a.i).isSome && namesDflag a.i == namesDflag b.i && chainIn p a.core != chainIn p b.core)
    (planAll p)).map (fun x => failAt 0xB 0x41 x.2))

/-! ### 0x42: what a tick leaves (R240, R246, R247) -/

/-- A flag whose last write of the tick leaves it off its initial value (R240). -/
def flagsLeft (p : Package) : Option LoadFail :=
  let es := (pairsOf p).2
  (es.find? (fun e => match lastEvent (es.filter (fun x => x.key == e.key)) (2 ^ 60) with
    | some x => x.v != flagInit p e.key
    | none => false)).map (fun e => failAt 0xB 0x42 e.by_)

/-- The counters and comparators of a core end at their initial values; one that may hold a claim's result does not (R240, R247;
DEDUCED, log 129). -/
def regsBack (n : PlanCore) : Bool := n.regsAt (2 ^ 60) == n.regsInit

/-- Core times from which everything is ordered after a command, by core. -/
abbrev Reach := List (BitVec 3 × Nat)

def Reach.from? (r : Reach) (c : BitVec 3) : Option Nat := (r.find? (fun x => x.1 == c)).map (fun x => x.2)

/-- A wait that a command ordered after satisfies orders its core's commands from the wait on. -/
def Reach.through (r : Reach) (x : PlanWait × Satisfied) : Reach :=
  match x.2 with
  | .event m _ =>
    if (r.from? m.core).any (fun t => decide (t ≤ m.at_)) && !(r.from? x.1.m.core).any (fun t => decide (t ≤ x.1.m.at_)) then
      (x.1.m.core, x.1.m.at_) :: r
    else r
  | _ => r

/-- What the flag graph orders after a command: the later commands of its core, and through every satisfied wait the commands behind
it. -/
def reachOf (l : List (PlanWait × Satisfied)) (m : PlanCmd) : Reach :=
  (List.range l.length).foldl (fun r _ => l.foldl Reach.through r) [(m.core, m.at_ + 1)]

/-- A claim on a counter that is not ordered after a reset of it in the tick (R246). -/
def claimLoose (p : Package) : Option LoadFail :=
  let l := planAll p
  let pairs := (pairsOf p).1
  (l.find? (fun m => match m.i with
    | .wclaim _ _ c _ _ _ _ => !l.any (fun y => match y.i with
        | .wrst _ _ d _ => d == c && ((reachOf pairs y).from? m.core).any (fun t => decide (t ≤ m.at_))
        | _ => false)
    | _ => false)).map (fun m => failAt 0xB 0x42 m)

/-- Check 0x42. -/
def endFails (p : Package) : Option LoadFail :=
  flagsLeft p <|> (if (planCores p).all regsBack then none else some ⟨0xB, 0x42, none⟩) <|> claimLoose p

end Sys2Proof.Machine
end

