-- ==== Sys2Proof/Machine/Cp.lean ====
section
/-!
DEFINITION. Machine/Cp: what a control processor does to its core (01_two_hierarchies R17, R19; 02_the_tick R48;
09_scratchpads R215; 10_command_queues R224, R225): it writes commands, releases blocks and changes windows.
-/
namespace Sys2Proof.Machine

/-- Core c's control processor runs: the core exists, the SP has started it, and the level is not FAULT (R14, R334). -/
def cpRuns (s : State) (c : BitVec 3) : Bool := corePresent s c && (vget s.cps c).released && s.fwr.fw.level != 3

/-- Commands a queue holds at most (R224). -/
def queueDepth : Nat := 512

/-- A word joins a queue; none where the queue is full. -/
def queuePut (s : State) (c : BitVec 3) (q : Queue) (word : CmdWord) : Option State :=
  let x := vget s.dp.cores c
  let e := vget x.queues (queueIndex q)
  if e.cmds.length < queueDepth then
    some { s with dp := s.dp.setCore c { x with queues := vset x.queues (queueIndex q) { e with cmds := e.cmds ++ [word] } } }
  else none

/-- Commands released and not yet issued. -/
def EngQ.releasedCount (e : EngQ) : Nat := (e.blocks.map (fun b => b.2)).sum

/-- Commands that a new end index releases: those between Q_REL and it; equal indices release a full queue of 512 that
holds nothing released, and otherwise an empty block (DEDUCED, log 40). -/
def EngQ.blockSize (e : EngQ) (endIdx : BitVec 9) : Nat :=
  let n := (endIdx - e.rel).toNat
  if n = 0 ∧ e.releasedCount = 0 ∧ e.cmds.length = queueDepth then queueDepth else n

/-- The planned cycle count of a queue's block (R48). -/
def plannedCycles (s : State) (c : BitVec 3) (q : Queue) : Nat :=
  match taskPkg s with
  | none => 0
  | some p => ((p.plans[c.toNat]?).map (fun x => x.planned.getD (queueIndex q).toNat 0)).getD 0

/-- The tick is the early tick, before its boundary. -/
def isEarlySeq (s : State) (t : W64) : Bool := match s.sp.early with | some e => e.early && e.seq == t | none => false

/-- The tick a release is for: the one whose dispatch record the CP holds, or the one the core has begun with the queue's
block still to come (R18). -/
def releaseTick (x : Core) (e : EngQ) : Option W64 :=
  match x.dispNext with
  | some d => some d.seq
  | none => if x.run = .computing && !e.got then some x.tick else none

/-- A block offered to its core's compute meter: it fits only where the sum does not exceed the limit (R48). -/
def meterBlock (d : Dp) (i : BitVec 4) (size : Nat) (early : Bool) : Bool × Dp :=
  let m := vget d.meters i
  if d.metering && decide (m.lim.toNat < (if early then m.early else m.count) + size) then
    (false, { d with meters := vset d.meters i { m with deferred := true } })
  else meterTry d i size early

/-- BLOCK_RELEASE (R17, R48): the block of its tick, if it is complete in the queue and fits the core's compute meter; else it
stays unreleased. A tick has one block per queue. -/
def releaseBlock (s : State) (c : BitVec 3) (q : Queue) (endIdx : BitVec 9) : State :=
  let x := vget s.dp.cores c
  let e := vget x.queues (queueIndex q)
  match releaseTick x e with
  | none => s
  | some t =>
    let n := e.blockSize endIdx
    if !cpRuns s c || e.blocks.any (fun b => b.1 == t) || decide (e.cmds.length < e.releasedCount + n) then s
    else
      let m := meterBlock s.dp (c.zeroExtend 4) (plannedCycles s c q) (isEarlySeq s t)
      let late := x.run == .computing && x.tick == t
      let e := if m.1 then { e with blocks := e.blocks ++ (if late && n == 0 then [] else [(t, n)]), rel := endIdx, got := e.got || late } else e
      { s with dp := m.2.setCore c { x with queues := vset x.queues (queueIndex q) e } }

/-- WINDOW_CHANGE (R215). -/
def setWindow (s : State) (c : BitVec 3) (w : BitVec 2) (x : Window) : State :=
  { s with dp := s.dp.modCore c (fun y => { y with cm := { y.cm with windows := vset y.cm.windows w x } }) }

/-! ### What a control processor waits for (R19) -/

/-- An operation of core c's control processor, done; none for a write that must wait for room. -/
def cpDoes (s : State) : Instr → Option State
  | .queueWrite c q word => queuePut s c q word
  | .blockRelease c q e => some (releaseBlock s c q e)
  | .windowChange c w base rows srcCore sp xp dbg opn => some (setWindow s c w ⟨base, rows, srcCore, sp, xp, dbg, opn⟩)
  | _ => some s

/-- The operations that wait, done in order as far as the queues have room. -/
def cpGoesOn (c : BitVec 3) : List Instr → State → State
  | [], s => { s with dp := s.dp.modCore c (fun x => { x with cpWait := [] }) }
  | i :: l, s => match cpDoes s i with
    | some t => cpGoesOn c l t
    | none => { s with dp := s.dp.modCore c (fun x => { x with cpWait := i :: l }) }

/-- A queue of core c may have room again. -/
def drainCp (s : State) (c : BitVec 3) : State :=
  if (vget s.dp.cores c).cpWait.isEmpty then s else cpGoesOn c (vget s.dp.cores c).cpWait s

/-- An operation of a control processor: one that writes to a full queue waits, and what the processor does later waits behind it; the
wait holds the processor only (R19; which of its operations count, DEDUCED, log 133). -/
def cpOperation (s : State) (c : BitVec 3) (i : Instr) : State :=
  if !cpRuns s c then s
  else
    let wait := { s with dp := s.dp.modCore c (fun x => { x with cpWait := x.cpWait ++ [i] }) }
    if (vget s.dp.cores c).cpWait.isEmpty then (match cpDoes s i with | some t => t | none => wait) else wait

/-- QUEUE_WRITE (R19). -/
def execQueueWrite (c : BitVec 3) (q : Queue) (word : CmdWord) (s : State) : Host.Outcome State Fault Refusal :=
  .next (cpOperation s c (.queueWrite c q word))

def execBlockRelease (c : BitVec 3) (q : Queue) (endIdx : BitVec 9) (s : State) : Host.Outcome State Fault Refusal :=
  .next (cpOperation s c (.blockRelease c q endIdx))

/-- WINDOW_CHANGE (R215). -/
def execWindowChange (c : BitVec 3) (w : BitVec 2) (base rows : BitVec 14) (srcCore : Byte) (sp xp dbg opn : Bool) (s : State) :
    Host.Outcome State Fault Refusal :=
  .next (cpOperation s c (.windowChange c w base rows srcCore sp xp dbg opn))

end Sys2Proof.Machine
end

