-- ==== Sys2Proof/Machine/Issue.lean ====
section
/-!
DEFINITION. Machine/Issue: the issue of engine commands (10_command_queues R224 to R236; 01_two_hierarchies R17, R18, R23):
when the next command of a queue issues, the gates that hold it, and what its issue does around its effect.
-/
namespace Sys2Proof.Machine

/-! ### A core's compute phase -/

/-- A queue at the start of a tick: nothing issued yet; an empty block of the tick is done with. -/
def EngQ.start (q : EngQ) (t : W64) : EngQ :=
  { q with issued := 0, last := 0, got := q.blocks.any (fun b => b.1 == t), discarded := false, blocks := q.blocks.filter (fun b => !(b.1 == t && b.2 == 0)) }

/-- The core begins the compute phase of tick t in n cycles, under its dispatch record (R225, R231); nothing of
the accumulator file of the last tick remains (R116). -/
def Core.begin (c : Core) (t : W64) (n : Nat) : Core :=
  { c with tick := t, run := .computing, startIn := n, time := 0, hold := none,
           queues := c.queues.map (fun q => q.start t),
           disp := (match c.dispNext with | some d => d | none => c.disp), dispNext := none, me := { c.me with acc := [], accZero := false } }

/-- A core that has issued its last command begins the early tick in the next cycle, once that tick computes (R269). -/
def startEarly (s : State) (c : BitVec 3) : State :=
  let x := vget s.dp.cores c
  match s.sp.early with
  | some e =>
    if e.early && e.computing && x.run == .computing && x.tick != e.seq && coreDone x && x.dispNext.isSome && !x.restart then
      { s with dp := s.dp.setCore c (x.begin e.seq 1) }
    else s
  | none => s

/-! ### Issue -/

/-- The head of a queue taken: it issued at the present core time. -/
def EngQ.pop (q : EngQ) (time : Nat) : EngQ :=
  { q with cmds := q.cmds.drop 1, head := q.head + 1, issued := q.issued + 1, last := time,
           blocks := match q.blocks with
             | (t, n) :: r => if n ≤ 1 then r else (t, n - 1) :: r
             | [] => [] }

def Core.pop (c : Core) (q : Queue) : Core :=
  { c with hold := none, queues := vset c.queues (queueIndex q) ((vget c.queues (queueIndex q)).pop c.time) }

/-- The command's work at its issue. -/
def workOf (s : State) (c : BitVec 3) (q : Queue) (step : Bool) : Work :=
  { eventWork s c q with d := s.dp.modCore c (fun x => x.pop q), idx := (vget (vget s.dp.cores c).queues (queueIndex q)).issued,
                         pitIn := if step then none else pitInOf s c, step := step }

/-- The stream whose slot pair or Bloom slots hold a row. -/
def slotOwner (s : State) (row : Nat) : Option W16 :=
  match taskPkg s with
  | none => none
  | some p => (s.sp.streams.find? (fun x =>
      (match x.slot with | some b => inRows row b (2 * slotRows p) | none => false) ||
      (match x.bloom with | some b => inRows row b (3 * bloomRows p) | none => false))).map (fun x => x.id)

/-- State writes of tick t that came at or after the pit: discarded, counted, and their streams SKIPPED (R23, R50). -/
def lateWrites (s : State) (c : BitVec 3) (t : W64) (rows : List Nat) : State :=
  if rows.isEmpty then s else
  let owners := rows.filterMap (slotOwner s)
  let s := { s with tkc := { s.tkc with late := s.tkc.late + BitVec.ofNat 32 rows.length } }
  let p := fun (x : StreamTick) => owners.any (fun o => o == x.stream)
  mapTicks s (fun r => noteCore t c 1 p (if r.seq = t then
      { r with sts := r.sts.map (fun x => if p x then { x with late := true } else x) } else r))

/-- A comparator of TYPE 0 matches the issue of command idx (R424). -/
def bpIssue (s : State) (c : BitVec 3) (q : Queue) (idx : Nat) (b : Bp) : Bool :=
  b.type == 0 && b.value.toNat % 512 == idx % 512 && b.queue == queueIndex q && physCore s c == some b.pcore

/-- A command issues now: it leaves its queue, its effect takes place with its predicate, late state writes and reports are
recorded, comparators match, a write that waited for room in its queue joins it, and a core that is done turns to the early tick. -/
def issueNow (s : State) (i : Iss) (q : Queue) (step : Bool) (eff : Bool → Work → Work) : State :=
  let run := predOn (vget s.dp.cores i.core) i.hdr
  let n := s.dp.landings.length
  let w := (eff run (workOf s i.core q step)).dropLate n
  let spec := isSpec s i.core
  let e := w.endsIn n
  let s := { s with dp := if e = 0 then w.d else w.d.modCore i.core (fun x => x.packetEnds w.tick i.pkt (s.dp.cycle + e)) }
  let s := lateWrites s i.core w.tick w.lateRows
  let s := takeReports s w.reps
  let s := bpMatch s (bpsWhere s (bpIssue s i.core q w.idx)) spec
  startEarly (drainCp s i.core) i.core

/-- The queues of a core whose next command holds it now, with the gate of each: the presented command's own gate, and the gates of
the others due in this cycle (R232). -/
def holders (s : State) (i : Iss) (q : Queue) (c : Instr) : List (Queue × BitVec 3) :=
  allQueues.filterMap (fun k =>
    if k = q then (if (gateOf s i.core c).2 then none else some (k, (gateOf s i.core c).1))
    else (heldHead s i.core k).map (fun x => (k, x.1)))

/-- The core is held: its held cycles go on counting while the same commands stand due. The packet kept is that of a command at the
residency gate, else the presented one's. -/
def setHold (s : State) (i : Iss) (q : Queue) (hs : List (Queue × BitVec 3)) : State :=
  match hs with
  | [] => s
  | (k, _) :: _ =>
    let x := vget s.dp.cores i.core
    let bits := hs.foldl (fun (b : BitVec 3) h => b ||| h.2) 0
    let waits := hs.filterMap (fun h =>
      if h.2 = 2 then (nextWord x h.1).bind (fun w => decodeCmd i.core 0 h.1 w) else none)
    let flag := match waits with | c :: _ => waitFlag c | [] => 0
    let pkt := match x.hold with | some h => if h.gate.getLsbD 2 && q != .de then h.pkt else i.pkt | none => i.pkt
    let cycles := match x.hold with | some h => h.cycles | none => 0
    { s with dp := s.dp.setCore i.core { x with hold := some ⟨bits, k, hs.foldl (fun (b : BitVec 4) h => setBit b (queueIndex h.1).toNat true) 0, flag, pkt, cycles⟩ } }

/-- The command is the next one of its queue for the core's tick and falls due with nothing of the plan before it (R17, R224,
R231); the cycles until then. -/
def issueWait (s : State) (i : Iss) (q : Queue) (c : Instr) : Option Nat :=
  let x := vget s.dp.cores i.core
  if clockRuns s && corePresent s i.core && x.run == .computing && !x.restart && s.fwr.fw.level != 3 &&
      decide (nextWord x q = encodeCmd c) then
    match queueWait x q with
    | some n =>
      if mayPass s n && (match planPkt s i.core q with | some k => k == i.pkt | none => true) && (match nextPhase s with | some m => decide (n < m) | none => true) then some n else none
    | none => none
  else none

/-- An engine command: a reserved operand code, its own or its format entry's, stops it (log 108); otherwise it issues in its cycle, holds
its core at a gate, or, where it does not fall due, changes nothing. -/
def issueEngine (c : Instr) (i : Iss) (q : Queue) (eff : Bool → Work → Work) (s : State) :
    Host.Outcome State Fault Refusal :=
  if !c.wf then .fault (.reservedField "operand code")
  else if !(tableFmtis c).all (fmtiOk (vget s.dp.cores i.core)) then .fault (.reservedField "FMTI")
  else match issueWait s i q c with
    | none => .next s
    | some n =>
      let s := s.pass n
      if frozen s then .next s else
      match holders s i q c with
      | [] => .next (issueNow s i q false eff)
      | hs => .next (setHold s i q hs)

/-- NOP (Table 10-4). -/
def execNop (i : Iss) (q : Queue) (s : State) :
    Host.Outcome State Fault Refusal :=
  issueEngine (.nop i q) i q (effNop) s

/-- FSET (R237). -/
def execFset (i : Iss) (q : Queue) (flag : BitVec 6) (dev : Bool) (s : State) :
    Host.Outcome State Fault Refusal :=
  issueEngine (.fset i q flag dev) i q (effFset flag dev) s

/-- FCLR (R237). -/
def execFclr (i : Iss) (q : Queue) (flag : BitVec 6) (dev : Bool) (s : State) :
    Host.Outcome State Fault Refusal :=
  issueEngine (.fclr i q flag dev) i q (effFclr flag dev) s

/-- FWAIT (R238): it holds its core until the flag is seen at VAL. -/
def execFwait (i : Iss) (q : Queue) (flag : BitVec 6) (dev val clr : Bool) (tmo : BitVec 24) (s : State) :
    Host.Outcome State Fault Refusal :=
  issueEngine (.fwait i q flag dev val clr tmo) i q (effFwait flag dev clr) s

/-- KSET (R247). -/
def execKset (i : Iss) (q : Queue) (k : BitVec 3) (value : W16) (s : State) :
    Host.Outcome State Fault Refusal :=
  issueEngine (.kset i q k value) i q (effKset k value) s

/-- KADD (R247). -/
def execKadd (i : Iss) (q : Queue) (k : BitVec 3) (value : W16) (s : State) :
    Host.Outcome State Fault Refusal :=
  issueEngine (.kadd i q k value) i q (effKadd k value) s

/-- CSET (R247). -/
def execCset (i : Iss) (q : Queue) (cmp : BitVec 2) (k : BitVec 3) (cond : BitVec 3) (value : W16) (s : State) :
    Host.Outcome State Fault Refusal :=
  issueEngine (.cset i q cmp k cond value) i q (effCset cmp k cond value) s

/-- WCLAIM (R244). -/
def execWclaim (i : Iss) (q : Queue) (wct : BitVec 4) (n1 : BitVec 8) (k : BitVec 3) (cmp : BitVec 2) (cen : Bool) (s : State) :
    Host.Outcome State Fault Refusal :=
  issueEngine (.wclaim i q wct n1 k cmp cen) i q (effWclaim wct n1 k cmp cen) s

/-- WRST (R244). -/
def execWrst (i : Iss) (q : Queue) (wct : BitVec 4) (limit : W16) (s : State) :
    Host.Outcome State Fault Refusal :=
  issueEngine (.wrst i q wct limit) i q (effWrst wct limit) s

/-- MM (R112 to R123): it holds its core until its buffers are ready. -/
def execMm (i : Iss) (f : MmF) (s : State) :
    Host.Outcome State Fault Refusal :=
  issueEngine (.mm i f) i .me (effMm i f) s

/-- WFILL (R109). -/
def execWfill (i : Iss) (f : WfillF) (s : State) :
    Host.Outcome State Fault Refusal :=
  issueEngine (.wfill i f) i .me (effWfill i f) s

/-- TLOAD (R109, R111). -/
def execTload (i : Iss) (f : TloadF) (s : State) :
    Host.Outcome State Fault Refusal :=
  issueEngine (.tload i f) i .me (effTload i f) s

/-- SMIX (R131, R139). -/
def execSmix (i : Iss) (f : SeF) (s : State) :
    Host.Outcome State Fault Refusal :=
  issueEngine (.smix i f) i .se (effSmix i f) s

/-- SOUT (R139). -/
def execSout (i : Iss) (f : SeF) (s : State) :
    Host.Outcome State Fault Refusal :=
  issueEngine (.sout i f) i .se (effSout i f) s

/-- SCARRY (R133, R139). -/
def execScarry (i : Iss) (f : SeF) (s : State) :
    Host.Outcome State Fault Refusal :=
  issueEngine (.scarry i f) i .se (effScarry i f) s

/-- VMOV. -/
def execVmov (i : Iss) (f : VArithF) (s : State) :
    Host.Outcome State Fault Refusal :=
  issueEngine (.vmov i f) i .ve (effLanes laneVmov 4 i f) s

/-- VADD. -/
def execVadd (i : Iss) (f : VArithF) (s : State) :
    Host.Outcome State Fault Refusal :=
  issueEngine (.vadd i f) i .ve (effLanes laneVadd 4 i f) s

/-- VSUB. -/
def execVsub (i : Iss) (f : VArithF) (s : State) :
    Host.Outcome State Fault Refusal :=
  issueEngine (.vsub i f) i .ve (effLanes laneVsub 4 i f) s

/-- VMUL. -/
def execVmul (i : Iss) (f : VArithF) (s : State) :
    Host.Outcome State Fault Refusal :=
  issueEngine (.vmul i f) i .ve (effLanes laneVmul 4 i f) s

/-- VMAC. -/
def execVmac (i : Iss) (f : VArithF) (s : State) :
    Host.Outcome State Fault Refusal :=
  issueEngine (.vmac i f) i .ve (effLanes laneVmac 5 i f) s

/-- VMAX. -/
def execVmax (i : Iss) (f : VArithF) (s : State) :
    Host.Outcome State Fault Refusal :=
  issueEngine (.vmax i f) i .ve (effLanes laneVmax 4 i f) s

/-- VMIN. -/
def execVmin (i : Iss) (f : VArithF) (s : State) :
    Host.Outcome State Fault Refusal :=
  issueEngine (.vmin i f) i .ve (effLanes laneVmin 4 i f) s

/-- VABS. -/
def execVabs (i : Iss) (f : VArithF) (s : State) :
    Host.Outcome State Fault Refusal :=
  issueEngine (.vabs i f) i .ve (effLanes laneVabs 4 i f) s

/-- VNEG. -/
def execVneg (i : Iss) (f : VArithF) (s : State) :
    Host.Outcome State Fault Refusal :=
  issueEngine (.vneg i f) i .ve (effLanes laneVneg 4 i f) s

/-- VCLP. -/
def execVclp (i : Iss) (f : VArithF) (s : State) :
    Host.Outcome State Fault Refusal :=
  issueEngine (.vclp i f) i .ve (effLanes laneVclp 4 i f) s

/-- VCMP. -/
def execVcmp (i : Iss) (f : VArithF) (s : State) :
    Host.Outcome State Fault Refusal :=
  issueEngine (.vcmp i f) i .ve (effLanes laneVcmp 4 i f) s

/-- VSEL. -/
def execVsel (i : Iss) (f : VArithF) (s : State) :
    Host.Outcome State Fault Refusal :=
  issueEngine (.vsel i f) i .ve (effLanes laneVsel 4 i f) s

/-- VCRV (R188, R189). -/
def execVcrv (i : Iss) (f : VArithF) (s : State) :
    Host.Outcome State Fault Refusal :=
  issueEngine (.vcrv i f) i .ve (effLanes laneVcrv 6 i f) s

/-- VCONV (R185, R186). -/
def execVconv (i : Iss) (f : VConvF) (s : State) :
    Host.Outcome State Fault Refusal :=
  issueEngine (.vconv i f) i .ve (effVconv i f) s

/-- VRSUM (R192). -/
def execVrsum (i : Iss) (f : VRedF) (s : State) :
    Host.Outcome State Fault Refusal :=
  issueEngine (.vrsum i f) i .ve (effReduce redSum i f) s

/-- VRSSQ (R192). -/
def execVrssq (i : Iss) (f : VRedF) (s : State) :
    Host.Outcome State Fault Refusal :=
  issueEngine (.vrssq i f) i .ve (effReduce redSsq i f) s

/-- VRMAX (R192). -/
def execVrmax (i : Iss) (f : VRedF) (s : State) :
    Host.Outcome State Fault Refusal :=
  issueEngine (.vrmax i f) i .ve (effReduce redMax i f) s

/-- VLD (R177, R181). -/
def execVld (i : Iss) (f : VMemF) (s : State) :
    Host.Outcome State Fault Refusal :=
  issueEngine (.vld i f) i .ve (effVld i f) s

/-- VST (R177, R181). -/
def execVst (i : Iss) (f : VMemF) (s : State) :
    Host.Outcome State Fault Refusal :=
  issueEngine (.vst i f) i .ve (effVst i f) s

/-- VIB (R184). -/
def execVib (i : Iss) (f : VibF) (s : State) :
    Host.Outcome State Fault Refusal :=
  issueEngine (.vib i f) i .ve (effVib i f) s

/-- VFT (R182, R183). -/
def execVft (i : Iss) (f : VftF) (s : State) :
    Host.Outcome State Fault Refusal :=
  issueEngine (.vft i f) i .ve (effVft i f) s

/-- VTOPK (R193, R194). -/
def execVtopk (i : Iss) (f : VTopkF) (s : State) :
    Host.Outcome State Fault Refusal :=
  issueEngine (.vtopk i f) i .ve (effVtopk i f) s

/-- VWADD (R195). -/
def execVwadd (i : Iss) (f : VWaddF) (s : State) :
    Host.Outcome State Fault Refusal :=
  issueEngine (.vwadd i f) i .ve (effVwadd i f) s

/-- VCTL (R190). -/
def execVctl (i : Iss) (f : VCtlF) (s : State) :
    Host.Outcome State Fault Refusal :=
  issueEngine (.vctl i f) i .ve (effVctl i f) s

/-- DMOVE (R258, R429); with RESGATE it holds its core until its packet's streams are resident (R161). -/
def execDmove (i : Iss) (f : DmoveF) (s : State) :
    Host.Outcome State Fault Refusal :=
  issueEngine (.dmove i f) i .de (effDmove i f) s

/-- DMOVEX (R230, R429). -/
def execDmovex (i : Iss) (f : DmovexF) (s : State) :
    Host.Outcome State Fault Refusal :=
  issueEngine (.dmovex i f) i .de (effDmovex i f) s

/-- DREMOTE (R213). -/
def execDremote (i : Iss) (f : DremoteF) (s : State) :
    Host.Outcome State Fault Refusal :=
  issueEngine (.dremote i f) i .de (effDremote i f) s

/-- DCRET (R214). -/
def execDcret (i : Iss) (f : DcretF) (s : State) :
    Host.Outcome State Fault Refusal :=
  issueEngine (.dcret i f) i .de (effDcret i f) s

/-- DMEM (R235, R429). -/
def execDmem (i : Iss) (f : DmemF) (s : State) :
    Host.Outcome State Fault Refusal :=
  issueEngine (.dmem i f) i .de (effDmem i f) s

/-- DGATHER (R206). -/
def execDgather (i : Iss) (f : DgatherF) (s : State) :
    Host.Outcome State Fault Refusal :=
  issueEngine (.dgather i f) i .de (effDgather i f) s

/-! ### Events of the data mover and the inbound buffer -/

/-- The work of a DMEM that completes: that of the tick whose command it is (R23, R101, R235). -/
def dmemWork (s : State) (c : BitVec 3) : Work :=
  let w := eventWork s c .de
  match takeDmem s.dp (vget s.dp.cores c).dmem with
  | some (x, _) => { w with tick := x.tick, pitIn := pitOfTick s x.tick, spec := specTick s x.tick }
  | none => w

/-- The packet of the DMEM that completes. -/
def dmemPkt (s : State) (c : BitVec 3) : Nat :=
  match takeDmem s.dp (vget s.dp.cores c).dmem with | some (x, _) => x.pkt | none => 0

/-- DMEM_COMPLETE (R235, R404): the core's oldest admitted DMEM completes with MEM's response and, for a read, its bytes. -/
def execDmemComplete (core : BitVec 3) (resp : BitVec 2) (data : List Byte) (s : State) :
    Host.Outcome State Fault Refusal :=
  let n := s.dp.landings.length
  let w := (effDmemComplete resp data (dmemWork s core)).dropLate n
  let e := w.endsIn n
  let d := if e = 0 then w.d else w.d.modCore core (fun x => x.packetEnds w.tick (dmemPkt s core) (s.dp.cycle + e))
  .next (takeReports (lateWrites { s with dp := d } core w.tick w.lateRows) w.reps)

/-- INBOUND_ROW_LAND (R200, R210, R215, R216): the first row of the core's inbound buffer lands, or a row from outside the
core's DEs reaches its memory. -/
def execInboundRowLand (core : BitVec 3) (row : Option OutRow) (s : State) : Host.Outcome State Fault Refusal :=
  let r := match row with
    | none => landInbound s.dp core
    | some o => landRow s.dp core { src := o.src, row := some o.row.toNat, data := o.data, flag := none }
  .next (takeReports { s with dp := r.1 } r.2)

end Sys2Proof.Machine
end

