-- ==== Sys2Proof/Machine/CheckUnits.lean ====
section
/-!
DEFINITION. Machine/CheckUnits: the check units (15_check_units R315 to R323): the computation, feeds and presets, the checks
the device forms with them, and the meanings of START, PRESET, DATA_B, DATA_H, DATA_W, ROW_FEED and RUN_WRITE.
-/
namespace Sys2Proof.Machine

/-! ### The computation (R316) -/

/-- The n low bits in reverse order. -/
def reflectBits (n v : Nat) : Nat := (List.range n).foldl (fun a i => 2 * a + (v / 2 ^ i) % 2) 0

/-- One step of the register: the shift, with the polynomial where the top bit leaves. -/
def crcShift (w poly reg : Nat) : Nat :=
  if reg.testBit (w - 1) then (2 * reg % 2 ^ w) ^^^ (poly % 2 ^ w) else 2 * reg % 2 ^ w

def crcShifts (w poly : Nat) : Nat → Nat → Nat
  | 0, reg => reg
  | k + 1, reg => crcShifts w poly k (crcShift w poly reg)

/-- One byte absorbed. -/
def crcByte (w poly : Nat) (refin : Bool) (reg b : Nat) : Nat :=
  crcShifts w poly 8 (reg ^^^ ((if refin then reflectBits 8 b else b) * 2 ^ (w - 8)))

/-- A byte string absorbed. -/
def crcBytes (w poly : Nat) (refin : Bool) (reg : Nat) (bs : List Byte) : Nat :=
  bs.foldl (fun r b => crcByte w poly refin r b.toNat) reg

/-- The result of a register value: reflected and inverted as configured. -/
def crcResult (w : Nat) (refout inv : Bool) (reg : Nat) : Nat :=
  let r := if refout then reflectBits w reg else reg
  if inv then r ^^^ (2 ^ w - 1) else r

/-- The four bytes of a fold word, least significant first (R317). -/
def foldBytes (f : W32) : List Byte := (List.range 4).map (fun i => f.extractLsb' (8 * i) 8)

/-! ### Units -/

/-- A byte string absorbed by a unit. -/
def Cu.absorb (u : Cu) (bs : List Byte) : Cu :=
  { u with run := BitVec.ofNat 64 (crcBytes u.width.toNat u.poly.toNat u.refin u.run.toNat bs), fresh := false }

/-- RESULT (R320); as Table 15-3 resets it until something has set RUN or the configuration (DEDUCED, log 37). -/
def Cu.result (u : Cu) : W64 := if u.fresh then 0 else BitVec.ofNat 64 (crcResult u.width.toNat u.refout u.inv (u.run.toNat % 2 ^ u.width.toNat))

/-- START: INIT into reg, COUNT 0, and the fold where enabled, in 4 cycles (R317). -/
def Cu.start (u : Cu) (src : Bool) (fold : W32) (now : Nat) : Cu :=
  let u := { u with src := src, fold := fold, run := BitVec.ofNat 64 (u.init.toNat % 2 ^ u.width.toNat), count := 0, fresh := false }
  if u.foldEn then { u.absorb (foldBytes fold) with busyTo := max u.busyTo now + 4 } else u

/-- A feed of k cycles from a source; one from the source not selected changes nothing and sets FEED_ERR (R318, R319). A
feed while the unit absorbs holds its owner until the unit is free. -/
def Cu.feed (u : Cu) (row : Bool) (bs : List Byte) (k now : Nat) : Cu :=
  if u.src = row then
    { u.absorb bs with count := u.count + BitVec.ofNat 32 bs.length, busyTo := max u.busyTo now + k }
  else { u with feedErr := true }

/-- PRESET (Table 15-1). -/
def Cu.preset (u : Cu) (p : BitVec 2) : Cu :=
  match p.toNat with
  | 0 => u
  | 2 => { u with fresh := false, width := 64, poly := 0x42F0E1EBA9EA3693, init := 0xFFFFFFFFFFFFFFFF, refin := true, refout := true,
                  inv := true, foldEn := true }
  | k => { u with fresh := false, width := 32, poly := 0x1EDC6F41, init := 0xFFFFFFFF, refin := true, refout := true, inv := true,
                  foldEn := k == 1 }

/-- A unit of the state: two of each core and four of the device, as R315 and the offsets of Table 15-3 say, where R2 counts twelve in
all (DESIGN CHOICE, log 117); none for a unit of a core that is absent (R315). -/
def getUnit (s : State) : UnitId → Option Cu
  | .cu c u => if corePresent s c then some (vget s.cus (BitVec.ofNat 4 (2 * c.toNat + u.toNat))) else none
  | .du d => some (vget s.dus d)

def setUnit (s : State) (u : UnitId) (x : Cu) : State :=
  match u with
  | .cu c k => { s with cus := vset s.cus (BitVec.ofNat 4 (2 * c.toNat + k.toNat)) x }
  | .du d => { s with dus := vset s.dus d x }

/-- A unit changed; a unit of a fused core ignores writes. -/
def modUnit (s : State) (u : UnitId) (f : Cu → Cu) : State :=
  match getUnit s u with | some x => setUnit s u (f x) | none => s

/-! ### Checks the device forms (R322, Table 15-2) -/

/-- A check formed on DUd with a preset, a fold word and a byte string: its result, and the unit as the message leaves it. -/
def formCheck (s : State) (d : BitVec 2) (p : BitVec 2) (row : Bool) (fold : W32) (bs : List Byte) : Nat × State :=
  let u := ((vget s.dus d).preset p).start row fold s.dp.cycle
  let u := { u.absorb bs with count := BitVec.ofNat 32 bs.length }
  (u.result.toNat, { s with dus := vset s.dus d u })

/-! ### The commands -/

/-- START (R317, R319). -/
def execStart (u : UnitId) (src : Bool) (fold : W32) (s : State) : Host.Outcome State Fault Refusal :=
  .next (modUnit s u (fun x => x.start src fold s.dp.cycle))

/-- PRESET (R321). -/
def execPreset (u : UnitId) (p : BitVec 2) (s : State) : Host.Outcome State Fault Refusal :=
  .next (modUnit s u (fun x => x.preset p))

/-- DATA_B: one byte, one cycle (R318). -/
def execDataB (u : UnitId) (b : Byte) (s : State) : Host.Outcome State Fault Refusal :=
  .next (modUnit s u (fun x => x.feed false [b] 1 s.dp.cycle))

/-- DATA_H: two bytes, the least significant first, two cycles. -/
def execDataH (u : UnitId) (h : W16) (s : State) : Host.Outcome State Fault Refusal :=
  .next (modUnit s u (fun x => x.feed false [h.extractLsb' 0 8, h.extractLsb' 8 8] 2 s.dp.cycle))

/-- DATA_W: four bytes, the least significant first, four cycles. -/
def execDataW (u : UnitId) (v : W32) (s : State) : Host.Outcome State Fault Refusal :=
  .next (modUnit s u (fun x => x.feed false (foldBytes v) 4 s.dp.cycle))

/-- Row feed exists on DU0 and DU1 only (R319). -/
def hasRowFeed : UnitId → Bool
  | .du d => decide (d.toNat ≤ 1)
  | _ => false

/-- ROW_FEED: bytes in address order, 64 a cycle (R318). -/
def execRowFeed (u : UnitId) (data : List Byte) (s : State) : Host.Outcome State Fault Refusal :=
  .next (modUnit s u (fun x => if hasRowFeed u then x.feed true data ((data.length + 63) / 64) s.dp.cycle
    else { x with feedErr := true }))

/-- RUN_WRITE: RUN or COUNT replaced; no message starts (R320). -/
def execRunWrite (u : UnitId) (run : Option W64) (count : Option W32) (s : State) : Host.Outcome State Fault Refusal :=
  .next (modUnit s u (fun x => { x with run := run.getD x.run, count := count.getD x.count, fresh := x.fresh && run.isNone }))

end Sys2Proof.Machine
end

