-- ==== Sys2Proof/Machine/Rings.lean ====
section
/-!
DEFINITION. Machine/Rings: the host rings (14_host_rings R290 to R296, R302, R306 to R308): doorbells, ring enables, heads,
records posted to a ring, their writing, completion records, events, and the error FIFO's drain (R343).
-/
namespace Sys2Proof.Machine

/-! ### Rings -/

/-- The value's bits as n bytes, the least significant first. -/
def bytesOf (n : Nat) (v : Nat) : List Byte := (leBytes n v)

/-- A produced ring; none for a submission ring. -/
def getRing (s : State) : RingId → Option PRing
  | .cq m => some (vget s.hif.cqs m)
  | .evt => some s.hif.evt
  | .err => some s.hif.err
  | .log => some s.hif.log
  | .sq _ => none

def setRing (s : State) (id : RingId) (r : PRing) : State :=
  match id with
  | .cq m => { s with hif := { s.hif with cqs := vset s.hif.cqs m r } }
  | .evt => { s with hif := { s.hif with evt := r } }
  | .err => { s with hif := { s.hif with err := r } }
  | .log => { s with hif := { s.hif with log := r } }
  | .sq _ => s

/-- A produced ring changed. -/
def modRing (s : State) (id : RingId) (f : PRing → PRing) : State :=
  match getRing s id with | some r => setRing s id (f r) | none => s

/-- Entries of a ring. -/
def PRing.size (r : PRing) : Nat := 2 ^ r.sizeLog2.toNat
def SqRing.size (r : SqRing) : Nat := 2 ^ r.sizeLog2.toNat

/-- (a − b) mod n. -/
def modSub (a b n : Nat) : Nat := (a % n + n - b % n) % n

/-- Unconsumed entries (R293). -/
def PRing.held (r : PRing) : Nat := modSub r.tail.toNat r.head.toNat r.size

/-- A disabled ring counts as full (R293). -/
def PRing.full (r : PRing) : Bool := !r.enable || decide (r.size - 1 ≤ r.held)

/-- The ring has room for one record beyond those waiting. -/
def PRing.room (r : PRing) : Bool := r.enable && decide (r.held + r.waiting.length < r.size - 1)

/-- Descriptors present on a submission ring (R292). -/
def SqRing.present (r : SqRing) : Nat := if r.enable then modSub r.db.toNat r.head.toNat r.size else 0

/-- Bytes of an entry (Table 14-1). -/
def entryBytes (s : State) (id : RingId) : Nat :=
  match id with
  | .cq m => if (vget s.hif.cqs m).kind then s.hif.outRecsz.toNat else 32
  | .log => 64
  | .sq _ => 64
  | _ => 32

/-- A ring's base address. -/
def PRing.base (r : PRing) : Nat := 4096 * r.baseLo.toNat + 2 ^ 32 * r.baseHi.toNat
def SqRing.base (r : SqRing) : Nat := 4096 * r.baseLo.toNat + 2 ^ 32 * r.baseHi.toNat

/-! ### Posting records -/

/-- A record joins a ring. A tick's record that meets a ring disabled by an error response is discarded unless a journal is
kept (R350). -/
def postRecord (s : State) (id : RingId) (rec : RingRec) : State :=
  modRing s id (fun r =>
    if rec.tick && r.dead && !s.err.jrnlActive then r else { r with waiting := r.waiting ++ [rec] })

/-- A completion record (Table 14-5). -/
def completionBytes (status : Byte) (type : Byte) (group : Nat) (last : Bool) (sq : BitVec 4) (tag : W32) (seq : W64)
    (bitmap coreStatus : W64) : List Byte :=
  [status, type, BitVec.ofNat 8 (group + 8 * last.toNat + 16 * sq.toNat), 0] ++ bytesOf 4 tag.toNat ++ bytesOf 8 seq.toNat ++
    bytesOf 8 bitmap.toNat ++ bytesOf 8 coreStatus.toNat

/-- A completion record goes to the completion ring of its submission ring (R290). -/
def postCompletion (s : State) (sq : BitVec 4) (bytes : List Byte) (tick : Bool) : State :=
  postRecord s (.cq (vget s.hif.sqs sq).cq) { bytes := bytes, phaseAt := 3, offered := false, ticket := none, tick := tick }

/-- BITMAP of a descriptor that is not a TICK: reason, and stream ID or 0xFFFF. -/
def reasonBits (reason : Nat) (stream : W16) : W64 := BitVec.ofNat 64 (reason + 65536 * stream.toNat)

/-- One completion record for a descriptor of another type (R304). -/
def complete (s : State) (sq : BitVec 4) (type : Byte) (tag : W32) (seq : W64) (status : BitVec 7) (reason : Nat)
    (stream : W16) : State :=
  postCompletion s sq (completionBytes (status.zeroExtend 8) type 0 true sq tag seq (reasonBits reason stream) 0) false

/-- An event record (R306): discarded and counted when the event ring is full (R293). Bytes 8 to 15 take the newest tick
sequence number when it is written. -/
def postEvent (s : State) (code : Byte) (data0 : W32) (data1 : List Byte) : State :=
  if s.hif.evt.room then
    postRecord s .evt { bytes := [code, 0, 0, 0] ++ bytesOf 4 data0.toNat ++ List.replicate 8 0 ++ padTo 16 data1,
                        phaseAt := 1, offered := false, ticket := none, tick := false }
  else { s with hif := { s.hif with evtLost := s.hif.evtLost + 1 } }

/-- A SERVICE event (Table 14-6). -/
def postService (s : State) : State := postEvent s 4 (s.fwr.fw.level.zeroExtend 32) []

/-- A MEM_RESP report (Table 17-1): address, response, port and use. -/
def memRespAt (addr : Nat) (resp : BitVec 2) (port : Bool) (use : Nat) : Report :=
  { deviceReport 11 8 (if port then 10 else 9) (BitVec.ofNat 32 (addr / 256))
      (BitVec.ofNat 32 (resp.toNat + 4 * port.toNat + 16 * use)) with rollback := false }

/-! ### Writing records (R293 to R295) -/

/-- The bytes as written: PHASE, the newest sequence number of an event, and the SLOE modifier of a completion record that
is not a tick's (R294, R306, R331). -/
def recordBytes (s : State) (id : RingId) (r : PRing) (x : RingRec) : List Byte :=
  let b := x.bytes.set x.phaseAt ((byteOr0 x.bytes x.phaseAt) ||| BitVec.ofNat 8 r.phase.toNat)
  match id with
  | .evt => b.take 8 ++ bytesOf 8 s.tkc.seq.toNat ++ b.drop 16
  | .cq _ => if !x.tick && s.fwr.fw.level == 1 && !r.kind then b.set 0 (byteOr0 b 0 ||| 0x80) else b
  | _ => b
where byteOr0 (l : List Byte) (i : Nat) : Byte := l.getD i 0

/-- TAIL advances, and the phase toggles on the wrap (R293, R294). -/
def PRing.advance (r : PRing) : PRing :=
  let t := (r.tail.toNat + 1) % r.size
  { r with tail := BitVec.ofNat 12 t, phase := if t = 0 then !r.phase else r.phase, waiting := r.waiting.drop 1 }

/-- Records of a tick wait in the output ring. -/
def outputsWait (s : State) : Bool := (vget s.hif.cqs s.hif.outRing).waiting.any (fun x => x.tick)

/-- The first record of a ring may be written: the ring has room, and a tick's completion record follows every output record
it covers (R43, R303). -/
def mayWrite (s : State) (id : RingId) (r : PRing) (x : RingRec) : Bool :=
  !r.full && (match id with
    | .cq m => !(x.tick && m != s.hif.outRing && outputsWait s)
    | _ => true)

/-- The response of a ring entry's last beat was an error (R295, R350): the ring is disabled; records of a tick are kept with
a journal and discarded without; events are discarded. -/
def ringError (s : State) (id : RingId) (r : PRing) (resp : BitVec 2) : State :=
  let kept := match id with
    | .cq _ => if s.err.jrnlActive then r.waiting else r.waiting.filter (fun x => !x.tick)
    | .evt => []
    | _ => r.waiting
  let lost := if id = .evt then r.waiting.length else 0
  let addr := r.base + entryBytes s id * r.tail.toNat
  let s := setRing s id { r with enable := false, dead := true, waiting := kept }
  let s := { s with hif := { s.hif with memErr := true, evtLost := s.hif.evtLost + BitVec.ofNat 32 lost } }
  takeReport s (memRespAt addr resp r.port 0)

/-- The entry is in memory. -/
def ringWritten (s : State) (id : RingId) (r : PRing) (x : RingRec) : State :=
  let addr := r.base + entryBytes s id * r.tail.toNat
  let bytes := padTo (entryBytes s id) (recordBytes s id r x)
  let s := setRing s id r.advance
  let s := { s with dp := { s.dp with ext := memWrite s.dp.ext addr bytes } }
  if id = .err then { s with err := { s.err with fifo := s.err.fifo.drop 1 } } else s

/-- A record is offered to the ring meter once (R45, R46). -/
def offerRecord (s : State) (id : RingId) (r : PRing) (x : RingRec) : State × Bool :=
  if x.offered then (s, !meterHolds s.dp 10 x.ticket)
  else
    let m := meterOffer s.dp 10 (entryBytes s id) false
    let s := setRing { s with dp := m.2 } id { r with waiting := { x with offered := true, ticket := m.1 } :: r.waiting.drop 1 }
    (s, m.1.isNone)

/-- The first waiting record of a ring is written, as meter and ring room allow. -/
def writeEntry (s : State) (id : RingId) (resp : BitVec 2) : State :=
  match getRing s id with
  | none => s
  | some r =>
    match r.waiting with
    | [] => s
    | x :: _ =>
      if !mayWrite s id r x then s else
      let o := offerRecord s id r x
      if !o.2 then o.1 else
      match getRing o.1 id with
      | none => o.1
      | some r => if 2 ≤ resp.toNat then ringError o.1 id r resp else ringWritten o.1 id r x

/-! ### Error FIFO (R343) -/

/-- An error record (Table 17-2). -/
def errBytes (e : ErrEntry) : List Byte :=
  [e.rep.status.zeroExtend 8, e.rep.cls.zeroExtend 8, BitVec.ofNat 8 (e.rep.unit.toNat + 16 * e.rep.queue.toNat),
   BitVec.ofNat 8 (2 * e.rep.rollback.toNat + 4 * e.rep.restart.toNat + 8 * e.unrecov.toNat), coreByte e.rep.core, 0] ++
  bytesOf 2 e.repeats.toNat ++ bytesOf 8 e.seq.toNat ++ bytesOf 4 e.time.toNat ++ bytesOf 4 e.rep.info0.toNat ++
  bytesOf 4 e.rep.info1.toNat ++ bytesOf 4 0

/-- The SP reads the next entry for writing: it closes and is charged, unless ring or meter keep it in the FIFO. -/
def drainFifo (s : State) : State :=
  let r := s.hif.err
  let k := r.waiting.length
  match s.err.fifo[k]? with
  | none => s
  | some e =>
    if !r.room then s else
    let m := meterAsk s.dp 10 32 s.err.fifoTicket
    let s := { s with dp := m.2.2, err := { s.err with fifoTicket := m.2.1 } }
    if !m.1 then s else
    let s := { s with err := { s.err with fifo := s.err.fifo.set k { e with opened := false, charged := true } } }
    postRecord s .err { bytes := errBytes e, phaseAt := 3, offered := true, ticket := none, tick := false }

/-- ERROR_FIFO_DRAIN. -/
def execErrorFifoDrain (s : State) : Host.Outcome State Fault Refusal := .next (drainFifo s)

/-- ERR_CLS_CLR (Table 17-6). -/
def clearClasses (e : Err) (mask : W16) : Err :=
  { e with cls := (List.range 16).foldl (fun (v : Vector ClsRec (2 ^ 4)) k =>
      if mask.getLsbD k then vset v (BitVec.ofNat 4 k) ⟨0, 0, 0, 0xFF, 0xFF⟩ else v) e.cls }

def execErrClsClr (mask : W16) (s : State) : Host.Outcome State Fault Refusal :=
  .next { s with err := clearClasses s.err mask }

/-! ### Doorbells, enables and heads -/

/-- HIF_DB (R292): the tail of an enabled ring, below its size; else the write is ignored and HIF_DB_ERR set. -/
def doorbell (s : State) (n : BitVec 4) (value : W32) : State :=
  let r := vget s.hif.sqs n
  let v := value.toNat % 4096
  if r.enable && decide (v < r.size) then
    { s with hif := { s.hif with sqs := vset s.hif.sqs n { r with db := BitVec.ofNat 12 v } } }
  else { s with hif := { s.hif with dbErr := true } }

def execHifDb (n : BitVec 4) (value : W32) (s : State) : Host.Outcome State Fault Refusal := .next (doorbell s n value)

/-- SIZE_LOG2 from 4 to 12 (R291). -/
def sizeOk (k : BitVec 4) : Bool := decide (4 ≤ k.toNat) && decide (k.toNat ≤ 12)

/-- A submission ring's configuration write; whether it was ignored. -/
def SqRing.configure (r : SqRing) (v : W32) : SqRing × Bool :=
  let size := v.extractLsb' 0 4
  let port := v.getLsbD 5
  let cq := v.extractLsb' 8 4
  let en := v.getLsbD 4
  if r.enable then
    if size != r.sizeLog2 || port != r.port || cq != r.cq then (r, true) else ({ r with enable := en }, false)
  else
    let x := { r with sizeLog2 := size, port := port, cq := cq }
    if !en then (x, false)
    else if sizeOk size then ({ x with enable := true, head := 0, db := 0, seq := 0 }, false) else (x, true)

/-- A produced ring's configuration write; KIND exists on completion-class rings only. -/
def PRing.configure (r : PRing) (isCq : Bool) (v : W32) : PRing × Bool :=
  let size := v.extractLsb' 0 4
  let port := v.getLsbD 5
  let kind := isCq && v.getLsbD 6
  let irq := v.getLsbD 7
  let en := v.getLsbD 4
  if r.enable then
    if size != r.sizeLog2 || port != r.port || kind != r.kind then (r, true) else ({ r with enable := en, irq := irq }, false)
  else
    let x := { r with sizeLog2 := size, port := port, kind := kind, irq := irq }
    if !en then (x, false)
    else if sizeOk size then ({ x with enable := true, head := 0, tail := 0, phase := true, dead := false }, false)
    else (x, true)

/-- RING_ENABLE (R291): a write of a ring's configuration register. -/
def ringConfig (s : State) (id : RingId) (v : W32) : State :=
  let ign := fun (b : Bool) (s : State) => if b then { s with hif := { s.hif with wrIgn := true } } else s
  match id with
  | .sq n =>
    let x := (vget s.hif.sqs n).configure v
    ign x.2 { s with hif := { s.hif with sqs := vset s.hif.sqs n x.1 } }
  | _ =>
    match getRing s id with
    | none => s
    | some r =>
      let x := r.configure (match id with | .cq _ => true | _ => false) v
      ign x.2 (setRing s id x.1)

def execRingEnable (id : RingId) (value : W32) (s : State) : Host.Outcome State Fault Refusal := .next (ringConfig s id value)

/-- HEAD (R295): the driver's index of a ring the device produces; that of a submission ring reads only. -/
def writeHead (s : State) (id : RingId) (value : BitVec 12) : State := modRing s id (fun r => { r with head := value })

def execHead (id : RingId) (value : BitVec 12) (s : State) : Host.Outcome State Fault Refusal := .next (writeHead s id value)

/-- Interrupt sources (R308): IRQ_CMPL, IRQ_ERR, IRQ_EVT. -/
def irqSources (h : Hif) : BitVec 3 :=
  let held := fun (r : PRing) => r.held != 0
  BitVec.ofNat 3 ((h.cqs.toList.any (fun r => r.irq && held r)).toNat + 2 * (held h.err).toNat +
    4 * ((h.evt.irq && held h.evt) || (h.log.irq && held h.log)).toNat)

/-- The interrupt lines. -/
def irqLines (h : Hif) : BitVec 3 := irqSources h &&& h.irqMask

/-! ### Taking a descriptor (R296, R297) -/

/-- The SP takes the descriptor at a ring's head. -/
def takeHead (s : State) (n : BitVec 4) : State :=
  let r := vget s.hif.sqs n
  let x := { r with head := BitVec.ofNat 12 ((r.head.toNat + 1) % r.size), seq := r.seq + 1 }
  { s with hif := { s.hif with sqs := vset s.hif.sqs n x } }

/-- FOLD of a descriptor check: n × 2^28 + (q mod 2^28). -/
def descFold (n : BitVec 4) (q : W64) : W32 := BitVec.ofNat 32 (n.toNat * 2 ^ 28 + q.toNat % 2 ^ 28)

/-- A refused descriptor's DESC report (Table 17-1). -/
def descReport (status : BitVec 7) (tag : W32) (n : BitVec 4) (q : W64) : Report :=
  deviceReport 10 status 2 tag (BitVec.ofNat 32 (n.toNat + 16 * (q.toNat % 2 ^ 28)))

/-- The first two checks of R297 on bytes 0x00 to 0x3B, on DU0: DESC_CRC for the CRC, BOUND_VIOLATION for the type. -/
def checkDesc (s : State) (n : BitVec 4) (q : W64) (bytes : List Byte) (crc : W32) (typeOk : Bool) :
    Option (BitVec 7) × State :=
  let c := formCheck s 0 1 false (descFold n q) bytes
  let s := c.2
  if c.1 ≠ crc.toNat then
    (some 0x10, { s with hif := { s.hif with crcCnt := s.hif.crcCnt + 1 } })
  else if !typeOk then (some 8, s)
  else (none, s)

end Sys2Proof.Machine
end

