-- ==== Sys2Proof/Machine/Streams.lean ====
section
/-!
DEFINITION. Machine/Streams: the stream table (07_stream_state R148 to R170): slots of the state area, the state-management
descriptors, state images, init images, and the residency gate's resolution (R163).
-/
namespace Sys2Proof.Machine

/-! ### The state area (R153 to R156) -/

/-- Rows of a stream's own adapter weights in a slot: those of the heads with own adapters. -/
def ownAdapterRows (p : Package) : Nat := ((p.adapters.filter (fun a => a.group.isNone)).map adapterRows).sum

/-- First own-adapter row of a slot: the last rows before the stream record. -/
def adapterOfs (p : Package) : Nat := slotRows p - 1 - ownAdapterRows p

/-- Allocated spans of the state area: slot pairs, init slots, init slots being filled, group pairs. -/
def usedSpans (s : State) (p : Package) : List (Nat × Nat) :=
  s.sp.streams.flatMap (fun x =>
    (match x.slot with | some b => [(b, 2 * slotRows p)] | none => []) ++
    (match x.init with | some b => [(b, p.slotState)] | none => []) ++
    (match x.initJob with | some j => [(j.slot, p.slotState)] | none => [])) ++
  s.sp.groups.filterMap (fun g => (groupAdapter p g.group).map (fun a => (g.slot, 2 * adapterRows a)))

/-- A span of n rows at b meets none of the spans. -/
def spanFree (used : List (Nat × Nat)) (b n : Nat) : Bool :=
  used.all (fun u => decide (b + n ≤ u.1) || decide (u.1 + u.2 ≤ b))

/-- The lowest free span of n rows in an area. -/
def allocIn (used : List (Nat × Nat)) (base rows n : Nat) : Option Nat :=
  ((base :: used.map (fun u => u.1 + u.2)).filter (fun b =>
    decide (base ≤ b) && decide (b + n ≤ base + rows) && spanFree used b n)).foldl (fun a b => minWait a (some b)) none

/-- n free rows of the state area. -/
def allocRows (s : State) (n : Nat) : Option Nat :=
  match taskPkg s with
  | none => none
  | some p => allocIn (usedSpans s p) p.stateBase p.stateRows n

/-- The lowest free place of the Bloom area, three Bloom slots (R270). -/
def allocBloom (s : State) (p : Package) : Option Nat :=
  if p.bloomMap.isEmpty then none
  else allocIn (s.sp.streams.filterMap (fun x => x.bloom.map (fun b => (b, 3 * bloomRows p)))) p.bloomBase
    (3 * bloomRows p * (p.stateRows / max 1 (2 * slotRows p))) (3 * bloomRows p)

/-- FWR_STM_FREE_ROWS. -/
def freeRows (s : State) : Nat :=
  match taskPkg s with
  | none => 0
  | some p => p.stateRows - ((usedSpans s p).map (fun u => u.2)).sum

/-- Orchard rows as the device-level DE gets them, in order: bytes of a granule that does not check are free (R208). -/
def devRows (s : State) (rows : List Nat) : List Byte :=
  rows.zipIdx.flatMap (fun x => eccBytes { s.dp with free := s.dp.free + rowBytes * x.2 } x.1 (rowData s.dp x.1))

/-- n Orchard rows as bytes. -/
def orchardRows (s : State) (b n : Nat) : List Byte := devRows s ((List.range n).map (fun k => b + k))

/-- What a read of Orchard rows by the device-level DE does beside delivering them: counters, write-backs to come and reports (R208,
UNIT 3). -/
def noteRows (s : State) (rows : List Nat) : State :=
  let marks := rows.flatMap (rowMarks s.dp)
  if marks.isEmpty then s else
  let d := marks.foldl countEcc (rows.foldl markRead s.dp)
  let d := if marks.any (fun m => m.unc) then { d with free := d.free + rowBytes * rows.length } else d
  takeReports { s with dp := d } (marks.map (fun m => eccReport m 3 0 none))

/-- A narrow read of the SP (R197): n bytes within the granule of byte a of the Orchard, as a number; a granule that does not check gives
a free value and is reported (R208, UNIT 2). -/
def narrowRead (s : State) (a n : Nat) : Nat × State :=
  match s.dp.ecc.find? (fun m => m.gran == a / 16) with
  | none => (memNat s.dp.dev a n, s)
  | some m =>
    let d := countEcc { s.dp with ecc := s.dp.ecc.map (fun x => if x == m && !m.unc then { m with wb := true } else x) } m
    if m.unc then
      ((List.range n).foldr (fun k v => (Config.freeByte (s.dp.free + k)).toNat + 256 * v) 0,
       takeReport { s with dp := { d with free := d.free + n } } (eccReport m 2 0 none))
    else (memNat s.dp.dev a n, takeReport { s with dp := d } (eccReport m 2 0 none))

/-- n consecutive rows noted. -/
def noteSpan (s : State) (b n : Nat) : State := noteRows s ((List.range n).map (fun k => b + k))

/-- Bytes written to consecutive Orchard rows. -/
def writeOrchard (s : State) (b : Nat) (data : List Byte) : State :=
  { s with dp := s.dp.rewrite b ((data.length + rowBytes - 1) / rowBytes) (memWrite s.dp.dev (rowBytes * b) data) }

/-- Pins of a stream (R157). -/
def pinsOf (x : Stream) : Nat := (x.pins.map (fun p => p.2)).sum

/-- Codes of Table 7-1. -/
def lifeCode : Life → BitVec 3
  | .absent => 1 | .arriving => 2 | .resident => 3 | .draining => 4 | .leaving => 5

/-- Streams in states 2 to 5 (R149). -/
def residentCount (s : State) : Nat := (s.sp.streams.filter (fun x => x.life != .absent)).length

/-- The stream record row (R153). -/
def recordRow (seq : W64) (updates : Nat) : List Byte := padTo rowBytes (bytesOf 8 seq.toNat ++ bytesOf 4 updates)

/-- First row of a stream's current slot. -/
def curSlot (p : Package) (x : Stream) : Option Nat := x.slot.map (fun b => b + (if x.cur then slotRows p else 0))

/-- The rows of the committed slot: slot CUR with its Bloom-layer rows taken from Bloom slot BC (R272). -/
def committedList (p : Package) (x : Stream) : List Nat :=
  match curSlot p x with
  | none => []
  | some b =>
    (List.range (slotRows p)).map (fun k =>
      match x.bloom, p.bloomMap.findIdx? (fun r => r == k) with
      | some bb, some j => bb + x.bc.toNat * bloomRows p + j
      | _, _ => b + k)

/-- The committed slot's bytes. -/
def committedRows (s : State) (p : Package) (x : Stream) : List Byte := devRows s (committedList p x)

/-- A slot's rows written into slot 0 of a stream, its Bloom layers into BS0 (R272). -/
def fillSlot (s : State) (p : Package) (x : Stream) (rows : List Byte) : State :=
  match x.slot with
  | none => s
  | some b =>
    let s := writeOrchard s b (padTo (rowBytes * slotRows p) rows)
    match x.bloom with
    | none => s
    | some bb => writeOrchard s bb (p.bloomMap.flatMap (fun k => padTo rowBytes ((rows.drop (rowBytes * k)).take rowBytes)))

/-- A new stream's record (R151): FREE before. -/
def newStream (id : W16) (catchUp : Bool) (adapt : BitVec 2) (group : Byte) : Stream :=
  { id := id, life := .absent, catchUp := catchUp, adapt := adapt, group := group, place := none, placeNext := none,
    pins := [], slot := none, cur := false, bloom := none, bc := 0, init := none, initJob := none, swap := none,
    expSeq := none, seq := 0, lost := false, window := [], nextWindow := [], emb := false,
    embFly := false, embTicket := none, pend := none }

/-- Slots given back: the stream is ABSENT, and what it held of windows and pending updates is discarded (R166, R288). -/
def toAbsent (s : State) (id : W16) : State :=
  let s := (findStream s id).elim s (fun x => rerunLost s x.pend)
  let s := modStream s id (fun x => { x.setLife s.dp.cycle .absent with
                                             slot := none, bloom := none, bc := 0, cur := false, swap := none,
                                             lost := false, pend := none })
  { s with sp := { s.sp with lrn := s.sp.lrn.filter (fun l => l.stream != id) } }

/-! ### Places -/

/-- The index of a PLACE field in the package (R151). -/
def placeIndex (p : Package) (f : W16) : Option Nat :=
  p.places.findIdx? (fun x => x.batch.toNat * 256 + x.pos.toNat == f.toNat)

/-- A PLACE that exists and that no stream is bound to from the next dispatch on (R152). -/
def freePlace (s : State) (f : W16) : Option W16 :=
  match taskPkg s with
  | none => none
  | some p =>
    match placeIndex p f with
    | none => none
    | some i => if s.sp.streams.any (fun x => x.placeNext == some (BitVec.ofNat 16 i)) then none else some (BitVec.ofNat 16 i)

/-! ### Requests -/

/-- What a request comes to: refused with a status and a reason, finished, or under way. -/
inductive Answer where
  | refuse (status : BitVec 7) (reason : Nat)
  | done (s : State)
  | later (s : State)
deriving DecidableEq, Repr

/-- A request completes; a change of the other twin completes with no record. -/
def finish (s : State) (t : ReqTicket) (status : BitVec 7) (reason : Nat) (stream : W16) : State :=
  if t.silent then s else complete s t.sq 2 t.tag t.seq status reason stream

/-- Bytes 0x00 to 0x3B of a state-management descriptor (Tables 14-2 and 7-3). -/
def stateBytes (op : Byte) (d : StateDesc) : List Byte :=
  [2] ++ bytesOf 3 d.rsv.toNat ++ bytesOf 4 d.tag.toNat ++ [op, d.flags] ++ bytesOf 2 d.stream.toNat ++ [d.adapt, d.group] ++
    bytesOf 2 d.place.toNat ++ bytesOf 8 d.addr.toNat ++ padTo 36 d.rest

/-- A reserved field of the body is not 0 (R169). -/
def stateReserved (d : StateDesc) : Bool :=
  d.flags.toNat / 16 != 0 || d.addr.toNat % 512 != 0 || d.addr.toNat / 2 ^ 40 != 0 || d.rest.any (fun b => b != 0)

/-- A refusal recorded for FWR_STM_REF (R169). -/
def recordRefusal (s : State) (status : BitVec 7) (reason : Nat) (id : W16) : State :=
  { s with fwr := { s.fwr with stm := { s.fwr.stm with refStatus := status.zeroExtend 8, refReason := BitVec.ofNat 8 reason,
                                                       refId := id } } }

/-- State descriptors complete with RESOURCE_BUSY on a fenced twin, a standby, a role-1 twin in sync or in mirror mode
(R369, R373). -/
def stateBusy (s : State) : Bool :=
  match s.twn.state with
  | .fenced => true
  | .standby => true
  | .syncing => s.twn.role
  | .mirror => s.twn.role
  | _ => false

/-- A change of the stream table kept for the peer: named for the tick whose dispatch applies it (R362, R369, R370). -/
def shareChange (s : State) (op : Byte) (d : StateDesc) (t : ReqTicket) : State :=
  let c : PendChange := { seq := s.tkc.seq + 1, op := op, desc := d, req := t, remote := false }
  { s with twn := { s.twn with changes := s.twn.changes ++ [c] } }

/-- The twin tells its peer of stream-table changes: in mirror mode, as the active twin, and as role 0 in sync. -/
def sharesChanges (s : State) : Bool :=
  match s.twn.state with
  | .mirror => !s.twn.role
  | .active => true
  | .syncing => !s.twn.role
  | _ => false

/-- The SP serves descriptors at the levels SLOE and FULL (DEDUCED, log 38). -/
def spServes (s : State) : Bool := s.fwr.fw.level == 1 || s.fwr.fw.level == 2

/-- A request of ring n is under way: a swap, an init image or a load; a SWAP_OUT that waited in DRAINING counts for nothing (R150). -/
def ringHeld (s : State) (n : BitVec 4) : Bool :=
  s.sp.streams.any (fun x =>
    (match x.swap with | some j => j.req.sq == n && !j.req.silent && !j.drained | none => false) ||
    (match x.initJob with | some j => j.req.sq == n && !j.req.silent | none => false)) ||
  (match s.sp.load with | some j => j.sq == n | none => false)

/-- A descriptor of a submission ring is there to be taken: the ring holds one, none before it is under way (R150; DEDUCED, log 122),
and the SP serves. -/
def descPresent (s : State) (n : BitVec 4) : Bool := spServes s && decide (0 < (vget s.hif.sqs n).present) && !ringHeld s n

/-! ### Operations (Table 7-4) -/

/-- The initial rows of a group's adapter (R156, R168). -/
def initialRows (a : AdapterDef) : List Byte := padTo (rowBytes * adapterRows a) a.initRows

/-- REGISTER with a group that has no pair yet: the pair allocated with the initial weights in its current slot. -/
def registerGroup (s : State) (g : Byte) : Option (State × Bool) :=
  if s.sp.groups.any (fun x => x.group == g) then some (s, true) else
  match (taskPkg s).bind (fun p => groupAdapter p g) with
  | none => none
  | some a =>
    match allocRows s (2 * adapterRows a) with
    | none => some (s, false)
    | some b => some ({ writeOrchard s b (initialRows a) with sp := { s.sp with groups := s.sp.groups ++ [⟨g, b, false⟩] } }, true)

def doRegister (s : State) (d : StateDesc) (_ : ReqTicket) : Answer :=
  if (findStream s d.stream).isSome then .refuse 8 2
  else if 4096 ≤ s.sp.streams.length then .refuse 8 3
  else if 2 < d.adapt.toNat then .refuse 8 0xC
  else
    let add := fun (s : State) => { s with sp := { s.sp with streams := s.sp.streams ++
      [newStream d.stream (d.flags.getLsbD 3) (d.adapt.setWidth 2) d.group] } }
    if d.adapt = 2 then
      match registerGroup s d.group with
      | none => .refuse 8 0xB
      | some (_, false) => .refuse 8 5
      | some (s, true) => .done (add s)
    else .done (add s)

/-- UNREGISTER (R151). A WRITE_INIT still under way, whose stream is then not registered, is refused (DESIGN CHOICE, log 122). -/
def doUnregister (s : State) (d : StateDesc) (_ : ReqTicket) : Answer :=
  match findStream s d.stream with
  | none => .refuse 8 1
  | some x =>
    if x.life ≠ .absent then .refuse 8 6
    else if x.placeNext.isSome then .refuse 8 7
    else
      let streams := s.sp.streams.filter (fun y => y.id != d.stream)
      let s := match x.initJob with | some j => finish s j.req 8 1 d.stream | none => s
      let last := x.adapt == 2 && !streams.any (fun y => y.adapt == 2 && y.group == x.group)
      .done { s with sp := { s.sp with
        streams := streams, retain := s.sp.retain.filter (fun r => r.stream != d.stream),
        lrn := s.sp.lrn.filter (fun l => l.stream != d.stream),
        groups := if last then s.sp.groups.filter (fun g => g.group != x.group) else s.sp.groups } }

/-- Slot 0 as SWAP_IN from init leaves it (R168). -/
def initSlotRows (s : State) (p : Package) (x : Stream) : List Byte :=
  let state := match x.init with
    | some b => orchardRows s b p.slotState
    | none => List.replicate (rowBytes * p.slotState) 0
  let halo := List.replicate (rowBytes * (adapterOfs p - p.slotState)) (0 : Byte)
  let own := if x.adapt = 1 then (p.adapters.filter (fun a => a.group.isNone)).flatMap initialRows
    else List.replicate (rowBytes * ownAdapterRows p) 0
  state ++ halo ++ own ++ recordRow 0 0

/-- Bytes of a state image (R164). -/
def imageBytes (p : Package) : Nat := rowBytes * (1 + slotRows p)

/-- SWAP_IN's checks beyond registration and lifecycle: the place of BIND_AFTER, the count of residents, a free pair. -/
def doSwapIn (s : State) (d : StateDesc) (t : ReqTicket) : Answer :=
  match findStream s d.stream, taskPkg s with
  | none, _ => .refuse 8 1
  | some x, p? =>
    if x.life ≠ .absent then .refuse 8 6 else
    let bindAfter := d.flags.getLsbD 2
    if bindAfter && x.placeNext.isSome then .refuse 8 7 else
    if bindAfter && (freePlace s d.place).isNone then .refuse 8 8 else
    if 512 ≤ residentCount s then .refuse 8 4 else
    match p? with
    | none => .refuse 8 5
    | some p =>
      match allocRows s (2 * slotRows p) with
      | none => .refuse 8 5
      | some b =>
        let bloom := allocBloom s p
        let place := if bindAfter then freePlace s d.place else x.placeNext
        if d.addr = 0 then
          let y := { x.setLife s.dp.cycle .resident with
                            slot := some b, bloom := bloom, bc := 0, cur := false, seq := 0,
                            placeNext := place }
          let t := match x.init with | some i => noteSpan s i p.slotState | none => s
          .done (fillSlot (modStream t d.stream (fun _ => y)) p y (initSlotRows s p x))
        else
          let m := meterOffer s.dp 11 (imageBytes p) false
          let job : SwapJob := { req := t, addr := d.addr.setWidth 40,
                                 anySeq := d.flags.getLsbD 1, ticket := m.1, bound := bindAfter, drained := false }
          .later (modStream { s with dp := m.2 } d.stream (fun x =>
            { x.setLife s.dp.cycle .arriving with
                     slot := some b, bloom := bloom, bc := 0, cur := false, placeNext := place,
                     swap := some job }))

/-- The swap-out starts: the stream leaves, its image offered to meter 11 (R159, R166). -/
def startLeaving (s : State) (id : W16) : State :=
  match taskPkg s with
  | none => s
  | some p =>
    let m := meterOffer s.dp 11 (imageBytes p) false
    let s := modStream { s with dp := m.2 } id (fun x =>
      { x.setLife s.dp.cycle .leaving with swap := x.swap.map (fun j => { j with ticket := m.1 }), pend := none })
    { s with sp := { s.sp with lrn := s.sp.lrn.filter (fun l => l.stream != id) } }

def doSwapOut (s : State) (d : StateDesc) (t : ReqTicket) : Answer :=
  match findStream s d.stream with
  | none => .refuse 8 1
  | some x =>
    if x.life ≠ .resident then .refuse 8 6
    else if (d.flags.getLsbD 0 || x.lost) && pinsOf x != 0 then .refuse 4 0xA
    else if x.lost then
      .done (toAbsent (modStream s d.stream (fun x => { x with placeNext := none, window := [], nextWindow := [] })) d.stream)
    else
      let job : SwapJob := { req := t, addr := d.addr.setWidth 40, anySeq := false,
                             ticket := none, bound := false, drained := pinsOf x != 0 }
      let s := rerunLost s x.pend
      let s := modStream s d.stream (fun x => { x.setLife s.dp.cycle .draining with placeNext := none, swap := some job, pend := none })
      .later (if pinsOf x = 0 then startLeaving s d.stream else s)

def doBind (s : State) (d : StateDesc) (_ : ReqTicket) : Answer :=
  match findStream s d.stream with
  | none => .refuse 8 1
  | some x =>
    if x.life = .draining ∨ x.life = .leaving then .refuse 8 6
    else if x.placeNext.isSome then .refuse 8 7
    else match freePlace s d.place with
      | none => .refuse 8 8
      | some i => .done (modStream s d.stream (fun x => { x with placeNext := some i }))

def doUnbind (s : State) (d : StateDesc) (_ : ReqTicket) : Answer :=
  match findStream s d.stream with
  | none => .refuse 8 1
  | some x =>
    if x.placeNext.isNone then .refuse 8 0xD
    else .done (modStream s d.stream (fun x => { x with placeNext := none }))

def doWriteInit (s : State) (d : StateDesc) (t : ReqTicket) : Answer :=
  match findStream s d.stream, taskPkg s with
  | none, _ => .refuse 8 1
  | some x, p? =>
    if pinsOf x ≠ 0 then .refuse 4 0xA
    else if x.initJob.isSome then .refuse 8 6
    else match p? with
      | none => .refuse 8 5
      | some p =>
        match allocRows s p.slotState with
        | none => .refuse 8 5
        | some b =>
          let m := meterOffer s.dp 11 (rowBytes * p.slotState) false
          .later (modStream { s with dp := m.2 } d.stream (fun x => { x with
            initJob := some { slot := b, addr := d.addr.setWidth 40, landed := false, ticket := m.1, req := t } }))

def doClearInit (s : State) (d : StateDesc) (_ : ReqTicket) : Answer :=
  match findStream s d.stream with
  | none => .refuse 8 1
  | some x =>
    if pinsOf x ≠ 0 then .refuse 4 0xA
    else .done (modStream s d.stream (fun x => { x with init := none }))

/-- What an operation code does; a reserved code is refused. -/
def actOf (op : Byte) (s : State) (d : StateDesc) (t : ReqTicket) : Answer :=
  if d.stream = 0xFFFF ∨ stateReserved d then .refuse 8 0xC else
  match op.toNat with
  | 1 => doRegister s d t
  | 2 => doUnregister s d t
  | 3 => doSwapIn s d t
  | 4 => doSwapOut s d t
  | 5 => doBind s d t
  | 6 => doUnbind s d t
  | 7 => doWriteInit s d t
  | 8 => doClearInit s d t
  | _ => .refuse 8 0xC

/-- A change that waited for its dispatch is applied; one that is refused there completes with its refusal. -/
def applyChange (s : State) (c : PendChange) : State :=
  match actOf c.op s c.desc c.req with
  | .refuse st r => finish (recordRefusal s st r c.desc.stream) c.req st r c.desc.stream
  | .done s => finish s c.req 0 0 c.desc.stream
  | .later s => s

/-- The stream table as it will stand once the waiting changes are applied. -/
def tableToCome (s : State) : State :=
  if s.twn.state = .mirror then s.twn.changes.foldl (fun s c => applyChange s { c with req := { c.req with silent := true } }) s
  else s

/-- A state-management descriptor (R150, R169, R297). Behind a TICK descriptor that waits it is not at the head; where no
descriptor is present nothing happens. In mirror mode an accepted change waits for the dispatch it is named for (R369). -/
def runStateDesc (s : State) (op : Byte) (d : StateDesc) : State :=
  if !descPresent s d.sq then s else
  let q := (vget s.hif.sqs d.sq).seq
  let s := takeHead s d.sq
  let c := checkDesc s d.sq q (stateBytes op d) d.crc (d.rsv == 0)
  let s := c.2
  match c.1 with
  | some st => complete (takeReport s (descReport st d.tag d.sq q)) d.sq 2 d.tag q st 0 0xFFFF
  | none =>
    if stateBusy s then complete s d.sq 2 d.tag q 5 0 d.stream
    else
      let t : ReqTicket := ⟨d.tag, d.sq, q, false⟩
      let share := fun (s : State) => if sharesChanges s then shareChange s op d t else s
      match actOf op (tableToCome s) d t with
      | .refuse st r => complete (recordRefusal s st r d.stream) d.sq 2 d.tag q st r d.stream
      | .done s' => if s.twn.state = .mirror then share s else share (finish s' t 0 0 d.stream)
      | .later s' => if s.twn.state = .mirror then share s else share s'

/-- A state-management descriptor as its 52 body bytes hold it (Table 7-3), with its OP. -/
def stateOfBody (d : BareDesc) : Byte × StateDesc :=
  let v := fun (a n : Nat) => ((d.body.drop a).take n).foldr (fun b acc => b.toNat + 256 * acc) 0
  (BitVec.ofNat 8 (v 0 1),
   { sq := d.sq, tag := d.tag, rsv := d.rsv, flags := BitVec.ofNat 8 (v 1 1), stream := BitVec.ofNat 16 (v 2 2),
     adapt := BitVec.ofNat 8 (v 4 1), group := BitVec.ofNat 8 (v 5 1), place := BitVec.ofNat 16 (v 6 2),
     addr := BitVec.ofNat 64 (v 8 8), rest := (padTo 52 d.body).drop 16, crc := d.crc })

/-- REGISTER (R151). -/
def execRegister (d : StateDesc) (s : State) : Host.Outcome State Fault Refusal := .next (runStateDesc s 1 d)
/-- UNREGISTER (R151). -/
def execUnregister (d : StateDesc) (s : State) : Host.Outcome State Fault Refusal := .next (runStateDesc s 2 d)
/-- SWAP_IN (R167, R168). -/
def execSwapIn (d : StateDesc) (s : State) : Host.Outcome State Fault Refusal := .next (runStateDesc s 3 d)
/-- SWAP_OUT (R159, R166, R349). -/
def execSwapOut (d : StateDesc) (s : State) : Host.Outcome State Fault Refusal := .next (runStateDesc s 4 d)
/-- BIND (R152). -/
def execBind (d : StateDesc) (s : State) : Host.Outcome State Fault Refusal := .next (runStateDesc s 5 d)
/-- UNBIND (R152). -/
def execUnbind (d : StateDesc) (s : State) : Host.Outcome State Fault Refusal := .next (runStateDesc s 6 d)
/-- WRITE_INIT (R155). -/
def execWriteInit (d : StateDesc) (s : State) : Host.Outcome State Fault Refusal := .next (runStateDesc s 7 d)
/-- CLEAR_INIT (R155). -/
def execClearInit (d : StateDesc) (s : State) : Host.Outcome State Fault Refusal := .next (runStateDesc s 8 d)

/-! ### Images -/

/-- PORT of the ring a request came on (R166). -/
def portOf (s : State) (sq : BitVec 4) : Bool := (vget s.hif.sqs sq).port

/-- Header bytes 0x000 to 0x1FB of a state image (Table 7-2). -/
def imageHeader (p : Package) (x : Stream) : List Byte :=
  padTo 508 (bytesOf 4 0x54494D47 ++ bytesOf 2 1 ++ bytesOf 2 0x200 ++ bytesOf 2 x.id.toNat ++
    bytesOf 2 (if x.adapt = 1 then 1 else 0) ++ bytesOf 4 (slotRows p) ++ bytesOf 8 x.seq.toNat ++ bytesOf 4 p.layoutId.toNat)

/-- FOLD of a state image: STREAM_ID × 2^16 + SEQ[15:0] (R165). -/
def imageFold (id : W16) (seq : Nat) : W32 := BitVec.ofNat 32 (id.toNat * 65536 + seq % 65536)

/-- A field of a byte string. -/
def fieldAt (l : List Byte) (a n : Nat) : Nat := ((l.drop a).take n).foldr (fun b acc => b.toNat + 256 * acc) 0

/-- The image's own fields are those R167 asks for. -/
def imageMatches (p : Package) (x : Stream) (j : SwapJob) (img : List Byte) : Bool :=
  fieldAt img 0 4 == 0x54494D47 && fieldAt img 4 2 == 1 && fieldAt img 6 2 == 0x200 && fieldAt img 8 2 == x.id.toNat &&
    fieldAt img 0xC 4 == slotRows p && fieldAt img 0x18 4 == p.layoutId.toNat &&
    (j.anySeq || (match x.expSeq with | some e => fieldAt img 0x10 8 == e.toNat | none => false))

/-- CHECK of an image over the fetched bytes, on DU1 (R165). -/
def imageCrc (s : State) (id : W16) (img : List Byte) : Nat × State :=
  formCheck s 1 1 true (imageFold id (fieldAt img 0x10 8)) (img.take 508 ++ img.drop 512)

/-- The cores that a residency gate holds on a packet that includes the stream: the tick of each, and the cycles for which it has been
held, this one counted (DEDUCED, log 134). -/
def gatesOn (s : State) (id : W16) : List (W64 × Nat) :=
  s.dp.cores.toList.filterMap (fun c => match c.hold with
    | some h => if h.gate.getLsbD 2 && (packetStreams s c h.pkt).any (fun x => x == id) then some (c.tick, h.cycles + 1) else none
    | none => none)

/-- The rows of stream-ticks of a tick that a test selects, by packet. -/
def rowsOfSts (s : State) (seq : W64) (p : StreamTick → Bool) : List (Nat × W64) :=
  let rows := (taskPkg s).elim [] (fun k => ((tickSts s seq).filter p).flatMap (stRows k))
  ((rows.map (fun r => r.1)).eraseDups).map (fun k => (k, rowMask rows k))

/-- The rows of stream-ticks that a test selects are masked in the dispatch records of a tick, in every core, from the next cycle on (R16, R163,
R274). -/
def maskStreams (s : State) (seq : W64) (p : StreamTick → Bool) : State :=
  let rows := rowsOfSts s seq p
  if rows.isEmpty then s
  else { s with dp := allCores.foldl (fun (d : Dp) c => d.landIn 1 (.narrow c seq rows)) s.dp }

/-- They are masked at once: in every command that issues in this cycle or later (R275). -/
def maskNow (s : State) (seq : W64) (p : StreamTick → Bool) : State :=
  let rows := rowsOfSts s seq p
  { s with dp := allCores.foldl (fun (d : Dp) c => (land d (.narrow c seq rows)).1) s.dp }

/-- The residency gate resolves (R163): the rows of every stream of the tick not RESIDENT are masked in every core, each is
reported, and its stream-tick will be SKIPPED. -/
def resolveGate (s : State) (seq : W64) (held : Nat) : State :=
  let ids := ((tickSts s seq).filter (fun x => x.out == .running && !isResident s x.stream)).map (fun x => x.stream)
  let s := maskStreams s seq (fun x => ids.any (fun y => y == x.stream))
  let s := mapTicks s (fun t => if t.seq = seq then
    { t with sts := t.sts.map (fun x => if ids.any (fun y => y == x.stream) && x.out == .running then { x with out := .skipped } else x) }
    else t)
  takeReports s (ids.map (fun id => deviceReport 8 1 2 (id.zeroExtend 32) (BitVec.ofNat 32 held)))

/-- The image of an ARRIVING stream failed (R167). -/
def imageFails (s : State) (id : W16) (j : SwapJob) : State :=
  let held := gatesOn s id
  let s := if j.bound then modStream s id (fun x => { x with placeNext := none }) else s
  let s := toAbsent s id
  let s := { s with fwr := { s.fwr with stm := { s.fwr.stm with imgFail := s.fwr.stm.imgFail + 1 } } }
  let s := recordRefusal s 0xE 9 id
  let s := takeReport s (deviceReport 9 0xE 2 (id.zeroExtend 32) 9)
  let s := finish s j.req 0xE 9 id
  held.foldl (fun s h => resolveGate s h.1 h.2) s

/-- IMAGE_CHECK (R165, R167): the image of an ARRIVING stream, once meter 11 admits it, has been fetched and is checked. -/
def imageChecked (s : State) (id : W16) (resp : BitVec 2) (img : List Byte) : State :=
  match findStream s id, taskPkg s with
  | some x, some p =>
    match x.life, x.swap with
    | .arriving, some j =>
      if meterHolds s.dp 11 j.ticket then s else
      if 2 ≤ resp.toNat then
        imageFails (takeReport s (memRespAt j.addr.toNat resp (portOf s j.req.sq) 3)) id j
      else
        let c := imageCrc s id img
        let s := c.2
        if imageMatches p x j img && decide (c.1 = fieldAt img 508 4) && img.length == imageBytes p then
          let y := { x.setLife s.dp.cycle .resident with
                            swap := none, bc := 0, cur := false,
                            seq := BitVec.ofNat 64 (fieldAt img 0x10 8) }
          finish (fillSlot (modStream s id (fun _ => y)) p y (img.drop 512)) j.req 0 0 id
        else imageFails s id j
    | _, _ => s
  | _, _ => s

def execImageCheck (stream : W16) (resp : BitVec 2) (data : List Byte) (s : State) : Host.Outcome State Fault Refusal :=
  .next (imageChecked s stream resp data)

/-- The image a swap-out writes: header, CHECK, body (R164, R165). -/
def imageOf (s : State) (p : Package) (x : Stream) : List Byte × State :=
  let body := committedRows s p x
  let h := imageHeader p x
  let c := imageCrc s x.id (h ++ [0, 0, 0, 0] ++ body)
  (h ++ bytesOf 4 c.1 ++ body, noteRows c.2 (committedList p x))

/-- SWAP_OUT_COMPLETE (R166): the last image write is acknowledged; an error response leaves the stream LEAVING, and the
whole image is written again (Table 17-3). Committed state lost as its rows are read writes no image (R349). -/
def swapOutDone (s : State) (id : W16) (resp : BitVec 2) : State :=
  match findStream s id, taskPkg s with
  | some x, some p =>
    match x.life, x.swap with
    | .leaving, some j =>
      if meterHolds s.dp 11 j.ticket then s else
      if 2 ≤ resp.toNat then takeReport s (memRespAt j.addr.toNat resp (portOf s j.req.sq) 3)
      else
        let im := imageOf s p x
        if ((findStream im.2 id).elim false (fun y => y.lost)) then finish (toAbsent im.2 id) j.req 0 0 id else
        let s := { im.2 with dp := { im.2.dp with ext := memWrite im.2.dp.ext j.addr.toNat im.1 } }
        let s := modStream s id (fun x => { x with expSeq := some x.seq })
        finish (toAbsent s id) j.req 0 0 id
    | _, _ => s
  | _, _ => s

def execSwapOutComplete (stream : W16) (resp : BitVec 2) (s : State) : Host.Outcome State Fault Refusal :=
  .next (swapOutDone s stream resp)

/-- A landed init image takes its place once the stream holds no pin (R155). -/
def initReplaces (s : State) (id : W16) : State :=
  match findStream s id with
  | some x =>
    match x.initJob with
    | some j =>
      if j.landed && pinsOf x == 0 then
        finish (modStream s id (fun x => { x with init := some j.slot, initJob := none })) j.req 0 0 id
      else s
    | none => s
  | none => s

/-- INIT_IMAGE_LANDED (R155). -/
def initLanded (s : State) (id : W16) (resp : BitVec 2) (data : List Byte) : State :=
  match findStream s id, taskPkg s with
  | some x, some p =>
    match x.initJob with
    | some j =>
      if j.landed || meterHolds s.dp 11 j.ticket then s else
      if 2 ≤ resp.toNat then
        let s := modStream s id (fun x => { x with initJob := none })
        let s := takeReport (recordRefusal s 8 0xE id) (memRespAt j.addr.toNat resp (portOf s j.req.sq) 3)
        finish s j.req 8 0xE id
      else
        let s := writeOrchard s j.slot (padTo (rowBytes * p.slotState) data)
        initReplaces (modStream s id (fun x => { x with initJob := some { j with landed := true } })) id
    | none => s
  | _, _ => s

def execInitImageLanded (stream : W16) (resp : BitVec 2) (data : List Byte) (s : State) : Host.Outcome State Fault Refusal :=
  .next (initLanded s stream resp data)

/-! ### The query (R170) -/

/-- A write of FWR_STM_QID answered. -/
def stmQuery (s : State) (id : W16) : State :=
  let x := findStream s id
  let q := { s.fwr.stm with
    qid := id,
    qState := match x with | some y => lifeCode y.life | none => 0,
    qBound := match x with | some y => y.placeNext.isSome | none => false,
    qCur := match x with | some y => y.cur | none => false,
    qInit := match x with | some y => y.init.isSome | none => false,
    qPolicy := match x with | some y => y.catchUp | none => false,
    qPins := match x with | some y => BitVec.ofNat 9 (pinsOf y) | none => 0,
    qSeq := match x with | some y => if y.life = .absent then y.expSeq.getD 0 else y.seq | none => 0 }
  { s with fwr := { s.fwr with stm := q } }

end Sys2Proof.Machine
end

