-- ==== Sys2Proof/Machine/Intake.lean ====
section
/-!
DEFINITION. Machine/Intake: what comes in for a tick (02_the_tick R40 to R42; 11_tiling_and_loader R261; 12_speculative_ticks
R274; 13_adapter_learning R281, R282; 14_host_rings R299 to R301; 20_integration R406): TICK descriptors, control and error
blocks, embeddings and samples.
-/
namespace Sys2Proof.Machine

/-- A new tick's record. -/
def freshTick (seq : W64) (early passive : Bool) : TickRec :=
  { seq := seq, early := early, predicted := false, confirmed := false, refused := none, cmd := none, ctl := none, errs := [],
    dispatched := false, computing := false, passive := passive, sealed := false, vdDone := false, sts := [],
    coreStatus := [], sloe := false, done := false, unlisted := 0 }

/-- The tick records not past their pit: the current tick and the early one. -/
def openTicks (s : State) : List TickRec := s.sp.cur.toList ++ s.sp.early.toList

/-- A tick's record changed. -/
def modTick (s : State) (seq : W64) (f : TickRec → TickRec) : State := mapTicks s (fun t => if t.seq = seq then f t else t)

/-- The tick is the early tick (before its boundary). -/
def isEarlyTick (s : State) (seq : W64) : Bool := match s.sp.early with | some e => e.early && e.seq == seq | none => false

/-! ### TICK descriptors (R300, R301) -/

/-- Bytes 0x00 to 0x3B of a TICK descriptor (Tables 14-2 and 14-4). -/
def tickBytes (d : TickDesc) : List Byte :=
  [1] ++ bytesOf 3 d.rsv.toNat ++ bytesOf 4 d.tag.toNat ++ bytesOf 8 d.tickSeq.toNat ++ bytesOf 8 d.ctlAddr.toNat ++
    bytesOf 8 d.errAddr.toNat ++ padTo 16 (d.vdim.flatMap (fun v => bytesOf 2 v.toNat)) ++ bytesOf 4 d.ctlCrc.toNat ++
    bytesOf 2 d.ctlRows.toNat ++ [d.cores] ++ bytesOf 5 d.rest.toNat

/-- An address of a descriptor: 40 bits, aligned to 512 bytes. -/
def addrOk (a : W64) : Bool := a.toNat % 512 == 0 && decide (a.toNat < 2 ^ 40)

/-- Planned maximum of a dimension; none where it is undeclared (R259). -/
def vmaxOf (s : State) (k : Nat) : Option Nat := (taskPkg s).bind (fun p => (p.vmax.getD k none))

/-- The reserved parts of a TICK descriptor are 0 (R297 step 2): its reserved bytes, the values of undeclared dimensions, the
bits of its addresses that no aligned 40-bit address has, and CTL_ROWS and CTL_CRC without a control block (DEDUCED, log 44). -/
def tickFormOk (s : State) (d : TickDesc) : Bool :=
  d.rsv == 0 && d.rest == 0 && addrOk d.ctlAddr && addrOk d.errAddr &&
    d.vdim.zipIdx.all (fun x => (vmaxOf s x.2).isSome || x.1 == 0) &&
    (d.ctlAddr != 0 || (d.ctlRows == 0 && d.ctlCrc == 0))

/-- Places of the package. -/
def placeCount (s : State) : Nat := (taskPkg s).elim 0 (fun p => p.places.length)

/-- Bits of the cores the package needs (R264). -/
def neededCores (s : State) : Nat := (taskPkg s).elim 0 (fun p => 2 ^ p.cores - 1)

/-- The first dimension whose value exceeds its maximum (R261). -/
def overVdim (s : State) (d : TickDesc) : Option (Nat × W16) :=
  (d.vdim.zipIdx.find? (fun x => match vmaxOf s x.2 with | some m => decide (m < x.1.toNat) | none => false)).map
    (fun x => (x.2, x.1))

/-- The checks of R301 that need no control block: the status of the first that fails. -/
def tickRefusal (s : State) (d : TickDesc) : Option (BitVec 7) :=
  if d.cores.toNat / 2 ^ activeCores s != 0 then some 2
  else if d.cores != 0 && d.cores.toNat != neededCores s then some 8
  else if (overVdim s d).isSome then some 3
  else if d.ctlAddr != 0 && d.ctlRows.toNat != (placeCount s + 31) / 32 then some 8
  else none

/-- Effects of R261 on the loader's registers. -/
def noteShape (s : State) (d : TickDesc) : State :=
  match overVdim s d with
  | some (k, v) =>
    { s with fwr := { s.fwr with ldr := { s.fwr.ldr with shapeCnt := s.fwr.ldr.shapeCnt + 1, shapeDim := BitVec.ofNat 3 k,
                                                         shapeVal := v } } }
  | none => s

/-- CORE_STATUS of absent cores: 0x02 for every k at or above the grade's count (R303). -/
def absentStatus (s : State) : W64 :=
  (List.range 8).foldl (fun (v : W64) k => if activeCores s ≤ k then v ||| BitVec.ofNat 64 (2 * 2 ^ (8 * k)) else v) 0

/-- A TICK descriptor that completes with one record (R304). -/
def completeTick (s : State) (d : TickDesc) (status : BitVec 7) (tick : Bool) : State :=
  postCompletion s d.sq (completionBytes (status.zeroExtend 8) 1 0 true d.sq d.tag d.tickSeq 0
    (if status = 2 then absentStatus s else 0)) tick

/-- Default control fields: without a control block every place has a zero reset word, ADSEL 0 and LRN 0 (R299). -/
def noFields : CtlFields := ⟨0, false, false⟩

/-- The control fields of a place. -/
def fieldsOf (c : TickCtl) (place : W16) : CtlFields :=
  match c.places.find? (fun x => x.1 == place) with | some x => x.2 | none => noFields

/-- PORT of the TICK ring (R281, R299). -/
def tickPort (s : State) : Bool := (vget s.hif.sqs s.hif.tickRing).port

/-- The meter of a MEM port. -/
def portMeter (port : Bool) : BitVec 4 := if port then 9 else 8

/-- A status that counts up to 0xFFFF. -/
def bumpMismatch (s : State) : State :=
  { s with fwr := { s.fwr with spec := { s.fwr.spec with mismatch := satInc s.fwr.spec.mismatch } } }

/-- The actual fields of a predicted tick are compared with the predicted ones (R274): differing streams are mismatched, all
of them when a VDIM value differs; their rows are masked from the next cycle. -/
def compareFields (s : State) (seq : W64) (actual : TickCtl) : State :=
  match (openTicks s).find? (fun t => t.seq == seq) with
  | none => s
  | some t =>
    let all := match t.ctl with | some c => c.vdim != actual.vdim | none => true
    let bad := fun (x : StreamTick) => all || (match t.ctl with
      | some c => fieldsOf c x.place != fieldsOf actual x.place
      | none => true)
    let ran := fun (x : StreamTick) => x.out == .running && bad x
    let s := if t.sts.any ran then bumpMismatch s else s
    let s := maskStreams s seq ran
    let s := modTick s seq (fun t => { t with sts := t.sts.map (fun x =>
      if bad x then { x with mism := true, ctl := fieldsOf actual x.place } else x) })
    { s with sp := { s.sp with lastCtl := some actual } }

/-- Every stream-tick of a predicted tick is SKIPPED and none is rerun: its descriptor was refused (R274). -/
def refusePredicted (s : State) (seq : W64) (st : BitVec 7) : State :=
  let s := maskStreams s seq (fun x => x.out == .running)
  let s := modTick s seq (fun t => { t with refused := some st, sts := t.sts.map (fun x =>
    if x.out = .running then { x with out := .skipped } else x) })
  { s with fwr := { s.fwr with spec := { s.fwr.spec with lateDesc := satInc s.fwr.spec.lateDesc } } }

/-- A descriptor's fields as the tick keeps them. -/
def tickCmdOf (d : TickDesc) (q : W64) (port : Bool) (ticket : Option Nat) : TickCmd :=
  { tag := d.tag, sq := d.sq, q := q, vdim := d.vdim, ctlAddr := d.ctlAddr.setWidth 40, ctlRows := d.ctlRows, ctlCrc := d.ctlCrc,
    port := port, ctlWait := d.ctlAddr != 0, ctlTicket := ticket }

/-- The control block's fetch offered to its port's meter (R299). -/
def offerCtl (s : State) (d : TickDesc) : Option Nat × State :=
  if d.ctlAddr = 0 then (none, s) else
  let m := meterOffer s.dp (portMeter (tickPort s)) (rowBytes * d.ctlRows.toNat) (isEarlyTick s d.tickSeq)
  (m.1, { s with dp := m.2 })

/-- The error block's header fetch offered to its port's meter (R281). -/
def offerErr (s : State) (d : TickDesc) : Option ErrFetch × State :=
  if d.errAddr = 0 then (none, s) else
  let m := meterOffer s.dp (portMeter (tickPort s)) rowBytes (isEarlyTick s d.tickSeq)
  (some ⟨d.tickSeq, d.errAddr.setWidth 40, tickPort s, m.1, none⟩, { s with dp := m.2 })

/-- A descriptor refused under R301: it completes in publish of its tick (R304). -/
def refuseTick (s : State) (d : TickDesc) (q : W64) (st : BitVec 7) : State :=
  let s := if st = 3 then noteShape s d else s
  let s := modTick s d.tickSeq (fun t => { t with cmd := some (tickCmdOf { d with ctlAddr := 0 } q (tickPort s) none),
                                                  refused := some st })
  takeReport s (descReport st d.tag d.sq q)

/-- A descriptor taken at its tick's intake. -/
def intakeTick (s : State) (d : TickDesc) (q : W64) (t : TickRec) : State :=
  if t.passive then modTick s d.tickSeq (fun t => { t with cmd := some (tickCmdOf { d with ctlAddr := 0 } q (tickPort s) none) })
  else match tickRefusal s d with
  | some st => refuseTick s d q st
  | none =>
    let c := offerCtl s d
    let e := offerErr c.2 d
    modTick e.2 d.tickSeq (fun t => { t with
      cmd := some (tickCmdOf d q (tickPort s) c.1), errs := t.errs ++ e.1.toList,
      ctl := if d.ctlAddr = 0 then some ⟨d.vdim, []⟩ else none })

/-- The descriptor of a predicted tick arrives after its dispatch (R274): its error block goes to the next intake (R281). -/
def confirmTick (s : State) (d : TickDesc) (q : W64) : State :=
  match tickRefusal s d with
  | some st => refusePredicted (refuseTick s d q st) d.tickSeq st
  | none =>
    let c := offerCtl s d
    let e := offerErr c.2 d
    let s := { e.2 with sp := { e.2.sp with errCarry := match e.1 with | some x => some x | none => e.2.sp.errCarry } }
    let s := modTick s d.tickSeq (fun t => { t with cmd := some (tickCmdOf d q (tickPort s) c.1) })
    if d.ctlAddr = 0 then compareFields s d.tickSeq ⟨d.vdim, []⟩ else s

/-- The newest tick whose intake has begun. -/
def newestIntake (s : State) : W64 := match s.sp.early with | some e => e.seq | none => s.tkc.seq

/-- TICK (R297, R300): the checks in order; a descriptor for a later tick stays at the head. -/
def takeTick (s : State) (d : TickDesc) : State :=
  if !descPresent s d.sq then s else
  let q := (vget s.hif.sqs d.sq).seq
  let c := checkDesc s d.sq q (tickBytes d) d.crc (tickFormOk s d)
  let refuse := fun (s : State) (st : BitVec 7) =>
    completeTick (takeReport (takeHead s d.sq) (descReport st d.tag d.sq q)) d st false
  match c.1 with
  | some st => refuse c.2 st
  | none =>
    if s.twn.state = .fenced then completeTick (takeHead c.2 d.sq) d 5 false
    else if d.sq ≠ s.hif.tickRing ∨ d.tickSeq = 0 ∨ s.sp.taken.any (fun x => x == d.tickSeq) then refuse c.2 8
    else if newestIntake s < d.tickSeq then s
    else
      let s := takeHead c.2 d.sq
      let s := { s with sp := { s.sp with taken := s.sp.taken ++ [d.tickSeq] } }
      match (openTicks s).find? (fun t => t.seq == d.tickSeq) with
      | some t =>
        if !t.dispatched then intakeTick s d q t
        else if t.predicted && t.cmd.isNone then confirmTick s d q
        else completeTick s d 1 false
      | none => completeTick s d 1 false

def execTick (d : TickDesc) (s : State) : Host.Outcome State Fault Refusal := .next (takeTick s d)

/-! ### Control blocks (R299, R301) -/

/-- The entry of place i. -/
def ctlEntry (data : List Byte) (i : Nat) : CtlFields :=
  { reset := BitVec.ofNat 64 (fieldAt data (16 * i) 8), adsel := (byteAt data (16 * i + 8)).getLsbD 0,
    lrn := (byteAt data (16 * i + 8)).getLsbD 1 }

/-- The reserved bits of an entry are 0. -/
def ctlEntryOk (data : List Byte) (i : Nat) : Bool :=
  decide ((byteAt data (16 * i + 8)).toNat < 4) && fieldAt data (16 * i + 9) 7 == 0

def ctlOf (s : State) (c : TickCmd) (data : List Byte) : TickCtl :=
  { vdim := c.vdim, places := (List.range (placeCount s)).map (fun i => (BitVec.ofNat 16 i, ctlEntry data i)) }

/-- A control block refused: its tick has no control descriptor. -/
def refuseCtl (s : State) (t : TickRec) (c : TickCmd) (st : BitVec 7) : State :=
  let s := if st = 0x10 then { s with hif := { s.hif with crcCnt := s.hif.crcCnt + 1 } } else s
  let s := takeReport s (deviceReport 10 st 2 c.tag (BitVec.ofNat 32 (c.sq.toNat + 16 * (c.q.toNat % 2 ^ 28))))
  if t.dispatched then refusePredicted s t.seq st else modTick s t.seq (fun t => { t with refused := some st })

/-- The control block of a tick lands. Before the dispatch it gives the tick its fields; for a predicted tick it is compared;
otherwise it came too late. -/
def landCtl (s : State) (t : TickRec) (c : TickCmd) (data : List Byte) : State :=
  if t.dispatched && !t.predicted then s else
  let n := rowBytes * c.ctlRows.toNat
  let k := formCheck s 0 1 true (t.seq.setWidth 32) (padTo n data)
  let s := k.2
  if k.1 ≠ c.ctlCrc.toNat then refuseCtl s t c 0x10
  else if !(List.range (placeCount s)).all (ctlEntryOk data) then refuseCtl s t c 8
  else if t.dispatched then compareFields s t.seq (ctlOf s c data)
  else modTick s t.seq (fun t => { t with ctl := some (ctlOf s c data) })

/-- CONTROL_BLOCK: the oldest control block under way, once its meter has admitted it. -/
def controlBlockIn (s : State) (resp : BitVec 2) (data : List Byte) : State :=
  match (openTicks s).find? (fun t => match t.cmd with | some c => c.ctlWait | none => false) with
  | none => s
  | some t =>
    match t.cmd with
    | none => s
    | some c =>
      if meterHolds s.dp (portMeter c.port) c.ctlTicket then s else
      let s := modTick s t.seq (fun t => { t with cmd := some { c with ctlWait := false } })
      if 2 ≤ resp.toNat then takeReport s (memRespAt c.ctlAddr.toNat resp c.port 4) else landCtl s t c data

def execControlBlock (resp : BitVec 2) (data : List Byte) (s : State) : Host.Outcome State Fault Refusal :=
  .next (controlBlockIn s resp data)

/-! ### Error blocks (R281, R282) -/

/-- The adapter record of a stream: its index in the package and its group. -/
def streamAdapter (p : Package) (x : Stream) : Option (Nat × AdapterDef) :=
  let own := fun (a : AdapterDef) => if x.adapt = 1 then a.group.isNone else decide (x.adapt = 2) && a.group == some x.group
  (p.adapters.zipIdx.find? (fun y => own y.1)).map (fun y => (y.2, y.1))

/-- A format entry as it selects conversions. -/
def selOf (e : FmtEntry) : FmtSel :=
  match OpFmt.ofField e.fmt with | some o => ⟨o, e.fq.toInt, e.fixs⟩ | none => fmtNone

/-- Rows of x in a retention entry (R280). -/
def retRows (a : AdapterDef) : Nat := (a.dIn * (selOf a.inFmt).op.fmt.bits + 4095) / 4096

/-- Rows of a place in the learning area (R282). -/
def lrnRows (p : Package) : Nat := p.adapters.foldl (fun n a => max n (retRows a + 2)) 0

/-- First row of a stream's retention entry for tick seq (DESIGN CHOICE, log 43). -/
def retRow (a : AdapterDef) (place : W16) (seq : W64) : Nat :=
  a.retBase + (place.toNat * a.ret + seq.toNat % max 1 a.ret) * (retRows a + 1)

/-- Whether an entry is taken: none, or the reason of Table 13-3; 0 for one that is ignored. -/
def entryRefusal (s : State) (t : TickRec) (seen : List W16) (row : List Byte) : Option Nat :=
  let id : W16 := BitVec.ofNat 16 (fieldAt row 0 2)
  let tgt : W64 := BitVec.ofNat 64 (fieldAt row 8 8)
  match findStream s id, taskPkg s with
  | some x, some p =>
    match x.placeNext with
    | none => if s.fwr.lrn.enNow then some 2 else some 1
    | some pl =>
      let lrn := match t.ctl with | some c => (fieldsOf c pl).lrn | none => false
      if !lrn then some 0
      else if !s.fwr.lrn.enNow then some 1
      else match streamAdapter p x with
        | none => some 2
        | some (_, _) =>
          if seen.any (fun y => y == id) then some 4
          else if !s.sp.retain.any (fun r => r.stream == id && r.seq == tgt && r.valid) then some 3
          else if 4 ≤ (s.sp.lrn.filter (fun l => match l.group with
              | some g => x.adapt == 2 && g == x.group
              | none => x.adapt == 1 && l.stream == id)).length then some 5
          else if fieldAt row 3 5 != 0 || fieldAt row 0x1F 1 != 0 || 16 ≤ fieldAt row 2 1 then some 6
          else none
  | _, _ => if s.fwr.lrn.enNow then some 2 else some 1

/-- The lowest place of the learning area that is free. -/
def freeLrnSlot (s : State) : Nat :=
  ((List.range (s.sp.lrn.length + 1)).find? (fun k => !s.sp.lrn.any (fun l => l.slot == k))).getD 0

/-- An accepted entry copied with its retention rows into a pending place (R282). -/
def acceptEntry (s : State) (row : List Byte) : State :=
  let id : W16 := BitVec.ofNat 16 (fieldAt row 0 2)
  let tgt : W64 := BitVec.ofNat 64 (fieldAt row 8 8)
  match findStream s id, taskPkg s with
  | some x, some p =>
    match streamAdapter p x with
    | none => s
    | some (k, a) =>
      let slot := freeLrnSlot s
      let ret := orchardRows s (retRow a (x.place.getD 0) tgt) (retRows a + 1)
      let s := noteSpan s (retRow a (x.place.getD 0) tgt) (retRows a + 1)
      let s := writeOrchard s (p.lrnBase + slot * lrnRows p) (padTo rowBytes row ++ ret)
      let l : LrnPlace := { slot := slot, adapter := k, finite := true, stream := id,
                            group := if x.adapt = 2 then some x.group else none, tgtSeq := tgt,
                            lrsh := BitVec.ofNat 4 (fieldAt row 2 1), inUse := false, runTick := 0 }
      { s with sp := { s.sp with lrn := s.sp.lrn ++ [l] },
               fwr := { s.fwr with lrn := { s.fwr.lrn with accept := s.fwr.lrn.accept + 1 } } }
  | _, _ => s

/-- A refused entry is counted, and its reason recorded. -/
def refuseEntry (s : State) (r : Nat) (id : W16) : State :=
  let l := { s.fwr.lrn with refuse := s.fwr.lrn.refuse + 1, refReason := BitVec.ofNat 8 r, refId := id }
  { s with fwr := { s.fwr with lrn := l } }

/-- One entry of a block. -/
def takeEntry (t : TickRec) (acc : State × List W16) (row : List Byte) : State × List W16 :=
  let s := acc.1
  let id : W16 := BitVec.ofNat 16 (fieldAt row 0 2)
  (match entryRefusal s t acc.2 row with
   | none => acceptEntry s row
   | some 0 => s
   | some r => refuseEntry s r id, acc.2 ++ [id])

/-- FWR_LRN_BLK_FAIL counts n more. -/
def blkFail (s : State) : Nat → State
  | 0 => s
  | n + 1 => blkFail { s with fwr := { s.fwr with lrn := { s.fwr.lrn with blkFail := satInc s.fwr.lrn.blkFail } } } n

/-- The error block passes its check (R281). -/
def errBlockOk (s : State) (e : ErrFetch) (data : List Byte) : Bool × State :=
  let n := fieldAt data 8 2
  if 512 < n ∨ fieldAt data 0 8 ≠ e.seq.toNat then (false, s)
  else
    let k := formCheck s 0 1 true (e.seq.setWidth 32) ((padTo rowBytes data).take 508 ++ padTo (rowBytes * n) (data.drop rowBytes))
    (decide (k.1 = fieldAt data 508 4), k.2)

/-- The header row of a block and its first n entry rows in the Orchard error area (R281). -/
def errArea (s : State) (n : Nat) (data : List Byte) : State :=
  match taskPkg s with
  | some p => writeOrchard s p.errBase (padTo (rowBytes * (n + 1)) data)
  | none => s

/-- ERROR_BLOCK: the first error block under way of a tick whose control fields are in place, before its dispatch, once its
meter has admitted it. Its header row lands first, and its entry rows where the header holds and the meter admits them. -/
def errorBlockIn (s : State) (resp : BitVec 2) (data : List Byte) : State :=
  match (openTicks s).find? (fun t => !t.dispatched && t.ctl.isSome && !t.errs.isEmpty) with
  | none => s
  | some t =>
    match t.errs with
    | [] => s
    | e :: es =>
      if meterHolds s.dp (portMeter e.port) e.ticket then s else
      let took := modTick s t.seq (fun t => { t with errs := es })
      if 2 ≤ resp.toNat then blkFail (takeReport took (memRespAt e.addr.toNat resp e.port 4)) 1 else
      let k := errBlockOk took e data
      let n := fieldAt data 8 2
      let bad : Bool := decide (512 < n ∨ fieldAt data 0 8 ≠ e.seq.toNat)
      let m := if bad then (true, s.dp)
        else if e.more.isSome then (!meterHolds s.dp (portMeter e.port) e.more, s.dp)
        else
          let o := meterOffer s.dp (portMeter e.port) (rowBytes * n) (isEarlyTick s t.seq)
          (o.1.isNone, o.2)
      if !m.1 then
        (if e.more.isSome then s else
          errArea (modTick { s with dp := m.2 } t.seq (fun t => { t with errs := { e with more := some (m.2.tickets - 1) } :: es })) 0 data)
      else
        let s := errArea { k.2 with dp := m.2 } (if bad then 0 else n) data
        if !k.1 then blkFail s 1
        else ((chunks rowBytes n (padTo (rowBytes * n) (data.drop rowBytes))).foldl (takeEntry t) (s, [])).1

def execErrorBlock (resp : BitVec 2) (data : List Byte) (s : State) : Host.Outcome State Fault Refusal :=
  .next (errorBlockIn s resp data)

/-! ### Embeddings (R41) -/

/-- The MEM port of a stream's embedding: even places on MEM0, odd places on MEM1 (DESIGN CHOICE, log 45). -/
def embPort (x : Stream) : Bool := match x.placeNext with | some p => p.getLsbD 0 | none => false

/-- The embedding fetches of an intake start (R40): every bound stream without one landed or under way. -/
def startEmbeddings (s : State) (early : Bool) : State :=
  match taskPkg s with
  | none => s
  | some p =>
    if p.embRows = 0 then s else
    s.sp.streams.foldl (fun s x =>
      if x.placeNext.isSome && !x.emb && !x.embFly then
        let m := meterOffer s.dp (portMeter (embPort x)) (rowBytes * p.embRows) early
        let s := { s with dp := m.2 }
        modStream s x.id (fun y => { y with embFly := true, embTicket := m.1 })
      else s) s

/-- The embedding as it lands, converted in transit where the formats differ, and the flags of the conversion (R76, R79). -/
def embBytes (p : Package) (data : List Byte) : List Byte × NFlags :=
  let a := selOf p.embFmtS
  let b := selOf p.embFmtD
  if a.op = b.op ∧ a.fq = b.fq then (data, NFlags.none)
  else
    let r := convRows a b false (fun _ => true) p.embRows data (data.drop (rowBytes * p.embRows))
    (padTo (rowBytes * destRows a b p.embRows) r.1 ++ r.2.1, r.2.2)

/-- The core whose DE flags an embedding of a stream sets: the first of its place's chain, which takes the input (DESIGN CHOICE, log 123). -/
def embCore (s : State) (p : Package) (x : Stream) : Option (BitVec 3) :=
  (chainCores s (p.places.getD (x.placeNext.getD 0).toNat ⟨0, 0, 0, []⟩).chain).head?

/-- EMBEDDING_FETCH_COMPLETE. The address that a failed fetch reports is given by no rule: a free value (log 45). -/
def embeddingIn (s : State) (id : W16) (resp : BitVec 2) (data : List Byte) : State :=
  match findStream s id, taskPkg s with
  | some x, some p =>
    if !x.embFly || meterHolds s.dp (portMeter (embPort x)) x.embTicket then s else
    let s := modStream s id (fun y => { y with embFly := false, embTicket := none })
    if 2 ≤ resp.toNat then
      takeReport { s with dp := { s.dp with free := s.dp.free + 1 } }
        { memRespAt 0 resp (embPort x) 2 with info0 := Config.freeWord s.dp.free }
    else
      let b := embBytes p data
      let row := p.embBase + ((x.placeNext.getD 0).toNat) * rowsFor b.1.length
      let s := match embCore s p x with
        | some c => { s with dp := s.dp.modCore c (fun y => y.setNflag (nflagBits .de b.2) s.dp.cycle) }
        | none => s
      modStream (writeOrchard s row b.1) id (fun y => { y with emb := true })
  | _, _ => s

def execEmbeddingFetchComplete (stream : W16) (resp : BitVec 2) (data : List Byte) (s : State) :
    Host.Outcome State Fault Refusal := .next (embeddingIn s stream resp data)

/-! ### Samples (R40, R268, R406) -/

/-- The port is held by test loopback (Table 17-5): all ports, or SIN2 and SIN3 in split mode. -/
def sinLoop (s : State) (port : BitVec 2) : Bool :=
  s.err.ownSin == 2 || (s.err.ownSin == 3 && decide (2 ≤ port.toNat))

/-- The reason a packet is discarded (Table 20-4), the first that applies in the table's order. -/
def sinReason (s : State) (port : BitVec 2) (id : W16) (data : List Byte) (keepOk : Bool) : Option Nat :=
  match taskPkg s with
  | none => some 1
  | some p =>
    match findStream s id with
    | none => some 2
    | some x =>
      if x.place.isNone && x.placeNext.isNone then some 2
      else if data.length ≠ p.smpBytes then some 3
      else if !keepOk then some 4
      else if p.steps ≤ x.nextWindow.length then some 5
      else if sinLoop s port then some 6 else none

/-- The intake row of sample k of a place, in the half of the tick it is written for (DESIGN CHOICE, log 46). -/
def intakeRow (p : Package) (seq : W64) (place : W16) (k : Nat) : Nat :=
  p.intakeBase + ((seq.toNat % 2) * p.places.length + place.toNat) * p.steps + k

/-- The tick a sample that lands now belongs to, and whether an early tick has already left it behind. -/
def sampleTick (s : State) : W64 × Bool :=
  match s.sp.early with
  | some e => (s.tkc.seq + 1, e.early && e.dispatched)
  | none => (s.tkc.seq + 1, false)

/-- SIN_PACKET. -/
def sampleIn (s : State) (port : BitVec 2) (id : W16) (data : List Byte) (keepOk : Bool) : State :=
  let f := vget s.fwr.sin port
  match sinReason s port id data keepOk with
  | some r =>
    let f := { f with discard := f.discard + 1, lastReason := BitVec.ofNat 3 r, lastId := id }
    { s with fwr := { s.fwr with sin := vset s.fwr.sin port f } }
  | none =>
    let s := { s with fwr := { s.fwr with sin := vset s.fwr.sin port { f with accept := f.accept + 1 } } }
    match findStream s id, taskPkg s with
    | some x, some p =>
      let t := sampleTick s
      let pl := match x.placeNext with | some k => k | none => x.place.getD 0
      let s := if t.2 then { s with fwr := { s.fwr with spec := { s.fwr.spec with lateSmp := s.fwr.spec.lateSmp + 1 } } }
        else writeOrchard s (intakeRow p t.1 pl x.nextWindow.length) (padTo rowBytes data)
      modStream s id (fun y => { y with nextWindow := y.nextWindow ++ [data] })
    | _, _ => s

def execSinPacket (port : BitVec 2) (stream : W16) (data : List Byte) (keepOk : Bool) (s : State) :
    Host.Outcome State Fault Refusal := .next (sampleIn s port stream data keepOk)

end Sys2Proof.Machine
end

