-- ==== Sys2Proof/Machine/Learning.lean ====
section
/-!
DEFINITION. Machine/Learning: the gradients and the update of an adapter (13_adapter_learning R283, R284), and the adapter rows
that a tick writes (R286).
-/
namespace Sys2Proof.Machine

/-! ### Contributors (R283) -/

/-- M8G in blocks of 32, each with a scale that the store chooses (Table 13-2, R283). -/
def lrnFmt : OpFmt := { OpFmt.plain .m8g with blk := 3, smode := true }

/-- What one contributor supplies, as its loads give it: e, x and z; `inv`: a block of e is poisoned (R66). -/
structure Contributor where
  e : List Dec
  x : List Dec
  z : List Dec
  inv : Bool
deriving DecidableEq, Repr

/-- A contributor from the rows of its place: the error entry, then its retention rows, of which x takes its format's
exponent (DEDUCED, log 138). -/
def contributorOf (a : AdapterDef) (rows : List Byte) : Contributor :=
  let es := (List.range a.dOut).map (fun j =>
    loadElem lrnFmt (codeAt .m8g (rows.drop 0x20) j) (some (byteAt rows (0x10 + j / 32))) 0)
  let kept := rows.drop rowBytes
  let f := selOf a.inFmt
  { e := es.map (fun x => x.1), inv := es.any (fun x => x.2),
    x := (List.range a.dIn).map (fun l => decodeElem f.op.fmt f.op.sym (codeAt f.op.fmt kept l) f.fq),
    z := (List.range a.rank).map (fun k => decodeElem .i16 false (codeAt .i16 (kept.drop (rowBytes * retRows a)) k) a.qZ) }

/-! ### Gradients (R283) -/

/-- B[j][k] of adapter rows: A, row by row, then B (R168, R278). -/
def weightB (a : AdapterDef) (w : List Byte) (j k : Nat) : Dec :=
  decodeElem .i16 false (codeAt .i16 w (a.rank * a.dIn + j * a.rank + k)) a.qB

/-- gz of a contributor, as M8G at Q_GZ holds it, with the flags of its sums and stores. -/
def gzOf (a : AdapterDef) (w : List Byte) (c : Contributor) : List Dec × NFlags :=
  let one := fun (k : Nat) =>
    let d := dotEntry A88.zero ((List.range a.dOut).map (fun j => (weightB a w j k, c.e.getD j .zero))) a.eG
    let r := storeElem .m8g false (d.1.toDec a.eG) a.qGZ
    (decodeElem .m8g false r.1 a.qGZ, d.2.or r.2)
  let rs := (List.range a.rank).map one
  (rs.map (fun r => r.1), flagsAll (rs.map (fun r => r.2)))

/-- A row of a gradient: n sums at E_G, stored in blocks of 32 along the input dimension and read back; a poisoned block reads
as NaN. -/
def gradRow (a : AdapterDef) (n : Nat) (terms : Nat → List (Dec × Dec)) : List Dec × NFlags :=
  let ds := (List.range n).map (fun i => dotEntry A88.zero (terms i) a.eG)
  let st := storeElems lrnFmt 0x7F 0 32 (ds.map (fun d => d.1.toDec a.eG))
  ((List.range n).map (fun i => (loadElem lrnFmt (codeAt .m8g st.1 i) (some (byteAt st.2.1 (i / 32))) 0).1),
   (flagsAll (ds.map (fun d => d.2))).or st.2.2)

/-- The gradients of an update in the order of the adapter rows, gA then gB, with the flags of the ME. -/
def gradients (a : AdapterDef) (w : List Byte) (cs : List Contributor) : List Dec × NFlags :=
  let gz := cs.map (fun c => (c, gzOf a w c))
  let ga := (List.range a.rank).map (fun k => gradRow a a.dIn (fun l => gz.map (fun y => (y.2.1.getD k .zero, y.1.x.getD l .zero))))
  let gb := (List.range a.dOut).map (fun j => gradRow a a.rank (fun k => cs.map (fun c => (c.e.getD j .zero, c.z.getD k .zero))))
  ((ga ++ gb).flatMap (fun r => r.1),
   { (flagsAll ((ga ++ gb).map (fun r => r.2) ++ gz.map (fun y => y.2.2))) with
     inv := (ga ++ gb).any (fun r => r.2.inv) || gz.any (fun y => y.2.2.inv) || cs.any (fun c => c.inv) })

/-! ### The update (R284) -/

/-- A gradient element held within ±c, exactly. -/
def clipGrad (a : AdapterDef) (g : Dec) : Dec :=
  let c : Dec := .fin a.clipM a.clipE
  if 0 < (subExact g c).sig then c else if 0 < (subExact c.neg g).sig then c.neg else g

/-- One weight: its new code, and whether its one rounding was inexact. The rounded value is held exactly until the bound
(DEDUCED, log 138). -/
def stepWeight (a : AdapterDef) (lrsh : BitVec 4) (q : Int) (code : Nat) (g : Dec) : Nat × Bool :=
  let gc := clipGrad a g
  let v := subExact (.fin (signedOf 16 code) 0) (.fin (a.lrM * gc.sig) (a.lrE - lrsh.toNat + gc.exp - q))
  (codeOf 16 (clampInt (-a.wmax) a.wmax (rneScale v.sig v.exp)), !isIntScale v.sig v.exp)

/-- What an update gives: the new adapter rows, none where a gradient is not finite, and the flags of the ME and the VE. -/
structure Updated where
  rows : Option (List Byte)
  me : NFlags
  ve : NFlags
deriving DecidableEq, Repr

/-- The update of adapter rows w by the places of its contributors, under the rate shift of the oldest. -/
def updateRows (a : AdapterDef) (w : List Byte) (places : List (List Byte)) (lrsh : BitVec 4) : Updated :=
  let g := gradients a w (places.map (contributorOf a))
  if g.1.any (fun d => d.cls != .finite) then { rows := none, me := g.2, ve := .none }
  else
    let ws := g.1.zipIdx.map (fun x => stepWeight a lrsh (if x.2 < a.rank * a.dIn then a.qA else a.qB) (codeAt .i16 w x.2) x.1)
    { rows := some (ws.flatMap (fun x => bytesOf 2 x.1) ++ w.drop (2 * ws.length)), me := g.2,
      ve := { NFlags.none with inx := ws.any (fun x => x.2) } }

/-! ### The adapter rows of a tick (R286) -/

/-- The places that updates running in a tick consume. -/
def runningPlaces (s : State) (seq : W64) (mine : LrnPlace → Bool) : List LrnPlace :=
  s.sp.lrn.filter (fun l => l.inUse && l.runTick == seq && mine l)

/-- The oldest contributor: the lowest TGT_SEQ, the first accepted of equals (DEDUCED, log 138). -/
def oldestOf (ls : List LrnPlace) : Option LrnPlace :=
  ls.foldl (fun o l => match o with | none => some l | some k => if l.tgtSeq < k.tgtSeq then some l else some k) none

/-- Flags of an engine of a core raised in a tick: held while the tick is speculative (R101). -/
def raiseAt (s : State) (c : BitVec 3) (seq : W64) (f : W16) : State :=
  { s with dp := s.dp.modCore c (fun x =>
    if specTick s seq then { x with nflagHeld := holdFlags seq f x.nflagHeld } else x.setNflag f s.dp.cycle) }

/-- Adapter rows of a destination: those of the source, or the updated ones where an update runs; the places learn whether its
gradients were finite. -/
def writeAdapter (p : Package) (seq : W64) (a : AdapterDef) (src dst : Nat) (s : State) (ls : List LrnPlace) : State :=
  let w := orchardRows s src (adapterRows a)
  match oldestOf ls with
  | none => writeOrchard s dst w
  | some old =>
    let u := updateRows a w (ls.map (fun l => orchardRows s (p.lrnBase + l.slot * lrnRows p) (retRows a + 2))) old.lrsh
    let s := writeOrchard s dst (u.rows.getD w)
    let s := raiseAt s a.headCore seq (nflagBits .me u.me ||| nflagBits .ve u.ve)
    { s with sp := { s.sp with lrn := s.sp.lrn.map (fun l =>
      if ls.any (fun k => k.slot == l.slot) then { l with finite := u.rows.isSome } else l) } }

/-- The own adapters of a running stream-tick's stream, in its destination slot. -/
def writeOwn (p : Package) (seq : W64) (s : State) (y : StreamTick) : State :=
  match findStream s y.stream with
  | none => s
  | some x =>
    match x.slot with
    | none => s
    | some b =>
      if x.adapt ≠ 1 ∨ y.out ≠ .running then s else
      let at_ := fun (c : Bool) (a : AdapterDef) => b + (if c then slotRows p else 0) + a.slotRow
      (p.adapters.zipIdx.filter (fun k => k.1.group.isNone)).foldl (fun s k =>
        writeAdapter p seq k.1 (at_ x.cur k.1) (at_ (!x.cur) k.1) s
          (runningPlaces s seq (fun l => l.group.isNone && l.stream == y.stream && l.adapter == k.2))) s

/-- The adapter of a group with an update that runs, in the other slot of the group's pair (R156). -/
def writeGroup (p : Package) (seq : W64) (s : State) (g : GroupSlot) : State :=
  match groupAdapter p g.group, runningPlaces s seq (fun l => l.group == some g.group) with
  | some a, l :: ls =>
    let at_ := fun (c : Bool) => g.slot + (if c then adapterRows a else 0)
    writeAdapter p seq a (at_ g.cur) (at_ (!g.cur)) s (l :: ls)
  | _, _ => s

/-- The adapter rows that a tick writes. They are written at the start of its compute, and for an early tick, whose
destination slots hold committed state until the pit before it, at its boundary (DESIGN CHOICE, log 139). -/
def writeAdapters (s : State) (t : TickRec) : State :=
  match taskPkg s with
  | none => s
  | some p => s.sp.groups.foldl (writeGroup p t.seq) (t.sts.foldl (writeOwn p t.seq) s)

/-- Updates of a tick that is abandoned run in it no more: their places wait for another (R287). -/
def releaseUpdates (s : State) (seq : W64) : State :=
  { s with sp := { s.sp with lrn := s.sp.lrn.map (fun l => if l.inUse && l.runTick == seq then { l with inUse := false } else l) } }

end Sys2Proof.Machine
end

