-- ==== Sys2Proof/Machine/Fatal.lean ====
section
/-!
DEFINITION. Machine/Fatal: fatal faults and the crash dump (16_firmware R333, R334, R337).
-/
namespace Sys2Proof.Machine

/-- SOURCE code of a processor (Table 16-3). -/
def sourceCode : Proc → Nat
  | .xp => 0 | .pp => 1 | .sp => 2 | .cp k => 3 + k.toNat

/-- The XP, PP and SP exist; a CP exists on an active core. -/
def procPresent (s : State) : Proc → Bool
  | .cp k => corePresent s k
  | _ => true

/-- Every processor, in SOURCE order. -/
def allProcs : List Proc := [.xp, .pp, .sp] ++ (List.range 8).map (fun k => .cp (BitVec.ofNat 3 k))

/-- n bytes the spec leaves open. -/
def freeBytes (s : State) (n : Nat) : List Byte × State :=
  ((List.range n).map (fun k => Config.freeByte (s.dp.free + k)), { s with dp := { s.dp with free := s.dp.free + n } })

/-- The saved registers of every processor (R337): open for one that exists, zero for a fused one. -/
def savedRegs (s : State) : List Byte × State :=
  allProcs.foldl (fun (acc : List Byte × State) p =>
    if procPresent acc.2 p then
      let f := freeBytes acc.2 256
      (acc.1 ++ f.1, f.2)
    else (acc.1 ++ List.replicate 256 0, acc.2)) ([], s)

/-- A trace packet's 16 bytes. -/
def TracePkt.bytes (p : TracePkt) : List Byte := padTo 16 (p.words.flatMap (fun w => bytesOf 4 w.toNat))

/-- The trace memory (R336): in split mode the firmware's half, then the debug trace's. -/
def traceMemory (f : FwrFw) : List Byte :=
  let part := fun (dbg : Bool) => (f.trace.filter (fun p => p.debug == dbg)).flatMap TracePkt.bytes
  if f.trcSplit then padTo 32768 (part false) ++ padTo 32768 (part true) else padTo 65536 (f.trace.flatMap TracePkt.bytes)

/-- The dump's header (R337); its layout inside the 512 bytes is the model's (DESIGN CHOICE, log 47). -/
def dumpHeader (s : State) (cause procs : Nat) : List Byte :=
  padTo 512 (bytesOf 4 cause ++ bytesOf 4 procs ++ bytesOf 8 s.tkc.seq.toNat ++ bytesOf 4 s.fwr.fw.version.toNat ++
    s.fwr.fw.meas.toList.flatMap (fun w => bytesOf 4 w.toNat))

/-- Bytes of a crash dump. -/
def dumpLength : Nat := 75072

/-- The crash dump (R337); with no device key (R388) its last 64 bytes are free values (log 47). -/
def dumpBytes (s : State) (cause procs : Nat) : List Byte × State :=
  let r := savedRegs s
  let s := r.2
  let body := dumpHeader s cause procs ++ r.1 ++ padTo 2048 (s.err.fifo.flatMap errBytes) ++
    padTo 4096 (s.fwr.fw.recent.flatMap (fun l => padTo 64 l.bytes)) ++ traceMemory s.fwr.fw
  let k := if s.sec.keyReady then ((bytesOf 64 (Config.deviceSignature body).toNat).reverse, s) else freeBytes s 64
  (body ++ k.1, k.2)

/-- The driver has made room for the dump. -/
def mayDump (f : FwrFw) : Bool := f.dumpEn && decide (dumpLength ≤ f.dumpSize.toNat)

/-- The XP writes the dump where the driver has made room for it, and posts DUMP; else the dump is counted as not written. -/
def writeDump (s : State) (cause procs : Nat) : State :=
  let f := s.fwr.fw
  if mayDump f then
    let d := dumpBytes s cause procs
    let s := { d.2 with dp := { d.2.dp with ext := memWrite d.2.dp.ext f.dumpAddr.toNat d.1 } }
    let s := { s with fwr := { s.fwr with fw := { s.fwr.fw with dumpCnt := satInc s.fwr.fw.dumpCnt } } }
    postEvent s 6 (BitVec.ofNat 32 dumpLength) (bytesOf 8 f.dumpAddr.toNat)
  else { s with fwr := { s.fwr with fw := { f with dumpSkip := satInc f.dumpSkip } } }

/-- An UNRECOVERED report of a fatal fault (Table 17-1): its status, the status of the cause, is given by no rule (DESIGN CHOICE, log 48). -/
def fatalReport (s : State) : State :=
  let st := (Config.freeWord s.dp.free).setWidth 7
  unrecovered { s with dp := { s.dp with free := s.dp.free + 1 } } st 0xFFFF 3

/-- Stream-ticks that have not reached their pit are SKIPPED (R334, Table 2-4); those of a tick not yet dispatched are those of the streams
bound to its places. -/
def skipAll (s : State) : State :=
  let bound := (s.sp.streams.filter (fun x => x.placeNext.isSome)).length
  let n := ((s.sp.cur.toList ++ s.sp.early.toList).map (fun t => t.sts.length + t.unlisted)).sum +
    (match s.sp.cur with | some t => if t.dispatched then 0 else bound | none => 0)
  let s := { s with tkc := { s.tkc with skip := s.tkc.skip + BitVec.ofNat 32 n } }
  mapTicks s (fun t => { t with sts := t.sts.map (fun x => { x with out := .skipped }) })

/-- A second fatal fault of the cycle of the first: the one dump records both (R334), the causes in one byte each (log 47). -/
def joinFatal (s : State) (cause procs : Nat) : State :=
  match s.fwr.fw.fatal with
  | some f =>
    if f.cycle ≠ s.dp.cycle ∨ 256 ≤ f.cause then s else
    let f := { f with cause := f.cause + 256 * cause, procs := f.procs ||| procs }
    let s := { s with fwr := { s.fwr with fw := { s.fwr.fw with fatal := some f } } }
    if !f.dumped then s else
    let d := dumpBytes s f.cause f.procs
    { d.2 with dp := { d.2.dp with ext := memWrite d.2.dp.ext s.fwr.fw.dumpAddr.toNat d.1 } }
  | none => s

/-- A fatal fault (R334): the level becomes FAULT, no stream-tick commits any more, no boundary is placed, and unless the XP has failed it writes the
crash dump and a SERVICE event. A later fatal fault changes nothing further. -/
def fatalFault (s : State) (cause procs : Nat) (xpFailed : Bool) : State :=
  if s.fwr.fw.level = 3 then (if xpFailed then s else joinFatal s cause procs) else
  let s := skipAll (fatalReport s)
  let s := { s with fwr := { s.fwr with fw := { s.fwr.fw with level := 3 } },
                    tkc := { s.tkc with startIn := none, edgeIn := none } }
  let s := { s with err := { s.err with jrnlActive := false } }
  if xpFailed then { s with sec := { s.sec with bootState := 6 } } else
    let f : FatalRec := ⟨s.dp.cycle, cause, procs, mayDump s.fwr.fw⟩
    postService (writeDump { s with fwr := { s.fwr with fw := { s.fwr.fw with fatal := some f } } } cause procs)

end Sys2Proof.Machine
end

