-- ==== Sys2Proof/Machine/Trace.lean ====
section
/-!
DEFINITION. Machine/Trace: the trace memory (16_firmware R336): packets of the firmware's trace points and of the debug trace, and the
drain to the host's buffer.
-/
namespace Sys2Proof.Machine

/-- Packets an area holds: all of the trace memory, or a half in split mode. -/
def traceCap (f : FwrFw) : Nat := if f.trcSplit then 2048 else 4096

/-- The packets of a user. -/
def tracePart (f : FwrFw) (debug : Bool) : List TracePkt := f.trace.filter (fun p => p.debug == debug)

/-- The user's oldest packet goes. -/
def dropOldest (f : FwrFw) (debug : Bool) : FwrFw :=
  { f with trace := match f.trace.findIdx? (fun p => p.debug == debug) with | some i => f.trace.eraseIdx i | none => f.trace }

/-- Address of the next drained packet: the host's buffer is a ring of 2^(12 + LOG2) bytes. -/
def drainAddr (f : FwrFw) : Nat :=
  f.drainLo.toNat + 2 ^ 32 * f.drainHi.toNat + f.drainPos % 2 ^ (12 + f.drainLog2.toNat)

/-- The oldest firmware packet copied to the host, if meter 12 admits its 16 bytes. -/
def drainOne (s : State) (p : TracePkt) : State :=
  let m := meterAsk s.dp 12 16 s.fwr.fw.trcTicket
  let f := { s.fwr.fw with trcTicket := m.2.1 }
  if !m.1 then { s with dp := m.2.2, fwr := { s.fwr with fw := f } } else
  let d := { m.2.2 with ext := memWrite m.2.2.ext (drainAddr f) p.bytes }
  { s with dp := d, fwr := { s.fwr with fw := { dropOldest f false with drainPos := f.drainPos + 16 } } }

/-- The drain: firmware packets in order, as far as the meter admits them. -/
def drainTrace (s : State) : State :=
  if s.fwr.fw.drainEn then (tracePart s.fwr.fw false).foldl (fun s p =>
    if (tracePart s.fwr.fw false).head? == some p then drainOne s p else s) s
  else s

/-- A user's packet joins its area; a full one refuses it or, with WRAP at 1, gives up its oldest packet. While a drain is deferred a
full area refuses. -/
def addPacket (s : State) (p : TracePkt) : State :=
  let f := s.fwr.fw
  if (tracePart f p.debug).length < traceCap f then
    { s with fwr := { s.fwr with fw := { f with trace := f.trace ++ [p] } } }
  else if f.trcWrap && (p.debug || !f.drainEn) then
    let g := dropOldest f p.debug
    { s with fwr := { s.fwr with fw := { g with trace := g.trace ++ [p] } } }
  else if p.debug then s
  else { s with fwr := { s.fwr with fw := { f with trcDrop := f.trcDrop + 1 } } }

/-- The words of a packet. -/
def packetWords (s : State) (source : BitVec 4) (point : BitVec 12) (arg0 arg1 : W32) : List W32 :=
  [BitVec.ofNat 32 s.tkc.time, BitVec.ofNat 32 (s.tkc.seq.toNat % 65536 + 65536 * (point.toNat + 4096 * source.toNat)), arg0, arg1]

/-- A trace point is reached: the firmware's points are taken while FWR_TRC_EN is 1 and their class is enabled, the debug trace's while
it owns its area. -/
def tracePoint (s : State) (source : BitVec 4) (point : BitVec 12) (cls : BitVec 4) (arg0 arg1 : W32) (debug : Bool) : State :=
  let p : TracePkt := ⟨debug, packetWords s source point arg0 arg1⟩
  if debug then (if s.dbg.trace then addPacket s p else s)
  else if s.fwr.fw.trcEn && s.fwr.fw.trcMask.getLsbD cls.toNat then drainTrace (addPacket (drainTrace s) p) else s

/-- TRACE_PACKET. -/
def execTracePacket (source : BitVec 4) (point : BitVec 12) (cls : BitVec 4) (arg0 arg1 : W32) (debug : Bool) (s : State) :
    Host.Outcome State Fault Refusal := .next (tracePoint s source point cls arg0 arg1 debug)

end Sys2Proof.Machine
end

