-- ==== Sys2Proof/Machine/FwrView.lean ====
section
/-!
DEFINITION. Machine/FwrView: the words that firmware shows in the FWR block (R170, R223, R250, R265, R277, R289, R339, R407):
those it writes at each pit, and those it keeps current.
-/
namespace Sys2Proof.Machine

/-- Two 16-bit halves of a word, low half first. -/
def halves (lo hi : W16) : W32 := hi ++ lo

/-- A bit of a word. -/
def bitAt (i : Nat) (b : Bool) : W32 := if b then 1#32 <<< i else 0

/-- A field of a word from bit i up. -/
def fieldBits {n : Nat} (i : Nat) (v : BitVec n) : W32 := (v.setWidth 32) <<< i

/-- Device synchronisation registers (Table 10-7). -/
def syncWords (s : State) : List (Nat × W32) :=
  [(0x8800, s.dp.dflg.setWidth 32), (0x8804, (s.dp.dflg >>> 32).setWidth 32)] ++
  (List.range 16).map (fun n => let w := vget s.dp.wct (BitVec.ofNat 4 n); (0x8810 + 4 * n, halves w.val w.lim)) ++
  [(0x8850, fieldBits 0 s.fwr.npdCnt ||| fieldBits 16 s.fwr.npdCores), (0x8854, fieldBits 0 s.fwr.toCnt), (0x8858, s.fwr.npdSeq)]

/-- An early tick is unconfirmed; a predicted tick awaits its descriptor (Table 12-4). -/
def specActive (s : State) : Bool := match s.sp.early with | some e => e.early && e.dispatched && !e.confirmed | none => false
def predicting (s : State) : Bool :=
  (s.sp.cur.toList ++ s.sp.early.toList).any (fun t => t.predicted && (match t.cmd with | some c => c.ctlWait | none => true))

/-- Speculation counters (Table 12-4). -/
def specWords (s : State) : List (Nat × W32) :=
  let p := s.fwr.spec
  [(0x8C0C, p.earlyCnt), (0x8C10, p.nostart), (0x8C14, p.predCnt), (0x8C18, p.discard), (0x8C1C, halves p.mismatch p.lateDesc),
   (0x8C24, p.lateSmp)]

/-- Learning counters (Table 13-4). -/
def lrnWords (s : State) : List (Nat × W32) :=
  let l := s.fwr.lrn
  [(0x8E04, l.accept), (0x8E08, l.refuse), (0x8E0C, fieldBits 0 l.refReason ||| fieldBits 16 l.refId), (0x8E10, l.commit),
   (0x8E14, l.requeue), (0x8E18, halves l.nonfin (BitVec.ofNat 16 s.sp.lrn.length)), (0x8E1C, fieldBits 0 l.blkFail)]

/-- SIN registers (Table 20-5). -/
def sinWords (s : State) : List (Nat × W32) :=
  (List.range 4).flatMap (fun p =>
    let x := vget s.fwr.sin (BitVec.ofNat 2 p)
    [(0x9000 + 16 * p, x.accept), (0x9004 + 16 * p, x.discard), (0x9008 + 16 * p, fieldBits 0 x.lastId ||| fieldBits 16 x.lastReason)]) ++
  [(0x9040, fieldBits 0 s.fwr.smpSz)]

/-- What the SP writes at each pit. -/
def pitWords (s : State) : List (Nat × W32) :=
  syncWords s ++ specWords s ++ lrnWords s ++ sinWords s ++ [(0x8264, s.fwr.fw.uptime)]

end Sys2Proof.Machine
end

