-- ==== Sys2Proof/Machine/Power.lean ====
section
/-!
DEFINITION. Machine/Power: supply levels, the power cap and the current budgeter (19_power_clocks_identity R376 to R387), and
the service levels they bring (16_firmware R329, R330, Table 16-2).
-/
namespace Sys2Proof.Machine

/-! ### Limits (R381 to R383) -/

/-- The package's limit of meter m (13: the level-3 limit). -/
def pkgLimit (p : Package) (m : Nat) : Nat := (p.pkgLim.getD m 0).toNat

/-- `ea` of R381, as a 32-bit integer. -/
def energyAvail (s : State) : Int := ((s.pwr.cap.toNat : Int) - 3200) * s.tkc.period.toNat / 400000

/-- The cap leaves the planned compute energy. -/
def capCovers (s : State) : Bool := decide ((s.pwr.ecomp.toNat : Int) ≤ energyAvail s)

/-- The level-3 limit that the cap leaves learning (R381). -/
def learnLimit (s : State) (p : Package) : Nat :=
  if capCovers s then min (pkgLimit p 13) (((energyAvail s - s.pwr.ecomp.toNat) * 16000 / 3).toNat) else 0

/-- The limit the PP gives meter m (R49, R381, R383). -/
def fitLimit (s : State) (p : Package) (m : Nat) : Nat :=
  let full := s.fwr.fw.level == 2
  let l3 := pkgLimit p 13
  if m < 8 then
    if full then (if capCovers s then pkgLimit p m else 0) else min (pkgLimit p m) (s.tkc.period.toNat / 4)
  else if m < 13 then pkgLimit p m
  else if s.err.splitL3 then (if m = 13 then l3 / 2 else l3 - l3 / 2)
  else if m = 13 then (if full && s.err.ownL3 == 1 then learnLimit s p else l3)
  else (vget s.dp.meters 14).limP.toNat

/-- The cap lowers a limit below its package value. -/
def capLowers (s : State) (p : Package) : Bool :=
  s.fwr.fw.level == 2 && (!capCovers s || (s.err.ownL3 == 1 && !s.err.splitL3 && decide (learnLimit s p < pkgLimit p 13)))

/-- The PP derives pending limits (R381): at package load, after a write of PWR_CAP, when the level becomes FULL or the owners of
the level-3 meter change. -/
def ppFit (s : State) : State :=
  let s := { s with pwr := { s.pwr with eavail := BitVec.ofInt 32 (energyAvail s) } }
  match s.sp.task with
  | none => s
  | some t =>
    let ms := (List.range 15).foldl (fun (v : Vector Meter (2 ^ 4)) m =>
      let i := BitVec.ofNat 4 m
      vset v i ((vget v i).setPending s.dp.cycle (BitVec.ofNat 32 (fitLimit s t.pkg m)))) s.dp.meters
    { s with dp := { s.dp with meters := ms }, pwr := { s.pwr with capLoweredP := capLowers s t.pkg } }

/-- A byte lane of a write: the written byte where its strobe is 1. -/
def mergeBytes (old value : W32) (strb : BitVec 4) : W32 :=
  (List.range 4).foldl (fun (v : W32) k =>
    if strb.getLsbD k then (v &&& ~~~(0xFF#32 <<< (8 * k))) ||| (value &&& (0xFF#32 <<< (8 * k))) else v) old

/-- PWR_CAP (R381, Table 19-6): the cap within 3,500 to 10,000, the step limit within 8 to 64 while no task is loaded; any other
value is ignored and sets PWR_WR_IGN. -/
def writeCap (s : State) (value : W32) (strb : BitVec 4) : State :=
  let old : W32 := (s.pwr.stepMax ++ s.pwr.cap).setWidth 32
  let v := mergeBytes old value strb
  let cap := v.extractLsb' 0 16
  let step := v.extractLsb' 16 8
  let capTouched := strb.getLsbD 0 || strb.getLsbD 1
  let capOk := decide (3500 ≤ cap.toNat) && decide (cap.toNat ≤ 10000)
  let stepOk := s.sp.task.isNone && decide (8 ≤ step.toNat) && decide (step.toNat ≤ 64)
  let stepTouched := strb.getLsbD 2 && step != s.pwr.stepMax
  let p := { s.pwr with cap := if capTouched && capOk then cap else s.pwr.cap,
                        stepMax := if stepTouched && stepOk then step else s.pwr.stepMax,
                        wrIgn := s.pwr.wrIgn || (capTouched && !capOk) || (stepTouched && !stepOk) }
  if capTouched && capOk then ppFit { s with pwr := p } else { s with pwr := p }

def execPwrCap (value : W32) (strb : BitVec 4) (s : State) : Host.Outcome State Fault Refusal := .next (writeCap s value strb)

/-! ### Levels -/

/-- A twin that syncs as role 1 stays at SLOE (R362, R379). -/
def holdsAtSloe (s : State) : Bool := s.twn.role && (s.twn.state == .syncing || s.twn.state == .attaching)

/-- Step 7 of Table 16-2 holds: the scrub is complete with no failed row, and no sync keeps the device at SLOE; the PP raises the
request to NOMINAL. -/
def raiseFull (s : State) : State :=
  if s.fwr.fw.level == 1 && s.fwr.fw.scrubbed && !s.fwr.fw.scrubFail && !holdsAtSloe s && s.pwr.gnt == s.pwr.req && s.pwr.req == 1 then
    { s with pwr := { s.pwr with req := 2 } }
  else s

/-- The device enters FULL (step 8): ACLK at 400 MHz, limits fitted, a SERVICE event. -/
def enterFull (s : State) : State :=
  postService (ppFit { s with pwr := { s.pwr with aclkHalf := false, halfNext := none },
                              fwr := { s.fwr with fw := { s.fwr.fw with level := 2 } } })

/-- The role-1 twin returns to SLOE (R379): ACLK halves, and the PP lowers its request in the next cycle. -/
def enterSloe (s : State) : State :=
  let s := { s with err := { s.err with jrnlActive := false } }
  postService (ppFit { s with pwr := { s.pwr with aclkHalf := true, halfNext := none, req := 1 },
                              fwr := { s.fwr with fw := { s.fwr.fw with level := 1 } } })

/-- A divider change at a boundary (R29, R376, R378). -/
def boundaryAclk (s : State) : State :=
  match s.pwr.halfNext with
  | some false => enterFull s
  | some true => enterSloe s
  | none => s

/-- Ticks do not run: TKC_RUN and TKC_ACTIVE are 0 (R37). -/
def ticksOff (s : State) : Bool := !s.tkc.run && !s.tkc.active

/-- A kill written before the SP ran is done once it runs (R431): no task is loaded and no tick runs. -/
def bootKill (s : State) : State :=
  if s.hif.kill then
    postEvent { s with hif := { s.hif with kill := false }, tkc := { s.tkc with run := false, stopAt := false, startIn := none, edgeIn := none, edgeOnly := false, extWait := false } } 3 0 []
  else s

/-- Steps 4 to 6 of Table 16-2 with the grant of LOW: ACLK at 200 MHz, core memories cleared (R218), the CPs started, the Orchard
scrub begun (its rows read 0 from here on: nothing can read one it has not reached, log 55), the initial FWR values in place, FWR_PENDING 0 once no write is queued, and level SLOE. -/
def startService (s : State) : State :=
  let cps := (List.range 8).foldl (fun (v : Vector ProcRec (2 ^ 3)) k =>
    if k < activeCores s then
      let i := BitVec.ofNat 3 k
      vset v i { vget v i with released := true }
    else v) s.cps
  let d := { s.dp with dev := [], ecc := [], wcls := [] }
  let f := { s.fwr.fw with level := 1, scrubFrom := some s.dp.cycle }
  postService { bootKill s with
    pwr := { s.pwr with aclkRun := true, aclkHalf := true }, dp := d, cps := cps, sec := { s.sec with bootState := 4 },
    spp := { s.spp with released := true },
    fwr := { s.fwr with fw := f, pending := !s.fwr.queue.isEmpty, fell := s.fwr.queue.isEmpty, shown := pitWords s } }

/-- PWR_GNT (R377, R378): a grant of the requested level. -/
def takeGrant (s : State) (lvl : BitVec 2) : State :=
  if lvl ≠ s.pwr.req ∨ lvl = s.pwr.gnt ∨ s.fwr.fw.level = 3 then s else
  let raise := decide (s.pwr.gnt.toNat < lvl.toNat)
  let s := { s with pwr := { s.pwr with gnt := lvl, gntLate := false } }
  if !raise then s
  else if lvl = 1 ∧ s.fwr.fw.level = 0 then startService s
  else if lvl = 2 then
    if ticksOff s then enterFull s else { s with pwr := { s.pwr with halfNext := some false } }
  else s

def execPwrGnt (lvl : BitVec 2) (s : State) : Host.Outcome State Fault Refusal := .next (takeGrant s lvl)

/-- POWER_FAULT (R380): the grant falls below the request unrequested; ACLK stops, and the PP raises a fatal fault. -/
def powerFault (s : State) (lvl : BitVec 2) : State :=
  if s.pwr.gnt.toNat ≤ lvl.toNat ∨ s.pwr.req.toNat ≤ lvl.toNat then s
  else fatalFault { s with pwr := { s.pwr with gnt := lvl, gntFault := true, aclkRun := false } } 3 (2 ^ sourceCode .pp) false

def execPowerFault (lvl : BitVec 2) (s : State) : Host.Outcome State Fault Refusal := .next (powerFault s lvl)

/-- PWR_GNT_LATE (R378): a raise still without its grant 1 ms after the request. -/
def execPwrGntLate (s : State) : Host.Outcome State Fault Refusal :=
  .next (if s.pwr.gnt.toNat < s.pwr.req.toNat then { s with pwr := { s.pwr with gntLate := true } } else s)

/-- Cycles of the Orchard initialisation scrub for n rows (R330): three a row, and a pause of 24 after every 64 rows. -/
def scrubCycles (n : Nat) : Nat := 3 * n + 24 * (n / 64)

/-- Rows the initialisation scrub has handled after n cycles. -/
def scrubbedAfter (n : Nat) : Nat := min 131072 (64 * (n / 216) + min 64 (n % 216 / 3))

/-- FWR_FW_SCRUB_ROWS: rows still to scrub. -/
def scrubLeft (s : State) : Nat :=
  match s.fwr.fw.scrubFrom with
  | some c => if s.fwr.fw.scrubbed then 0 else 131072 - scrubbedAfter (s.dp.cycle - c)
  | none => 0

/-- Cycles until the scrub has handled n rows. -/
def scrubWait (s : State) (n : Nat) : Nat :=
  match s.fwr.fw.scrubFrom with
  | some c => if s.fwr.fw.scrubbed then 0 else c + scrubCycles n - s.dp.cycle
  | none => 0

/-- The scrub's end (R330): a failed row keeps the device at SLOE; otherwise it moves toward FULL. -/
def endScrub (s : State) (failed : Option (BitVec 17)) : State :=
  let f := { s.fwr.fw with scrubbed := true, scrubFail := failed.isSome }
  let s := { s with fwr := { s.fwr with fw := f } }
  match failed with
  | some r => { s with dp := { s.dp with orLast := BitVec.ofNat 23 (32 * r.toNat), orLastW := false } }
  | none => raiseFull s

/-- INIT_SCRUB_COMPLETE: the cycles of the scrub pass, and it ends. -/
def scrubDone (s : State) (failed : Option (BitVec 17)) : State :=
  let n := scrubWait s 131072
  if s.fwr.fw.level = 0 ∨ s.fwr.fw.level = 3 ∨ s.fwr.fw.scrubbed ∨ !mayReach s n then s else
  let s := s.pass n
  if frozen s then s else endScrub s failed

def execInitScrubComplete (failed : Option (BitVec 17)) (s : State) : Host.Outcome State Fault Refusal := .next (scrubDone s failed)

/-! ### The budgeter (R385) -/

/-- Units of ballast a core draws at most. -/
def maxBallast : Nat := 27

/-- A core's ballast in a window: its schedule entry, or what keeps the core's fall within its share of the step limit. -/
def coreBallast (step prev work sched : Nat) : Nat := min maxBallast (max sched (prev - step / 8 - work))

/-- The estimate moves by at most the step limit between windows. -/
def stepTo (step prev want : Nat) : Nat := max (prev - step) (min (prev + step) want)

/-- A window of 256 cycles: the work of each core, its schedule entry, and what follows. -/
def budgetWindow (p : Pwr) (work sched : List Nat) : Pwr :=
  let step := p.stepMax.toNat
  let bal := (List.range 8).map (fun k => coreBallast step (p.coreTot.getD k 0) (work.getD k 0) (sched.getD k 0))
  let tot := (List.range 8).map (fun k => work.getD k 0 + bal.getD k 0)
  let est := stepTo step p.winEst tot.sum
  { p with winEst := est, winPeak := max p.winPeak est, winSum := p.winSum + est, winCnt := p.winCnt + 1, coreTot := tot,
           ballast := bal, balTick := if bal.any (fun b => b != 0) then p.balTick + 256 else p.balTick }

def execBallastWindow (work sched : List Nat) (s : State) : Host.Outcome State Fault Refusal :=
  .next (if s.pwr.aclkRun then { s with pwr := budgetWindow s.pwr work sched } else s)

/-- Power in mW of a mean estimate in units of 1/16 A at the granted level's supply (Table 19-2). -/
def unitsToMw (gnt : BitVec 2) (units : Nat) : Nat := units * (if gnt = 2 then 750 else 650) / 16

/-- The figures of the completed tick are shown, and the next tick's begin. -/
def boundaryPower (p : Pwr) : Pwr :=
  { p with est := BitVec.ofNat 16 (unitsToMw p.gnt (p.winSum / max 1 p.winCnt)), peak := BitVec.ofNat 8 p.winPeak,
           balCyc := BitVec.ofNat 32 p.balTick, winSum := 0, winCnt := 0, winPeak := 0, balTick := 0,
           capCnt := if p.capLoweredP then p.capCnt + 1 else p.capCnt }

end Sys2Proof.Machine
end

