-- ==== Sys2Proof/Machine/TwinOps.lean ====
section
/-!
DEFINITION. Machine/TwinOps: the Amielle link and the pairing state (18_twin_pairing R356 to R374) as the tick uses them: frames
and credits, state changes, seals and verdicts, deltas.
-/
namespace Sys2Proof.Machine

/-! ### Frames and credits (R356 to R359) -/

/-- TWL_TX_UP. -/
def txUp (s : State) : Bool := s.twn.linkEn && s.twn.state != .fenced

/-- TWN_LINK_UP: TWL_RX_UP is high and LINK_DOWN is not declared. -/
def linkUp (t : Twn) : Bool := t.rxUp && !t.down

/-- Beats of a frame: the header and its payload of 32-byte beats. -/
def Frame.beats (f : Frame) : Nat := 1 + (f.payload.length + 31) / 32

/-- FCRC (R357): the plain CRC-32C of header bytes 0 to 27 and the payload. -/
def frameCrc (header payload : List Byte) : W32 :=
  BitVec.ofNat 32 (crcResult 32 true true (crcBytes 32 0x1EDC6F41 true 0xFFFFFFFF (header ++ payload)))

/-- A frame as it is sent. -/
def mkFrame (type copy : Byte) (seq : W64) (fields payload : List Byte) : Frame :=
  let fields := padTo 16 fields
  let payload := padTo (32 * ((payload.length + 31) / 32)) payload
  let head := [type, copy] ++ bytesOf 2 (payload.length / 32) ++ bytesOf 8 seq.toNat ++ fields
  { type := type, copy := copy, seq := seq, fields := fields, payload := payload, fcrc := frameCrc head payload }

/-- Order of waiting frames (R359): ALIGN, VERDICT, SIG, CTRL, then DELTA and DELTA_END. -/
def Frame.rank (f : Frame) : Nat :=
  match f.type.toNat with | 1 => 0 | 3 => 1 | 2 => 2 | 6 => 3 | _ => 4

/-- The waiting frame to be sent first: the least rank, first in order. -/
def nextFrame (l : List Frame) : Option Nat :=
  (List.range 5).findSome? (fun r => l.findIdx? (fun f => f.rank == r))

/-- Frames sent as far as credits go; the fuel is the number of frames. -/
def sendFrames : Nat → Twn → Twn
  | 0, t => t
  | n + 1, t =>
    match nextFrame t.tx with
    | none => t
    | some i =>
      match t.tx[i]? with
      | none => t
      | some f =>
        if f.beats ≤ t.credit then
          sendFrames n { t with tx := t.tx.eraseIdx i, wire := t.wire ++ [f], credit := t.credit - f.beats,
                                txBytes := t.txBytes + 32 * f.beats }
        else t

/-- What waits is sent while the link is up. -/
def flushLink (s : State) : State :=
  if txUp s && linkUp s.twn then { s with twn := sendFrames s.twn.tx.length s.twn } else s

/-- Frames to be sent. -/
def sendAll (s : State) (fs : List Frame) : State :=
  if s.twn.state = .fenced then s else flushLink { s with twn := { s.twn with tx := s.twn.tx ++ fs } }

/-- Beats received: the receiver returns their credits (R358). -/
def receiveBeats (s : State) (n : Nat) : State :=
  { s with twn := { s.twn with rxBytes := s.twn.rxBytes + 32 * n, crdOut := s.twn.crdOut + n } }

/-- A good frame of n beats received. -/
def goodFrame (s : State) (n : Nat) : State :=
  let s := receiveBeats s n
  { s with twn := { s.twn with badFrames := 0 } }

/-! ### Pairing states (R360, Table 18-6) -/

def twnCode : TwnState → Nat
  | .unpaired => 0 | .attaching => 1 | .syncing => 2 | .mirror => 3 | .active => 4 | .standby => 5 | .selftest => 6
  | .fenced => 7

/-- A TWIN event. -/
def twinEvent (s : State) : State :=
  let seq := if s.twn.state = .mirror then s.tkc.seq else s.twn.lastSeq
  postEvent s 5 (BitVec.ofNat 32 (twnCode s.twn.state)) (bytesOf 8 seq.toNat ++ [s.twn.reason])

/-- A TWIN report of a reason (Table 17-1). -/
def twinReport (s : State) (stream : W16) (reason : Nat) : State :=
  takeReport s (deviceReport 13 0xE 13 (stream.zeroExtend 32) (BitVec.ofNat 32 reason))

/-- The level-3 meter changes hands: bit 0 learning, bit 1 mirroring (Table 17-5). -/
def setL3 (s : State) (mirroring on : Bool) : State :=
  ppFit (if on then moveOwn s 3 mirroring true else leaveOwn s 3 mirroring)

/-- A package that needs the level-3 meter has passed its checks and is being loaded (R354; log 140). -/
def loadNeedsL3 (s : State) : Bool :=
  match s.sp.load with | some j => (match j.passed with | some p => !p.adapters.isEmpty | none => false) | none => false

/-- Mirroring can claim the level-3 meter (R353): it is free, or its split mode is selected and its part is free. -/
def canClaimL3 (s : State) : Bool := mayOwn s 3 true s.err.splitL3 && (s.err.splitL3 || !loadNeedsL3 s)

/-- The frame that waits with the mirroring meter leaves it (R47, R371). -/
def dropDeltaTicket (s : State) : State :=
  { s with dp := meterDrop (meterDrop s.dp 13 s.twn.deltaTicket) 14 s.twn.deltaTicket, twn := { s.twn with deltaTicket := none } }

/-- A twin leaves its pair. -/
def unpair (s : State) : State :=
  let t := { s.twn with change := none, attach := false, peer := none, mine := [], sigs := [], verdicts := [], rows := [],
                        rxFrames := 0, changes := [], deltaOf := none, deltaLeft := [], deltaTicket := none, deltaIds := [], deltaSent := 0,
                        carry := [], quiet := none, testLeft := 0, own := none, other := none, copied := false }
  setL3 { dropDeltaTicket s with twn := t } true false

/-- A new pairing state with its reason and event. -/
def setTwn (s : State) (st : TwnState) (reason : Byte) : State :=
  twinEvent { s with twn := { s.twn with state := st, reason := reason } }

/-- A change of state is called for: the first one stands. -/
def callChange (s : State) (c : TwnChange) : State :=
  if s.twn.change.isSome then s else { s with twn := { s.twn with change := some c } }

/-- The pair detaches at the first boundary at least 4,000 TU later (R363); a standby that does not take over stops its ticks. -/
def callDetach (s : State) (reason : Byte) : State :=
  if s.twn.state = .unpaired ∨ s.twn.state = .fenced then s
  else callChange s ⟨4000, .unpaired, reason, s.twn.state == .standby⟩

/-- A takeover by a standby (R374). -/
def callTakeover (s : State) : State :=
  if s.twn.state = .standby then callChange s ⟨4000, .unpaired, 0xC, false⟩ else s

/-- LINK_DOWN is declared (R359, R363, R374). -/
def declareDown (s : State) : State :=
  if s.twn.down then s else
  let s := { s with twn := { s.twn with down := true } }
  if s.twn.state = .unpaired ∨ s.twn.state = .fenced then s
  else
    let s := twinReport s 0xFFFF 5
    if s.twn.state = .standby ∧ s.twn.auto then callTakeover s else callDetach s 5

/-- The pair is in sync or beyond: what role 1 does then. -/
def isStandby (s : State) : Bool :=
  s.twn.state == .standby || (s.twn.state == .syncing && s.twn.role)

/-- A tick that starts now releases no command block (R362, R368, R373, R374). -/
def passiveTick (s : State) (seq : W64) : Bool := isStandby s || s.twn.quiet == some seq

/-! ### State frames (R357, R362, R370) -/

/-- DELTA frames of consecutive rows: eight rows a frame. -/
def deltaFrames (seq : W64) (stream : W16) (group : Byte) : Nat → Nat → List Byte → List Frame
  | 0, _, _ => []
  | fuel + 1, row, data =>
    if data.isEmpty then [] else
    let n := min 8 (data.length / rowBytes)
    mkFrame 4 0 seq (bytesOf 2 stream.toNat ++ [group, 0] ++ bytesOf 4 row ++ [BitVec.ofNat 8 n]) (data.take (rowBytes * n)) ::
      deltaFrames seq stream group fuel (row + n) (data.drop (rowBytes * n))

/-- A CTRL frame: its code and payload. -/
def ctrlFrame (seq : W64) (code : Byte) (payload : List Byte) : Frame := mkFrame 6 0 seq [code] payload

/-- A stream-table change as its CTRL frame carries it (DESIGN CHOICE, log 49). -/
def changeFrame (c : PendChange) : Frame :=
  ctrlFrame c.seq 4 ([c.op, c.desc.flags] ++ bytesOf 2 c.desc.stream.toNat ++ [c.desc.adapt, c.desc.group] ++
    bytesOf 2 c.desc.place.toNat ++ bytesOf 8 c.desc.addr.toNat)

/-- The rows of a stream's committed slot that a delta carries: state and side rows, own adapter rows only when `adapter`. -/
def streamDelta (s : State) (p : Package) (seq : W64) (x : Stream) (adapter : Bool) : List Frame :=
  let all := committedRows s p x
  if adapter || x.adapt != 1 then deltaFrames seq x.id 0 (slotRows p) 0 all
  else
    let a := adapterOfs p
    deltaFrames seq x.id 0 (slotRows p) 0 (all.take (rowBytes * a)) ++
      deltaFrames seq x.id 0 (slotRows p) (slotRows p - 1) (all.drop (rowBytes * (slotRows p - 1)))

/-- The rows of a group's current slot. -/
def groupDelta (s : State) (p : Package) (seq : W64) (g : GroupSlot) : List Frame :=
  match groupAdapter p g.group with
  | some a => deltaFrames seq 0xFFFF g.group (adapterRows a) 0
      (orchardRows s (g.slot + (if g.cur then adapterRows a else 0)) (adapterRows a))
  | none => []

/-- The rows of a stream's init slot, after those of its slot (DESIGN CHOICE, log 49). -/
def initDelta (s : State) (p : Package) (seq : W64) (x : Stream) : List Frame :=
  match x.init with
  | some b => deltaFrames seq x.id 0 p.slotState (slotRows p) (orchardRows s b p.slotState)
  | none => []

/-- The Orchard rows that a stream's part of a delta or of a sync is read from. -/
def deltaReads (p : Package) (x : Stream) (whole : Bool) : List Nat :=
  (if x.slot.isSome then
    let l := committedList p x
    if whole || x.adapt != 1 then l else l.take (adapterOfs p) ++ l.drop (slotRows p - 1) else [])

/-- Those of a group's part. -/
def groupReads (p : Package) (g : GroupSlot) : List Nat :=
  match groupAdapter p g.group with
  | some a => (List.range (adapterRows a)).map (fun k => g.slot + (if g.cur then adapterRows a else 0) + k)
  | none => []

/-- Those of a stream's init slot. -/
def initReads (p : Package) (x : Stream) : List Nat :=
  match x.init with | some b => (List.range p.slotState).map (fun k => b + k) | none => []

/-- DELTA_END. -/
def deltaEnd (seq : W64) (frames streams : Nat) (abandon : Bool) : Frame :=
  mkFrame 5 0 seq (bytesOf 4 frames ++ bytesOf 2 streams ++ [BitVec.ofNat 8 abandon.toNat]) []

/-- A delta not fully sent by its limit is abandoned (R371): its streams join the next delta; the stream-table changes of it
that were not sent stay. -/
def abandonDelta (s : State) : State :=
  match s.twn.deltaOf with
  | none => s
  | some u =>
    if s.twn.deltaLeft.isEmpty || s.twn.state != .active then s else
    let s := dropDeltaTicket s
    let t := { s.twn with deltaOf := none, deltaLeft := s.twn.deltaLeft.filter (fun f => f.type == 6), carry := s.twn.deltaIds,
                          deltaIds := [], abandon := s.twn.abandon + 1 }
    twinReport (sendAll { s with twn := t } [deltaEnd u s.twn.deltaSent s.twn.deltaIds.length true]) 0xFFFF 0xE

/-- The delta of tick seq (R370): the committed slots of the streams, the flipped group pairs, the changes, the end. What a sync
has still to send goes before it (R362). -/
def buildDelta (s : State) (seq : W64) (ids : List (W16 × Bool)) (groups : List Byte) : State :=
  match taskPkg s with
  | none => s
  | some p =>
    let fs := ids.flatMap (fun i => match findStream s i.1 with | some x => streamDelta s p seq x i.2 | none => [])
    let mine := s.sp.groups.filter (fun g => groups.any (fun y => y == g.group))
    let gs := mine.flatMap (groupDelta s p seq)
    let s := noteRows s (ids.flatMap (fun i => match findStream s i.1 with | some x => deltaReads p x i.2 | none => []) ++
      mine.flatMap (groupReads p))
    let cs := if s.twn.state = .active ∨ s.twn.state = .syncing then s.twn.changes.map changeFrame else []
    let n := (fs ++ gs).length
    let left := s.twn.deltaLeft ++ fs ++ gs ++ cs ++ [deltaEnd seq n ids.length false]
    { s with twn := { s.twn with deltaOf := some seq, deltaLeft := left, deltaIds := ids.map (fun i => i.1), deltaSent := 0,
                                 changes := [], carry := [] } }

/-- What role 0 sends at the start of a sync (R362): a stream-table record of every stream, then its committed state. -/
def syncRecords (s : State) : List PendChange :=
  s.sp.streams.flatMap (fun x =>
    let d : StateDesc := { sq := 0, tag := 0, rsv := 0, flags := if x.catchUp then 8 else 0, stream := x.id,
                           adapt := x.adapt.zeroExtend 8, group := x.group, place := 0, addr := 0, rest := [], crc := 0 }
    let pl := fun (k : W16) => match taskPkg s with
      | some p => (match p.places[k.toNat]? with | some q => BitVec.ofNat 16 (q.batch.toNat * 256 + q.pos.toNat) | none => 0)
      | none => (0 : W16)
    let c := fun (op : Byte) (d : StateDesc) => (⟨s.tkc.seq, op, d, ⟨0, 0, 0, true⟩, false⟩ : PendChange)
    [c 1 d] ++ (if x.life = .absent then [] else [c 3 d]) ++
      (match x.placeNext with | some k => [c 5 { d with place := pl k }] | none => []))

/-- The frames of a sync join what role 0 sends. -/
def startSync (s : State) : State :=
  match taskPkg s with
  | none => s
  | some p =>
    let tab := (syncRecords s).map changeFrame
    let ds := s.sp.streams.flatMap (fun x => (if x.slot.isSome then streamDelta s p s.tkc.seq x true else []) ++ initDelta s p s.tkc.seq x)
    let gs := s.sp.groups.flatMap (groupDelta s p s.tkc.seq)
    let s := noteRows s (s.sp.streams.flatMap (fun x => deltaReads p x true ++ initReads p x) ++ s.sp.groups.flatMap (groupReads p))
    let left := tab ++ ds ++ gs ++ [deltaEnd s.tkc.seq (ds ++ gs).length s.sp.streams.length false]
    { s with twn := { s.twn with deltaOf := some s.tkc.seq, deltaLeft := left, deltaSent := 0,
                                 deltaIds := s.sp.streams.map (fun x => x.id) } }

/-! ### Boundaries -/

/-- The seals, verdicts and rows of ticks before the newest are done with. -/
def Twn.forget (t : Twn) (seq : W64) : Twn :=
  { t with mine := t.mine.filter (fun x => seq.toNat ≤ x.seq.toNat), sigs := t.sigs.filter (fun x => seq.toNat ≤ x.seq.toNat),
           verdicts := t.verdicts.filter (fun x => seq.toNat ≤ x.seq.toNat) }

/-- A state change whose boundary has come takes effect. -/
def takeChange (s : State) : State :=
  match s.twn.change with
  | none => s
  | some c =>
    if c.wait ≠ 0 then s else
    let s := { s with twn := { s.twn with change := none } }
    let s := match c.dest with
      | .unpaired => setTwn (unpair s) .unpaired c.reason
      | .fenced => setTwn (unpair s) .fenced c.reason
      | .selftest => setTwn { s with twn := { s.twn with testLeft := 480000, own := none, other := none } } .selftest c.reason
      | .attaching =>
        let seq := match s.twn.peer with | some h => if s.tkc.seq < h.seq then h.seq else s.tkc.seq | none => s.tkc.seq
        setTwn { s with tkc := { s.tkc with seq := seq } } .attaching c.reason
      | st => setTwn s st c.reason
    if c.stopRun ∨ c.dest = .fenced then { s with tkc := { s.tkc with run := false, stopAt := true } } else s

/-- ATTACHING ends at the next boundary, and the sync begins (R362, R379). -/
def enterSync (s : State) : State :=
  let s := setTwn s .syncing 1
  if s.twn.role then
    (if s.fwr.fw.level = 2 then { s with twn := { s.twn with lower := true } } else s)
  else startSync s

/-- The sync, or a switchover, ends after the quiet tick (R362, R374). -/
def endQuiet (s : State) : State :=
  let s := { s with twn := { s.twn with quiet := none } }
  match s.twn.state with
  | .syncing =>
    let st := if s.twn.mode = 1 then TwnState.mirror else if s.twn.role then .standby else .active
    raiseFull (setTwn s st 3)
  | .active => setTwn { s with twn := { s.twn with role := true } } .standby 0xD
  | .standby => setTwn { s with twn := { s.twn with role := false } } .active 0xD
  | _ => s

/-- What a boundary does to the pairing before the new tick's number is taken. -/
def twinBoundary (s : State) : State :=
  let s := if s.twn.lower then
      { s with twn := { s.twn with lower := false }, pwr := { s.pwr with halfNext := some true } } else s
  let was := s.twn.state
  let s := takeChange s
  let s := if was = .attaching ∧ s.twn.state = .attaching then enterSync s else s
  match s.twn.quiet with
  | some u => if u.toNat ≤ s.tkc.seq.toNat then endQuiet s else s
  | none => s

/-- The ALIGN frame of a boundary at which a tick starts. -/
def alignFrame (s : State) : Frame :=
  mkFrame 1 0 s.tkc.seq (bytesOf 4 s.fwr.ldr.pkgId.toNat ++ [BitVec.ofNat 8 (twnCode s.twn.state), BitVec.ofNat 8 s.twn.role.toNat]) []

/-- The new tick on the link: byte counts shown, old seals forgotten, ALIGN sent. -/
def twinTick (s : State) : State :=
  let t := s.twn.forget s.tkc.seq
  let t := { t with txShown := BitVec.ofNat 32 t.txBytes, rxShown := BitVec.ofNat 32 t.rxBytes, txBytes := 0, rxBytes := 0 }
  let s := { s with twn := t }
  if txUp s && linkUp s.twn then sendAll s [alignFrame s] else s

/-! ### Verdicts (R365) -/

/-- The verdict of a place's group in a tick. -/
def verdictOf (s : State) (seq : W64) (place : W16) : Option VerdictRec :=
  s.twn.verdicts.find? (fun v => v.seq == seq && v.group.toNat == place.toNat / 64)

/-- The verdict lets a stream-tick commit. -/
def verdictCommits (s : State) (seq : W64) (place : W16) : Bool :=
  match verdictOf s seq place with | some v => v.commit.getLsbD (place.toNat % 64) | none => false

end Sys2Proof.Machine
end

