-- ==== Sys2Proof/Machine/TickStart.lean ====
section
/-!
DEFINITION. Machine/TickStart: tick boundaries (02_the_tick R33 to R38, R40, R46, R47, R428; 12_speculative_ticks R267; 21_debug_port
R421; 22_first_tick_walkthrough R427): a tick starts, a stop or a halt takes effect, an early intake begins.
-/
namespace Sys2Proof.Machine

/-! ### When a boundary falls -/

/-- No boundary can come: FAULT, or the device is halted. -/
def noBoundary (s : State) : Bool := s.fwr.fw.level == 3 || s.dbg.runState == .halted

/-- The tick in flight has passed its pit and waits for the boundary that ends it. -/
def awaitsEnd (s : State) : Bool := s.tkc.active && !s.tkc.ending && s.sp.cur.isNone

/-- Cycles to the boundary placed: an accepted start's, an accepted edge's, or the internal timer's (R33, R34). -/
def boundaryWait (s : State) : Option Nat :=
  if noBoundary s then none else
  match s.tkc.startIn, s.tkc.edgeIn with
  | some k, _ => some k
  | none, some k => some k
  | none, none => if awaitsEnd s && !s.tkc.src then some (cyclesTo s s.tkc.period.toNat) else none

/-- No edge has been accepted for the boundary that ends the tick, and boundaries follow edges. -/
def awaitsEdge (s : State) : Bool :=
  !noBoundary s && awaitsEnd s && s.tkc.src && !s.tkc.edgeOnly && s.tkc.edgeIn.isNone && s.tkc.startIn.isNone

/-- The flywheel's limit (R35). -/
def flyLimit (s : State) : Nat := s.tkc.period.toNat + s.tkc.extTol.toNat

/-! ### Meters at a boundary -/

/-- Every meter changed. -/
def mapMeters (s : State) (f : Meter → Meter) : State := { s with dp := { s.dp with meters := s.dp.meters.map f } }

/-- TKC_DEFER of the tick that ends. -/
def deferBits (s : State) : BitVec 15 :=
  (List.range 15).foldl (fun (b : BitVec 15) m => setBit b m (vget s.dp.meters (BitVec.ofNat 4 m)).deferred) 0

/-- Counters of the completed tick are shown (Tables 5 to 10). -/
def Core.showCounts (c : Core) : Core :=
  { c with slipShown := c.slip, slip := 0, fwaitShown := c.fwaitCyc, fwaitCyc := 0, resShown := c.resCyc, resCyc := 0,
           me := { c.me with busyShown := c.me.busyCyc, busyCyc := 0, gateShown := c.me.gateCyc, gateCyc := 0 },
           se := { c.se with busyShown := c.se.busyCyc, busyCyc := 0, lamShown := c.se.lamClamp, lamClamp := 0 },
           ve := { c.ve with busyShown := c.ve.busyCyc, busyCyc := 0 } }

/-- What a boundary does to the counts of the tick that ends. -/
def closeCounts (s : State) : State :=
  { s with tkc := { s.tkc with defer := deferBits s },
           dp := { s.dp with cores := s.dp.cores.map Core.showCounts } }

/-! ### Core memories in and out of service (R212, R215, R216) -/

/-- Bits of the cores the task uses. -/
def taskCore (s : State) (c : BitVec 3) : Bool := match taskPkg s with | some p => decide (c.toNat < p.cores) | none => false

/-- A core memory enters service: its windows close, and each channel takes its initial count. -/
def Cmem.enter (m : Cmem) : Cmem :=
  { m with inService := true, windows := m.windows.map (fun w => { w with opened := false }),
           chans := m.chans.map (fun c => { c with credit := c.init }) }

/-- The core's chain is in restart (R347). -/
def inRestart (s : State) (c : BitVec 3) : Bool :=
  match chainOf s c with | some ch => s.sp.restarts.any (fun r => r.chain == ch) | none => false

/-- The memories of the device's cores enter service, but for those of a chain in restart (R212). -/
def enterService (s : State) : State :=
  { s with dp := allCores.foldl (fun (d : Dp) c =>
      if corePresent s c && !inRestart s c then d.modCore c (fun x => { x with cm := x.cm.enter }) else d) s.dp }

/-- Every core memory leaves service. -/
def leaveService (s : State) : State :=
  { s with dp := { s.dp with cores := s.dp.cores.map (fun c => { c with cm := { c.cm with inService := false } }) } }

/-! ### The end of a run (R37, R428) -/

/-- TKC_ACTIVE falls once the last publish is complete: a STOPPED event, and no journal is kept from then on. -/
def finishRun (s : State) : State :=
  if s.tkc.ending && s.sp.pubs.isEmpty then
    postEvent (leaveService { s with tkc := { s.tkc with active := false, ending := false, phase := 0 },
                                     err := { s.err with jrnlActive := false } }) 2 0 []
  else s

/-- Pins of a tick released. -/
def releasePins (s : State) (seq : W64) : State :=
  { s with sp := { s.sp with streams := s.sp.streams.map (fun x => { x with pins := x.pins.filter (fun p => p.1 != seq) }) } }

/-- The dispatch record of a tick is withdrawn from cores that have not begun it. -/
def withdraw (s : State) (seq : W64) : State :=
  { s with dp := { s.dp with cores := s.dp.cores.map (fun c =>
      { c with dispNext := match c.dispNext with | some d => if d.seq = seq then none else some d | none => none }) } }

/-- The held flags of a tick leave every core: merged into COREc_NFLAG, or discarded. -/
def settleFlags (s : State) (seq : W64) (merge : Bool) : State :=
  { s with dp := { s.dp with cores := s.dp.cores.map (fun c =>
      let f := (c.nflagHeld.filter (fun x => x.1 == seq)).foldl (fun (a : W16) x => a ||| x.2) 0
      { (if merge then c.setNflag f s.dp.cycle else c) with nflagHeld := c.nflagHeld.filter (fun x => x.1 != seq) }) } }

/-- An early tick whose boundary does not start it is abandoned (DEDUCED, log 50): its held flags go (R101), its chains restart, and its descriptor completes with
SKIPPED. One not yet dispatched waits for the next boundary that starts a tick. -/
def abandonEarly (s : State) : State :=
  match s.sp.early with
  | none => s
  | some e =>
    if !e.dispatched then { s with sp := { s.sp with early := some { e with early := false } } }
    else
      let s := releaseUpdates (settleFlags (withdraw (releasePins s e.seq) e.seq) e.seq false) e.seq
      let s := { s with sp := { s.sp with early := none } }
      let chains := (e.sts.map (fun x => x.chain)).eraseDups
      let s := chains.foldl (fun s ch => callRestart s ch e.seq false) s
      match e.cmd with
      | some c => postCompletion s c.sq (completionBytes 1 1 0 true c.sq c.tag e.seq 0 0) true
      | none => s

/-- The boundary at which a stop takes effect: no tick starts, and every deferred unit is admitted, trace packets
among them; TKC_TIME counts from it (R56, R428). -/
def stopRun (s : State) : State :=
  let s := mapMeters (closeCounts s) meterStop
  let s := { s with dp := { s.dp with metering := false }, tkc := { s.tkc with stopAt := false, ending := true, time := 0 } }
  let s := drainTrace (abandonEarly (boundaryAclk s))
  finishRun (if s.twn.state = .fenced then { s with sp := { s.sp with pubs := [] } } else s)

/-! ### Halt (R421) -/

/-- Window 3 of a halted core, open to the debug port over its task's span. -/
def Cmem.debugWindow (m : Cmem) : Cmem :=
  { m with windows := vset m.windows 3 { base := BitVec.ofNat 14 m.base, rows := BitVec.ofNat 14 m.rows, srcCore := 0, sp := false,
                                         xp := false, dbg := true, opened := true } }

/-- The boundary at which a halt takes effect: no tick starts, and every core memory is out of service. -/
def haltNow (s : State) : State :=
  let s := leaveService (abandonEarly s)
  let s := if s.dbg.level = 2 then
      { s with dp := { s.dp with cores := s.dp.cores.map (fun c => { c with cm := c.cm.debugWindow }) } } else s
  { s with dbg := { s.dbg with runState := .halted, haltPend := false, stopSeq := s.tkc.seq,
                               stopTu := BitVec.ofNat 21 s.tkc.time } }

/-! ### A tick starts -/

/-- The intake of a tick begins: FWR_LRN_EN as it stands once no write awaits firmware (R289), an error block carried over
(R281), and the embedding fetches (R40). -/
def beginIntake (s : State) (seq : W64) (early : Bool) : State :=
  let s := if s.fwr.pending then s else
    { s with fwr := { s.fwr with lrn := { s.fwr.lrn with enNow := s.fwr.lrn.en } } }
  let s := modTick s seq (fun t => if t.dispatched then t else { t with errs := s.sp.errCarry.toList ++ t.errs })
  let kept := (openTicks s).any (fun t => t.seq == seq && t.dispatched)
  let s := if kept then s else { s with sp := { s.sp with errCarry := none } }
  if kept then s else startEmbeddings s early

/-- Windows at a boundary: the samples gathered become the new tick's, unless the tick started early, or is the first of a run
(R40, R268, R427). -/
def turnWindows (s : State) (drop : Bool) : State :=
  { s with sp := { s.sp with streams := s.sp.streams.map (fun x =>
      { x with window := if drop then [] else x.nextWindow, nextWindow := [] }) } }

/-- The record of the tick that starts: the early tick's, or a fresh one. -/
def startRecord (s : State) (seq : W64) : TickRec :=
  match s.sp.early with
  | some e => if e.dispatched then e else { e with early := false, passive := passiveTick s seq }
  | none => freshTick seq false (passiveTick s seq)

/-- TKC_PHASE of a record. -/
def phaseOf (t : TickRec) : BitVec 3 := if t.computing then 3 else if t.dispatched then 2 else 1

/-- A journal is kept from the first boundary at FULL of a run (R350). -/
def startJournal (s : State) : State :=
  let on := s.fwr.fw.level == 2 && s.err.jrnlEn && (match s.sp.task with | some t => t.journal | none => false)
  if on then { s with err := { s.err with jrnlActive := true } } else s

/-- The registers of the tick block at the start of tick seq. -/
def startTkc (t : Tkc) (seq : W64) (r : TickRec) : Tkc :=
  { t with active := true, seq := seq, time := 0, phase := phaseOf r, extWait := false, pulse := if t.outEn then 16 else t.pulse }

/-- Comparators on the new tick (R424); a freeze takes effect before intake. -/
def tickBreak (s : State) : State :=
  let hits := bpsWhere s (fun b => b.type == 2 && b.value == s.tkc.seq.setWidth 32)
  if hits.isEmpty then s else
  let s := bpMatch s hits false
  if s.dbg.freezePend then freezeNow s else s

/-- A tick starts (R37 to R40, R46, R47, R428). -/
def startTick (s : State) : State :=
  let first := !s.tkc.active
  let s := if first then mapMeters s (meterStart s.dp.cycle) else mapMeters (closeCounts s) (meterBoundary s.dp.cycle)
  let s := { s with dp := { s.dp with metering := true }, pwr := boundaryPower s.pwr }
  let seq := s.tkc.seq + 1
  let r := startRecord s seq
  let s := turnWindows s (first || r.dispatched)
  let s := { s with tkc := startTkc s.tkc seq r, sp := { s.sp with cur := some r, early := none } }
  let s := if first || s.dbg.runState == .stepping then enterService s else s
  let s := if r.computing then writeAdapters s r else s
  let s := tickBreak (twinTick (startJournal (drainTrace s)))
  beginIntake s seq false

/-- A boundary: a halt, a stop or a start. -/
def boundary (s : State) : State :=
  let s := { s with tkc := { s.tkc with startIn := none, edgeIn := none, edgeOnly := false } }
  if s.dbg.haltPend then haltNow s else
  let s := twinBoundary s
  if s.tkc.stopAt then (if s.tkc.active then stopRun s else { s with tkc := { s.tkc with stopAt := false } })
  else
    let s := startTick (boundaryAclk s)
    if s.dbg.stepTick then { s with dbg := { s.dbg with stepTick := false, haltPend := true } } else s

/-- TICK_BOUNDARY (R33, R34, R38). -/
def tickBoundary (s : State) : State :=
  match boundaryWait s with
  | none => s
  | some n =>
    if !mayReach s n then s else
    let s := s.pass n
    if frozen s then s else boundary s

def execTickBoundary (s : State) : Host.Outcome State Fault Refusal := .next (tickBoundary s)

/-- FLYWHEEL_BOUNDARY (R35). -/
def flywheel (s : State) : State :=
  if !(awaitsEdge s && s.tkc.fly && mayReach s (cyclesTo s (flyLimit s))) then s else
  let s := s.pass (cyclesTo s (flyLimit s))
  if frozen s then s else boundary { s with tkc := { s.tkc with miss := s.tkc.miss + 1 } }

def execFlywheelBoundary (s : State) : Host.Outcome State Fault Refusal := .next (flywheel s)

/-- TKC_EXT_WAIT (R35): without the flywheel the device waits from its limit on. -/
def extWait (s : State) : State :=
  if !(awaitsEdge s && !s.tkc.fly && mayReach s (cyclesTo s (flyLimit s))) then s else
  let s := s.pass (cyclesTo s (flyLimit s))
  if frozen s then s else { s with tkc := { s.tkc with extWait := true } }

def execTkcExtWait (s : State) : Host.Outcome State Fault Refusal := .next (extWait s)

/-! ### Early intake (R267) -/

/-- EARLY_INTAKE: at FWR_SPEC_OFS the intake of the next tick begins. -/
def earlyIntake (s : State) : State :=
  let ofs := s.fwr.spec.ofs.toNat
  if !(s.sp.cur.isSome && s.sp.early.isNone && !noEarly s && s.tkc.active && canReach s ofs) then s else
  let s := reach s ofs
  if frozen s then s else
  let seq := s.tkc.seq + 1
  beginIntake { s with sp := { s.sp with early := some (freshTick seq true false) } } seq true

def execEarlyIntake (s : State) : Host.Outcome State Fault Refusal := .next (earlyIntake s)

/-! ### Edges on TICK_IN (R34) -/

/-- An edge is accepted: the first after TKC_RUN is set, or once the count has reached the pit offset and 50,000 TU with no edge
accepted yet. -/
def edgeAccepted (s : State) : Bool :=
  let t := s.tkc
  t.src && !noBoundary s && t.edgeIn.isNone && t.startIn.isNone &&
    (if t.active then !t.ending && decide (t.deadOfs.toNat ≤ t.time) && decide (50000 ≤ t.time) else t.run && t.extWait)

/-- TICK_IN: an edge sampled high places its boundary in the third cycle after, or is ignored and counted; while the device is
frozen it is ignored (R420). -/
def tickEdge (s : State) : State :=
  if frozen s || !s.tkc.src then s
  else if edgeAccepted s then { s with tkc := { s.tkc with edgeIn := some 3, extWait := false } }
  else { s with tkc := { s.tkc with earlyCnt := s.tkc.earlyCnt + 1 } }

def execTickIn (s : State) : Host.Outcome State Fault Refusal := .next (tickEdge s)

end Sys2Proof.Machine
end

