-- ==== Sys2Proof/Machine/Recovery.lean ====
section
/-!
DEFINITION. Machine/Recovery: what ends a hold (07_stream_state R163; 10_command_queues R238, R239, R243, Table 10-5), chain restarts
(17_errors_and_recovery R347, R348) and ECC write-backs (09_scratchpads R208).
-/
namespace Sys2Proof.Machine

/-! ### Holds that end -/

/-- A gate of a core has held the command of a queue up to its limit: the state at that cycle and the command; none where the gate
does not hold, opens first, or time does not reach the limit. -/
def holdEnds (s : State) (c : BitVec 3) (q : Queue) (gate : BitVec 3) : Option (State × Instr) :=
  match (vget s.dp.cores c).hold, heldHead s c q with
  | some h, some (g, i) =>
    let n := gateLimit s i - h.cycles
    if g != gate || !mayReach s n then none else
    let s := s.pass n
    if frozen s then none else
    match heldHead s c q with
    | some (g, i) => if g == gate then some (s, i) else none
    | none => none
  | _, _ => none

/-- The index of a queue's next command in its block. -/
def headIndex (s : State) (c : BitVec 3) (q : Queue) : Nat := (vget (vget s.dp.cores c).queues (queueIndex q)).issued

/-- A report of an engine of core c. -/
def coreReport (c : BitVec 3) (q : Queue) (cls : BitVec 4) (status : BitVec 7) (info0 info1 : Nat) : Report :=
  { cls := cls, status := status, unit := queueUnit q, queue := queueIndex q, core := some c, info0 := BitVec.ofNat 32 info0,
    info1 := BitVec.ofNat 32 info1, rollback := true, restart := true, restore := false }

/-- The FWAITs whose hold has reached its limit, by core and queue (R238). -/
def failedWaits (s : State) : List (BitVec 3 × Queue × Instr) :=
  allCores.flatMap (fun c => allQueues.filterMap (fun q =>
    match (vget s.dp.cores c).hold, heldHead s c q with
    | some h, some (g, i) => if g == 2 && decide (gateLimit s i ≤ h.cycles) then some (c, q, i) else none
    | _, _ => none))

/-- TIMEOUT (R238, R239): the FWAIT that holds the queue fails, and every other that fails in that cycle with it. -/
def timeout (s : State) (c : BitVec 3) (q : Queue) : State :=
  match holdEnds s c q 2 with
  | some (s, _) => takeReports s ((failedWaits s).map (fun x =>
      coreReport x.1 x.2.1 6 0xC (waitFlag x.2.2).toNat (vget s.dp.cores x.1).time))
  | none => s

def execTimeout (core : BitVec 3) (q : Queue) (s : State) : Host.Outcome State Fault Refusal := .next (timeout s core q)

/-- TILE_READY_LIMIT (Table 10-5): 1,024 held cycles on the tile-ready gate are an engine fault. -/
def tileLimit (s : State) (c : BitVec 3) : State :=
  match holdEnds s c .me 1 with
  | some (s, _) => takeReport s (coreReport c .me 7 7 1 (headIndex s c .me))
  | none => s

def execTileReadyLimit (core : BitVec 3) (s : State) : Host.Outcome State Fault Refusal := .next (tileLimit s core)

/-- GATE_RESOLVE (R163): the residency gate resolves by expiry. -/
def gateExpires (s : State) (c : BitVec 3) : State :=
  match holdEnds s c .de 4 with
  | some (s, _) =>
    let x := vget s.dp.cores c
    let s := { s with fwr := { s.fwr with stm := { s.fwr.stm with gateExp := satInc s.fwr.stm.gateExp } } }
    resolveGate s x.tick (x.hold.elim 0 (fun h => h.cycles + 1))
  | none => s

def execGateResolve (core : BitVec 3) (s : State) : Host.Outcome State Fault Refusal := .next (gateExpires s core)

/-! ### No progress (R243) -/

/-- The cores of a chain as bits. -/
def coreBits (cs : List (BitVec 3)) : Byte := cs.foldl (fun (b : Byte) c => setBit b c.toNat true) 0

/-- What WAIT_CYCLE does to the chain: its cores named, the FWR counters, rollback and restart. -/
def reportWait (s : State) (chain : Nat) : State :=
  let cs := chainCores s chain
  match cs.find? (fun c => heldByWait (vget s.dp.cores c)) with
  | none => s
  | some k =>
    let x := vget s.dp.cores k
    let bits := coreBits cs
    let s := { s with fwr := { s.fwr with npdCnt := satInc s.fwr.npdCnt, npdCores := bits, npdSeq := x.tick.setWidth 32 } }
    let r := deviceReport 5 0xB 2 (bits.zeroExtend 32) (BitVec.ofNat 32 x.time)
    let s := recordReport s { r with rollback := true, restart := true }
    callRestart (rollChain s { r with core := some k } chain) chain x.tick false

/-- WAIT_CYCLE: the chain's no-progress count reaches 4,096. -/
def waitCycle (s : State) (chain : Nat) : State :=
  let n := npdLimit - s.sp.npd.getD chain 0
  if !(noProgress s chain && mayReach s n) then s else
  let s := s.pass n
  if frozen s || s.sp.npd.getD chain 0 < npdLimit then s else reportWait s chain

def execWaitCycle (chain : Nat) (s : State) : Host.Outcome State Fault Refusal := .next (waitCycle s chain)

/-! ### Chain restart (R347, R348) -/

/-- The device flags that belong to a chain. -/
def chainDflags (s : State) (chain : Nat) : W64 :=
  match taskPkg s with
  | none => 0
  | some p =>
    ((chainCores s chain).flatMap (fun c => match p.plans[c.toNat]? with
      | some x => allQueues.flatMap (fun q =>
          (x.blocks.getD (queueIndex q).toNat []).filterMap (fun w => (decodeCmd c 0 q w).bind namesDflag))
      | none => [])).foldl (fun (m : W64) f => setBit m f.toNat true) 0

/-- A core back at its initial values (R240, R347 step 4), its memory in service again while ticks run and the device is not
halted (R212, R216). -/
def Core.reload (c : Core) (service : Bool) : Core :=
  { c with flg := c.flgInit, k := c.kInit, cmp := c.cmpInit, restart := false, run := .idle, hold := none,
           me := { c.me with ftq := [], outq := [], ibReady := 0, whReady := 0 }, ve := { c.ve with ftPend := none },
           cm := if service then c.cm.enter else { c.cm with inService := false } }

/-- Cycles until every effect on its way has landed. -/
def landingsEnd (s : State) : Nat := (s.dp.landings.map (fun x => x.1)).foldl max 0

/-- The chain has passed the pit of its fault's tick and drained (steps 1 and 2). -/
def chainDrained (s : State) (chain : Nat) : Bool :=
  (chainCores s chain).all (fun c =>
    (vget s.dp.cores c).run == .idle && !deOutstanding s.dp c && noInbound s.dp c)

/-- The chain's core memories leave service (R212, R347 step 3). -/
def chainOut (s : State) (chain : Nat) : State :=
  { s with dp := (chainCores s chain).foldl (fun (d : Dp) c => d.modCore c (fun x => { x with cm := { x.cm with inService := false } })) s.dp }

/-- Rows of W-class granules that do not check are rewritten from the package's sections (R348, R347 step 3). -/
def restoreRows (s : State) (rows : List (Nat × List Byte)) : State :=
  let r := spWrites s.dp (rows.filter (fun r => (rowMarks s.dp r.1).any (fun m => m.unc && m.w)))
  takeReports { s with dp := r.1 } r.2

/-- The restart fails: the chain stays out until UNLOAD (R348). -/
def failRestart (s : State) (chain : Nat) : State :=
  let rs := s.sp.restarts.map (fun r => if r.chain == chain then { r with failed := true } else r)
  unrecovered { s with sp := { s.sp with restarts := rs } } 0xD 0xFFFF 2

/-- Steps 3 and 4: rows restored, values reloaded, and the chain in service again. -/
def reenter (s : State) (chain : Nat) : State :=
  let cs := chainCores s chain
  let mine := chainDflags s chain
  let service := s.tkc.active && s.dbg.runState != .halted
  let d := cs.foldl (fun (d : Dp) c => d.modCore c (fun x => x.reload service)) s.dp
  { s with dp := { d with dflg := (d.dflg &&& ~~~mine) ||| (d.dflgInit &&& mine) },
           sp := { s.sp with restarts := s.sp.restarts.filter (fun r => r.chain != chain) },
           err := { s.err with restartCnt := satInc s.err.restartCnt, restartCores := coreBits cs } }

/-- CHAIN_RESTART: once the chain has drained, with the outcome of the fetch and the rows of its sections. -/
def chainRestart (s : State) (chain : Nat) (fetchOk : Bool) (rows : List (Nat × List Byte)) : State :=
  match s.sp.restarts.find? (fun r => r.chain == chain) with
  | none => s
  | some r =>
    let n := landingsEnd s
    if r.failed || s.fwr.fw.level == 3 || !mayReach s n then s else
    let s := s.pass n
    if frozen s || !chainDrained s chain then s
    else
      let s := chainOut s chain
      if r.restore && !fetchOk then failRestart s chain
      else reenter (if r.restore then restoreRows s rows else s) chain

def execChainRestart (chain : Nat) (fetchOk : Bool) (rows : List (Nat × List Byte)) (s : State) :
    Host.Outcome State Fault Refusal := .next (chainRestart s chain fetchOk rows)

/-! ### Write-backs (R200, R203, R208) -/

/-- ECC_WRITE_BACK: a granule that was read and corrected, and not written since, checks again. -/
def writeBack (s : State) (g : BitVec 23) : State :=
  { s with dp := { s.dp with ecc := s.dp.ecc.filter (fun m => !(m.gran == g.toNat && m.wb && !m.unc)) } }

def execEccWriteBack (granule : BitVec 23) (s : State) : Host.Outcome State Fault Refusal := .next (writeBack s granule)

end Sys2Proof.Machine
end

