-- ==== Sys2Proof/Machine/Firmware.lean ====
section
/-!
DEFINITION. Machine/Firmware: watchdogs and MPU faults (16_firmware R332, R333), log entries (R335), and writes of the FWR block
(14_host_rings R310 to R312) as the SP applies them.
-/
namespace Sys2Proof.Machine

/-! ### Watchdogs and MPU faults -/

/-- The record of a processor. -/
def getProc (s : State) : Proc → ProcRec
  | .xp => s.xp
  | .pp => s.pp
  | .sp => s.spp
  | .cp k => vget s.cps k

def setProc (s : State) (p : Proc) (r : ProcRec) : State :=
  match p with
  | .xp => { s with xp := r }
  | .pp => { s with pp := r }
  | .sp => { s with spp := r }
  | .cp k => { s with cps := vset s.cps k r }

/-- The report that names a CP's core (Table 17-1, class 7). -/
def cpReport (c : BitVec 3) (mpu : Bool) : Report :=
  { cls := 7, status := 7, unit := 8, queue := 0, core := some c, info0 := if mpu then 4 else 3, info1 := 0xFFFFFFFF,
    rollback := true, restart := true, restore := false }

/-- The CP failed within the last 1,000 ticks. -/
def cpFailedBefore (s : State) (c : BitVec 3) : Bool :=
  match (vget s.cps c).lastExp with | some t => decide (s.tkc.seq.toNat ≤ t.toNat + 1000) | none => false

/-- A CP's expiry or fault: the CP restarts, its chain rolls back and restarts; a second one within 1,000 ticks is fatal. -/
def cpFails (s : State) (c : BitVec 3) (mpu : Bool) : State :=
  let r := vget s.cps c
  let again := cpFailedBefore s c
  let s := { s with cps := vset s.cps c { r with wdCount := 0, lastExp := some s.tkc.seq } }
  let s := takeReport s (cpReport c mpu)
  if again then fatalFault s (if mpu then 2 else 1) (2 ^ sourceCode (.cp c)) false else s

/-- What an expiry or fault does, by the processor it concerns (R333). In FAULT only the XP's failure still shows, and a fatal
fault of the same cycle. -/
def procFails (s : State) (p : Proc) (mpu : Bool) : State :=
  let cause := if mpu then 2 else 1
  match p with
  | .xp => let s := fatalFault s cause 1 true; { s with sec := { s.sec with bootState := 6 } }
  | .cp c =>
    if s.fwr.fw.level = 3 then (if cpFailedBefore s c then fatalFault s cause (2 ^ sourceCode (.cp c)) false else s)
    else cpFails s c mpu
  | p => fatalFault s cause (2 ^ sourceCode p) false

/-- The counters of Table 16-5. -/
def countProc (s : State) (p : Proc) (mpu : Bool) : State :=
  let f := s.fwr.fw
  let src := BitVec.ofNat 4 (sourceCode p)
  let g := if mpu then { f with mpuFault := satInc f.mpuFault, mpuLast := src } else { f with wdtExp := satInc f.wdtExp, wdtLast := src }
  { s with fwr := { s.fwr with fw := g } }

/-- The processor runs: it exists and is released from reset. -/
def procRuns (s : State) (p : Proc) : Bool := procPresent s p && (getProc s p).released

/-- TU until a watchdog's count reaches its period (400 TU to the microsecond). -/
def watchdogLeft (r : ProcRec) : Nat := 400 * r.wdPeriod.toNat - r.wdCount

/-- WATCHDOG_EXPIRY: the time left passes where time runs, and the processor fails. A processor with no period yet has no expiry. -/
def watchdogExpires (s : State) (p : Proc) : State :=
  let r := getProc s p
  let n := (watchdogLeft r + tuStep s - 1) / tuStep s
  if !procRuns s p || r.wdPeriod == 0 then s
  else if clockRuns s && !mayReach s n then s
  else
    let s := if clockRuns s then s.pass n else s
    procFails (countProc (setProc s p { getProc s p with wdCount := 0 }) p false) p false

def execWatchdogExpiry (p : Proc) (s : State) : Host.Outcome State Fault Refusal := .next (watchdogExpires s p)

/-- WATCHDOG_KICK: the count restarts. -/
def execWatchdogKick (p : Proc) (s : State) : Host.Outcome State Fault Refusal :=
  .next (if procRuns s p then setProc s p { getProc s p with wdCount := 0 } else s)

/-- MPU_FAULT (R325, R333): the access does not take place. -/
def execMpuFault (p : Proc) (s : State) : Host.Outcome State Fault Refusal :=
  .next (if procRuns s p then procFails (countProc s p true) p true else s)

/-! ### Log entries (R335) -/

/-- Processors by their SOURCE code. -/
def procOfSource (n : Nat) : Option Proc := allProcs[n]?

/-- A log entry's bytes (Table 16-3); its TIME is a free value (DESIGN CHOICE, log 39). -/
def logBytes (s : State) (level : BitVec 3) (source : BitVec 4) (code : W32) (args : List W32) : List Byte :=
  [0, level.zeroExtend 8, source.zeroExtend 8, 0] ++ bytesOf 4 code.toNat ++ bytesOf 8 s.tkc.seq.toNat ++
    bytesOf 4 (Config.freeWord s.dp.free).toNat ++ bytesOf 4 (Config.freeWord (s.dp.free + 1)).toNat ++
    padTo 40 (args.flatMap (fun a => bytesOf 4 a.toNat))

/-- The entry is held, or lost when the 64 places are taken. -/
def holdLog (s : State) (b : List Byte) : State :=
  let f := s.fwr.fw
  let s := { s with dp := { s.dp with free := s.dp.free + 2 } }
  if f.logs.length < 64 then
    let r := f.recent ++ [⟨b⟩]
    { s with fwr := { s.fwr with fw := { f with logs := f.logs ++ [⟨b⟩], recent := r.drop (r.length - 64) } } }
  else { s with fwr := { s.fwr with fw := { f with logLost := f.logLost + 1 } } }

/-- LOG_ENTRY: a processor that runs logs at or above the level set (0 FATAL is the highest). -/
def logEntry (s : State) (level : BitVec 3) (source : BitVec 4) (code : W32) (args : List W32) : State :=
  match procOfSource source.toNat with
  | none => s
  | some p =>
    if procRuns s p && s.spp.released && decide (level.toNat ≤ 4) && decide (level.toNat ≤ s.fwr.fw.logLevel.toNat) then
      holdLog s (logBytes s level source code args)
    else s

def execLogEntry (level : BitVec 3) (source : BitVec 4) (code : W32) (args : List W32) (s : State) :
    Host.Outcome State Fault Refusal := .next (logEntry s level source code args)

/-! ### The FWR registers (R310) -/

/-- The offset of a word is one of n words from b, d bytes apart. -/
def inWords (ofs b d n : Nat) : Bool := decide (b ≤ ofs) && (ofs - b) % d == 0 && decide ((ofs - b) / d < n)

/-- FWR offsets that a register table defines (Tables 7-6, 9-6, 10-7, 11-5, 12-4, 13-4, 16-5, 20-5). -/
def fwrDefined (ofs : Nat) : Bool :=
  inWords ofs 0x8200 4 26 || inWords ofs 0x8400 4 12 || inWords ofs 0x8600 4 5 || inWords ofs 0x8640 4 64 || inWords ofs 0x8800 4 2 ||
    inWords ofs 0x8810 4 16 || inWords ofs 0x8850 4 3 || inWords ofs 0x8A00 4 5 || inWords ofs 0x8A20 4 8 || inWords ofs 0x8A40 4 2 ||
    inWords ofs 0x8C00 4 10 || inWords ofs 0x8E00 4 8 || inWords ofs 0x9000 16 4 || inWords ofs 0x9004 16 4 || inWords ofs 0x9008 16 4 ||
    ofs == 0x9040

/-- The bits of a word that RW fields take. A driver that writes other than 0 to the low bits of FWR_TRC_DRAIN_LO or FWR_DUMP_ADDR_LO
finds them as written (DESIGN CHOICE, log 120). -/
def fwrMask (ofs : Nat) : W32 :=
  match ofs with
  | 0x8234 => 0xFFFF000F
  | 0x8240 => 0xFFFFFFFF
  | 0x8244 => 0xFFF
  | 0x8248 => 0x7
  | 0x8250 => 0xFFFFFFFF
  | 0x8254 => 0xFF
  | 0x8258 => 0xFFFFFFFF
  | 0x825C => 0x1
  | 0x8410 => 0xFFFF
  | 0x8424 => 0x1FFFFF
  | 0x8C00 => 0x3
  | 0x8C04 => 0x1FFFFF
  | 0x8E00 => 0x1
  | _ => 0

/-- The values in force of a word's RW fields. -/
def fwrForce (s : State) (ofs : Nat) : W32 :=
  let f := s.fwr.fw
  match ofs with
  | 0x8234 => bitAt 0 f.trcEn ||| bitAt 1 f.trcSplit ||| bitAt 2 f.trcWrap ||| bitAt 3 f.drainEn ||| fieldBits 16 f.trcMask
  | 0x8240 => f.drainLo
  | 0x8244 => fieldBits 0 f.drainHi ||| fieldBits 8 f.drainLog2
  | 0x8248 => fieldBits 0 f.logLevel
  | 0x8250 => f.dumpAddr.setWidth 32
  | 0x8254 => fieldBits 0 (f.dumpAddr.extractLsb' 32 8)
  | 0x8258 => f.dumpSize
  | 0x825C => bitAt 0 f.dumpEn
  | 0x8410 => fieldBits 0 s.fwr.stm.qid
  | 0x8424 => fieldBits 0 s.fwr.stm.gateLim
  | 0x8C00 => bitAt 0 s.fwr.spec.early ||| bitAt 1 s.fwr.spec.pred
  | 0x8C04 => fieldBits 0 s.fwr.spec.ofs
  | 0x8E00 => bitAt 0 s.fwr.lrn.en
  | _ => 0

/-- The word a write leaves over an old one. -/
def FwrWrite.laid (w : FwrWrite) (old : W32) : W32 :=
  let m := fwrMask w.ofs.toNat
  (old &&& ~~~m) ||| (w.value &&& m)

/-- The shadow of a word's RW fields: the value in force, or 0 before the SP wrote the initial values, with the queued writes over
it. -/
def fwrShadow (s : State) (ofs : Nat) : W32 :=
  (s.fwr.queue.filter (fun w => w.ofs.toNat == ofs)).foldl (fun v w => w.laid v)
    (if s.fwr.fw.level = 0 then 0 else fwrForce s ofs)

/-- A FIRMWARE report (Table 17-1). -/
def firmwareReport (ofs : W16) (kind : W32) : Report := deviceReport 12 0 2 (ofs.zeroExtend 32) kind

/-- A write of FWR word ofs (R310, R314): 0x8000 clears FWR_OVR and FWR_LATE where written 1, undefined offsets are ignored, and any
other write enters the queue with its value merged with the shadow (R402); one that finds it full changes nothing. -/
def fwrAccept (s : State) (ofs : W16) (value : W32) (strb : BitVec 4) : State :=
  if ofs = 0x8000 then
    let clr := fun (i : Nat) => strb.getLsbD 0 && value.getLsbD i
    { s with fwr := { s.fwr with ovr := s.fwr.ovr && !clr 1, late := s.fwr.late && !clr 2 } }
  else if !fwrDefined ofs.toNat then s
  else if s.fwr.queue.length < 16 then
    let w : FwrWrite := { ofs := ofs, value := mergeBytes (fwrShadow s ofs.toNat) value strb, left := 4000, late := !s.fwr.fell }
    { s with fwr := { s.fwr with queue := s.fwr.queue ++ [w], pending := true } }
  else takeReport { s with fwr := { s.fwr with ovr := true } } (firmwareReport ofs 2)

/-- FWR_WRITE. -/
def execFwrWrite (ofs : W16) (value : W32) (strb : BitVec 4) (s : State) : Host.Outcome State Fault Refusal :=
  .next (fwrAccept s (ofs &&& 0xFFFC) value strb)

/-! ### Applying (R310, and the rules of the registers) -/

/-- FWR_TRC (Table 16-5): SPLIT only while neither user is enabled, EN by the owner table. -/
def applyTrc (s : State) (v : W32) : State :=
  let f := s.fwr.fw
  let f := { f with trcSplit := if !f.trcEn && !s.dbg.trace then v.getLsbD 1 else f.trcSplit, trcWrap := v.getLsbD 2,
                    drainEn := v.getLsbD 3, trcMask := v.extractLsb' 16 16 }
  let s := { s with fwr := { s.fwr with fw := f } }
  let put := fun (s : State) (on : Bool) =>
    moveOwn { s with fwr := { s.fwr with fw := { s.fwr.fw with trcEn := on } } } 0 true on
  let s := if v.getLsbD 0 == f.trcEn then s
    else if !v.getLsbD 0 then put s false
    else if mayOwn s 0 true s.fwr.fw.trcSplit then put s true
    else refuseOwn s 0 2
  drainTrace s

def setFw (s : State) (f : FwrFw) : State := { s with fwr := { s.fwr with fw := f } }
def setSpec (s : State) (x : FwrSpec) : State := { s with fwr := { s.fwr with spec := x } }

/-- FWR_SPEC_EARLY and PRED (R266): EARLY changes only while no task is loaded. -/
def applySpec (s : State) (v : W32) : State :=
  let x := { s.fwr.spec with pred := v.getLsbD 1 }
  if v.getLsbD 0 == x.early then setSpec s x
  else if s.sp.task.isNone then setSpec s { x with early := v.getLsbD 0 }
  else setSpec s { x with cfgErr := true }

/-- The SP applies a write to the value in force; a write to a field that its rule ignores leaves it. -/
def fwrApply (s : State) (w : FwrWrite) : State :=
  let v := w.laid (fwrForce s w.ofs.toNat)
  let f := s.fwr.fw
  match w.ofs.toNat with
  | 0x8234 => applyTrc s v
  | 0x8240 => setFw s { f with drainLo := v, drainPos := 0 }
  | 0x8244 => setFw s { f with drainHi := v.extractLsb' 0 8, drainLog2 := v.extractLsb' 8 4, drainPos := 0 }
  | 0x8248 => setFw s { f with logLevel := v.extractLsb' 0 3 }
  | 0x8250 => setFw s { f with dumpAddr := f.dumpAddr.extractLsb' 32 8 ++ v }
  | 0x8254 => setFw s { f with dumpAddr := v.extractLsb' 0 8 ++ f.dumpAddr.extractLsb' 0 32 }
  | 0x8258 => setFw s { f with dumpSize := v }
  | 0x825C => setFw s { f with dumpEn := v.getLsbD 0 }
  | 0x8410 => stmQuery s (v.extractLsb' 0 16)
  | 0x8424 => if !ticksOff s || v == 0 then s else { s with fwr := { s.fwr with stm := { s.fwr.stm with gateLim := v.extractLsb' 0 21 } } }
  | 0x8C00 => applySpec s v
  | 0x8C04 => if s.sp.task.isNone then setSpec s { s.fwr.spec with ofs := v.extractLsb' 0 21 } else setSpec s { s.fwr.spec with cfgErr := true }
  | 0x8E00 => { s with fwr := { s.fwr with lrn := { s.fwr.lrn with en := v.getLsbD 0 } } }
  | _ => s

/-- FWR_WRITE_APPLY: the SP, once it runs, takes the oldest queued write and applies it; FWR_PENDING falls with the queue empty. -/
def applyHead (s : State) : State :=
  if !(spServes s && s.spp.released) then s else
  match s.fwr.queue with
  | [] => s
  | w :: ws => fwrApply { s with fwr := { s.fwr with queue := ws, pending := !ws.isEmpty, fell := s.fwr.fell || ws.isEmpty } } w

def execFwrWriteApply (s : State) : Host.Outcome State Fault Refusal := .next (applyHead s)

/-- The queued write that next reaches its limit counts as late. -/
def markLate : List FwrWrite → List FwrWrite
  | [] => []
  | w :: ws => if w.late then w :: markLate ws else { w with late := true } :: ws

/-- FWR_LATE (R311): a write is still queued at its limit; it stays queued. -/
def fwrLate (s : State) : State :=
  match s.fwr.queue.find? (fun w => !w.late) with
  | none => s
  | some w =>
    let n := (w.left + tuStep s - 1) / tuStep s
    if clockRuns s && !mayReach s n then s
    else if !clockRuns s && w.left != 0 then s
    else
      let s := if clockRuns s then s.pass n else s
      let f := { s.fwr with queue := markLate s.fwr.queue, late := true, lateCnt := s.fwr.lateCnt + 1 }
      takeReport { s with fwr := f } (firmwareReport w.ofs 1)

def execFwrLate (s : State) : Host.Outcome State Fault Refusal := .next (fwrLate s)

end Sys2Proof.Machine
end

