-- ==== Sys2Proof/Machine/Dispatching.lean ====
section
/-!
DEFINITION. Machine/Dispatching: dispatch and the start of compute (01_two_hierarchies R15, R18; 02_the_tick R41, R42, R44, R53 to
R55; 07_stream_state R152, R157, R162; 12_speculative_ticks R266 to R271; 13_adapter_learning R285).
-/
namespace Sys2Proof.Machine

/-! ### Places (R152) -/

/-- Bindings and unbindings taken since the last dispatch take effect: an unbound stream's pending window and pending updates
are discarded. -/
def applyPlaces (s : State) : State :=
  let s := (s.sp.streams.filter (fun x => x.placeNext.isNone)).foldl (fun s x => rerunLost s x.pend) s
  let gone := (s.sp.streams.filter (fun x => x.place.isSome && x.placeNext.isNone)).map (fun x => x.id)
  { s with sp := { s.sp with
      streams := s.sp.streams.map (fun x => { x with place := x.placeNext, pend := if x.placeNext.isNone then none else x.pend }),
      lrn := s.sp.lrn.filter (fun l => !gone.any (fun g => g == l.stream)) } }

/-- In mirror mode, the stream-table changes named for the tick are applied (R369). -/
def applyDue (s : State) (seq : W64) : State :=
  if s.twn.state ≠ .mirror then s else
  let due := s.twn.changes.filter (fun c => decide (c.seq.toNat ≤ seq.toNat))
  let s := { s with twn := { s.twn with changes := s.twn.changes.filter (fun c => !decide (c.seq.toNat ≤ seq.toNat)) } }
  due.foldl applyChange s

/-! ### Inputs (R41, R162) -/

/-- The stream has resident state for the dispatch: it is RESIDENT, or ARRIVING with its image fetch issued, and no committed
state of it is lost. -/
def hasState (s : State) (x : Stream) : Bool :=
  !x.lost && (x.life == .resident ||
    (x.life == .arriving && (match x.swap with | some j => !meterHolds s.dp 11 j.ticket | none => false)))

/-- The stream's window, embedding and state are there. -/
def inputsReady (s : State) (p : Package) (x : Stream) (win : List (List Byte)) : Bool :=
  win.length == p.steps && (p.embRows == 0 || x.emb) && hasState s x

/-- A restart of the chain failed to restore its rows (R348). -/
def chainFailed (s : State) (ch : Nat) : Bool := s.sp.restarts.any (fun r => r.chain == ch && r.failed)

/-! ### Stream-ticks -/

/-- The stream-tick of a stream in the current tick's dispatch record, for a dispatch before that tick's pit (Table 12-2). -/
def inRecord (s : State) (x : Stream) (early : Bool) : Option StreamTick :=
  match s.sp.cur with
  | some r =>
    if early && x.pins.any (fun p => p.1 == r.seq) then r.sts.find? (fun y => y.stream == x.id) else none
  | none => none

/-- The lowest Bloom slot that is neither BC nor the source (Table 12-2). -/
def freeBloom (bc src : BitVec 2) : BitVec 2 :=
  if bc ≠ 0 ∧ src ≠ 0 then 0 else if bc ≠ 1 ∧ src ≠ 1 then 1 else 2

/-- The stream-tick of a bound stream in tick t, running where its inputs are there and the tick has control fields. -/
def newStreamTick (s : State) (p : Package) (t : TickRec) (early : Bool) (x : Stream) (pl : W16) : StreamTick :=
  let chain := (p.places.getD pl.toNat ⟨0, 0, 0, []⟩).chain
  let win := if early then x.nextWindow else x.window
  let prev := inRecord s x early
  let src := match prev with | some y => y.dstBloom | none => x.bc
  let run := t.ctl.isSome && !t.passive && inputsReady s p x win && !chainFailed s chain
  { stream := x.id, place := pl, chain := chain, seqs := [t.seq], kind := none, cuIdx := none, window := win,
    ctl := match t.ctl with | some c => fieldsOf c pl | none => noFields, out := if run then .running else .skipped, late := false,
    lrnRan := false, srcBloom := src, dstBloom := freeBloom x.bc src, fromDst := prev.isSome, srcBad := false, mism := false }

/-- The stream-ticks of a tick, in place order. -/
def newStreamTicks (s : State) (p : Package) (t : TickRec) (early : Bool) : List StreamTick :=
  (List.range p.places.length).filterMap (fun i =>
    (s.sp.streams.find? (fun x => x.place == some (BitVec.ofNat 16 i))).map (fun x =>
      newStreamTick s p t early x (BitVec.ofNat 16 i)))

/-! ### Catch-up (R53 to R55, R276, R367) -/

/-- The pending window that tick t may run for a stream-tick: one that the tick in flight does not run already. -/
def pendingOf (s : State) (early : Bool) (y : StreamTick) : Option PendWin :=
  match findStream s y.stream with
  | none => none
  | some x =>
    match inRecord s x early with
    | some z => if z.kind.isSome then none else x.pend
    | none => x.pend

/-- The order of admission: mirror reruns first, then the oldest missed tick, then the lowest stream ID. -/
def admitBefore (a b : StreamTick × PendWin) : Bool :=
  let k := fun (w : PendWin) => if w.kind = .mirror then 0 else 1
  decide (k a.2 < k b.2) || (k a.2 == k b.2 && (decide (a.2.seq < b.2.seq) ||
    (a.2.seq == b.2.seq && decide (a.1.stream < b.1.stream))))

/-- A candidate put in its place. -/
def insertChunk (x : StreamTick × PendWin) : List (StreamTick × PendWin) → List (StreamTick × PendWin)
  | [] => [x]
  | y :: ys => if admitBefore x y then x :: y :: ys else y :: insertChunk x ys

/-- A core's compute meter can take a chunk of a tick beside the tick's planned blocks, which are not yet charged: meters bind on chunks
only (R48, R54; DESIGN CHOICE, log 118). -/
def chunkFits (d : Dp) (x : CorePlan) (c : BitVec 3) (early : Bool) : Bool :=
  let m := vget d.meters (c.zeroExtend 4)
  !d.metering || fitsCount ((if early then m.early else m.count) + x.planned.sum) m.lim.toNat x.cuCycles

/-- The chain's compute meters take the extra chunk; all of them are charged, or none. -/
def offerChunk (d : Dp) (p : Package) (cores : List (BitVec 3)) (early : Bool) : Bool × Dp :=
  let plan := fun (c : BitVec 3) => p.plans[c.toNat]?
  let fits : BitVec 3 → Bool := fun c => match plan c with | some x => chunkFits d x c early | none => true
  if !d.metering then (true, d)
  else if cores.all fits then
    (true, cores.foldl (fun (d : Dp) c => d.modMeter (c.zeroExtend 4) (fun m => meterAdd m ((plan c).elim 0 (fun x => x.cuCycles)) early)) d)
  else
    (false, cores.foldl (fun (d : Dp) c => if fits c then d else d.modMeter (c.zeroExtend 4) (fun m => { m with deferred := true })) d)

/-- A stream-tick of the list replaced. -/
def setSt (y : StreamTick) (l : List StreamTick) : List StreamTick := l.map (fun z => if z.stream = y.stream then y else z)

/-- Row of step k of the catch-up rows c in the intake area, after the two halves of the places' rows (DESIGN CHOICE, log 46). -/
def cuIntakeRow (p : Package) (c k : Nat) : Nat := p.intakeBase + (2 * p.places.length + c) * p.steps + k

/-- The missed window's samples in the intake rows of the catch-up rows. -/
def writeChunk (s : State) (p : Package) (c : Nat) (w : PendWin) : State :=
  (w.samples.zipIdx).foldl (fun s x => writeOrchard s (cuIntakeRow p c x.2) (padTo rowBytes x.1)) s

/-- The next catch-up rows of a stream-tick's batch that no stream-tick of the tick uses yet (R55). -/
def nextCu (p : Package) (sts : List StreamTick) (y : StreamTick) : Option Nat :=
  let batch := (p.places.getD y.place.toNat ⟨0, 0, 0, []⟩).batch
  (List.range p.cuRows.length).find? (fun k =>
    (p.cuRows.getD k ⟨0, []⟩).batch == batch && !sts.any (fun z => z.cuIdx == some k))

/-- One candidate: admitted with the next catch-up rows of its batch, or not, its pending window discarded and the stream-tick SKIPPED. -/
def admitOne (p : Package) (early : Bool) (a : State × List StreamTick × Nat) (x : StreamTick × PendWin) :
    State × List StreamTick × Nat :=
  let s := a.1
  let k := a.2.2
  let rows := nextCu p a.2.1 x.1
  let o := if k < s.tkc.cuReserve.toNat && rows.isSome then offerChunk s.dp p (chainCores s x.1.chain) early else (false, s.dp)
  let s := { s with dp := o.2 }
  if o.1 then
    let y := { x.1 with kind := some x.2.kind, cuIdx := rows, seqs := [x.2.seq] ++ x.1.seqs }
    (writeChunk s p (rows.getD 0) x.2, setSt y a.2.1, k + 1)
  else
    let s := rerunLost s (some x.2)
    let s := modStream s x.1.stream (fun z => { z with pend := none })
    let s := if x.2.kind = .mirror then
        { s with twn := { s.twn with rerunDrop := satInc s.twn.rerunDrop } }
      else { s with tkc := { s.tkc with cuDrop := s.tkc.cuDrop + 1 } }
    (s, setSt { x.1 with out := .skipped } a.2.1, k)

/-- Catch-up chunks admitted to a tick. -/
def admitChunks (s : State) (p : Package) (early : Bool) (sts : List StreamTick) : State × List StreamTick :=
  let cands := sts.filterMap (fun y => if y.out = .running then (pendingOf s early y).map (fun w => (y, w)) else none)
  let r := (cands.foldl (fun l x => insertChunk x l) []).foldl (admitOne p early) (s, sts, 0)
  (r.1, r.2.1)

/-! ### Pins (R157) -/

/-- Chunks of a stream-tick. -/
def chunkCount (p : Package) (y : StreamTick) : Nat := (p.steps / max 1 p.minL) * (if y.kind.isSome then 2 else 1)

/-- The dispatch record of tick seq pins its streams. -/
def takePins (s : State) (p : Package) (seq : W64) (sts : List StreamTick) : State :=
  sts.foldl (fun s y => if y.out = .running then
    modStream s y.stream (fun x => { x with pins := x.pins ++ [(seq, chunkCount p y)] }) else s) s

/-! ### Dispatch records (R15, R141, R256, R279) -/

/-- The (packet, row) of each step of a stream-tick with its control fields: its place's rows under the tick's fields, its
catch-up rows under those of the missed tick (R53). -/
def stSteps (s : State) (p : Package) (y : StreamTick) : List ((Nat × Nat) × Nat × CtlFields) :=
  let own := (p.places.getD y.place.toNat ⟨0, 0, 0, []⟩).rows.zipIdx.map (fun r => (r.1, r.2, y.ctl))
  match y.cuIdx, (findStream s y.stream).bind (fun x => x.pend) with
  | some k, some w => own ++ (p.cuRows.getD k ⟨0, []⟩).rows.zipIdx.map (fun r => (r.1, r.2, w.ctl))
  | _, _ => own

/-- Rows of packet k that a test on their step and fields selects. -/
def rowBitsWhere (l : List ((Nat × Nat) × Nat × CtlFields)) (k : Nat) (f : Nat → CtlFields → Bool) : W64 :=
  (l.filter (fun x => x.1.1 == k && f x.2.1 x.2.2)).foldl (fun (m : W64) x => setBit m x.1.2 true) 0

/-- First Orchard row of the init slot of the stream in a row of a packet. -/
def rowInits (s : State) (p : Package) (sts : List StreamTick) (k : Nat) : List (Option Nat) :=
  (List.range 64).map (fun r =>
    (sts.find? (fun y => (stRows p y).any (fun z => z == (k, r)))).bind (fun y => (findStream s y.stream).bind (fun x => x.init)))

/-- The slots of a stream-tick's stream: the slot pair by CUR as it stands when the record is written, or, for a stream of the tick in
flight, the Bloom slots (R154, Table 12-2). -/
def slotRec (s : State) (p : Package) (y : StreamTick) : SlotRec :=
  let x := findStream s y.stream
  let pair := fun (second : Bool) => x.bind (fun x => x.slot.map (fun b => b + (if second then slotRows p else 0)))
  let bloom := fun (k : BitVec 2) => x.bind (fun x => x.bloom.map (fun b => b + k.toNat * bloomRows p))
  let cur := x.elim false (fun x => x.cur)
  { stream := y.stream, src := pair (if y.fromDst then !cur else cur), dst := pair (if y.fromDst then cur else !cur),
    srcBloom := bloom y.srcBloom, dstBloom := bloom y.dstBloom }

/-- Packets of a tick. -/
def packetCount (p : Package) : Nat :=
  ((p.places.flatMap (fun x => x.rows) ++ p.cuRows.flatMap (fun x => x.rows)).map (fun r => r.1 + 1)).foldl max 0

/-- The dispatch record of tick seq. -/
def dispRecord (s : State) (p : Package) (seq : W64) (vdim : List W16) (sts : List StreamTick) : DispRec :=
  let run := sts.filter (fun y => y.out == .running)
  let steps := run.flatMap (stSteps s p)
  { seq := seq, blocks := [], slots := run.map (slotRec s p), vdim := Vector.ofFn (fun i => vdim.getD i.val 0),
    pkts := (List.range (packetCount p)).map (fun k =>
      { pkt := k, mask := rowBitsWhere steps k (fun _ _ => true), adsel := rowBitsWhere steps k (fun _ f => f.adsel),
        reset := rowBitsWhere steps k (fun i f => f.reset.getLsbD i), inits := rowInits s p run k }) }

/-- Rows of one core's dispatch record (DESIGN CHOICE, log 41). -/
def recordRows (p : Package) : Nat := 1 + (packetCount p + 63) / 64

/-- A row number as a record holds it: all ones where there is none. -/
def slotBytes (o : Option Nat) : List Byte := bytesOf 4 (o.getD 0xFFFFFFFF)

/-- The head row (DESIGN CHOICE, log 41): the sequence number, the commands of each queue's block, the VDIM values, the mask and the
adapter selections of each packet, the slots of each stream, the init slots of each packet's rows, as far as 512 bytes go. -/
def headRow (d : DispRec) : List Byte :=
  padTo rowBytes (bytesOf 8 d.seq.toNat ++ d.blocks.flatMap (bytesOf 2) ++ d.vdim.toList.flatMap (fun v => bytesOf 2 v.toNat) ++
    d.pkts.flatMap (fun k => bytesOf 8 k.mask.toNat ++ bytesOf 8 k.adsel.toNat) ++
    d.slots.flatMap (fun x => bytesOf 2 x.stream.toNat ++ slotBytes x.src ++ slotBytes x.dst ++ slotBytes x.srcBloom ++ slotBytes x.dstBloom) ++
    d.pkts.flatMap (fun k => k.inits.flatMap slotBytes))

/-- A dispatch record as rows: the head row, then the reset words, 64 to a row (R15). -/
def recordBytes' (d : DispRec) : List Byte := headRow d ++ d.pkts.flatMap (fun k => bytesOf 8 k.reset.toNat)

/-- Commands of the block to release for each queue of a core. -/
def blockSizes (x : CorePlan) : List Nat := (List.range 4).map (fun q => (x.blocks.getD q []).length)

/-- The records of the package's cores are written, and each control processor takes its own. -/
def writeRecords (s : State) (p : Package) (d : DispRec) : State :=
  (List.range p.cores).foldl (fun s k =>
    let d := { d with blocks := (p.plans[k]?).elim [] blockSizes }
    let s := writeOrchard s (p.dispBase + k * recordRows p) (padTo (rowBytes * recordRows p) (recordBytes' d))
    { s with dp := s.dp.modCore (BitVec.ofNat 3 k) (fun c => { c with dispNext := some d }) }) s

/-! ### Dispatch -/

/-- Speculation fields changed. -/
def modSpec (s : State) (f : FwrSpec → FwrSpec) : State := { s with fwr := { s.fwr with spec := f s.fwr.spec } }

/-- FWR_SPEC_PRED as this dispatch takes it (R266). -/
def latchPred (s : State) : State := if s.fwr.pending then s else modSpec s (fun p => { p with predNow := p.pred })

/-- The control fields a tick is dispatched with: its own, or the predicted ones, or none (R42). -/
def settleCtl (s : State) (t : TickRec) : State × TickRec :=
  match t.ctl with
  | some c => ({ s with sp := { s.sp with lastCtl := some c } }, t)
  | none =>
    if s.fwr.spec.predNow && t.refused.isNone && s.sp.lastCtl.isSome && !t.passive then
      (modSpec s (fun p => { p with predCnt := p.predCnt + 1 }), { t with predicted := true, ctl := s.sp.lastCtl })
    else (s, t)

/-- Error blocks that have not landed: late, or carried to the next intake when the tick is predicted (R281). -/
def settleErrs (s : State) (t : TickRec) : State × TickRec :=
  if t.predicted then
    ({ s with sp := { s.sp with errCarry := match t.errs with | e :: _ => some e | [] => s.sp.errCarry } }, { t with errs := [] })
  else (blkFail s t.errs.length, { t with errs := [] })

/-- The tick's record replaced. -/
def putTick (s : State) (t : TickRec) : State := modTick s t.seq (fun _ => t)

/-- Embedding fetches that are admitted and still in flight are charged to the next tick (R41; why these transfers only: DEDUCED,
log 121). -/
def carryFetches (s : State) (p : Package) (early : Bool) : State :=
  (s.sp.streams.filter (fun x => x.embFly && !meterHolds s.dp (portMeter (embPort x)) x.embTicket)).foldl (fun s x =>
    if s.dp.metering then { s with dp := s.dp.modMeter (portMeter (embPort x)) (fun m => m.carryOver (rowBytes * p.embRows) early) }
    else s) s

/-- Streams bound to a place. -/
def boundCount (s : State) : Nat := (s.sp.streams.filter (fun x => x.place.isSome)).length

/-- A tick is dispatched (R41, R42). A standby's tick holds no stream-tick (R373). -/
def dispatchTick (s : State) (t : TickRec) (early : Bool) : State :=
  let s := latchPred (applyPlaces (applyDue s t.seq))
  let c := settleCtl s t
  let e := settleErrs c.1 c.2
  let s := e.1
  let t := { e.2 with dispatched := true }
  match taskPkg s with
  | none => putTick s t
  | some p =>
    let s := carryFetches s p early
    if isStandby s then putTick s { t with unlisted := boundCount s } else
    let a := admitChunks s p early (newStreamTicks s p t early)
    let s := takePins a.1 p t.seq a.2
    let s := if t.passive then s else
      writeRecords s p (dispRecord s p t.seq (match t.ctl with | some c => c.vdim | none => []) a.2)
    let s := { s with sp := { s.sp with streams := s.sp.streams.map (fun x =>
      if x.place.isSome then { x with emb := false, nextWindow := if early then [] else x.nextWindow } else x) } }
    putTick s { t with sts := a.2 }

/-- DISPATCH. -/
def dispatchNow (s : State) : State :=
  match s.sp.cur with
  | none => s
  | some r =>
    if r.dispatched || !canReach s s.tkc.dispOfs.toNat || !s.tkc.active then s else
    let s := reach s s.tkc.dispOfs.toNat
    if frozen s then s else
    match s.sp.cur with
    | none => s
    | some t =>
      let s := dispatchTick s t false
      { s with tkc := { s.tkc with phase := 2 } }

def execDispatch (s : State) : Host.Outcome State Fault Refusal := .next (dispatchNow s)

/-- The conditions of R267 for the early dispatch. -/
def earlyReady (s : State) : Bool :=
  match taskPkg s with
  | none => false
  | some p => s.sp.pubs.isEmpty && s.sp.restarts.isEmpty &&
      s.sp.streams.all (fun x => x.placeNext.isNone || inputsReady s p x x.nextWindow)

/-- EARLY_DISPATCH (R267): the next tick is dispatched early, or starts at its own boundary. -/
def earlyDispatch (s : State) : State :=
  let ofs := s.fwr.spec.ofs.toNat + s.tkc.dispOfs.toNat
  match s.sp.early with
  | none => s
  | some e =>
    if !e.early || e.dispatched || !canReach s ofs then s else
    let s := reach s ofs
    if frozen s then s else
    if earlyReady s && !noEarly s then
      let s := modSpec s (fun p => { p with earlyCnt := p.earlyCnt + 1 })
      match s.sp.early with
      | some t => dispatchTick s t true
      | none => s
    else
      let s := modSpec s (fun p => { p with nostart := p.nostart + 1 })
      modTick s e.seq (fun t => { t with early := false })

def execEarlyDispatch (s : State) : Host.Outcome State Fault Refusal := .next (earlyDispatch s)

/-! ### Learning (R285) -/

/-- The adapter of an update, with the index of its record, its stream or group, and the places it consumes. -/
structure Update where
  adapter : Nat
  stream : Option W16
  group : Option Byte
  slots : List Nat
  oldest : W64
deriving DecidableEq, Repr

/-- The oldest place of a stream's queue. -/
def oldestPlace (s : State) (id : W16) : Option LrnPlace := s.sp.lrn.find? (fun l => l.stream == id)

/-- Updates of own adapters with a pending place whose stream has a stream-tick in the tick. -/
def ownUpdates (s : State) (t : TickRec) : List Update :=
  s.sp.streams.filterMap (fun x =>
    match oldestPlace s x.id with
    | some l =>
      if l.group.isNone && t.sts.any (fun y => y.stream == x.id && y.out == .running) then
        some ⟨l.adapter, some x.id, none, [l.slot], l.tgtSeq⟩ else none
    | none => none)

/-- Updates of group adapters: the oldest place of every bound member that has one (R283, R288). -/
def groupUpdates (s : State) : List Update :=
  (s.sp.groups.filterMap (fun g =>
    let ls := (s.sp.streams.filter (fun x => x.adapt == 2 && x.group == g.group && x.place.isSome)).filterMap (fun x => oldestPlace s x.id)
    match ls with
    | l :: _ => some (⟨l.adapter, none, some g.group, ls.map (fun z => z.slot), l.tgtSeq⟩ : Update)
    | [] => none))

/-- Order of offer: own adapters by the oldest TGT_SEQ and the lowest stream ID, then groups in increasing order. -/
def offerBefore (a b : Update) : Bool :=
  match a.stream, b.stream with
  | some x, some y => decide (a.oldest < b.oldest) || (a.oldest == b.oldest && decide (x < y))
  | some _, none => true
  | none, some _ => false
  | none, none => decide (a.group.getD 0 < b.group.getD 0)

def insertUpdate (x : Update) : List Update → List Update
  | [] => [x]
  | y :: ys => if offerBefore x y then x :: y :: ys else y :: insertUpdate x ys

/-- Learning holds the level-3 meter (R49). -/
def learningOwnsL3 (s : State) : Bool := s.err.ownL3.getLsbD 0

/-- One update offered: it takes a position of its head's core and a place at meter 13, or stays pending. -/
def offerUpdate (p : Package) (seq : W64) (early : Bool) (a : State × List Nat) (u : Update) : State × List Nat :=
  match p.adapters[u.adapter]? with
  | none => a
  | some ad =>
    if ad.positions ≤ (a.2.filter (fun k => k == u.adapter)).length then a else
    let m := meterTry a.1.dp 13 ad.updCyc early
    let s := { a.1 with dp := m.2 }
    if !m.1 then (s, a.2) else
    let s := { s with sp := { s.sp with lrn := s.sp.lrn.map (fun l => if u.slots.any (fun k => k == l.slot) then { l with inUse := true, runTick := seq } else l) } }
    let mine := fun (y : StreamTick) => u.stream == some y.stream ||
      (match u.group, findStream s y.stream with | some g, some x => x.adapt == 2 && x.group == g | _, _ => false)
    (modTick s seq (fun t => { t with sts := t.sts.map (fun y => if mine y && y.out == .running then { y with lrnRan := true } else y) }),
     a.2 ++ [u.adapter])

/-- The SP offers the updates of a tick at the start of its compute. -/
def offerUpdates (s : State) (t : TickRec) (early : Bool) : State :=
  match taskPkg s with
  | none => s
  | some p =>
    if !learningOwnsL3 s then s else
    let idle := fun (u : Update) => u.slots.all (fun k => s.sp.lrn.all (fun l => l.slot != k || !l.inUse))
    let us := (ownUpdates s t ++ groupUpdates s).filter idle
    ((us.foldl (fun l u => insertUpdate u l) []).foldl (offerUpdate p t.seq early) (s, [])).1

/-! ### The start of compute (R18, R44, R225, R368) -/

/-- Every running stream-tick that a test selects is SKIPPED. -/
def skipWhere (s : State) (seq : W64) (p : StreamTick → Bool) : State :=
  modTick s seq (fun t => { t with sts := t.sts.map (fun y => if y.out = .running && p y then { y with out := .skipped } else y) })

/-- The chain restarts. -/
def chainRestarting (s : State) (ch : Nat) : Bool := s.sp.restarts.any (fun r => r.chain == ch)

/-- Publish of the tick two before has not finished (R44). -/
def publishBehind (s : State) (seq : W64) : Bool := s.sp.pubs.any (fun r => decide (r.seq.toNat + 2 ≤ seq.toNat))

/-- A core can begin the tick: it holds the tick's record, its chain is in service, and it has issued its last command. -/
def canBegin (s : State) (seq : W64) (c : BitVec 3) (early : Bool) : Bool :=
  let x := vget s.dp.cores c
  !x.restart && (match x.dispNext with | some d => d.seq == seq | none => false) &&
    (!early || x.run == .idle || (x.run == .computing && coreDone x))

/-- The cores of the task begin the compute phase of tick seq. -/
def beginCores (s : State) (seq : W64) (early : Bool) : State :=
  stopLate { s with dp := allCores.foldl (fun (d : Dp) c =>
    if canBegin s seq c early then d.setCore c ((vget d.cores c).begin seq 0) else d) s.dp }

/-- The compute phase of a tick begins. -/
def computeTick (s : State) (t : TickRec) (early : Bool) : State :=
  let s := modTick s t.seq (fun r => { r with computing := true })
  if t.passive then skipWhere s t.seq (fun _ => true)
  else if publishBehind s t.seq || s.twn.state == .selftest then withdraw (skipWhere s t.seq (fun _ => true)) t.seq
  else
    let s := skipWhere s t.seq (fun y => chainRestarting s y.chain)
    match (openTicks s).find? (fun r => r.seq == t.seq) with
    | none => s
    | some r =>
      let s := offerUpdates s r early
      let s := if early then s else
        match (openTicks s).find? (fun r => r.seq == t.seq) with
        | some r => writeAdapters s r
        | none => s
      beginCores s t.seq early

/-- COMPUTE_START: of the current tick, or of the early tick at FWR_SPEC_OFS + TKC_COMPUTE_OFS (R269). -/
def computeStart (s : State) : State :=
  let main := match s.sp.cur with
    | some r => if r.dispatched && !r.computing && canReach s s.tkc.compOfs.toNat then some (r, s.tkc.compOfs.toNat, false) else none
    | none => none
  let early := match s.sp.early with
    | some e =>
      let ofs := s.fwr.spec.ofs.toNat + s.tkc.compOfs.toNat
      if e.early && e.dispatched && !e.computing && canReach s ofs then some (e, ofs, true) else none
    | none => none
  match main, early with
  | some (_, ofs, e), _ | none, some (_, ofs, e) =>
    let s := reach s ofs
    if frozen s then s else
    match (if e then s.sp.early else s.sp.cur) with
    | none => s
    | some t =>
      let s := computeTick s t e
      if e then s else { s with tkc := { s.tkc with phase := 3 } }
  | none, none => s

def execComputeStart (s : State) : Host.Outcome State Fault Refusal := .next (computeStart s)

end Sys2Proof.Machine
end

