-- ==== Sys2Proof/Machine/Outputs.lean ====
section
/-!
DEFINITION. Machine/Outputs: output records and their signatures (14_host_rings R305; 15_check_units R322; 18_twin_pairing R364).
-/
namespace Sys2Proof.Machine

/-- Row of the output area for chunk k (1: the catch-up rows) of a place in tick seq (R44, log 46). -/
def outRow (p : Package) (seq : W64) (place : W16) (k : Nat) : Nat :=
  p.outBase + (((seq.toNat % 2) * p.places.length + place.toNat) * 2 + k) * rowsFor p.outPayload

/-- One output record to be: its stream and place, its sequence number, whether it is that of a missed chunk, its payload. -/
structure OutRec where
  stream : W16
  place : W16
  seq : W64
  catchUp : Bool
  payload : List Byte
deriving DecidableEq, Repr

/-- PLACE as Table 7-3 writes it. -/
def placeField (p : Package) (place : W16) : Nat :=
  match p.places[place.toNat]? with | some x => x.batch.toNat * 256 + x.pos.toNat | none => 0

/-- The Orchard rows that the records of a stream-tick of tick t take their payloads from. -/
def outReads (p : Package) (t : W64) (y : StreamTick) : List Nat :=
  (if y.seqs.length = 2 then [1, 0] else [0]).flatMap (fun k =>
    (List.range (rowsFor p.outPayload)).map (fun i => outRow p t y.place k + i))

/-- The records of a stream-tick of tick t, the older first (R53). -/
def outRecs (s : State) (p : Package) (t : W64) (y : StreamTick) : List OutRec :=
  let pay := fun (k : Nat) => (orchardRows s (outRow p t y.place k) (rowsFor p.outPayload)).take p.outPayload
  match y.seqs with
  | [a, b] => [⟨y.stream, y.place, a, y.kind == some .missed, pay 1⟩, ⟨y.stream, y.place, b, false, pay 0⟩]
  | a :: _ => [⟨y.stream, y.place, a, false, pay 0⟩]
  | [] => []

/-- Header bytes 0 to 3 and 6 to 15. -/
def outHead (p : Package) (r : OutRec) : List Byte × List Byte :=
  (bytesOf 2 r.stream.toNat ++ bytesOf 2 (placeField p r.place), bytesOf 2 p.outPayload ++ bytesOf 8 r.seq.toNat)

/-- The bytes of a record that its signature covers. -/
def signedBytes (p : Package) (r : OutRec) : List Byte := (outHead p r).1 ++ (outHead p r).2 ++ r.payload

/-- SIG over records, formed on DU2 with the fold word of the newest (R322, R364). -/
def signRecs (s : State) (p : Package) (rs : List OutRec) : Nat × State :=
  match rs.getLast? with
  | none => (0, s)
  | some r => formCheck s 2 2 false (imageFold r.stream r.seq.toNat) (rs.flatMap (signedBytes p))

/-- An output record as it is written, PHASE apart. -/
def outBytes (s : State) (p : Package) (sloe : Bool) (r : OutRec) : List Byte × State :=
  let g := if s.hif.osigEn then signRecs s p [r] else (0, s)
  let h := outHead p r
  (h.1 ++ [BitVec.ofNat 8 (2 * r.catchUp.toNat + 4 * sloe.toNat), 0] ++ h.2 ++ bytesOf 8 g.1 ++ List.replicate 8 0 ++ r.payload,
   g.2)

end Sys2Proof.Machine
end

