-- ==== Sys2Proof/Machine/Pit.lean ====
section
/-!
DEFINITION. Machine/Pit: the pit (01_two_hierarchies R22 to R26; 02_the_tick R50 to R53; 07_stream_state R154, R156, R157, R159;
10_command_queues R226; 12_speculative_ticks R275, R276; 13_adapter_learning R286, R287; 17_errors R345, R347; 18_twin_pairing R365,
R367, R370): which stream-ticks of a tick commit, and what becomes of the others.
-/
namespace Sys2Proof.Machine

/-! ### What completed (R24, R26) -/

/-- Packets of a stream-tick. -/
def packetsOf (s : State) (y : StreamTick) : List Nat :=
  match taskPkg s with | some p => ((stRows p y).map (fun r => r.1)).eraseDups | none => []

/-- A core has issued every command of tick t (R226), and what those of some packets write has landed by this cycle, the pit's. -/
def coreFinished (s : State) (t : W64) (ks : List Nat) (c : BitVec 3) : Bool :=
  let x := vget s.dp.cores c
  !x.restart && (if x.tick = t then x.run == .computing && coreDone x else decide (t < x.tick)) &&
    x.pktEnds.all (fun e => e.1 != t || !ks.any (fun k => k == e.2.1) || decide (e.2.2 ≤ s.dp.cycle)) &&
    x.dmem.all (fun m => m.tick != t || !ks.any (fun k => k == m.pkt))

/-- Every core of its chain has finished its stages for the stream (R24, R26). -/
def stFinished (s : State) (t : W64) (y : StreamTick) : Bool := (chainCores s y.chain).all (coreFinished s t (packetsOf s y))

/-- The actual descriptor of a tick has landed with its control block. -/
def descriptorIn (t : TickRec) : Bool := match t.cmd with | some c => !c.ctlWait && t.refused.isNone | none => false

/-- What becomes of a stream-tick at its pit. -/
def judge (s : State) (t : TickRec) (y : StreamTick) : StOut :=
  if y.out ≠ .running then y.out
  else if t.predicted && !descriptorIn t then .skipped
  else if y.mism || y.srcBad then .discarded
  else if s.twn.state = .mirror then
    (if verdictCommits s t.seq y.place then .committed else .rolledBack)
  else if y.late || !stFinished s t.seq y then .skipped
  else .committed

/-- A discarded stream-tick whose rerun can never be admitted is SKIPPED (R276 with R55). -/
def settleOut (s : State) (o : StOut) : StOut := if o = .discarded ∧ s.tkc.cuReserve = 0 then .skipped else o

/-- The cores for whose sake judge skips a stream-tick: they did not finish it (R26, R303). -/
def unfinishedCores (s : State) (t : TickRec) (y : StreamTick) : List (BitVec 3) :=
  if y.out ≠ .running ∨ judge s t y ≠ .skipped ∨ (t.predicted && !descriptorIn t) then []
  else (chainCores s y.chain).filter (fun c => !coreFinished s t.seq (packetsOf s y) c)

/-- Cores that did not finish are named in CORE_STATUS (R303). -/
def noteCores (s : State) (t : TickRec) : TickRec :=
  if t.computing then
    allCores.foldl (fun r c => noteCore t.seq c 1 (fun y => (unfinishedCores s t y).any (fun k => k == c)) r) t
  else t

/-! ### Commit (R24, R154, R271) -/

/-- The update count of a stream record (bytes 8 to 11). -/
def updateCount (s : State) (p : Package) (x : Stream) : Nat × State :=
  match curSlot p x with | some b => narrowRead s (rowBytes * (b + slotRows p - 1) + 8) 4 | none => (0, s)

/-- A stream-tick commits: the slot and its Bloom slot flip, and the new slot's stream record takes its sequence number and
update count (DEDUCED, log 51). -/
def commitOne (p : Package) (s : State) (y : StreamTick) : State :=
  match findStream s y.stream with
  | none => s
  | some x =>
    let seq := y.seqs.getLastD x.seq
    let r := updateCount s p x
    let n := r.1 + (if y.lrnRan && x.adapt == 1 then 1 else 0)
    let z := fun (x : Stream) =>
      { x with cur := !x.cur, seq := seq, bc := if x.bloom.isSome then y.dstBloom else x.bc,
               pend := if y.kind.isSome then none else x.pend }
    let s := modStream r.2 y.stream z
    match curSlot p (z x) with
    | some b => writeOrchard s (b + slotRows p - 1) (recordRow seq n)
    | none => s

/-! ### What a stream keeps of a tick it missed (R52, R53, R276, R367) -/

/-- The place's mismatch bit in the tick's VERDICT. -/
def mismatched (s : State) (seq : W64) (place : W16) : Bool :=
  match verdictOf s seq place with | some v => v.mismatch.getLsbD (place.toNat % 64) | none => false

/-- The window a stream-tick that did not commit leaves pending, if any. -/
def keepsWindow (s : State) (p : Package) (seq : W64) (y : StreamTick) : Option PendWin :=
  let full := y.window.length == p.steps
  let w := fun (k : PendKind) => some (⟨k, seq, y.window, y.ctl⟩ : PendWin)
  match findStream s y.stream with
  | none => none
  | some x =>
    if s.twn.state == .mirror && mismatched s seq y.place then (if y.kind == some .mirror then none else w .mirror)
    else if s.tkc.cuReserve = 0 ∨ !full ∨ x.life ≠ .resident then none
    else if y.out = .discarded then w .rerun
    else if x.catchUp then w .missed else none

/-- One stream-tick that did not commit: an older pending window is discarded and counted, the missed one kept as the policy
says. -/
def missOne (p : Package) (seq : W64) (s : State) (y : StreamTick) : State :=
  match findStream s y.stream with
  | none => s
  | some x =>
    let s := if y.kind.isNone then rerunLost s x.pend else s
    let s := if x.pend.isSome && s.tkc.cuReserve != 0 then { s with tkc := { s.tkc with cuDrop := s.tkc.cuDrop + 1 } } else s
    let w := keepsWindow s p seq y
    modStream s y.stream (fun z => { z with pend := w })

/-- A committed stream-tick leaves no older window behind (R54). -/
def dropOlder (s : State) (y : StreamTick) : State :=
  match findStream s y.stream with
  | some x =>
    if x.pend.isSome && s.tkc.cuReserve != 0 then
      let s := rerunLost s x.pend
      modStream { s with tkc := { s.tkc with cuDrop := s.tkc.cuDrop + 1 } } y.stream (fun z => { z with pend := none })
    else s
  | none => s

/-- One stream-tick at the pit. -/
def settleOne (p : Package) (seq : W64) (s : State) (y : StreamTick) : State :=
  if y.out = .committed then dropOlder (commitOne p s y) y else missOne p seq s y

/-! ### Retention (R280) -/

/-- The retention entries of a stream-tick, the older sequence first. -/
def retainOne (p : Package) (s : State) (y : StreamTick) : State :=
  match (findStream s y.stream).bind (streamAdapter p) with
  | none => s
  | some (_, a) =>
    let n := max 1 a.ret
    let put := fun (l : List Retain) (q : W64) =>
      l.filter (fun r => !(r.stream == y.stream && r.seq.toNat % n == q.toNat % n)) ++ [⟨y.stream, q, y.out == .committed⟩]
    { s with sp := { s.sp with retain := y.seqs.foldl put s.sp.retain } }

/-! ### Learning (R286, R287, R156) -/

/-- An update that ran in tick seq: its places are freed with its commit, or stay for another run. -/
def endUpdate (s : State) (seq : W64) (mine : LrnPlace → Bool) (commit : Bool) : State :=
  let mine := fun (l : LrnPlace) => mine l && l.inUse && l.runTick == seq
  let used := s.sp.lrn.filter mine
  let bad := used.any (fun l => !l.finite)
  let f := s.fwr.lrn
  let f := { f with nonfin := if bad then satInc f.nonfin else f.nonfin }
  let f := if commit then { f with commit := f.commit + 1 } else { f with requeue := f.requeue + 1 }
  let keep := if commit then s.sp.lrn.filter (fun l => !mine l)
    else s.sp.lrn.map (fun l => if mine l then { l with inUse := false } else l)
  { s with sp := { s.sp with lrn := keep }, fwr := { s.fwr with lrn := f } }

/-- The update of an own adapter. -/
def endOwn (seq : W64) (s : State) (y : StreamTick) : State :=
  match findStream s y.stream with
  | some x => if y.lrnRan && x.adapt == 1 then endUpdate s seq (fun l => l.group.isNone && l.stream == y.stream) (y.out == .committed) else s
  | none => s

/-- The stream-ticks of a group's members. -/
def groupSts (s : State) (g : Byte) (sts : List StreamTick) : List StreamTick :=
  sts.filter (fun y => match findStream s y.stream with | some x => x.adapt == 2 && x.group == g | none => false)

/-- The update of a group adapter: its CUR flips only if every member's stream-tick that ran with learning commits (R156). -/
def endGroup (seq : W64) (sts : List StreamTick) (s : State) (g : Byte) : State :=
  if (runningPlaces s seq (fun l => l.group == some g)).isEmpty then s else
  let ok := ((groupSts s g sts).filter (fun y => y.ctl.lrn || y.lrnRan)).all (fun y => y.out == .committed)
  let s := endUpdate s seq (fun l => l.group == some g) ok
  if ok then { s with sp := { s.sp with groups := s.sp.groups.map (fun x => if x.group = g then { x with cur := !x.cur } else x) } }
  else s

/-- Groups whose CUR flips at this pit. -/
def flippedGroups (a b : State) : List Byte :=
  (a.sp.groups.filter (fun x => b.sp.groups.any (fun y => y.group == x.group && y.cur != x.cur))).map (fun x => x.group)

/-! ### Speculation (R275, R101) -/

/-- Stream-ticks discarded, counted and masked from the pit's cycle on (R275). -/
def discardWhere (s : State) (seq : W64) (p : StreamTick → Bool) : State :=
  let bad := fun (y : StreamTick) => y.out == .running && p y
  let n := ((tickSts s seq).filter bad).length
  let s := maskNow s seq bad
  let s := modTick s seq (fun t => { t with sts := t.sts.map (fun y => if bad y then { y with out := .discarded } else y) })
  modSpec s (fun f => { f with discard := f.discard + BitVec.ofNat 32 n })

/-- The confirmation of a tick at a pit at which everything is known. -/
def confirm (s : State) (seq : W64) : State :=
  let s := discardWhere s seq (fun y => y.mism || y.srcBad)
  let clean := (tickSts s seq).all (fun y => y.out != .discarded)
  modTick (settleFlags s seq clean) seq (fun t => { t with confirmed := true })

/-- The current tick at its own pit. -/
def confirmOwn (s : State) (t : TickRec) : State :=
  if !t.isSpec then s
  else if t.predicted && !descriptorIn t then
    let s := settleFlags s t.seq false
    if t.refused.isSome then s else modSpec s (fun f => { f with lateDesc := satInc f.lateDesc })
  else confirm s t.seq

/-- The early tick at the pit of the tick before it: a stream that did not commit there had another source (R275). -/
def confirmEarly (s : State) (t : TickRec) : State :=
  match s.sp.early with
  | none => s
  | some e =>
    if !e.dispatched then s else
    let failed := fun (y : StreamTick) => y.fromDst && !t.sts.any (fun z => z.stream == y.stream && z.out == .committed)
    let s := modTick s e.seq (fun r => { r with sts := r.sts.map (fun y => if failed y then { y with srcBad := true } else y) })
    if e.predicted && !descriptorIn e then discardWhere s e.seq (fun y => y.srcBad) else confirm s e.seq

/-! ### Queues (R226, R347 step 1) -/

/-- The commands of tick t left in a queue leave it. -/
def EngQ.discard (e : EngQ) (t : W64) : EngQ :=
  match e.blocks.find? (fun b => b.1 == t) with
  | some b => { e with cmds := e.cmds.drop b.2, head := e.head + BitVec.ofNat 9 b.2, discarded := true,
                       blocks := e.blocks.filter (fun x => x.1 != t) }
  | none => e

/-- A queue emptied whole. -/
def EngQ.empty (e : EngQ) : EngQ :=
  let h := e.head + BitVec.ofNat 9 e.cmds.length
  { e with cmds := [], blocks := [], head := h, rel := h, discarded := decide (0 < e.cmds.length) || e.discarded }

/-- The core discards commands of tick t at its pit, or issued none of it. -/
def mustRestart (x : Core) (t : W64) : Bool :=
  x.queues.toList.any (fun q => q.blocks.any (fun b => b.1 == t)) || (x.tick == t && x.run == .stopped)

/-- A core after the pit of tick t. -/
def Core.endTick (x : Core) (t : W64) : Core :=
  let x := { x with queues := x.queues.map (fun (q : EngQ) => q.discard t), pktEnds := x.pktEnds.filter (fun e => e.1 != t) }
  let x := if x.restart then { x with queues := x.queues.map EngQ.empty, run := .idle, hold := none, dispNext := none } else x
  if x.tick = t then { x with run := .idle, hold := none } else x

/-- Queues at the pit of tick t: chains that discard commands restart. -/
def endQueues (s : State) (t : W64) : State :=
  let chains := (allCores.filter (fun c => mustRestart (vget s.dp.cores c) t)).filterMap (chainOf s)
  let s := chains.eraseDups.foldl (fun s ch => callRestart s ch t false) s
  let s := withdraw s t
  allCores.foldl drainCp { s with dp := { s.dp with cores := s.dp.cores.map (fun c => c.endTick t) } }

/-! ### The pit -/

/-- Swap-outs whose stream holds no pin any more start, and landed init images take their place (R155, R159). -/
def afterPins (s : State) : State :=
  let go := (s.sp.streams.filter (fun x => x.life == .draining && pinsOf x == 0)).map (fun x => x.id)
  let s := go.foldl startLeaving s
  ((s.sp.streams.filter (fun x => x.initJob.isSome)).map (fun x => x.id)).foldl initReplaces s

/-- Outcomes counted (R51, R345). -/
def countOuts (s : State) (sts : List StreamTick) (unlisted : Nat) : State :=
  let n := fun (o : StOut) => (sts.filter (fun y => y.out == o)).length
  { s with tkc := { s.tkc with skip := s.tkc.skip + BitVec.ofNat 32 (n .skipped + n .rolledBack + unlisted) },
           err := { s.err with rollback := s.err.rollback + BitVec.ofNat 32 (n .rolledBack) } }

/-- A VERDICT missing at P − 1, or one with LINK set, is a loss of the link (R365). -/
def checkVerdicts (s : State) (t : TickRec) : State :=
  if s.twn.state ≠ .mirror then s else
  let gs := (List.range ((placeCount s + 63) / 64))
  let bad := gs.any (fun g => match s.twn.verdicts.find? (fun v => v.seq == t.seq && v.group.toNat == g) with
    | some v => v.link | none => true)
  if bad then declareDown s else s

/-- The active twin's delta after the pit (R362, R370). -/
def sendDelta (s : State) (t : TickRec) (groups : List Byte) : State :=
  if s.twn.state = .active ∨ (s.twn.state = .syncing ∧ !s.twn.role) then
    let s := abandonDelta s
    let ids := (t.sts.filter (fun y => y.out == .committed)).map (fun y => (y.stream, y.lrnRan))
    let more := (s.twn.carry.filter (fun c => !ids.any (fun i => i.1 == c))).map (fun c => (c, true))
    buildDelta s t.seq (ids.map (fun i => (i.1, i.2 || s.twn.carry.any (fun c => c == i.1))) ++ more) groups
  else s

/-- The pit of the current tick (R22 to R24). -/
def commitTick (s : State) (t : TickRec) : State :=
  let s := checkVerdicts (confirmOwn s t) t
  match s.sp.cur with
  | none => s
  | some t =>
    let n := noteCores s t
    let t := { n with sts := t.sts.map (fun y => { y with out := settleOut s (judge s t y) }),
                      sloe := s.fwr.fw.level == 1 }
    let s := putTick s t
    let was := s
    let s := match taskPkg s with
      | none => s
      | some p => (t.sts.foldl (settleOne p t.seq) (t.sts.foldl (retainOne p) s))
    let s := t.sts.foldl (endOwn t.seq) s
    let s := (s.sp.groups.map (fun g => g.group)).foldl (endGroup t.seq t.sts) s
    let groups := flippedGroups s was
    let s := countOuts (releasePins s t.seq) t.sts t.unlisted
    let s := confirmEarly (endQueues s t.seq) t
    let s := afterPins s
    let pubs := match s.sp.cur with | some r => s.sp.pubs ++ [r] | none => s.sp.pubs
    let s := { s with sp := { s.sp with cur := none, pubs := pubs }, tkc := { s.tkc with phase := 4 } }
    let s := sendDelta s t groups
    let f := s.fwr.fw
    let s := { s with fwr := { s.fwr with fw := { f with uptime := Config.freeWord s.dp.free } }, dp := { s.dp with free := s.dp.free + 1 } }
    { s with fwr := { s.fwr with shown := pitWords s } }

/-- PIT. -/
def pit (s : State) : State :=
  match s.sp.cur with
  | none => s
  | some r =>
    if !r.computing || !canReach s s.tkc.deadOfs.toNat then s else
    let s := reach s s.tkc.deadOfs.toNat
    if frozen s then s else
    match s.sp.cur with
    | some t => commitTick s t
    | none => s

def execPit (s : State) : Host.Outcome State Fault Refusal := .next (pit s)

end Sys2Proof.Machine
end

