-- ==== Sys2Proof/Machine/Loader.lean ====
section
/-!
DEFINITION. Machine/Loader: LOAD, UNLOAD and the descriptors with no body (14_host_rings R297, R298), the loader's checks and fill
(11_tiling_and_loader R262 to R265, Table 11-4; 19_power_clocks_identity R384, R387, R391), and the end of a task (09_scratchpads
R219 to R221).
-/
namespace Sys2Proof.Machine

/-! ### Taking a descriptor that is not a TICK or STATE one -/

/-- Bytes 0x00 to 0x3B of a descriptor: TYPE, reserved bytes, TAG and body (Table 14-2). -/
def bodyBytes (type : Byte) (rsv : BitVec 24) (tag : W32) (body : List Byte) : List Byte :=
  [type] ++ bytesOf 3 rsv.toNat ++ bytesOf 4 tag.toNat ++ padTo 52 body

/-- The SP takes a descriptor from its ring and makes the first checks of R297; `act` has the state and the descriptor sequence of
one that passes. -/
def takeDesc (s : State) (n : BitVec 4) (type : Byte) (tag : W32) (bytes : List Byte) (crc : W32) (typeOk : Bool)
    (act : State → W64 → State) : State :=
  if !descPresent s n then s else
  let q := (vget s.hif.sqs n).seq
  let c := checkDesc (takeHead s n) n q bytes crc typeOk
  match c.1 with
  | some st => complete (takeReport c.2 (descReport st tag n q)) n type tag q st 0 0xFFFF
  | none => act c.2 q

/-- A body of zeros with zero reserved bytes. -/
def bareOk (d : BareDesc) : Bool := d.rsv == 0 && d.body.all (fun b => b == 0)

/-- NOP descriptor (Table 14-3): it completes OK. -/
def execNopDescriptor (d : BareDesc) (s : State) : Host.Outcome State Fault Refusal :=
  .next (takeDesc s d.sq 5 d.tag (bodyBytes 5 d.rsv d.tag d.body) d.crc (bareOk d)
    (fun s q => complete s d.sq 5 d.tag q 0 0 0xFFFF))

/-- A descriptor of a reserved TYPE (R297 step 2), or of TYPE 2 with a reserved OP, which R169 refuses; the TYPEs 1 to 5, and the OPs
1 to 8, are not reserved. -/
def execReservedTypeDescriptor (type : Byte) (d : BareDesc) (s : State) : Host.Outcome State Fault Refusal :=
  let b := stateOfBody d
  .next (if type = 2 ∧ ¬(1 ≤ b.1.toNat ∧ b.1.toNat ≤ 8) then runStateDesc s b.1 b.2
    else if 1 ≤ type.toNat ∧ type.toNat ≤ 5 then s
    else takeDesc s d.sq type d.tag (bodyBytes type d.rsv d.tag d.body) d.crc false (fun s _ => s))

/-! ### The end of a task (R219 to R221, R298, R387) -/

/-- Device rows of the regions of a task that SCRUB names: those of core k's memory. -/
def coreScrubRows (m : Cmem) (k : BitVec 3) : List (Nat × Nat) :=
  (m.regions.toList.filter (fun r => r.valid && r.scrub)).map (fun r => (coreRow k (m.base + r.base), r.rows))

/-- Those of the Orchard. -/
def orchScrubRows (d : Dp) : List (Nat × Nat) :=
  (d.org.filter (fun r => r.valid && r.scrub)).map (fun r => ((vget d.cores 0).cm.orBase + r.base, r.rows))

/-- Device rows written with zero data and valid checks. -/
def scrubSpan (d : Dp) (x : Nat × Nat) : Dp :=
  d.rewrite x.1 x.2 (memZero d.dev (rowBytes * x.1) (rowBytes * x.2))

/-- Rows of a span that lie in bank b of n. -/
def bankRows (n b : Nat) (x : Nat × Nat) : Nat := (x.1 + x.2 + n - 1 - b) / n - (x.1 + n - 1 - b) / n

/-- Cycles in which a scrubber, at one row per bank and cycle, writes the spans of a memory of n banks (R219). -/
def scrubTime (n : Nat) (spans : List (Nat × Nat)) : Nat :=
  ((List.range n).map (fun b => (spans.map (bankRows n b)).sum)).foldl max 0

/-- Rows of core k's memory within it, of device rows. -/
def coreSpan (x : Nat × Nat) : Nat × Nat := ((x.1 - 0x20000) % 0x4000, x.2)

/-- The SCRUB regions of the task that ends are scrubbed; the Orchard rows among them count in FWR_ORT_SCRUB. -/
def scrubTask (s : State) : State :=
  let org := orchScrubRows s.dp
  let mine := fun (c : BitVec 3) => if taskCore s c then coreScrubRows (vget s.dp.cores c).cm c else []
  let spans := org ++ allCores.flatMap mine
  let t := (allCores.map (fun c => scrubTime 12 ((mine c).map coreSpan))).foldl max 0
  { s with dp := spans.foldl scrubSpan s.dp,
           sp := { s.sp with scrub := s.sp.scrub + (org.map (fun x => x.2)).sum, cmScrub := s.sp.cmScrub + t } }

/-- A core after its task: nothing queued, released or under way, and no locked line. -/
def Core.clearTask (c : Core) : Core :=
  { c with queues := c.queues.map EngQ.empty, run := .idle, hold := none, dispNext := none, disp := dispReset, dmem := [], pktEnds := [],
           cpWait := [], nflagHeld := [], restart := false, ve := { c.ve with ftPend := none },
           cm := { c.cm with inbound := [], fabric := [], locked := [], inService := false } }

/-- Every stream returns to FREE, and the task's tables go. -/
def Sp.clearTask (x : Sp) : Sp :=
  { x with streams := [], groups := [], lastOwner := (x.task.map (fun t => t.owner)).or x.lastOwner, task := none, cur := none,
           early := none, pubs := [], errCarry := none, lastCtl := none, lrn := [], retain := [], npd := [], restarts := [] }

/-- What issued commands still write is in its place: what has issued runs on real cycles (R221, R233). -/
def settleData (s : State) : State :=
  { s with dp := (s.dp.passLandings ((s.dp.landings.map (fun x => x.1)).foldl max 0)).1 }

/-- The task ends (R219, R298, R387): its resources are released, its engines gated, its measurement no longer shown. -/
def endTask (s : State) : State :=
  let s := scrubTask (settleData s)
  let d := { s.dp with cores := s.dp.cores.map Core.clearTask, landings := [] }
  let s := { s with dp := d, sp := s.sp.clearTask, pwr := { s.pwr with corePg := 0xFF } }
  let s := leaveOwn (leaveOwn s 1 false) 3 false
  { s with err := { s.err with jrnlActive := false },
           sec := { s.sec with pkgMeas := 0, pkgOwner := 0xFF } }

/-- LOAD and UNLOAD run on an unpaired device only (R363, R369). -/
def pairBusy (s : State) : Bool := s.twn.state != .unpaired

/-- UNLOAD (R298). -/
def unloadTask (s : State) (d : BareDesc) (q : W64) : State :=
  if pairBusy s || s.sp.task.isNone || s.tkc.run || s.tkc.active then complete s d.sq 4 d.tag q 5 0 0xFFFF
  else complete (endTask s) d.sq 4 d.tag q 0 0 0xFFFF

def execUnload (d : BareDesc) (s : State) : Host.Outcome State Fault Refusal :=
  .next (takeDesc s d.sq 4 d.tag (bodyBytes 4 d.rsv d.tag d.body) d.crc (bareOk d) (fun s q => unloadTask s d q))

/-! ### Load requests (R262, check 0x01) -/

/-- The FWR_LDR fields of a failed load. -/
def FwrLdr.failed (l : FwrLdr) (f : LoadFail) : FwrLdr :=
  let l := { l with status := f.status.zeroExtend 8, reason := BitVec.ofNat 8 f.reason, busy := false, fvalid := false }
  match f.at_ with
  | some (c, q, i) => { l with fcore := c, fvalid := true, fqueue := queueIndex q, findex := BitVec.ofNat 9 i }
  | none => l

def setLdr (s : State) (l : FwrLdr) : State := { s with fwr := { s.fwr with ldr := l } }

/-- LOAD's body (Table 14-3). -/
def loadBody (d : LoadDesc) : List Byte := bytesOf 8 d.addr.toNat ++ bytesOf 4 d.len.toNat ++ padTo 40 d.rest

/-- The reserved parts of a LOAD are 0 and its address is a 40-bit one aligned to 512 bytes. -/
def loadOk (d : LoadDesc) : Bool := d.rsv == 0 && addrOk d.addr && d.rest.all (fun b => b == 0)

/-- A LOAD request (R262): refused while a task is loaded or loading or TKC_RUN is 1; else the fetch begins. -/
def requestLoad (s : State) (d : LoadDesc) (q : W64) : State :=
  if pairBusy s then complete s d.sq 3 d.tag q 5 0 0xFFFF
  else if s.sp.task.isSome || s.sp.load.isSome || s.tkc.run then
    let l := { s.fwr.ldr.failed ⟨5, 1, none⟩ with busy := s.sp.load.isSome }
    complete (setLdr s l) d.sq 3 d.tag q 5 1 0xFFFF
  else
    let j : LoadJob := { tag := d.tag, sq := d.sq, seq := q, addr := d.addr.setWidth 40, len := d.len, passed := none }
    setLdr { s with sp := { s.sp with load := some j } } { s.fwr.ldr with busy := true }

def execLoad (d : LoadDesc) (s : State) : Host.Outcome State Fault Refusal :=
  .next (takeDesc s d.sq 3 d.tag (bodyBytes 3 d.rsv d.tag (loadBody d)) d.crc (loadOk d) (fun s q => requestLoad s d q))

/-! ### The checks of Table 11-4 -/

/-- The generation the device's command words are of. -/
def deviceGen : Byte := 1

/-- The key accepts (R391): Virell's package key, or an owner slot that is valid and not revoked. -/
def signerOk (s : State) (p : Package) : Bool :=
  p.sigOk && (match p.signer with
    | some 0 => true
    | some (i + 1) => decide (i < 6) && s.sec.sensed.ownerValid.getLsbD i && !s.sec.sensed.ownerRevoked.getLsbD i
    | none => false)

/-- The CRC-32C of a section with its index as fold word, on DU3 (Table 15-2). -/
def sectionsOk : State → Nat → List (List Byte × W32) → Bool × State
  | s, _, [] => (true, s)
  | s, i, x :: xs =>
    let c := formCheck s 3 1 false (BitVec.ofNat 32 i) x.1
    if c.1 = x.2.toNat then sectionsOk c.2 (i + 1) xs else (false, c.2)

/-- Two spans of rows do not meet. -/
def apart (a b : RegionDef) : Bool := decide (a.base + a.rows ≤ b.base) || decide (b.base + b.rows ≤ a.base)

/-- Regions of a level: at most n, within the span, pairwise apart. -/
def regionsOk (l : List RegionDef) (n rows : Nat) : Bool :=
  decide (l.length ≤ n) && l.all (fun r => decide (0 < r.rows) && decide (r.base + r.rows ≤ rows)) &&
    (l.zipIdx.all (fun x => l.zipIdx.all (fun y => x.2 == y.2 || apart x.1 y.1)))

/-- Rows of the cache partition (R205). -/
def cacheRows (size : BitVec 2) : Nat := if size = 0 then 0 else 512 * 2 ^ size.toNat

/-- Rows of the package's chosen bases are device rows; its Orchard base. -/
def orBaseOf (p : Package) : Nat := (p.plans.head?).elim 0 (fun x => x.orBase.toNat)

/-- An A-class Orchard region holds n device rows from b. -/
def inAClass (p : Package) (b n : Nat) : Bool :=
  n == 0 || p.orRegions.any (fun r => !r.w && decide (orBaseOf p + r.base ≤ b) && decide (b + n ≤ orBaseOf p + r.base + r.rows))

/-- Rows of the own adapters fit the side rows of a slot with its stream record. -/
def slotFits (p : Package) : Bool := decide (ownAdapterRows p + 1 ≤ p.slotSide) && decide (2 * slotRows p ≤ p.stateRows)

/-- Check 0x10: spans, regions, the state area and the slot layout. -/
def spansOk (p : Package) : Bool :=
  p.plans.all (fun x => decide (x.cmBase.toNat + x.cmRows.toNat + cacheRows x.cacheSize ≤ coreMemRows) &&
      decide (x.orBase.toNat + x.orRows.toNat ≤ 0x20000) && x.orBase.toNat == orBaseOf p &&
      regionsOk x.regions 8 x.cmRows.toNat) &&
    regionsOk p.orRegions 32 p.orRows && decide (orBaseOf p + p.orRows ≤ 0x20000) &&
    (p.stateRows == 0 || (inAClass p p.stateBase p.stateRows && slotFits p))

/-- Rows locked in the cache (R206). -/
def lockedRows (p : Package) : Nat := ((p.orRegions.filter (fun r => r.lock)).map (fun r => r.rows)).sum

/-- Spans of Orchard rows that firmware writes while ticks run: state, Bloom slots, dispatch records, intake, embeddings, the error area, learning
slots and the journal (R15, R43, R154, R271, R281, R282, R350). -/
def firmwareRows (p : Package) : List (Nat × Nat) :=
  [(p.stateBase, p.stateRows), (p.bloomBase, 3 * bloomRows p * (p.stateRows / max 1 (2 * slotRows p))),
   (p.dispBase, p.cores * recordRows p), (p.intakeBase, (2 * p.places.length + p.cuRows.length) * p.steps),
   (p.embBase, p.places.length * rowsFor (embBytes p (List.replicate (rowBytes * p.embRows) 0)).1.length), (p.errBase, 513), (p.lrnBase, 4 * p.places.length * lrnRows p), (p.journalBase, 64)]

/-- Check 0x12 over the regions: no CACHE region holds rows that firmware writes; a LOCK region is cacheable, and the locked rows fit half of each partition. -/
def cacheOk (p : Package) : Bool :=
  p.orRegions.all (fun r => !r.lock || r.cache) &&
    p.orRegions.all (fun r => !r.cache || (firmwareRows p).all (fun a => (spanMeet a (orBaseOf p + r.base, r.rows)).isNone)) &&
    p.plans.all (fun x => decide (2 * lockedRows p ≤ cacheRows x.cacheSize))

/-- Check 0x13, but for the balance: landing regions of 1 to 256 rows in the span of a core of the package. -/
def chansOk (p : Package) : Bool :=
  p.plans.all (fun x => x.chans.all (fun c => match p.plans[c.tgt.toNat]? with
    | some t => decide (1 ≤ c.rrows.toNat) && decide (c.rrows.toNat ≤ 256) && decide (c.rbase.toNat + c.rrows.toNat ≤ t.cmRows.toNat)
    | none => false))

/-- A core's format table has the entry an FMTI selects. -/
def fmtThere (x : CorePlan) (i : BitVec 6) : Bool := i == 0 || i == 63 || x.fmts.any (fun e => e.1 == i)

/-- Check 0x20 of a word: it decodes on its queue, its header is legal and its format entries are there (R224, R228). -/
def encodingOk (x : CorePlan) (q : Queue) (w : CmdWord) : Bool :=
  match decodeCmd 0 0 q w with
  | some i => (match issOf i with | some h => h.hdr.wf (q == .de) | none => false) && (tableFmtis i).all (fmtThere x)
  | none => false

/-- The first word of the package that breaks it. -/
def encodingFail (p : Package) : Option LoadFail :=
  (p.plans.zipIdx.flatMap (fun x => allQueues.flatMap (fun q =>
    ((x.1.blocks.getD (queueIndex q).toNat []).zipIdx.filter (fun w => !encodingOk x.1 q w.1)).map (fun w =>
      (⟨8, 0x20, some (BitVec.ofNat 3 x.2, q, w.2)⟩ : LoadFail))))).head?

/-- Check 0x23: planned maxima from 1 to 65,535, each within the rows or columns of the entries that use it; a dimension an entry
uses is declared. -/
def maximaOk (p : Package) : Bool :=
  decide (p.vmax.length ≤ 8) && p.vmax.all (fun v => match v with | some n => decide (1 ≤ n) && decide (n ≤ 65535) | none => true) &&
    p.plans.all (fun x => x.masks.all (fun b =>
      let m := maskOfBytes b.2
      let fits := fun (dim : BitVec 4) (ofs lim : Nat) => dim == 0 || (match p.vmax.getD (dim.toNat - 1) none with
        | some v => decide (ofs + v ≤ lim) | none => false)
      fits m.rdim m.rofs.toNat 64 && fits m.cdim m.cofs.toNat 4096))

/-- Rows the output record of the package takes (R305). -/
def recordSize (p : Package) : Nat := 32 * ((32 + p.outPayload + 31) / 32)

/-- The compute limits of the load cover the planned cycles of each core's blocks (R45, R48): those the PP derives for the
package at load (R381, R383; log 54). -/
def plansFit (s : State) (p : Package) : Bool :=
  let s := { s with pwr := { s.pwr with ecomp := p.eComp } }
  p.plans.zipIdx.all (fun x => decide (x.1.planned.sum ≤ fitLimit s p x.2))

/-- Bytes of a tick's DMEM commands on a port (R45, R48). -/
def portBytes (p : Package) (port : BitVec 1) : Nat :=
  ((planCores p).flatMap (fun n => n.cmds.filterMap (fun m => match m.i with
    | .dmem _ f => if f.port = port then some (512 * dmemRows n.c f (fun _ => true) (f.nrows1.toNat + 1)) else none
    | _ => none))).sum

/-- Ring records of a tick in which every place commits: an output record a place, its completion record and event (R45, R303; which
records the plan counts, DESIGN CHOICE, log 130). -/
def ringBytes (p : Package) : Nat := p.places.length * recordSize p + 32 * ((p.places.length + 63) / 64) + 32

/-- The planned traffic fits meters 8 to 11 at the package's limits, which those meters take in every case (R381, R383). -/
def trafficOk (p : Package) : Bool :=
  let lim := fun (i : Nat) => (p.pkgLim.getD i 0).toNat
  decide (portBytes p 0 ≤ lim 8) && decide (portBytes p 1 ≤ lim 9) && decide (ringBytes p ≤ lim 10) &&
    (p.stateRows == 0 || decide (imageBytes p ≤ lim 11))

/-- The ballast schedule needs at most 27 units in a core, and its ramp before core time 0 fits the dispatch phase (R386; the schedule
comes with the package, DESIGN CHOICE, log 127). -/
def ballastOk (s : State) (p : Package) : Bool :=
  p.plans.all (fun x => x.ballast.all (fun u => decide (u ≤ 27))) && decide (256 * p.ramp + s.tkc.dispOfs.toNat ≤ s.tkc.compOfs.toNat)

/-- Check 0x51: places, the steps and the catch-up rows set aside (R55, R127, R151). -/
def placesOk (p : Package) : Bool :=
  decide (1 ≤ p.steps) && decide (p.steps ≤ 64) && decide (p.places.length ≤ 65535) && (p.places.all (fun x => decide (p.cuReserve.toNat ≤ (p.cuRows.filter (fun c => c.batch == x.batch)).length))) &&
    p.places.all (fun x => x.rows.length == p.steps && x.rows.all (fun r => decide (r.2 < 64))) &&
    p.cuRows.all (fun x => x.rows.length == p.steps && x.rows.all (fun r => decide (r.2 < 64))) && decide (recordSize p ≤ 2048)

/-- The command is an MM with d = 4 (R106). -/
def isQuadRate (n : PlanCore) (m : PlanCmd) : Bool :=
  match m.i with
  | .mm _ f => meFactor (fmtGet n.c f.fmtA).op (fmtGet n.c f.fmtW).op == 4
  | _ => false

/-- Rows of the Sloe area (R384). -/
def sloeRows : Nat := 0x2000

/-- The package may be admitted for Sloe service (R384): no MM with d = 4, and every Orchard region in the Sloe area. -/
def sloeAdmits (p : Package) : Bool :=
  !(planCores p).any (fun n => n.cmds.any (isQuadRate n)) &&
    p.orRegions.all (fun r => decide (orBaseOf p + r.base + r.rows ≤ sloeRows)) &&
    decide (p.stateBase + p.stateRows ≤ sloeRows) && decide (p.journalBase + 64 ≤ sloeRows)

/-- The package claims the SIN ports for its intake, and the level-3 meter for its adapters (Table 17-5). -/
def claimsSin (p : Package) : Bool := p.smpBytes != 0
def claimsL3 (p : Package) : Bool := !p.adapters.isEmpty

/-- A resource's first user may claim it (R353). -/
def firstMayClaim (own : BitVec 2) (split : Bool) : Bool := own == 0 || (split && !own.getLsbD 0)

/-- The resource a package needs and cannot have, by its index in Table 17-5 (R354). -/
def lacksResource (s : State) (p : Package) : Option Nat :=
  if claimsSin p && !firstMayClaim s.err.ownSin s.err.splitSin then some 1
  else if claimsL3 p && !firstMayClaim s.err.ownL3 s.err.splitL3 then some 3
  else none

/-- The core time of the pit of a tick for the next one started early (R270). -/
def pitCoreTime (s : State) : Nat := (s.tkc.deadOfs.toNat - (s.fwr.spec.ofs.toNat + s.tkc.compOfs.toNat)) / tuStep s

/-- Check 0x32: buffer hazards, and with early start what R270 forbids. -/
def hazardFail (s : State) (p : Package) : Option LoadFail :=
  coreFail p 0x32 hazard <|>
    (if s.fwr.spec.early then needAll p 0x32 (fun n m => !earlyStore p (pitCoreTime s) n m) else none)

/-- Checks 0x10 to 0x51, in the order of the table. -/
def planChecks (s : State) (p : Package) : Option LoadFail :=
  let d := planDp p
  let cs := planCores p
  need (spansOk p) 0x10 <|> needAll p 0x11 (refsOk d) <|> need (cacheOk p) 0x12 <|> needAll p 0x12 (cacheUseOk p) <|>
  need (chansOk p) 0x13 <|> needAll p 0x13 (chanNamed cs) <|> need (balanced p) 0x13 <|> encodingFail p <|>
  needAll p 0x21 (operandsOk p) <|> need (tablesOk p) 0x21 <|>
  need (p.plans.all (fun x => x.blocks.all (fun b => decide (b.length ≤ queueDepth)))) 0x22 <|> need (maximaOk p) 0x23 <|>
  need (p.splits.all (splitOk p cs)) 0x24 <|> needAll p 0x24 (fun _ m => strideOk m) <|>
  coreFail p 0x30 (fun n => allQueues.findSome? (fun q => spaced n [] (n.queue q))) <|>
  coreFail p 0x31 (fun n => cmBankBad n <|> orBankBad n) <|> hazardFail s p <|> coreFail p 0x33 (fun n => chainBad [] n.mms) <|>
  waitFails p <|> chainFails p <|> endFails p <|>
  need (plansFit s p) 0x50 <|> need (trafficOk p) 0x50 <|> need (ballastOk s p) 0x50 <|> need (placesOk p) 0x51

/-- Every check of Table 11-4 after 0x01, in order; a lacking resource is reported (R353). -/
def checkPackage (s : State) (p : Package) : Option LoadFail × State :=
  if !signerOk s p then (some ⟨0xF, 2, none⟩, s) else
  let c := sectionsOk s 0 p.sections
  let s := c.2
  if !c.1 then (some ⟨0xE, 3, none⟩, s)
  else if p.gen ≠ deviceGen then (some ⟨8, 4, none⟩, s)
  else if activeCores s < p.cores ∨ p.plans.length ≠ p.cores then (some ⟨2, 5, none⟩, s)
  else if s.fwr.fw.level = 1 ∧ !sloeAdmits p then (some ⟨5, 6, none⟩, s)
  else match lacksResource s p with
    | some r => (some ⟨5, 7, none⟩, takeReport s (deviceReport 14 5 2 (BitVec.ofNat 32 r) 2))
    | none => (planChecks s p, s)

/-- The owner index of a package (R391). -/
def ownerOf (p : Package) : Byte := BitVec.ofNat 8 (p.signer.getD 0)

/-- The scrub of everything when the owner changes (R220): its 131,072 Orchard rows, and 1,024 cycles for the core memories. It starts
when the checks have passed (DEDUCED, log 135). -/
def scrubAll (s : State) : State :=
  { s with dp := { s.dp with dev := [], ecc := [], wcls := (wRegions s.dp).map (fun r => (rowGrans * r.1, rowGrans * r.2)),
                             cores := s.dp.cores.map Core.ungate },
           sp := { s.sp with scrub := 0x20000, cmScrub := 1024 } }

/-- The owner of the next task differs from that of the last one (R220). -/
def ownerChanges (s : State) (owner : Byte) : Bool := s.sp.lastOwner.isSome && s.sp.lastOwner != some owner

/-- PACKAGE_CHECK (R262): the fetched package is checked; a failure completes the load and leaves everything else as it was. A package
that passes and has another owner than the last task starts the scrub of R220, before the loader fills anything. -/
def packageCheck (s : State) (p : Package) : State :=
  match s.sp.load with
  | none => s
  | some j =>
    if j.passed.isSome || !spServes s then s else
    let c := checkPackage s p
    let s := c.2
    match c.1 with
    | none =>
      let s := { s with sp := { s.sp with load := some { j with passed := some p } } }
      if ownerChanges s (ownerOf p) then scrubAll s else s
    | some f =>
      let l := { s.fwr.ldr.failed f with pkgId := p.pkgId, cores := BitVec.ofNat 4 p.cores }
      complete (setLdr { s with sp := { s.sp with load := none } } l) j.sq 3 j.tag j.seq f.status f.reason 0xFFFF

def execPackageCheck (p : Package) (s : State) : Host.Outcome State Fault Refusal := .next (packageCheck s p)

/-! ### The fill (R263, R220, R387) -/

/-- Orchard rows of the locked regions. -/
def lockRows (p : Package) : List Nat :=
  (p.orRegions.filter (fun r => r.lock)).flatMap (fun r => (List.range r.rows).map (fun k => orBaseOf p + r.base + k))

/-- An active core's registers and tables filled, those of a core beyond the package's cleared (R209, R263 step 2). -/
def fillCore (s : State) (p : Package) (d : Dp) (c : BitVec 3) : Dp :=
  match p.plans[c.toNat]? with
  | some x => d.modCore c (fun y => y.fill x)
  | none => if corePresent s c then d.modCore c (fun y => { y with cm := y.cm.unused }) else d

/-- Every row that the loader writes: W-class rows and scan parameter blocks (R140, R263). -/
def fillRows (p : Package) : List (Nat × List Byte) :=
  p.plans.zipIdx.flatMap (fun x =>
    x.1.fills ++ x.1.spbs.map (fun e => (coreRow (BitVec.ofNat 3 x.2) (x.1.cmBase.toNat + e.1.toNat), spbRow e.2)))

/-- The locked rows copied into a core's cache partition (R206). -/
def lockCore (p : Package) (d : Dp) (c : BitVec 3) : Dp :=
  if (vget d.cores c).cm.cacheSize = 0 then d
  else d.modCore c (fun y => { y with cm := { y.cm with locked := (lockRows p).map (fun r => (r, rowData d r)) } })

/-- Steps 2 and 3 of R263 on the datapath, in the order of R211: region tables first. -/
def fillDp (s : State) (p : Package) : Dp × List Report :=
  let d := { s.dp with org := regionTable 32 p.orRegions, dflg := p.dflgInit, dflgInit := p.dflgInit }
  let r := spWrites (allCores.foldl (fillCore s p) d) (fillRows p)
  (allCores.foldl (lockCore p) r.1, r.2)

/-- The FWR_LDR fields of a loaded package. -/
def FwrLdr.loaded (l : FwrLdr) (p : Package) : FwrLdr :=
  { l with status := 0, reason := 0, busy := false, fvalid := false, pkgId := p.pkgId, cores := BitVec.ofNat 4 p.cores,
           sloeOk := sloeAdmits p, steps := BitVec.ofNat 7 p.steps, places := BitVec.ofNat 16 p.places.length,
           vmax := table8 none (p.vmax.map (fun v => v.map (BitVec.ofNat 16))) }

/-- The package as the device runs it: without early start the loader marks no Bloom layer (R270). -/
def runPackage (s : State) (p : Package) : Package :=
  if s.fwr.spec.early then p else { p with bloomMap := [], bloomLayers := 0 }

/-- The logical cores whose engines stay gated. -/
def gatedCores (p : Package) : Byte := BitVec.ofNat 8 (255 - (2 ^ p.cores - 1) % 256)

/-- The task's registers beside the datapath. -/
def fillRegs (s : State) (j : LoadJob) (p : Package) : State :=
  let k := runPackage s p
  let owner := ownerOf p
  let t : Task := { pkg := k, addr := j.addr, owner := owner, journal := s.err.jrnlEn }
  let spec := { s.fwr.spec with bloomRows := BitVec.ofNat 16 (bloomRows k), bloomLayers := BitVec.ofNat 8 k.bloomLayers }
  let claim := fun (s : State) (r : BitVec 2) (need : Bool) => if need then moveOwn s r false true else s
  ppFit (claim (claim { s with
    sp := { s.sp with task := some t, load := none, lastOwner := some owner },
    tkc := { s.tkc with cuReserve := p.cuReserve },
    hif := { s.hif with outRecsz := BitVec.ofNat 12 (recordSize p) },
    fwr := { s.fwr with ldr := s.fwr.ldr.loaded p, spec := spec, smpSz := BitVec.ofNat 10 p.smpBytes },
    pwr := { s.pwr with corePg := gatedCores p, ecomp := p.eComp },
    sec := { s.sec with pkgMeas := p.measure, pkgOwner := owner } } 1 (claimsSin p)) 3 (claimsL3 p))

/-- LOADER_FILL (R263): once every check has passed and no tick runs (R204), the cycles of a due scrub and of the initialisation
scrub of the Sloe area (R384) pass, the task's rows and
registers are written, and the load completes with OK. -/
def loaderFill (s : State) : State :=
  match s.sp.load with
  | some { tag, sq, seq, addr, len, passed := some p } =>
    if s.tkc.run || s.tkc.active || !spServes s then s else
    let n := max (max ((s.sp.scrub + 15) / 16) s.sp.cmScrub) (scrubWait s sloeRows)
    if !mayReach s n then s else
    let s := s.pass n
    if frozen s then s else
    let j : LoadJob := { tag := tag, sq := sq, seq := seq, addr := addr, len := len, passed := some p }
    let r := fillDp s p
    complete (takeReports (fillRegs { s with dp := r.1 } j p) r.2) sq 3 tag seq 0 0 0xFFFF
  | _ => s

def execLoaderFill (s : State) : Host.Outcome State Fault Refusal := .next (loaderFill s)

end Sys2Proof.Machine
end

