-- ==== Sys2Proof/Machine/Publishing.lean ====
section
/-!
DEFINITION. Machine/Publishing: publish (02_the_tick R43, R44; 14_host_rings R302 to R306; 17_errors R350): the journal row, output
records, completion records and PIT event of a tick, and the writing of ring entries.
-/
namespace Sys2Proof.Machine

/-! ### Completion records (R303, R304) -/

/-- STATUS of a place group. A standby's tick is SKIPPED (R373). -/
def groupStatus (standby : Bool) (sts : List StreamTick) : Byte :=
  let n := (sts.filter (fun y => y.out == .committed)).length
  if standby then 1
  else if n = sts.length then 0
  else if n ≠ 0 then 6
  else if sts.any (fun y => y.out == .rolledBack) then 7
  else 1

/-- BITMAP of a place group. -/
def groupBitmap (sts : List StreamTick) : W64 :=
  sts.foldl (fun (b : W64) y => if y.out = .committed then setBit b (y.place.toNat % 64) true else b) 0

/-- A present core's byte of CORE_STATUS of a place group: the first fault it raised against a stream of the group, else 1
where it made one SKIPPED (R303). -/
def coreStatusByte (t : TickRec) (sts : List StreamTick) (c : BitVec 3) : Byte :=
  let on := fun (n : CoreNote) (p : StreamTick → Bool) => n.core == c && sts.any (fun y => p y && n.places.contains y.place)
  match t.coreStatus.find? (fun n => n.status != 1 && on n (fun _ => true)) with
  | some n => n.status
  | none => if t.coreStatus.any (fun n => n.status == 1 && on n (fun y => y.out == .skipped)) then 1 else 0

/-- CORE_STATUS of a place group (R303). -/
def groupCores (s : State) (t : TickRec) (sts : List StreamTick) : W64 :=
  (allCores.filter (corePresent s)).foldl (fun (v : W64) c => v ||| ((coreStatusByte t sts c).setWidth 64 <<< (8 * c.toNat)))
    (absentStatus s)

/-- Place groups of the package; a descriptor taken with no task loaded has one. -/
def groupCount (s : State) : Nat := max 1 ((placeCount s + 63) / 64)

/-- The completion record of one place group. -/
def groupRecord (s : State) (t : TickRec) (c : TickCmd) (g : Nat) : List Byte :=
  let sts := t.sts.filter (fun y => y.place.toNat / 64 == g)
  let standby := t.passive && t.sts.isEmpty
  let st := groupStatus standby sts ||| (if t.sloe then 0x80 else 0)
  completionBytes st 1 g (g + 1 == groupCount s) c.sq c.tag t.seq (groupBitmap sts)
    (if standby then 0 else groupCores s t sts)

/-- The completion records of a tick's descriptor. -/
def tickRecords (s : State) (t : TickRec) : List (BitVec 4 × List Byte) :=
  match t.cmd with
  | none => []
  | some c =>
    match t.refused with
    | some st =>
      [(c.sq, completionBytes (st.zeroExtend 8 ||| (if t.sloe then 0x80 else 0)) 1 0 true c.sq c.tag t.seq 0
        (if st = 2 then absentStatus s else 0))]
    | none => (List.range (groupCount s)).map (fun g => (c.sq, groupRecord s t c g))

/-! ### The journal (R350) -/

/-- The committed stream-ticks of a tick, in place order. -/
def committedSts (t : TickRec) : List StreamTick := t.sts.filter (fun y => y.out == .committed)

/-- The journal row of a tick (DESIGN CHOICE, log 52): its sequence number, the count of records for each ring, the bitmap of committed places. -/
def journalRow (s : State) (t : TickRec) (outs comps : Nat) : List Byte :=
  let cq := (t.cmd.map (fun c => (vget s.hif.sqs c.sq).cq))
  let counts := (List.range 16).flatMap (fun m =>
    bytesOf 2 ((if s.hif.outRing.toNat = m then outs else 0) +
      (match cq with | some k => if k.toNat = m then comps else 0 | none => 0)))
  let bits := (List.range 59).flatMap (fun g => bytesOf 8 (groupBitmap (t.sts.filter (fun y => y.place.toNat / 64 == g))).toNat)
  padTo rowBytes (bytesOf 8 t.seq.toNat ++ counts ++ bits)

/-- The journal row is written before the first record. -/
def writeJournal (s : State) (t : TickRec) (outs comps : Nat) : State :=
  match taskPkg s with
  | some p => if s.err.jrnlActive then writeOrchard s (p.journalBase + t.seq.toNat % 64) (journalRow s t outs comps) else s
  | none => s

/-! ### Publish (R43) -/

/-- Output records of committed stream-ticks go to the output ring. -/
def postOutputs (s : State) (p : Package) (t : TickRec) : State :=
  let rs := (committedSts t).flatMap (outRecs s p t.seq)
  rs.foldl (fun s r =>
    let b := outBytes s p t.sloe r
    postRecord b.2 (.cq s.hif.outRing) { bytes := b.1, phaseAt := 4, offered := false, ticket := none, tick := true })
    (noteRows s ((committedSts t).flatMap (outReads p t.seq)))

/-- The PIT event of a tick (Table 14-6). -/
def pitEvent (s : State) (t : TickRec) : State :=
  let n := fun (o : StOut) => (t.sts.filter (fun y => y.out == o)).length
  let d := t.cmd.isSome.toNat + 2 * t.predicted.toNat + 4 * t.early.toNat
  postEvent s 1 (BitVec.ofNat 32 (n .committed)) (bytesOf 4 (n .skipped + t.unlisted) ++ bytesOf 4 (n .rolledBack) ++ [BitVec.ofNat 8 d])

/-- Records of a tick wait in some ring. -/
def tickRecordsWait (s : State) : Bool := s.hif.cqs.toList.any (fun r => r.waiting.any (fun x => x.tick))

/-- Publish of the oldest tick is complete once none of its records waits: its PIT event follows; and the last publish of a run
lets TKC_ACTIVE fall (R37). -/
def finishPublish (s : State) : State :=
  match s.sp.pubs with
  | t :: rest =>
    if t.done && !tickRecordsWait s then
      finishRun (pitEvent { s with sp := { s.sp with pubs := rest } } t)
    else s
  | [] => finishRun s

/-- The records of the oldest tick in publish are queued. -/
def queueRecords (s : State) (t : TickRec) : State :=
  let comps := tickRecords s t
  let outs := match taskPkg s with | some p => ((committedSts t).flatMap (outRecs s p t.seq)).length | none => 0
  let s := writeJournal s t outs comps.length
  let s := match taskPkg s with | some p => postOutputs s p t | none => s
  let s := comps.foldl (fun s c => postCompletion s c.1 c.2 true) s
  { s with sp := { s.sp with pubs := s.sp.pubs.map (fun r => if r.seq = t.seq then { r with done := true } else r) } }

/-- PUBLISH. -/
def publish (s : State) : State :=
  if s.fwr.fw.level = 3 ∨ s.twn.state = .fenced then s else
  match s.sp.pubs with
  | t :: _ => finishPublish (if t.done then s else queueRecords s t)
  | [] => finishRun s

def execPublish (s : State) : Host.Outcome State Fault Refusal := .next (publish s)

/-! ### Log entries on their ring (R335) -/

/-- The SP hands the oldest log entry to the log ring as meter and ring allow. -/
def drainLog (s : State) : State :=
  match s.fwr.fw.logs with
  | [] => s
  | e :: es =>
    if !(s.hif.log.room && s.hif.log.waiting.isEmpty) then s else
    let m := meterAsk s.dp 10 64 s.fwr.fw.logTicket
    let f := { s.fwr.fw with logTicket := m.2.1 }
    if !m.1 then { s with dp := m.2.2, fwr := { s.fwr with fw := f } } else
    let s := { s with dp := m.2.2, fwr := { s.fwr with fw := { f with logs := es } } }
    postRecord s .log { bytes := e.bytes, phaseAt := 0, offered := true, ticket := none, tick := false }

/-- RING_ENTRY_WRITTEN (R293, R295): the write response of the first waiting entry of a ring. -/
def ringEntry (s : State) (r : RingId) (resp : BitVec 2) : State :=
  let s := if r = .log then drainLog s else s
  finishPublish (writeEntry s r resp)

def execRingEntryWritten (r : RingId) (resp : BitVec 2) (s : State) : Host.Outcome State Fault Refusal :=
  .next (ringEntry s r resp)

end Sys2Proof.Machine
end

