-- ==== Sys2Proof/Machine/Run.lean ====
section
/-!
DEFINITION. Machine/Run: starting and stopping ticks (02_the_tick R30 to R37, R57; 12_speculative_ticks R266) and killing the task
(14_host_rings R431; 09_scratchpads R221).
-/
namespace Sys2Proof.Machine

/-! ### TKC_CTRL -/

/-- The limits of R30. -/
def tkcLegal (t : Tkc) : Bool :=
  decide (50000 ≤ t.period.toNat) && decide (t.period.toNat ≤ 1600000) && decide (0 < t.dispOfs.toNat) &&
    decide (t.dispOfs.toNat < t.compOfs.toNat) && decide (t.compOfs.toNat < t.deadOfs.toNat) &&
    decide (t.deadOfs.toNat + 2000 ≤ t.period.toNat)

/-- The limits of R266 on early start. -/
def specLegal (s : State) : Bool :=
  decide (s.tkc.compOfs.toNat ≤ s.fwr.spec.ofs.toNat) &&
    decide (s.fwr.spec.ofs.toNat + s.tkc.compOfs.toNat < s.tkc.deadOfs.toNat)

/-- A start is accepted (R32, R33): the first boundary is placed 64 cycles on, or follows an edge on TICK_IN. -/
def acceptStart (s : State) : State :=
  let t := { s.tkc with run := true, cfgErr := false, startIn := if s.tkc.src then none else some 64, extWait := s.tkc.src }
  let off := s.fwr.spec.early && !specLegal s
  { s with tkc := t, sp := { s.sp with specOff := off },
           fwr := { s.fwr with spec := { s.fwr.spec with cfgErr := s.fwr.spec.cfgErr || off } } }

/-- TKC_RUN written 1 (R32, R37). A fenced twin's stays 0 (R369). -/
def runOn (s : State) : State :=
  let t := s.tkc
  if t.run || s.twn.state == .fenced then s
  else if t.active then
    (if t.ending || !t.stopAt then { s with tkc := { t with wrIgn := true } }
     else { s with tkc := { t with run := true, stopAt := false } })
  else if t.stopAt then { s with tkc := { t with run := true, stopAt := false } }
  else if tkcLegal t then acceptStart s
  else { s with tkc := { t with cfgErr := true } }

/-- TKC_RUN written 0: the stop takes effect at the next boundary; that of a start whose first
boundary is placed takes effect there, and one that still waits for an edge is off at once (DEDUCED, log 75). -/
def runOff (s : State) : State :=
  let t := s.tkc
  if !t.run then s
  else if t.active then { s with tkc := { t with run := false, stopAt := true } }
  else if t.startIn.isSome || t.edgeIn.isSome then { s with tkc := { t with run := false, stopAt := true } }
  else { s with tkc := { t with run := false, edgeOnly := false, extWait := false } }

/-- TKC_SRC and TKC_FLYWHEEL written (R31). -/
def writeSource (s : State) (src fly : Bool) : State :=
  let t := s.tkc
  if src == t.src && fly == t.fly then s
  else if ticksOff s then { s with tkc := { t with src := src, fly := fly } }
  else { s with tkc := { t with wrIgn := true } }

/-- TKC_OUT_EN written (R36, R353): it claims TICK_OUT, which the debug marker may own; a marker that claimed it in this cycle
gives way. -/
def writeOutEn (s : State) (on : Bool) : State :=
  let put := fun (s : State) => moveOwn { s with tkc := { s.tkc with outEn := true } } 2 false true
  if on == s.tkc.outEn then s
  else if !on then leaveOwn { s with tkc := { s.tkc with outEn := false } } 2 false
  else if displaces s 2 false then
    put (refuseOwn (moveOwn { s with dbg := { s.dbg with marker := false } } 2 true false) 2 12)
  else if mayOwn s 2 false false then put s
  else refuseOwn s 2 2

/-- A write of TKC_CTRL. -/
def writeTkcCtrl (s : State) (run src fly outEn : Bool) : State :=
  let s := writeOutEn (writeSource s src fly) outEn
  if run then runOn s else runOff s

/-- TKC_RUN_START: TKC_CTRL written with TKC_RUN at 1. -/
def execTkcRunStart (src fly outEn : Bool) (s : State) : Host.Outcome State Fault Refusal :=
  .next (writeTkcCtrl s true src fly outEn)

/-- TKC_RUN_STOP: TKC_CTRL written with TKC_RUN at 0. -/
def execTkcRunStop (src fly outEn : Bool) (s : State) : Host.Outcome State Fault Refusal :=
  .next (writeTkcCtrl s false src fly outEn)

/-- TKC_OUT_EN: TKC_CTRL written with TKC_OUT_EN at 1 and TKC_RUN as it reads. -/
def execTkcOutEn (src fly : Bool) (s : State) : Host.Outcome State Fault Refusal :=
  .next (writeOutEn (writeSource s src fly) true)

/-- TKC_SEQ_LO_READ (R57): the high word is latched. -/
def execTkcSeqLoRead (s : State) : Host.Outcome State Fault Refusal :=
  .next { s with tkc := { s.tkc with hiLatch := (s.tkc.seq >>> 32).setWidth 32 } }

/-! ### The kill (R221, R431) -/

/-- The TICK descriptors taken and not yet completed. -/
def openTickCmds (s : State) : List (TickCmd × W64) :=
  (s.sp.pubs.filter (fun t => !t.done) ++ s.sp.cur.toList ++ s.sp.early.toList).filterMap (fun t => t.cmd.map (fun c => (c, t.seq)))

/-- A descriptor killed: ROLLED_BACK with a zero bitmap. -/
def killCmd (s : State) (x : TickCmd × W64) : State :=
  postCompletion s x.1.sq (completionBytes 7 1 0 true x.1.sq x.1.tag x.2 0 0) true

/-- The tick block of a killed task. -/
def Tkc.kill (t : Tkc) : Tkc :=
  { t with run := false, active := false, phase := 0, stopAt := false, ending := false, startIn := none, edgeIn := none, edgeOnly := false, extWait := false }

/-- HIF_KILL written 1: the steps of R431 once the SP serves; before that, and in FAULT, the kill stays requested. -/
def kill (s : State) : State :=
  if !spServes s then { s with hif := { s.hif with kill := true } } else
  let was := s.tkc.active
  let s := (openTickCmds s).foldl killCmd s
  let s := endTask { s with tkc := s.tkc.kill }
  let s := mapMeters { s with dp := { s.dp with metering := false } } (fun m => { m with queue := [], early := 0 })
  let s := if was then postEvent s 2 0 [] else s
  postEvent s 3 0 []

def execHifKill (s : State) : Host.Outcome State Fault Refusal := .next (kill s)

end Sys2Proof.Machine
end

