-- ==== Sys2Proof/Machine/Boot.lean ====
section
/-!
DEFINITION. Machine/Boot: the firmware image and the boot (16_firmware R324 to R328, R338, Tables 16-1, 16-2, 16-4), identity and
attestation (19_power_clocks_identity R389 to R392, R398), and the resets (20_integration R397).
-/
namespace Sys2Proof.Machine

/-! ### The image (Table 16-1) -/

/-- A section of an image. -/
structure Section where
  target : Nat
  ofs : Nat
  len : Nat
  load : Nat
  rgn : List Nat
deriving DecidableEq, Repr

/-- Bytes of a processor's private memory, by SECT_TARGET (R324). -/
def privateSize (target : Nat) : Nat :=
  match target with | 0 => 0x40000 | 1 => 0x20000 | 2 => 0x100000 | _ => 0x40000

def imgSections (img : List Byte) : Nat := fieldAt img 6 2
def imgRegions (img : List Byte) : Nat := fieldAt img 0x1A 2

/-- Section i. -/
def imgSection (img : List Byte) (i : Nat) : Section :=
  let b := 0x40 + 32 * i
  { target := fieldAt img b 1, ofs := fieldAt img (b + 4) 4, len := fieldAt img (b + 8) 4, load := fieldAt img (b + 12) 4,
    rgn := (List.range 8).map (fun k => fieldAt img (b + 16 + 2 * k) 2) }

def sectionsOf (img : List Byte) : List Section := (List.range (imgSections img)).map (imgSection img)

/-- Region j. -/
def imgRegion (img : List Byte) (j : Nat) : MpuRegion :=
  let b := 0x240 + 8 * j
  { base := BitVec.ofNat 32 (fieldAt img b 4), sizeLog2 := BitVec.ofNat 8 (fieldAt img (b + 4) 1),
    perm := BitVec.ofNat 3 (fieldAt img (b + 5) 1), space := BitVec.ofNat 8 (fieldAt img (b + 6) 1) }

/-- The MPU regions of a section. -/
def sectionRegions (img : List Byte) (x : Section) : List MpuRegion :=
  (x.rgn.filter (fun j => j != 0xFFFF)).map (imgRegion img)

/-- n bytes from a are 0. -/
def zerosAt (img : List Byte) (a n : Nat) : Bool := ((img.drop a).take n).all (fun b => b == 0)

/-- Byte a lies in a section. -/
def inSection (l : List Section) (a : Nat) : Bool := l.any (fun x => inRows a x.ofs x.len)

/-- Reserved bytes, and bytes between sections, are 0. -/
def imgReserved (img : List Byte) : Bool :=
  let n := imgSections img
  let l := sectionsOf img
  zerosAt img 0x11 1 && zerosAt img 0x1C 36 && (List.range n).all (fun i => zerosAt img (0x41 + 32 * i) 3) &&
    zerosAt img (0x40 + 32 * n) (32 * (16 - n)) &&
    (List.range (imgRegions img)).all (fun j => zerosAt img (0x247 + 8 * j) 1 && decide (fieldAt img (0x245 + 8 * j) 1 < 8)) &&
    img.zipIdx.all (fun x => x.2 < 0x240 + 8 * imgRegions img || img.length ≤ x.2 + 64 || x.1 == 0 || inSection l x.2)

/-- A region keeps R325: its size from 32 bytes to 1 MiB, its base aligned to it; its space is one of the three. -/
def MpuRegion.ok (r : MpuRegion) : Bool :=
  decide (5 ≤ r.sizeLog2.toNat) && decide (r.sizeLog2.toNat ≤ 20) && r.base.toNat % 2 ^ r.sizeLog2.toNat == 0 && decide (r.space.toNat ≤ 2)

/-- Spans of bytes that do not meet. -/
def spansApart (a an b bn : Nat) : Bool := decide (a + an ≤ b) || decide (b + bn ≤ a)

/-- A section's own fields. -/
def sectionOk (img : List Byte) (x : Section) : Bool :=
  decide (x.target ≤ 3) && x.ofs % 64 == 0 && decide (0x240 + 8 * imgRegions img ≤ x.ofs) && decide (x.ofs + x.len + 64 ≤ img.length) &&
    x.load % 16 == 0 && decide (x.load + x.len ≤ privateSize x.target) &&
    (x.target == 0 || x.rgn.all (fun j => j == 0xFFFF || decide (j < imgRegions img)))

/-- Two sections overlap neither in the image nor in one target's memory, and agree on their target's regions. -/
def sectionsAgree (a b : Section) : Bool :=
  spansApart a.ofs a.len b.ofs b.len &&
    (a.target != b.target || (spansApart a.load a.len b.load b.len && (a.target == 0 || a.rgn == b.rgn)))

/-- Length and section table (reason 0x02). -/
def imgTableOk (img : List Byte) (len : Nat) : Bool :=
  let l := sectionsOf img
  let n := imgSections img
  let k := imgRegions img
  fieldAt img 8 4 == len && len % 64 == 0 && decide (len ≤ 0x200000) && decide (1 ≤ n) && decide (n ≤ 16) && decide (1 ≤ k) &&
    decide (k ≤ 256) && decide (0x240 + 8 * k + 64 ≤ len) && (List.range 4).all (fun i => decide (100 ≤ fieldAt img (0x12 + 2 * i) 2)) &&
    imgReserved img && l.all (sectionOk img) && l.zipIdx.all (fun x => l.zipIdx.all (fun y => x.2 == y.2 || sectionsAgree x.1 y.1)) &&
    (List.range k).all (fun j => (imgRegion img j).ok)

/-- Writable regions, outside a private memory, of the sections of a target. -/
def writableOf (img : List Byte) (target : Nat) : List MpuRegion :=
  (((sectionsOf img).filter (fun x => x.target == target)).flatMap (sectionRegions img)).filter (fun r => r.perm.getLsbD 1 && r.space != 0)

/-- Two regions meet. -/
def regionsMeet (a b : MpuRegion) : Bool :=
  a.space == b.space && !spansApart a.base.toNat (2 ^ a.sizeLog2.toNat) b.base.toNat (2 ^ b.sizeLog2.toNat)

/-- R326 (reason 0x06): no writable region of one kind of processor meets one of another, and a CP's Orchard regions name only the
rows it may reach. -/
def imgMpuOk (img : List Byte) : Bool :=
  let w := writableOf img
  let apart := fun (a b : Nat) => (w a).all (fun x => (w b).all (fun y => !regionsMeet x y))
  apart 1 2 && apart 1 3 && apart 2 3 &&
    (((sectionsOf img).filter (fun x => x.target == 3)).flatMap (sectionRegions img)).all (fun r =>
      r.space != 1 || Config.cpRowsNamed r.base.toNat (2 ^ r.sizeLog2.toNat))

/-! ### The boot (R328, R338) -/

/-- The boot begins: the XP fetches the image. -/
def startBoot (s : State) : State := { s with sec := { s.sec with bootState := 1, goHeld := false } }

/-- SEC_BOOT_GO: accepted in WAIT and FAILED; one before the identity fields are written is held. -/
def bootGo (s : State) : State :=
  if s.sec.bootState ≠ 0 ∧ s.sec.bootState ≠ 5 then s
  else if !s.sec.idShown then { s with sec := { s.sec with goHeld := true } }
  else startBoot s

def execSecBootGo (s : State) : Host.Outcome State Fault Refusal := .next (bootGo s)

/-- The boot fails with a reason of Table 16-4. -/
def failBoot (s : State) (reason : Byte) : State :=
  { s with sec := { s.sec with bootState := 5, bootReason := reason, bootCode := if reason = 3 then 0x0F else 0x08 } }

/-- A processor's record with its sections written through the load path. -/
def ProcRec.loadSections (p : ProcRec) (img : List Byte) (l : List Section) : ProcRec :=
  { p with mem := l.foldl (fun m x => memWrite m x.load ((img.drop x.ofs).take x.len)) p.mem }

/-- Every section written (R328); those of the CPs into the CP of every active core. -/
def loadImage (s : State) (img : List Byte) : State :=
  let of_ := fun (t : Nat) => (sectionsOf img).filter (fun x => x.target == t)
  let cps := (List.range 8).foldl (fun (v : Vector ProcRec (2 ^ 3)) k =>
    let i := BitVec.ofNat 3 k
    if k < activeCores s then vset v i ((vget v i).loadSections img (of_ 3)) else v) s.cps
  { s with xp := s.xp.loadSections img (of_ 0), pp := s.pp.loadSections img (of_ 1), spp := s.spp.loadSections img (of_ 2), cps := cps }

/-- The MPU of a processor programmed and locked, and its watchdog period (R325, R332). -/
def ProcRec.lock (p : ProcRec) (img : List Byte) (target : Nat) : ProcRec :=
  let x := (sectionsOf img).find? (fun x => x.target == target)
  { p with mpu := x.elim [] (sectionRegions img), mpuLocked := true, wdPeriod := BitVec.ofNat 16 (fieldAt img (0x12 + 2 * target) 2),
           wdCount := 0 }

/-- The 32-bit words of a digest. -/
def digestWords (d : BitVec 256) : Vector W32 (2 ^ 3) :=
  (List.range 8).foldl (fun (v : Vector W32 (2 ^ 3)) k => vset v (BitVec.ofNat 3 k) (d.extractLsb' (32 * k) 32)) (Vector.replicate _ 0)

/-- The image verifies: MPUs locked (a fused core's CP takes part in nothing, R2), the PP released, which requests LOW (steps 3 and 4); the device key is derived unless the part is
RETURNED (R388, R389). -/
def releaseBoot (s : State) (img : List Byte) (measure : BitVec 256) : State :=
  let f := { s.fwr.fw with version := BitVec.ofNat 32 (fieldAt img 12 4), meas := digestWords measure }
  let cps := (List.range (activeCores s)).foldl (fun (v : Vector ProcRec (2 ^ 3)) k =>
    let i := BitVec.ofNat 3 k
    vset v i ((vget v i).lock img 3)) s.cps
  { s with
    xp := { s.xp with wdPeriod := BitVec.ofNat 16 (fieldAt img 0x12 2), wdCount := 0 },
    pp := { s.pp.lock img 1 with released := true }, spp := s.spp.lock img 2, cps := cps,
    pwr := { s.pwr with req := 1 }, fwr := { s.fwr with fw := f },
    sec := { s.sec with bootState := 3, keyReady := s.sec.sensed.life != 3 } }

/-- BOOT_RELEASE: the fetch and its checks end. -/
def bootChecked (s : State) (resp : BitVec 2) (bytes : List Byte) (sigOk : Bool) (measure : BitVec 256) : State :=
  let len := s.sec.bootLen.toNat
  let img := padTo len bytes
  if s.sec.bootState ≠ 1 then s
  else if 2 ≤ resp.toNat then failBoot s 5
  else if fieldAt img 0 4 ≠ 0x54524657 ∨ fieldAt img 4 2 ≠ 1 then failBoot s 1
  else if !imgTableOk img len then failBoot s 2
  else
    let s := loadImage s img
    if !sigOk then failBoot s 3
    else if fieldAt img 0x10 1 ≠ deviceGen.toNat then failBoot s 4
    else if !imgMpuOk img then failBoot s 6
    else releaseBoot s img measure

def execBootRelease (resp : BitVec 2) (img : List Byte) (sigOk : Bool) (measure : BitVec 256) (s : State) :
    Host.Outcome State Fault Refusal := .next (bootChecked s resp img sigOk measure)

/-- The boot ROM senses the OTP and writes the identity fields; a GO held until then is acted on (R398). -/
def senseIdentity (s : State) : State :=
  let s := { s with sec := { s.sec with idShown := true } }
  if s.sec.goHeld then startBoot s else s

/-! ### Attestation (R392) -/

/-- A GO for the report, the certificates or both; ignored while one is busy. -/
def attestGo (s : State) (att cert : Bool) : State :=
  if s.sec.attState = 1 then { s with sec := { s.sec with wrIgn := true } }
  else { s with sec := { s.sec with attState := 1, attPend := att, certPend := cert } }

def execSecAttGo (alsoCert : Bool) (s : State) : Host.Outcome State Fault Refusal := .next (attestGo s true alsoCert)

def execSecCertGo (s : State) : Host.Outcome State Fault Refusal := .next (attestGo s false true)

/-- Bits [2:0] of DBG_STATUS (R418). -/
def debugState (d : Dbg) : Nat := d.level.toNat + 4 * d.virell.toNat

/-- Bytes 0x000 to 0x0BF of the report (Table 19-5). -/
def reportBody (s : State) : List Byte :=
  bytesOf 4 0x54415454 ++ bytesOf 2 1 ++ [s.sec.sensed.life.zeroExtend 8, s.sec.pkgOwner] ++ bytesOf 16 s.sec.sensed.uid.toNat ++
    bytesOf 8 s.tkc.seq.toNat ++ s.sec.nonce.toList.flatMap (fun w => bytesOf 4 w.toNat) ++
    s.fwr.fw.meas.toList.flatMap (fun w => bytesOf 4 w.toNat) ++ bytesOf 32 s.sec.pkgMeas.toNat ++ bytesOf 4 s.fwr.fw.version.toNat ++
    [s.sec.sensed.grade, s.fwr.fw.level.zeroExtend 8, BitVec.ofNat 8 (debugState s.dbg)] ++ List.replicate 57 0

/-- The report as it is written: the signature is r then s, each big-endian. -/
def attestReport (s : State) : List Byte := reportBody s ++ (bytesOf 64 (Config.deviceSignature (reportBody s)).toNat).reverse

/-- The certificates. -/
def certBytes (s : State) : List Byte := Config.certificates s.sec.sensed.uid s.sec.sensed.certNb s.sec.sensed.certSig

/-- The XP's writes, the report first. -/
def writeAttest (s : State) : State :=
  let e := if s.sec.attPend then memWrite s.dp.ext s.sec.attAddr.toNat (attestReport s) else s.dp.ext
  let e := if s.sec.certPend then memWrite e s.sec.certAddr.toNat (certBytes s) else e
  { s with dp := { s.dp with ext := e },
           sec := { s.sec with certLen := if s.sec.certPend then BitVec.ofNat 12 (certBytes s).length else s.sec.certLen,
                               attState := 2, attPend := false, certPend := false } }

/-- A request that fails, with its code. -/
def failAttest (s : State) (code : BitVec 7) : State :=
  { s with sec := { s.sec with attState := 3, attCode := code, attPend := false, certPend := false } }

/-- ATTESTATION_DONE. A report that no key can sign fails with a status the spec does not give. -/
def attestDone (s : State) (resp : BitVec 2) : State :=
  if s.sec.attState ≠ 1 ∨ s.sec.bootState = 6 then s
  else if 2 ≤ resp.toNat then failAttest s 8
  else if s.sec.attPend ∧ !s.sec.keyReady then
    failAttest { s with dp := { s.dp with free := s.dp.free + 1 } } ((Config.freeWord s.dp.free).setWidth 7)
  else writeAttest s

def execAttestationDone (resp : BitVec 2) (s : State) : Host.Outcome State Fault Refusal := .next (attestDone s resp)

/-! ### Resets (R397, R398, R418) -/

/-- Every memory, buffer, register and firmware state as after reset. What is not the device's own stays: the commands that wait, the
host's memory, the OTP array; and the counter of free values. -/
def resetAll (s : State) : State :=
  let r := State.reset
  { r with pending := s.pending, dp := { r.dp with ext := s.dp.ext, free := s.dp.free },
           sec := { r.sec with otp := s.sec.otp, sensed := s.sec.sensed } }

/-- PORESET_N asserted and released: the OTP is sensed again. -/
def execPoresetN (s : State) : Host.Outcome State Fault Refusal :=
  let r := resetAll s
  .next { r with sec := { r.sec with sensed := s.sec.otp } }

/-- RST_N asserted and released: the sensed OTP stays, and so do the debug port's lockout and its counts since PORESET_N (R418,
Table 21-4). -/
def execRstN (s : State) : Host.Outcome State Fault Refusal :=
  let r := resetAll s
  .next { r with dbg := { r.dbg with lockout := s.dbg.lockout, unlockOk := s.dbg.unlockOk, unlockBad := s.dbg.unlockBad } }

end Sys2Proof.Machine
end

