-- ==== Sys2Proof/Machine/Debug.lean ====
section
/-!
DEFINITION. Machine/Debug: the debug port (21_debug_port R416 to R425; 19_power_clocks_identity R388): TAP instructions, the unlock,
freeze, halt and stepping, memory access, breakpoints, claims.
-/
namespace Sys2Proof.Machine

/-! ### The TAP (R416) -/

/-- An instruction is selected and its data register captures a value. -/
def capture (s : State) (ir : BitVec 5) (dr : BitVec 256) : State := { s with dbg := { s.dbg with ir := ir, dr := dr } }

/-- TAP_RESET: the controller alone; IDCODE is selected (PRESUMED, log 25). -/
def execTapReset (s : State) : Host.Outcome State Fault Refusal := .next { s with dbg := { s.dbg with ir := 0x01 } }

/-- IDCODE (Table 21-1). -/
def execIdcode (s : State) : Host.Outcome State Fault Refusal := .next (capture s 0x01 0x1A7E1A5B)

def runCode : RunState → Nat
  | .run => 0 | .frozen => 1 | .halted => 2 | .stepping => 3

/-- The unconfirmed tick a freeze stands in (DBG_SPEC). -/
def inUnconfirmed (s : State) : Bool :=
  frozen s && (s.sp.cur.toList ++ s.sp.early.toList).any (fun t => t.isSpec && t.dispatched)

/-- DBG_STATUS (Table 21-4); no command runs between two commands of this model (DESIGN CHOICE, log 1). -/
def dbgStatus (s : State) : W32 :=
  let d := s.dbg
  fieldBits 0 d.level ||| bitAt 2 d.virell ||| bitAt 3 d.lockout ||| fieldBits 4 (BitVec.ofNat 2 (runCode d.runState)) |||
    bitAt 6 (inUnconfirmed s) ||| fieldBits 8 d.fails ||| bitAt 11 d.marker ||| bitAt 12 d.trace

/-- DBG_STAT. -/
def execDbgStat (s : State) : Host.Outcome State Fault Refusal := .next (capture s 0x10 ((dbgStatus s).setWidth 256))

/-- BYPASS: its register captures 0. -/
def execBypass (s : State) : Host.Outcome State Fault Refusal := .next (capture s 0x1F 0)

/-- DBG_DATA: DBG_DATA is shifted out and its data field in; in a locked port the code selects nothing. -/
def execDbgData (shiftIn : BitVec 160) (s : State) : Host.Outcome State Fault Refusal :=
  .next (if s.dbg.level = 0 then { s with dbg := { s.dbg with ir := 0x14 } }
    else
      let d := s.dbg.data.extractLsb' 128 32 ++ shiftIn.extractLsb' 0 128
      let s := capture s 0x14 (s.dbg.data.setWidth 256)
      { s with dbg := { s.dbg with data := d } })

/-! ### Unlock (R417, R418) -/

/-- A 256-bit value the spec leaves open. -/
def freeDigest (s : State) : BitVec 256 × State :=
  ((List.range 8).foldl (fun (a : BitVec 256) k => (a <<< 32) ||| (Config.freeWord (s.dp.free + k)).setWidth 256) 0,
   { s with dp := { s.dp with free := s.dp.free + 8 } })

/-- DBG_CHAL: a fresh nonce, and any earlier one is invalid; after the lockout, or with the XP failed, none is drawn. -/
def challenge (s : State) (nonce : BitVec 256) : State :=
  if s.dbg.lockout || s.sec.bootState == 6 then
    let f := freeDigest s
    let s := capture f.2 0x11 f.1
    { s with dbg := { s.dbg with nonce := none } }
  else
    let s := capture s 0x11 nonce
    { s with dbg := { s.dbg with nonce := some nonce } }

def execDbgChal (nonce : BitVec 256) (s : State) : Host.Outcome State Fault Refusal := .next (challenge s nonce)

/-- DBG_RESP: a response waits for the XP. -/
def execDbgResp (level : Byte) (key sg : BitVec 512) (s : State) : Host.Outcome State Fault Refusal :=
  .next { s with dbg := { s.dbg with ir := 0x12, resp := some ⟨level, key, sg⟩ } }

/-- The XP accepts a response. -/
def accepts (s : State) (r : UnlockResp) (sigOk virell keyMatch : Bool) : Bool :=
  s.dbg.nonce.isSome && sigOk && (r.level == 1 || r.level == 2) &&
    (virell || (keyMatch && s.sec.sensed.dbgKeySet && s.sec.sensed.life != 3))

/-- UNLOCK_DECISION: the response and its nonce are consumed. -/
def unlockDecided (s : State) (sigOk virell keyMatch : Bool) : State :=
  match s.dbg.resp with
  | none => s
  | some r =>
    let d := { s.dbg with resp := none, nonce := none }
    if s.sec.bootState = 6 then s
    else if accepts s r sigOk virell keyMatch then
      { s with dbg := { d with level := r.level.setWidth 2, virell := virell, fails := 0, unlockOk := satInc d.unlockOk } }
    else
      let n := min 4 (d.fails.toNat + 1)
      { s with dbg := { d with fails := BitVec.ofNat 3 n, lockout := d.lockout || n == 4, unlockBad := satInc d.unlockBad } }

def execUnlockDecision (sigOk virell keyMatch : Bool) (s : State) : Host.Outcome State Fault Refusal :=
  .next (unlockDecided s sigOk virell keyMatch)

/-! ### Provisioning (R388) -/

/-- A field's place among those programmed once. -/
def otpIndex : OtpField → Nat
  | .uid _ => 0 | .grade _ => 1 | .pcoreEn _ => 2 | .certNb _ => 3 | .keySeed _ => 4 | .certSig _ => 5 | .dbgKeyHash _ => 6
  | .ownerKey i _ => 7 + i.toNat | .ownerRevoke i => 16 + i.toNat | .lifecycle b => 24 + b.toNat

/-- The field exists: six owner slots, three lifecycle bits. -/
def otpExists : OtpField → Bool
  | .ownerKey i _ => decide (i.toNat < 6)
  | .ownerRevoke i => decide (i.toNat < 6)
  | .lifecycle b => decide (b.toNat < 3)
  | _ => true

/-- A field programmed. The lifecycle state is that of the highest bit set. -/
def Otp.program (o : Otp) (f : OtpField) : Otp :=
  let o := { o with done := o.done ++ [otpIndex f] }
  match f with
  | .uid v => { o with uid := v }
  | .grade v => { o with grade := v }
  | .pcoreEn v => { o with pcoreEn := v }
  | .certNb v => { o with certNb := v }
  | .keySeed v => { o with keySeed := v }
  | .certSig v => { o with certSig := v }
  | .dbgKeyHash v => { o with dbgKeyHash := v, dbgKeySet := true }
  | .ownerKey i v => { o with ownerKeys := vset o.ownerKeys i v, ownerValid := setBit o.ownerValid i.toNat true }
  | .ownerRevoke i => { o with ownerRevoked := setBit o.ownerRevoked i.toNat true }
  | .lifecycle b => { o with life := if o.life.toNat ≤ b.toNat then b + 1 else o.life }

/-- OTP_PROG: unlocked with Virell's key and VPP_OTP at 1.8 V; a programmed field never changes. -/
def programOtp (s : State) (f : OtpField) (vpp : Bool) : State :=
  let s := { s with dbg := { s.dbg with ir := 0x18 } }
  if s.dbg.level != 0 && s.dbg.virell && vpp && otpExists f && !s.sec.otp.done.contains (otpIndex f) then
    { s with sec := { s.sec with otp := s.sec.otp.program f } }
  else s

def execOtpProg (f : OtpField) (vpp : Bool) (s : State) : Host.Outcome State Fault Refusal := .next (programOtp s f vpp)

/-! ### Commands (R419) -/

/-- DBG_DATA as an access leaves it: data, check bits, access status, SPEC. -/
def accessResult (data : BitVec 128) (check : BitVec 17) (status : Nat) (spec : Bool) : BitVec 160 :=
  data.setWidth 160 ||| (check.setWidth 160 <<< 128) ||| (BitVec.ofNat 160 (status % 8) <<< 145) ||| (BitVec.ofNat 160 spec.toNat <<< 148)

/-- The access status alone. -/
def withStatus (d : BitVec 160) (status : Nat) : BitVec 160 :=
  (d &&& ~~~(BitVec.ofNat 160 7 <<< 145)) ||| (BitVec.ofNat 160 (status % 8) <<< 145)

def setStatus (s : State) (status : Nat) : State := { s with dbg := { s.dbg with data := withStatus s.dbg.data status } }

/-- A command refused. -/
def refuseCmd (s : State) : State := setStatus s 6

/-- A command shifted into DBG_CMD: nothing in a locked port; refused below its level or where its condition does not hold. -/
def command (s : State) (level : Nat) (ok : State → Bool) (act : State → State) : State :=
  let s := { s with dbg := { s.dbg with ir := 0x13 } }
  if s.dbg.level = 0 then s
  else if s.dbg.level.toNat < level || !ok s then refuseCmd s
  else act s

/-- The device is not one of a pair (R419). -/
def soloTwin (s : State) : Bool := s.twn.state == .unpaired || s.twn.state == .fenced

/-- FREEZE (R420): at once. -/
def execFreeze (s : State) : Host.Outcome State Fault Refusal :=
  .next (command s 2 soloTwin (fun s => if s.dbg.runState = .run ∨ s.dbg.runState = .stepping then freezeNow s else s))

/-- HALT (R421): at the next boundary; after a freeze the tick in flight goes on to it. -/
def execHalt (s : State) : Host.Outcome State Fault Refusal :=
  .next (command s 2 soloTwin (fun s =>
    if s.dbg.runState = .halted then s
    else
      let r := if s.dbg.runState = .frozen then RunState.run else s.dbg.runState
      { s with dbg := { s.dbg with runState := r, haltPend := true } }))

/-- A halted device goes on: the memories re-enter service, and the next boundary comes 64 cycles later or follows an edge. -/
def leaveHalt (s : State) : State :=
  let going := (s.tkc.active && !s.tkc.ending) || s.tkc.run
  let s := if s.tkc.active then enterService s else s
  if !going then s
  else if !s.tkc.src then { s with tkc := { s.tkc with startIn := some 64 } }
  else if s.tkc.active then { s with tkc := { s.tkc with edgeOnly := true } }
  else { s with tkc := { s.tkc with extWait := true } }

/-- RESUME. -/
def execResume (s : State) : Host.Outcome State Fault Refusal :=
  .next (command s 2 (fun _ => true) (fun s =>
    let s := if s.dbg.runState = .halted then leaveHalt s else s
    { s with dbg := { s.dbg with runState := .run, freezePend := false, haltPend := false, stepTick := false, bpHit := 0, bpSpec := 0 } }))

/-- STEP_TICK (R421): while halted, one tick. -/
def execStepTick (s : State) : Host.Outcome State Fault Refusal :=
  .next (command s 2 (fun s => soloTwin s && s.dbg.runState == .halted) (fun s =>
    let s := leaveHalt s
    { s with dbg := { s.dbg with runState := .stepping, stepTick := true } }))

/-! ### Command stepping (R422) -/

/-- The effect of an engine command on its queue's work. -/
def effectOf : Instr → Option (Iss × (Bool → Work → Work))
  | .nop i _ => some (i, effNop)
  | .fset i _ f d => some (i, effFset f d)
  | .fclr i _ f d => some (i, effFclr f d)
  | .fwait i _ f d _ c _ => some (i, effFwait f d c)
  | .kset i _ k v => some (i, effKset k v)
  | .kadd i _ k v => some (i, effKadd k v)
  | .cset i _ c k n v => some (i, effCset c k n v)
  | .wclaim i _ w n k c e => some (i, effWclaim w n k c e)
  | .wrst i _ w l => some (i, effWrst w l)
  | .mm i f => some (i, effMm i f)
  | .wfill i f => some (i, effWfill i f)
  | .tload i f => some (i, effTload i f)
  | .smix i f => some (i, effSmix i f)
  | .sout i f => some (i, effSout i f)
  | .scarry i f => some (i, effScarry i f)
  | .vmov i f => some (i, effLanes laneVmov 4 i f)
  | .vadd i f => some (i, effLanes laneVadd 4 i f)
  | .vsub i f => some (i, effLanes laneVsub 4 i f)
  | .vmul i f => some (i, effLanes laneVmul 4 i f)
  | .vmac i f => some (i, effLanes laneVmac 4 i f)
  | .vmax i f => some (i, effLanes laneVmax 4 i f)
  | .vmin i f => some (i, effLanes laneVmin 4 i f)
  | .vabs i f => some (i, effLanes laneVabs 4 i f)
  | .vneg i f => some (i, effLanes laneVneg 4 i f)
  | .vclp i f => some (i, effLanes laneVclp 4 i f)
  | .vcmp i f => some (i, effLanes laneVcmp 4 i f)
  | .vsel i f => some (i, effLanes laneVsel 4 i f)
  | .vcrv i f => some (i, effLanes laneVcrv 6 i f)
  | .vconv i f => some (i, effVconv i f)
  | .vrsum i f => some (i, effReduce redSum i f)
  | .vrssq i f => some (i, effReduce redSsq i f)
  | .vrmax i f => some (i, effReduce redMax i f)
  | .vld i f => some (i, effVld i f)
  | .vst i f => some (i, effVst i f)
  | .vib i f => some (i, effVib i f)
  | .vft i f => some (i, effVft i f)
  | .vtopk i f => some (i, effVtopk i f)
  | .vwadd i f => some (i, effVwadd i f)
  | .vctl i f => some (i, effVctl i f)
  | .dmove i f => some (i, effDmove i f)
  | .dmovex i f => some (i, effDmovex i f)
  | .dremote i f => some (i, effDremote i f)
  | .dcret i f => some (i, effDcret i f)
  | .dmem i f => some (i, effDmem i f)
  | .dgather i f => some (i, effDgather i f)
  | _ => none

def queueAt (n : BitVec 2) : Queue := match n.toNat with | 0 => .me | 1 => .se | 2 => .ve | _ => .de

/-- The physical core a target names, as a logical core. -/
def targetCore (s : State) (tgt : Nat) : Option (BitVec 3) := if tgt < 8 then logicalCore s tgt else none

/-- The command a step would issue: the core, the queue and the command; its packet comes with the debug command (DESIGN CHOICE, log 9). -/
def stepTarget (s : State) (c : DbgCmd) : Option (BitVec 3 × Queue × Instr) :=
  match targetCore s c.tgt.toNat with
  | none => none
  | some k =>
    let q := queueAt (c.arg.extractLsb' 0 2)
    let x := vget s.dp.cores k
    if x.run != .computing then none
    else match (nextWord x q).bind (decodeCmd k c.arg2.toNat q) with
      | some i => if i.wf && (tableFmtis i).all (fmtiOk x) then some (k, q, i) else none
      | none => none

/-- Cycles until the last result of what has issued has landed. -/
def settleTime (d : Dp) : Nat := (d.landings.map (fun x => x.1)).foldl max 0

/-- A step of a command whose gate passes: it issues at its due time, its last result lands, with that of a waiting VFT that takes its
tile (R183), and core time stands at that time. -/
def stepIssue (s : State) (k : BitVec 3) (q : Queue) (i : Iss) (eff : Bool → Work → Work) : State :=
  let x := vget s.dp.cores k
  let due := match nextWord x q with | some w => dueTime (vget x.queues (queueIndex q)) (deltaOf w) | none => x.time
  let now := x.time
  let s := { s with dp := s.dp.modCore k (fun y => { y with time := due, startIn := 0 }) }
  let s := issueNow s i q true eff
  let s := { s with dp := s.dp.modCore k (fun y => if y.tick = x.tick then { y with time := max now due } else y) }
  let s := s.pass (settleTime s.dp)
  s.pass (settleTime s.dp)

/-- STEP_CMD (R422): while frozen; a command whose gate does not pass waits, and HOLD_GATE shows it. -/
def stepCommand (s : State) (c : DbgCmd) : State :=
  match stepTarget s c with
  | none => s
  | some (k, q, i) =>
    match effectOf i with
    | none => s
    | some (h, eff) =>
      let g := gateOf s k i
      if g.2 then stepIssue s k q h eff else setHold s h q [(q, g.1)]

def execStepCmd (c : DbgCmd) (s : State) : Host.Outcome State Fault Refusal :=
  .next (command s 2 (fun s => soloTwin s && frozen s && (stepTarget s c).isSome) (fun s => stepCommand s c))

/-! ### Memory access (R423) -/

/-- Where a debug access goes. -/
inductive DbgPlace where
  | row (gran : Nat)
  | buffer (core : BitVec 3) (kind : Nat) (gran : Nat)
  | priv (p : Proc) (gran : Nat)
  | otp (gran : Nat)
  | absent
  | refused
deriving DecidableEq, Repr

/-- Bytes of each engine buffer as the port addresses it (PRESUMED, log 25): elements, then scales. -/
def bufferSize (kind : Nat) : Nat :=
  match kind with
  | 0 => 4 * 8192 + 4 * 2048 | 1 => 2 * 65536 + 2 * 16384 | 2 => 16 * 16384 | 3 => 131072 | 4 => 8192 | 5 => 4096 | _ => 0

/-- Table 21-3. -/
def placeOf (s : State) (c : DbgCmd) : DbgPlace :=
  let t := c.tgt.toNat
  let a := c.addr.toNat
  let core := fun (p : Nat) (f : BitVec 3 → DbgPlace) => match logicalCore s p with | some k => f k | none => .absent
  if t = 0 then (if a < 32 * 0x20000 then .row a else .refused)
  else if 0x10 ≤ t ∧ t < 0x18 then core (t - 0x10) (fun k => if a < 32 * coreMemRows then .row (32 * coreRow k 0 + a) else .refused)
  else if 0x20 ≤ t ∧ t < 0x28 then core (t - 0x20) (fun k =>
    if 16 * (a % 0x100000) < bufferSize (a / 0x100000) then .buffer k (a / 0x100000) (a % 0x100000) else .refused)
  else if t = 0x30 then (if 16 * a < 0x20000 then .priv .pp a else .refused)
  else if t = 0x31 then (if 16 * a < 0x100000 then .priv .sp a else .refused)
  else if 0x38 ≤ t ∧ t < 0x40 then core (t - 0x38) (fun k => if 16 * a < 0x40000 then .priv (.cp k) a else .refused)
  else if t = 0x40 then (if a < 28 ∧ a ≠ 2 ∧ a ≠ 3 then .otp a else .refused)
  else .refused

/-- Sixteen bytes as a value. -/
def granValue (l : List Byte) : BitVec 128 := BitVec.ofNat 128 (l.foldr (fun b a => b.toNat + 256 * a) 0)

/-- The OTP data (Table 19-4). -/
def otpBytes (o : Otp) : List Byte :=
  bytesOf 16 o.uid.toNat ++ [o.grade, o.pcoreEn, 0, 0] ++ bytesOf 4 o.certNb.toNat ++ List.replicate 8 0 ++ bytesOf 32 o.keySeed.toNat ++
    bytesOf 64 o.certSig.toNat ++ bytesOf 32 o.dbgKeyHash.toNat ++
    (o.ownerKeys.toList.take 6).flatMap (fun k => bytesOf 32 k.toNat) ++ [o.ownerValid, o.ownerRevoked] ++ List.replicate 94 0

/-- An A88 entry as a granule, in the word order of R92. -/
def accValue (v : A88) : BitVec 128 := BitVec.ofNat 128 ((v.words).foldr (fun w a => w + 2 ^ 32 * a) 0)

/-- A granule of an engine buffer; an accumulator entry whose contents are undefined (R116) is open. -/
def readBuffer (s : State) (k : BitVec 3) (kind gran : Nat) : BitVec 128 × State :=
  let x := vget s.dp.cores k
  let a := 16 * gran
  let two := fun (m sc : Mem) (n : Nat) => granValue (if a < n then memSlice m a 16 else memSlice sc (a - n) 16)
  match kind with
  | 0 => (two x.me.ib x.me.ibScale 32768, s)
  | 1 => (two x.me.wh x.me.whScale 131072, s)
  | 2 => (accValue (accAt x s.dp.free gran), { s with dp := { s.dp with free := s.dp.free + 16384 } })
  | 3 => (granValue (memSlice x.se.buf a 16), s)
  | 4 => (granValue (memSlice x.ve.regs a 16), s)
  | _ => (granValue (memSlice x.ve.ctActive a 16), s)

/-- The address tag of an A-class granule (Table 9-2). -/
def eccTag (a : BitVec 23) : BitVec 8 := a.extractLsb' 0 8 ^^^ a.extractLsb' 8 8 ^^^ (a.extractLsb' 16 7).zeroExtend 8

/-- The raw check bits of a granule that checks: W-class its 17 check bits; A-class its nine check bits in [8:0] and its tag in [16:9]
(Table 9-2; DESIGN CHOICE, log 124). -/
def checkBits (w : Bool) (a : BitVec 23) (v : BitVec 128) : BitVec 17 :=
  if w then Config.eccDected v a else eccTag a ++ Config.eccSecded v (eccTag a)

/-- Destination rows of a stream-tick of an unconfirmed tick (Table 12-2). -/
def destSpans (s : State) (p : Package) (y : StreamTick) : List (Nat × Nat) :=
  match findStream s y.stream with
  | none => []
  | some x =>
    (match x.slot with
      | some b => [(b + (if x.cur == y.fromDst then slotRows p else 0), slotRows p)]
      | none => []) ++
    (match x.bloom with | some b => [(b + y.dstBloom.toNat * bloomRows p, bloomRows p)] | none => [])

/-- SPEC: the row lies in a destination of a tick not yet confirmed. -/
def specRow (s : State) (row : Nat) : Bool :=
  match taskPkg s with
  | none => false
  | some p => ((s.sp.cur.toList ++ s.sp.early.toList).filter (fun t => t.isSpec && t.dispatched)).any (fun t =>
      t.sts.any (fun y => (destSpans s p y).any (fun d => inRows row d.1 d.2)))

/-- A granule of a memory row: data, check bits, status. Where the stored bits do not check, the check bits are open, and so is the data
of an uncorrectable granule. -/
def readRowGran (s : State) (g : Nat) : BitVec 160 × State :=
  let v := granValue (memSlice s.dp.dev (16 * g) 16)
  let spec := specRow s (g / 32)
  match s.dp.ecc.find? (fun m => m.gran == g) with
  | none => (accessResult v (checkBits (isW s.dp g) (BitVec.ofNat 23 g) v) 0 spec, s)
  | some m =>
    let f := freeDigest s
    let chk := f.1.extractLsb' 128 17
    (match m.kind with
     | .corrected => accessResult v chk 1 spec
     | .uncorrectable => accessResult (f.1.extractLsb' 0 128) chk 2 spec
     | .mismatch => accessResult (f.1.extractLsb' 0 128) chk 3 spec, f.2)

/-- What READ leaves in DBG_DATA. -/
def readPlace (s : State) : DbgPlace → BitVec 160 × State
  | .row g => readRowGran s g
  | .buffer k kind g => let r := readBuffer s k kind g; (accessResult r.1 0 4 false, r.2)
  | .priv p g => (accessResult (granValue (memSlice (getProc s p).mem (16 * g) 16)) 0 4 false, s)
  | .otp g => (accessResult (granValue ((otpBytes s.sec.otp).drop (16 * g) |>.take 16)) 0 0 false, s)
  | .absent => (accessResult 0 0 5 false, s)
  | .refused => (withStatus s.dbg.data 6, s)

/-- The run state is FROZEN or HALTED. -/
def stopped (s : State) : Bool := s.dbg.runState == .frozen || s.dbg.runState == .halted

/-- READ. -/
def execRead (c : DbgCmd) (s : State) : Host.Outcome State Fault Refusal :=
  .next (command s 2 stopped (fun s =>
    let r := readPlace s (placeOf s c)
    { r.2 with dbg := { r.2.dbg with data := r.1 } }))

/-- A granule of an engine buffer written. -/
def writeBuffer (x : Core) (kind gran : Nat) (v : BitVec 128) : Core :=
  let a := 16 * gran
  let b := bytesOf 16 v.toNat
  match kind with
  | 0 => if a < 32768 then { x with me := { x.me with ib := memWrite x.me.ib a b } }
    else { x with me := { x.me with ibScale := memWrite x.me.ibScale (a - 32768) b } }
  | 1 => if a < 131072 then { x with me := { x.me with wh := memWrite x.me.wh a b } }
    else { x with me := { x.me with whScale := memWrite x.me.whScale (a - 131072) b } }
  | 2 =>
    let e := (A88.ofWords (v.toNat % 2 ^ 32) (v.toNat / 2 ^ 32 % 2 ^ 32) (v.toNat / 2 ^ 64 % 2 ^ 32)).1
    { x with me := { x.me with acc := (gran, e) :: x.me.acc.filter (fun y => y.1 != gran) } }
  | 3 => { x with se := { x.se with buf := memWrite x.se.buf a b } }
  | 4 => { x with ve := { x.ve with regs := memWrite x.ve.regs a b } }
  | _ => { x with ve := { x.ve with ctActive := memWrite x.ve.ctActive a b } }

/-- What WRITE does: fresh check bits for a memory row; while FROZEN core memories and engine buffers are refused, and the OTP always; a row of a core memory that no window admits is
discarded with WINDOW_VIOLATION (R215, R216; access status DESIGN CHOICE, log 125). -/
def writePlace (s : State) : DbgPlace → State
  | .row g =>
    if frozen s && !isOrchard (g / 32) then refuseCmd s
    else if !isOrchard (g / 32) && !rowAdmitted s.dp (rowCore (g / 32)) .dbg (g / 32 % 0x4000) then
      refuseCmd (takeReport s (windowReport s.dp (rowCore (g / 32)) .dbg (g / 32 % 0x4000)))
    else
      let b := bytesOf 16 (s.dbg.data.extractLsb' 0 128).toNat
      setStatus { s with dp := { s.dp with dev := memWrite s.dp.dev (16 * g) b, ecc := s.dp.ecc.filter (fun m => m.gran != g),
                                           wcls := s.dp.classed g 1 } } 0
  | .buffer k kind g =>
    if frozen s then refuseCmd s
    else setStatus { s with dp := s.dp.modCore k (fun x => writeBuffer x kind g (s.dbg.data.extractLsb' 0 128)) } 4
  | .priv p g =>
    let r := getProc s p
    setStatus (setProc s p { r with mem := memWrite r.mem (16 * g) (bytesOf 16 (s.dbg.data.extractLsb' 0 128).toNat) }) 4
  | .otp _ => refuseCmd s
  | .absent => setStatus s 5
  | .refused => refuseCmd s

/-- WRITE. -/
def execWrite (c : DbgCmd) (s : State) : Host.Outcome State Fault Refusal :=
  .next (command s 2 stopped (fun s => writePlace s (placeOf s c)))

/-! ### Breakpoints, claims, lock (R353, R418, R424) -/

/-- A comparator configuration the port may set: OBSERVE has marker and count only, a marker must own TICK_OUT, TYPE 3 is reserved. -/
def bpAllowed (s : State) (b : Bp) : Bool :=
  b.type != 3 && (s.dbg.level == 2 || 2 ≤ b.act) && (b.act != 2 || s.dbg.marker)

/-- BP_SET. -/
def execBpSet (c : DbgCmd) (s : State) : Host.Outcome State Fault Refusal :=
  let b : Bp := { cfg := c.arg.extractLsb' 3 10, hits := 0, value := c.arg2 }
  .next (command s 1 (fun s => bpAllowed s b) (fun s =>
    { s with dbg := { s.dbg with bps := vset s.dbg.bps (c.arg.extractLsb' 0 3) b } }))

/-- BP_CLR. -/
def execBpClr (c : DbgCmd) (s : State) : Host.Outcome State Fault Refusal :=
  let i := c.arg.extractLsb' 0 3
  .next (command s 1 (fun _ => true) (fun s =>
    let b := vget s.dbg.bps i
    { s with dbg := { s.dbg with bps := vset s.dbg.bps i { b with cfg := setBit b.cfg 0 false } } }))

/-- The debug trace claims the trace memory, or its half in split mode; firmware that claimed it in this cycle gives way. -/
def claimTrace (s : State) : State :=
  if s.dbg.trace then s
  else
    let split := s.fwr.fw.trcSplit
    let take := fun (s : State) => moveOwn { s with dbg := { s.dbg with trace := true } } 0 false true
    if displaces s 0 split then
      take (refuseOwn (moveOwn { s with fwr := { s.fwr with fw := { s.fwr.fw with trcEn := false } } } 0 true false) 0 2)
    else if mayOwn s 0 false split then take s
    else refuseOwn s 0 12

/-- The debug marker claims TICK_OUT. -/
def claimMarker (s : State) : State :=
  if s.dbg.marker then s
  else if mayOwn s 2 true false then moveOwn { s with dbg := { s.dbg with marker := true } } 2 true true
  else refuseOwn s 2 12

def releaseTrace (s : State) : State :=
  leaveOwn { s with dbg := { s.dbg with trace := false } } 0 false

def releaseMarker (s : State) : State :=
  leaveOwn { s with dbg := { s.dbg with marker := false } } 2 true

/-- CLAIM. -/
def execClaim (c : DbgCmd) (s : State) : Host.Outcome State Fault Refusal :=
  let on := c.arg.getLsbD 8
  .next (command s 1 (fun _ => true) (fun s =>
    let s := if c.arg.getLsbD 0 then (if on then claimTrace s else releaseTrace s) else s
    if c.arg.getLsbD 1 then (if on then claimMarker s else releaseMarker s) else s))

/-- LOCK: refused while the run state is not RUN. -/
def execLock (s : State) : Host.Outcome State Fault Refusal :=
  .next (command s 1 (fun s => s.dbg.runState == .run) (fun s => { s with dbg := { s.dbg with level := 0, virell := false } }))

end Sys2Proof.Machine
end

