-- ==== Sys2Proof/Machine/Twin.lean ====
section
/-!
DEFINITION. Machine/Twin: the commands of twin pairing and the link (18_twin_pairing R356 to R374): requests of the driver, frames
received, credits, seals and verdicts, deltas, the self-test.
-/
namespace Sys2Proof.Machine

/-! ### Attach and detach (R360, R361, R363, R374) -/

/-- What a HELLO says of this twin. -/
def ownHello (s : State) : HelloInfo :=
  { pkgId := s.fwr.ldr.pkgId, measure := s.fwr.fw.meas.toList.foldr (fun w (a : BitVec 256) => (a <<< 32) ||| w.setWidth 256) 0,
    period := s.tkc.period, dispatchOfs := s.tkc.dispOfs, computeOfs := s.tkc.compOfs, deadlineOfs := s.tkc.deadOfs,
    sigOfs := s.twn.sigOfs, mode := s.twn.mode, role := s.twn.role, srcExt := s.tkc.src, registered := s.sp.streams.length,
    l3Free := canClaimL3 s, seq := s.tkc.seq }

/-- A HELLO as its CTRL frame carries it (DESIGN CHOICE, log 49). -/
def helloFrame (h : HelloInfo) : Frame :=
  ctrlFrame h.seq 1 (bytesOf 4 h.pkgId.toNat ++ bytesOf 32 h.measure.toNat ++ bytesOf 4 h.period.toNat ++ bytesOf 4 h.dispatchOfs.toNat ++
    bytesOf 4 h.computeOfs.toNat ++ bytesOf 4 h.deadlineOfs.toNat ++ bytesOf 4 h.sigOfs.toNat ++
    [h.mode.zeroExtend 8, BitVec.ofNat 8 h.role.toNat, BitVec.ofNat 8 h.srcExt.toNat, BitVec.ofNat 8 h.l3Free.toNat] ++
    bytesOf 4 h.registered)

/-- The two HELLOs agree (R360). -/
def helloAgrees (a b : HelloInfo) : Bool :=
  a.pkgId == b.pkgId && a.measure == b.measure && a.period == b.period && a.dispatchOfs == b.dispatchOfs &&
    a.computeOfs == b.computeOfs && a.deadlineOfs == b.deadlineOfs && a.sigOfs == b.sigOfs && a.mode == b.mode && a.role != b.role

/-- Every condition of R360. -/
def attachOk (s : State) (h : HelloInfo) : Bool :=
  let o := ownHello s
  helloAgrees o h && (o.mode == 1 || o.mode == 2) && o.srcExt && h.srcExt &&
    (match s.twn.skew with | some k => decide (k ≤ s.twn.skewMax.toNat) | none => false) &&
    (if o.role then o.registered == 0 else h.registered == 0) && o.l3Free && h.l3Free &&
    (o.mode != 1 || decide (s.twn.sigOfs.toNat + 2000 ≤ s.tkc.deadOfs.toNat))

/-- Attach is refused (reason 0x02). A claim of the level-3 meter that fails is reported too (R353). -/
def refuseAttach (s : State) : State :=
  let s := if canClaimL3 s then s else refuseOwn s 3 13
  twinReport { s with twn := { s.twn with attach := false, peer := none, reason := 2 } } 0xFFFF 2

/-- Once attach is requested and the peer's HELLO is there, attach is accepted, with the level-3 meter claimed, or refused. -/
def decideAttach (s : State) : State :=
  match s.twn.attach, s.twn.peer with
  | true, some h =>
    if s.twn.change.isSome then s
    else if attachOk s h then callChange (setL3 s true true) ⟨0, .attaching, 1, false⟩
    else refuseAttach s
  | _, _ => s

/-- TWN_ATTACH: HELLO is sent. A request while paired does nothing. -/
def twnAttach (s : State) : State :=
  if s.twn.state ≠ .unpaired ∨ s.twn.attach then s
  else decideAttach (sendAll { s with twn := { s.twn with attach := true, reason := 1 } } [helloFrame (ownHello s)])

def execTwnAttach (s : State) : Host.Outcome State Fault Refusal := .next (twnAttach s)

/-- TWN_DETACH: the peer is told. -/
def twnDetach (s : State) : State :=
  if s.twn.state = .unpaired ∨ s.twn.state = .fenced then s else callDetach (sendAll s [ctrlFrame s.tkc.seq 2 []]) 4

def execTwnDetach (s : State) : Host.Outcome State Fault Refusal := .next (twnDetach s)

/-- The next tick is the quiet tick of a sync's end or of a switchover, and the peer is told its number (DEDUCED, log 24). -/
def callQuiet (s : State) : State :=
  if s.twn.quiet.isSome then s
  else sendAll { s with twn := { s.twn with quiet := some (s.tkc.seq + 1) } } [ctrlFrame (s.tkc.seq + 1) 3 []]

/-- TWN_TAKEOVER (R374). -/
def twnTakeover (s : State) : State :=
  match s.twn.state with
  | .standby => callTakeover s
  | .active => callQuiet s
  | _ => s

def execTwnTakeover (s : State) : Host.Outcome State Fault Refusal := .next (twnTakeover s)

/-- HELLO received. -/
def hello (s : State) (h : HelloInfo) : State :=
  let s := goodFrame s (helloFrame h).beats
  if s.twn.state = .unpaired then decideAttach { s with twn := { s.twn with peer := some h } } else s

def execHello (h : HelloInfo) (s : State) : Host.Outcome State Fault Refusal := .next (hello s h)

/-- DETACH received. -/
def execCtrlDetach (_seq : W64) (s : State) : Host.Outcome State Fault Refusal := .next (callDetach (goodFrame s 1) 4)

/-- STATE request received: it names the quiet tick of a sync's end or of a switchover (DEDUCED, log 24). -/
def stateRequest (s : State) (seq : W64) : State :=
  let s := goodFrame s 1
  let named := decide (s.tkc.seq.toNat < seq.toNat) && s.twn.quiet.isNone
  match s.twn.state with
  | .syncing => if named then { s with twn := { s.twn with quiet := some seq } } else s
  | .standby => if named then { s with twn := { s.twn with quiet := some seq } } else s
  | _ => s

def execStateRequest (seq : W64) (s : State) : Host.Outcome State Fault Refusal := .next (stateRequest s seq)

/-- The pair's boundaries and numbers must agree. -/
def alignChecked (s : State) : Bool := s.twn.state != .unpaired && s.twn.state != .fenced

/-- ALIGN received (R361): a skew fault detaches the pair; an ALIGN shows that the link is up (DEDUCED, log 24). -/
def align (s : State) (seq : W64) (skew : Nat) : State :=
  let s := goodFrame s 1
  let t := { s.twn with skew := some skew, down := false, peer := s.twn.peer.map (fun h => { h with seq := seq }) }
  let s := { s with twn := t }
  if alignChecked s && (seq != s.tkc.seq || decide (s.twn.skewMax.toNat < skew)) then callDetach (twinReport s 0xFFFF 6) 6 else s

def execAlign (seq : W64) (skew : Nat) (s : State) : Host.Outcome State Fault Refusal := .next (align s seq skew)

/-! ### The link (R358, R359) -/

/-- A credit returned. -/
def execTwlTxCrd (s : State) : Host.Outcome State Fault Refusal :=
  .next (flushLink { s with twn := { s.twn with credit := min 256 (s.twn.credit + 1) } })

/-- TWL_RX_UP at a level: a rise sets the credits to 256. -/
def execTwlRxUp (level : Bool) (s : State) : Host.Outcome State Fault Refusal :=
  .next (if level && !s.twn.rxUp then flushLink { s with twn := { s.twn with rxUp := true, down := false, credit := 256 } }
    else { s with twn := { s.twn with rxUp := level } })

/-- LINK_DOWN: one of its cases has come. -/
def execLinkDown (s : State) : Host.Outcome State Fault Refusal := .next (declareDown s)

/-- A frame discarded (R357): counted, its credits returned; the eighth in a row is LINK_DOWN. -/
def frameDiscard (s : State) (beats : BitVec 8) : State :=
  let s := receiveBeats s (1 + beats.toNat)
  let s := { s with twn := { s.twn with fcrc := s.twn.fcrc + 1, badFrames := s.twn.badFrames + 1 } }
  if s.twn.badFrames = 8 then declareDown s else s

def execFrameDiscard (beats : BitVec 8) (s : State) : Host.Outcome State Fault Refusal := .next (frameDiscard s beats)

/-! ### Seals and verdicts (R364 to R367) -/

/-- The stream-tick is sealed: its work has completed, and it is confirmed if it is speculative. -/
def isSealed (s : State) (t : TickRec) (y : StreamTick) : Bool :=
  y.out == .running && !y.late && stFinished s t.seq y && (!t.isSpec || t.confirmed)

/-- n bytes the spec leaves open, as a 64-bit value. -/
def freeSig (s : State) : W64 × State :=
  (Config.freeWord s.dp.free ++ Config.freeWord (s.dp.free + 1), { s with dp := { s.dp with free := s.dp.free + 2 } })

/-- A place of a group's SIG: its signature, open where the place is not sealed, and its bit. -/
def sealPlace (p : Package) (t : TickRec) (a : State × List W64 × W64) (place : Nat) : State × List W64 × W64 :=
  match t.sts.find? (fun y => y.place.toNat == place && isSealed a.1 t y) with
  | some y =>
    let g := signRecs (noteRows a.1 (outReads p t.seq y)) p (outRecs a.1 p t.seq y)
    (g.2, a.2.1 ++ [BitVec.ofNat 64 g.1], setBit a.2.2 (place % 64) true)
  | none =>
    let f := freeSig a.1
    (f.2, a.2.1 ++ [f.1], a.2.2)

/-- A group sealed. -/
def sealGroup (p : Package) (t : TickRec) (s : State) (g : Nat) : State :=
  let n := min 64 (p.places.length - 64 * g)
  let r := ((List.range n).map (fun k => 64 * g + k)).foldl (sealPlace p t) (s, [], 0)
  let m : SigRec := { seq := t.seq, group := BitVec.ofNat 16 g, sigs := r.2.1, bitmap := r.2.2 }
  let s := { r.1 with twn := { r.1.twn with mine := r.1.twn.mine ++ [m] } }
  let f := fun (copy : Byte) => mkFrame 2 copy t.seq (bytesOf 2 g ++ bytesOf 2 n)
    (r.2.1.flatMap (fun w => bytesOf 8 w.toNat) ++ bytesOf 8 r.2.2.toNat)
  sendAll s [f 0, f 1]

/-- The stream-tick of a place in the current tick. -/
def placeTick (s : State) (place : Nat) : Option StreamTick :=
  (s.sp.cur.bind (fun t => t.sts.find? (fun y => y.place.toNat == place)))

/-- Places of a group whose bit is set. -/
def placesIn (g : W16) (bits : W64) : List Nat := ((List.range 64).filter (fun i => bits.getLsbD i)).map (fun i => 64 * g.toNat + i)

/-- A mismatched place: a disagreement reported with its stream, the second one of a rerun (R367). -/
def disagree (s : State) (place : Nat) : State :=
  let s := { s with twn := { s.twn with mismatch := satInc s.twn.mismatch } }
  match placeTick s place with
  | some y => twinReport s y.stream (if y.kind == some .mirror then 8 else 7)
  | none => s

/-- A group's VERDICT stands: its mismatches counted, and the self-test called for (R367, R368). -/
def takeVerdict (s : State) (v : VerdictRec) (selftest : Bool) : State :=
  let s := { s with twn := { s.twn with verdicts := s.twn.verdicts ++ [v] } }
  let s := (placesIn v.group v.mismatch).foldl disagree s
  if selftest then callChange s ⟨0, .selftest, 8, false⟩ else s

/-- The two copies of a VERDICT frame. -/
def verdictFrames (v : VerdictRec) (selftest : Bool) : List Frame :=
  let f := fun (copy : Byte) => mkFrame 3 copy v.seq ([BitVec.ofNat 8 (v.link.toNat + 2 * selftest.toNat), 0] ++ bytesOf 2 v.group.toNat)
    (bytesOf 8 v.commit.toNat ++ bytesOf 8 v.mismatch.toNat)
  [f 0, f 1]

/-- A VERDICT of this group and tick stands. -/
def hasVerdict (s : State) (seq : W64) (g : W16) : Bool := s.twn.verdicts.any (fun v => v.seq == seq && v.group == g)

/-- Role 0 decides a group that both twins have sealed and sends the VERDICT (R365). -/
def decideGroup (s : State) (m : SigRec) : State :=
  match s.twn.sigs.find? (fun x => x.seq == m.seq && x.group == m.group) with
  | none => s
  | some x =>
    if hasVerdict s m.seq m.group then s else
    let both := m.bitmap &&& x.bitmap
    let eq := (List.range 64).foldl (fun (b : W64) i => setBit b i (m.sigs.getD i 0 == x.sigs.getD i 0)) 0
    let v : VerdictRec := { seq := m.seq, group := m.group, link := false, commit := both &&& eq, mismatch := both &&& ~~~eq }
    let second := (placesIn v.group v.mismatch).any (fun k =>
      match placeTick s k with | some y => y.kind == some .mirror | none => false)
    takeVerdict (sendAll s (verdictFrames v second)) v second

/-- Every group decided that can be. -/
def decideGroups (s : State) : State :=
  if s.twn.role || s.twn.state != .mirror then s
  else (s.twn.mine.filter (fun m => m.seq == s.tkc.seq)).foldl decideGroup s

/-- SEAL: at TWN_SIG_OFS in mirror mode. -/
def sealNow (s : State) : State :=
  match s.sp.cur, taskPkg s with
  | some t, some p =>
    if s.twn.state ≠ .mirror ∨ t.sealed ∨ !canReach s s.twn.sigOfs.toNat then s else
    let s := reach s s.twn.sigOfs.toNat
    if frozen s then s else
    match s.sp.cur with
    | none => s
    | some t =>
      let s := (List.range ((p.places.length + 63) / 64)).foldl (sealGroup p t) s
      decideGroups (modTick s t.seq (fun r => { r with sealed := true }))
  | _, _ => s

def execSealTick (s : State) : Host.Outcome State Fault Refusal := .next (sealNow s)

/-- SIG received: role 0 keeps the first good copy of a group of its tick in flight, and decides it. -/
def sigFrame (s : State) (seq : W64) (group : W16) (sigs : List W64) (bitmap : W64) : State :=
  let s := goodFrame s (1 + (8 * sigs.length + 39) / 32)
  let known := s.twn.sigs.any (fun x => x.seq == seq && x.group == group)
  if s.twn.role || s.twn.state != .mirror || known || seq != s.tkc.seq || s.sp.cur.isNone then s
  else decideGroups { s with twn := { s.twn with sigs := s.twn.sigs ++ [⟨seq, group, sigs, bitmap⟩] } }

def execSig (seq : W64) (group : W16) (sigs : List W64) (bitmap : W64) (s : State) : Host.Outcome State Fault Refusal :=
  .next (sigFrame s seq group sigs bitmap)

/-- VERDICT received: role 1 takes the first good copy of a group up to its pit. -/
def verdictFrame (s : State) (v : VerdictRec) (selftest : Bool) : State :=
  let s := goodFrame s 2
  if !s.twn.role || s.twn.state != .mirror || v.seq != s.tkc.seq || s.sp.cur.isNone || hasVerdict s v.seq v.group then s
  else takeVerdict s v selftest

def execVerdict (seq : W64) (group : W16) (link selftest : Bool) (commit mismatch : W64) (s : State) :
    Host.Outcome State Fault Refusal := .next (verdictFrame s ⟨seq, group, link, commit, mismatch⟩ selftest)

/-- A group without a VERDICT gets one with LINK set. -/
def linkVerdict (seq : W64) (s : State) (g : Nat) : State :=
  let v : VerdictRec := { seq := seq, group := BitVec.ofNat 16 g, link := true, commit := 0, mismatch := 0 }
  if hasVerdict s seq v.group then s else takeVerdict (sendAll s (verdictFrames v false)) v false

/-- VERDICT_DEADLINE: at the deadline offset minus 1,000 TU, for role 0. -/
def verdictDeadline (s : State) : State :=
  let ofs := s.tkc.deadOfs.toNat - 1000
  match s.sp.cur with
  | some t =>
    if s.twn.state ≠ .mirror ∨ s.twn.role ∨ t.vdDone ∨ !canReach s ofs then s else
    let s := reach s ofs
    if frozen s then s else
    let s := (List.range ((placeCount s + 63) / 64)).foldl (linkVerdict t.seq) s
    modTick s t.seq (fun r => { r with vdDone := true })
  | none => s

def execVerdictDeadline (s : State) : Host.Outcome State Fault Refusal := .next (verdictDeadline s)

/-! ### Self-test (R368) -/

/-- Both results are known: the outcome of Table 18-4, at the first boundary at least 4,000 TU later (R363). -/
def settleTest (s : State) : State :=
  if s.twn.state ≠ .selftest then s else
  match s.twn.own, s.twn.other with
  | some a, some b =>
    let c : TwnChange := if !a then ⟨4000, .fenced, 0xA, true⟩ else if b then ⟨4000, .unpaired, 9, false⟩ else ⟨4000, .unpaired, 0xB, false⟩
    callChange (if a then s else twinReport s 0xFFFF 0xA) c
  | _, _ => s

/-- SELFTEST_END: the tests' cycles pass; the result is sent, every chain restarts, and a peer that does not answer within 2,000 TU has
failed. -/
def testEnds (s : State) (pass peerLate : Bool) : State :=
  if s.twn.state ≠ .selftest ∨ s.twn.own.isSome ∨ !mayReach s s.twn.testLeft then s else
  let s := s.pass s.twn.testLeft
  if frozen s then s else
  let s := sendAll s [ctrlFrame s.tkc.seq 5 [BitVec.ofNat 8 pass.toNat]]
  let other := if s.twn.other.isNone && peerLate then some false else s.twn.other
  let s := { s with twn := { s.twn with own := some pass, other := other } }
  settleTest ((List.range (taskChains s).length).foldl (fun s ch => callRestart s ch s.tkc.seq false) s)

def execSelftestEnd (pass peerLate : Bool) (s : State) : Host.Outcome State Fault Refusal := .next (testEnds s pass peerLate)

/-- The peer's result received. -/
def execSelfTestResult (pass : Bool) (s : State) : Host.Outcome State Fault Refusal :=
  let s := goodFrame s 2
  .next (if s.twn.state = .selftest ∧ s.twn.other.isNone then settleTest { s with twn := { s.twn with other := some pass } } else s)

/-! ### Deltas and the stream table (R362, R369 to R372) -/

/-- The change a CTRL frame carries. -/
def remoteChange (seq : W64) (c : TableChange) : PendChange :=
  { seq := seq, op := c.op, remote := true, req := ⟨0, 0, 0, true⟩,
    desc := { sq := 0, tag := 0, rsv := 0, flags := c.flags, stream := c.stream, adapt := c.adapt, group := c.group, place := c.place,
              addr := c.addr, rest := [], crc := 0 } }

/-- STREAM_TABLE_CHANGE received: role 1 applies one of a sync at once, one of mirror mode at the dispatch it names, and one of standby
mode with its delta. -/
def tableChange (s : State) (seq : W64) (c : TableChange) : State :=
  let s := goodFrame s 2
  if !s.twn.role then s else
  match s.twn.state with
  | .syncing => applyChange s (remoteChange seq c)
  | .mirror | .standby => { s with twn := { s.twn with changes := s.twn.changes ++ [remoteChange seq c] } }
  | _ => s

def execStreamTableChange (seq : W64) (c : TableChange) (s : State) : Host.Outcome State Fault Refusal := .next (tableChange s seq c)

/-- First row of a stream's non-current slot, and of the Bloom slot that becomes current with it. -/
def nextSlot (p : Package) (x : Stream) : Option Nat := x.slot.map (fun b => b + (if x.cur then 0 else slotRows p))
def otherBloom (bc : BitVec 2) : BitVec 2 := if bc = 0 then 1 else 0
def nextBloom (p : Package) (x : Stream) : Option Nat := x.bloom.map (fun b => b + (otherBloom x.bc).toNat * bloomRows p)

/-- A row of a stream's init slot, after those of its slot (DESIGN CHOICE, log 49); a stream without one gets it. -/
def writeInitRow (s : State) (p : Package) (x : Stream) (k : Nat) (data : List Byte) : State :=
  match x.init.or (allocRows s p.slotState) with
  | some b => writeOrchard (modStream s x.id (fun y => { y with init := some b })) (b + k) data
  | none => s

/-- A row of a DELTA written where it becomes current with the flip. -/
def writeDeltaRow (s : State) (p : Package) (r : DeltaRow) (data : List Byte) : State :=
  if r.stream = 0xFFFF then
    match s.sp.groups.find? (fun g => g.group == r.group), groupAdapter p r.group with
    | some g, some a => if r.row < adapterRows a then writeOrchard s (g.slot + (if g.cur then 0 else adapterRows a) + r.row) data else s
    | _, _ => s
  else match findStream s r.stream with
    | none => s
    | some x =>
      if slotRows p ≤ r.row then (if r.row < slotRows p + p.slotState then writeInitRow s p x (r.row - slotRows p) data else s) else
      let s := match nextSlot p x with | some b => writeOrchard s (b + r.row) data | none => s
      match nextBloom p x, p.bloomMap.findIdx? (fun k => k == r.row) with
      | some b, some j => writeOrchard s (b + j) data
      | _, _ => s

/-- DELTA received: role 1 of a sync, or a standby, writes its rows. -/
def deltaFrame (s : State) (stream : W16) (group : Byte) (row : Nat) (data : List Byte) : State :=
  let s := goodFrame s (1 + (data.length + 31) / 32)
  match isStandby s, taskPkg s with
  | true, some p =>
    let rs := (List.range (data.length / rowBytes)).map (fun k => (⟨stream, group, row + k⟩ : DeltaRow))
    let s := rs.foldl (fun s r => writeDeltaRow s p r ((data.drop (rowBytes * (r.row - row))).take rowBytes)) s
    { s with twn := { s.twn with rows := s.twn.rows ++ rs, rxFrames := s.twn.rxFrames + 1 } }
  | _, _ => s

def execDelta (_seq : W64) (stream : W16) (group : Byte) (row : Nat) (data : List Byte) (s : State) :
    Host.Outcome State Fault Refusal := .next (deltaFrame s stream group row data)

/-- Slot rows that the delta did not carry keep the contents of the current slot. -/
def keepRows (s : State) (p : Package) (x : Stream) (got : List Nat) : State :=
  match curSlot p x, nextSlot p x with
  | some a, some b =>
    ((List.range (slotRows p)).filter (fun k => !got.contains k)).foldl (fun s k =>
      writeOrchard (noteRows s [a + k]) (b + k) (orchardRows s (a + k) 1)) s
  | _, _ => s

/-- A listed stream flips: its slot, its Bloom slot, and the sequence number its stream record holds. -/
def flipStream (p : Package) (rows : List DeltaRow) (s : State) (id : W16) : State :=
  match findStream s id with
  | none => s
  | some x =>
    let got := (rows.filter (fun r => r.stream == id)).map (fun r => r.row)
    if got.all (fun k => decide (slotRows p ≤ k)) then s else
    let s := keepRows s p x got
    let r := match nextSlot p x with | some b => narrowRead s (rowBytes * (b + slotRows p - 1)) 8 | none => (0, s)
    modStream r.2 id (fun y =>
      { y with cur := !y.cur, seq := BitVec.ofNat 64 r.1, bc := if y.bloom.isSome then otherBloom y.bc else y.bc })

/-- A delta applied whole: every listed stream and group flips, the table changes take effect, TWN_LAST_SEQ is its tick. -/
def applyDelta (s : State) (p : Package) (seq : W64) : State :=
  let rows := s.twn.rows
  let ids := ((rows.filter (fun r => r.stream != 0xFFFF)).map (fun r => r.stream)).eraseDups
  let gs := ((rows.filter (fun r => r.stream == 0xFFFF)).map (fun r => r.group)).eraseDups
  let s := ids.foldl (flipStream p rows) s
  let groups := s.sp.groups.map (fun (g : GroupSlot) => if gs.contains g.group then { g with cur := !g.cur } else g)
  let s := { s with sp := { s.sp with groups := groups } }
  let cs := s.twn.changes
  let s := cs.foldl applyChange { s with twn := { s.twn with changes := [] } }
  { s with twn := { s.twn with rows := [], rxFrames := 0, lastSeq := seq, copied := true } }

/-- DELTA_END received (R372). -/
def deltaEnds (s : State) (seq : W64) (frames : W32) (abandon : Bool) : State :=
  let s := goodFrame s 1
  match isStandby s, taskPkg s with
  | true, some p =>
    if !abandon && s.twn.rxFrames == frames.toNat then applyDelta s p seq
    else { s with twn := { s.twn with rows := [], rxFrames := 0 } }
  | _, _ => s

def execDeltaEnd (seq : W64) (frames : W32) (_streams : W16) (abandon : Bool) (s : State) : Host.Outcome State Fault Refusal :=
  .next (deltaEnds s seq frames abandon)

/-- Meter of mirroring (R49), none while it does not own the level-3 meter. -/
def mirrorMeter (s : State) : Option (BitVec 4) :=
  if !s.err.ownL3.getLsbD 1 then none else some (if s.err.splitL3 then 14 else 13)

/-- Units of a frame on the mirroring meter: one per 64 bytes; CTRL frames are none of its units (R371). -/
def frameUnits (f : Frame) : Nat := if f.type = 6 then 0 else (32 * f.beats + 63) / 64

/-- A frame of the delta sent, if credits and meter allow, and whether it went; one that must wait keeps its place
with the meter (R47). -/
def sendDeltaFrame (s : State) (m : BitVec 4) (f : Frame) : Bool × State :=
  if !(txUp s && linkUp s.twn && s.twn.tx.isEmpty && decide (f.beats ≤ s.twn.credit)) then (false, s)
  else
    let u := if f.type = 6 then (true, none, s.dp) else meterAsk s.dp m (frameUnits f) s.twn.deltaTicket
    let s := { s with dp := u.2.2, twn := { s.twn with deltaTicket := u.2.1 } }
    if !u.1 then (false, s)
    else
      let t := { s.twn with deltaLeft := s.twn.deltaLeft.drop 1, deltaSent := s.twn.deltaSent + (if f.type = 4 then 1 else 0) }
      (true, sendAll { s with twn := t } [f])

/-- The delta's frames in order, as far as they may go. -/
def sendDeltas (m : BitVec 4) (s : State) : List Frame → State
  | [] =>
    match s.twn.deltaOf with
    | some u => { s with twn := { s.twn with deltaOf := none, deltaIds := [], lastSeq := u } }
    | none => s
  | f :: fs =>
    let r := sendDeltaFrame s m f
    if r.1 then sendDeltas m r.2 fs else r.2

/-- DELTA_SEND: the active twin, or role 0 of a sync, sends what its delta still holds. -/
def deltaSends (s : State) : State :=
  if !(s.twn.state == .active || (s.twn.state == .syncing && !s.twn.role)) then s else
  match mirrorMeter s with
  | some m => sendDeltas m s s.twn.deltaLeft
  | none => s

def execDeltaSend (s : State) : Host.Outcome State Fault Refusal := .next (deltaSends s)

/-- DELTA_ABANDON: the last cycle before the next pit has come with the delta not fully sent (R371). -/
def deltaAbandons (s : State) : State :=
  let ofs := s.tkc.deadOfs.toNat - tuStep s
  match s.sp.cur, s.twn.deltaOf with
  | some r, some u =>
    if u.toNat < r.seq.toNat ∧ canReach s ofs then
      let s := reach s ofs
      if frozen s then s else abandonDelta s
    else s
  | _, _ => s

def execDeltaAbandon (s : State) : Host.Outcome State Fault Refusal := .next (deltaAbandons s)

/-- SYNC_COMPLETE (R362): role 1 holds a complete copy, or role 0 has sent it; the next tick is the quiet one. -/
def syncDone (s : State) : State :=
  if s.twn.state ≠ .syncing then s
  else if s.twn.role then (if s.twn.copied then callQuiet s else s)
  else if s.twn.deltaLeft.isEmpty then callQuiet s else s

def execSyncComplete (s : State) : Host.Outcome State Fault Refusal := .next (syncDone s)

end Sys2Proof.Machine
end

