-- ==== Sys2Proof/Machine/CfgRead.lean ====
section
/-!
DEFINITION. Machine/CfgRead: what a read of the CFG window returns (14_host_rings R309, R313, R314; Tables 2-5 to 2-7, 4-3, 5-6, 6-5,
8-5, 9-4 to 9-6, 10-6, 10-7, 11-5, 12-4, 13-4, 14-8, 14-9, 15-3, 16-4, 16-5, 17-6, 18-7, 19-6, 19-7, 20-5, 21-4). A reserved offset
reads 0.
-/
namespace Sys2Proof.Machine

/-! ### Host interface (Table 14-8) -/

/-- A produced ring's word at an offset from its base. -/
def ringWord (r : PRing) (o : Nat) : W32 :=
  match o with
  | 0x00 => fieldBits 12 r.baseLo
  | 0x04 => fieldBits 0 r.baseHi
  | 0x08 => fieldBits 0 r.sizeLog2 ||| bitAt 4 r.enable ||| bitAt 5 r.port ||| bitAt 6 r.kind ||| bitAt 7 r.irq
  | 0x0C => fieldBits 0 r.head
  | 0x10 => fieldBits 0 r.tail ||| bitAt 12 r.phase
  | _ => 0

def sqWord (r : SqRing) (o : Nat) : W32 :=
  match o with
  | 0x0 => fieldBits 12 r.baseLo
  | 0x4 => fieldBits 0 r.baseHi
  | 0x8 => fieldBits 0 r.sizeLog2 ||| bitAt 4 r.enable ||| bitAt 5 r.port ||| fieldBits 8 r.cq
  | 0xC => fieldBits 0 r.head
  | _ => 0

/-- HIF_KILL reads 1 until KILL_DONE is written or discarded (R431). -/
def killOpen (h : Hif) : Bool := h.kill || h.evt.waiting.any (fun r => r.bytes.head? == some 3)

def hifRead (s : State) (o : Nat) : W32 :=
  let h := s.hif
  if o < 0x40 then fieldBits 0 (vget h.sqs (BitVec.ofNat 4 (o / 4))).db
  else if o = 0x40 then fieldBits 0 h.tickRing ||| fieldBits 4 h.outRing ||| bitAt 8 h.osigEn ||| bitAt 16 (killOpen h)
  else if o = 0x44 then bitAt 0 h.dbErr ||| bitAt 1 h.wrIgn ||| bitAt 2 h.memErr
  else if o = 0x48 then fieldBits 0 h.irqMask
  else if o = 0x4C then fieldBits 0 (irqSources h)
  else if o = 0x50 then fieldBits 0 h.outRecsz
  else if o = 0x54 then h.evtLost
  else if o = 0x58 then h.crcCnt
  else if 0x100 ≤ o ∧ o < 0x200 then sqWord (vget h.sqs (BitVec.ofNat 4 ((o - 0x100) / 16))) (o % 16)
  else if 0x200 ≤ o ∧ o < 0x400 then ringWord (vget h.cqs (BitVec.ofNat 4 ((o - 0x200) / 32))) (o % 32)
  else if 0x400 ≤ o ∧ o < 0x420 then ringWord h.evt (o % 32)
  else if 0x420 ≤ o ∧ o < 0x440 then ringWord h.err (o % 32)
  else if 0x440 ≤ o ∧ o < 0x460 then ringWord h.log (o % 32)
  else 0

/-! ### The tick block (Tables 2-5 to 2-7) -/

/-- Streams that hold a pending window (TKC_CU_PENDING). -/
def pendingCount (s : State) : Nat := (s.sp.streams.filter (fun x => x.pend.isSome)).length

/-- TKC_TIME shows the count modulo 2^21, which a tick that a missing TICK_IN edge prolongs can pass (DEDUCED, log 119). -/
def tkcRead (s : State) (o : Nat) : W32 :=
  let t := s.tkc
  match o with
  | 0x1000 => bitAt 0 t.run ||| bitAt 1 t.src ||| bitAt 2 t.fly ||| bitAt 3 t.outEn
  | 0x1004 => bitAt 0 t.active ||| fieldBits 1 t.phase ||| bitAt 4 (s.pwr.aclkRun && s.pwr.aclkHalf) ||| bitAt 5 t.cfgErr |||
      bitAt 6 t.wrIgn ||| bitAt 7 t.extWait
  | 0x1008 => fieldBits 0 t.period
  | 0x100C => fieldBits 0 t.dispOfs
  | 0x1010 => fieldBits 0 t.compOfs
  | 0x1014 => fieldBits 0 t.deadOfs
  | 0x1018 => fieldBits 0 t.extTol
  | 0x101C => t.seq.setWidth 32
  | 0x1020 => t.hiLatch
  | 0x1024 => BitVec.ofNat 32 (t.time % 2 ^ 21)
  | 0x1028 => t.skip
  | 0x102C => t.late
  | 0x1030 => t.earlyCnt
  | 0x1034 => t.miss
  | 0x1038 => t.cuDrop
  | 0x103C => fieldBits 0 t.cuReserve ||| (BitVec.ofNat 32 (pendingCount s) <<< 16)
  | 0x1040 => fieldBits 0 t.defer
  | _ => if inWords o 0x1100 4 15 then (vget s.dp.meters (BitVec.ofNat 4 ((o - 0x1100) / 4))).shown else 0

/-! ### Errors, power, security -/

def errRead (s : State) (o : Nat) : W32 :=
  let e := s.err
  match o with
  | 0x1800 => bitAt 0 e.jrnlEn ||| bitAt 1 e.ceReport
  | 0x1804 => BitVec.ofNat 32 e.fifo.length ||| bitAt 8 e.wrIgn ||| bitAt 9 e.jrnlActive
  | 0x1808 => e.lost
  | 0x180C => e.rollback
  | 0x1810 => fieldBits 0 e.restartCnt ||| fieldBits 16 e.restartCores
  | 0x1814 => fieldBits 0 e.unrecov
  | 0x1818 => fieldBits 0 e.ownTrc ||| fieldBits 2 e.ownSin ||| fieldBits 4 e.ownTout ||| fieldBits 6 e.ownL3
  | 0x181C => bitAt 0 e.splitSin ||| bitAt 1 e.splitL3
  | _ =>
    if o < 0x1900 ∨ 0x1A00 ≤ o then 0 else
    let c := vget e.cls (BitVec.ofNat 4 ((o - 0x1900) / 16))
    match o % 16 with
    | 0 => fieldBits 0 c.cnt
    | 4 => c.first
    | 8 => c.last
    | 12 => fieldBits 0 c.fcore ||| fieldBits 8 c.lcore
    | _ => 0

def pwrRead (s : State) (o : Nat) : W32 :=
  let p := s.pwr
  match o with
  | 0x2000 => fieldBits 0 p.cap ||| fieldBits 16 p.stepMax
  | 0x2004 => fieldBits 0 p.req ||| fieldBits 2 p.gnt ||| bitAt 4 p.aclkRun ||| bitAt 5 p.aclkHalf ||| bitAt 6 p.gntLate |||
      bitAt 7 p.gntFault ||| bitAt 8 p.wrIgn ||| fieldBits 16 p.corePg
  | 0x2008 => fieldBits 0 p.est ||| fieldBits 16 p.peak
  | 0x200C => p.ecomp
  | 0x2010 => p.eavail
  | 0x2014 => p.balCyc
  | 0x2018 => p.capCnt
  | _ =>
    if inWords o 0x2100 4 15 then (vget s.dp.meters (BitVec.ofNat 4 ((o - 0x2100) / 4))).lim
    else if inWords o 0x2140 4 15 then (vget s.dp.meters (BitVec.ofNat 4 ((o - 0x2140) / 4))).limP
    else 0

/-- The identity word: 0 until the boot ROM has written the identity fields (R398). -/
def identityWord (x : Sec) : W32 :=
  let o := x.sensed
  fieldBits 0 (o.grade.extractLsb' 0 4) ||| fieldBits 4 o.pcoreEn ||| fieldBits 12 o.life ||| fieldBits 16 (o.ownerValid.extractLsb' 0 6) |||
    fieldBits 24 (o.ownerRevoked.extractLsb' 0 6) ||| bitAt 30 o.dbgKeySet

def secRead (s : State) (o : Nat) : W32 :=
  let x := s.sec
  match o with
  | 0x2800 => x.bootAddr.setWidth 32
  | 0x2804 => fieldBits 0 (x.bootAddr.extractLsb' 32 8)
  | 0x2808 => fieldBits 0 x.bootLen
  | 0x2810 => fieldBits 0 x.bootState ||| fieldBits 8 x.bootCode ||| fieldBits 16 x.bootReason
  | 0x2830 => (if x.idShown then identityWord x else 0) ||| bitAt 31 x.keyReady
  | 0x2840 => fieldBits 4 x.attState ||| fieldBits 8 x.attCode ||| bitAt 15 x.wrIgn
  | 0x2844 => x.attAddr.setWidth 32
  | 0x2848 => fieldBits 0 (x.attAddr.extractLsb' 32 8)
  | 0x284C => x.certAddr.setWidth 32
  | 0x2850 => fieldBits 0 (x.certAddr.extractLsb' 32 8)
  | 0x2854 => fieldBits 0 x.certLen
  | 0x28A0 => fieldBits 0 x.pkgOwner
  | _ =>
    if inWords o 0x2820 4 4 then (if x.idShown then x.sensed.uid.extractLsb' (8 * (o - 0x2820)) 32 else 0)
    else if inWords o 0x2860 4 8 then vget x.nonce (BitVec.ofNat 3 ((o - 0x2860) / 4))
    else if inWords o 0x2880 4 8 then x.pkgMeas.extractLsb' (8 * (o - 0x2880)) 32
    else 0

/-! ### Twin and debug -/

def twnRead (s : State) (o : Nat) : W32 :=
  let t := s.twn
  match o with
  | 0x3000 => fieldBits 0 t.mode ||| bitAt 2 t.role ||| bitAt 6 t.auto ||| bitAt 7 t.linkEn
  | 0x3004 => BitVec.ofNat 32 (twnCode t.state) ||| bitAt 4 (linkUp t) ||| bitAt 5 t.wrIgn ||| fieldBits 8 t.reason |||
      (BitVec.ofNat 32 t.credit <<< 16)
  | 0x3008 => fieldBits 0 t.sigOfs
  | 0x300C => fieldBits 0 t.skewMax
  | 0x3010 => t.lastSeq.setWidth 32
  | 0x3014 => (t.lastSeq >>> 32).setWidth 32
  | 0x3018 => halves t.mismatch t.rerunDrop
  | 0x301C => t.abandon
  | 0x3020 => t.fcrc
  | 0x3024 => t.txShown
  | 0x3028 => t.rxShown
  | _ => 0

def dbgRead (s : State) (o : Nat) : W32 :=
  let d := s.dbg
  match o with
  | 0x3800 => dbgStatus s
  | 0x3804 => fieldBits 0 d.bpHit ||| fieldBits 8 d.bpSpec
  | 0x3808 => d.stopSeq.setWidth 32
  | 0x380C => (d.stopSeq >>> 32).setWidth 32
  | 0x3810 => fieldBits 0 d.stopTu
  | 0x3814 => if s.sec.idShown then fieldBits 0 s.sec.sensed.pcoreEn else 0
  | 0x3818 => halves d.unlockOk d.unlockBad
  | _ =>
    if o < 0x3820 ∨ 0x3860 ≤ o then 0 else
    let b := vget d.bps (BitVec.ofNat 3 ((o - 0x3820) / 8))
    match o % 8 with
    | 0 => fieldBits 0 b.cfg ||| fieldBits 16 b.hits
    | 4 => b.value
    | _ => 0

/-! ### Check units (Table 15-3) -/

/-- The unit at an offset of the window, and the offset within it. -/
def unitAt (o : Nat) : Option (UnitId × Nat) :=
  if 0x2C00 ≤ o ∧ o < 0x2D00 then some (.du (BitVec.ofNat 2 ((o - 0x2C00) / 0x40)), o % 0x40)
  else if 0x4000 ≤ o ∧ o < 0x8000 ∧ 0x400 ≤ o % 0x800 ∧ o % 0x800 < 0x480 then
    some (.cu (BitVec.ofNat 3 ((o - 0x4000) / 0x800)) (BitVec.ofNat 1 ((o % 0x800 - 0x400) / 0x40)), o % 0x40)
  else none

def unitWord (u : Cu) (now o : Nat) : W32 :=
  match o with
  | 0x00 => fieldBits 0 u.width ||| bitAt 7 u.refin ||| bitAt 8 u.refout ||| bitAt 9 u.inv ||| bitAt 10 u.foldEn ||| bitAt 11 u.src |||
      bitAt 14 (decide (now < u.busyTo)) ||| bitAt 15 u.feedErr
  | 0x04 => u.poly.setWidth 32
  | 0x08 => (u.poly >>> 32).setWidth 32
  | 0x0C => u.init.setWidth 32
  | 0x10 => (u.init >>> 32).setWidth 32
  | 0x14 => u.run.setWidth 32
  | 0x18 => (u.run >>> 32).setWidth 32
  | 0x1C => u.fold
  | 0x30 => u.result.setWidth 32
  | 0x34 => (u.result >>> 32).setWidth 32
  | 0x38 => u.count
  | _ => 0

/-! ### Core registers (Tables 4-3, 5-6, 6-5, 8-5, 9-4, 9-5, 10-6) -/

/-- CURVE_ID of a core's table t, 0 while it is not loaded (Table 8-5). -/
def tableId (v : Ve) (t : Nat) : W32 := if v.ctValid.getLsbD t then (memRead v.ctActive (512 * t + 0x8C)).setWidth 32 else 0

def tableIds (v : Ve) (t : Nat) : W32 :=
  tableId v t ||| (tableId v (t + 1) <<< 8) ||| (tableId v (t + 2) <<< 16) ||| (tableId v (t + 3) <<< 24)

/-- Q_STATE of a queue. -/
def queueState (s : State) (c : Core) (q : Queue) : Nat :=
  let e := vget c.queues (queueIndex q)
  if frozen s then 4
  else if (match c.hold with | some h => h.queues.getLsbD (queueIndex q).toNat | none => false) then 2
  else if e.cmds.isEmpty then (if e.discarded then 3 else 0) else 1

def engineWord (s : State) (c : Core) (o : Nat) : W32 :=
  let now := s.dp.cycle
  match o with
  | 0x040 => fieldBits 0 c.nflag
  | 0x100 => fieldBits 0 c.me.ibReady ||| fieldBits 4 c.me.whReady ||| bitAt 8 (c.me.runs.any (fun r => decide (r.1 ≤ now) && decide (now < r.2))) |||
      bitAt 9 (decide (now < c.me.fillIdle)) ||| bitAt 10 (!c.me.outq.isEmpty) ||| (BitVec.ofNat 32 c.me.ftq.length <<< 16)
  | 0x104 => c.me.busyShown
  | 0x108 => c.me.gateShown
  | 0x140 => bitAt 0 (decide (now < c.se.idle)) ||| fieldBits 1 c.se.op
  | 0x144 => c.se.busyShown
  | 0x148 => c.se.lamShown
  | 0x180 => bitAt 0 (decide (now < c.ve.idle)) ||| bitAt 1 c.ve.ftPend.isSome ||| fieldBits 8 c.ve.ctValid
  | 0x184 => c.ve.busyShown
  | 0x188 => c.ve.ftUnder
  | 0x18C => tableIds c.ve 0
  | 0x190 => tableIds c.ve 4
  | _ => 0

def memoryWord (m : Cmem) (o : Nat) : W32 :=
  let nat := fun (k n : Nat) => BitVec.ofNat 32 n <<< k
  match o with
  | 0x200 => nat 0 m.base
  | 0x204 => nat 0 m.rows
  | 0x208 => nat 0 m.orBase
  | 0x20C => nat 0 m.orRows
  | 0x210 => fieldBits 0 m.cacheSize ||| bitAt 2 m.inService
  | 0x214 => m.ce
  | 0x218 => fieldBits 0 m.ue
  | 0x21C => fieldBits 0 m.last ||| bitAt 23 m.lastW
  | 0x220 => nat 0 m.inbound.length
  | _ =>
    if 0x240 ≤ o ∧ o < 0x280 then
      let r := vget m.regions (BitVec.ofNat 3 ((o - 0x240) / 8))
      if o % 8 = 0 then nat 0 r.base else nat 0 r.rows ||| bitAt 14 r.w ||| bitAt 15 r.scrub ||| bitAt 16 r.valid
    else if 0x280 ≤ o ∧ o < 0x2C0 then
      let x := vget m.chans (BitVec.ofNat 3 ((o - 0x280) / 8))
      if o % 8 = 0 then nat 0 x.credit ||| nat 9 x.init ||| fieldBits 18 x.tgt ||| bitAt 21 x.en ||| fieldBits 22 x.flag
      else fieldBits 0 x.rbase ||| fieldBits 14 x.rrows
    else if 0x2C0 ≤ o ∧ o < 0x2E0 then
      let w := vget m.windows (BitVec.ofNat 2 ((o - 0x2C0) / 8))
      if o % 8 = 0 then fieldBits 0 w.base
      else fieldBits 0 w.rows ||| fieldBits 14 w.srcCore ||| bitAt 22 w.sp ||| bitAt 23 w.xp ||| bitAt 24 w.dbg ||| bitAt 25 w.opened
    else 0

def queueWord (s : State) (c : Core) (o : Nat) : W32 :=
  if o < 0x310 then
    let q := queueAt (BitVec.ofNat 2 ((o - 0x300) / 4))
    let e := vget c.queues (queueIndex q)
    fieldBits 0 e.head ||| fieldBits 9 e.rel ||| (BitVec.ofNat 32 e.cmds.length <<< 18) ||| (BitVec.ofNat 32 (queueState s c q) <<< 28)
  else match o with
  | 0x310 => c.slipShown
  | 0x314 => c.fwaitShown
  | 0x318 => c.resShown
  | 0x31C => (match c.hold with | some h => fieldBits 0 h.gate ||| fieldBits 3 (queueIndex h.queue) ||| fieldBits 5 h.flag | none => 0)
  | 0x320 => c.flg.setWidth 32
  | 0x324 => (c.flg >>> 32).setWidth 32
  | 0x338 => fieldBits 0 c.cmp
  | _ =>
    if inWords o 0x328 4 4 then
      let i := 2 * ((o - 0x328) / 4)
      halves (vget c.k (BitVec.ofNat 3 i)) (vget c.k (BitVec.ofNat 3 (i + 1)))
    else 0

/-- A register of core c; those of an absent core read 0. -/
def coreRead (s : State) (c : BitVec 3) (o : Nat) : W32 :=
  let x := vget s.dp.cores c
  if !corePresent s c then 0
  else if 0x200 ≤ o ∧ o < 0x300 then memoryWord x.cm o
  else if 0x300 ≤ o ∧ o < 0x380 then queueWord s x o
  else engineWord s x o

/-! ### Firmware-emulated registers -/

def stmWord (s : State) (o : Nat) : W32 :=
  let q := s.fwr.stm
  match o with
  | 0x8400 => BitVec.ofNat 32 s.sp.streams.length ||| (BitVec.ofNat 32 (residentCount s) <<< 16)
  | 0x8404 => BitVec.ofNat 32 (freeRows s)
  | 0x8408 => BitVec.ofNat 32 ((taskPkg s).elim 0 (fun p => p.stateBase))
  | 0x840C => BitVec.ofNat 32 ((taskPkg s).elim 0 (fun p => p.stateRows))
  | 0x8414 => fieldBits 0 q.qState ||| bitAt 3 q.qBound ||| bitAt 4 q.qCur ||| bitAt 5 q.qInit ||| bitAt 6 q.qPolicy ||| fieldBits 8 q.qPins
  | 0x8418 => q.qSeq.setWidth 32
  | 0x841C => (q.qSeq >>> 32).setWidth 32
  | 0x8420 => fieldBits 0 q.refStatus ||| fieldBits 8 q.refReason ||| fieldBits 16 q.refId
  | 0x8428 => q.imgFail
  | 0x842C => fieldBits 0 q.gateExp ||| (BitVec.ofNat 32 (s.sp.streams.filter (fun x => x.life == .draining)).length <<< 16)
  | _ => 0

def orchWord (s : State) (o : Nat) : W32 :=
  match o with
  | 0x8600 => fieldBits 0 (s.sp.lastOwner.getD 0) ||| bitAt 8 s.sp.task.isSome
  | 0x8604 => BitVec.ofNat 32 s.sp.scrub
  | 0x8608 => s.dp.orCe
  | 0x860C => fieldBits 0 s.dp.orUe
  | 0x8610 => fieldBits 0 s.dp.orLast ||| bitAt 23 s.dp.orLastW
  | _ =>
    if 0x8640 ≤ o ∧ o < 0x8740 then
      let r := s.dp.org.getD ((o - 0x8640) / 8) regionReset
      if o % 8 = 0 then BitVec.ofNat 32 r.base
      else BitVec.ofNat 32 r.rows ||| bitAt 18 r.w ||| bitAt 19 r.scrub ||| bitAt 20 r.cache ||| bitAt 21 r.lock ||| bitAt 22 r.valid
    else 0

def ldrWord (s : State) (o : Nat) : W32 :=
  let l := s.fwr.ldr
  match o with
  | 0x8A00 => fieldBits 0 l.status ||| fieldBits 8 l.reason ||| bitAt 16 l.busy
  | 0x8A04 => fieldBits 0 l.fcore ||| bitAt 3 l.fvalid ||| fieldBits 4 l.fqueue ||| fieldBits 16 l.findex
  | 0x8A08 => l.pkgId
  | 0x8A0C => fieldBits 0 l.cores ||| fieldBits 4 (s.sec.sensed.grade.extractLsb' 0 4) ||| bitAt 8 l.sloeOk ||| fieldBits 16 l.steps
  | 0x8A10 => fieldBits 0 l.places
  | 0x8A40 => l.shapeCnt
  | 0x8A44 => fieldBits 0 l.shapeDim ||| fieldBits 16 l.shapeVal
  | _ =>
    if inWords o 0x8A20 4 8 then
      match vget l.vmax (BitVec.ofNat 3 ((o - 0x8A20) / 4)) with | some v => fieldBits 0 v ||| bitAt 16 true | none => 0
    else 0

def firmwareWord (s : State) (o : Nat) : W32 :=
  let f := s.fwr.fw
  match o with
  | 0x8200 => fieldBits 0 f.level ||| bitAt 2 f.scrubbed ||| bitAt 3 f.scrubFail
  | 0x8204 => f.version
  | 0x8228 => BitVec.ofNat 32 (scrubLeft s)
  | 0x822C => fieldBits 0 f.wdtExp ||| fieldBits 16 f.wdtLast
  | 0x8230 => fieldBits 0 f.mpuFault ||| fieldBits 16 f.mpuLast
  | 0x8238 => BitVec.ofNat 32 (16 * (tracePart f false).length)
  | 0x823C => f.trcDrop
  | 0x824C => f.logLost
  | 0x8260 => halves f.dumpCnt f.dumpSkip
  | _ => if inWords o 0x8208 4 8 then vget f.meas (BitVec.ofNat 3 ((o - 0x8208) / 4)) else 0

def specWord (s : State) (o : Nat) : W32 :=
  match o with
  | 0x8C08 => bitAt 0 (specActive s) ||| bitAt 1 (predicting s) ||| bitAt 2 s.fwr.spec.cfgErr
  | 0x8C20 => fieldBits 0 s.fwr.spec.bloomRows ||| fieldBits 16 s.fwr.spec.bloomLayers
  | _ => 0

/-- RO fields of an FWR word: as last shown at a pit, or as firmware keeps them; 0 before the SP wrote the initial values. -/
def fwrRo (s : State) (o : Nat) : W32 :=
  if s.fwr.fw.level = 0 then 0 else
  match s.fwr.shown.find? (fun x => x.1 == o) with
  | some x => x.2
  | none => firmwareWord s o ||| stmWord s o ||| orchWord s o ||| ldrWord s o ||| specWord s o

/-- A read of the FWR block (R310, R314). -/
def fwrRead (s : State) (o : Nat) : W32 :=
  match o with
  | 0x8000 => bitAt 0 s.fwr.pending ||| bitAt 1 s.fwr.ovr ||| bitAt 2 s.fwr.late ||| (BitVec.ofNat 32 s.fwr.queue.length <<< 8)
  | 0x8004 => s.fwr.lateCnt
  | _ => fwrShadow s o ||| fwrRo s o

/-- A read of the CFG window; bits [1:0] of the offset are ignored (R400). -/
def cfgRead (s : State) (ofs : W16) : W32 :=
  let o := ofs.toNat / 4 * 4
  match unitAt o with
  | some (u, k) => (match getUnit s u with | some x => unitWord x s.dp.cycle k | none => 0)
  | none =>
    if o < 0x1000 then hifRead s o
    else if o < 0x1800 then tkcRead s o
    else if o < 0x2000 then errRead s o
    else if o < 0x2800 then pwrRead s o
    else if o < 0x3000 then secRead s o
    else if o < 0x3800 then twnRead s o
    else if o < 0x4000 then dbgRead s o
    else if o < 0x8000 then coreRead s (BitVec.ofNat 3 ((o - 0x4000) / 0x800)) (o % 0x800)
    else fwrRead s o

end Sys2Proof.Machine
end

