-- ==== Sys2Proof/Machine/Cfg.lean ====
section
/-!
DEFINITION. Machine/Cfg: CFG_WRITE, a write of one 32-bit word of the register window with byte strobes (14_host_rings R309, R310,
R313; 20_integration R400), register by register: the driver's writes, and an owner's writes of its check unit and of its core's
windows through the internal path (09_scratchpads R222; 15_check_units R323). RO and RSVD fields keep their values.
-/
namespace Sys2Proof.Machine

/-- Some lane of the bytes [a, b] is written. -/
def laneIn (strb : BitVec 4) (a b : Nat) : Bool := (List.range 4).any (fun k => strb.getLsbD k && decide (a ≤ k) && decide (k ≤ b))

/-! ### Host interface (Table 14-8) -/

/-- HIF_TICK_RING, HIF_OUT_RING, HIF_OSIG_EN and HIF_KILL (R313). -/
def writeHifCtl (s : State) (m raw : W32) : State :=
  let tr := m.extractLsb' 0 4
  let out := m.extractLsb' 4 4
  let changed := tr != s.hif.tickRing || out != s.hif.outRing
  let h := { s.hif with osigEn := m.getLsbD 8 }
  let h := if !changed then h else if ticksOff s then { h with tickRing := tr, outRing := out } else { h with wrIgn := true }
  let s := { s with hif := h }
  if raw.getLsbD 16 then kill s else s

/-- BASE of a submission ring changes only while it is disabled (R291). -/
def writeSqBase (s : State) (n : BitVec 4) (lo : BitVec 20) (hi : Byte) : State :=
  let r := vget s.hif.sqs n
  if lo == r.baseLo && hi == r.baseHi then s
  else if r.enable then { s with hif := { s.hif with wrIgn := true } }
  else { s with hif := { s.hif with sqs := vset s.hif.sqs n { r with baseLo := lo, baseHi := hi } } }

/-- BASE of a ring the device produces. -/
def writeRingBase (s : State) (id : RingId) (lo : BitVec 20) (hi : Byte) : State :=
  match getRing s id with
  | none => s
  | some r =>
    if lo == r.baseLo && hi == r.baseHi then s
    else if r.enable then { s with hif := { s.hif with wrIgn := true } }
    else setRing s id { r with baseLo := lo, baseHi := hi }

/-- A word of a submission ring. -/
def writeSq (s : State) (n : BitVec 4) (k : Nat) (m : W32) : State :=
  let r := vget s.hif.sqs n
  match k with
  | 0x0 => writeSqBase s n (m.extractLsb' 12 20) r.baseHi
  | 0x4 => writeSqBase s n r.baseLo (m.extractLsb' 0 8)
  | 0x8 => ringConfig s (.sq n) m
  | _ => s

/-- A word of a ring the device produces. -/
def writeRing (s : State) (id : RingId) (k : Nat) (m : W32) : State :=
  match getRing s id with
  | none => s
  | some r =>
    match k with
    | 0x00 => writeRingBase s id (m.extractLsb' 12 20) r.baseHi
    | 0x04 => writeRingBase s id r.baseLo (m.extractLsb' 0 8)
    | 0x08 => ringConfig s id m
    | 0x0C => writeHead s id (m.extractLsb' 0 12)
    | _ => s

def hifWrite (s : State) (o : Nat) (m raw : W32) (strb : BitVec 4) : State :=
  let h := s.hif
  if o < 0x40 then (if laneIn strb 0 1 then doorbell s (BitVec.ofNat 4 (o / 4)) m else s)
  else if o = 0x40 then writeHifCtl s m raw
  else if o = 0x44 then
    { s with hif := { h with dbErr := h.dbErr && !raw.getLsbD 0, wrIgn := h.wrIgn && !raw.getLsbD 1,
                             memErr := h.memErr && !raw.getLsbD 2 } }
  else if o = 0x48 then { s with hif := { h with irqMask := m.extractLsb' 0 3 } }
  else if 0x100 ≤ o ∧ o < 0x200 then writeSq s (BitVec.ofNat 4 ((o - 0x100) / 16)) (o % 16) m
  else if 0x200 ≤ o ∧ o < 0x400 then writeRing s (.cq (BitVec.ofNat 4 ((o - 0x200) / 32))) (o % 32) m
  else if 0x400 ≤ o ∧ o < 0x420 then writeRing s .evt (o % 32) m
  else if 0x420 ≤ o ∧ o < 0x440 then writeRing s .err (o % 32) m
  else if 0x440 ≤ o ∧ o < 0x460 then writeRing s .log (o % 32) m
  else s

/-! ### The tick block (R31, Tables 2-5 to 2-7) -/

/-- PERIOD, the offsets and EXT_TOL are written only while no tick runs. -/
def writeTiming (s : State) (o : Nat) (v : BitVec 21) : State :=
  if !ticksOff s then { s with tkc := { s.tkc with wrIgn := true } } else
  let t := s.tkc
  match o with
  | 0x1008 => { s with tkc := { t with period := v } }
  | 0x100C => { s with tkc := { t with dispOfs := v } }
  | 0x1010 => { s with tkc := { t with compOfs := v } }
  | 0x1014 => { s with tkc := { t with deadOfs := v } }
  | _ => { s with tkc := { t with extTol := v } }

def tkcWrite (s : State) (o : Nat) (m raw : W32) (strb : BitVec 4) : State :=
  match o with
  | 0x1000 => if strb.getLsbD 0 then writeTkcCtrl s (m.getLsbD 0) (m.getLsbD 1) (m.getLsbD 2) (m.getLsbD 3) else s
  | 0x1004 => { s with tkc := { s.tkc with wrIgn := s.tkc.wrIgn && !raw.getLsbD 6 } }
  | _ => if inWords o 0x1008 4 5 ∧ laneIn strb 0 2 then writeTiming s o (m.extractLsb' 0 21) else s

/-! ### Errors (Table 17-6) -/

/-- ERR_JRNL_EN changes only while no tick runs (R350). -/
def writeErrCtl (s : State) (jrnl ce : Bool) : State :=
  let e := { s.err with ceReport := ce }
  { s with err := if jrnl == e.jrnlEn then e else if ticksOff s then { e with jrnlEn := jrnl } else { e with wrIgn := true } }

/-- A split mode changes only while neither user holds the resource (R354). -/
def writeSplit (e : Err) (sin l3 : Bool) : Err :=
  let e := if sin == e.splitSin then e else if e.ownSin = 0 then { e with splitSin := sin } else { e with wrIgn := true }
  if l3 == e.splitL3 then e else if e.ownL3 = 0 then { e with splitL3 := l3 } else { e with wrIgn := true }

def errWrite (s : State) (o : Nat) (m raw : W32) : State :=
  match o with
  | 0x1800 => writeErrCtl s (m.getLsbD 0) (m.getLsbD 1)
  | 0x1804 => { s with err := { s.err with wrIgn := s.err.wrIgn && !raw.getLsbD 8 } }
  | 0x181C => { s with err := writeSplit s.err (m.getLsbD 0) (m.getLsbD 1) }
  | 0x1820 => { s with err := clearClasses s.err (raw.extractLsb' 0 16) }
  | _ => s

/-! ### Power and security (Tables 16-4, 19-6, 19-7) -/

def pwrWrite (s : State) (o : Nat) (value raw : W32) (strb : BitVec 4) : State :=
  match o with
  | 0x2000 => writeCap s value strb
  | 0x2004 => { s with pwr := { s.pwr with wrIgn := s.pwr.wrIgn && !raw.getLsbD 8 } }
  | _ => s

/-- A 40-bit address, aligned to 512 bytes, whose low or high word is written. -/
def addrLo (a : BitVec 40) (m : W32) : BitVec 40 := (a.extractLsb' 32 8 ++ m.extractLsb' 9 23 ++ 0#9).setWidth 40
def addrHi (a : BitVec 40) (m : W32) : BitVec 40 := (m.extractLsb' 0 8 ++ a.extractLsb' 0 32).setWidth 40

/-- SEC_BOOT registers are taken in WAIT and FAILED only (R326). -/
def bootWrite (s : State) (o : Nat) (m raw : W32) : State :=
  let x := s.sec
  if x.bootState ≠ 0 ∧ x.bootState ≠ 5 then s else
  match o with
  | 0x2800 => { s with sec := { x with bootAddr := addrLo x.bootAddr m } }
  | 0x2804 => { s with sec := { x with bootAddr := addrHi x.bootAddr m } }
  | 0x2808 => { s with sec := { x with bootLen := m.extractLsb' 0 22 } }
  | _ => if raw.getLsbD 0 then bootGo s else s

/-- SEC_ATT registers; while busy a write is ignored and sets SEC_WR_IGN (R392). -/
def attWrite (s : State) (o : Nat) (m raw : W32) : State :=
  let x := s.sec
  if o = 0x2840 then
    let s := { s with sec := { x with wrIgn := x.wrIgn && !raw.getLsbD 15 } }
    if raw.getLsbD 0 || raw.getLsbD 1 then attestGo s (raw.getLsbD 0) (raw.getLsbD 1) else s
  else if x.attState = 1 then { s with sec := { x with wrIgn := true } }
  else match o with
  | 0x2844 => { s with sec := { x with attAddr := addrLo x.attAddr m } }
  | 0x2848 => { s with sec := { x with attAddr := addrHi x.attAddr m } }
  | 0x284C => { s with sec := { x with certAddr := addrLo x.certAddr m } }
  | 0x2850 => { s with sec := { x with certAddr := addrHi x.certAddr m } }
  | _ => { s with sec := { x with nonce := vset x.nonce (BitVec.ofNat 3 ((o - 0x2860) / 4)) m } }

def secWrite (s : State) (o : Nat) (m raw : W32) : State :=
  if inWords o 0x2800 4 4 then bootWrite s o m raw
  else if inWords o 0x2840 4 5 ∨ inWords o 0x2860 4 8 then attWrite s o m raw
  else s

/-! ### Twin (Table 18-7) -/

/-- TWN_CTRL: MODE and ROLE change only in UNPAIRED (R360); then the commands written 1. -/
def twnCtrl (s : State) (m raw : W32) : State :=
  let t := s.twn
  let mode := m.extractLsb' 0 2
  let role := m.getLsbD 2
  let t' := { t with auto := m.getLsbD 6, linkEn := m.getLsbD 7 }
  let t' := if mode == t.mode && role == t.role then t'
    else if t.state = .unpaired then { t' with mode := mode, role := role } else { t' with wrIgn := true }
  let s := flushLink { s with twn := t' }
  let s := if raw.getLsbD 3 then twnAttach s else s
  let s := if raw.getLsbD 4 then twnDetach s else s
  if raw.getLsbD 5 then twnTakeover s else s

def twnWrite (s : State) (o : Nat) (m raw : W32) : State :=
  let t := s.twn
  let free := t.state == .unpaired
  match o with
  | 0x3000 => twnCtrl s m raw
  | 0x3004 => { s with twn := { t with wrIgn := t.wrIgn && !raw.getLsbD 5 } }
  | 0x3008 => { s with twn := if free then { t with sigOfs := m.extractLsb' 0 21 } else { t with wrIgn := true } }
  | 0x300C => { s with twn := if free then { t with skewMax := m.extractLsb' 0 16 } else { t with wrIgn := true } }
  | _ => s

/-! ### Cores and check units -/

/-- NFLAG of core c: a flag written 1 is cleared (R99). -/
def coreWrite (s : State) (c : BitVec 3) (k : Nat) (raw : W32) : State :=
  if corePresent s c ∧ k = 0x40 then
    { s with dp := s.dp.modCore c (fun x => x.clearNflag (raw.extractLsb' 0 16) s.dp.cycle) }
  else s

/-- CFG of a check unit (R319, R321): a WIDTH outside 8 to 64 leaves the configuration as it was and sets FEED_ERR. -/
def Cu.configure (u : Cu) (m raw : W32) : Cu :=
  let w := m.extractLsb' 0 7
  let u := { u with feedErr := u.feedErr && !raw.getLsbD 15 }
  if w.toNat < 8 ∨ 64 < w.toNat then { u with feedErr := true }
  else
    let u := { u with fresh := false, width := w, refin := m.getLsbD 7, refout := m.getLsbD 8, inv := m.getLsbD 9, foldEn := m.getLsbD 10, src := m.getLsbD 11 }
    u.preset (raw.extractLsb' 12 2)

/-- A 64-bit value whose low or high word is written. -/
def wordLo (v : W64) (m : W32) : W64 := v.extractLsb' 32 32 ++ m
def wordHi (v : W64) (m : W32) : W64 := m ++ v.extractLsb' 0 32

/-- A word of a check unit, written by its owner (Table 15-3). -/
def Cu.write (u : Cu) (k : Nat) (m raw : W32) (now : Nat) : Cu :=
  match k with
  | 0x00 => u.configure m raw
  | 0x04 => { u with poly := wordLo u.poly m }
  | 0x08 => { u with poly := wordHi u.poly m }
  | 0x0C => { u with init := wordLo u.init m }
  | 0x10 => { u with init := wordHi u.init m }
  | 0x14 => { u with run := wordLo u.run m, fresh := false }
  | 0x18 => { u with run := wordHi u.run m, fresh := false }
  | 0x1C => { u with fold := m }
  | 0x20 => if raw.getLsbD 0 then u.start u.src u.fold now else u
  | 0x24 => u.feed false [raw.extractLsb' 0 8] 1 now
  | 0x28 => u.feed false [raw.extractLsb' 0 8, raw.extractLsb' 8 8] 2 now
  | 0x2C => u.feed false (foldBytes raw) 4 now
  | 0x38 => { u with count := m }
  | _ => u

/-- A word of window w of core c, written by its CP (R215, R222). -/
def writeWindow (s : State) (c : BitVec 3) (w : BitVec 2) (hi : Bool) (m : W32) : State :=
  if !cpRuns s c then s else
  let set := fun (x : Window) =>
    if hi then { x with rows := m.extractLsb' 0 14, srcCore := m.extractLsb' 14 8, sp := m.getLsbD 22, xp := m.getLsbD 23,
                        dbg := m.getLsbD 24, opened := m.getLsbD 25 }
    else { x with base := m.extractLsb' 0 14 }
  { s with dp := s.dp.modCore c (fun x => { x with cm := { x.cm with windows := vset x.cm.windows w (set (vget x.cm.windows w)) } }) }

/-- A write through an owner's internal path: its check unit, or its core's windows. -/
def ownerWrite (s : State) (o : Nat) (m raw : W32) : State :=
  match unitAt o with
  | some (u, k) => modUnit s u (fun x => x.write k m raw s.dp.cycle)
  | none =>
    let k := o % 0x800
    if 0x4000 ≤ o ∧ o < 0x8000 ∧ inWords k 0x2C0 4 8 then
      writeWindow s (BitVec.ofNat 3 ((o - 0x4000) / 0x800)) (BitVec.ofNat 2 ((k - 0x2C0) / 8)) (k % 8 == 4) m
    else s

/-- A write from the CFG window. -/
def driverWrite (s : State) (o : Nat) (value m raw : W32) (strb : BitVec 4) : State :=
  if o < 0x1000 then hifWrite s o m raw strb
  else if o < 0x1800 then tkcWrite s o m raw strb
  else if o < 0x2000 then errWrite s o m raw
  else if o < 0x2800 then pwrWrite s o value raw strb
  else if o < 0x3000 then secWrite s o m raw
  else if o < 0x3800 then twnWrite s o m raw
  else if o < 0x4000 then s
  else if o < 0x8000 then coreWrite s (BitVec.ofNat 3 ((o - 0x4000) / 0x800)) (o % 0x800) raw
  else fwrAccept s (BitVec.ofNat 16 o) value strb

/-- A write of the window: offset bits [1:0] are ignored (R400); bytes whose strobe is 0 keep their value, and a W1C or W1S bit
there acts as 0 (R402). A write with no strobe set changes no hardware register. -/
def cfgWrite (s : State) (ofs : W16) (value : W32) (strb : BitVec 4) (via : Via) : State :=
  let o := ofs.toNat / 4 * 4
  let m := mergeBytes (cfgRead s ofs) value strb
  let raw := mergeBytes 0 value strb
  match via with
  | .cfg => if strb = 0 ∧ o < 0x8000 then s else driverWrite s o value m raw strb
  | .owner => if strb = 0 then s else ownerWrite s o m raw

/-- CFG_WRITE. -/
def execCfgWrite (ofs : W16) (value : W32) (strb : BitVec 4) (via : Via) (s : State) : Host.Outcome State Fault Refusal :=
  .next (cfgWrite s ofs value strb via)

end Sys2Proof.Machine
end

