-- ==== Sys2Proof/Machine/Dispatch.lean ====
section
/-!
DEFINITION. Machine/Dispatch: the one arm per command of Syntax.lean.
-/
namespace Sys2Proof.Machine

/-- The command's effect on everything but the queue of waiting commands. -/
def exec (i : Instr) (s : State) : Host.Outcome State Fault Refusal :=
  match i with
  | .nop a0 a1 => Sys2Proof.Machine.execNop a0 a1 s
  | .fset a0 a1 a2 a3 => Sys2Proof.Machine.execFset a0 a1 a2 a3 s
  | .fclr a0 a1 a2 a3 => Sys2Proof.Machine.execFclr a0 a1 a2 a3 s
  | .fwait a0 a1 a2 a3 a4 a5 a6 => Sys2Proof.Machine.execFwait a0 a1 a2 a3 a4 a5 a6 s
  | .kset a0 a1 a2 a3 => Sys2Proof.Machine.execKset a0 a1 a2 a3 s
  | .kadd a0 a1 a2 a3 => Sys2Proof.Machine.execKadd a0 a1 a2 a3 s
  | .cset a0 a1 a2 a3 a4 a5 => Sys2Proof.Machine.execCset a0 a1 a2 a3 a4 a5 s
  | .wclaim a0 a1 a2 a3 a4 a5 a6 => Sys2Proof.Machine.execWclaim a0 a1 a2 a3 a4 a5 a6 s
  | .wrst a0 a1 a2 a3 => Sys2Proof.Machine.execWrst a0 a1 a2 a3 s
  | .mm a0 a1 => Sys2Proof.Machine.execMm a0 a1 s
  | .wfill a0 a1 => Sys2Proof.Machine.execWfill a0 a1 s
  | .tload a0 a1 => Sys2Proof.Machine.execTload a0 a1 s
  | .smix a0 a1 => Sys2Proof.Machine.execSmix a0 a1 s
  | .sout a0 a1 => Sys2Proof.Machine.execSout a0 a1 s
  | .scarry a0 a1 => Sys2Proof.Machine.execScarry a0 a1 s
  | .vmov a0 a1 => Sys2Proof.Machine.execVmov a0 a1 s
  | .vadd a0 a1 => Sys2Proof.Machine.execVadd a0 a1 s
  | .vsub a0 a1 => Sys2Proof.Machine.execVsub a0 a1 s
  | .vmul a0 a1 => Sys2Proof.Machine.execVmul a0 a1 s
  | .vmac a0 a1 => Sys2Proof.Machine.execVmac a0 a1 s
  | .vmax a0 a1 => Sys2Proof.Machine.execVmax a0 a1 s
  | .vmin a0 a1 => Sys2Proof.Machine.execVmin a0 a1 s
  | .vabs a0 a1 => Sys2Proof.Machine.execVabs a0 a1 s
  | .vneg a0 a1 => Sys2Proof.Machine.execVneg a0 a1 s
  | .vclp a0 a1 => Sys2Proof.Machine.execVclp a0 a1 s
  | .vcmp a0 a1 => Sys2Proof.Machine.execVcmp a0 a1 s
  | .vsel a0 a1 => Sys2Proof.Machine.execVsel a0 a1 s
  | .vcrv a0 a1 => Sys2Proof.Machine.execVcrv a0 a1 s
  | .vconv a0 a1 => Sys2Proof.Machine.execVconv a0 a1 s
  | .vrsum a0 a1 => Sys2Proof.Machine.execVrsum a0 a1 s
  | .vrssq a0 a1 => Sys2Proof.Machine.execVrssq a0 a1 s
  | .vrmax a0 a1 => Sys2Proof.Machine.execVrmax a0 a1 s
  | .vld a0 a1 => Sys2Proof.Machine.execVld a0 a1 s
  | .vst a0 a1 => Sys2Proof.Machine.execVst a0 a1 s
  | .vib a0 a1 => Sys2Proof.Machine.execVib a0 a1 s
  | .vft a0 a1 => Sys2Proof.Machine.execVft a0 a1 s
  | .vtopk a0 a1 => Sys2Proof.Machine.execVtopk a0 a1 s
  | .vwadd a0 a1 => Sys2Proof.Machine.execVwadd a0 a1 s
  | .vctl a0 a1 => Sys2Proof.Machine.execVctl a0 a1 s
  | .dmove a0 a1 => Sys2Proof.Machine.execDmove a0 a1 s
  | .dmovex a0 a1 => Sys2Proof.Machine.execDmovex a0 a1 s
  | .dremote a0 a1 => Sys2Proof.Machine.execDremote a0 a1 s
  | .dcret a0 a1 => Sys2Proof.Machine.execDcret a0 a1 s
  | .dmem a0 a1 => Sys2Proof.Machine.execDmem a0 a1 s
  | .dgather a0 a1 => Sys2Proof.Machine.execDgather a0 a1 s
  | .dmemComplete a0 a1 a2 => Sys2Proof.Machine.execDmemComplete a0 a1 a2 s
  | .inboundRowLand a0 a1 => Sys2Proof.Machine.execInboundRowLand a0 a1 s
  | .queueWrite a0 a1 a2 => Sys2Proof.Machine.execQueueWrite a0 a1 a2 s
  | .blockRelease a0 a1 a2 => Sys2Proof.Machine.execBlockRelease a0 a1 a2 s
  | .windowChange a0 a1 a2 a3 a4 a5 a6 a7 a8 => Sys2Proof.Machine.execWindowChange a0 a1 a2 a3 a4 a5 a6 a7 a8 s
  | .tick a0 => Sys2Proof.Machine.execTick a0 s
  | .controlBlock a0 a1 => Sys2Proof.Machine.execControlBlock a0 a1 s
  | .errorBlock a0 a1 => Sys2Proof.Machine.execErrorBlock a0 a1 s
  | .register a0 => Sys2Proof.Machine.execRegister a0 s
  | .unregister a0 => Sys2Proof.Machine.execUnregister a0 s
  | .swapIn a0 => Sys2Proof.Machine.execSwapIn a0 s
  | .swapOut a0 => Sys2Proof.Machine.execSwapOut a0 s
  | .bind a0 => Sys2Proof.Machine.execBind a0 s
  | .unbind a0 => Sys2Proof.Machine.execUnbind a0 s
  | .writeInit a0 => Sys2Proof.Machine.execWriteInit a0 s
  | .clearInit a0 => Sys2Proof.Machine.execClearInit a0 s
  | .load a0 => Sys2Proof.Machine.execLoad a0 s
  | .unload a0 => Sys2Proof.Machine.execUnload a0 s
  | .nopDescriptor a0 => Sys2Proof.Machine.execNopDescriptor a0 s
  | .packageCheck a0 => Sys2Proof.Machine.execPackageCheck a0 s
  | .loaderFill => Sys2Proof.Machine.execLoaderFill s
  | .imageCheck a0 a1 a2 => Sys2Proof.Machine.execImageCheck a0 a1 a2 s
  | .swapOutComplete a0 a1 => Sys2Proof.Machine.execSwapOutComplete a0 a1 s
  | .initImageLanded a0 a1 a2 => Sys2Proof.Machine.execInitImageLanded a0 a1 a2 s
  | .tickBoundary => Sys2Proof.Machine.execTickBoundary s
  | .flywheelBoundary => Sys2Proof.Machine.execFlywheelBoundary s
  | .tkcExtWait => Sys2Proof.Machine.execTkcExtWait s
  | .dispatch => Sys2Proof.Machine.execDispatch s
  | .computeStart => Sys2Proof.Machine.execComputeStart s
  | .pit => Sys2Proof.Machine.execPit s
  | .publish => Sys2Proof.Machine.execPublish s
  | .earlyIntake => Sys2Proof.Machine.execEarlyIntake s
  | .earlyDispatch => Sys2Proof.Machine.execEarlyDispatch s
  | .timeout a0 a1 => Sys2Proof.Machine.execTimeout a0 a1 s
  | .waitCycle a0 => Sys2Proof.Machine.execWaitCycle a0 s
  | .tileReadyLimit a0 => Sys2Proof.Machine.execTileReadyLimit a0 s
  | .gateResolve a0 => Sys2Proof.Machine.execGateResolve a0 s
  | .chainRestart a0 a1 a2 => Sys2Proof.Machine.execChainRestart a0 a1 a2 s
  | .eccWriteBack a0 => Sys2Proof.Machine.execEccWriteBack a0 s
  | .errorFifoDrain => Sys2Proof.Machine.execErrorFifoDrain s
  | .errClsClr a0 => Sys2Proof.Machine.execErrClsClr a0 s
  | .watchdogExpiry a0 => Sys2Proof.Machine.execWatchdogExpiry a0 s
  | .watchdogKick a0 => Sys2Proof.Machine.execWatchdogKick a0 s
  | .mpuFault a0 => Sys2Proof.Machine.execMpuFault a0 s
  | .logEntry a0 a1 a2 a3 => Sys2Proof.Machine.execLogEntry a0 a1 a2 a3 s
  | .tracePacket a0 a1 a2 a3 a4 a5 => Sys2Proof.Machine.execTracePacket a0 a1 a2 a3 a4 a5 s
  | .fwrWrite a0 a1 a2 => Sys2Proof.Machine.execFwrWrite a0 a1 a2 s
  | .fwrWriteApply => Sys2Proof.Machine.execFwrWriteApply s
  | .fwrLate => Sys2Proof.Machine.execFwrLate s
  | .cfgWrite a0 a1 a2 a3 => Sys2Proof.Machine.execCfgWrite a0 a1 a2 a3 s
  | .tkcRunStart a0 a1 a2 => Sys2Proof.Machine.execTkcRunStart a0 a1 a2 s
  | .tkcRunStop a0 a1 a2 => Sys2Proof.Machine.execTkcRunStop a0 a1 a2 s
  | .tkcOutEn a0 a1 => Sys2Proof.Machine.execTkcOutEn a0 a1 s
  | .tkcSeqLoRead => Sys2Proof.Machine.execTkcSeqLoRead s
  | .hifDb a0 a1 => Sys2Proof.Machine.execHifDb a0 a1 s
  | .hifKill => Sys2Proof.Machine.execHifKill s
  | .ringEnable a0 a1 => Sys2Proof.Machine.execRingEnable a0 a1 s
  | .head a0 a1 => Sys2Proof.Machine.execHead a0 a1 s
  | .ringEntryWritten a0 a1 => Sys2Proof.Machine.execRingEntryWritten a0 a1 s
  | .start a0 a1 a2 => Sys2Proof.Machine.execStart a0 a1 a2 s
  | .preset a0 a1 => Sys2Proof.Machine.execPreset a0 a1 s
  | .dataB a0 a1 => Sys2Proof.Machine.execDataB a0 a1 s
  | .dataH a0 a1 => Sys2Proof.Machine.execDataH a0 a1 s
  | .dataW a0 a1 => Sys2Proof.Machine.execDataW a0 a1 s
  | .rowFeed a0 a1 => Sys2Proof.Machine.execRowFeed a0 a1 s
  | .runWrite a0 a1 a2 => Sys2Proof.Machine.execRunWrite a0 a1 a2 s
  | .secBootGo => Sys2Proof.Machine.execSecBootGo s
  | .bootRelease a0 a1 a2 a3 => Sys2Proof.Machine.execBootRelease a0 a1 a2 a3 s
  | .initScrubComplete a0 => Sys2Proof.Machine.execInitScrubComplete a0 s
  | .secAttGo a0 => Sys2Proof.Machine.execSecAttGo a0 s
  | .secCertGo => Sys2Proof.Machine.execSecCertGo s
  | .attestationDone a0 => Sys2Proof.Machine.execAttestationDone a0 s
  | .pwrCap a0 a1 => Sys2Proof.Machine.execPwrCap a0 a1 s
  | .pwrGnt a0 => Sys2Proof.Machine.execPwrGnt a0 s
  | .powerFault a0 => Sys2Proof.Machine.execPowerFault a0 s
  | .pwrGntLate => Sys2Proof.Machine.execPwrGntLate s
  | .ballastWindow a0 a1 => Sys2Proof.Machine.execBallastWindow a0 a1 s
  | .poresetN => Sys2Proof.Machine.execPoresetN s
  | .rstN => Sys2Proof.Machine.execRstN s
  | .tickIn => Sys2Proof.Machine.execTickIn s
  | .sinPacket a0 a1 a2 a3 => Sys2Proof.Machine.execSinPacket a0 a1 a2 a3 s
  | .twnAttach => Sys2Proof.Machine.execTwnAttach s
  | .twnDetach => Sys2Proof.Machine.execTwnDetach s
  | .twnTakeover => Sys2Proof.Machine.execTwnTakeover s
  | .align a0 a1 => Sys2Proof.Machine.execAlign a0 a1 s
  | .sig a0 a1 a2 a3 => Sys2Proof.Machine.execSig a0 a1 a2 a3 s
  | .verdict a0 a1 a2 a3 a4 a5 => Sys2Proof.Machine.execVerdict a0 a1 a2 a3 a4 a5 s
  | .delta a0 a1 a2 a3 a4 => Sys2Proof.Machine.execDelta a0 a1 a2 a3 a4 s
  | .deltaEnd a0 a1 a2 a3 => Sys2Proof.Machine.execDeltaEnd a0 a1 a2 a3 s
  | .hello a0 => Sys2Proof.Machine.execHello a0 s
  | .ctrlDetach a0 => Sys2Proof.Machine.execCtrlDetach a0 s
  | .stateRequest a0 => Sys2Proof.Machine.execStateRequest a0 s
  | .streamTableChange a0 a1 => Sys2Proof.Machine.execStreamTableChange a0 a1 s
  | .selfTestResult a0 => Sys2Proof.Machine.execSelfTestResult a0 s
  | .twlTxCrd => Sys2Proof.Machine.execTwlTxCrd s
  | .twlRxUp a0 => Sys2Proof.Machine.execTwlRxUp a0 s
  | .linkDown => Sys2Proof.Machine.execLinkDown s
  | .sealTick => Sys2Proof.Machine.execSealTick s
  | .verdictDeadline => Sys2Proof.Machine.execVerdictDeadline s
  | .selftestEnd a0 a1 => Sys2Proof.Machine.execSelftestEnd a0 a1 s
  | .deltaSend => Sys2Proof.Machine.execDeltaSend s
  | .deltaAbandon => Sys2Proof.Machine.execDeltaAbandon s
  | .syncComplete => Sys2Proof.Machine.execSyncComplete s
  | .tapReset => Sys2Proof.Machine.execTapReset s
  | .idcode => Sys2Proof.Machine.execIdcode s
  | .dbgStat => Sys2Proof.Machine.execDbgStat s
  | .dbgChal a0 => Sys2Proof.Machine.execDbgChal a0 s
  | .dbgResp a0 a1 a2 => Sys2Proof.Machine.execDbgResp a0 a1 a2 s
  | .unlockDecision a0 a1 a2 => Sys2Proof.Machine.execUnlockDecision a0 a1 a2 s
  | .dbgData a0 => Sys2Proof.Machine.execDbgData a0 s
  | .otpProg a0 a1 => Sys2Proof.Machine.execOtpProg a0 a1 s
  | .bypass => Sys2Proof.Machine.execBypass s
  | .freeze => Sys2Proof.Machine.execFreeze s
  | .halt => Sys2Proof.Machine.execHalt s
  | .resume => Sys2Proof.Machine.execResume s
  | .stepCmd a0 => Sys2Proof.Machine.execStepCmd a0 s
  | .stepTick => Sys2Proof.Machine.execStepTick s
  | .read a0 => Sys2Proof.Machine.execRead a0 s
  | .write a0 => Sys2Proof.Machine.execWrite a0 s
  | .bpSet a0 => Sys2Proof.Machine.execBpSet a0 s
  | .bpClr a0 => Sys2Proof.Machine.execBpClr a0 s
  | .claim a0 => Sys2Proof.Machine.execClaim a0 s
  | .lock => Sys2Proof.Machine.execLock s
  | .embeddingFetchComplete a0 a1 a2 => Sys2Proof.Machine.execEmbeddingFetchComplete a0 a1 a2 s
  | .frameDiscard a0 => Sys2Proof.Machine.execFrameDiscard a0 s
  | .reservedTypeDescriptor a0 a1 => Sys2Proof.Machine.execReservedTypeDescriptor a0 a1 s

end Sys2Proof.Machine
end

