-- ==== Sys2Proof/Machine/Idle.lean ====
section
/-!
DEFINITION. Machine/Idle: what a step does when no command waits (DESIGN CHOICE, log 1): the boot ROM's identity fields appear (R398), or one ACLK
cycle passes where nothing of the plan falls due (R28); while frozen, effects on their way land (R420).
-/
namespace Sys2Proof.Machine

/-- The block with no command waiting. DESIGN CHOICE (log 1). -/
def idle (s : State) : State :=
  if !s.sec.idShown then senseIdentity s
  else if mayReach s 1 || (frozen s && s.pwr.aclkRun) then s.pass 1
  else s

end Sys2Proof.Machine
end

