-- ==== Sys2Proof/Safety.lean ====
section
/-!
DEFINITION. Safety: the words the statements are written in: when an engine command falls due, what a step leaves alone, the
canonical form of every memory, and the results the spec gives the lane-wise VE commands.
-/
namespace Sys2Proof.Safety
open Sys2Proof.Machine

/-! ### Engine commands -/

/-- Core c of a state. -/
abbrev coreOf (s : State) (c : BitVec 3) : Core := vget s.dp.cores c

/-- No early tick computes, so no core turns to one when it issues its last command (R269). -/
def noEarlyWork (s : State) : Bool := match s.sp.early with | some e => !e.computing | none => true

/-- Engine command c, with issue record i, is the next command of queue q and falls due in this cycle: its codes and its
format entries are legal, its core computes, time runs, no gate holds the core, and its control processor waits for no room in a
queue (R17, R19, R224, R231, R236). -/
def dueNow (s : State) (c : Instr) (i : Iss) (q : Queue) : Bool :=
  decide (issOf c = some i) && decide (queueOf c = some q) && c.wf && (tableFmtis c).all (fmtiOk (coreOf s i.core)) &&
    decide (issueWait s i q c = some 0) && (holders s i q c).isEmpty && noEarlyWork s && (coreOf s i.core).cpWait.isEmpty

/-- The command's predicate holds (Table 10-1). -/
abbrev runs (s : State) (i : Iss) : Bool := predOn (coreOf s i.core) i.hdr

/-- The datapath with the head of queue q of core c taken, and the core's hold ended. -/
def popped (s : State) (c : BitVec 3) (q : Queue) : Dp := s.dp.modCore c (fun x => x.pop q)

/-- Beside the datapath, t differs from s at most in the debug port and in the pulse on TICK_OUT: what a comparator that matches an
issue changes (R424). -/
def sameBeside (s t : State) : Prop :=
  { t with dp := s.dp, dbg := s.dbg, tkc := { t.tkc with pulse := s.tkc.pulse } } = s

/-- Of the datapath, only core c may differ, and of it only its queue q, its hold and what `keep` carries over; and the effects `l` are
on their way behind those that were: each with its cycles from now. -/
def onlyCore (s t : State) (c : BitVec 3) (q : Queue) (keep : Core → Core → Core) (l : List (Nat × Landing)) : Prop :=
  t.dp = { s.dp.setCore c (keep (coreOf t c) ((coreOf s c).pop q)) with landings := s.dp.landings ++ l }

/-- How far the writes of a core's packets' commands reach. -/
def keepEnds (y x : Core) : Core := { x with pktEnds := y.pktEnds }

/-- That, and the core's sticky flags. -/
def keepFlags (y x : Core) : Core :=
  { keepEnds y x with nflag := y.nflag, nflagNew := y.nflagNew, nflagCyc := y.nflagCyc, nflagHeld := y.nflagHeld }

/-- The VE, the ME, both, and the SE of a core, with its sticky flags. -/
def keepVe (y x : Core) : Core := { keepFlags y x with ve := y.ve }
def keepMe (y x : Core) : Core := { keepFlags y x with me := y.me }
def keepVeMe (y x : Core) : Core := { keepFlags y x with ve := y.ve, me := y.me }
def keepSe (y x : Core) : Core := { keepFlags y x with se := y.se }

/-- The VE busy with a command of occupancy o that issues in device cycle n and whose results are readable from I + o + lat (R180,
R196). -/
def veBusyWith (x : Ve) (n o lat : Nat) : Ve := { x with busyCyc := x.busyCyc + BitVec.ofNat 32 o, idle := max x.idle (n + o + lat) }

/-- Flags that a command of tick k raises: added to COREc_NFLAG, or held with the Bloom slots while that tick is speculative (R101). -/
def flagsOfTick (s t : State) (c : BitVec 3) (q : Queue) (k : W64) (f : NFlags) : Prop :=
  if specTick s k then (coreOf t c).nflag = (coreOf s c).nflag ∧ (coreOf t c).nflagHeld = holdFlags k (nflagBits q f) (coreOf s c).nflagHeld
  else (coreOf t c).nflag = (coreOf s c).nflag ||| nflagBits q f ∧ (coreOf t c).nflagHeld = (coreOf s c).nflagHeld

/-- Flags that a command of the core's tick raises. -/
abbrev flagsRaised (s t : State) (c : BitVec 3) (q : Queue) (f : NFlags) : Prop := flagsOfTick s t c q (coreOf s c).tick f

/-! ### Results of the lane-wise commands (Table 8-2) -/

/-- The lane-wise commands, with their bodies. -/
def laneBody : Instr → Option (Iss × VArithF)
  | .vmov i f => some (i, f)
  | .vadd i f => some (i, f)
  | .vsub i f => some (i, f)
  | .vmul i f => some (i, f)
  | .vmac i f => some (i, f)
  | .vmax i f => some (i, f)
  | .vmin i f => some (i, f)
  | .vabs i f => some (i, f)
  | .vneg i f => some (i, f)
  | .vclp i f => some (i, f)
  | .vcmp i f => some (i, f)
  | .vsel i f => some (i, f)
  | .vcrv i f => some (i, f)
  | _ => none

/-- The exact result of lane j before its one rounding, from the decoded operands a, b, c (R173, Table 8-2): NAN where an operand is
NAN; VCRV evaluates its table at a. For VCMP and for a raw VMOV there is none: they write a code as it stands. -/
def laneExact (x : Core) (ins : Instr) (f : VArithF) (j : Nat) : Option Dec :=
  let a := opA x f j
  let b := opB x f j
  let c := opC x f j
  match ins with
  | .vmov _ _ => if f.raw = 1 then none else some a
  | .vadd _ _ => some (if a.cls = .nan ∨ b.cls = .nan then .nan else addExact a b)
  | .vsub _ _ => some (if a.cls = .nan ∨ b.cls = .nan then .nan else subExact a b)
  | .vmul _ _ => some (if a.cls = .nan ∨ b.cls = .nan then .nan else mulExact a b)
  | .vmac _ _ => some (if a.cls = .nan ∨ b.cls = .nan ∨ c.cls = .nan then .nan else addExact (mulExact a b) c)
  | .vmax _ _ => some (if a.cls = .nan ∨ b.cls = .nan then .nan else if ltDec a b then b else a)
  | .vmin _ _ => some (if a.cls = .nan ∨ b.cls = .nan then .nan else if ltDec b a then b else a)
  | .vabs _ _ => some (if a.cls = .nan then .nan else .fin a.sig.natAbs a.exp)
  | .vneg _ _ => some (if a.cls = .nan then .nan else .fin (-a.sig) a.exp)
  | .vclp _ _ => some (if a.cls = .nan ∨ b.cls = .nan ∨ c.cls = .nan then .nan else maxDec b (minDec a c))
  | .vsel _ _ => some (if rawC x f j ≠ 0 then a else b)
  | .vcrv _ _ =>
    let t := (curveEval (activeCurve x f.ct) a).1
    some (if f.mulx = 1 then (if t.cls = .nan ∨ b.cls = .nan then .nan else mulExact b t) else t)
  | _ => none

/-- The code a lane takes: the exact result stored once at QD (R172); the raw code of a; or the outcome of the comparison, where a NAN
operand satisfies NE alone. -/
def laneCodeOf (x : Core) (ins : Instr) (f : VArithF) (j : Nat) : Nat :=
  match laneExact x ins f j with
  | some d => (storeElem .i32 (f.sym == 1) d f.qd.toInt).1
  | none =>
    match ins with
    | .vcmp _ _ =>
      let a := opA x f j
      let b := opB x f j
      if a.cls = .nan ∨ b.cls = .nan then (if f.cond = 1 then 1 else 0)
      else if condHolds f.cond (ltDec a b) (eqDec a b) then 1 else 0
    | _ => rawA x f j

/-- The flags a lane raises: those of its store, and INV where the curve table is evaluated at a value it does not take. -/
def laneFlagsOf (x : Core) (ins : Instr) (f : VArithF) (j : Nat) : NFlags :=
  let s := match laneExact x ins f j with
    | some d => (storeElem .i32 (f.sym == 1) d f.qd.toInt).2
    | none => .none
  match ins with
  | .vcrv _ _ => { s with inv := s.inv || (curveEval (activeCurve x f.ct) (opA x f j)).2 }
  | _ => s

/-- Cycles from the issue of a lane-wise command's one cycle of occupancy until its lanes are readable (Table 8-2). -/
def laneLat : Instr → Nat
  | .vmac _ _ => 5
  | .vcrv _ _ => 6
  | _ => 4

/-! ### What a command reads -/

/-- Core c with its vector registers as a read k cycles from now finds them: the writes on their way that have landed by then in place
(R174). -/
def seenAt (s : State) (c : BitVec 3) (k : Nat) : Core := setLanes (coreOf s c) (regsOnWay s.dp c k)

/-- The enabled lanes of CNT registers as signed integers, register r read r cycles on. -/
def enabledLanes (s : State) (i : Iss) (f : VRedF) : List Int :=
  (List.range (f.cnt1.toNat + 1)).flatMap (fun r =>
    ((List.range 64).filter (fun j => laneOn (coreOf s i.core) i.hdr.mask i.pkt r j)).map (fun j =>
      signedOf 32 (laneCode (seenAt s i.core r) (f.va.toNat + r) j)))

/-- The bytes of a device row as core c's request of k cycles from now finds them: those of a write that has reached it by then, else
those it holds (R199, R204). -/
def rowSeen (d : Dp) (c : BitVec 3) (row k : Nat) : List Byte :=
  match rowOnWay d row (accessAt d c row k) with | some b => padTo 512 b | none => rowData d row

/-- No granule of the row fails its check at that request (R208). -/
def rowChecks (d : Dp) (c : BitVec 3) (row k : Nat) : Bool := (rowOnWay d row (accessAt d c row k)).isSome || (rowMarks d row).isEmpty

/-- The row of a reference exists, lies in a valid region within bounds, and every granule of it checks for a request of k cycles from
now (R208, R209). -/
def cleanRow (d : Dp) (c : BitVec 3) (orch : Bool) (o k : Nat) : Bool :=
  match refRow d c orch o with | some row => rowChecks d c row k | none => false

/-- The bytes that request finds in the row of a reference. -/
def rowAt (d : Dp) (c : BitVec 3) (orch : Bool) (o k : Nat) : List Byte :=
  match refRow d c orch o with | some row => rowSeen d c row k | none => zeroRow

/-- The cycle in which the VE's two read ports take row o of those a command reads, `from_` rows before the first of them (Table 8-2). -/
def portCycle (rows : List Nat) (from_ o : Nat) : Nat := (from_ + rows.idxOf o) / 2

/-- The element an operand of a plain or shared-scale format holds at index e, its elements from row o of one level and its scales
from row so of another, each row read in the cycle `at_` or `sat` gives it (R58, R66, R68), and whether its block is poisoned. -/
def elemSeen (d : Dp) (c : BitVec 3) (s : FmtSel) (orch : Bool) (o : Nat) (at_ : Nat → Nat) (sorch : Bool) (so : Nat) (sat : Nat → Nat)
    (e : Nat) (q : Int) : Dec × Bool :=
  let per := s.op.fmt.perRow
  let b := e / max 1 (s.op.block per)
  let r := o + e / per
  let sr := so + b / 512
  loadElem s.op (codeAt s.op.fmt (rowAt d c orch r (at_ r)) (e % per))
    (if s.op.blk = 0 then none else some (byteAt (rowAt d c sorch sr (sat sr)) (b % 512))) (s.fq + q)

/-- The rows that element lies in are clean. -/
def cleanElem (d : Dp) (c : BitVec 3) (s : FmtSel) (orch : Bool) (o : Nat) (at_ : Nat → Nat) (sorch : Bool) (so : Nat) (sat : Nat → Nat)
    (e : Nat) : Bool :=
  let per := s.op.fmt.perRow
  let r := o + e / per
  let sr := so + e / max 1 (s.op.block per) / 512
  cleanRow d c orch r (at_ r) && (s.op.blk == 0 || cleanRow d c sorch sr (sat sr))

/-! ### What a command writes -/

/-- Device rows that hold none of the given rows keep their bytes. -/
def otherRowsKept (s t : State) (written : List Nat) : Prop :=
  ∀ a, (∀ r ∈ written, a / 512 ≠ r) → memRead t.dp.dev a = memRead s.dp.dev a

/-- The device rows of n consecutive offsets of a level. -/
def rowList (d : Dp) (c : BitVec 3) (orch : Bool) (o n : Nat) : List (Option Nat) := (List.range n).map (fun k => refRow d c orch (o + k))

/-- n rows from offset o of a level exist, lie in valid regions and within bounds. -/
def rowsThere (d : Dp) (c : BitVec 3) (orch : Bool) (o n : Nat) : Bool := (rowList d c orch o n).all (fun r => r.isSome)

/-- The bytes of a string written to n rows from offset o of a level, row j in cycle I + land j: each row takes them in the cycle in which
its access meets it, and is seen with them from the cycle after (R180, R204). -/
def rowsLanding (d : Dp) (c : BitVec 3) (orch : Bool) (o n : Nat) (b : List Byte) (land : Nat → Nat) : List (Nat × Landing) :=
  (List.range n).filterMap (fun j => (refRow d c orch (o + j)).map (fun row =>
    (accessAt d c row (land j) + 1, Landing.row row ((b.drop (512 * j)).take 512))))

/-- Tiles written to consecutive rows of core memory from offset o, each with the cycle of its rows (R117). -/
def tilesLanding (d : Dp) (c : BitVec 3) (o : Nat) : List (Nat × Tile) → List (Nat × Landing)
  | [] => []
  | u :: us =>
    let n := rowsFor (tileRows u.2).length
    rowsLanding d c false o n (tileRows u.2) (fun _ => u.1) ++ tilesLanding d c (o + n) us

/-- The tiles an MM finishes, each with the cycles until it is visible (R117, R432). -/
def tilesOf (x : Core) (free : Nat) (i : Iss) (f : MmF) : List (Nat × Tile) :=
  (tileGroups f).flatMap (fun g =>
    (groupTiles x f f.accExp.toInt (tileValues (mmResults x free i f).1 g)).1.map (fun u => (tileAt f g, u)))

/-- Those of one that does not run: zero tiles in the same cycles (R229). -/
def zeroTilesOf (x : Core) (f : MmF) : List (Nat × Tile) := (tileGroups f).flatMap (fun g => (zeroGroup x f).map (fun u => (tileAt f g, u)))

/-- What REL releases: a slot in the cycle after its last copy, a half in the cycle after its last column is read (R110, R114). -/
def releases (c : BitVec 3) (f : MmF) : List (Nat × Landing) :=
  let t := max (mmColsN f) 16
  ((List.range 4).filter (fun k => f.rel.getLsbD k)).map (fun k =>
      ((slotUses f k).foldl max 0 * t + 17, Landing.ready c (1#6 <<< k) false)) ++
    ((List.range 2).filter (fun k => f.rel.getLsbD (4 + k))).map (fun k =>
      (16 + (mmPasses f * mmSegs f - 1) * t + (mmColsN f - 1) + 2, Landing.ready c (1#6 <<< (4 + k)) false))

/-- An accumulator entry of a core, none while no command of the tick has written it (R116). -/
def accEntry (x : Core) (bank : BitVec 1) (row col : Nat) : Option A88 :=
  (x.me.acc.find? (fun e => e.1 == accKey bank row col)).map (fun e => e.2)

/-! ### Moves (R257, R258, R429, R430) -/

/-- A place a mover row comes from or goes to: a device row, a row of the SE state buffer, or a row of the ME input slots (R258). -/
inductive Place where
  | dev (row : Nat)
  | se (row : Nat)
  | slot (row : Nat)
deriving DecidableEq, Repr

/-- The place of row k of an address at a level; none outside it. -/
def placeOf (d : Dp) (c : BitVec 3) (lvl : BitVec 2) (adr : BitVec 18) (k : Int) : Option Place :=
  if lvl = 1 then
    let r := ((adr.extractLsb' 0 8).toNat : Int) + k
    if 0 ≤ r ∧ r < 256 then some (.se r.toNat) else none
  else if lvl = 2 then
    let r := ((adr.extractLsb' 0 4).toNat : Int) + k
    if 0 ≤ r ∧ r < 16 then some (.slot (16 * (adr.extractLsb' 4 2).toNat + r.toNat)) else none
  else
    let r := (adrOff adr : Int) + k
    if 0 ≤ r then (refRow d c (adrOrch adr) r.toNat).map .dev else none

/-- The bytes that core c's DE finds in a place k cycles from now. -/
def placeSeen (d : Dp) (c : BitVec 3) (k : Nat) : Place → List Byte
  | .dev row => rowSeen d c row k
  | .se r => memSlice (bufAt d c k) (512 * r) 512
  | .slot r => memSlice (vget d.cores c).me.ib (512 * r) 512

/-- No stored bits of the place fail to check then. -/
def placeChecks (d : Dp) (c : BitVec 3) (k : Nat) : Place → Bool
  | .dev row => rowChecks d c row k
  | _ => true

/-- A DE write that lands n cycles from now is not late: the place is no row of stream state, or its tick's pit, `pit` cycles from now
if it is still to come, comes after it (R23). -/
def inTime (s : State) (c : BitVec 3) (pit : Option Nat) (n : Nat) : Place → Bool
  | .dev row => !(eventWork s c .de).inArea row || (match pit with | some p => decide (n < p) | none => true)
  | _ => true

/-- A write of a place that lands in cycle I + n, as an effect on its way; the input slots take theirs at once. -/
def placeLanding (d : Dp) (c : BitVec 3) (n : Nat) (b : List Byte) : Place → List (Nat × Landing)
  | .dev row => [(accessAt d c row n + 1, .row row b)]
  | .se r => [(n + 1, .sbuf c [(512 * r, padTo 512 b)])]
  | .slot _ => []

/-- Rows of batch b of a move that are enabled, and whether the batch has any (R257, R260). -/
def rowsOn (s : State) (i : Iss) (j : MoveJob) (b : Nat) : List Nat :=
  (List.range j.nrows).filter (fun k => rowOn (coreOf s i.core) i.hdr.mask i.pkt ((b * j.nrows + k) % 64))

/-- Scale rows behind the source rows of a batch (R429). -/
def scaleRowsIn (x : Core) (j : MoveJob) : Nat :=
  if needsConv x j.fs j.fd then scaleRowsOf (fmtGet x j.fs) (j.nrows * (fmtGet x j.fs).op.fmt.perRow)
  else if moveScaled x j.fs j.fd then scaleRowsOf (plainFmt x j.fs j.fd) (j.nrows * (plainFmt x j.fs j.fd).op.fmt.perRow)
  else 0

/-- The rows a batch reads, by their numbers in it. -/
def batchReads (s : State) (i : Iss) (j : MoveJob) (b : Nat) : List Nat :=
  let on := rowsOn s i j b
  if on.isEmpty then [] else on ++ (List.range (scaleRowsIn (coreOf s i.core) j)).map (j.nrows + ·)

/-- The cycle, from the issue, in which a batch reads its row k. -/
def readCycle (s : State) (i : Iss) (j : MoveJob) (b k : Nat) : Nat := b * batchOcc (coreOf s i.core) j.fs j.fd j.nrows + k

/-- The places of row k of batch b on the two sides. -/
def srcPlace (s : State) (i : Iss) (j : MoveJob) (b k : Nat) : Option Place := placeOf s.dp i.core j.sl j.sadr (j.soff + b * j.bss + k)
def dstPlace (s : State) (i : Iss) (j : MoveJob) (b k : Nat) : Option Place := placeOf s.dp i.core j.dl j.dadr (j.doff + b * j.bds + k)

/-- The bytes read from row k of batch b. -/
def srcRow (s : State) (i : Iss) (j : MoveJob) (b k : Nat) : List Byte :=
  match srcPlace s i j b k with | some p => placeSeen s.dp i.core (readCycle s i j b k) p | none => zeroRow

/-- The element rows of a batch as one string, a row left out as zeros, and its scale rows. -/
def srcElems (s : State) (i : Iss) (j : MoveJob) (b : Nat) : List Byte :=
  (List.range j.nrows).flatMap (fun k => if (rowsOn s i j b).contains k then srcRow s i j b k else List.replicate 512 0)
def srcScales (s : State) (i : Iss) (j : MoveJob) (b : Nat) : List Byte :=
  (List.range (scaleRowsIn (coreOf s i.core) j)).flatMap (fun k => srcRow s i j b (j.nrows + k))

/-- What the conversion of a batch makes of it: element bytes, scale bytes and flags (R79, R429). -/
def converted (s : State) (i : Iss) (j : MoveJob) (b : Nat) : List Byte × List Byte × NFlags :=
  convRows (fmtGet (coreOf s i.core) j.fs) (fmtGet (coreOf s i.core) j.fd) (j.dl == 2) (fun k => (rowsOn s i j b).contains k) j.nrows
    (srcElems s i j b) (srcScales s i j b)

/-- The rows a batch writes: their numbers in it, the cycle from the issue in which each lands, and their bytes. Unchanged rows follow
their source rows; of a conversion, a row follows the last source row that it needs, and takes only elements of enabled rows. -/
def batchWrites (s : State) (i : Iss) (j : MoveJob) (b : Nat) : List (Nat × Nat × List Byte) :=
  let x := coreOf s i.core
  let ls := srcLat j.sl j.sadr
  if (rowsOn s i j b).isEmpty then [] else
  if needsConv x j.fs j.fd then
    let sf := fmtGet x j.fs
    let df := fmtGet x j.fd
    let m := destRows sf df j.nrows
    let land := fun (k : Nat) => readCycle s i j b (max k (lastSource sf df j.nrows (scaleRowsIn x j) k)) + ls + 1
    let r := converted s i j b
    ((List.range m).filter (destLive sf df (fun k => (rowsOn s i j b).contains k) j.nrows)).map (fun k => (k, land k, (r.1.drop (512 * k)).take 512)) ++
      (if df.op.blk = 0 ∨ j.dl = 2 then [] else (List.range (rowsFor r.2.1.length)).map (fun k => (m + k, land (m + k), (r.2.1.drop (512 * k)).take 512)))
  else
    ((batchReads s i j b).filter (fun k => decide (k < j.nrows) || decide (j.dl ≠ 2))).map (fun k => (k, readCycle s i j b k + ls + 1, srcRow s i j b k))

/-- The scale entries a batch leaves in an input slot, as bytes at addresses of the slots' scale store (R107, R257). -/
def batchScales (s : State) (i : Iss) (j : MoveJob) (b : Nat) : List (Nat × List Byte) :=
  let x := coreOf s i.core
  let on := rowsOn s i j b
  let conv := needsConv x j.fs j.fd
  let f := if conv then fmtGet x j.fd else plainFmt x j.fs j.fd
  let rows := if conv then (List.range (destRows (fmtGet x j.fs) f j.nrows)).filter (destLive (fmtGet x j.fs) f (fun k => on.contains k) j.nrows) else on
  let sc := if conv then (converted s i j b).2.1 else srcScales s i j b
  let m := slotRowBlocks f.op
  if on.isEmpty ∨ j.dl ≠ 2 ∨ f.op.blk = 0 then [] else
    rows.filterMap (fun k => (dstPlace s i j b k).bind (fun p => match p with
      | .slot r => some (2048 * (r / 16) + r % 16 * m, (sc.drop (k * m)).take m)
      | _ => none))

/-- Every row a move reads exists and checks, every row it writes exists and is written in time, and none is read that it writes. -/
def movesPlainly (s : State) (i : Iss) (j : MoveJob) : Prop :=
  ∀ b < j.bcnt,
    (∀ k ∈ batchReads s i j b, ∃ p, srcPlace s i j b k = some p ∧ placeChecks s.dp i.core (readCycle s i j b k) p = true ∧
      ∀ b' < j.bcnt, ∀ w ∈ batchWrites s i j b', dstPlace s i j b' w.1 ≠ some p) ∧
    (∀ w ∈ batchWrites s i j b, ∃ p, dstPlace s i j b w.1 = some p ∧ inTime s i.core (pitInOf s i.core) w.2.1 p = true)

/-- The effects a move puts on their way. -/
def moveLandings (s : State) (i : Iss) (j : MoveJob) : List (Nat × Landing) :=
  (List.range j.bcnt).flatMap (fun b => (batchWrites s i j b).flatMap (fun w =>
    match dstPlace s i j b w.1 with | some p => placeLanding s.dp i.core w.2.1 w.2.2 p | none => []))

/-- The bytes a move leaves in the input slots at once, in order. -/
def moveSlots (s : State) (i : Iss) (j : MoveJob) : List (Nat × List Byte) :=
  (List.range j.bcnt).flatMap (fun b => (batchWrites s i j b).filterMap (fun w =>
    match dstPlace s i j b w.1 with | some (.slot r) => some (512 * r, padTo 512 w.2.2) | _ => none))

/-- The flags a move raises. -/
def moveFlags (s : State) (i : Iss) (j : MoveJob) : NFlags :=
  if needsConv (coreOf s i.core) j.fs j.fd then
    flagsAll ((List.range j.bcnt).map (fun b => if (rowsOn s i j b).isEmpty then .none else (converted s i j b).2.2))
  else .none

/-- The local side of a DMEM as a job of rows. -/
def dmemJob (f : DmemF) : MoveJob := ⟨0, 0, f.ladr, f.ladr, f.nrows1.toNat + 1, f.fmtS, f.fmtD, f.cflg, 0, 0, 1, 0, 0⟩

/-- The rows that a read DMEM leaves in its local rows, by number, from the bytes of MEM: as they are, or converted; and the flags of
the conversion (R257, R429). -/
def dmemRowsIn (x : Core) (y : DmemXfer) (data : List Byte) : List (Nat × List Byte) × NFlags :=
  if needsConv x y.fmtS y.fmtD then
    let sf := fmtGet x y.fmtS
    let df := fmtGet x y.fmtD
    let m := destRows sf df y.nrows
    let r := convRows sf df false y.on y.nrows data (data.drop (512 * y.nrows))
    (((List.range m).filter (destLive sf df y.on y.nrows)).map (fun k => (k, (r.1.drop (512 * k)).take 512)) ++
      (if df.op.blk = 0 then [] else (List.range (rowsFor r.2.1.length)).map (fun k => (m + k, (r.2.1.drop (512 * k)).take 512))), r.2.2)
  else
    (((List.range (spanRowsOf x y.fmtS y.fmtD y.nrows).2).filter (fun k => decide (y.nrows ≤ k) || y.on k)).map (fun k =>
      (k, (data.drop (512 * k)).take 512)), .none)

/-- The core's input slots and flags, that a move may change. -/
def keepBuffers (y x : Core) : Core := { keepFlags y x with me := { x.me with ib := y.me.ib, ibScale := y.me.ibScale } }

/-! ### Scan commands -/

/-- The scan parameter block a command names, as the row of core memory holds it at its issue (R140). -/
def spbSeen (s : State) (i : Iss) (f : SeF) : Spb := spbOfRow (rowAt s.dp i.core false f.spb.toNat 0)

/-- n rows of a core memory from an offset as the issue cycle finds them, as a table by offset. -/
def rowTable (d : Dp) (c : BitVec 3) (a n : Nat) : List (Nat × List Byte) := (List.range n).map (fun k => (a + k, rowAt d c false (a + k) 0))

/-- Rows that n elements of `bits` bits fill. -/
def rowsOf (n bits : Nat) : Nat := (n * bits + 4095) / 4096

/-- Rows of a formatted array of n elements, its scale rows behind its element rows (DESIGN CHOICE, log 13). -/
def rowsOfFmt (s : FmtSel) (n : Nat) : Nat :=
  (n + s.op.fmt.perRow - 1) / s.op.fmt.perRow +
    (if s.op.blk = 0 then 0 else rowsOf ((n + s.op.block s.op.fmt.perRow - 1) / max 1 (s.op.block s.op.fmt.perRow)) 8)

/-- The steps of head h: log-decays, angles and resets as they stand in the core's memory (R126, R131, R141). -/
def scanSteps (s : State) (i : Iss) (b : Spb) (h : Nat) : HeadSteps :=
  let n := rowsOf (64 * spbHeads b) 32
  headSteps (coreOf s i.core) i b (rowTable s.dp i.core b.aLam n) (rowTable s.dp i.core b.aTheta n)
    (rowTable s.dp i.core (b.aRst + i.pkt / 64) 1) h

/-- The offsets a scan command reads for its steps. -/
def stepOffs (i : Iss) (b : Spb) : List Nat :=
  let n := rowsOf (64 * spbHeads b) 32
  (List.range n).map (b.aLam + ·) ++ (if b.complex then (List.range n).map (b.aTheta + ·) else []) ++ [b.aRst + i.pkt / 64]

/-- The offsets of a formatted array. -/
def fmtOffs (f : FmtSel) (a n : Nat) : List Nat := (List.range (rowsOfFmt f n)).map (a + ·)

/-- Element e of a formatted array of n elements at offset a, and whether its block is poisoned. -/
def scanElem (s : State) (c : BitVec 3) (f : FmtSel) (a n e : Nat) : Dec × Bool :=
  elemSeen s.dp c f false a (fun _ => 0) false (scaleBase f a n) (fun _ => 0) e 0

/-- The exponent of a channel's state (R127). -/
def scanQh (s : State) (c : BitVec 3) (b : Spb) (ch : Nat) : Int := qhOf (rowTable s.dp c b.aQh (rowsOf b.c 8)) b ch

/-- The rows of a stream's init image. -/
def initTable (s : State) (c : BitVec 3) (b : Spb) (slot : Option Nat) : List (Nat × List Byte) :=
  match slot with
  | none => []
  | some r => (List.range (rowsOf (stateIdx b b.c 0 0) 32)).map (fun k => (r + b.initOfs + k, rowSeen s.dp c (r + b.initOfs + k) 0))

/-- The start value of a state element of stream st for a chunk position with base `base` (R131). -/
def scanStart (s : State) (i : Iss) (b : Spb) (base st ch n part : Nat) : Dec :=
  let slot := initSlot (coreOf s i.core) i b st
  startVal (coreOf s i.core) b slot (initTable s i.core b slot) (scanQh s i.core b ch) base st ch n part

/-- The init images of the packet's streams check. -/
def initsClean (s : State) (i : Iss) (b : Spb) : Prop :=
  ∀ st < spbStreams b, ∀ r, initSlot (coreOf s i.core) i b st = some r → ∀ k < rowsOf (stateIdx b b.c 0 0) 32,
    rowChecks s.dp i.core (r + b.initOfs + k) 0 = true

/-- Every offset of a core's memory in the list is in bounds, valid and checks. -/
def offsClean (s : State) (c : BitVec 3) (l : List Nat) : Prop := ∀ o ∈ l, cleanRow s.dp c false o 0 = true

/-- The byte of the SE state buffer at which a state element of stream st begins (DESIGN CHOICE, log 13). -/
def stateAt (b : Spb) (st ch n part : Nat) : Nat := 512 * b.seBase + 4 * (st * stateIdx b b.c 0 0 + stateIdx b ch n part)

/-- The SE occupied by a command of `terms` terms that issues in device cycle n and clamps `clamped` log-decays (R126, R146). -/
def seBusyWith (x : Se) (n : Nat) (op : BitVec 2) (terms : Nat) (works : Bool) (clamped : Nat) : Se :=
  { x with op := op, idle := max x.idle (n + seOcc terms + 25), busyCyc := if works then x.busyCyc + BitVec.ofNat 32 (seOcc terms) else x.busyCyc,
           lamClamp := x.lamClamp + BitVec.ofNat 32 clamped }

/-- Log-decays above 0 of the given heads. -/
def clampedOf (s : State) (i : Iss) (b : Spb) (hs : List Nat) : Nat := (hs.map (fun h => (scanSteps s i b h).clamped)).sum

/-! ### Descriptors -/

/-- Of a ring's descriptor only the SP's tables, the host rings and the check units of descriptors and images may differ. -/
def besideDesc (s t : State) : Prop := { t with hif := s.hif, sp := s.sp, dus := s.dus } = s

/-- Ring n with its head moved past a descriptor (R292, R296). -/
def takenRing (r : SqRing) : SqRing := { r with head := BitVec.ofNat 12 ((r.head.toNat + 1) % r.size), seq := r.seq + 1 }

/-- The host rings with the descriptor at the head of ring n taken. -/
def takenHif (h : Hif) (n : BitVec 4) : Hif := { h with sqs := vset h.sqs n (takenRing (vget h.sqs n)) }

/-- The host rings with a completion record more on the completion ring of ring n (R290, R303, R304). -/
def recorded (h : Hif) (n : BitVec 4) (bytes : List Byte) (tick : Bool) : Hif :=
  let m := (vget h.sqs n).cq
  let r := vget h.cqs m
  { h with cqs := vset h.cqs m { r with waiting := r.waiting ++ [⟨bytes, 3, false, none, tick⟩] } }

/-- The host rings with the descriptor at the head of ring n taken and completed (R304): a status, a reason and a stream ID. -/
def served (h : Hif) (n : BitVec 4) (type : Byte) (tag : W32) (status : BitVec 7) (reason : Nat) (stream : W16) : Hif :=
  recorded (takenHif h n) n (completionBytes (status.zeroExtend 8) type 0 true n tag (vget h.sqs n).seq (reasonBits reason stream) 0) false

/-- A descriptor stands at the head of ring n and its CRC is that of its bytes (R297). -/
def descReady (s : State) (n : BitVec 4) (bytes : List Byte) (crc : W32) : Prop :=
  descPresent s n = true ∧ crc.toNat = (formCheck s 0 1 false (descFold n (vget s.hif.sqs n).seq) bytes).1

/-- A state-management descriptor that passes its checks on an unpaired device (R169, R297, R369). -/
def stateReady (s : State) (op : Byte) (d : StateDesc) : Prop :=
  descReady s d.sq (stateBytes op d) d.crc ∧ d.rsv = 0 ∧ s.twn.state = .unpaired ∧ d.stream ≠ 0xFFFF ∧ stateReserved d = false

/-- The stream table with one stream's record changed. -/
def streamsWith (s : State) (id : W16) (f : Stream → Stream) : List Stream := s.sp.streams.map (fun x => if x.id == id then f x else x)

/-- A finished request's completion record beside the rings as they are. -/
def answered (s : State) (t : ReqTicket) (status : BitVec 7) (reason : Nat) (stream : W16) : Hif :=
  recorded s.hif t.sq (completionBytes (status.zeroExtend 8) 2 0 true t.sq t.tag t.seq (reasonBits reason stream) 0) false

/-! ### Faults, check units, the link and the debug port -/

/-- What a fault of core c does to its chain ch in the tick the core works on (R345, R347): no core of the chain issues further and
its restart is called for; the running stream-ticks of the chain that are not sealed are rolled back; every other core, every queue and
all memory stay. -/
def chainFails (u t : State) (ch : Nat) (c : BitVec 3) : Prop :=
  let seq := (coreOf u c).tick
  (∀ k ∈ chainCores u ch, (coreOf t k).restart = true ∧ (coreOf t k).hold = none ∧ (coreOf t k).queues = (coreOf u k).queues ∧
    (coreOf t k).run = if (coreOf u k).run = .computing ∧ seq.toNat ≤ (coreOf u k).tick.toNat then .stopped else (coreOf u k).run) ∧
  (∀ k, k ∉ chainCores u ch → coreOf t k = coreOf u k) ∧ (∃ r ∈ t.sp.restarts, r.chain = ch) ∧
  (∀ r, u.sp.cur = some r → r.seq = seq → ∃ q, t.sp.cur = some q ∧ q.seq = r.seq ∧
    q.sts.map (fun y => (y.stream, y.out)) = r.sts.map (fun y => (y.stream,
      if y.chain = ch ∧ y.out = .running ∧ sealedPlace u seq y.place = false then .rolledBack else y.out))) ∧
  t.dp.dev = u.dp.dev ∧ t.dp.ecc = u.dp.ecc

/-- Of the check units only u differs, and nothing else of the block does. -/
def unitOnly (s t : State) (u : UnitId) : Prop := (∀ k, k ≠ u → getUnit t k = getUnit s k) ∧ { t with cus := s.cus, dus := s.dus } = s

/-- The frames can be sent at once: the link is up, nothing waits, and the credits cover them (R358, R359). -/
def linkTakes (s : State) (fs : List Frame) : Prop :=
  txUp s = true ∧ linkUp s.twn = true ∧ s.twn.tx = [] ∧ (fs.map (fun f => f.beats)).sum ≤ s.twn.credit

/-- The link with frames sent: their beats taken from the credits and counted (R358). -/
def sent (t : Twn) (fs : List Frame) : Twn :=
  let n := (fs.map (fun f => f.beats)).sum
  { t with wire := t.wire ++ fs, credit := t.credit - n, txBytes := t.txBytes + 32 * n }

/-- The link with a good frame of n beats received, its credits returned (R357, R358). -/
def received (t : Twn) (n : Nat) : Twn := { t with rxBytes := t.rxBytes + 32 * n, crdOut := t.crdOut + n, badFrames := 0 }

/-- A debug command of a level is taken (R418, R419). -/
abbrev mayCommand (s : State) (level : Nat) : Prop := s.dbg.level ≠ 0 ∧ level ≤ s.dbg.level.toNat

/-- The debug port with DBG_CMD selected (Table 21-1). -/
def inCmd (s : State) : State := { s with dbg := { s.dbg with ir := 0x13 } }

/-! ### Every memory in its canonical form -/

/-- The memories of a core. -/
def coreMems (c : Core) : List Mem :=
  [c.me.ib, c.me.ibScale, c.me.wh, c.me.whScale, c.me.tb, c.se.buf, c.ve.regs, c.ve.ctActive, c.ve.ctPending]

/-- Every memory of the datapath. -/
def dpMems (d : Dp) : List Mem := d.dev :: d.ext :: d.cores.toList.flatMap coreMems

/-- Every memory of the block: those of the datapath and the private memories of the firmware processors. -/
def allMems (s : State) : List Mem := dpMems s.dp ++ [s.xp.mem, s.pp.mem, s.spp.mem] ++ s.cps.toList.map (fun p => p.mem)

/-- Every memory is in its canonical form (Machine/Mem). -/
def canonical (s : State) : Prop := ∀ m ∈ allMems s, memWf m

/-! ### Rounding -/

/-- v is num × 2^k rounded to an integer, ties to even: rne of 03_number_formats. -/
def IsRne (v num k : Int) : Prop :=
  if 0 ≤ k then v = num * 2 ^ k.toNat
  else 2 * (num - v * 2 ^ (-k).toNat).natAbs ≤ 2 ^ (-k).toNat ∧
    (2 * (num - v * 2 ^ (-k).toNat).natAbs = 2 ^ (-k).toNat → v % 2 = 0)

end Sys2Proof.Safety
end

