-- ==== Sys2Proof/Certificates/Slice0/Obligations.lean ====
section
/-!
DEFINITION. Obligations: the statements about this model. Each docstring names the rules of spec/ that the statement rests on.
-/
open Sys2Proof Sys2Proof.Machine Sys2Proof.Safety

/-! ### The machine -/

/-- A step takes the command at the front of the queue and runs it on the state with the rest of the queue. -/
def Obligations.StepRunsFrontCommand : Prop :=
  ∀ (c : Instr) (cs : List Instr) (s : State), step { s with pending := c :: cs } = exec c { s with pending := cs }

/-- With no command waiting the block goes on: before the identity fields are written the boot ROM writes them (R398); afterwards nothing
changes while ACLK is stopped, and one cycle passes where the plan lets it. The model's choice (log 1). -/
def Obligations.EmptyQueueIdles : Prop :=
  ∀ (s : State), s.pending = [] →
    ∃ t, step s = .next t ∧ (s.sec.idShown = false → t.sec.idShown = true) ∧
      (s.sec.idShown = true → s.pwr.aclkRun = false → t = s) ∧ (s.sec.idShown = true → mayReach s 1 = true → t = s.pass 1)

/-- The block right after reset (Tables 2-5 to 2-7, 14-8, 14-9, 16-4, 17-6, 18-7, 19-6, 19-7): no tick runs and the sequence number is
0; every ring is disabled with 16 entries; FWR_PENDING is 1; the service level and the granted supply level are OFF with ACLK stopped
and every core gated; the boot waits; the twin is unpaired; no command waits and no task is loaded. -/
def Obligations.ResetState : Prop :=
  let s := State.reset
  s.tkc.run = false ∧ s.tkc.active = false ∧ s.tkc.seq = 0 ∧ s.tkc.period = 0x61A80 ∧ s.tkc.dispOfs = 0x3E80 ∧
    s.tkc.compOfs = 0x5DC0 ∧ s.tkc.deadOfs = 0x57E40 ∧ s.tkc.extTol = 0xFA0 ∧ s.tkc.fly = true ∧
    (∀ n, (vget s.hif.sqs n).enable = false ∧ (vget s.hif.sqs n).sizeLog2 = 4) ∧
    (∀ n, (vget s.hif.cqs n).enable = false ∧ (vget s.hif.cqs n).sizeLog2 = 4 ∧ (vget s.hif.cqs n).phase = true) ∧
    s.fwr.pending = true ∧ s.fwr.fw.level = 0 ∧ s.err.jrnlEn = true ∧ s.err.fifo = [] ∧
    s.pwr.cap = 10000 ∧ s.pwr.stepMax = 24 ∧ s.pwr.req = 0 ∧ s.pwr.gnt = 0 ∧ s.pwr.aclkRun = false ∧ s.pwr.corePg = 0xFF ∧
    s.sec.bootState = 0 ∧ s.twn.state = .unpaired ∧ s.dbg.level = 0 ∧ s.sp.task = none ∧ s.pending = []

/-- Reset leaves every memory in its canonical form, empty. -/
def Obligations.ResetMemoriesCanonical : Prop := canonical State.reset

/-- Every step keeps every memory in its canonical form: addresses strictly rising, no byte listed that an unlisted address reads
as, so that equal memories are equal data. -/
def Obligations.StepKeepsMemoriesCanonical : Prop :=
  ∀ (s t : State), canonical s → step s = .next t → canonical t

/-- No command but OTP_PROG changes a fuse of OTP: not a debug access, not a reset, not the boot (19_power_clocks_identity, Table
19-4; 21_debug_port). -/
def Obligations.OnlyOtpProgChangesOtp : Prop :=
  ∀ (c : Instr) (s t : State), (∀ f vpp, c ≠ .otpProg f vpp) → exec c s = .next t → t.sec.otp = s.sec.otp

/-- A command's effect is on everything but the queue of waiting commands, which only a step takes from. Every command that is no engine
command answers a next state in every state; every engine command does whose codes are legal and whose format entries hold no reserved
code, and one with a reserved code stops (R71, R228). -/
def Obligations.ExecLeavesQueue : Prop :=
  (∀ (c : Instr) (s t : State), exec c s = .next t → t.pending = s.pending) ∧
  (∀ (c : Instr) (s : State), issOf c = none → ∃ t, exec c s = .next t) ∧
  (∀ (c : Instr) (i : Iss) (s : State), issOf c = some i → c.wf = true → (tableFmtis c).all (fmtiOk (coreOf s i.core)) = true →
    ∃ t, exec c s = .next t) ∧
  (∀ (c : Instr) (s : State), c.wf = false → ∃ f, exec c s = .fault (.reservedField f)) ∧
  (∀ (c : Instr) (i : Iss) (s : State), issOf c = some i → (tableFmtis c).all (fmtiOk (coreOf s i.core)) = false →
    ∃ f, exec c s = .fault (.reservedField f))

/-! ### Command words -/

/-- Decode of encode is the command, for every engine command, with every operand at every value its field holds (R227, R228). -/
def Obligations.EncodedCommandDecodesBack : Prop :=
  ∀ (c : Instr) (i : Iss) (q : Queue) (w : CmdWord), issOf c = some i → queueOf c = some q → encodeCmd c = some w →
    decodeCmd i.core i.pkt q w = some c

/-- A word that decodes is the encoding of its command: no two words spell one command, so no bit of a word is ignored, and a set bit
above the last field of a body, or a reserved group or operation, spells none (R228). -/
def Obligations.DecodedWordIsItsEncoding : Prop :=
  ∀ (core : BitVec 3) (pkt : Nat) (q : Queue) (w : CmdWord) (c : Instr), decodeCmd core pkt q w = some c →
    encodeCmd c = some w ∧ queueOf c = some q ∧ issOf c = some ⟨core, ((issOf c).map (fun i => i.hdr)).getD ⟨0, 0, false, 0, false⟩, pkt⟩

/-! ### Numbers -/

/-- An integer store rounds the exact value once to units of 2^q, ties to even, and stores it where it lies in range; outside the range
it writes the nearest bound and sets OVF; with the symmetric option it never writes the NaN marker for a finite value (R73). -/
def Obligations.IntegerStoreRoundsOnce : Prop :=
  ∀ (f : Fmt) (sym : Bool) (sig exp q : Int), f.isInt = true →
    ∃ v : Int, IsRne v sig (exp - q) ∧
      let lo : Int := if sym then -(2 ^ (f.bits - 1) - 1) else -(2 ^ (f.bits - 1))
      let hi : Int := 2 ^ (f.bits - 1) - 1
      let r := storeElem f sym (.fin sig exp) q
      (lo ≤ v → v ≤ hi → signedOf f.bits r.1 = v ∧ r.2.ovf = false) ∧
      (hi < v → signedOf f.bits r.1 = hi ∧ r.2.ovf = true) ∧ (v < lo → signedOf f.bits r.1 = lo ∧ r.2.ovf = true) ∧
      (sym = true → r.1 ≠ 2 ^ (f.bits - 1))

/-- A scale byte from 0x00 to 0xFE multiplies an element by 2^(s − 127); 0xFF makes it NAN, whatever its code, and raises INV (R66). -/
def Obligations.SharedScaleMultiplies : Prop :=
  ∀ (o : OpFmt) (code : Nat) (b : Byte) (fq : Int),
    let e := (loadElem o code none fq).1
    (b ≠ 0xFF → (loadElem o code (some b) fq).2 = false ∧ (loadElem o code (some b) fq).1.cls = e.cls ∧
      (loadElem o code (some b) fq).1.sig = e.sig ∧
      (e.cls = .finite → (loadElem o code (some b) fq).1.exp = e.exp + ((b.toNat : Int) - 127))) ∧
    (b = 0xFF → (loadElem o code (some b) fq).1.cls = .nan ∧ (loadElem o code (some b) fq).2 = true)

/-- A finite product is rounded once, ties to even, to units of 2^(e − 24); INX, UNF with it, and the saturated classes with OVF and INX
follow the rounded product (R85, R86). -/
def Obligations.ProductRoundsOnce : Prop :=
  ∀ (sa ea sb eb e : Int),
    ∃ p : Int, IsRne p (sa * sb) (ea + eb - (e - 24)) ∧
      let r := prodTerm (.fin sa ea) (.fin sb eb) e
      let k := ea + eb - (e - 24)
      let exact : Prop := if 0 ≤ k then True else p * 2 ^ (-k).toNat = sa * sb
      (-(2 ^ 87) ≤ p → p ≤ 2 ^ 87 - 1 → r.1 = ⟨.finite, p⟩ ∧ r.2.ovf = false ∧ (r.2.inx = true ↔ ¬exact) ∧
        (r.2.unf = true ↔ sa * sb ≠ 0 ∧ p = 0)) ∧
      (2 ^ 87 - 1 < p → r.1.cls = .satPos ∧ r.2.ovf = true ∧ r.2.inx = true) ∧
      (p < -(2 ^ 87) → r.1.cls = .satNeg ∧ r.2.ovf = true ∧ r.2.inx = true)

/-- A reduction split into parts of the same exponent, each written out in full width and loaded back, then combined by one wide add,
gives bit for bit the value of the unsplit reduction and the same flags, if every part ends FINITE; however the products are dealt out;
with ACC_ADD at 1 the start value counts as one more part (R97). -/
def Obligations.SplitReductionKeepsEveryBit : Prop :=
  ∀ (e : Int) (start : Option A88) (parts : List (List (Dec × Dec))) (whole : List (Dec × Dec)), whole.Perm parts.flatten →
    (∀ v, start = some v → v.cls = .finite) → (∀ p ∈ parts, (dotEntry A88.zero p e).1.cls = .finite) →
    let loaded := parts.map (fun p =>
      let w := (dotEntry A88.zero p e).1.words
      A88.ofWords (w.getD 0 0) (w.getD 1 0) (w.getD 2 0))
    let combined := wideAdd (start.toList ++ loaded.map (fun x => x.1))
    let unsplit := dotEntry (start.getD A88.zero) whole e
    combined.1 = unsplit.1 ∧ (flagsAll (parts.map (fun p => (dotEntry A88.zero p e).2))).or combined.2 = unsplit.2

/-- R98 claims the same equality when parts end non-finite, provided that no part is saturated by its final range check. It does not
follow from R89: products that saturate with both signs make one part NAN, while with an infinity in another part the unsplit reduction
gives that infinity. -/
def Obligations.SplitKeepsClassWhenNonFinite : Prop :=
  ∀ (e : Int) (parts : List (List (Dec × Dec))),
    (∀ p ∈ parts, let t := p.map (fun x => (prodTerm x.1 x.2 e).1)
      (t.any (fun v => v.cls != .finite)) = true ∨ (dotEntry A88.zero p e).1.cls = .finite) →
    (wideAdd (parts.map (fun p => (dotEntry A88.zero p e).1))).1 = (dotEntry A88.zero parts.flatten e).1

/-- An A88 value written out in full width loads back as it was; a reserved class code loads as NAN and raises INV, and bits [31:27] of
word 2 are ignored (R92, R93). -/
def Obligations.FullWidthWordsLoadBack : Prop :=
  (∀ v : A88, -(2 ^ 87) ≤ v.w → v.w ≤ 2 ^ 87 - 1 → (v.cls ≠ .finite → v = A88.ofCls v.cls) →
    A88.ofWords (v.words.getD 0 0) (v.words.getD 1 0) (v.words.getD 2 0) = (v, false)) ∧
  (∀ w0 w1 w2 : Nat, w2 < 2 ^ 32 → ((w2 / 2 ^ 24) % 8 = 5 ∨ (w2 / 2 ^ 24) % 8 = 6) →
    A88.ofWords w0 w1 w2 = (A88.ofCls .nan, true)) ∧
  (∀ w0 w1 w2 : Nat, A88.ofWords w0 w1 w2 = A88.ofWords w0 w1 (w2 % 2 ^ 27))

/-! ### Engine commands -/

/-- An engine command that falls due with no gate holding its core issues: it leaves its queue, and its effect takes place with its
predicate (R17, R224, R231, R236). Every engine command of Table 10-3. -/
def Obligations.DueEngineCommandIssues : Prop :=
  ∀ (s : State) (c : Instr) (i : Iss) (q : Queue) (eff : Bool → Work → Work), effectOf c = some (i, eff) → dueNow s c i q = true →
    exec c s = .next (issueNow s i q false eff)

/-- An engine command that falls due takes the head of its own queue and leaves every other command of every queue where it stands; no
engine command touches the check units, the supply, the identity, the link or the processors. -/
def Obligations.IssueTakesQueueHead : Prop :=
  ∀ (s : State) (c : Instr) (i : Iss) (q : Queue), dueNow s c i q = true →
    ∃ t, exec c s = .next t ∧
      (∀ k p, (vget (coreOf t k).queues p).cmds =
        if k = i.core ∧ p = queueIndex q then (vget (coreOf s k).queues p).cmds.drop 1 else (vget (coreOf s k).queues p).cmds) ∧
      (vget (coreOf t i.core).queues (queueIndex q)).head = (vget (coreOf s i.core).queues (queueIndex q)).head + 1 ∧
      t.cus = s.cus ∧ t.dus = s.dus ∧ t.pwr = s.pwr ∧ t.sec = s.sec ∧ t.twn = s.twn ∧ t.xp = s.xp ∧ t.pp = s.pp ∧ t.spp = s.spp ∧
      t.cps = s.cps ∧ t.pending = s.pending

/-- A command that its gate holds, when it falls due, holds its core (R161, R232, R238, Table 10-5): nothing issues, every queue keeps its
commands, and the hold shows the gate and the queue; the gates are tile-ready for MM, the flag for FWAIT, residency for a DE command with
RESGATE. An FWAIT whose flag is not at VAL is held by the flag gate. -/
def Obligations.WaitingCommandHoldsItsCore : Prop :=
  (∀ (s : State) (c : Instr) (i : Iss) (q : Queue), issOf c = some i → queueOf c = some q → c.wf = true →
    (tableFmtis c).all (fmtiOk (coreOf s i.core)) = true → issueWait s i q c = some 0 → (gateOf s i.core c).2 = false →
    ∃ t h, exec c s = .next t ∧ t.dp = s.dp.setCore i.core { coreOf s i.core with hold := some h } ∧
      h.gate &&& (gateOf s i.core c).1 = (gateOf s i.core c).1 ∧ h.queues.getLsbD (queueIndex q).toNat = true ∧ { t with dp := s.dp } = s) ∧
  (∀ (s : State) (i : Iss) (q : Queue) (flag : BitVec 6) (dev val clr : Bool) (tmo : BitVec 24),
    let c := Instr.fwait i q flag dev val clr tmo
    c.wf = true → issueWait s i q c = some 0 → runs s i = true → flagSeen s.dp i.core flag dev ≠ val →
    ∃ t h, exec c s = .next t ∧ t.dp = s.dp.setCore i.core { coreOf s i.core with hold := some h } ∧ h.gate.getLsbD 1 = true ∧
      { t with dp := s.dp } = s) ∧
  (∀ (s : State) (i : Iss) (f : MmF), gateOf s i.core (.mm i f) = (1, (mmSlots f).all (fun k => (coreOf s i.core).me.ibReady.getLsbD k) &&
      (coreOf s i.core).me.whReady.getLsbD f.wh.toNat)) ∧
  (∀ (s : State) (i : Iss) (f : DmoveF), i.hdr.resgate = true →
    gateOf s i.core (.dmove i f) = (4, (packetStreams s (coreOf s i.core) i.pkt).all (isResident s)))

/-- NOP, FSET, FCLR and a successful FWAIT (R237, R238, Table 10-4): a core flag is written in the issue cycle and seen one cycle later,
a device flag is seen three cycles later; CLR 1 clears the flag waited for; NOP writes none. With its predicate false none of them has
any effect (R229). -/
def Obligations.FlagCommandsWriteTheirFlag : Prop :=
  ∀ (s : State) (i : Iss) (q : Queue) (flag : BitVec 6) (dev val clr : Bool) (tmo : BitVec 24),
    let landing := fun (v : Bool) => if dev then (popped s i.core q).landIn 3 (.dflag flag v) else (popped s i.core q).landIn 1 (.flag i.core flag v)
    (dueNow s (.nop i q) i q = true → ∃ t, exec (.nop i q) s = .next t ∧ sameBeside s t ∧ t.dp = popped s i.core q) ∧
    (dueNow s (.fset i q flag dev) i q = true → ∃ t, exec (.fset i q flag dev) s = .next t ∧ sameBeside s t ∧
      t.dp = if runs s i then landing true else popped s i.core q) ∧
    (dueNow s (.fclr i q flag dev) i q = true → ∃ t, exec (.fclr i q flag dev) s = .next t ∧ sameBeside s t ∧
      t.dp = if runs s i then landing false else popped s i.core q) ∧
    (dueNow s (.fwait i q flag dev val clr tmo) i q = true → ∃ t, exec (.fwait i q flag dev val clr tmo) s = .next t ∧ sameBeside s t ∧
      t.dp = if runs s i ∧ clr = true then landing false else popped s i.core q)

/-- KSET, KADD and CSET (R247): a loop counter takes the value, or moves by it modulo 2^16, and a comparator takes the outcome of the
signed comparison of its counter, as it stands in the issue cycle, with the value; each is seen one cycle later. -/
def Obligations.CounterCommandsWriteTheirRegister : Prop :=
  ∀ (s : State) (i : Iss) (q : Queue) (k : BitVec 3) (v : W16) (cmp : BitVec 2) (cond : BitVec 3),
    (dueNow s (.kset i q k v) i q = true → ∃ t, exec (.kset i q k v) s = .next t ∧ sameBeside s t ∧
      t.dp = if runs s i then (popped s i.core q).landIn 1 (.kset i.core q k v) else popped s i.core q) ∧
    (dueNow s (.kadd i q k v) i q = true → ∃ t, exec (.kadd i q k v) s = .next t ∧ sameBeside s t ∧
      t.dp = if runs s i then (popped s i.core q).landIn 1 (.kadd i.core q k v) else popped s i.core q) ∧
    (dueNow s (.cset i q cmp k cond v) i q = true → ∃ t, exec (.cset i q cmp k cond v) s = .next t ∧ sameBeside s t ∧
      let a := (vget (coreOf s i.core).k k).toInt
      let b := v.toInt
      let holds : Bool := if cond = 0 then a = b else if cond = 1 then a ≠ b else if cond = 2 then a < b else if cond = 3 then a ≤ b
        else if cond = 4 then a > b else a ≥ b
      t.dp = if runs s i then (popped s i.core q).landIn 1 (.cmp i.core q cmp holds) else popped s i.core q)

/-- WRST and WCLAIM reach the counter unit three cycles later (R244, R245): WRST puts the value at 0 and the limit at LIMIT; a claim of n
against value v is granted when v + n is at most the limit, and then the counter becomes v + n; the claiming core takes v into Kk, and
with CEN its comparator the outcome, two cycles on. -/
def Obligations.WorkCounterCommands : Prop :=
  (∀ (s : State) (i : Iss) (q : Queue) (wct : BitVec 4) (limit : W16) (n1 : BitVec 8) (k : BitVec 3) (cmp : BitVec 2) (cen : Bool),
    (dueNow s (.wrst i q wct limit) i q = true → ∃ t, exec (.wrst i q wct limit) s = .next t ∧ sameBeside s t ∧
      t.dp = if runs s i then (popped s i.core q).landIn 3 (.wrst wct limit) else popped s i.core q) ∧
    (dueNow s (.wclaim i q wct n1 k cmp cen) i q = true → ∃ t, exec (.wclaim i q wct n1 k cmp cen) s = .next t ∧ sameBeside s t ∧
      t.dp = if runs s i then (popped s i.core q).landIn 3 (.claimUnit i.core q wct (n1.toNat + 1) k cmp cen) else popped s i.core q)) ∧
  (∀ (d : Dp) (wct : BitVec 4) (limit : W16), (land d (.wrst wct limit)).1 = { d with wct := vset d.wct wct ⟨0, limit⟩ }) ∧
  (∀ (d : Dp) (c : BitVec 3) (q : Queue) (wct : BitVec 4) (n : Nat) (k : BitVec 3) (cmp : BitVec 2) (cen : Bool), n ≤ 256 →
    let w := vget d.wct wct
    let granted : Bool := w.val.toNat + n ≤ w.lim.toNat
    (land d (.claimUnit c q wct n k cmp cen)).1 =
      { d with wct := if granted then vset d.wct wct { w with val := w.val + BitVec.ofNat 16 n } else d.wct,
               landings := d.landings ++ [(2, .claimResult c q k w.val cmp cen granted)] }) ∧
  (∀ (d : Dp) (c : BitVec 3) (q : Queue) (k : BitVec 3) (v : W16) (cmp : BitVec 2) (cen ok : Bool),
    let x := vget d.cores c
    (land d (.claimResult c q k v cmp cen ok)).1 =
      d.setCore c { x with k := vset x.k k v, cmp := if cen then setBit x.cmp cmp.toNat ok else x.cmp })

/-- What is on its way lands after its cycles and no sooner (R174, R180, R237, R247): a single effect n cycles ahead has not taken place
while fewer cycles pass, and has taken place once they have. What each kind of effect is: a core flag, a device flag, CFLG, a loop
counter set or moved, a comparator, a ready bit, lanes of vector registers, a row of the device with fresh checks, a row of the state
buffer, the tables, a finished tile, an inbound row; each changes nothing else. -/
def Obligations.LandingTakesEffectInItsCycle : Prop :=
  (∀ (d : Dp) (n m : Nat) (l : Landing), d.landings = [(n, l)] →
    (m < n → (d.passLandings m).1 = { d with landings := [(n - m, l)] }) ∧
    ((∀ c q w k p x y, l ≠ .claimUnit c q w k p x y) → n ≤ m → (d.passLandings m).1 = (land { d with landings := [] } l).1) ∧
    (∀ c f v, l = .flag c f v → (land { d with landings := [] } l).1 = { d with landings := [] }.modCore c (fun x => { x with flg := setBit x.flg f.toNat v })) ∧
    (∀ f v, l = .dflag f v → (land { d with landings := [] } l).1 = { d with landings := [], dflg := setBit d.dflg f.toNat v })) ∧
  (∀ (d : Dp) (c : BitVec 3) (f : BitVec 7), (land d (.deDone c f)).1 =
    if f.getLsbD 6 then d.modCore c (fun x => { x with flg := setBit x.flg (f.extractLsb' 0 6).toNat true }) else d) ∧
  (∀ (d : Dp) (c : BitVec 3) (q : Queue) (k : BitVec 3) (v : W16), (land d (.kset c q k v)).1 = d.modCore c (fun x => { x with k := vset x.k k v }) ∧
    (land d (.kadd c q k v)).1 = d.modCore c (fun x => { x with k := vset x.k k (vget x.k k + v) })) ∧
  (∀ (d : Dp) (c : BitVec 3) (q : Queue) (n : BitVec 2) (v : Bool), (land d (.cmp c q n v)).1 = d.modCore c (fun x => { x with cmp := setBit x.cmp n.toNat v })) ∧
  (∀ (d : Dp) (c : BitVec 3) (b : BitVec 6) (v : Bool),
    let x := (vget d.cores c).me
    let y := (vget (land d (.ready c b v)).1.cores c).me
    y.whReady ++ y.ibReady = (if v then (x.whReady ++ x.ibReady) ||| b else (x.whReady ++ x.ibReady) &&& ~~~b) ∧
      (land d (.ready c b v)).1 = d.modCore c (fun z => { z with me := { z.me with ibReady := y.ibReady, whReady := y.whReady } })) ∧
  (∀ (d : Dp) (c : BitVec 3) (l : List (Nat × Nat × Nat)), memWf (vget d.cores c).ve.regs → (∀ y ∈ l, y.2.1 < 64) →
    (l.map (fun y => (y.1, y.2.1))).Nodup →
    let r := (land d (.regs c l)).1
    (∀ n j v, (n, j, v) ∈ l → laneCode (vget r.cores c) n j = v % 2 ^ 32) ∧
      (∀ n j, j < 64 → (∀ v, (n, j, v) ∉ l) → laneCode (vget r.cores c) n j = laneCode (vget d.cores c) n j) ∧
      r = d.modCore c (fun x => { x with ve := { x.ve with regs := (vget r.cores c).ve.regs } })) ∧
  (∀ (d : Dp) (row : Nat) (b : List Byte), memWf d.dev →
    let r := (land d (.row row b)).1
    rowData r row = padTo 512 b ∧ (rowMarks r row).isEmpty = true ∧ (∀ a, a / 512 ≠ row → memRead r.dev a = memRead d.dev a) ∧
      (∀ k, k ≠ row → rowMarks r k = rowMarks d k) ∧ { r with dev := d.dev, ecc := d.ecc, wcls := d.wcls } = d) ∧
  (∀ (d : Dp) (c : BitVec 3) (a : Nat) (b : List Byte), memWf (vget d.cores c).se.buf →
    let r := (land d (.sbuf c [(a, b)])).1
    (∀ k, memRead (vget r.cores c).se.buf k = if a ≤ k ∧ k < a + b.length then byteAt b (k - a) else memRead (vget d.cores c).se.buf k) ∧
      r = d.modCore c (fun x => { x with se := { x.se with buf := (vget r.cores c).se.buf } })) ∧
  (∀ (d : Dp) (c : BitVec 3) (b : List Byte), memWf (vget d.cores c).me.tb →
    let r := (land d (.tables c b)).1
    (∀ k, memRead (vget r.cores c).me.tb k = if k < b.length then byteAt b k else memRead (vget d.cores c).me.tb k) ∧
      r = d.modCore c (fun x => { x with me := { x.me with tb := (vget r.cores c).me.tb } })) ∧
  (∀ (d : Dp) (c : BitVec 3) (u : Tile),
    let x := (vget d.cores c).me
    (land d (.tile c u)).1 = d.modCore c (fun y => { y with me :=
      if x.ftq.length < 8 ∧ x.outq = [] then { x with ftq := x.ftq ++ [u] } else { x with outq := x.outq ++ [u] } })) ∧
  (∀ (d : Dp) (c : BitVec 3) (r : InRow),
    let x := (vget d.cores c).cm
    (land d (.inRow c r)).1 = d.modCore c (fun y => { y with cm :=
      if x.fabric = [] ∧ x.inbound.length < 16 then { x with inbound := x.inbound ++ [r] } else { x with fabric := x.fabric ++ [r] } }))

/-- The lane-wise commands of group 3 (R172, R173, R176, R178, R180, Table 8-2): every enabled lane of VD takes the exact result of its
operands, as they stand in the issue cycle, rounded once at QD, whatever VD is, readable after the command's latency; no other register
and nothing else of the core but its flags and the VE's occupancy changes. With the predicate false no register changes and no flag is
raised (R229). -/
def Obligations.LaneCommandsRoundOnce : Prop :=
  ∀ (s : State) (c : Instr) (i : Iss) (f : VArithF), laneBody c = some (i, f) → dueNow s c i .ve = true →
    let x := coreOf s i.core
    let on := (List.range 64).filter (fun j => laneOn x i.hdr.mask i.pkt 0 j)
    ∃ t, exec c s = .next t ∧ sameBeside s t ∧
      onlyCore s t i.core .ve keepVe
        (if runs s i then [(1 + laneLat c, .regs i.core (on.map (fun j => (f.vd.toNat, j, laneCodeOf x c f j))))] else []) ∧
      (coreOf t i.core).ve = veBusyWith x.ve s.dp.cycle 1 (laneLat c) ∧
      flagsRaised s t i.core .ve (if runs s i then flagsAll (on.map (laneFlagsOf x c f)) else .none)

/-- VRSUM, VRSSQ and VRMAX (R174, R192, Table 8-2): one exact result over the enabled lanes of CNT registers, Σ a, Σ a² or max |a|, stored
once at QD into lane STD of VD, zero when no lane is enabled, NAN when a lane is the symmetric marker; nothing else of the core but its
flags and the VE's occupancy changes. -/
def Obligations.ReductionsStoreOnce : Prop :=
  ∀ (s : State) (c : Instr) (i : Iss) (f : VRedF) (total : List Int → Dec),
    (c = .vrsum i f ∧ total = (fun l => .fin l.sum f.qa.toInt) ∨
      c = .vrssq i f ∧ total = (fun l => .fin (l.map (fun a => a * a)).sum (2 * f.qa.toInt)) ∨
      c = .vrmax i f ∧ total = (fun l => .fin (l.foldl (fun m a => max m a.natAbs) 0) f.qa.toInt)) →
    dueNow s c i .ve = true →
    let x := coreOf s i.core
    let cnt := f.cnt1.toNat + 1
    let l := enabledLanes s i f
    let r := storeElem .i32 (f.sym == 1) (if f.sym = 1 ∧ -(2 ^ 31) ∈ l then .nan else total l) f.qd.toInt
    ∃ t, exec c s = .next t ∧ sameBeside s t ∧
      onlyCore s t i.core .ve keepVe (if runs s i then [(cnt + 6, .regs i.core [(f.vd.toNat, f.std.toNat, r.1)])] else []) ∧
      (coreOf t i.core).ve = veBusyWith x.ve s.dp.cycle cnt 6 ∧
      flagsRaised s t i.core .ve (if runs s i then r.2 else .none)

/-- VLD (R177, R180, R181, Table 8-2): lane j of register i of the operand takes element E0 + (64i + j) × STR of the span at ADDR, its
scales at SADDR, decoded under the format at FQ + QA and stored once at QD, two rows read a cycle; no other lane and no memory changes.
The rows read lie in bounds and check. -/
def Obligations.VldLoadsElements : Prop :=
  ∀ (s : State) (i : Iss) (f : VMemF), dueNow s (.vld i f) i .ve = true →
    let x := coreOf s i.core
    let sel := fmtGet x f.fmti
    let rows := vldRows x f
    let e := fun (y : Nat × Nat) => f.e0.toNat + (64 * y.1 + y.2) * f.str.toNat
    let on := ((List.range (f.cnt1.toNat + 1)).flatMap (fun r => (List.range 64).map (fun j => (r, j)))).filter (fun y => laneOn x i.hdr.mask i.pkt y.1 y.2)
    let el := fun (y : Nat × Nat) => elemSeen s.dp i.core sel (adrOrch f.addr) (adrOff f.addr) (portCycle rows.1 0) (adrOrch f.saddr) (adrOff f.saddr)
      (portCycle rows.2 rows.1.length) (e y) f.qa.toInt
    let st := fun (y : Nat × Nat) => storeElem .i32 (f.sym == 1) (el y).1 f.qd.toInt
    let lat := if adrOrch f.addr then 15 else 7
    let occ := max 1 ((rows.1.length + rows.2.length + 1) / 2)
    (runs s i = true → ∀ y ∈ on, cleanElem s.dp i.core sel (adrOrch f.addr) (adrOff f.addr) (portCycle rows.1 0) (adrOrch f.saddr) (adrOff f.saddr)
      (portCycle rows.2 rows.1.length) (e y) = true) →
    ∃ t, exec (.vld i f) s = .next t ∧ sameBeside s t ∧
      onlyCore s t i.core .ve keepVe (if runs s i then [(occ + lat, .regs i.core (on.map (fun y => (f.vr.toNat + y.1, y.2, (st y).1))))] else []) ∧
      (coreOf t i.core).ve = veBusyWith x.ve s.dp.cycle occ lat ∧
      flagsRaised s t i.core .ve (if runs s i then flagsAll (on.map (fun y => { (st y).2 with inv := (st y).2.inv || (el y).2 })) else .none)

/-- VST (R174, R177, R178, R180, R181, R204): the lanes of CNT registers, register r read in cycle I + r and a lane turned off counting as
zero, are stored under the format at FQ + QD into consecutive rows from ADDR, and the scales of a shared-scale format into rows from
SADDR, a row a cycle, the last in cycle I + O + 5; no other byte of device memory and no register changes. Nothing is stored where the
predicate is false or no lane is enabled. The rows written are in bounds. -/
def Obligations.VstStoresRows : Prop :=
  ∀ (s : State) (i : Iss) (f : VMemF), dueNow s (.vst i f) i .ve = true →
    let x := coreOf s i.core
    let sel := fmtGet x f.fmti
    let l := storeLanes (seenAt s i.core) i f.vr.toNat (f.cnt1.toNat + 1) (f.sym == 1) f.qa.toInt
    let r := storeElems sel.op sel.fixs (sel.fq + f.qd.toInt) (sel.op.block sel.op.fmt.perRow) l.1
    let n := (vstRows x f).1
    let m := (vstRows x f).2
    let occ := max (f.cnt1.toNat + 1) (n + m)
    let first := occ - (n + m) + 6
    let stored : Bool := runs s i && l.2
    (stored = true → rowsThere s.dp i.core (adrOrch f.addr) (adrOff f.addr) n = true ∧ rowsThere s.dp i.core (adrOrch f.saddr) (adrOff f.saddr) m = true) →
    ∃ t, exec (.vst i f) s = .next t ∧ sameBeside s t ∧
      onlyCore s t i.core .ve keepVe (if stored then
        rowsLanding s.dp i.core (adrOrch f.addr) (adrOff f.addr) n r.1 (fun j => first + j) ++
          rowsLanding s.dp i.core (adrOrch f.saddr) (adrOff f.saddr) m r.2.1 (fun j => first + n + j) else []) ∧
      (coreOf t i.core).ve = veBusyWith x.ve s.dp.cycle occ (if adrOrch f.addr then 14 else 6) ∧
      flagsRaised s t i.core .ve (if stored then r.2.2 else .none)

/-- MM (R87, R88, R110, R114, R116, R117, R120, R121, R123): each enabled entry a command names, and no other, takes its start value plus
the products of its problem in K order, rounded as R85 to R90 say: with ACC_ADD 0 from zero, else from the entry itself; in the CPLX shape
the real half takes Re·Re − Im·Im and the imaginary half Re·Im + Im·Re. DST 0 finishes no tile; DST 1 sends the finished tiles to the
queue, each in the cycle in which it becomes visible, zero tiles where the predicate is false or nothing is enabled (R229, R260); DST 2
writes their rows from ADDR in those cycles. REL clears the ready bits of what it names. No register, buffer or memory changes at issue. -/
def Obligations.MatrixCommandAccumulates : Prop :=
  ∀ (s : State) (i : Iss) (f : MmF), dueNow s (.mm i f) i .me = true →
    let x := coreOf s i.core
    let sa := fmtGet x f.fmtA
    let sw := fmtGet x f.fmtW
    let works : Bool := runs s i && !mmZeroShape x i f
    let pairs := mmPairs x f sa sw (meFactor sa.op sw.op)
    let start := fun (row col : Nat) => if f.accAdd = 1 then accAt x s.dp.free (accKey f.abank row col) else A88.zero
    let tiles := if works then tilesOf x s.dp.free i f else zeroTilesOf x f
    let n := (tiles.map (fun u => rowsFor (tileRows u.2).length)).sum
    let entered := if f.dst = 1 then tiles.map (fun u => (u.1, Landing.tile i.core u.2)) else []
    let stored := if f.dst = 2 ∧ works = true then tilesLanding s.dp i.core f.addr.toNat tiles else []
    let written := fun (q r n : Nat) => q < shapeSubs f.shape.toNat ∧ r < shapeRows f.shape.toNat ∧ n < mmColsN f ∧ works = true ∧
      rowOn x i.hdr.mask i.pkt (subRow f.shape.toNat q + r) = true
    let col := fun (q n : Nat) => subCol f.shape.toNat q + f.acol.toNat + n
    (f.dst = 2 → works = true → rowsThere s.dp i.core false f.addr.toNat n = true) →
    ∃ t, exec (.mm i f) s = .next t ∧ sameBeside s t ∧
      t.dp = { s.dp.setCore i.core (keepMe (coreOf t i.core) (x.pop .me)) with
        landings := s.dp.landings ++ (if works then releases i.core f ++ entered ++ stored else entered ++ releases i.core f), free := t.dp.free } ∧
      { (coreOf t i.core).me with acc := x.me.acc, busyCyc := x.me.busyCyc, runs := x.me.runs, arrayIdle := x.me.arrayIdle } = x.me ∧
      (coreOf t i.core).me.busyCyc = x.me.busyCyc + (if works then BitVec.ofNat 32 (mmPasses f * (mmSegs f * mmColsN f)) else 0) ∧
      (∀ q r n, written q r n → f.shape ≠ 4 → colOn x i.hdr.mask (col q n) = true →
        accEntry (coreOf t i.core) f.abank (subRow f.shape.toNat q + r) (col q n) =
          some (dotEntry (start (subRow f.shape.toNat q + r) (col q n)) (pairs q r n 0 0 false).1 f.accExp.toInt).1) ∧
      (∀ r n, written 0 r n → f.shape = 4 → colOn x i.hdr.mask (col 0 n) = true →
        accEntry (coreOf t i.core) f.abank r (col 0 n) =
          some (dotEntry (start r (col 0 n)) ((pairs 0 r n 0 0 false).1 ++ (pairs 0 r n 1 1 true).1) f.accExp.toInt).1) ∧
      (∀ r n, written 0 r n → f.shape = 4 → colOn x i.hdr.mask (col 0 n + 64) = true →
        accEntry (coreOf t i.core) f.abank r (col 0 n + 64) =
          some (dotEntry (start r (col 0 n + 64)) ((pairs 0 r n 0 1 false).1 ++ (pairs 0 r n 1 0 false).1) f.accExp.toInt).1) ∧
      (∀ bank row k, row < 64 → k < 128 → (∀ q r n, written q r n → bank = f.abank →
          (colOn x i.hdr.mask (col q n) = true → ¬(row = subRow f.shape.toNat q + r ∧ k = col q n)) ∧
          (f.shape = 4 → colOn x i.hdr.mask (col q n + 64) = true → ¬(row = subRow f.shape.toNat q + r ∧ k = col q n + 64))) →
        accEntry (coreOf t i.core) bank row k = accEntry x bank row k) ∧
      flagsRaised s t i.core .me (if works then
        (mmResults x s.dp.free i f).2.or (if f.dst = 0 then .none else flagsAll ((tileGroups f).map (fun g =>
          (groupTiles x f f.accExp.toInt (tileValues (mmResults x s.dp.free i f).1 g)).2))) else .none)

/-- WFILL copies its rows and scale rows into the weight half from the row its address and loop counter name, and TLOAD its row into the
tables; the half's ready bit is set when the last row lands, and the tables change in the ninth cycle, so that an MM of the eighth still
sees the old ones; with the predicate false WFILL still sets its ready bit (R109, R110, R111, R115, R230). Every other byte of the half
and of its scale store stays, and so does everything else but the fill unit's occupancy. -/
def Obligations.FillsCopyRows : Prop :=
  (∀ (s : State) (i : Iss) (f : WfillF), dueNow s (.wfill i f) i .me = true → memWf (coreOf s i.core).me.wh → memWf (coreOf s i.core).me.whScale →
    let x := coreOf s i.core
    let n := f.nrows1.toNat + 1
    let m := f.srows.toNat
    let o := f.addr.toNat + xkValue x f.xk
    (runs s i = true → ∀ k < n + m, cleanRow s.dp i.core false (o + k) k = true) →
    ∃ t, exec (.wfill i f) s = .next t ∧ sameBeside s t ∧
      onlyCore s t i.core .me (fun y z => { keepEnds y z with me := y.me }) [(n + m + 6, .ready i.core (1#6 <<< (4 + f.wh.toNat)) true)] ∧
      { (coreOf t i.core).me with wh := x.me.wh, whScale := x.me.whScale } = { x.me with fillIdle := max x.me.fillIdle (s.dp.cycle + (n + m + 6)) } ∧
      (∀ k, memRead (coreOf t i.core).me.wh k =
        let b := 65536 * f.wh.toNat + 512 * f.wrow.toNat
        if runs s i = true ∧ b ≤ k ∧ k < b + 512 * n then byteAt (rowAt s.dp i.core false (o + (k - b) / 512) ((k - b) / 512)) ((k - b) % 512)
        else memRead x.me.wh k) ∧
      (∀ k, memRead (coreOf t i.core).me.whScale k =
        let b := 16384 * f.wh.toNat + 512 * f.swrow.toNat
        if runs s i = true ∧ b ≤ k ∧ k < b + 512 * m then byteAt (rowAt s.dp i.core false (o + n + (k - b) / 512) (n + (k - b) / 512)) ((k - b) % 512)
        else memRead x.me.whScale k)) ∧
  (∀ (s : State) (i : Iss) (f : TloadF), dueNow s (.tload i f) i .me = true →
    let x := coreOf s i.core
    let o := f.addr.toNat + xkValue x f.xk
    (runs s i = true → cleanRow s.dp i.core false o 0 = true) →
    ∃ t, exec (.tload i f) s = .next t ∧ sameBeside s t ∧
      onlyCore s t i.core .me (fun y z => { keepEnds y z with me := { z.me with fillIdle := max z.me.fillIdle (s.dp.cycle + 8) } })
        (if runs s i then [(9, .tables i.core (rowAt s.dp i.core false o 0))] else []))

/-- DMOVE and DMOVEX, and DGATHER (R79, R206, R229, R230, R257, R258, R429, R430): every enabled row of every batch goes from its source
place to its destination place, each with its stride and, in DMOVEX, the loop counter's offset, the scale rows of a shared-scale format
behind them; where the formats differ the rows are converted, and the conversion's flags are the DE's. DGATHER takes for destination row k
the source row whose offset is the k-th 32-bit index from IOFS on. No other place changes, masked rows among them. A row k of a batch is
read in its cycle and lands one cycle after the source's latency; CFLG lands in the cycle in which the last row is readable, and the
slot's ready bit when it lands; both also where the predicate is false. Places are device rows, rows of the SE state buffer and rows of
the ME slots, which take their bytes at once. The rows exist, check and are written in time. -/
def Obligations.MovesCopyRows : Prop :=
  (∀ (s : State) (c : Instr) (i : Iss) (j : MoveJob),
    ((∃ f : DmoveF, c = .dmove i f ∧ j = dmoveJob f) ∨
      (∃ f : DmovexF, c = .dmovex i f ∧ j = dmovexJob f (xkValue (coreOf s i.core) f.xk * f.xsc.toNat : Nat))) →
    dueNow s c i .de = true → (runs s i = true → movesPlainly s i j) →
    let x := coreOf s i.core
    let o := j.bcnt * batchOcc x j.fs j.fd j.nrows
    let ls := srcLat j.sl j.sadr
    ∃ t, exec c s = .next t ∧ sameBeside s t ∧
      onlyCore s t i.core .de keepBuffers ((if runs s i then moveLandings s i j else []) ++
        (if j.dl = 2 then [(o + ls + 1, .ready i.core (1#6 <<< (j.dadr.extractLsb' 4 2).toNat) true)] else []) ++
        [(o + ls + 2 + (if j.dl = 0 ∧ adrOrch j.dadr = true then 8 else 0), .deDone i.core j.cflg)]) ∧
      (coreOf t i.core).me.ib = setCells x.me.ib (if runs s i then moveSlots s i j else []) ∧
      (coreOf t i.core).me.ibScale = setCells x.me.ibScale (if runs s i then (List.range j.bcnt).flatMap (batchScales s i j) else []) ∧
      flagsRaised s t i.core .de (if runs s i then moveFlags s i j else .none)) ∧
  (∀ (s : State) (i : Iss) (f : DgatherF), dueNow s (.dgather i f) i .de = true →
    let x := coreOf s i.core
    let n := f.nrows1.toNat + 1
    let ls := srcLat 0 f.sadr
    let on := (List.range n).filter (fun k => rowOn x i.hdr.mask i.pkt (k % 64))
    let ixRow := fun (k : Nat) => refRow s.dp i.core (adrOrch f.iadr) (adrOff f.iadr + (f.iofs.toNat + k) / 128)
    let locked := fun (row : Nat) => x.cm.locked.find? (fun y => y.1 == row)
    let ixBytes := fun (k : Nat) => match ixRow k with
      | some row => (match locked row with | some y => y.2 | none => rowSeen s.dp i.core row (k - 6))
      | none => zeroRow
    let src := fun (k : Nat) => placeOf s.dp i.core 0 f.sadr (codeAt .i32 (ixBytes k) ((f.iofs.toNat + k) % 128))
    let dst := fun (k : Nat) => placeOf s.dp i.core 0 f.dadr k
    (runs s i = true → ∀ k ∈ on, ∃ row p w, ixRow k = some row ∧ ((locked row).isSome || rowChecks s.dp i.core row (k - 6)) = true ∧
      src k = some p ∧ placeChecks s.dp i.core k p = true ∧ dst k = some w ∧ inTime s i.core (pitInOf s i.core) (k + ls + 1) w = true ∧
      ∀ m ∈ on, dst m ≠ some p ∧ dst m ≠ some (.dev row)) →
    ∃ t, exec (.dgather i f) s = .next t ∧ sameBeside s t ∧
      onlyCore s t i.core .de keepEnds ((if runs s i then on.flatMap (fun k => match src k, dst k with
          | some p, some w => placeLanding s.dp i.core (k + ls + 1) (placeSeen s.dp i.core k p) w
          | _, _ => []) else []) ++
        [(n + ls + 2 + (if adrOrch f.dadr = true then 8 else 0), .deDone i.core f.cflg)]))

/-- DREMOTE with credits for its rows, inside the channel's rows, its source rows clean, its target rows in a valid region, and no other row
on its way to the target (R27, R200, R213, R257): the channel's count falls by NROWS; enabled row k reaches the target's inbound buffer in
cycle I + k + 2, the last one with RFLG; CFLG lands in cycle I + O + 2, when it is first seen. Where no row is sent, RFLG is set on time all
the same (R229). Without the credits it takes none, sends nothing, sets its flags and is a CREDIT_VIOLATION. No memory changes. DCRET
returns credits whatever its predicate says (R214): in the fifth cycle the producer's count rises by N, at most to its initial count, and
the channel's flag is set; more than the initial count is the returning core's CREDIT_VIOLATION. -/
def Obligations.RemoteWritesAndCredits : Prop :=
  (∀ (s : State) (i : Iss) (f : DremoteF), dueNow s (.dremote i f) i .de = true →
    let x := coreOf s i.core
    let n := f.nrows1.toNat + 1
    let ch := vget x.cm.chans f.cch
    let on := if runs s i then (List.range n).filter (fun k => rowOn x i.hdr.mask i.pkt (k % 64)) else []
    let at_ := fun (k : Nat) => cmRow s.dp ch.tgt (ch.rbase.toNat + f.rofs.toNat + k)
    let row := fun (k : Nat) => InRow.mk (.core i.core) ((at_ k).map (fun r => r % 0x4000))
      (rowAt s.dp i.core (adrOrch f.sadr) (adrOff f.sadr + k) k) (if on.getLast? = some k then some f.rflg else none)
    n ≤ ch.credit → f.rofs.toNat + n ≤ ch.rrows.toNat → (∀ l ∈ s.dp.landings, ∀ r, l.2 ≠ .inRow ch.tgt r) →
    (∀ k ∈ on, cleanRow s.dp i.core (adrOrch f.sadr) (adrOff f.sadr + k) k = true ∧ (at_ k).isSome = true) →
    ∃ t, exec (.dremote i f) s = .next t ∧ sameBeside s t ∧
      onlyCore s t i.core .de (fun y z => { keepEnds y z with cm :=
          { z.cm with chans := vset z.cm.chans f.cch { ch with credit := ch.credit - n } } })
        (on.map (fun k => (k + 3, .inRow ch.tgt (row k))) ++ [(n + 2, .deDone i.core f.cflg)] ++
          (if on = [] then [(n + 3, .flag ch.tgt f.rflg true)] else []))) ∧
  (∀ (s : State) (i : Iss) (f : DremoteF), dueNow s (.dremote i f) i .de = true →
    let n := f.nrows1.toNat + 1
    let ch := vget (coreOf s i.core).cm.chans f.cch
    ch.credit < n →
    ∃ t, exec (.dremote i f) s = .next t ∧ (vget (coreOf t i.core).cm.chans f.cch) = ch ∧ t.dp.dev = s.dp.dev ∧
      t.dp.landings = s.dp.landings ++ [(n + 2, .deDone i.core f.cflg), (n + 3, .flag ch.tgt f.rflg true)] ∧
      (vget t.err.cls 4).cnt = satInc (vget s.err.cls 4).cnt) ∧
  (∀ (s : State) (i : Iss) (f : DcretF), dueNow s (.dcret i f) i .de = true →
    ∃ t, exec (.dcret i f) s = .next t ∧ sameBeside s t ∧
      t.dp = (popped s i.core .de).landIn 5 (.creditReturn f.tcore f.cch (f.nrows1.toNat + 1) i.core)) ∧
  (∀ (d : Dp) (p ch : BitVec 3) (n : Nat) (k : BitVec 3),
    let x := vget d.cores p
    let c := vget x.cm.chans ch
    let r := land d (.creditReturn p ch n k)
    r.1 = d.setCore p { x with flg := setBit x.flg c.flag.toNat true,
                               cm := { x.cm with chans := vset x.cm.chans ch { c with credit := min c.init (c.credit + n) } } } ∧
      (c.credit + n ≤ c.init → r.2 = []) ∧
      (c.init < c.credit + n → r.2.map (fun e => (e.cls, e.status, e.core, e.info0)) = [(4, 0xA, some k, ch.zeroExtend 32)]))

/-- INBOUND_ROW_LAND (R27, R200, R213, R215, R216): the first row of a core's inbound buffer leaves it, one that waited in the fabric
enters, the row stands in the core's memory, and the flag of a write's last row is set in the second cycle; a row from outside lands
through an open window. Every other row of memory stays. In service only rows of other cores' DEs are admitted, out of service only what an
open window admits: any other row is discarded with WINDOW_VIOLATION. With no row waiting nothing changes. -/
def Obligations.InboundRowLands : Prop :=
  (∀ (s : State) (c : BitVec 3) (r : InRow) (rs : List InRow) (row : Nat), memWf s.dp.dev → (coreOf s c).cm.inbound = r :: rs →
    r.row = some row → rowAdmitted s.dp c r.src row = true →
    ∃ t, exec (.inboundRowLand c none) s = .next t ∧ { t with dp := s.dp } = s ∧
      { t.dp with cores := s.dp.cores, dev := s.dp.dev, ecc := s.dp.ecc, wcls := s.dp.wcls, landings := s.dp.landings } = s.dp ∧
      rowData t.dp (coreRow c row) = padTo 512 r.data ∧ otherRowsKept s t [coreRow c row] ∧
      t.dp.cores = (s.dp.modCore c (fun x => { x with cm := { x.cm with inbound := rs ++ x.cm.fabric.take 1, fabric := x.cm.fabric.drop 1 } })).cores ∧
      t.dp.landings = s.dp.landings ++ (match r.flag with | some f => [(2, .flag c f true)] | none => [])) ∧
  (∀ (s : State) (c : BitVec 3) (o : OutRow), memWf s.dp.dev → rowAdmitted s.dp c o.src o.row.toNat = true →
    ∃ t, exec (.inboundRowLand c (some o)) s = .next t ∧ { t with dp := s.dp } = s ∧
      { t.dp with dev := s.dp.dev, ecc := s.dp.ecc, wcls := s.dp.wcls } = s.dp ∧
      rowData t.dp (coreRow c o.row.toNat) = padTo 512 o.data ∧ otherRowsKept s t [coreRow c o.row.toNat]) ∧
  (∀ (s : State) (c : BitVec 3) (o : OutRow), rowAdmitted s.dp c o.src o.row.toNat = false →
    ∃ t, exec (.inboundRowLand c (some o)) s = .next t ∧ t.dp = s.dp ∧ (vget t.err.cls 3).cnt = satInc (vget s.err.cls 3).cnt) ∧
  (∀ (s : State) (c : BitVec 3) (r : InRow) (rs : List InRow) (row : Nat), (coreOf s c).cm.inbound = r :: rs → r.row = some row →
    rowAdmitted s.dp c r.src row = false →
    ∃ t, exec (.inboundRowLand c none) s = .next t ∧ t.dp.dev = s.dp.dev ∧ (coreOf t c).cm.inbound = rs ++ (coreOf s c).cm.fabric.take 1 ∧
      (vget t.err.cls 3).cnt = satInc (vget s.err.cls 3).cnt) ∧
  (∀ (s : State) (c : BitVec 3), (coreOf s c).cm.inbound = [] → exec (.inboundRowLand c none) s = .next s) ∧
  (∀ (d : Dp) (c : BitVec 3) (src : RowSrc) (row : Nat), rowAdmitted d c src row =
    (decide (row < 12288) && (if (vget d.cores c).cm.inService then (match src with | .core _ => true | _ => false)
      else (vget d.cores c).cm.windows.toList.any (fun w => w.opened && decide (w.base.toNat ≤ row) && decide (row < w.base.toNat + w.rows.toNat) &&
        (match src with | .core k => w.srcCore.getLsbD k.toNat | .sp => w.sp | .xp => w.xp | .dbg => w.dbg)))))

/-- DMEM (R46, R229, R235, R257, R404, R429): at its issue the transfer joins the core's outstanding ones, offered to its port's meter, with
the bytes a write takes from its local rows, converted where the formats differ; where it does not run or no row is enabled it only sets
CFLG. When the oldest admitted one completes with OKAY, a write leaves its rows in external memory, a read in the local rows, and CFLG is
set in the next cycle; a bad response is reported and nothing lands. Rows masked off keep their bytes. With none outstanding a completion
changes nothing. -/
def Obligations.DmemTransfersRows : Prop :=
  (∀ (s : State) (i : Iss) (f : DmemF), dueNow s (.dmem i f) i .de = true →
    let x := coreOf s i.core
    let j := dmemJob f
    let n := f.nrows1.toNat + 1
    let on := rowsOn s i j 0
    runs s i = true → on ≠ [] →
    (f.dir = 1 → ∀ k ∈ batchReads s i j 0, ∃ p, srcPlace s i j 0 k = some p ∧ placeChecks s.dp i.core k p = true) →
    let m := meterOffer s.dp (8 + f.port.zeroExtend 4) (512 * dmemRows x f (fun k => rowOn x i.hdr.mask i.pkt (k % 64)) n) (inEarly s i.core)
    let conv := converted s i j 0
    ∃ t y, exec (.dmem i f) s = .next t ∧ sameBeside s t ∧
      t.dp = { m.2.setCore i.core { keepFlags (coreOf t i.core) (x.pop .de) with dmem := x.dmem ++ [y] } with landings := s.dp.landings } ∧
      y.port = f.port ∧ y.dir = f.dir ∧ y.mrow = f.mrow ∧ y.ladr = f.ladr ∧ y.nrows = n ∧ y.fmtS = f.fmtS ∧ y.fmtD = f.fmtD ∧ y.cflg = f.cflg ∧
      y.ticket = m.1 ∧ y.tick = x.tick ∧ y.pkt = i.pkt ∧
      (∀ k < 64, y.rows.getLsbD k = rowOn x i.hdr.mask i.pkt k) ∧
      y.data = (if f.dir = 0 then [] else if needsConv x f.fmtS f.fmtD then
          padTo (512 * destRows (fmtGet x f.fmtS) (fmtGet x f.fmtD) n) conv.1 ++ padTo (512 * rowsFor conv.2.1.length) conv.2.1
        else srcElems s i j 0 ++ srcScales s i j 0) ∧
      flagsRaised s t i.core .de (if f.dir = 1 ∧ needsConv x f.fmtS f.fmtD = true then conv.2.2 else .none)) ∧
  (∀ (s : State) (i : Iss) (f : DmemF), dueNow s (.dmem i f) i .de = true → (runs s i = false ∨ rowsOn s i (dmemJob f) 0 = []) →
    ∃ t, exec (.dmem i f) s = .next t ∧ sameBeside s t ∧
      t.dp = (popped s i.core .de).landIn (batchOcc (coreOf s i.core) f.fmtS f.fmtD (f.nrows1.toNat + 1) + 2) (.deDone i.core f.cflg)) ∧
  (∀ (s : State) (c : BitVec 3) (data : List Byte) (x : DmemXfer) (rest : List DmemXfer), memWf s.dp.ext →
    takeDmem s.dp (coreOf s c).dmem = some (x, rest) →
    let z := coreOf s c
    let pit := pitOfTick s x.tick
    let rows := if x.dir = 0 then dmemRowsIn z x data else ([], .none)
    (∀ y ∈ rows.1, ∃ p, placeOf s.dp c 0 x.ladr y.1 = some p ∧ inTime s c pit 0 p = true) →
    ∃ t, exec (.dmemComplete c 0 data) s = .next t ∧ { t with dp := s.dp } = s ∧
      t.dp = { s.dp.setCore c (keepFlags (coreOf t c) { z with dmem := rest }) with
        ext := t.dp.ext,
        landings := s.dp.landings ++ rows.1.flatMap (fun y => match placeOf s.dp c 0 x.ladr y.1 with
            | some p => placeLanding s.dp c 0 y.2 p | none => []) ++ [(1, .deDone c x.cflg)] } ∧
      (∀ a, memRead t.dp.ext a =
        let k := a / 512 - x.mrow.toNat
        if x.dir = 1 ∧ x.mrow.toNat ≤ a / 512 ∧ 512 * k + a % 512 < x.data.length ∧ destOn z x.fmtS x.fmtD x.on x.nrows k = true
        then byteAt x.data (512 * k + a % 512) else memRead s.dp.ext a) ∧
      flagsOfTick s t c .de x.tick rows.2) ∧
  (∀ (s : State) (c : BitVec 3) (resp : BitVec 2) (data : List Byte) (x : DmemXfer) (rest : List DmemXfer), 2 ≤ resp.toNat →
    takeDmem s.dp (coreOf s c).dmem = some (x, rest) →
    ∃ t, exec (.dmemComplete c resp data) s = .next t ∧ (coreOf t c).dmem = rest ∧ t.dp.ext = s.dp.ext ∧ t.dp.dev = s.dp.dev ∧
      t.dp.landings = s.dp.landings ++ [(1, .deDone c x.cflg)] ∧ (vget t.err.cls 0xB).cnt = satInc (vget s.err.cls 0xB).cnt) ∧
  (∀ (s : State) (c : BitVec 3) (resp : BitVec 2) (data : List Byte), takeDmem s.dp (coreOf s c).dmem = none →
    exec (.dmemComplete c resp data) s = .next s)

/-- VIB, VFT and VCTL (R110, R118, R174, R180, R182, R183, R184, R190, R229, R260): VIB packs its lanes into the slot from byte 512 × SROW,
up to the slot's end, and with LAST sets the slot's ready bit; VFT takes the head tile, whatever its predicate, and every enabled lane of
16 registers takes its element, raw or decoded and stored at QD, or the tile's bytes go unchanged to rows; an empty queue is an underflow
that counts, is reported, and where the command would move something writes the all-zeros code; VCTL reads a row into the pending copy of
its table, which becomes the active one eight cycles on. -/
def Obligations.StagingCommands : Prop :=
  (∀ (s : State) (i : Iss) (f : VibF), dueNow s (.vib i f) i .ve = true → memWf (coreOf s i.core).me.ib →
    memWf (coreOf s i.core).me.ibScale →
    let x := coreOf s i.core
    let sel := fmtGet x f.fmti
    let l := storeLanes (seenAt s i.core) i f.va.toNat (f.cnt1.toNat + 1) (f.sym == 1) f.qa.toInt
    let r := storeElems sel.op sel.fixs (sel.fq + f.qd.toInt) (slotBlock sel.op) l.1
    let a := 8192 * f.slot.toNat + 512 * f.srow.toNat
    let b := 2048 * f.slot.toNat + f.srow.toNat * slotRowBlocks sel.op
    ∃ t, exec (.vib i f) s = .next t ∧ sameBeside s t ∧
      onlyCore s t i.core .ve keepVeMe (if f.last = 1 then [(f.cnt1.toNat + 3, .ready i.core (1#6 <<< f.slot.toNat) true)] else []) ∧
      (coreOf t i.core).ve = veBusyWith x.ve s.dp.cycle (f.cnt1.toNat + 1) 2 ∧
      { (coreOf t i.core).me with ib := x.me.ib, ibScale := x.me.ibScale } = x.me ∧
      (∀ k, memRead (coreOf t i.core).me.ib k =
        if runs s i = true ∧ l.2 = true ∧ a ≤ k ∧ k < a + r.1.length ∧ k < 8192 * (f.slot.toNat + 1) then byteAt r.1 (k - a) else memRead x.me.ib k) ∧
      (∀ k, memRead (coreOf t i.core).me.ibScale k =
        if runs s i = true ∧ l.2 = true ∧ b ≤ k ∧ k < b + r.2.1.length ∧ k < 2048 * (f.slot.toNat + 1) then byteAt r.2.1 (k - b)
        else memRead x.me.ibScale k) ∧
      flagsRaised s t i.core .ve (if runs s i && l.2 then r.2.2 else .none)) ∧
  (∀ (s : State) (i : Iss) (f : VftF) (u : Tile) (us : List Tile), dueNow s (.vft i f) i .ve = true → (coreOf s i.core).me.ftq = u :: us →
    let x := coreOf s i.core
    let on := (List.range 16).flatMap (fun r => ((List.range 64).filter (fun j => laneOn x i.hdr.mask i.pkt r j)).map (fun j => (r, j)))
    let e := fun (y : Nat × Nat) => tileElem x u (64 * y.1 + y.2)
    let st := fun (y : Nat × Nat) => storeElem .i32 false (e y).2.1 f.qd.toInt
    let live : Bool := runs s i && !on.isEmpty
    let n := rowsFor (tileRows u).length
    (f.dstw = 1 → live = true → rowsThere s.dp i.core (adrOrch f.addr) (adrOff f.addr) n = true) →
    ∃ t, exec (.vft i f) s = .next t ∧ sameBeside s t ∧
      onlyCore s t i.core .ve keepVeMe (if live = false then []
        else if f.dstw = 1 then rowsLanding s.dp i.core (adrOrch f.addr) (adrOff f.addr) n (tileRows u) (fun j => 6 + j)
        else [(19, .regs i.core (on.map (fun y => (f.vd.toNat + y.1, y.2, if f.raw = 1 then (e y).1 else (st y).1))))]) ∧
      (coreOf t i.core).me = { x.me with ftq := us ++ x.me.outq.take 1, outq := x.me.outq.drop 1 } ∧
      (coreOf t i.core).ve = veBusyWith { x.ve with ftPend := none } s.dp.cycle (if f.dstw = 1 then n else 16) (if f.dstw = 1 then 6 else 3) ∧
      flagsRaised s t i.core .ve (if live = true ∧ f.dstw = 0 ∧ f.raw = 0 then
        flagsAll (on.map (fun y => { (st y).2 with inv := (st y).2.inv || (e y).2.2 })) else .none)) ∧
  (∀ (s : State) (i : Iss) (f : VftF), dueNow s (.vft i f) i .ve = true → (coreOf s i.core).me.ftq = [] →
    let x := coreOf s i.core
    let on := (List.range 16).flatMap (fun r => ((List.range 64).filter (fun j => laneOn x i.hdr.mask i.pkt r j)).map (fun j => (r, j)))
    let live : Bool := runs s i && !on.isEmpty
    let n := plannedRows x (vget x.queues (queueIndex .ve)).issued
    (f.dstw = 1 → live = true → rowsThere s.dp i.core (adrOrch f.addr) (adrOff f.addr) n = true) →
    ∃ t, exec (.vft i f) s = .next t ∧ t.dp.dev = s.dp.dev ∧ (coreOf t i.core).ve.ftUnder = x.ve.ftUnder + 1 ∧
      (coreOf t i.core).ve.regs = x.ve.regs ∧ (coreOf t i.core).me = x.me ∧
      t.dp.landings = s.dp.landings ++ (if live = false then []
        else if f.dstw = 1 then rowsLanding s.dp i.core (adrOrch f.addr) (adrOff f.addr) n [] (fun j => 6 + j)
        else [(19, .regs i.core (on.map (fun y => (f.vd.toNat + y.1, y.2, 0))))]) ∧
      (vget t.err.cls 7).cnt = satInc (vget s.err.cls 7).cnt ∧
      flagsRaised s t i.core .ve { NFlags.none with inv := live }) ∧
  (∀ (s : State) (i : Iss) (f : VCtlF), dueNow s (.vctl i f) i .ve = true → memWf (coreOf s i.core).ve.ctPending →
    (runs s i = true → cleanRow s.dp i.core (adrOrch f.addr) (adrOff f.addr) 0 = true) →
    let x := coreOf s i.core
    let b := rowAt s.dp i.core (adrOrch f.addr) (adrOff f.addr) 0
    ∃ t, exec (.vctl i f) s = .next t ∧ sameBeside s t ∧
      onlyCore s t i.core .ve (fun y z => { keepEnds y z with ve := y.ve }) (if runs s i then [(8, .curve i.core f.ct b)] else []) ∧
      { (coreOf t i.core).ve with ctPending := x.ve.ctPending } = veBusyWith x.ve s.dp.cycle 1 8 ∧
      (∀ k, memRead (coreOf t i.core).ve.ctPending k =
        if runs s i = true ∧ 512 * f.ct.toNat ≤ k ∧ k < 512 * f.ct.toNat + 512 then byteAt b (k - 512 * f.ct.toNat) else memRead x.ve.ctPending k)) ∧
  (∀ (d : Dp) (c ct : BitVec 3) (b : List Byte), memWf (vget d.cores c).ve.ctActive →
    let y := vget (land d (.curve c ct b)).1.cores c
    y.ve.ctValid.getLsbD ct.toNat = true ∧ activeCurve y ct = padTo 512 b ∧ ∀ n, n ≠ ct → activeCurve y n = activeCurve (vget d.cores c) n)

/-- VTOPK (R180, R193, R194, R257): of the candidates that are not NAN, with those kept in VD and VD + 1 where ACC is 1, the K first in the
order of value and then position go to lanes 0 to K − 1 of VD, stored at QD, and their positions to VD + 1; ranks left over hold 0
and position 0xFFFFFFFF; no other lane changes. A selection over the union equals the merging one over its parts. -/
def Obligations.VtopkSelectsInOrder : Prop :=
  (∀ (s : State) (i : Iss) (f : VTopkF), dueNow s (.vtopk i f) i .ve = true →
    let x := coreOf s i.core
    let sel := fmtGet x f.fmti
    let k := f.k1.toNat + 1
    let occ := (vtopkCount f + 63) / 64 + k
    let on := fun (e : Nat) => if f.msrc = 1 then decide (e ≤ f.m1.toNat) && colDimOn x i.hdr.mask e else decide (e < 64) && laneOn x i.hdr.mask i.pkt 0 e
    let row := fun (e : Nat) => adrOff f.addr + e / sel.op.fmt.perRow
    let cyc := fun (e : Nat) => portCycle (vtopkRows x f) 0 (row e)
    let val := fun (e : Nat) =>
      if f.msrc = 1 then decodeElem sel.op.fmt sel.op.sym (codeAt sel.op.fmt (rowAt s.dp i.core (adrOrch f.addr) (row e) (cyc e)) (e % sel.op.fmt.perRow))
        (sel.fq + f.qa.toInt)
      else laneDec x (f.sym == 1) f.va.toNat e f.qa.toInt
    let cands := (if f.acc = 1 then heldCands x f k else []) ++ ((List.range 4096).filter on).map (fun e => (val e, f.pos0.toNat + e))
    (∀ e < 4096, runs s i = true → f.msrc = 1 → on e = true → cleanRow s.dp i.core (adrOrch f.addr) (row e) (cyc e) = true) →
    ∃ (t : State) (top rest : List Cand),
      let code := fun (r : Nat) => match top[r]? with | some y => (storeElem .i32 (f.sym == 1) y.1 f.qd.toInt) | none => (0, .none)
      let pos := fun (r : Nat) => match top[r]? with | some y => y.2 | none => 0xFFFFFFFF
      exec (.vtopk i f) s = .next t ∧ sameBeside s t ∧
      onlyCore s t i.core .ve keepVe (if runs s i then [(occ + 8, .regs i.core ((List.range k).flatMap (fun r =>
        [(f.vd.toNat, r, (code r).1), (f.vd.toNat + 1, r, pos r)])))] else []) ∧
      (coreOf t i.core).ve = veBusyWith x.ve s.dp.cycle occ 8 ∧
      (top ++ rest).Perm (cands.filter (fun y => y.1.cls != .nan)) ∧
      top.length = min k (cands.filter (fun y => y.1.cls != .nan)).length ∧
      top.Pairwise (fun a b => candBefore (f.dir == 1) b a = false) ∧ (∀ a ∈ top, ∀ b ∈ rest, candBefore (f.dir == 1) b a = false) ∧
      flagsRaised s t i.core .ve (if runs s i then flagsAll ((List.range k).map (fun r => (code r).2)) else .none)) ∧
  (∀ (small : Bool) (k : Nat) (a b : List Cand), (∀ y ∈ a, y.1.cls ≠ .satPos ∧ y.1.cls ≠ .satNeg) →
    topCands small k (topCands small k a ++ b) = topCands small k (a ++ b))

/-- VWADD (R93, R96, R174, R195): each enabled lane adds its 2 to 8 triples, from registers and from memory planes, in one wide add, whose
three words DSTW 0 writes to VD, VD + 1 and VD + 2; DSTW 1 stores it once at QD; DSTW 2 stores it with its residual at QL in VD + 1. The
n-th register of the operand is read in cycle I + n, and the plane rows after it two a cycle. No other lane changes. -/
def Obligations.VwaddIsTheWideAdd : Prop :=
  ∀ (s : State) (i : Iss) (f : VWaddF), dueNow s (.vwadd i f) i .ve = true →
    let x := coreOf s i.core
    let nreg := if f.src = 0 then f.nw2.toNat + 2 else if f.src = 1 then 0 else 1
    let nmem := f.nw2.toNat + 2 - nreg
    let occ := nreg + (3 * nmem + 1) / 2
    let on := (List.range 64).filter (fun j => laneOn x i.hdr.mask i.pkt 0 j)
    let off := fun (m p : Nat) => adrOff f.addr + m * f.ostr.toNat + p * f.pstr.toNat
    let cyc := fun (m p : Nat) => nreg + (3 * m + p) / 2
    let plane := fun (m p j : Nat) => codeAt .i32 (rowAt s.dp i.core (adrOrch f.addr) (off m p) (cyc m p)) (64 * f.e0.toNat + j)
    let reg := fun (n j : Nat) => laneCode (seenAt s i.core n) (f.va.toNat + n) j
    let ops := fun (j : Nat) => (List.range (f.nw2.toNat + 2)).map (fun n =>
      if n < nreg then A88.ofWords (reg (3 * n) j) (reg (3 * n + 1) j) (reg (3 * n + 2) j)
      else A88.ofWords (plane (n - nreg) 0 j) (plane (n - nreg) 1 j) (plane (n - nreg) 2 j))
    let total := fun (j : Nat) => wideAdd ((ops j).map (fun y => y.1))
    let base := fun (j : Nat) => { (total j).2 with inv := (total j).2.inv || (ops j).any (fun y => y.2) }
    let hi := fun (j : Nat) => storeElem .i32 false ((total j).1.toDec 0) f.qd.toInt
    let lo := fun (j : Nat) => match pairResidual ((total j).1.toDec 0) .i32 false (hi j) f.qd.toInt with
      | some d => storeElem .i32 false d f.ql.toInt
      | none => (0, .none)
    let lanes := fun (j : Nat) =>
      if f.dstw = 0 then (List.range 3).map (fun k => (f.vd.toNat + k, j, (total j).1.words.getD k 0))
      else if f.dstw = 1 then [(f.vd.toNat, j, (hi j).1)] else [(f.vd.toNat, j, (hi j).1), (f.vd.toNat + 1, j, (lo j).1)]
    let flags := fun (j : Nat) =>
      if f.dstw = 0 then base j else if f.dstw = 1 then (base j).or (hi j).2 else ((base j).or (pairHiFlags (hi j).2)).or (lo j).2
    let works : Bool := runs s i && !on.isEmpty
    (∀ m < nmem, ∀ p < 3, works = true → cleanRow s.dp i.core (adrOrch f.addr) (off m p) (cyc m p) = true) →
    ∃ t, exec (.vwadd i f) s = .next t ∧ sameBeside s t ∧
      onlyCore s t i.core .ve keepVe (if works then [(occ + 6, .regs i.core (on.flatMap lanes))] else []) ∧
      (coreOf t i.core).ve = veBusyWith x.ve s.dp.cycle occ 6 ∧
      flagsRaised s t i.core .ve (if works then flagsAll (on.map flags) else .none)

/-- VCONV (R136, R137, R141, R174, R185, R186): each enabled lane of 16 registers takes the filter's output of its row and column, rounded
once at QD, each register of its operands read in its cycle; the halo registers take the last inputs of each stream that is not wholly
masked, an input that a reset follows as 0, and 0 in lanes of no stream; no other lane changes, and with no lane enabled none does. All
are readable in cycle I + 22. The reset word is that of the packet in the core's reset rows; where the package has none, that of the
dispatch record (the model's choice, log 114). VD and the halo do not overlap. -/
def Obligations.VconvFilters : Prop :=
  ∀ (s : State) (i : Iss) (f : VConvF), dueNow s (.vconv i f) i .ve = true → memWf (coreOf s i.core).ve.regs →
    let x := coreOf s i.core
    let v := seenAt s i.core
    let lc := lcOf f.lc
    let hr := (64 / lc + 3) / 4
    let on := fun (r j : Nat) => laneOn x i.hdr.mask i.pkt r j
    let works : Prop := runs s i = true ∧ ∃ r < 16, ∃ j < 64, on r j = true
    let word := match x.rstRow with
      | some a => resetWordIn (rowAt s.dp i.core false (a + i.pkt / 64) 0) i.pkt
      | none => pktReset x i.pkt
    let lag := fun (n : Nat) => (n - f.vc.toNat) / hr
    let st := fun (n j : Nat) => (n - f.vc.toNat) % hr * 4 + j / 16
    let halo := fun (n : Nat) => f.vc.toNat ≤ n ∧ n < f.vc.toNat + (f.kc2.toNat + 1) * hr
    let input := fun (n j : Nat) => if resetIn x i word (st n j * lc) (lc - lag n) lc then Dec.zero
      else convInput v f (st n j) ((lc : Int) - lag n) (j % 16)
    (works → ∀ a, x.rstRow = some a → cleanRow s.dp i.core false (a + i.pkt / 64) 0 = true) →
    (∀ n, halo n → ¬(f.vd.toNat ≤ n ∧ n < f.vd.toNat + 16)) →
    ∃ t l, exec (.vconv i f) s = .next t ∧ sameBeside s t ∧ onlyCore s t i.core .ve keepVe l ∧
      (coreOf t i.core).ve = veBusyWith x.ve s.dp.cycle 16 6 ∧ (¬works → l = []) ∧
      (works → ∃ cells, l = [(22, .regs i.core cells)] ∧
        let y := setLanes x cells
        (∀ n j, j < 64 → f.vd.toNat ≤ n → n < f.vd.toNat + 16 → on (n - f.vd.toNat) j = true →
          laneCode y n j = (storeElem .i32 (f.sym == 1) (convOut v i f word (4 * (n - f.vd.toNat) + j / 16) (j % 16)) f.qd.toInt).1) ∧
        (∀ n j, j < 64 → halo n → laneCode y n j =
          if 64 / lc ≤ st n j then 0
          else if streamMasked x i lc (st n j) = true then laneCode x n j
          else (storeElem .i32 (f.sym == 1) (input n j) f.qc.toInt).1) ∧
        (∀ n j, j < 64 → ¬halo n → ¬(f.vd.toNat ≤ n ∧ n < f.vd.toNat + 16 ∧ on (n - f.vd.toNat) j = true) → laneCode y n j = laneCode x n j))

/-- SMIX, SOUT and SCARRY over the parameter block of their row, whose arrays lie in bounds and check (R126 to R133, R136, R139 to R142,
R146, R260): SMIX writes the decay-weighted tile of each head of its range; SOUT writes, for each enabled row and channel of its range,
the three words of the sum of its terms, and 0 elsewhere in its groups; SCARRY stores each state element of each stream with an enabled
row, rounded once, into the SE state buffer, from start values that it reads in its issue cycle. All are readable from I + O + 25. With the
predicate false or every row masked nothing is written. Log-decays above 0 count as 0 and are counted and flagged. -/
def Obligations.ScanCommands : Prop :=
  (∀ (s : State) (i : Iss) (f : SeF), dueNow s (.smix i f) i .se = true → cleanRow s.dp i.core false f.spb.toNat 0 = true →
    let x := coreOf s i.core
    let b := spbSeen s i f
    let k := scanCurves x b
    let works : Bool := runs s i && !noRows x i
    let heads := if works then seRange x f (spbHeads b) else []
    let reads := stepOffs i b ++ (List.range 32).map (b.aG + ·) ++ (if b.complex then (List.range 32).map (b.aGi + ·) else [])
    let tile := fun (h : Nat) => mixTile b k (scanSteps s i b h) (rowTable s.dp i.core b.aG 32) b.aG (if b.complex then 1 else 0)
    let tileI := fun (h : Nat) => mixTile b k (scanSteps s i b h) (rowTable s.dp i.core b.aGi 32) b.aGi 2
    let at_ := seOcc (smixTerms b f) + 24
    (works = true → offsClean s i.core reads) →
    (∀ h ∈ heads, rowsThere s.dp i.core false (b.aM + 17 * h) 17 = true ∧ (b.complex = true → rowsThere s.dp i.core false (b.aMi + 17 * h) 17 = true)) →
    ∃ t, exec (.smix i f) s = .next t ∧ sameBeside s t ∧
      onlyCore s t i.core .se keepSe (heads.flatMap (fun h => rowsLanding s.dp i.core false (b.aM + 17 * h) 17 (tile h).1 (fun _ => at_) ++
        (if b.complex then rowsLanding s.dp i.core false (b.aMi + 17 * h) 17 (tileI h).1 (fun _ => at_) else []))) ∧
      (coreOf t i.core).se = seBusyWith x.se s.dp.cycle 1 (smixTerms b f) works (clampedOf s i b heads) ∧
      flagsRaised s t i.core .se (flagsAll (heads.map (fun h =>
        (NFlags.or { NFlags.none with inv := decide (0 < (scanSteps s i b h).clamped) } (tile h).2).or (if b.complex then (tileI h).2 else .none))))) ∧
  (∀ (s : State) (i : Iss) (f : SeF), dueNow s (.sout i f) i .se = true → cleanRow s.dp i.core false f.spb.toNat 0 = true →
    let x := coreOf s i.core
    let b := spbSeen s i f
    let k := scanCurves x b
    let fc := spbFmt b.fc
    let works : Bool := runs s i && !noRows x i
    let chs := if works then seRange x f b.c else []
    let rows := if works then (List.range 64).filter (fun r => rowOn x i.hdr.mask i.pkt r) else []
    let reads := stepOffs i b ++ fmtOffs fc b.aC (64 * b.n) ++ (if b.complex then fmtOffs fc b.aCi (64 * b.n) else []) ++
      (List.range (rowsOf b.c 8)).map (b.aQh + ·)
    let groups := distinct (chs.map (fun ch => ch / 16))
    let cr := fun (r n : Nat) => scanElem s i.core fc b.aC (64 * b.n) (r * b.n + n)
    let ci := fun (r n : Nat) => scanElem s i.core fc b.aCi (64 * b.n) (r * b.n + n)
    let val := fun (r ch : Nat) =>
      let h := scanSteps s i b (ch / b.p)
      sumTerms b.ey (outTerms b k h r (fun n => (cr r n).1) (fun n => (ci r n).1)
        (fun n part => scanStart s i b (baseOf h (r / b.l * b.l) (r % b.l + 1)) (r / b.l) ch n part))
    let poisoned := rows.any (fun r => (List.range b.n).any (fun n => (cr r n).2 || (b.complex && (ci r n).2)))
    let plane := fun (g p : Nat) => packCodes 32 ((List.range 64).flatMap (fun r => (List.range 16).map (fun q =>
      if chs.contains (16 * g + q) ∧ rowOn x i.hdr.mask i.pkt r = true then (val r (16 * g + q)).1.words.getD p 0 else 0)))
    let clamped := clampedOf s i b (distinct (chs.map (fun ch => ch / b.p)))
    0 < b.l → 64 % b.l = 0 → 0 < b.p → b.c % b.p = 0 →
    (works = true → offsClean s i.core reads ∧ initsClean s i b) →
    (∀ g ∈ groups, rowsThere s.dp i.core false (b.aOut + 24 * g) 24 = true) →
    ∃ t, exec (.sout i f) s = .next t ∧ sameBeside s t ∧
      onlyCore s t i.core .se keepSe (groups.flatMap (fun g => (List.range 3).flatMap (fun p =>
        rowsLanding s.dp i.core false (b.aOut + 24 * g + 8 * p) 8 (plane g p) (fun _ => seOcc (soutTerms b f) + 24)))) ∧
      (coreOf t i.core).se = seBusyWith x.se s.dp.cycle 2 (soutTerms b f) works clamped ∧
      flagsRaised s t i.core .se (NFlags.or { NFlags.none with inv := decide (0 < clamped) || poisoned }
        (flagsAll (rows.flatMap (fun r => chs.map (fun ch => (val r ch).2)))))) ∧
  (∀ (s : State) (i : Iss) (f : SeF), dueNow s (.scarry i f) i .se = true → cleanRow s.dp i.core false f.spb.toNat 0 = true →
    let x := coreOf s i.core
    let b := spbSeen s i f
    let k := scanCurves x b
    let fb := spbFmt b.fb
    let fx := spbFmt b.fx
    let works : Bool := runs s i && !noRows x i
    let chs := if works then seRange x f b.c else []
    let rows := if works then (List.range 64).filter (fun r => rowOn x i.hdr.mask i.pkt r) else []
    let reads := stepOffs i b ++ fmtOffs fb b.aB (64 * b.n) ++ fmtOffs fx b.aX (64 * b.c) ++ (List.range (rowsOf b.c 8)).map (b.aQh + ·)
    let live := (List.range (spbStreams b)).filter (fun st => rows.any (fun r => r / b.l == st))
    let vb := fun (r n : Nat) => scanElem s i.core fb b.aB (64 * b.n) (r * b.n + n)
    let vx := fun (r ch : Nat) => scanElem s i.core fx b.aX (64 * b.c) (r * b.c + ch)
    let val := fun (st ch n part : Nat) =>
      let h := scanSteps s i b (ch / b.p)
      storeElem .i32 b.symState (carryVal b k h st part (fun p => scanStart s i b (baseOf h (st * b.l) b.l) st ch n p)
        (fun r => prodExact [(vb r n).1, (vx r ch).1])) (scanQh s i.core b ch)
    let poisoned := rows.any (fun r => (List.range b.n).any (fun n => (vb r n).2) || chs.any (fun ch => (vx r ch).2))
    let cells := live.flatMap (fun st => chs.flatMap (fun ch => (List.range b.n).flatMap (fun n =>
      (if b.complex then [0, 1] else [0]).map (fun part => (st, ch, n, part)))))
    let clamped := clampedOf s i b (distinct (chs.map (fun ch => ch / b.p)))
    0 < b.l → 64 % b.l = 0 → 0 < b.p → b.c % b.p = 0 →
    (works = true → offsClean s i.core reads ∧ initsClean s i b) →
    ∃ t, exec (.scarry i f) s = .next t ∧ sameBeside s t ∧
      onlyCore s t i.core .se keepSe (if works then [(seOcc (scarryTerms b f) + 25, .sbuf i.core (cells.map (fun y =>
        (stateAt b y.1 y.2.1 y.2.2.1 y.2.2.2, leBytes 4 (val y.1 y.2.1 y.2.2.1 y.2.2.2).1))))] else []) ∧
      (coreOf t i.core).se = seBusyWith x.se s.dp.cycle 3 (scarryTerms b f) works clamped ∧
      flagsRaised s t i.core .se (NFlags.or { NFlags.none with inv := decide (0 < clamped) || poisoned }
        (flagsAll (cells.map (fun y => (val y.1 y.2.1 y.2.2.1 y.2.2.2).2)))))

/-! ### The control processors -/

/-- QUEUE_WRITE appends a word behind the others of its queue (R19, R224); at a full queue it waits, what the processor does later waits
behind it, and it joins as soon as there is room (R19). BLOCK_RELEASE takes the block of a tick that has none yet, complete in its queue,
if its planned cycles fit the core's compute meter: the block joins the released ones and Q_REL becomes the end index (R17, R48, R225); a
block that does not fit stays unreleased, and one with no tick to be for, a second one of a tick and an incomplete one change nothing. Equal
indices release a full queue of which nothing is released, else an empty block (log 40). WINDOW_CHANGE sets its window (R215). Nothing else
changes; a control processor that does not run changes nothing. -/
def Obligations.ControlProcessorCommands : Prop :=
  (∀ (s : State) (c : BitVec 3) (q : Queue) (word : CmdWord), cpRuns s c = true → (coreOf s c).cpWait = [] →
    let e := vget (coreOf s c).queues (queueIndex q)
    exec (.queueWrite c q word) s = .next { s with dp := s.dp.modCore c (fun x => if e.cmds.length < 512
      then { x with queues := vset x.queues (queueIndex q) { e with cmds := e.cmds ++ [word] } }
      else { x with cpWait := [.queueWrite c q word] }) }) ∧
  (∀ (s : State) (c : BitVec 3), cpRuns s c = true → (coreOf s c).cpWait ≠ [] →
    let waits := fun (i : Instr) => ({ s with dp := s.dp.modCore c (fun x => { x with cpWait := x.cpWait ++ [i] }) } : State)
    (∀ q w, exec (.queueWrite c q w) s = .next (waits (.queueWrite c q w))) ∧
    (∀ q e, exec (.blockRelease c q e) s = .next (waits (.blockRelease c q e))) ∧
    (∀ w b r src sp xp dbg o, exec (.windowChange c w b r src sp xp dbg o) s = .next (waits (.windowChange c w b r src sp xp dbg o)))) ∧
  (∀ (s : State) (c : BitVec 3) (q : Queue) (word : CmdWord), (coreOf s c).cpWait = [.queueWrite c q word] →
    let e := vget (coreOf s c).queues (queueIndex q)
    drainCp s c = if e.cmds.length < 512 then
      { s with dp := s.dp.modCore c (fun x => { x with cpWait := [],
                                                       queues := vset x.queues (queueIndex q) { e with cmds := e.cmds ++ [word] } }) }
      else s) ∧
  (∀ (s : State) (c : BitVec 3) (q : Queue) (end_ : BitVec 9), cpRuns s c = true → (coreOf s c).cpWait = [] →
    let x := coreOf s c
    let e := vget x.queues (queueIndex q)
    let n := if end_ = e.rel ∧ (e.blocks.map (fun b => b.2)).sum = 0 ∧ e.cmds.length = 512 then 512 else (end_ - e.rel).toNat
    (∀ t, releaseTick x e = some t → (∀ b ∈ e.blocks, b.1 ≠ t) → (e.blocks.map (fun b => b.2)).sum + n ≤ e.cmds.length →
      let m := vget s.dp.meters (c.zeroExtend 4)
      let size := plannedCycles s c q
      let early := isEarlySeq s t
      let late := decide (x.run = .computing) && decide (x.tick = t)
      let e' : EngQ := { e with blocks := e.blocks ++ (if late = true ∧ n = 0 then [] else [(t, n)]), rel := end_, got := e.got || late }
      let release := fun (d : Dp) => ({ s with dp := d.modCore c (fun x => { x with queues := vset x.queues (queueIndex q) e' }) } : State)
      (s.dp.metering = false → exec (.blockRelease c q end_) s = .next (release s.dp)) ∧
      let charged := if early then { m with early := m.early + size } else { m with count := m.count + size }
      (s.dp.metering = true → m.queue = [] → (if early then m.early else m.count) + size ≤ m.lim.toNat →
        exec (.blockRelease c q end_) s = .next (release { s.dp with meters := vset s.dp.meters (c.zeroExtend 4) charged })) ∧
      (s.dp.metering = true → m.lim.toNat < (if early then m.early else m.count) + size → exec (.blockRelease c q end_) s =
        .next { s with dp := { s.dp with meters := vset s.dp.meters (c.zeroExtend 4) { m with deferred := true } } })) ∧
    ((releaseTick x e = none ∨ (∃ t, releaseTick x e = some t ∧ ((∃ b ∈ e.blocks, b.1 = t) ∨
        e.cmds.length < (e.blocks.map (fun b => b.2)).sum + n))) → exec (.blockRelease c q end_) s = .next s)) ∧
  (∀ (s : State) (c : BitVec 3) (w : BitVec 2) (base rows : BitVec 14) (src : Byte) (sp xp dbg opn : Bool), cpRuns s c = true →
    (coreOf s c).cpWait = [] → exec (.windowChange c w base rows src sp xp dbg opn) s = .next { s with dp := s.dp.modCore c (fun x =>
      { x with cm := { x.cm with windows := vset x.cm.windows w ⟨base, rows, src, sp, xp, dbg, opn⟩ } }) }) ∧
  (∀ (s : State) (c : BitVec 3), cpRuns s c = false → (∀ q word, exec (.queueWrite c q word) s = .next s) ∧
    (∀ q e, exec (.blockRelease c q e) s = .next s) ∧ (∀ w b r src sp xp dbg o, exec (.windowChange c w b r src sp xp dbg o) s = .next s))

/-! ### Descriptors -/

/-- REGISTER, UNREGISTER, BIND, UNBIND and CLEAR_INIT on an unpaired device (R151, R152, R155 to R157, R304): the descriptor is taken, the
stream table changes as the operation says and in no other stream, and one completion record with status OK is posted; the first stream of
an adapter group allocates the group's slot pair, whose current slot takes the initial weights, and the last one to leave it gives the pair
back; a descriptor of an unregistered stream completes with status 8 and reason 1 and leaves the table alone. -/
def Obligations.StreamTableDescriptors : Prop :=
  (∀ (s : State) (d : StateDesc), stateReady s 1 d → findStream s d.stream = none → s.sp.streams.length < 4096 →
    (d.adapt.toNat < 2 ∨ (d.adapt = 2 ∧ ∃ g ∈ s.sp.groups, g.group = d.group)) →
    ∃ t, exec (.register d) s = .next t ∧ besideDesc s t ∧ t.hif = served s.hif d.sq 2 d.tag 0 0 d.stream ∧
      t.sp = { s.sp with streams := s.sp.streams ++ [newStream d.stream (d.flags.getLsbD 3) (d.adapt.setWidth 2) d.group] }) ∧
  (∀ (s : State) (d : StateDesc) (p : Package) (a : AdapterDef) (b : Nat), stateReady s 1 d → memWf s.dp.dev → findStream s d.stream = none →
    s.sp.streams.length < 4096 → d.adapt = 2 → (∀ g ∈ s.sp.groups, g.group ≠ d.group) → taskPkg s = some p → groupAdapter p d.group = some a →
    allocRows s (2 * adapterRows a) = some b →
    ∃ t, exec (.register d) s = .next t ∧ besideDesc { s with dp := t.dp } t ∧ t.hif = served s.hif d.sq 2 d.tag 0 0 d.stream ∧
      t.sp = { s.sp with groups := s.sp.groups ++ [⟨d.group, b, false⟩],
                         streams := s.sp.streams ++ [newStream d.stream (d.flags.getLsbD 3) 2 d.group] } ∧
      { t.dp with dev := s.dp.dev, ecc := s.dp.ecc, wcls := s.dp.wcls } = s.dp ∧
      orchardRows t b (adapterRows a) = padTo (512 * adapterRows a) a.initRows ∧
      otherRowsKept s t ((List.range (adapterRows a)).map (b + ·))) ∧
  (∀ (s : State) (d : StateDesc) (x : Stream), stateReady s 2 d → findStream s d.stream = some x → x.life = .absent → x.placeNext = none →
    x.initJob = none →
    let left := s.sp.streams.filter (fun y => y.id != d.stream)
    ∃ t, exec (.unregister d) s = .next t ∧ besideDesc s t ∧ t.hif = served s.hif d.sq 2 d.tag 0 0 d.stream ∧
      t.sp = { s.sp with streams := left, retain := s.sp.retain.filter (fun r => r.stream != d.stream),
                         lrn := s.sp.lrn.filter (fun l => l.stream != d.stream),
                         groups := if x.adapt = 2 ∧ (∀ y ∈ left, y.adapt = 2 → y.group ≠ x.group)
                           then s.sp.groups.filter (fun g => g.group != x.group) else s.sp.groups }) ∧
  (∀ (s : State) (d : StateDesc) (x : Stream) (i : W16), stateReady s 5 d → findStream s d.stream = some x → x.life ≠ .draining → x.life ≠ .leaving →
    x.placeNext = none → freePlace s d.place = some i →
    ∃ t, exec (.bind d) s = .next t ∧ besideDesc s t ∧ t.hif = served s.hif d.sq 2 d.tag 0 0 d.stream ∧
      t.sp = { s.sp with streams := streamsWith s d.stream (fun y => { y with placeNext := some i }) }) ∧
  (∀ (s : State) (d : StateDesc) (x : Stream), stateReady s 6 d → findStream s d.stream = some x → x.placeNext ≠ none →
    ∃ t, exec (.unbind d) s = .next t ∧ besideDesc s t ∧ t.hif = served s.hif d.sq 2 d.tag 0 0 d.stream ∧
      t.sp = { s.sp with streams := streamsWith s d.stream (fun y => { y with placeNext := none }) }) ∧
  (∀ (s : State) (d : StateDesc) (x : Stream), stateReady s 8 d → findStream s d.stream = some x → pinsOf x = 0 →
    ∃ t, exec (.clearInit d) s = .next t ∧ besideDesc s t ∧ t.hif = served s.hif d.sq 2 d.tag 0 0 d.stream ∧
      t.sp = { s.sp with streams := streamsWith s d.stream (fun y => { y with init := none }) }) ∧
  (∀ (s : State) (op : Byte) (c : Instr) (d : StateDesc), (op, c) ∈ [(2, Instr.unregister d), (3, .swapIn d), (4, .swapOut d), (5, .bind d),
      (6, .unbind d), (7, .writeInit d), (8, .clearInit d)] → stateReady s op d → findStream s d.stream = none →
    ∃ t, exec c s = .next t ∧ t.hif = served s.hif d.sq 2 d.tag 8 1 d.stream ∧ t.sp = s.sp ∧ t.dp = s.dp ∧
      t.fwr.stm = { s.fwr.stm with refStatus := 8, refReason := 1, refId := d.stream })

/-- SWAP_IN, SWAP_OUT and WRITE_INIT on an unpaired device (R155, R157, R159, R166 to R168, R349): SWAP_IN with address 0 makes the stream
RESIDENT with sequence number 0 in the lowest free slot pair, its slot 0 holding its init state, its adapters' initial rows and a record of
0, and completes at once; SWAP_IN of an image makes it ARRIVING and SWAP_OUT of an unpinned stream LEAVING, with the image offered to meter
11 and the request kept; SWAP_OUT of a pinned stream makes it DRAINING, or is refused with status 4 and reason 0x0A where FLAGS ask it;
SWAP_OUT of a stream whose state is lost leaves it ABSENT; WRITE_INIT keeps a slot and its request. With BIND_AFTER the stream takes a free
place. No other stream and no other row changes. -/
def Obligations.SwapDescriptorsStart : Prop :=
  (∀ (s : State) (d : StateDesc) (x : Stream) (p : Package) (b : Nat), stateReady s 3 d → memWf s.dp.dev → findStream s d.stream = some x → x.life = .absent →
    (d.flags.getLsbD 2 = true → x.placeNext = none ∧ freePlace s d.place ≠ none) → residentCount s < 512 → taskPkg s = some p →
    allocRows s (2 * slotRows p) = some b →
    let place := if d.flags.getLsbD 2 then freePlace s d.place else x.placeNext
    (d.addr = 0 → (∀ i, x.init = some i → ∀ k < p.slotState, rowMarks s.dp (i + k) = []) →
      (∀ bb, allocBloom s p = some bb → b + slotRows p ≤ bb ∨ bb + bloomRows p ≤ b) →
      let rows := padTo (512 * slotRows p) (initSlotRows s p x)
      let bloom := match allocBloom s p with | some bb => (List.range (bloomRows p)).map (bb + ·) | none => []
      ∃ t, exec (.swapIn d) s = .next t ∧ besideDesc { s with dp := t.dp } t ∧ t.hif = served s.hif d.sq 2 d.tag 0 0 d.stream ∧
        t.sp = { s.sp with streams := streamsWith s d.stream (fun _ => { x.setLife s.dp.cycle .resident with
          slot := some b, bloom := allocBloom s p, bc := 0, cur := false, seq := 0, placeNext := place }) } ∧
        { t.dp with dev := s.dp.dev, ecc := s.dp.ecc, wcls := s.dp.wcls } = s.dp ∧
        orchardRows t b (slotRows p) = rows ∧
        devRows t bloom = (if bloom = [] then [] else p.bloomMap.flatMap (fun k => padTo 512 (((initSlotRows s p x).drop (512 * k)).take 512))) ∧
        otherRowsKept s t ((List.range (slotRows p)).map (b + ·) ++ bloom)) ∧
    (d.addr ≠ 0 →
      let m := meterOffer s.dp 11 (512 * (1 + slotRows p)) false
      let job : SwapJob := { req := ⟨d.tag, d.sq, (vget s.hif.sqs d.sq).seq, false⟩, addr := d.addr.setWidth 40, anySeq := d.flags.getLsbD 1,
                             ticket := m.1, bound := d.flags.getLsbD 2, drained := false }
      let f := fun (y : Stream) => { y.setLife s.dp.cycle .arriving with slot := some b, bloom := allocBloom s p, bc := 0, cur := false,
                                                                         placeNext := place, swap := some job }
      ∃ t, exec (.swapIn d) s = .next t ∧ besideDesc { s with dp := m.2 } t ∧ t.hif = takenHif s.hif d.sq ∧
        t.sp = { s.sp with streams := streamsWith s d.stream f })) ∧
  (∀ (s : State) (d : StateDesc) (x : Stream) (p : Package), stateReady s 4 d → findStream s d.stream = some x → x.life = .resident → x.lost = false →
    taskPkg s = some p →
    let m := meterOffer s.dp 11 (512 * (1 + slotRows p)) false
    let job := fun (t : Option Nat) (drained : Bool) =>
      ({ req := ⟨d.tag, d.sq, (vget s.hif.sqs d.sq).seq, false⟩, addr := d.addr.setWidth 40, anySeq := false, ticket := t, bound := false,
         drained := drained } : SwapJob)
    let drain := fun (y : Stream) => y.setLife s.dp.cycle .draining
    (pinsOf x = 0 → ∃ t, exec (.swapOut d) s = .next t ∧ besideDesc { s with dp := m.2, tkc := (rerunLost s x.pend).tkc } t ∧
      t.hif = takenHif s.hif d.sq ∧
      t.sp = { s.sp with lrn := s.sp.lrn.filter (fun l => l.stream != d.stream), streams := streamsWith s d.stream (fun y =>
        { (drain y).setLife s.dp.cycle .leaving with placeNext := none, pend := none, swap := some (job m.1 false) }) }) ∧
    (pinsOf x ≠ 0 → d.flags.getLsbD 0 = false →
      ∃ t, exec (.swapOut d) s = .next t ∧ besideDesc { s with tkc := (rerunLost s x.pend).tkc } t ∧ t.hif = takenHif s.hif d.sq ∧
        t.sp = { s.sp with streams := streamsWith s d.stream (fun y =>
          { drain y with placeNext := none, pend := none, swap := some (job none true) }) })) ∧
  (∀ (s : State) (d : StateDesc) (x : Stream), stateReady s 4 d → findStream s d.stream = some x → x.life = .resident →
    (pinsOf x ≠ 0 → d.flags.getLsbD 0 = true ∨ x.lost = true →
      ∃ t, exec (.swapOut d) s = .next t ∧ t.hif = served s.hif d.sq 2 d.tag 4 0xA d.stream ∧ t.sp = s.sp ∧ t.dp = s.dp) ∧
    (pinsOf x = 0 → x.lost = true →
      ∃ t, exec (.swapOut d) s = .next t ∧ besideDesc { s with tkc := (rerunLost s x.pend).tkc } t ∧
        t.hif = served s.hif d.sq 2 d.tag 0 0 d.stream ∧
        t.sp = { s.sp with lrn := s.sp.lrn.filter (fun l => l.stream != d.stream), streams := streamsWith s d.stream (fun y =>
          { y.setLife s.dp.cycle .absent with placeNext := none, window := [], nextWindow := [], slot := none, bloom := none, bc := 0,
                                              cur := false, swap := none, lost := false, pend := none }) })) ∧
  (∀ (s : State) (d : StateDesc) (x : Stream) (p : Package) (b : Nat), stateReady s 7 d → findStream s d.stream = some x → pinsOf x = 0 → x.initJob = none →
    taskPkg s = some p → allocRows s p.slotState = some b →
    let m := meterOffer s.dp 11 (512 * p.slotState) false
    let job : InitJob := { slot := b, addr := d.addr.setWidth 40, landed := false, ticket := m.1,
                           req := ⟨d.tag, d.sq, (vget s.hif.sqs d.sq).seq, false⟩ }
    let f := fun (y : Stream) => { y with initJob := some job }
    ∃ t, exec (.writeInit d) s = .next t ∧ besideDesc { s with dp := m.2 } t ∧ t.hif = takenHif s.hif d.sq ∧
      t.sp = { s.sp with streams := streamsWith s d.stream f })

/-- IMAGE_CHECK, SWAP_OUT_COMPLETE and INIT_IMAGE_LANDED (R155, R164 to R167, R272): an image whose fields match and whose CHECK is that
of its bytes makes its stream RESIDENT in slot 0 with the image's sequence number and rows, its Bloom rows in Bloom slot 0; the acknowledged
last write of a swap-out leaves the image of the committed slot in external memory, the stream ABSENT and its sequence number expected of
the next image; a landed init image takes its place once its stream holds no pin. Each completes its request with status OK as it
finishes, and no other stream changes. -/
def Obligations.ImagesComplete : Prop :=
  (∀ (s : State) (id : W16) (x : Stream) (p : Package) (j : SwapJob) (img : List Byte) (b : Nat), memWf s.dp.dev → findStream s id = some x → x.id = id →
    x.life = .arriving → x.swap = some j → j.req.silent = false → meterHolds s.dp 11 j.ticket = false → taskPkg s = some p → x.slot = some b →
    (∀ bb, x.bloom = some bb → b + slotRows p ≤ bb ∨ bb + bloomRows p ≤ b) →
    imageMatches p x j img = true → (imageCrc s id img).1 = fieldAt img 508 4 → img.length = 512 * (1 + slotRows p) →
    let y : Stream := { x.setLife s.dp.cycle .resident with swap := none, bc := 0, cur := false, seq := BitVec.ofNat 64 (fieldAt img 0x10 8) }
    let bloom := match x.bloom with | some bb => (List.range (bloomRows p)).map (bb + ·) | none => []
    ∃ t, exec (.imageCheck id 0 img) s = .next t ∧ besideDesc { s with dp := t.dp } t ∧ t.hif = answered s j.req 0 0 id ∧
      t.sp = { s.sp with streams := streamsWith s id (fun _ => y) } ∧
      { t.dp with dev := s.dp.dev, ecc := s.dp.ecc, wcls := s.dp.wcls } = s.dp ∧ orchardRows t b (slotRows p) = img.drop 512 ∧
      devRows t bloom = (if bloom = [] then [] else p.bloomMap.flatMap (fun k => padTo 512 ((img.drop (512 * (k + 1))).take 512))) ∧
      otherRowsKept s t ((List.range (slotRows p)).map (b + ·) ++ bloom)) ∧
  (∀ (s : State) (id : W16) (x : Stream) (p : Package) (j : SwapJob), memWf s.dp.ext → findStream s id = some x → x.id = id → x.life = .leaving →
    x.swap = some j → j.req.silent = false → x.lost = false → meterHolds s.dp 11 j.ticket = false → taskPkg s = some p →
    (∀ r ∈ committedList p x, rowMarks s.dp r = []) →
    let img := (imageOf s p x).1
    let f := fun (y : Stream) => { y.setLife s.dp.cycle .absent with expSeq := some y.seq, slot := none, bloom := none, bc := 0, cur := false,
                                                                     swap := none, lost := false, pend := none }
    ∃ t, exec (.swapOutComplete id 0) s = .next t ∧ besideDesc { s with dp := t.dp, tkc := (rerunLost s x.pend).tkc } t ∧
      t.hif = answered s j.req 0 0 id ∧ { t.dp with ext := s.dp.ext } = s.dp ∧
      (∀ a, memRead t.dp.ext a = if j.addr.toNat ≤ a ∧ a < j.addr.toNat + img.length then byteAt img (a - j.addr.toNat) else memRead s.dp.ext a) ∧
      img.take 508 = imageHeader p x ∧ img.drop 512 = committedRows s p x ∧ fieldAt img 508 4 = (imageCrc s id img).1 ∧
      t.sp = { s.sp with lrn := s.sp.lrn.filter (fun l => l.stream != id), streams := streamsWith s id f }) ∧
  (∀ (s : State) (id : W16) (x : Stream) (p : Package) (j : InitJob) (data : List Byte), memWf s.dp.dev → findStream s id = some x → x.id = id →
    x.initJob = some j → j.landed = false → j.req.silent = false → meterHolds s.dp 11 j.ticket = false → taskPkg s = some p →
    ∃ t, exec (.initImageLanded id 0 data) s = .next t ∧ besideDesc { s with dp := t.dp } t ∧
      t.hif = (if pinsOf x = 0 then answered s j.req 0 0 id else s.hif) ∧
      { t.dp with dev := s.dp.dev, ecc := s.dp.ecc, wcls := s.dp.wcls } = s.dp ∧
      orchardRows t j.slot p.slotState = padTo (512 * p.slotState) data ∧
      otherRowsKept s t ((List.range p.slotState).map (j.slot + ·)) ∧
      t.sp = { s.sp with streams := streamsWith s id (fun y => if pinsOf x = 0 then { y with init := some j.slot, initJob := none }
        else { y with initJob := some { j with landed := true } }) })

/-- LOAD, PACKAGE_CHECK, LOADER_FILL, UNLOAD, NOP and reserved types (R169, R219, R220, R262, R263, R297, R298): a LOAD with nothing loaded
begins a load; a package that passes every check waits for its fill, with everything scrubbed first where its owner is not that of the last
task, and one that fails a check completes the load with the check's status and reason, and no task; the fill, with no scrub left to wait
for, leaves the task, its registers, the initial values of its cores and the rows it writes, and completes with OK; UNLOAD ends the task,
with every stream FREE, its SCRUB regions zero and its engines gated; NOP completes with OK; a reserved type completes with
BOUND_VIOLATION, and so does a reserved operation of TYPE 2, with reason 0x0C. -/
def Obligations.LoadCommands : Prop :=
  (∀ (s : State) (d : LoadDesc), descReady s d.sq (bodyBytes 3 d.rsv d.tag (loadBody d)) d.crc → loadOk d = true → s.twn.state = .unpaired →
    s.sp.task = none → s.sp.load = none → s.tkc.run = false →
    ∃ t, exec (.load d) s = .next t ∧ besideDesc { s with fwr := { s.fwr with ldr := { s.fwr.ldr with busy := true } } } t ∧ t.hif = takenHif s.hif d.sq ∧
      t.sp = { s.sp with load := some ⟨d.tag, d.sq, (vget s.hif.sqs d.sq).seq, d.addr.setWidth 40, d.len, none⟩ }) ∧
  (∀ (s : State) (p : Package) (j : LoadJob), s.sp.load = some j → j.passed = none → spServes s = true →
    ∃ t, exec (.packageCheck p) s = .next t ∧ t.sp.task = s.sp.task ∧
      ((checkPackage s p).1 = none → t.sp.load = some { j with passed := some p } ∧ t.hif = s.hif ∧ t.fwr = s.fwr ∧
        (ownerChanges s (ownerOf p) = false → t.dp = s.dp) ∧
        (ownerChanges s (ownerOf p) = true → t.dp.dev = [] ∧ t.dp.ecc = [] ∧ t.sp.scrub = 0x20000 ∧
          (∀ c, (coreOf t c).ve.regs = [] ∧ (coreOf t c).se.buf = [] ∧ (coreOf t c).me.ib = [] ∧ (coreOf t c).me.wh = [] ∧ (coreOf t c).me.tb = [])) ) ∧
      (∀ f, (checkPackage s p).1 = some f → t.sp.load = none ∧ t.dp.dev = s.dp.dev ∧
        t.fwr.ldr = { s.fwr.ldr.failed f with pkgId := p.pkgId, cores := BitVec.ofNat 4 p.cores } ∧
        t.fwr.ldr.status = f.status.zeroExtend 8 ∧ t.fwr.ldr.reason = BitVec.ofNat 8 f.reason ∧ t.fwr.ldr.busy = false ∧
        t.hif = recorded s.hif j.sq (completionBytes (f.status.zeroExtend 8) 3 0 true j.sq j.tag j.seq (reasonBits f.reason 0xFFFF) 0) false)) ∧
  (∀ (s : State) (j : LoadJob) (p : Package), s.sp.load = some { j with passed := some p } → s.tkc.run = false → s.tkc.active = false → spServes s = true →
    s.sp.scrub = 0 → s.sp.cmScrub = 0 → scrubWait s sloeRows = 0 → clockRuns s = true → (fillDp s p).2 = [] →
    ∃ t, exec .loaderFill s = .next t ∧ t.sp.task = some { pkg := runPackage s p, addr := j.addr, owner := ownerOf p, journal := s.err.jrnlEn } ∧
      t.sp.load = none ∧ t.sp.lastOwner = some (ownerOf p) ∧ t.fwr.ldr.status = 0 ∧ t.fwr.ldr.busy = false ∧
      t.fwr.ldr.pkgId = p.pkgId ∧ t.pwr.corePg = gatedCores p ∧ t.sec.pkgMeas = p.measure ∧ t.dp.dflg = p.dflgInit ∧ t.dp.org = regionTable 32 p.orRegions ∧
      t.hif.cqs = (recorded s.hif j.sq (completionBytes 0 3 0 true j.sq j.tag j.seq (reasonBits 0 0xFFFF) 0) false).cqs ∧
      (∀ (c : BitVec 3) (x : CorePlan), p.plans[c.toNat]? = some x → (coreOf t c).flg = x.flgInit ∧ (coreOf t c).cmp = x.cmpInit ∧
        (∀ k, vget (coreOf t c).k k = x.kInit.getD k.toNat 0) ∧ (coreOf t c).fmts = x.fmts ∧
        (coreOf t c).masks = x.masks.map (fun e => (e.1, maskOfBytes e.2)) ∧
        (coreOf t c).cm.base = x.cmBase.toNat ∧ (coreOf t c).cm.rows = x.cmRows.toNat ∧ (coreOf t c).queues = (coreOf s c).queues) ∧
      (memWf s.dp.dev → (∀ y ∈ fillRows p, y.1 < 0x40000) → otherRowsKept s t ((fillRows p).map (fun y => y.1)) ∧
        ∀ x ∈ fillRows p, (∀ y ∈ fillRows p, y.1 = x.1 → y.2 = x.2) → memSlice t.dp.dev (512 * x.1) 512 = padTo 512 x.2)) ∧
  (∀ (s : State) (d : BareDesc), descReady s d.sq (bodyBytes 4 d.rsv d.tag d.body) d.crc → bareOk d = true → s.twn.state = .unpaired → s.sp.task ≠ none →
    s.tkc.run = false → s.tkc.active = false →
    let u := settleData s
    let scrubs := orchScrubRows u.dp ++ (allCores.filter (taskCore s)).flatMap (fun c => coreScrubRows (coreOf u c).cm c)
    ∃ t, exec (.unload d) s = .next t ∧ t.sp.task = none ∧ t.sp.streams = [] ∧ t.sp.groups = [] ∧ t.pwr.corePg = 0xFF ∧ t.sec.pkgOwner = 0xFF ∧
      t.hif = served s.hif d.sq 4 d.tag 0 0 0xFFFF ∧ (∀ c, (coreOf t c).run = .idle ∧ ∀ q, (vget (coreOf t c).queues q).cmds = []) ∧
      t.sp.scrub = s.sp.scrub + ((orchScrubRows u.dp).map (fun x => x.2)).sum ∧
      (∀ a, (∀ x ∈ scrubs, inRows (a / 512) x.1 x.2 = false) → memRead t.dp.dev a = memRead u.dp.dev a) ∧
      (memWf u.dp.dev → ∀ a, (∃ x ∈ scrubs, inRows (a / 512) x.1 x.2 = true) → memRead t.dp.dev a = 0)) ∧
  (∀ (s : State) (d : BareDesc), descReady s d.sq (bodyBytes 5 d.rsv d.tag d.body) d.crc → bareOk d = true →
    ∃ t, exec (.nopDescriptor d) s = .next t ∧ besideDesc s t ∧ t.sp = s.sp ∧ t.hif = served s.hif d.sq 5 d.tag 0 0 0xFFFF) ∧
  (∀ (s : State) (type : Byte) (d : BareDesc), ¬(1 ≤ type.toNat ∧ type.toNat ≤ 5) → descReady s d.sq (bodyBytes type d.rsv d.tag d.body) d.crc →
    ∃ t, exec (.reservedTypeDescriptor type d) s = .next t ∧ t.sp = s.sp ∧ t.dp = s.dp ∧ t.hif = served s.hif d.sq type d.tag 8 0 0xFFFF ∧
      (vget t.err.cls 10).cnt = satInc (vget s.err.cls 10).cnt) ∧
  (∀ (s : State) (d : BareDesc), let b := stateOfBody d
    ¬(1 ≤ b.1.toNat ∧ b.1.toNat ≤ 8) → descReady s d.sq (stateBytes b.1 b.2) d.crc → d.rsv = 0 → s.twn.state = .unpaired →
    ∃ t, exec (.reservedTypeDescriptor 2 d) s = .next t ∧ t.sp = s.sp ∧ t.dp = s.dp ∧ t.hif = served s.hif d.sq 2 d.tag 8 0xC b.2.stream ∧
      t.fwr.stm = { s.fwr.stm with refStatus := 8, refReason := 0xC, refId := b.2.stream })

/-! ### The tick -/

/-- TKC_CTRL (R31 to R33, R36, R37, R57): TKC_RUN written 1 with legal offsets accepts the start, and the internal timer places the first
boundary 64 cycles on; with offsets that break R30 it stays 0 and TKC_CFG_ERR is set; written 0 while ticks run or the first boundary is
placed, the stop waits for the next boundary, and a 1 written before it cancels the stop with no check; a 1 written while the last tick
ends is ignored and sets TKC_WR_IGN, as a change of SRC or FLYWHEEL while ticks are not off; TKC_OUT_EN claims TICK_OUT unless the
debug marker owns it or left it in this cycle, and takes it from a marker that claimed it in this cycle (R353); a read of TKC_SEQ_LO latches the high word. -/
def Obligations.TickControlWrites : Prop :=
  (∀ (s : State), s.tkc.run = false → s.tkc.active = false → s.tkc.stopAt = false → s.twn.state ≠ .fenced → tkcLegal s.tkc = true →
    ∃ t, exec (.tkcRunStart s.tkc.src s.tkc.fly s.tkc.outEn) s = .next t ∧
      t.tkc = { s.tkc with run := true, cfgErr := false, startIn := if s.tkc.src then none else some 64, extWait := s.tkc.src } ∧
      t.sp.specOff = (s.fwr.spec.early && !specLegal s) ∧
      { t with tkc := s.tkc, sp := { t.sp with specOff := s.sp.specOff }, fwr := { t.fwr with spec := { t.fwr.spec with cfgErr := s.fwr.spec.cfgErr } } } = s) ∧
  (∀ (s : State), s.tkc.run = false → s.tkc.active = false → s.tkc.stopAt = false → s.twn.state ≠ .fenced → tkcLegal s.tkc = false →
    exec (.tkcRunStart s.tkc.src s.tkc.fly s.tkc.outEn) s = .next { s with tkc := { s.tkc with cfgErr := true } }) ∧
  (∀ (s : State), s.tkc.run = false → s.twn.state ≠ .fenced → s.tkc.stopAt = true → (s.tkc.active = true → s.tkc.ending = false) →
    exec (.tkcRunStart s.tkc.src s.tkc.fly s.tkc.outEn) s = .next { s with tkc := { s.tkc with run := true, stopAt := false } }) ∧
  (∀ (s : State), s.tkc.run = false → s.twn.state ≠ .fenced → s.tkc.active = true → (s.tkc.ending = true ∨ s.tkc.stopAt = false) →
    exec (.tkcRunStart s.tkc.src s.tkc.fly s.tkc.outEn) s = .next { s with tkc := { s.tkc with wrIgn := true } }) ∧
  (∀ (s : State), s.tkc.run = true ∨ s.twn.state = .fenced → exec (.tkcRunStart s.tkc.src s.tkc.fly s.tkc.outEn) s = .next s) ∧
  (∀ (s : State), s.tkc.run = true →
    (s.tkc.active = true ∨ s.tkc.startIn ≠ none ∨ s.tkc.edgeIn ≠ none →
      exec (.tkcRunStop s.tkc.src s.tkc.fly s.tkc.outEn) s = .next { s with tkc := { s.tkc with run := false, stopAt := true } }) ∧
    (s.tkc.active = false → s.tkc.startIn = none → s.tkc.edgeIn = none → exec (.tkcRunStop s.tkc.src s.tkc.fly s.tkc.outEn) s =
      .next { s with tkc := { s.tkc with run := false, edgeOnly := false, extWait := false } })) ∧
  (∀ (s : State) (src fly : Bool), s.tkc.outEn = true → (src, fly) ≠ (s.tkc.src, s.tkc.fly) →
    exec (.tkcOutEn src fly) s = .next { s with tkc := if ticksOff s then { s.tkc with src := src, fly := fly } else { s.tkc with wrIgn := true } }) ∧
  (∀ (s : State), s.tkc.outEn = false →
    let out : State := { s with tkc := { s.tkc with outEn := true } }
    let took := fun (e : Err) => { e with ownTout := 1, ownLast := vset e.ownLast 2 (some ⟨false, true, s.dp.cycle⟩) }
    (s.err.ownTout = 0 → vget s.err.ownLast 2 ≠ some ⟨true, false, s.dp.cycle⟩ →
      exec (.tkcOutEn s.tkc.src s.tkc.fly) s = .next { out with err := took s.err }) ∧
    ((s.err.ownTout = 0 ∧ vget s.err.ownLast 2 = some ⟨true, false, s.dp.cycle⟩) ∨
        (s.err.ownTout ≠ 0 ∧ vget s.err.ownLast 2 ≠ some ⟨true, true, s.dp.cycle⟩) →
      ∃ t, exec (.tkcOutEn s.tkc.src s.tkc.fly) s = .next t ∧ t.tkc = s.tkc ∧ t.err.ownTout = s.err.ownTout ∧
        (vget t.err.cls 14).cnt = satInc (vget s.err.cls 14).cnt) ∧
    (s.err.ownTout = 2 → vget s.err.ownLast 2 = some ⟨true, true, s.dp.cycle⟩ →
      ∃ t, exec (.tkcOutEn s.tkc.src s.tkc.fly) s = .next t ∧ t.tkc = out.tkc ∧ t.err.ownTout = 1 ∧ t.dbg.marker = false ∧
        (vget t.err.cls 14).cnt = satInc (vget s.err.cls 14).cnt)) ∧
  (∀ (s : State), exec .tkcSeqLoRead s = .next { s with tkc := { s.tkc with hiLatch := s.tkc.seq.extractLsb' 32 32 } })

/-- Boundaries (R33 to R38, R56, R427, R428): a boundary whose cycles may pass starts a tick, on an unpaired device with no stop and no halt
pending: the sequence number rises by one and the new tick carries it, TICK_OUT pulses where it is enabled, and the meters count; so
does the flywheel's, which counts in TKC_MISS; the boundary at which a stop takes effect leaves the sequence number, meters no more and
starts TKC_TIME anew, and where no tick has run yet it only ends the stop;
without the flywheel the device waits from its limit on. -/
def Obligations.BoundaryStartsTick : Prop :=
  (∀ (s : State) (n : Nat), boundaryWait s = some n → mayReach s n = true →
    let u := s.pass n
    frozen u = false → u.dbg.haltPend = false → u.dbg.stepTick = false → u.twn.state = .unpaired → u.twn.change = none → u.sp.early = none →
    (u.tkc.stopAt = false → ∃ t r, exec .tickBoundary s = .next t ∧ t.tkc.seq = s.tkc.seq + 1 ∧ t.tkc.active = true ∧ t.tkc.time = 0 ∧ t.tkc.phase = 1 ∧
      t.tkc.startIn = none ∧ t.tkc.edgeIn = none ∧ (t.tkc.outEn = true → t.tkc.pulse = 16) ∧ t.dp.metering = true ∧
      t.sp.cur = some r ∧ r.seq = s.tkc.seq + 1 ∧ r.dispatched = false ∧ r.sts = [] ∧ (∀ c, (coreOf t c).queues = (coreOf u c).queues)) ∧
    (u.tkc.stopAt = true → u.tkc.active = true → ∃ t, exec .tickBoundary s = .next t ∧ t.tkc.seq = s.tkc.seq ∧ t.tkc.stopAt = false ∧ t.dp.metering = false ∧
      t.tkc.time = 0 ∧ t.sp.cur = u.sp.cur ∧ t.tkc.pulse = u.tkc.pulse ∧ ∀ m, (vget t.dp.meters m).queue = []) ∧
    (u.tkc.stopAt = true → u.tkc.active = false → ∃ t, exec .tickBoundary s = .next t ∧ t.tkc.seq = s.tkc.seq ∧ t.tkc.active = false ∧
      t.tkc.stopAt = false ∧ t.sp.cur = u.sp.cur ∧ t.dp = u.dp)) ∧
  (∀ (s : State), awaitsEdge s = true → s.tkc.fly = true → mayReach s (cyclesTo s (flyLimit s)) = true →
    let u := s.pass (cyclesTo s (flyLimit s))
    frozen u = false → u.dbg.haltPend = false → u.dbg.stepTick = false → u.twn.state = .unpaired → u.twn.change = none → u.sp.early = none → u.tkc.stopAt = false →
    ∃ t r, exec .flywheelBoundary s = .next t ∧ t.tkc.seq = s.tkc.seq + 1 ∧ t.tkc.miss = s.tkc.miss + 1 ∧ t.tkc.time = 0 ∧ t.sp.cur = some r ∧ r.seq = s.tkc.seq + 1) ∧
  (∀ (s : State), awaitsEdge s = true → s.tkc.fly = false → mayReach s (cyclesTo s (flyLimit s)) = true →
    let u := s.pass (cyclesTo s (flyLimit s))
    frozen u = false → exec .tkcExtWait s = .next { u with tkc := { u.tkc with extWait := true } })

/-- TICK_IN (R34): a sampled edge that is accepted places the boundary in its third cycle; any other is ignored and counted in TKC_EARLY;
with the internal source, or frozen, it changes nothing. EARLY_INTAKE opens the record of the tick to come at FWR_SPEC_OFS (R267). -/
def Obligations.EdgesAndEarlyIntake : Prop :=
  (∀ (s : State), frozen s = false → s.tkc.src = true → edgeAccepted s = true →
    exec .tickIn s = .next { s with tkc := { s.tkc with edgeIn := some 3, extWait := false } }) ∧
  (∀ (s : State), frozen s = false → s.tkc.src = true → edgeAccepted s = false →
    exec .tickIn s = .next { s with tkc := { s.tkc with earlyCnt := s.tkc.earlyCnt + 1 } }) ∧
  (∀ (s : State), frozen s = true ∨ s.tkc.src = false → exec .tickIn s = .next s) ∧
  (∀ (s : State), s.sp.cur ≠ none → s.sp.early = none → noEarly s = false → s.tkc.active = true → canReach s s.fwr.spec.ofs.toNat = true →
    frozen (reach s s.fwr.spec.ofs.toNat) = false →
    ∃ t e, exec .earlyIntake s = .next t ∧ t.sp.early = some e ∧ e.seq = s.tkc.seq + 1 ∧ e.early = true ∧ e.dispatched = false ∧
      t.tkc = (reach s s.fwr.spec.ofs.toNat).tkc)

/-- DISPATCH, COMPUTE_START and EARLY_DISPATCH (R15, R18, R41, R152, R157, R267): at the dispatch offset every binding taken since the last
dispatch takes effect, the tick's stream-ticks are settled, each running one pins its stream, and the phase is 2; at the compute offset
the phase is 3 and every core that holds the tick's record and is in service computes from core time 0; the early tick is dispatched
early where its inputs are there, else it starts at its own boundary. -/
def Obligations.DispatchAndCompute : Prop :=
  (∀ (s : State) (r : TickRec), s.sp.cur = some r → r.dispatched = false → s.tkc.active = true → canReach s s.tkc.dispOfs.toNat = true →
    let u := reach s s.tkc.dispOfs.toNat
    u.sp.cur = some r → r.sts = [] → u.sp.early = none → frozen u = false → u.twn.state = .unpaired → s.sp.streams = u.sp.streams →
    ∃ t q, exec .dispatch s = .next t ∧ t.tkc.phase = 2 ∧ t.sp.cur = some q ∧ q.seq = r.seq ∧ q.dispatched = true ∧
      (∀ y ∈ t.sp.streams, y.place = y.placeNext) ∧ t.sp.streams.map (fun y => (y.id, y.life, y.seq, y.cur)) = s.sp.streams.map (fun y => (y.id, y.life, y.seq, y.cur)) ∧
      (∀ y ∈ q.sts, y.out = .running ∨ y.out = .skipped) ∧
      (∀ y ∈ q.sts, y.out = .running → ∀ x, findStream t y.stream = some x → x.pins.any (fun k => k.1 == r.seq) = true)) ∧
  (∀ (s : State) (r : TickRec), s.sp.cur = some r → r.dispatched = true → r.computing = false → r.passive = false → canReach s s.tkc.compOfs.toNat = true →
    let u := reach s s.tkc.compOfs.toNat
    u.sp.cur = some r → u.sp.early = none → frozen u = false → publishBehind u r.seq = false → u.twn.state = .unpaired →
    ∃ t q, exec .computeStart s = .next t ∧ t.tkc.phase = 3 ∧ t.sp.cur = some q ∧ q.seq = r.seq ∧ q.computing = true ∧
      (∀ c, canBegin u r.seq c false = true → (coreOf t c).tick = r.seq ∧ (coreOf t c).time = 0 ∧ (coreOf t c).startIn = 0 ∧ (coreOf t c).run ≠ .idle) ∧
      (∀ c, canBegin u r.seq c false = false → (coreOf t c).tick = (coreOf u c).tick)) ∧
  (∀ (s : State) (e : TickRec), s.sp.early = some e → e.early = true → e.dispatched = false → canReach s (s.fwr.spec.ofs.toNat + s.tkc.dispOfs.toNat) = true →
    let u := reach s (s.fwr.spec.ofs.toNat + s.tkc.dispOfs.toNat)
    u.sp.early = some e → (∀ r, u.sp.cur = some r → r.seq ≠ e.seq) → frozen u = false →
    (earlyReady u = true → noEarly u = false → ∃ t q, exec .earlyDispatch s = .next t ∧ t.sp.early = some q ∧ q.seq = e.seq ∧ q.dispatched = true ∧
      t.fwr.spec.earlyCnt = u.fwr.spec.earlyCnt + 1) ∧
    (earlyReady u = false → ∃ t, exec .earlyDispatch s = .next t ∧ t.sp.early = some { e with early := false } ∧
      t.fwr.spec.nostart = u.fwr.spec.nostart + 1 ∧ t.dp = u.dp))

/-- The pit (R22 to R26, R50, R51, R154): a stream-tick of an ordinary tick that is still running commits if it was not late and every core
of its chain has issued its commands of the tick and what those of the stream's packets write has landed, else it is SKIPPED; a committed one flips its stream's slot and gives the stream its sequence number; the
slot and the sequence number of every other stream stay. The tick goes to publish, and its pins are released. -/
def Obligations.PitCommitsWhatFinished : Prop :=
  ∀ (s : State) (r : TickRec) (p : Package), s.sp.cur = some r → r.computing = true → canReach s s.tkc.deadOfs.toNat = true → s.sp.early = none →
    let u := reach s s.tkc.deadOfs.toNat
    u.sp.cur = some r → frozen u = false → u.twn.state = .unpaired → r.early = false → r.predicted = false → taskPkg u = some p →
    u.sp.early = none → (u.sp.streams.map (fun x => x.id)).Nodup → (r.sts.map (fun y => y.stream)).Nodup →
    (∀ x ∈ u.sp.streams, ∀ b, curSlot p x = some b → ∀ m ∈ u.dp.ecc, m.gran ≠ 32 * (b + slotRows p - 1)) →
    ∃ t q, exec .pit s = .next t ∧ t.sp.cur = none ∧ t.tkc.phase = 4 ∧ t.sp.pubs = u.sp.pubs ++ [q] ∧ q.seq = r.seq ∧
      q.sts.map (fun y => (y.stream, y.out)) = r.sts.map (fun y => (y.stream,
        if y.out ≠ .running then (if y.out = .discarded ∧ u.tkc.cuReserve = 0 then .skipped else y.out)
        else if y.mism ∨ y.srcBad then (if u.tkc.cuReserve = 0 then .skipped else .discarded)
        else if y.late = true ∨ stFinished u r.seq y = false then .skipped else .committed)) ∧
      (∀ x ∈ u.sp.streams, ∃ z ∈ t.sp.streams, z.id = x.id ∧ (∀ k ∈ z.pins, k.1 ≠ r.seq) ∧
        (∀ y ∈ q.sts, y.stream = x.id → y.out = .committed → z.cur = !x.cur ∧ z.seq = y.seqs.getLastD x.seq) ∧
        ((∀ y ∈ q.sts, y.stream = x.id → y.out ≠ .committed) → z.cur = x.cur ∧ z.seq = x.seq))

/-- PUBLISH (R43, R302, R303): the records of the oldest tick whose pit has passed are queued on the completion ring of its descriptor's
ring, one per place group, in order; once none of its records waits it leaves publish and its PIT event follows. No journal is kept and
no stream-tick committed. -/
def Obligations.PublishQueuesRecords : Prop :=
  (∀ (s : State) (r : TickRec) (rest : List TickRec) (c : TickCmd), s.fwr.fw.level ≠ 3 → s.twn.state ≠ .fenced → s.sp.pubs = r :: rest → r.done = false →
    r.cmd = some c → s.err.jrnlActive = false → committedSts r = [] → (∀ y ∈ rest, y.seq ≠ r.seq) → (vget s.hif.cqs (vget s.hif.sqs c.sq).cq).dead = false →
    let m := (vget s.hif.sqs c.sq).cq
    ∃ t, exec .publish s = .next t ∧ t.sp.pubs = { r with done := true } :: rest ∧ t.dp = s.dp ∧
      (vget t.hif.cqs m).waiting = (vget s.hif.cqs m).waiting ++ (tickRecords s r).map (fun x => ⟨x.2, 3, false, none, true⟩) ∧
      (∀ k, k ≠ m → vget t.hif.cqs k = vget s.hif.cqs k)) ∧
  (∀ (s : State) (r : TickRec) (rest : List TickRec), s.fwr.fw.level ≠ 3 → s.twn.state ≠ .fenced → s.sp.pubs = r :: rest → r.done = true →
    tickRecordsWait s = false → s.tkc.ending = false → s.hif.evt.room = true →
    let n := fun (o : StOut) => (r.sts.filter (fun y => y.out == o)).length
    ∃ t, exec .publish s = .next t ∧ { t with sp := s.sp, hif := s.hif } = s ∧ t.sp = { s.sp with pubs := rest } ∧ { t.hif with evt := s.hif.evt } = s.hif ∧
      t.hif.evt.waiting = s.hif.evt.waiting ++ [⟨[1, 0, 0, 0] ++ bytesOf 4 (n .committed) ++ List.replicate 8 0 ++
        padTo 16 (bytesOf 4 (n .skipped + r.unlisted) ++ bytesOf 4 (n .rolledBack) ++
          [BitVec.ofNat 8 (r.cmd.isSome.toNat + 2 * r.predicted.toNat + 4 * r.early.toNat)]), 1, false, none, false⟩])

/-- A kill (R221, R431): while the SP serves, ticks stop at once, the task and its streams are gone, nothing of it is queued or under way,
every open TICK descriptor completes with ROLLED_BACK, and the KILLED event is posted, after STOPPED where ticks were active; before
that, and in FAULT, the kill stays requested. What issued commands still write is in its place; the regions to scrub are zero, and no
other memory changes. -/
def Obligations.KillEndsTask : Prop :=
  (∀ (s : State), spServes s = true →
    let u := settleData s
    let scrubs := orchScrubRows u.dp ++ (allCores.filter (taskCore s)).flatMap (fun c => coreScrubRows (coreOf u c).cm c)
    ∃ t, exec .hifKill s = .next t ∧ t.tkc.run = false ∧ t.tkc.active = false ∧ t.tkc.seq = s.tkc.seq ∧ t.sp.task = none ∧ t.sp.streams = [] ∧ t.sp.cur = none ∧
      t.sp.early = none ∧ t.sp.pubs = [] ∧ t.dp.landings = [] ∧ t.dp.metering = false ∧
      (∀ c, (coreOf t c).run = .idle ∧ (coreOf t c).dmem = [] ∧ ∀ q, (vget (coreOf t c).queues q).cmds = []) ∧
      (s.hif.evt.room = true → s.tkc.active = false → t.hif.evt.waiting.length = s.hif.evt.waiting.length + 1 ∧
        (t.hif.evt.waiting.getLast?).bind (fun x => x.bytes.head?) = some 3) ∧
      (∀ a, (∀ x ∈ scrubs, inRows (a / 512) x.1 x.2 = false) → memRead t.dp.dev a = memRead u.dp.dev a) ∧
      (memWf u.dp.dev → ∀ a, (∃ x ∈ scrubs, inRows (a / 512) x.1 x.2 = true) → memRead t.dp.dev a = 0)) ∧
  (∀ (s : State), spServes s = false → exec .hifKill s = .next { s with hif := { s.hif with kill := true } })

/-- TICK, CONTROL_BLOCK, ERROR_BLOCK, EMBEDDING_FETCH_COMPLETE and SIN_PACKET (R40, R41, R281, R282, R299 to R301, R406): a descriptor of the
tick at intake, with no blocks, is taken and gives the tick its fields; one of a later tick stays at the head, one whose dispatch has
passed completes with status 1. A control block whose check holds gives the tick its fields. The rows of an error block of one entry land
in the error area; its entry is copied with its retention rows into the lowest free place, or refused and counted with its reason. An embedding lands in its stream's rows, converted in transit, and the DE flags of the first core of its chain take those of the
conversion (log 123). A sample
lands in its stream's row of the coming tick, or is discarded and counted with its reason. Nothing else changes. -/
def Obligations.IntakeTakesWhatArrives : Prop :=
  (∀ (s : State) (d : TickDesc) (r : TickRec), descReady s d.sq (tickBytes d) d.crc → tickFormOk s d = true → s.twn.state ≠ .fenced →
    d.sq = s.hif.tickRing → d.tickSeq ≠ 0 → s.sp.taken.any (fun x => x == d.tickSeq) = false → s.sp.early = none → s.sp.cur = some r →
    (s.tkc.seq < d.tickSeq → exec (.tick d) s = .next s) ∧
    (¬(s.tkc.seq < d.tickSeq) → r.seq = d.tickSeq → r.dispatched = false → r.passive = false → tickRefusal s d = none → d.ctlAddr = 0 → d.errAddr = 0 →
      ∃ t, exec (.tick d) s = .next t ∧ besideDesc s t ∧ t.hif = takenHif s.hif d.sq ∧ t.sp = { s.sp with
        taken := s.sp.taken ++ [d.tickSeq], cur := some { r with cmd := some (tickCmdOf d (vget s.hif.sqs d.sq).seq (tickPort s) none), ctl := some ⟨d.vdim, []⟩ } }) ∧
    (¬(s.tkc.seq < d.tickSeq) → r.seq = d.tickSeq → r.dispatched = true → r.predicted = false →
      ∃ t, exec (.tick d) s = .next t ∧ besideDesc s t ∧ t.sp = { s.sp with taken := s.sp.taken ++ [d.tickSeq] } ∧
        t.hif = recorded (takenHif s.hif d.sq) d.sq (completionBytes 1 1 0 true d.sq d.tag d.tickSeq 0 0) false)) ∧
  (∀ (s : State) (r : TickRec) (c : TickCmd) (resp : BitVec 2) (data : List Byte), s.sp.cur = some r → s.sp.early = none → r.cmd = some c → c.ctlWait = true →
    r.dispatched = false → meterHolds s.dp (portMeter c.port) c.ctlTicket = false → resp.toNat < 2 →
    (formCheck s 0 1 true (r.seq.setWidth 32) (padTo (rowBytes * c.ctlRows.toNat) data)).1 = c.ctlCrc.toNat →
    (List.range (placeCount s)).all (ctlEntryOk data) = true →
    ∃ t, exec (.controlBlock resp data) s = .next t ∧ { t with sp := s.sp, dus := s.dus } = s ∧
      t.sp = { s.sp with cur := some { r with cmd := some { c with ctlWait := false }, ctl := some (ctlOf s c data) } }) ∧
  (∀ (s : State) (r : TickRec) (e : ErrFetch) (es : List ErrFetch) (resp : BitVec 2) (data : List Byte) (x : Stream) (p : Package),
    s.sp.cur = some r → s.sp.early = none → r.dispatched = false → r.ctl.isSome = true → r.errs = e :: es →
    meterHolds s.dp (portMeter e.port) e.ticket = false → meterHolds s.dp (portMeter e.port) e.more = false →
    (e.more = none → s.dp.metering = false) → resp.toNat < 2 → data.length = 1024 →
    (errBlockOk s e data).1 = true → fieldAt data 8 2 = 1 →
    let row := data.drop 512
    let id : W16 := BitVec.ofNat 16 (fieldAt row 0 2)
    let tgt : W64 := BitVec.ofNat 64 (fieldAt row 8 8)
    let b := p.lrnBase + freeLrnSlot s * lrnRows p
    let area := [p.errBase, p.errBase + 1]
    taskPkg s = some p → findStream s id = some x → memWf s.dp.dev →
    (∀ (k : Nat) (a : AdapterDef), entryRefusal s r [] row = none → streamAdapter p x = some (k, a) →
      (∀ n < retRows a + 1, retRow a (x.place.getD 0) tgt + n ∉ area) → (∀ n < retRows a + 2, b + n ∉ area) →
      (∀ n < retRows a + 1, rowMarks s.dp (retRow a (x.place.getD 0) tgt + n) = []) →
      let l : LrnPlace := { slot := freeLrnSlot s, adapter := k, finite := true, stream := id, group := if x.adapt = 2 then some x.group else none,
                            tgtSeq := tgt, lrsh := BitVec.ofNat 4 (fieldAt row 2 1), inUse := false, runTick := 0 }
      ∃ t, exec (.errorBlock resp data) s = .next t ∧ { t.dp with dev := s.dp.dev, ecc := s.dp.ecc, wcls := s.dp.wcls } = s.dp ∧
        orchardRows t b (retRows a + 2) = row ++ orchardRows s (retRow a (x.place.getD 0) tgt) (retRows a + 1) ∧
        orchardRows t p.errBase 2 = data ∧ otherRowsKept s t (area ++ (List.range (retRows a + 2)).map (b + ·)) ∧
        t.sp = { s.sp with cur := some { r with errs := es }, lrn := s.sp.lrn ++ [l] } ∧
        t.fwr = { s.fwr with lrn := { s.fwr.lrn with accept := s.fwr.lrn.accept + 1 } }) ∧
    (∀ n, entryRefusal s r [] row = some (n + 1) →
      ∃ t, exec (.errorBlock resp data) s = .next t ∧ { t.dp with dev := s.dp.dev, ecc := s.dp.ecc, wcls := s.dp.wcls } = s.dp ∧
        orchardRows t p.errBase 2 = data ∧ otherRowsKept s t area ∧ t.sp = { s.sp with cur := some { r with errs := es } } ∧
        t.fwr = { s.fwr with lrn := { s.fwr.lrn with refuse := s.fwr.lrn.refuse + 1, refReason := BitVec.ofNat 8 (n + 1), refId := id } })) ∧
  (∀ (s : State) (id : W16) (x : Stream) (p : Package) (resp : BitVec 2) (data : List Byte), memWf s.dp.dev → findStream s id = some x → taskPkg s = some p →
    x.embFly = true → meterHolds s.dp (portMeter (embPort x)) x.embTicket = false → resp.toNat < 2 →
    let b := embBytes p data
    let a₀ := 512 * (p.embBase + (x.placeNext.getD 0).toNat * rowsFor b.1.length)
    ∃ t, exec (.embeddingFetchComplete id resp data) s = .next t ∧ besideDesc { s with dp := t.dp } t ∧
      { t.dp with dev := s.dp.dev, ecc := s.dp.ecc, wcls := s.dp.wcls, cores := s.dp.cores } = s.dp ∧
      (∀ c, coreOf t c = if embCore s p x = some c then (coreOf s c).setNflag (nflagBits .de b.2) s.dp.cycle else coreOf s c) ∧
      (∀ a, memRead t.dp.dev a = if a₀ ≤ a ∧ a < a₀ + b.1.length then byteAt b.1 (a - a₀) else memRead s.dp.dev a) ∧
      t.sp = { s.sp with streams := streamsWith s id (fun y => { y with embFly := false, embTicket := none, emb := true }) }) ∧
  (∀ (s : State) (port : BitVec 2) (id : W16) (data : List Byte) (keepOk : Bool),
    let f := vget s.fwr.sin port
    (∀ n, sinReason s port id data keepOk = some n → exec (.sinPacket port id data keepOk) s = .next { s with fwr := { s.fwr with
      sin := vset s.fwr.sin port { f with discard := f.discard + 1, lastReason := BitVec.ofNat 3 n, lastId := id } } }) ∧
    (∀ (x : Stream) (p : Package), sinReason s port id data keepOk = none → memWf s.dp.dev → s.sp.early = none → findStream s id = some x → taskPkg s = some p →
      let row := intakeRow p (s.tkc.seq + 1) (x.placeNext.getD (x.place.getD 0)) x.nextWindow.length
      ∃ t, exec (.sinPacket port id data keepOk) s = .next t ∧ { t.dp with dev := s.dp.dev, ecc := s.dp.ecc, wcls := s.dp.wcls } = s.dp ∧
        orchardRows t row 1 = padTo 512 data ∧ otherRowsKept s t [row] ∧
        { t with dp := s.dp, sp := s.sp, fwr := s.fwr } = s ∧ t.fwr = { s.fwr with sin := vset s.fwr.sin port { f with accept := f.accept + 1 } } ∧
        t.sp = { s.sp with streams := streamsWith s id (fun y => { y with nextWindow := y.nextWindow ++ [data] }) }))

/-! ### Faults, recovery and reports -/

/-- TIMEOUT, TILE_READY_LIMIT, WAIT_CYCLE and GATE_RESOLVE (R163, R238, R239, R243, Table 10-5): a gate that has held its core to its limit ends
the hold: every FWAIT that reaches its limit in the cycle with TIMEOUT, the tile-ready gate with an engine fault, each of which rolls its
chain back and calls for its restart,
the residency gate by expiry, after which the tick's stream-ticks that are not resident are SKIPPED; a chain without progress for 4,096
cycles is reported, rolled back and restarted. CHAIN_RESTART (R347, R348) puts a drained chain's cores back to their initial values, or,
where its rows cannot be fetched, leaves it out; ECC_WRITE_BACK, ERROR_FIFO_DRAIN and ERR_CLS_CLR do what R208, R343 and Table 17-6 say. -/
def Obligations.FaultsAndRecovery : Prop :=
  (∀ (s u : State) (c : BitVec 3) (q : Queue) (i : Instr), holdEnds s c q 2 = some (u, i) →
    let times := fun (v : W16) => (List.range (failedWaits u).length).foldl (fun n _ => satInc n) v
    ∃ t, exec (.timeout c q) s = .next t ∧ t.dp.dev = u.dp.dev ∧ (vget t.err.cls 6).cnt = times (vget u.err.cls 6).cnt ∧
      t.fwr.toCnt = times u.fwr.toCnt ∧
      (∀ h, (coreOf u c).hold = some h → gateLimit u i ≤ h.cycles → (c, q, i) ∈ failedWaits u) ∧
      (∀ x ∈ failedWaits u, ∀ ch, chainOf u x.1 = some ch → ∀ k ∈ chainCores u ch, (coreOf t k).restart = true ∧ (coreOf t k).hold = none) ∧
      (∀ ch, chainOf u c = some ch → failedWaits u = [(c, q, i)] → chainFails u t ch c)) ∧
  (∀ (s u : State) (c : BitVec 3) (i : Instr) (ch : Nat), holdEnds s c .me 1 = some (u, i) → chainOf u c = some ch →
    ∃ t, exec (.tileReadyLimit c) s = .next t ∧ chainFails u t ch c ∧ (vget t.err.cls 7).cnt = satInc (vget u.err.cls 7).cnt) ∧
  (∀ (s u : State) (c : BitVec 3) (i : Instr) (r : TickRec), holdEnds s c .de 4 = some (u, i) → u.sp.early = none → u.sp.cur = some r → r.seq = (coreOf u c).tick →
    let gone := fun (y : StreamTick) => y.out == .running && !isResident u y.stream
    ∃ t q, exec (.gateResolve c) s = .next t ∧ t.fwr.stm.gateExp = satInc u.fwr.stm.gateExp ∧ t.dp.dev = u.dp.dev ∧ t.sp.cur = some q ∧ q.seq = r.seq ∧
      q.sts.map (fun y => (y.stream, y.out)) = r.sts.map (fun y => (y.stream, if gone y then .skipped else y.out)) ∧
      (vget t.err.cls 8).cnt = (List.range (r.sts.filter gone).length).foldl (fun n _ => satInc n) (vget u.err.cls 8).cnt) ∧
  (∀ (s : State) (chain : Nat) (k : BitVec 3), noProgress s chain = true → mayReach s (npdLimit - s.sp.npd.getD chain 0) = true →
    let u := s.pass (npdLimit - s.sp.npd.getD chain 0)
    frozen u = false → npdLimit ≤ u.sp.npd.getD chain 0 → (chainCores u chain).find? (fun c => heldByWait (coreOf u c)) = some k →
    ∃ t, exec (.waitCycle chain) s = .next t ∧ chainFails u t chain k ∧ (vget t.err.cls 5).cnt = satInc (vget u.err.cls 5).cnt ∧
      t.fwr.npdCnt = satInc u.fwr.npdCnt ∧ t.fwr.npdCores = coreBits (chainCores u chain) ∧ t.fwr.npdSeq = (coreOf u k).tick.setWidth 32) ∧
  (∀ (s : State) (chain : Nat) (ok : Bool) (rows : List (Nat × List Byte)) (r : Restart), s.sp.restarts.find? (fun x => x.chain == chain) = some r →
    r.failed = false → s.fwr.fw.level ≠ 3 → mayReach s (landingsEnd s) = true →
    let u := s.pass (landingsEnd s)
    let bad := rows.filter (fun x => (rowMarks u.dp x.1).any (fun m => m.unc && m.w))
    frozen u = false → chainDrained u chain = true → memWf u.dp.dev → (rows.map (fun x => x.1)).Nodup →
    (∀ x ∈ bad, x.1 < 0x20000 ∨ (x.1 < 0x40000 ∧ x.1 % 0x4000 < 12288 ∧ rowCore x.1 ∈ chainCores u chain)) →
    ((r.restore = true → ok = true) → ∃ t, exec (.chainRestart chain ok rows) s = .next t ∧
      (∀ k ∈ chainCores u chain, (coreOf t k).flg = (coreOf u k).flgInit ∧ (coreOf t k).k = (coreOf u k).kInit ∧ (coreOf t k).cmp = (coreOf u k).cmpInit ∧
        (coreOf t k).restart = false ∧ (coreOf t k).run = .idle ∧ (coreOf t k).hold = none ∧ (coreOf t k).me.ftq = [] ∧ (coreOf t k).me.outq = [] ∧
        (coreOf t k).me.ibReady = 0 ∧ (coreOf t k).me.whReady = 0 ∧ (coreOf t k).ve.ftPend = none ∧
        (coreOf t k).cm.inService = (u.tkc.active && u.dbg.runState != .halted)) ∧
      (∀ k, k ∉ chainCores u chain → coreOf t k = coreOf u k) ∧
      t.dp.dflg = (u.dp.dflg &&& ~~~(chainDflags u chain)) ||| (u.dp.dflgInit &&& chainDflags u chain) ∧
      t.sp = { u.sp with restarts := u.sp.restarts.filter (fun x => x.chain != chain) } ∧
      t.err = { u.err with restartCnt := satInc u.err.restartCnt, restartCores := coreBits (chainCores u chain) } ∧
      (r.restore = true → ∀ x ∈ bad, rowData t.dp x.1 = padTo 512 x.2) ∧ otherRowsKept u t (if r.restore then bad.map (fun x => x.1) else [])) ∧
    (r.restore = true → ok = false → ∃ t, exec (.chainRestart chain ok rows) s = .next t ∧ { t.dp with cores := u.dp.cores } = u.dp ∧
      (∀ k, coreOf t k = if k ∈ chainCores u chain then { coreOf u k with cm := { (coreOf u k).cm with inService := false } } else coreOf u k) ∧
      (∀ x ∈ t.sp.restarts, x.chain = chain → x.failed = true) ∧ (vget t.err.cls 15).cnt = satInc (vget u.err.cls 15).cnt)) ∧
  (∀ (s : State) (g : BitVec 23), ∃ t, exec (.eccWriteBack g) s = .next t ∧ { t with dp := { t.dp with ecc := s.dp.ecc } } = s ∧
    ∀ m, m ∈ t.dp.ecc ↔ m ∈ s.dp.ecc ∧ ¬(m.gran = g.toNat ∧ m.wb = true ∧ m.unc = false)) ∧
  (∀ (s : State) (e : ErrEntry), s.err.fifo[s.hif.err.waiting.length]? = some e → s.hif.err.room = true → (s.err.fifoTicket = none → s.dp.metering = false) →
    meterHolds s.dp 10 s.err.fifoTicket = false → exec .errorFifoDrain s = .next { s with
      hif := { s.hif with err := { s.hif.err with waiting := s.hif.err.waiting ++ [⟨errBytes e, 3, true, none, false⟩] } },
      err := { s.err with fifo := s.err.fifo.set s.hif.err.waiting.length { e with opened := false, charged := true }, fifoTicket := none } }) ∧
  (∀ (s : State) (mask : W16), ∃ t, exec (.errClsClr mask) s = .next t ∧ { t with err := { t.err with cls := s.err.cls } } = s ∧
    ∀ (k : BitVec 4), vget t.err.cls k = if mask.getLsbD k.toNat then ⟨0, 0, 0, 0xFF, 0xFF⟩ else vget s.err.cls k)

/-! ### Firmware -/

/-- Watchdogs, MPU faults, log entries, trace packets and FWR writes (R310, R311, R332, R333, R335, R336, R402): a CP's expiry or fault, the
first within 1,000 ticks, is counted and rolls its chain back; that of the XP, the PP or the SP is fatal: level FAULT, every stream-tick
SKIPPED. A kick restarts one count. An entry at or above the log level is held, a packet of an enabled class kept. A write of FWR waits
its turn merged with the shadow, a full queue refuses it, and each applied write gives its word the written value; one still queued at
its limit is counted late and stays. -/
def Obligations.FirmwareEvents : Prop :=
  (∀ (s : State) (k : BitVec 3) (ch : Nat), procRuns s (.cp k) = true → (vget s.cps k).wdPeriod ≠ 0 →
    let n := (watchdogLeft (vget s.cps k) + tuStep s - 1) / tuStep s
    let u := s.pass n
    mayReach s n = true → u.fwr.fw.level ≠ 3 → (vget u.cps k).lastExp = none → chainOf u k = some ch →
    ∃ t, exec (.watchdogExpiry (.cp k)) s = .next t ∧ chainFails u t ch k ∧ (vget t.cps k).wdCount = 0 ∧ (vget t.cps k).lastExp = some u.tkc.seq ∧
      t.fwr.fw = { u.fwr.fw with wdtExp := satInc u.fwr.fw.wdtExp, wdtLast := BitVec.ofNat 4 (3 + k.toNat) } ∧
      (vget t.err.cls 7).cnt = satInc (vget u.err.cls 7).cnt) ∧
  (∀ (s : State) (p : Proc), (∀ k, p ≠ .cp k) → procRuns s p = true → (getProc s p).wdPeriod ≠ 0 →
    let n := (watchdogLeft (getProc s p) + tuStep s - 1) / tuStep s
    let u := s.pass n
    mayReach s n = true → u.fwr.fw.level ≠ 3 →
    ∃ t, exec (.watchdogExpiry p) s = .next t ∧ t.fwr.fw.level = 3 ∧ t.fwr.fw.wdtExp = satInc u.fwr.fw.wdtExp ∧
      (∀ r, t.sp.cur = some r → ∀ y ∈ r.sts, y.out = .skipped) ∧ t.dp.dev = u.dp.dev ∧ (p = .xp → t.sec.bootState = 6)) ∧
  (∀ (s : State) (k : BitVec 3) (ch : Nat), procRuns s (.cp k) = true → s.fwr.fw.level ≠ 3 → (vget s.cps k).lastExp = none → chainOf s k = some ch →
    ∃ t, exec (.mpuFault (.cp k)) s = .next t ∧ chainFails s t ch k ∧
      t.fwr.fw = { s.fwr.fw with mpuFault := satInc s.fwr.fw.mpuFault, mpuLast := BitVec.ofNat 4 (3 + k.toNat) } ∧
      (vget t.err.cls 7).cnt = satInc (vget s.err.cls 7).cnt) ∧
  (∀ (s : State) (p : Proc), (∀ k, p ≠ .cp k) → procRuns s p = true → s.fwr.fw.level ≠ 3 →
    ∃ t, exec (.mpuFault p) s = .next t ∧ t.fwr.fw.level = 3 ∧ t.fwr.fw.mpuFault = satInc s.fwr.fw.mpuFault ∧
      (∀ r, t.sp.cur = some r → ∀ y ∈ r.sts, y.out = .skipped) ∧ t.dp.dev = s.dp.dev ∧ (p = .xp → t.sec.bootState = 6)) ∧
  (∀ (s : State) (p : Proc), procRuns s p = true → ∃ t, exec (.watchdogKick p) s = .next t ∧ getProc t p = { getProc s p with wdCount := 0 } ∧
    (∀ r, r ≠ p → getProc t r = getProc s r) ∧ { t with xp := s.xp, pp := s.pp, spp := s.spp, cps := s.cps } = s) ∧
  (∀ (s : State) (level : BitVec 3) (source : BitVec 4) (code : W32) (args : List W32) (p : Proc), procOfSource source.toNat = some p → procRuns s p = true →
    s.spp.released = true → level.toNat ≤ 4 →
    (level.toNat ≤ s.fwr.fw.logLevel.toNat → s.fwr.fw.logs.length < 64 → ∃ t b, exec (.logEntry level source code args) s = .next t ∧
      t.fwr.fw.logs = s.fwr.fw.logs ++ [⟨b⟩] ∧ b.length = 64 ∧ fieldAt b 1 1 = level.toNat ∧ fieldAt b 2 1 = source.toNat ∧ fieldAt b 4 4 = code.toNat ∧
      fieldAt b 8 8 = s.tkc.seq.toNat ∧ { t with fwr := s.fwr, dp := { t.dp with free := s.dp.free } } = s ∧
      { t.fwr with fw := { t.fwr.fw with logs := s.fwr.fw.logs, recent := s.fwr.fw.recent } } = s.fwr) ∧
    (s.fwr.fw.logLevel.toNat < level.toNat → exec (.logEntry level source code args) s = .next s)) ∧
  (∀ (s : State) (source : BitVec 4) (point : BitVec 12) (cls : BitVec 4) (a0 a1 : W32) (debug : Bool), s.fwr.fw.drainEn = false →
    (if debug then s.dbg.trace = true else s.fwr.fw.trcEn = true ∧ s.fwr.fw.trcMask.getLsbD cls.toNat = true) →
    ((tracePart s.fwr.fw debug).length < traceCap s.fwr.fw → exec (.tracePacket source point cls a0 a1 debug) s = .next { s with fwr := { s.fwr with
      fw := { s.fwr.fw with trace := s.fwr.fw.trace ++ [⟨debug, packetWords s source point a0 a1⟩] } } }) ∧
    (traceCap s.fwr.fw ≤ (tracePart s.fwr.fw debug).length → s.fwr.fw.trcWrap = false → debug = false →
      exec (.tracePacket source point cls a0 a1 debug) s = .next { s with fwr := { s.fwr with fw := { s.fwr.fw with trcDrop := s.fwr.fw.trcDrop + 1 } } })) ∧
  (∀ (s : State) (ofs : W16) (value : W32) (strb : BitVec 4), ofs &&& 3 = 0 → ofs ≠ 0x8000 → fwrDefined ofs.toNat = true →
    (s.fwr.queue.length < 16 → exec (.fwrWrite ofs value strb) s = .next { s with fwr := { s.fwr with
      queue := s.fwr.queue ++ [⟨ofs, mergeBytes (fwrShadow s ofs.toNat) value strb, 4000, !s.fwr.fell⟩], pending := true } }) ∧
    (16 ≤ s.fwr.queue.length → ∃ t, exec (.fwrWrite ofs value strb) s = .next t ∧ { t with err := s.err } = { s with fwr := { s.fwr with ovr := true } } ∧
      (vget t.err.cls 12).cnt = satInc (vget s.err.cls 12).cnt)) ∧
  (∀ (s : State) (w : FwrWrite) (ws : List FwrWrite), spServes s = true → s.spp.released = true → s.fwr.queue = w :: ws →
    let plain : List Nat := [0x8240, 0x8244, 0x8248, 0x8250, 0x8254, 0x8258, 0x825C, 0x8410, 0x8E00]
    w.ofs.toNat ∈ plain → ∃ t, exec .fwrWriteApply s = .next t ∧ { t with fwr := s.fwr } = s ∧ t.fwr.queue = ws ∧ t.fwr.pending = !ws.isEmpty ∧
      (∀ o ∈ plain, fwrForce t o = if o = w.ofs.toNat then (fwrForce s o &&& ~~~(fwrMask o)) ||| (w.value &&& fwrMask o) else fwrForce s o)) ∧
  (∀ (s : State) (w : FwrWrite), clockRuns s = true → s.fwr.queue.find? (fun x => !x.late) = some w →
    let n := (w.left + tuStep s - 1) / tuStep s
    let u := s.pass n
    mayReach s n = true → ∃ t, exec .fwrLate s = .next t ∧ t.fwr.late = true ∧ t.fwr.lateCnt = u.fwr.lateCnt + 1 ∧
      t.fwr.queue.map (fun x => (x.ofs, x.value)) = s.fwr.queue.map (fun x => (x.ofs, x.value)) ∧
      (t.fwr.queue.filter (fun x => !x.late)).length + 1 = (s.fwr.queue.filter (fun x => !x.late)).length ∧
      (vget t.err.cls 12).cnt = satInc (vget u.err.cls 12).cnt ∧ t.dp.dev = u.dp.dev)

/-! ### The register window and the rings -/

/-- HIF_DB, RING_ENABLE, HEAD, RING_ENTRY_WRITTEN and CFG_WRITE (R291 to R295, R313, R402): a doorbell below the ring's size sets its tail, any
other is ignored and sets HIF_DB_ERR; enabling a ring starts it at 0 with its phase at 1, a change of an enabled ring is ignored and sets
HIF_WR_IGN; HEAD sets the driver's index; the first waiting record is written where the tail stands, the tail advances and the phase
toggles at the wrap, an error response disables the ring; of a word written only the strobed bytes change, and a write-1-to-clear bit
clears where it is written 1, a flag of COREc_NFLAG but for one set in the same cycle (R100, R102). Records are written while no tick's
publish ends with them. -/
def Obligations.RingsAndRegisters : Prop :=
  (∀ (s : State) (n : BitVec 4) (value : W32),
    let r := vget s.hif.sqs n
    (r.enable = true → value.toNat % 4096 < r.size → exec (.hifDb n value) s = .next { s with hif := { s.hif with
      sqs := vset s.hif.sqs n { r with db := BitVec.ofNat 12 (value.toNat % 4096) } } }) ∧
    (r.enable = false ∨ r.size ≤ value.toNat % 4096 → exec (.hifDb n value) s = .next { s with hif := { s.hif with dbErr := true } })) ∧
  (∀ (s : State) (n : BitVec 4) (value : W32),
    let r := vget s.hif.sqs n
    let size := value.extractLsb' 0 4
    (r.enable = false → value.getLsbD 4 = true → sizeOk size = true → exec (.ringEnable (.sq n) value) s = .next { s with hif := { s.hif with
      sqs := vset s.hif.sqs n { r with sizeLog2 := size, port := value.getLsbD 5, cq := value.extractLsb' 8 4, enable := true, head := 0, db := 0, seq := 0 } } }) ∧
    (r.enable = true → size ≠ r.sizeLog2 → ∃ t, exec (.ringEnable (.sq n) value) s = .next t ∧ t = { s with hif := { s.hif with wrIgn := true } })) ∧
  (∀ (s : State) (id : RingId) (r : PRing) (value : W32), getRing s id = some r →
    let size := value.extractLsb' 0 4
    (r.enable = false → value.getLsbD 4 = true → sizeOk size = true → ∃ t x, exec (.ringEnable id value) s = .next t ∧ getRing t id = some x ∧
      x.enable = true ∧ x.head = 0 ∧ x.tail = 0 ∧ x.phase = true ∧ x.sizeLog2 = size ∧ x.base = r.base ∧ x.waiting = r.waiting ∧
      (∀ k, k ≠ id → getRing t k = getRing s k) ∧ { t with hif := s.hif } = s) ∧
    (∀ v, ∃ t, exec (.head id v) s = .next t ∧ getRing t id = some { r with head := v } ∧ (∀ k, k ≠ id → getRing t k = getRing s k) ∧
      { t with hif := s.hif } = s)) ∧
  (∀ (s : State) (id : RingId) (r : PRing) (x : RingRec) (xs : List RingRec) (resp : BitVec 2), memWf s.dp.ext → getRing s id = some r → r.waiting = x :: xs →
    mayWrite s id r x = true →
    ((x.offered = true ∧ meterHolds s.dp 10 x.ticket = false) ∨ (x.offered = false ∧ s.dp.metering = false)) →
    (∀ p, s.sp.pubs.head? = some p → p.done = false) → s.tkc.ending = false →
    let n := entryBytes s id
    let b := r.base + n * r.tail.toNat
    let i := (r.tail.toNat + 1) % r.size
    (resp.toNat < 2 → ∃ t, exec (.ringEntryWritten id resp) s = .next t ∧
      getRing t id = some { r with tail := BitVec.ofNat 12 i, phase := if i = 0 then !r.phase else r.phase, waiting := xs } ∧
      (∀ k, k ≠ id → getRing t k = getRing s k) ∧ { t.dp with ext := s.dp.ext } = s.dp ∧
      (∀ a, memRead t.dp.ext a = if b ≤ a ∧ a < b + n then byteAt (padTo n (recordBytes s id r x)) (a - b) else memRead s.dp.ext a) ∧
      { t with dp := s.dp, hif := s.hif, err := s.err } = s ∧ t.err = if id = .err then { s.err with fifo := s.err.fifo.drop 1 } else s.err) ∧
    (2 ≤ resp.toNat → ∃ t y, exec (.ringEntryWritten id resp) s = .next t ∧ getRing t id = some y ∧ y.enable = false ∧ y.tail = r.tail ∧
      t.hif.memErr = true ∧ t.dp.ext = s.dp.ext ∧ (vget t.err.cls 11).cnt = satInc (vget s.err.cls 11).cnt)) ∧
  (∀ (s : State) (value : W32) (strb : BitVec 4), strb ≠ 0 →
    let one := fun (i : Nat) => strb.getLsbD 0 && value.getLsbD i
    let h : Hif := { s.hif with dbErr := s.hif.dbErr && !one 0, wrIgn := s.hif.wrIgn && !one 1, memErr := s.hif.memErr && !one 2 }
    exec (.cfgWrite 0x48 value strb .cfg) s = .next { s with hif := { s.hif with irqMask := if strb.getLsbD 0 then value.extractLsb' 0 3 else s.hif.irqMask } } ∧
    exec (.cfgWrite 0x44 value strb .cfg) s = .next { s with hif := h }) ∧
  (∀ (s : State) (c : BitVec 3) (value : W32), let f := value.extractLsb' 0 16
    exec (.cfgWrite (BitVec.ofNat 16 (0x4040 + 0x800 * c.toNat)) value 15 .cfg) s = .next (if corePresent s c then { s with dp := s.dp.modCore c (fun x =>
      { x with nflag := x.nflag &&& ~~~(if x.nflagCyc = s.dp.cycle then f &&& ~~~x.nflagNew else f) }) } else s)) ∧
  (∀ (s : State) (ofs : W16) (value : W32), ofs.toNat < 0x8000 → exec (.cfgWrite ofs value 0 .cfg) s = .next s)

/-! ### Check units -/

/-- START, PRESET, DATA_B, DATA_H, DATA_W, ROW_FEED and RUN_WRITE (R316 to R321): a start loads INIT, zeroes COUNT and absorbs the fold
where enabled; the feeds absorb their bytes, the least significant first, and count them; a feed from the source not selected changes
nothing but FEED_ERR; a preset sets the parameters of its named check; a message absorbed in parts is the message absorbed whole. No
other unit and nothing else changes. -/
def Obligations.CheckUnitCommands : Prop :=
  (∀ (s : State) (u : UnitId) (x : Cu), getUnit s u = some x →
    (∀ src fold, ∃ t y, exec (.start u src fold) s = .next t ∧ unitOnly s t u ∧ getUnit t u = some y ∧ y.count = 0 ∧
      y.run.toNat = crcBytes x.width.toNat x.poly.toNat x.refin (x.init.toNat % 2 ^ x.width.toNat) (if x.foldEn then foldBytes fold else []) % 2 ^ 64 ∧
      { y with src := x.src, fold := x.fold, run := x.run, count := x.count, busyTo := x.busyTo, fresh := x.fresh } = x ∧ y.src = src ∧ y.fold = fold ∧
      y.fresh = false) ∧
    (∀ (c : Instr) (bs : List Byte), ((∃ b, c = .dataB u b ∧ bs = [b]) ∨ (∃ h, c = .dataH u h ∧ bs = [h.extractLsb' 0 8, h.extractLsb' 8 8]) ∨
        (∃ w, c = .dataW u w ∧ bs = [w.extractLsb' 0 8, w.extractLsb' 8 8, w.extractLsb' 16 8, w.extractLsb' 24 8])) →
      ∃ t y, exec c s = .next t ∧ unitOnly s t u ∧ getUnit t u = some y ∧
        (x.src = false → y.run = (x.absorb bs).run ∧ y.count = x.count + BitVec.ofNat 32 bs.length ∧
          { y with run := x.run, count := x.count, busyTo := x.busyTo, fresh := x.fresh } = x ∧ y.fresh = false) ∧
        (x.src = true → y = { x with feedErr := true })) ∧
    (∀ data, hasRowFeed u = true → x.src = true → ∃ t y, exec (.rowFeed u data) s = .next t ∧ unitOnly s t u ∧ getUnit t u = some y ∧
      y.run = (x.absorb data).run ∧ y.count = x.count + BitVec.ofNat 32 data.length ∧ { y with run := x.run, count := x.count, busyTo := x.busyTo, fresh := x.fresh } = x) ∧
    (∀ data, hasRowFeed u = false ∨ x.src = false → ∃ t, exec (.rowFeed u data) s = .next t ∧ unitOnly s t u ∧ getUnit t u = some { x with feedErr := true }) ∧
    (∀ (p : BitVec 2), ∃ t y, exec (.preset u p) s = .next t ∧ unitOnly s t u ∧ getUnit t u = some y ∧ y.run = x.run ∧ y.count = x.count ∧ y.fold = x.fold ∧
      y.fresh = (x.fresh && p == 0) ∧ (p = 0 → y = x) ∧ (p = 1 → (y.width.toNat, y.poly, y.init, y.refin, y.refout, y.inv, y.foldEn) = (32, 0x1EDC6F41, 0xFFFFFFFF, true, true, true, true)) ∧
      (p = 2 → (y.width.toNat, y.poly, y.init, y.refin, y.refout, y.inv, y.foldEn) =
        (64, 0x42F0E1EBA9EA3693, 0xFFFFFFFFFFFFFFFF, true, true, true, true)) ∧
      (p = 3 → (y.width.toNat, y.poly, y.init, y.refin, y.refout, y.inv, y.foldEn) = (32, 0x1EDC6F41, 0xFFFFFFFF, true, true, true, false))) ∧
    (∀ run count, ∃ t, exec (.runWrite u run count) s = .next t ∧ unitOnly s t u ∧
      getUnit t u = some { x with run := run.getD x.run, count := count.getD x.count, fresh := x.fresh && run.isNone })) ∧
  (∀ (x : Cu) (a b : List Byte), x.width.toNat ≤ 64 → (x.absorb a).absorb b = x.absorb (a ++ b)) ∧
  (∀ (x : Cu) (p : BitVec 2), p ≠ 0 →
    ((({ x.preset p with foldEn := false }).start false 0 0).absorb [0x31, 0x32, 0x33, 0x34, 0x35, 0x36, 0x37, 0x38, 0x39]).result =
      if p = 2 then 0x995DC9BBDF1939FA else 0xE3069283)

/-! ### Boot, power and reset -/

/-- SEC_BOOT_GO, BOOT_RELEASE, SEC_ATT_GO, SEC_CERT_GO, ATTESTATION_DONE, PORESET_N and RST_N (R328, R338, R392, R397, R398): a GO in WAIT or
FAILED starts the boot once the identity is shown; an image that passes its checks, in order, leaves its sections in the private
memories, the MPUs of the cores that are present locked, the PP released and LOW requested; one that fails ends the boot with its reason; a request begins an
attestation unless one is busy; its end leaves the 256 bytes of the report at their address; a reset leaves the reset state, with the
OTP, the host's memory and the waiting commands as they were. -/
def Obligations.BootAndReset : Prop :=
  (∀ (s : State), (s.sec.bootState = 0 ∨ s.sec.bootState = 5 →
      (s.sec.idShown = true → exec .secBootGo s = .next { s with sec := { s.sec with bootState := 1, goHeld := false } }) ∧
      (s.sec.idShown = false → exec .secBootGo s = .next { s with sec := { s.sec with goHeld := true } })) ∧
    (s.sec.bootState ≠ 0 → s.sec.bootState ≠ 5 → exec .secBootGo s = .next s)) ∧
  (∀ (s : State) (resp : BitVec 2) (bytes : List Byte) (sigOk : Bool) (measure : BitVec 256), s.sec.bootState = 1 →
    let img := padTo s.sec.bootLen.toNat bytes
    (2 ≤ resp.toNat → exec (.bootRelease resp bytes sigOk measure) s = .next { s with sec := { s.sec with bootState := 5, bootReason := 5, bootCode := 8 } }) ∧
    (resp.toNat < 2 → fieldAt img 0 4 = 0x54524657 → fieldAt img 4 2 = 1 → imgTableOk img s.sec.bootLen.toNat = true →
      (sigOk = false → ∃ t, exec (.bootRelease resp bytes sigOk measure) s = .next t ∧ t.sec.bootState = 5 ∧ t.sec.bootReason = 3 ∧ t.sec.bootCode = 0x0F ∧
        t.pp.released = s.pp.released ∧ t.dp = s.dp) ∧
      (sigOk = true → fieldAt img 0x10 1 = deviceGen.toNat → imgMpuOk img = true → memWf s.pp.mem → memWf s.spp.mem →
        ∃ t, exec (.bootRelease resp bytes sigOk measure) s = .next t ∧ t.sec.bootState = 3 ∧ t.pwr.req = 1 ∧ t.pp.released = true ∧
          t.pp.mpuLocked = true ∧ t.spp.mpuLocked = true ∧ (∀ k, k.toNat < activeCores s → (vget t.cps k).mpuLocked = true) ∧
          (activeCores s ≤ 8 → ∀ k, activeCores s ≤ k.toNat → (vget t.cps k).mpuLocked = (vget s.cps k).mpuLocked) ∧
          t.fwr.fw.version = BitVec.ofNat 32 (fieldAt img 12 4) ∧ (∀ (k : BitVec 3), vget t.fwr.fw.meas k = measure.extractLsb' (32 * k.toNat) 32) ∧
          t.pp.wdPeriod = BitVec.ofNat 16 (fieldAt img 0x14 2) ∧ t.sec.keyReady = (s.sec.sensed.life != 3) ∧
          (∀ x ∈ sectionsOf img, x.target = 1 → ∀ k < x.len, memRead t.pp.mem (x.load + k) = byteAt img (x.ofs + k)) ∧
          (∀ x ∈ sectionsOf img, x.target = 2 → ∀ k < x.len, memRead t.spp.mem (x.load + k) = byteAt img (x.ofs + k)) ∧
          t.dp = s.dp ∧ t.sp = s.sp ∧ t.hif = s.hif ∧ t.tkc = s.tkc ∧ t.err = s.err ∧ t.twn = s.twn ∧ t.dbg = s.dbg))) ∧
  (∀ (s : State) (cert : Bool),
    (s.sec.attState ≠ 1 → exec (.secAttGo cert) s = .next { s with sec := { s.sec with attState := 1, attPend := true, certPend := cert } } ∧
      exec .secCertGo s = .next { s with sec := { s.sec with attState := 1, attPend := false, certPend := true } }) ∧
    (s.sec.attState = 1 → exec (.secAttGo cert) s = .next { s with sec := { s.sec with wrIgn := true } } ∧
      exec .secCertGo s = .next { s with sec := { s.sec with wrIgn := true } })) ∧
  (∀ (s : State) (resp : BitVec 2), s.sec.attState = 1 → s.sec.bootState ≠ 6 → s.sec.attPend = true → s.sec.certPend = false → s.sec.keyReady = true →
    (2 ≤ resp.toNat → exec (.attestationDone resp) s = .next { s with sec := { s.sec with attState := 3, attCode := 8, attPend := false, certPend := false } }) ∧
    (resp.toNat < 2 → memWf s.dp.ext →
      let b := s.sec.attAddr.toNat
      let rep := attestReport s
      ∃ t, exec (.attestationDone resp) s = .next t ∧ { t with dp := { t.dp with ext := s.dp.ext } } = { s with sec := { s.sec with attState := 2, attPend := false } } ∧
        rep.length = 256 ∧ fieldAt rep 0 4 = 0x54415454 ∧ fieldAt rep 24 8 = s.tkc.seq.toNat ∧ fieldAt rep 8 16 = s.sec.sensed.uid.toNat ∧
        (∀ (k : BitVec 3), fieldAt rep (32 + 4 * k.toNat) 4 = (vget s.sec.nonce k).toNat) ∧
        (∀ a, memRead t.dp.ext a = if b ≤ a ∧ a < b + 256 then byteAt rep (a - b) else memRead s.dp.ext a))) ∧
  (∀ (s : State),
    let d : Dp := { dpReset with ext := s.dp.ext, free := s.dp.free }
    let g : Dbg := { dbgReset with lockout := s.dbg.lockout, unlockOk := s.dbg.unlockOk, unlockBad := s.dbg.unlockBad }
    exec .poresetN s = .next { State.reset with pending := s.pending, dp := d, sec := { secReset with otp := s.sec.otp, sensed := s.sec.otp } } ∧
    exec .rstN s = .next { State.reset with pending := s.pending, dp := d, dbg := g, sec := { secReset with otp := s.sec.otp, sensed := s.sec.sensed } })

/-- PWR_CAP, PWR_GNT, POWER_FAULT, PWR_GNT_LATE, BALLAST_WINDOW and INIT_SCRUB_COMPLETE (R330, R377 to R381, R385): a cap from 3,500 to 10,000 is
taken and the limits are derived anew, any other is ignored and sets PWR_WR_IGN; a grant of the level asked for brings ACLK and SLOE, or
FULL at once while no tick runs and else at the next boundary; a lower grant not asked for stops ACLK and is fatal; a window's estimate
moves by at most the step limit, with at most 27 units of ballast a core; the end of the scrub raises the request, or records the row
that failed. -/
def Obligations.PowerCommands : Prop :=
  (∀ (s : State) (v : W32), let cap := v.extractLsb' 0 16
    (3500 ≤ cap.toNat → cap.toNat ≤ 10000 → ∃ t, exec (.pwrCap v 3) s = .next t ∧ { t with dp := { t.dp with meters := s.dp.meters } } = { s with pwr := t.pwr } ∧
      t.pwr.cap = cap ∧ t.pwr.eavail = BitVec.ofInt 32 (((cap.toNat : Int) - 3200) * s.tkc.period.toNat / 400000) ∧
      { t.pwr with cap := s.pwr.cap, eavail := s.pwr.eavail, capLoweredP := s.pwr.capLoweredP } = s.pwr ∧
      (∀ m, let y := vget s.dp.meters m
        { vget t.dp.meters m with limP := y.limP, limAt := y.limAt, limWas := y.limWas } = y)) ∧
    (cap.toNat < 3500 ∨ 10000 < cap.toNat → exec (.pwrCap v 3) s = .next { s with pwr := { s.pwr with wrIgn := true } })) ∧
  (∀ (s : State), s.fwr.fw.level = 0 → s.pwr.req = 1 → s.pwr.gnt = 0 → s.hif.kill = false →
    ∃ t, exec (.pwrGnt 1) s = .next t ∧ t.pwr.gnt = 1 ∧ t.pwr.gntLate = false ∧ t.pwr.aclkRun = true ∧ t.pwr.aclkHalf = true ∧ t.fwr.fw.level = 1 ∧ t.sec.bootState = 4 ∧
      t.spp.released = true ∧ (∀ (k : BitVec 3), k.toNat < activeCores s → (vget t.cps k).released = true) ∧ t.dp.dev = [] ∧ t.dp.ecc = [] ∧
      t.fwr.pending = !s.fwr.queue.isEmpty ∧ t.fwr.queue = s.fwr.queue ∧ t.fwr.fw.scrubFrom = some s.dp.cycle) ∧
  (∀ (s : State), s.fwr.fw.level = 1 → s.pwr.req = 2 → s.pwr.gnt = 1 →
    (ticksOff s = true → ∃ t, exec (.pwrGnt 2) s = .next t ∧ t.pwr.gnt = 2 ∧ t.pwr.aclkHalf = false ∧ t.fwr.fw.level = 2 ∧ t.dp.cores = s.dp.cores ∧ t.dp.dev = s.dp.dev) ∧
    (ticksOff s = false → exec (.pwrGnt 2) s = .next { s with pwr := { s.pwr with gnt := 2, gntLate := false, halfNext := some false } })) ∧
  (∀ (s : State) (lvl : BitVec 2), lvl ≠ s.pwr.req → exec (.pwrGnt lvl) s = .next s) ∧
  (∀ (s : State) (lvl : BitVec 2), lvl.toNat < s.pwr.gnt.toNat → lvl.toNat < s.pwr.req.toNat → s.fwr.fw.level ≠ 3 →
    ∃ t, exec (.powerFault lvl) s = .next t ∧ t.pwr.gnt = lvl ∧ t.pwr.gntFault = true ∧ t.pwr.aclkRun = false ∧ t.fwr.fw.level = 3 ∧ t.dp.dev = s.dp.dev) ∧
  (∀ (s : State), s.pwr.gnt.toNat < s.pwr.req.toNat → exec .pwrGntLate s = .next { s with pwr := { s.pwr with gntLate := true } }) ∧
  (∀ (s : State) (work sched : List Nat), s.pwr.aclkRun = true → ∃ t, exec (.ballastWindow work sched) s = .next t ∧ { t with pwr := s.pwr } = s ∧
    t.pwr.winCnt = s.pwr.winCnt + 1 ∧ t.pwr.winEst ≤ s.pwr.winEst + s.pwr.stepMax.toNat ∧ s.pwr.winEst ≤ t.pwr.winEst + s.pwr.stepMax.toNat ∧
    t.pwr.winSum = s.pwr.winSum + t.pwr.winEst ∧ t.pwr.winPeak = max s.pwr.winPeak t.pwr.winEst ∧
    (∀ k < 8, t.pwr.ballast.getD k 0 ≤ 27 ∧ min 27 (sched.getD k 0) ≤ t.pwr.ballast.getD k 0 ∧
      t.pwr.coreTot.getD k 0 = work.getD k 0 + t.pwr.ballast.getD k 0)) ∧
  (∀ (s : State) (failed : Option (BitVec 17)), s.fwr.fw.level = 1 → s.fwr.fw.scrubbed = false → mayReach s (scrubWait s 131072) = true →
    let u := s.pass (scrubWait s 131072)
    frozen u = false → u.fwr.fw.level = 1 → holdsAtSloe u = false → u.pwr.gnt = 1 → u.pwr.req = 1 →
    ∃ t, exec (.initScrubComplete failed) s = .next t ∧ t.fwr.fw = { u.fwr.fw with scrubbed := true, scrubFail := failed.isSome } ∧
      (failed = none → t.pwr = { u.pwr with req := 2 } ∧ t.dp = u.dp) ∧
      (∀ r, failed = some r → t.pwr = u.pwr ∧ t.dp = { u.dp with orLast := BitVec.ofNat 23 (32 * r.toNat), orLastW := false }))

/-! ### The pair and the link -/

/-- The pairing requests and the link (R357 to R363, R369, R374): ATTACH sends HELLO; two HELLOs that agree call for ATTACHING; DETACH, sent or
received, and a skew fault call for UNPAIRED at the first boundary at least 4,000 TU on; a takeover by the standby and a switchover by the
active twin; ALIGN, credits, the level of TWL_RX_UP, LINK_DOWN, and discarded frames, the eighth in a row among them, do what the rules
of the link say; a stream-table change waits for its dispatch. -/
def Obligations.PairingAndLink : Prop :=
  (∀ (s : State), s.twn.state = .unpaired → s.twn.attach = false → s.twn.peer = none → linkTakes s [helloFrame (ownHello s)] →
    exec .twnAttach s = .next { s with twn := sent { s.twn with attach := true, reason := 1 } [helloFrame (ownHello s)] }) ∧
  (∀ (s : State), s.twn.state ≠ .unpaired → s.twn.state ≠ .fenced → s.twn.change = none →
    let gone := fun (reason : Byte) => some (TwnChange.mk 4000 .unpaired reason (s.twn.state == .standby))
    (linkTakes s [ctrlFrame s.tkc.seq 2 []] →
      exec .twnDetach s = .next { s with twn := { sent s.twn [ctrlFrame s.tkc.seq 2 []] with change := gone 4 } }) ∧
    (∀ n, exec (.ctrlDetach n) s = .next { s with twn := { received s.twn 1 with change := gone 4 } }) ∧
    (∀ n k, n = s.tkc.seq → k ≤ s.twn.skewMax.toNat → ∃ t, exec (.align n k) s = .next t ∧ { t with twn := s.twn } = s ∧ t.twn.skew = some k ∧
      t.twn.down = false ∧ t.twn.change = none ∧ t.twn.rxBytes = s.twn.rxBytes + 32) ∧
    (∀ n k, n ≠ s.tkc.seq ∨ s.twn.skewMax.toNat < k → ∃ t, exec (.align n k) s = .next t ∧ t.twn.change = gone 6 ∧ t.dp = s.dp ∧
      (vget t.err.cls 13).cnt = satInc (vget s.err.cls 13).cnt) ∧
    (s.twn.down = false → ¬(s.twn.state = .standby ∧ s.twn.auto = true) → ∃ t, exec .linkDown s = .next t ∧ t.twn.down = true ∧ t.twn.change = gone 5 ∧ t.dp = s.dp ∧
      (vget t.err.cls 13).cnt = satInc (vget s.err.cls 13).cnt)) ∧
  (∀ (s : State), s.twn.state = .standby → s.twn.change = none →
    exec .twnTakeover s = .next { s with twn := { s.twn with change := some ⟨4000, .unpaired, 0xC, false⟩ } } ∧
    (s.twn.auto = true → s.twn.down = false → ∃ t, exec .linkDown s = .next t ∧ t.twn.down = true ∧ t.twn.change = some ⟨4000, .unpaired, 0xC, false⟩)) ∧
  (∀ (s : State), s.twn.state = .active → s.twn.quiet = none → linkTakes s [ctrlFrame (s.tkc.seq + 1) 3 []] →
    exec .twnTakeover s = .next { s with twn := sent { s.twn with quiet := some (s.tkc.seq + 1) } [ctrlFrame (s.tkc.seq + 1) 3 []] }) ∧
  (∀ (s : State), s.twn.state = .syncing → s.twn.role = true → s.twn.copied = true → s.twn.quiet = none → linkTakes s [ctrlFrame (s.tkc.seq + 1) 3 []] →
    exec .syncComplete s = .next { s with twn := sent { s.twn with quiet := some (s.tkc.seq + 1) } [ctrlFrame (s.tkc.seq + 1) 3 []] }) ∧
  (∀ (s : State) (h : HelloInfo), s.twn.state = .unpaired →
    let n := (helloFrame h).beats
    (s.twn.attach = false → exec (.hello h) s = .next { s with twn := { received s.twn n with peer := some h } }) ∧
    (s.twn.attach = true → s.twn.change = none → attachOk s h = true → ∃ t, exec (.hello h) s = .next t ∧ t.twn.state = .unpaired ∧
      t.twn.change = some ⟨0, .attaching, 1, false⟩ ∧ t.twn.peer = some h ∧ t.err.ownL3.getLsbD 1 = true ∧ t.dp.dev = s.dp.dev)) ∧
  (∀ (s : State) (n : W64), (s.twn.state = .syncing ∨ s.twn.state = .standby) → s.tkc.seq.toNat < n.toNat → s.twn.quiet = none →
    exec (.stateRequest n) s = .next { s with twn := { received s.twn 1 with quiet := some n } }) ∧
  (∀ (s : State), s.twn.tx = [] →
    exec .twlTxCrd s = .next { s with twn := { s.twn with credit := min 256 (s.twn.credit + 1) } } ∧
    (s.twn.rxUp = false → exec (.twlRxUp true) s = .next { s with twn := { s.twn with rxUp := true, down := false, credit := 256 } }) ∧
    exec (.twlRxUp false) s = .next { s with twn := { s.twn with rxUp := false } }) ∧
  (∀ (s : State) (beats : Byte), ∃ t, exec (.frameDiscard beats) s = .next t ∧ t.twn.fcrc = s.twn.fcrc + 1 ∧ t.twn.badFrames = s.twn.badFrames + 1 ∧
    t.twn.crdOut = s.twn.crdOut + 1 + beats.toNat ∧ t.dp = s.dp ∧ t.sp.streams = s.sp.streams ∧
    t.twn.down = (s.twn.down || s.twn.badFrames == 7) ∧ (s.twn.badFrames ≠ 7 → t.err = s.err ∧ t.twn.change = s.twn.change)) ∧
  (∀ (s : State) (n : W64) (c : TableChange), s.twn.role = true → s.twn.state = .mirror ∨ s.twn.state = .standby →
    exec (.streamTableChange n c) s = .next { s with twn := { received s.twn 2 with changes := s.twn.changes ++ [remoteChange n c] } })

/-- Mirror mode, the self-test and the deltas (R364 to R372): at the seal a place's bit is set where its stream-tick is sealed; role 0 decides
a group once both seals are there, COMMIT where both are set and the signatures agree, MISMATCH where they differ; role 1 takes the first
VERDICT of a group; at the deadline every group without one gets one with LINK set. The two results of a self-test decide the state that
follows. A delta's rows stand in the non-current slot, a whole delta makes them current, one that is not whole changes no stream; the
active twin sends what is left of its delta as credits and meter allow, and abandons what is unsent at its limit. The rows read check. -/
def Obligations.MirrorAndDeltas : Prop :=
  (∀ (s : State) (r : TickRec) (p : Package), s.sp.cur = some r → taskPkg s = some p → s.twn.state = .mirror → s.twn.role = true → r.sealed = false →
    canReach s s.twn.sigOfs.toNat = true →
    let u := reach s s.twn.sigOfs.toNat
    u.sp.cur = some r → frozen u = false → (∀ y ∈ r.sts, ∀ k ∈ outReads p r.seq y, rowMarks u.dp k = []) → ∃ t, exec .sealTick s = .next t ∧ t.sp.cur = some { r with sealed := true } ∧ t.dp.cores = u.dp.cores ∧
      t.dp.dev = u.dp.dev ∧ (∀ m ∈ u.twn.mine, m ∈ t.twn.mine) ∧
      ∀ g < (p.places.length + 63) / 64, ∃ m ∈ t.twn.mine, m.seq = r.seq ∧ m.group = BitVec.ofNat 16 g ∧
        ∀ i < 64, m.bitmap.getLsbD i = (decide (64 * g + i < p.places.length) && r.sts.any (fun y => y.place.toNat == 64 * g + i && isSealed u r y))) ∧
  (∀ (s : State) (m : SigRec) (sigs : List W64) (bits : W64), s.twn.state = .mirror → s.twn.role = false → m.seq = s.tkc.seq → s.sp.cur.isSome = true →
    s.twn.mine.find? (fun x => x.seq == m.seq && x.group == m.group) = some m → hasVerdict s m.seq m.group = false →
    s.twn.sigs.any (fun x => x.seq == m.seq && x.group == m.group) = false →
    ∃ t v, exec (.sig m.seq m.group sigs bits) s = .next t ∧ v ∈ t.twn.verdicts ∧ v.seq = m.seq ∧ v.group = m.group ∧ v.link = false ∧
      (∀ i < 64, v.commit.getLsbD i = (m.bitmap.getLsbD i && bits.getLsbD i && m.sigs.getD i 0 == sigs.getD i 0) ∧
        v.mismatch.getLsbD i = (m.bitmap.getLsbD i && bits.getLsbD i && m.sigs.getD i 0 != sigs.getD i 0)) ∧ t.dp.dev = s.dp.dev) ∧
  (∀ (s : State) (g : W16) (link selftest : Bool) (commit mism : W64), s.twn.state = .mirror → s.twn.role = true → s.sp.cur.isSome = true →
    hasVerdict s s.tkc.seq g = false → s.twn.change = none →
    ∃ t, exec (.verdict s.tkc.seq g link selftest commit mism) s = .next t ∧ t.twn.verdicts = s.twn.verdicts ++ [⟨s.tkc.seq, g, link, commit, mism⟩] ∧
      t.twn.change = (if selftest then some ⟨0, .selftest, 8, false⟩ else none) ∧ (mism = 0 → t.twn.mismatch = s.twn.mismatch ∧ t.err = s.err) ∧ t.dp = s.dp) ∧
  (∀ (s : State) (r : TickRec), s.sp.cur = some r → s.twn.state = .mirror → s.twn.role = false → r.vdDone = false →
    canReach s (s.tkc.deadOfs.toNat - 1000) = true →
    let u := reach s (s.tkc.deadOfs.toNat - 1000)
    frozen u = false → ∃ t, exec .verdictDeadline s = .next t ∧ (∀ v ∈ u.twn.verdicts, v ∈ t.twn.verdicts) ∧
      (∀ g < (placeCount u + 63) / 64, hasVerdict t r.seq (BitVec.ofNat 16 g) = true) ∧
      ∀ v ∈ t.twn.verdicts, v ∈ u.twn.verdicts ∨ (v.seq = r.seq ∧ v.link = true ∧ v.commit = 0 ∧ v.mismatch = 0)) ∧
  (∀ (s : State) (pass other : Bool), s.twn.state = .selftest → s.twn.own = none → mayReach s s.twn.testLeft = true →
    let u := s.pass s.twn.testLeft
    frozen u = false → u.twn.other = some other → u.twn.change = none →
    ∃ t, exec (.selftestEnd pass false) s = .next t ∧ t.twn.own = some pass ∧ t.twn.state = .selftest ∧ t.dp.dev = u.dp.dev ∧
      (∀ ch < (taskChains u).length, ∃ x ∈ t.sp.restarts, x.chain = ch) ∧
      t.twn.change = some (if pass = false then ⟨4000, .fenced, 0xA, true⟩ else if other = true then ⟨4000, .unpaired, 9, false⟩ else ⟨4000, .unpaired, 0xB, false⟩)) ∧
  (∀ (s : State) (pass : Bool), s.twn.state = .selftest → s.twn.own = none → s.twn.other = none →
    exec (.selfTestResult pass) s = .next { s with twn := { received s.twn 2 with other := some pass } }) ∧
  (∀ (s : State) (n : W64) (x : Stream) (p : Package) (b row : Nat) (data : List Byte), isStandby s = true → taskPkg s = some p → findStream s x.id = some x →
    x.id ≠ 0xFFFF → nextSlot p x = some b → row < slotRows p → p.bloomMap = [] → data.length = 512 → memWf s.dp.dev →
    ∃ t, exec (.delta n x.id 0 row data) s = .next t ∧ orchardRows t (b + row) 1 = data ∧ otherRowsKept s t [b + row] ∧ t.sp = s.sp ∧
      t.twn = { received s.twn 17 with rows := s.twn.rows ++ [⟨x.id, 0, row⟩], rxFrames := s.twn.rxFrames + 1 }) ∧
  (∀ (s : State) (n : W64) (frames : W32) (k : W16) (abandon : Bool) (p : Package), isStandby s = true → taskPkg s = some p →
    (abandon = true ∨ s.twn.rxFrames ≠ frames.toNat →
      exec (.deltaEnd n frames k abandon) s = .next { s with twn := { received s.twn 1 with rows := [], rxFrames := 0 } }) ∧
    (abandon = false → s.twn.rxFrames = frames.toNat → s.twn.changes = [] → (s.sp.streams.map (fun x => x.id)).Nodup → s.dp.ecc = [] →
      ∃ t, exec (.deltaEnd n frames k abandon) s = .next t ∧ t.twn = { received s.twn 1 with rows := [], rxFrames := 0, lastSeq := n, copied := true } ∧
        t.sp.streams.map (fun x => (x.id, x.cur)) = s.sp.streams.map (fun x => (x.id,
          if x.id ≠ 0xFFFF ∧ ∃ d ∈ s.twn.rows, d.stream = x.id ∧ d.row < slotRows p then !x.cur else x.cur)) ∧
        t.sp.groups.map (fun g => (g.group, g.cur)) = s.sp.groups.map (fun g => (g.group,
          if ∃ d ∈ s.twn.rows, d.stream = 0xFFFF ∧ d.group = g.group then !g.cur else g.cur)))) ∧
  (∀ (s : State) (n : W64), s.twn.state = .active → s.err.ownL3.getLsbD 1 = true → s.dp.metering = false → s.twn.deltaOf = some n → s.twn.deltaTicket = none → linkTakes s s.twn.deltaLeft →
    ∃ t, exec .deltaSend s = .next t ∧ { t with twn := s.twn } = s ∧ t.twn.wire = s.twn.wire ++ s.twn.deltaLeft ∧ t.twn.deltaLeft = [] ∧ t.twn.deltaOf = none ∧
      t.twn.lastSeq = n ∧ t.twn.credit = (sent s.twn s.twn.deltaLeft).credit) ∧
  (∀ (s : State) (r : TickRec) (n : W64), s.sp.cur = some r → s.twn.deltaOf = some n → n.toNat < r.seq.toNat → canReach s (s.tkc.deadOfs.toNat - tuStep s) = true →
    let u := reach s (s.tkc.deadOfs.toNat - tuStep s)
    frozen u = false → u.twn.state = .active → u.twn.deltaOf = some n → u.twn.deltaLeft ≠ [] →
    ∃ t, exec .deltaAbandon s = .next t ∧ t.twn.deltaOf = none ∧ t.twn.abandon = u.twn.abandon + 1 ∧ t.twn.carry = u.twn.deltaIds ∧
      t.twn.lastSeq = u.twn.lastSeq ∧ (∀ f ∈ t.twn.deltaLeft, f.type = 6) ∧ t.twn.deltaTicket = none ∧
      t.dp = meterDrop (meterDrop u.dp 13 u.twn.deltaTicket) 14 u.twn.deltaTicket ∧ (vget t.err.cls 13).cnt = satInc (vget u.err.cls 13).cnt)

/-! ### The debug port -/

/-- The TAP instructions and the unlock (R416 to R418, R388): each selects its register and captures what Table 21-1 says; in a locked port
DBG_DATA selects nothing; a nonce is drawn anew for each challenge and none after the lockout; a response with a valid signature on its
nonce unlocks its level, any other counts a failure, and the fourth locks the port out; a fuse is programmed once, with Virell's key and
VPP_OTP. Nothing but the debug port, and for OTP_PROG the OTP, changes. -/
def Obligations.UnlockAndProvisioning : Prop :=
  (∀ (s : State), exec .tapReset s = .next { s with dbg := { s.dbg with ir := 0x01 } } ∧
    exec .idcode s = .next { s with dbg := { s.dbg with ir := 0x01, dr := 0x1A7E1A5B } } ∧
    exec .bypass s = .next { s with dbg := { s.dbg with ir := 0x1F, dr := 0 } } ∧
    (∃ v : W32, exec .dbgStat s = .next { s with dbg := { s.dbg with ir := 0x10, dr := v.setWidth 256 } } ∧ v.extractLsb' 0 2 = s.dbg.level ∧
      v.getLsbD 2 = s.dbg.virell ∧ v.getLsbD 3 = s.dbg.lockout ∧ (v.extractLsb' 4 2).toNat = runCode s.dbg.runState ∧ v.extractLsb' 8 3 = s.dbg.fails ∧
      v.getLsbD 11 = s.dbg.marker ∧ v.getLsbD 12 = s.dbg.trace)) ∧
  (∀ (s : State) (v : BitVec 160),
    (s.dbg.level = 0 → exec (.dbgData v) s = .next { s with dbg := { s.dbg with ir := 0x14 } }) ∧
    (s.dbg.level ≠ 0 → ∃ t, exec (.dbgData v) s = .next t ∧ { t with dbg := s.dbg } = s ∧ t.dbg.ir = 0x14 ∧ t.dbg.dr = s.dbg.data.setWidth 256 ∧
      t.dbg.data.extractLsb' 0 128 = v.extractLsb' 0 128 ∧ t.dbg.data.extractLsb' 128 32 = s.dbg.data.extractLsb' 128 32)) ∧
  (∀ (s : State) (nonce : BitVec 256),
    (s.dbg.lockout = false → s.sec.bootState ≠ 6 → exec (.dbgChal nonce) s = .next { s with dbg := { s.dbg with ir := 0x11, dr := nonce, nonce := some nonce } }) ∧
    (s.dbg.lockout = true ∨ s.sec.bootState = 6 → ∃ t, exec (.dbgChal nonce) s = .next t ∧ t.dbg.nonce = none ∧ t.dbg.ir = 0x11 ∧
      { t with dbg := s.dbg, dp := { t.dp with free := s.dp.free } } = s)) ∧
  (∀ (s : State) (level : Byte) (key sg : BitVec 512),
    exec (.dbgResp level key sg) s = .next { s with dbg := { s.dbg with ir := 0x12, resp := some ⟨level, key, sg⟩ } }) ∧
  (∀ (s : State) (r : UnlockResp) (sigOk virell keyMatch : Bool), s.dbg.resp = some r → s.sec.bootState ≠ 6 →
    let ok := s.dbg.nonce.isSome && sigOk && (r.level == 1 || r.level == 2) && (virell || (keyMatch && s.sec.sensed.dbgKeySet && s.sec.sensed.life != 3))
    exec (.unlockDecision sigOk virell keyMatch) s = .next { s with dbg :=
      if ok then { s.dbg with resp := none, nonce := none, level := r.level.setWidth 2, virell := virell, fails := 0, unlockOk := satInc s.dbg.unlockOk }
      else { s.dbg with resp := none, nonce := none, fails := BitVec.ofNat 3 (min 4 (s.dbg.fails.toNat + 1)),
                        lockout := s.dbg.lockout || decide (3 ≤ s.dbg.fails.toNat), unlockBad := satInc s.dbg.unlockBad } }) ∧
  (∀ (s : State) (f : OtpField) (vpp : Bool),
    (s.dbg.level ≠ 0 → s.dbg.virell = true → vpp = true → otpExists f = true → otpIndex f ∉ s.sec.otp.done →
      ∃ t, exec (.otpProg f vpp) s = .next t ∧ { t with dbg := s.dbg, sec := { t.sec with otp := s.sec.otp } } = s ∧ otpIndex f ∈ t.sec.otp.done ∧
        (∀ v, f = .uid v → t.sec.otp.uid = v) ∧ (∀ v, f = .grade v → t.sec.otp.grade = v) ∧ (∀ v, f = .pcoreEn v → t.sec.otp.pcoreEn = v) ∧
        (∀ v, f = .certNb v → t.sec.otp.certNb = v) ∧ (∀ v, f = .keySeed v → t.sec.otp.keySeed = v) ∧ (∀ v, f = .certSig v → t.sec.otp.certSig = v) ∧
        (∀ v, f = .dbgKeyHash v → t.sec.otp.dbgKeyHash = v ∧ t.sec.otp.dbgKeySet = true) ∧
        (∀ i v, f = .ownerKey i v → vget t.sec.otp.ownerKeys i = v ∧ t.sec.otp.ownerValid.getLsbD i.toNat = true) ∧
        (∀ i, f = .ownerRevoke i → t.sec.otp.ownerRevoked.getLsbD i.toNat = true) ∧
        (∀ b, f = .lifecycle b → t.sec.otp.life.toNat = max s.sec.otp.life.toNat (b.toNat + 1))) ∧
    (s.dbg.level = 0 ∨ s.dbg.virell = false ∨ vpp = false ∨ otpExists f = false ∨ otpIndex f ∈ s.sec.otp.done →
      exec (.otpProg f vpp) s = .next { s with dbg := { s.dbg with ir := 0x18 } }))

/-- The debug commands (R353, R419 to R424): below its level or where its condition does not hold a command is refused with access status 6,
and in a locked port it does nothing. FREEZE stops the device and keeps where; HALT waits for the boundary; RESUME and STEP_TICK let a
halted device go on 64 cycles later; STEP_CMD issues the next command of a queue while frozen; READ and WRITE reach a granule of memory
while it stands still, a write of a core memory while halted where a window admits the port; comparators are set and cleared; CLAIM takes a resource that is free; LOCK closes the port. -/
def Obligations.DebugCommands : Prop :=
  (∀ (s : State) (c : Instr) (d : DbgCmd), c ∈ [Instr.freeze, .halt, .resume, .stepTick, .stepCmd d, .read d, .write d, .bpSet d, .bpClr d, .claim d, .lock] →
    (s.dbg.level = 0 → exec c s = .next (inCmd s)) ∧
    (s.dbg.level = 1 → c ∈ [Instr.freeze, .halt, .resume, .stepTick, .stepCmd d, .read d, .write d] →
      exec c s = .next { inCmd s with dbg := { (inCmd s).dbg with data := withStatus s.dbg.data 6 } })) ∧
  (∀ (s : State), mayCommand s 2 → soloTwin s = true →
    (s.dbg.runState = .run → exec .freeze s = .next { s with dbg := { s.dbg with
      ir := 0x13, runState := .frozen, freezePend := false, stopSeq := s.tkc.seq, stopTu := BitVec.ofNat 21 s.tkc.time } }) ∧
    (s.dbg.runState = .run → exec .halt s = .next { s with dbg := { s.dbg with ir := 0x13, haltPend := true } }) ∧
    (s.dbg.runState = .halted → s.tkc.active = true → s.tkc.ending = false → s.tkc.src = false →
      ∃ t, exec .stepTick s = .next t ∧ t.dbg.runState = .stepping ∧ t.dbg.stepTick = true ∧ t.tkc = { s.tkc with startIn := some 64 } ∧ t.dp.dev = s.dp.dev ∧
        t.sp = s.sp)) ∧
  (∀ (s : State), mayCommand s 2 →
    (s.dbg.runState ≠ .halted → exec .resume s = .next { s with dbg := { s.dbg with
      ir := 0x13, runState := .run, freezePend := false, haltPend := false, stepTick := false, bpHit := 0, bpSpec := 0 } }) ∧
    (s.dbg.runState = .halted → s.tkc.active = true → s.tkc.ending = false → s.tkc.src = false →
      ∃ t, exec .resume s = .next t ∧ t.dbg.runState = .run ∧ t.dbg.haltPend = false ∧ t.tkc = { s.tkc with startIn := some 64 } ∧ t.dp.dev = s.dp.dev ∧ t.sp = s.sp)) ∧
  (∀ (s : State) (d : DbgCmd) (k : BitVec 3) (q : Queue) (i : Instr) (h : Iss) (eff : Bool → Work → Work), mayCommand s 2 → soloTwin s = true → frozen s = true →
    stepTarget (inCmd s) d = some (k, q, i) → effectOf i = some (h, eff) → (coreOf s k).cpWait = [] →
    ((gateOf (inCmd s) k i).2 = true → ∃ t, exec (.stepCmd d) s = .next t ∧ t = stepIssue (inCmd s) k q h eff ∧ frozen t = true ∧
      (vget (coreOf t k).queues (queueIndex q)).cmds = (vget (coreOf s k).queues (queueIndex q)).cmds.drop 1) ∧
    ((gateOf (inCmd s) k i).2 = false → ∃ t x, exec (.stepCmd d) s = .next t ∧ (coreOf t k).hold = some x ∧ x.gate = (gateOf (inCmd s) k i).1 ∧
      t.dp = s.dp.setCore k { coreOf s k with hold := some x })) ∧
  (∀ (s : State) (d : DbgCmd) (g : Nat), mayCommand s 2 → stopped s = true → Machine.placeOf (inCmd s) d = .row g →
    (s.dp.ecc.find? (fun m => m.gran == g) = none → ∃ t, exec (.read d) s = .next t ∧ { t with dbg := s.dbg } = s ∧
      (t.dbg.data.extractLsb' 0 128).toNat = memNat s.dp.dev (16 * g) 16 ∧ t.dbg.data.extractLsb' 145 3 = 0) ∧
    (∀ m, s.dp.ecc.find? (fun m => m.gran == g) = some m → ∃ t, exec (.read d) s = .next t ∧
      { t with dbg := s.dbg, dp := { t.dp with free := s.dp.free } } = s ∧
      (t.dbg.data.extractLsb' 145 3).toNat = (match m.kind with | .corrected => 1 | .uncorrectable => 2 | .mismatch => 3) ∧
      (m.unc = false → (t.dbg.data.extractLsb' 0 128).toNat = memNat s.dp.dev (16 * g) 16)) ∧
    (isOrchard (g / 32) = false → frozen s = true ∨ rowAdmitted s.dp (rowCore (g / 32)) .dbg (g / 32 % 0x4000) = false →
      ∃ t, exec (.write d) s = .next t ∧ t.dbg.data = withStatus s.dbg.data 6 ∧ t.dp.dev = s.dp.dev ∧
        (frozen s = false → (vget t.err.cls 3).cnt = satInc (vget s.err.cls 3).cnt)) ∧
    (memWf s.dp.dev → isOrchard (g / 32) = true ∨ (frozen s = false ∧ rowAdmitted s.dp (rowCore (g / 32)) .dbg (g / 32 % 0x4000) = true) →
      ∃ t, exec (.write d) s = .next t ∧ { t with dbg := s.dbg, dp := { t.dp with dev := s.dp.dev, ecc := s.dp.ecc, wcls := s.dp.wcls } } = s ∧ t.dbg.data = withStatus s.dbg.data 0 ∧
      memNat t.dp.dev (16 * g) 16 = (s.dbg.data.extractLsb' 0 128).toNat ∧ (∀ a, a / 16 ≠ g → memRead t.dp.dev a = memRead s.dp.dev a) ∧
      ∀ m, m ∈ t.dp.ecc ↔ m ∈ s.dp.ecc ∧ m.gran ≠ g)) ∧
  (∀ (s : State) (d : DbgCmd), mayCommand s 1 →
    let b : Bp := { cfg := d.arg.extractLsb' 3 10, hits := 0, value := d.arg2 }
    let i := d.arg.extractLsb' 0 3
    (bpAllowed (inCmd s) b = true → exec (.bpSet d) s = .next { inCmd s with dbg := { (inCmd s).dbg with bps := vset s.dbg.bps i b } }) ∧
    (∃ t, exec (.bpClr d) s = .next t ∧ { t with dbg := { t.dbg with bps := s.dbg.bps } } = inCmd s ∧ (vget t.dbg.bps i).en = false ∧
      ∀ k, k ≠ i → vget t.dbg.bps k = vget s.dbg.bps k) ∧
    (s.dbg.runState = .run → exec .lock s = .next { inCmd s with dbg := { (inCmd s).dbg with level := 0, virell := false } }) ∧
    (d.arg.getLsbD 0 = true → d.arg.getLsbD 1 = true → d.arg.getLsbD 8 = true → s.dbg.trace = false → s.dbg.marker = false → s.err.ownTrc = 0 →
      vget s.err.ownLast 0 ≠ some ⟨true, false, s.dp.cycle⟩ →
      (s.err.ownTout = 0 → vget s.err.ownLast 2 ≠ some ⟨false, false, s.dp.cycle⟩ →
        let last := vset (vset s.err.ownLast 0 (some ⟨false, true, s.dp.cycle⟩)) 2 (some ⟨true, true, s.dp.cycle⟩)
        let took : Err := { s.err with ownTrc := 1, ownTout := 2, ownLast := last }
        exec (.claim d) s = .next { inCmd s with dbg := { (inCmd s).dbg with trace := true, marker := true }, err := took }) ∧
      (s.err.ownTout ≠ 0 → ∃ t, exec (.claim d) s = .next t ∧ t.dbg.trace = true ∧ t.dbg.marker = false ∧ t.err.ownTout = s.err.ownTout ∧
        (vget t.err.cls 14).cnt = satInc (vget s.err.cls 14).cnt)) ∧
    (d.arg.getLsbD 0 = true → d.arg.getLsbD 1 = true → d.arg.getLsbD 8 = false → ∃ t, exec (.claim d) s = .next t ∧ t.dbg.trace = false ∧ t.dbg.marker = false ∧
      t.err.ownTrc.getLsbD 0 = false ∧ t.err.ownTout.getLsbD 1 = false))
end

