-- ==== Sys2Proof/Laws/Mem.lean ====
section
/-!
SUPPORT. Laws/Mem: memories. Every operation keeps the canonical form; a byte reads back as it was last written, and every other byte
stays; a slice is its bytes read one by one.
-/
namespace Sys2Proof.Machine

/-! ### The canonical form -/

theorem memWf_nil : memWf [] := ⟨List.Pairwise.nil, by simp⟩

theorem memCells_ge (a : Nat) (bs : List Byte) : ∀ c ∈ memCells a bs, a ≤ c.1 ∧ c.1 < a + bs.length ∧ c.2 ≠ 0#8 := by
  induction bs generalizing a with
  | nil => simp [memCells]
  | cons b bs ih =>
    intro c hc
    simp only [memCells] at hc
    split at hc
    · have := ih (a + 1) c hc; simp only [List.length_cons]; exact ⟨by omega, by omega, this.2.2⟩
    · next hb =>
      rcases List.mem_cons.1 hc with h | h
      · subst h; exact ⟨Nat.le_refl _, by simp, hb⟩
      · have := ih (a + 1) c h; simp only [List.length_cons]; exact ⟨by omega, by omega, this.2.2⟩

theorem memCells_pairwise (a : Nat) (bs : List Byte) : (memCells a bs).Pairwise (fun x y => x.1 < y.1) := by
  induction bs generalizing a with
  | nil => simp [memCells]
  | cons b bs ih =>
    simp only [memCells]
    split
    · exact ih (a + 1)
    · refine List.Pairwise.cons (fun c hc => ?_) (ih (a + 1))
      have := (memCells_ge (a + 1) bs c hc).1; simp only; omega

/-- Canonical cells below a bound, new cells from it on, and canonical cells above them make a canonical memory. -/
theorem memWf_splice {m mid : Mem} {a b : Nat} (hm : memWf m) (hp : mid.Pairwise (fun x y => x.1 < y.1))
    (hc : ∀ c ∈ mid, a ≤ c.1 ∧ c.1 < b ∧ c.2 ≠ 0#8) (hab : a ≤ b) :
    memWf (m.filter (fun c => decide (c.1 < a)) ++ mid ++ m.filter (fun c => decide (b ≤ c.1))) := by
  refine ⟨?_, ?_⟩
  · rw [List.pairwise_append, List.pairwise_append]
    refine ⟨⟨hm.1.filter _, hp, ?_⟩, hm.1.filter _, ?_⟩
    · intro x hx y hy
      have := (List.mem_filter.1 hx).2; have := (hc y hy).1; simp at *; omega
    · intro x hx y hy
      have h2 := (List.mem_filter.1 hy).2
      rcases List.mem_append.1 hx with h | h
      · have := (List.mem_filter.1 h).2; simp at *; omega
      · have := (hc x h).2.1; simp at *; omega
  · intro c hx
    rcases List.mem_append.1 hx with h | h
    · rcases List.mem_append.1 h with h | h
      · exact hm.2 c (List.mem_filter.1 h).1
      · exact (hc c h).2.2
    · exact hm.2 c (List.mem_filter.1 h).1

/-- A write keeps the canonical form. -/
theorem memWf_memWrite {m : Mem} (h : memWf m) (a : Nat) (bs : List Byte) : memWf (memWrite m a bs) :=
  memWf_splice h (memCells_pairwise a bs) (memCells_ge a bs) (by omega)

/-- Zeroing keeps the canonical form. -/
theorem memWf_memZero {m : Mem} (h : memWf m) (a n : Nat) : memWf (memZero m a n) := by
  have := memWf_splice (mid := []) (a := a) (b := a + n) h List.Pairwise.nil (by simp) (by omega)
  simpa [memZero] using this

theorem memWf_filter {m : Mem} (h : memWf m) (p : Host.Cell → Bool) : memWf (m.filter p) :=
  ⟨h.1.filter _, fun c hc => h.2 c (List.mem_filter.1 hc).1⟩

/-! ### Reading -/

theorem memRead_eq (m : Mem) (k : Nat) : memRead m k = ((m.find? (fun c => c.1 == k)).map (fun c => c.2)).getD memDefault := by
  unfold memRead; cases m.find? (fun c => c.1 == k) <;> rfl

@[simp] theorem memRead_nil (k : Nat) : memRead [] k = memDefault := rfl

theorem memRead_cons (c : Host.Cell) (m : Mem) (k : Nat) : memRead (c :: m) k = if c.1 = k then c.2 else memRead m k := by
  by_cases h : c.1 = k <;> simp [memRead, h]

theorem find_none_of {m : Mem} {k : Nat} (h : ∀ c ∈ m, c.1 ≠ k) : m.find? (fun c => c.1 == k) = none := by
  simp [List.find?_eq_none]; intro a b hc; exact h (a, b) hc

/-- An address that no cell lists reads as 0. -/
theorem memRead_of_forall_ne {m : Mem} {k : Nat} (h : ∀ c ∈ m, c.1 ≠ k) : memRead m k = memDefault := by
  simp [memRead_eq, find_none_of h]

theorem memRead_append_left {m n : Mem} {k : Nat} (h : ∀ c ∈ n, c.1 ≠ k) : memRead (m ++ n) k = memRead m k := by
  simp [memRead_eq, List.find?_append, find_none_of h]

theorem memRead_append_right {m n : Mem} {k : Nat} (h : ∀ c ∈ m, c.1 ≠ k) : memRead (m ++ n) k = memRead n k := by
  simp [memRead_eq, List.find?_append, find_none_of h]

theorem memRead_filter {m : Mem} {p : Nat → Bool} {k : Nat} (h : p k = true) : memRead (m.filter (fun c => p c.1)) k = memRead m k := by
  induction m with
  | nil => rfl
  | cons c m ih =>
    by_cases hc : p c.1 = true
    · rw [List.filter_cons_of_pos (by simpa using hc), memRead_cons, memRead_cons, ih]
    · rw [List.filter_cons_of_neg (by simpa using hc), memRead_cons, ih]
      have : c.1 ≠ k := fun e => hc (e ▸ h)
      simp [this]

theorem memRead_memCells (a : Nat) (bs : List Byte) (k : Nat) :
    memRead (memCells a bs) k = if a ≤ k ∧ k < a + bs.length then bs.getD (k - a) 0 else 0 := by
  induction bs generalizing a with
  | nil => simp [memCells, memDefault]
  | cons b bs ih =>
    simp only [memCells, List.length_cons]
    split
    · next hb =>
      rw [ih]
      by_cases h : k = a
      · subst h; rw [if_neg (by omega), if_pos (by omega)]; simp [hb, memDefault]
      · by_cases h2 : a ≤ k ∧ k < a + (bs.length + 1)
        · have : k - a = (k - (a + 1)) + 1 := by omega
          rw [if_pos (by omega), if_pos h2, this]; rfl
        · rw [if_neg (by omega), if_neg h2]
    · rw [memRead_cons, ih]
      by_cases h : a = k
      · subst h; simp
      · by_cases h2 : a ≤ k ∧ k < a + (bs.length + 1)
        · have : k - a = (k - (a + 1)) + 1 := by omega
          rw [if_neg h, if_pos (by omega), if_pos h2, this]; rfl
        · rw [if_neg h, if_neg (by omega), if_neg h2]

/-- What a read gives after a write: the byte written, or the byte that stood there. -/
theorem memRead_memWrite (m : Mem) (a : Nat) (bs : List Byte) (k : Nat) :
    memRead (memWrite m a bs) k = if a ≤ k ∧ k < a + bs.length then bs.getD (k - a) 0 else memRead m k := by
  have hc := memCells_ge a bs
  unfold memWrite
  by_cases h : k < a
  · rw [memRead_append_left, memRead_append_left, memRead_filter (p := fun x => decide (x < a)) (by simpa using h), if_neg (by omega)]
    · intro c hx e; have := (hc c hx).1; omega
    · intro c hx e; have := (List.mem_filter.1 hx).2; simp at this; omega
  · by_cases h2 : a + bs.length ≤ k
    · rw [memRead_append_right, memRead_filter (p := fun x => decide (a + bs.length ≤ x)) (by simpa using h2), if_neg (by omega)]
      intro c hx e
      rcases List.mem_append.1 hx with hx | hx
      · have := (List.mem_filter.1 hx).2; simp at this; omega
      · have := (hc c hx).2.1; omega
    · rw [memRead_append_left, memRead_append_right, memRead_memCells, if_pos (by omega), if_pos (by omega)]
      · intro c hx e; have := (List.mem_filter.1 hx).2; simp at this; omega
      · intro c hx e; have := (List.mem_filter.1 hx).2; simp at this; omega

/-- A write leaves every byte outside it alone. -/
theorem memRead_memWrite_of_ne (m : Mem) (a : Nat) (bs : List Byte) (k : Nat) (h : ¬(a ≤ k ∧ k < a + bs.length)) :
    memRead (memWrite m a bs) k = memRead m k := by rw [memRead_memWrite, if_neg h]

/-- Zeroed bytes read as 0, every other byte as before. -/
theorem memRead_memZero (m : Mem) (a n k : Nat) : memRead (memZero m a n) k = if a ≤ k ∧ k < a + n then 0 else memRead m k := by
  unfold memZero
  by_cases h : k < a
  · rw [memRead_append_left, memRead_filter (p := fun x => decide (x < a)) (by simpa using h), if_neg (by omega)]
    intro c hx e; have := (List.mem_filter.1 hx).2; simp at this; omega
  · rw [memRead_append_right]
    · by_cases h2 : a + n ≤ k
      · rw [memRead_filter (p := fun x => decide (a + n ≤ x)) (by simpa using h2), if_neg (by omega)]
      · rw [if_pos (by omega), memRead_of_forall_ne]
        · rfl
        · intro c hx e; have := (List.mem_filter.1 hx).2; simp at this; omega
    · intro c hx e; have := (List.mem_filter.1 hx).2; simp at this; omega

/-! ### Slices -/

theorem memSliceGo_length (n a : Nat) (m : Mem) : (memSliceGo n a m).length = n := by
  induction n generalizing a m with
  | zero => rfl
  | succ n ih => cases m <;> simp only [memSliceGo] <;> (try split) <;> simp [ih]

@[simp] theorem memSlice_length (m : Mem) (a n : Nat) : (memSlice m a n).length = n := memSliceGo_length n a _

theorem memSliceGo_eq (n a : Nat) (m : Mem) (hp : m.Pairwise (fun x y => x.1 < y.1)) (ha : ∀ c ∈ m, a ≤ c.1) :
    memSliceGo n a m = (List.range n).map (fun k => memRead m (a + k)) := by
  induction n generalizing a m with
  | zero => rfl
  | succ n ih =>
    rw [List.range_succ_eq_map, List.map_cons, List.map_map]
    cases m with
    | nil =>
      simp only [memSliceGo, Nat.add_zero, memRead_nil]
      rw [ih (a + 1) [] List.Pairwise.nil (by simp)]
      congr 1
    | cons c r =>
      rw [List.pairwise_cons] at hp
      have hcr : ∀ d ∈ r, a + 1 ≤ d.1 := fun d hd => by have := hp.1 d hd; have := ha c (by simp); omega
      have e : ∀ k, memRead r (a + 1 + k) = memRead (c :: r) (a + (k + 1)) ∨ a + 1 + k = c.1 := fun k => by
        by_cases h : a + 1 + k = c.1
        · exact Or.inr h
        · left; rw [memRead_cons, if_neg (by omega)]; congr 1; omega
      by_cases h : c.1 = a
      · simp only [memSliceGo, h, if_true, Nat.add_zero]
        rw [memRead_cons, if_pos h, ih (a + 1) r hp.2 hcr]
        congr 1; apply List.map_congr_left; intro k _
        rcases e k with h' | h'
        · exact h'
        · omega
      · simp only [memSliceGo, h, if_false, Nat.add_zero]
        rw [memRead_cons, if_neg h, memRead_of_forall_ne (m := r) (fun d hd => by have := hcr d hd; omega),
          ih (a + 1) (c :: r) (List.pairwise_cons.2 hp) (fun d hd => by
            rcases List.mem_cons.1 hd with h' | h'
            · subst h'; have := ha d (by simp); omega
            · exact hcr d h')]
        congr 1; apply List.map_congr_left; intro k _
        simp only [Function.comp]; congr 1; omega

/-- Cells below the start of a slice do not matter to it. -/
theorem memRead_dropWhile {m : Mem} (hp : m.Pairwise (fun x y => x.1 < y.1)) (a k : Nat) (h : a ≤ k) :
    memRead (m.dropWhile (fun c => decide (c.1 < a))) k = memRead m k := by
  induction m with
  | nil => rfl
  | cons c r ih =>
    rw [List.pairwise_cons] at hp
    rw [List.dropWhile_cons]
    split
    · next hc => rw [ih hp.2, memRead_cons, if_neg (by simp at hc; omega)]
    · rfl

/-- A slice of a canonical memory is its bytes read one by one. -/
theorem memSlice_eq {m : Mem} (h : memWf m) (a n : Nat) : memSlice m a n = (List.range n).map (fun k => memRead m (a + k)) := by
  unfold memSlice
  rw [memSliceGo_eq n a _ (h.1.sublist (List.dropWhile_sublist _))]
  · exact List.map_congr_left (fun k _ => memRead_dropWhile h.1 a (a + k) (by omega))
  · intro c hc
    have hp := h.1
    clear h
    induction m with
    | nil => simp at hc
    | cons d r ih =>
      rw [List.pairwise_cons] at hp
      rw [List.dropWhile_cons] at hc
      split at hc
      · exact ih hc hp.2
      · next hd =>
        simp at hd
        rcases List.mem_cons.1 hc with h' | h'
        · subst h'; omega
        · have := hp.1 c h'; omega

/-- A slice reads back the bytes written over all of it. -/
theorem memSlice_memWrite_same {m : Mem} (h : memWf m) (a : Nat) (bs : List Byte) : memSlice (memWrite m a bs) a bs.length = bs := by
  rw [memSlice_eq (memWf_memWrite h a bs)]
  apply List.ext_getElem
  · simp
  · intro k h1 h2
    simp only [List.length_map, List.length_range] at h1
    simp [memRead_memWrite, h1]

/-- A slice outside a write is as it was. -/
theorem memSlice_memWrite_apart {m : Mem} (h : memWf m) (a b n : Nat) (bs : List Byte) (hd : b + n ≤ a ∨ a + bs.length ≤ b) :
    memSlice (memWrite m a bs) b n = memSlice m b n := by
  rw [memSlice_eq (memWf_memWrite h a bs), memSlice_eq h]
  apply List.map_congr_left; intro k hk
  have := List.mem_range.1 hk
  exact memRead_memWrite_of_ne _ _ _ _ (by omega)

/-- Canonical memories that read the same at every address are equal. -/
theorem memWf_ext {m n : Mem} (hm : memWf m) (hn : memWf n) (h : ∀ k, memRead m k = memRead n k) : m = n := by
  induction m generalizing n with
  | nil =>
    cases n with
    | nil => rfl
    | cons c r =>
      have := h c.1; rw [memRead_nil, memRead_cons, if_pos rfl] at this
      exact absurd this.symm (hn.2 c (by simp))
  | cons c r ih =>
    have hr : ∀ d ∈ r, c.1 < d.1 := (List.pairwise_cons.1 hm.1).1
    cases n with
    | nil =>
      have := h c.1; rw [memRead_nil, memRead_cons, if_pos rfl] at this
      exact absurd this (hm.2 c (by simp))
    | cons d t =>
      have ht : ∀ x ∈ t, d.1 < x.1 := (List.pairwise_cons.1 hn.1).1
      have key : c.1 = d.1 := by
        rcases Nat.lt_trichotomy c.1 d.1 with hlt | he | hgt
        · have := h c.1
          rw [memRead_cons, if_pos rfl, memRead_cons, if_neg (by omega), memRead_of_forall_ne (fun x hx => by have := ht x hx; omega)] at this
          exact absurd this (hm.2 c (by simp))
        · exact he
        · have := h d.1
          rw [memRead_cons, if_neg (by omega), memRead_cons, if_pos rfl, memRead_of_forall_ne (fun x hx => by have := hr x hx; omega)] at this
          exact absurd this.symm (hn.2 d (by simp))
      have hv : c.2 = d.2 := by
        have := h c.1; rwa [memRead_cons, if_pos rfl, memRead_cons, if_pos key.symm] at this
      have hcd : c = d := Prod.ext key hv
      subst hcd
      congr 1
      apply ih ⟨(List.pairwise_cons.1 hm.1).2, fun x hx => hm.2 x (by simp [hx])⟩ ⟨(List.pairwise_cons.1 hn.1).2, fun x hx => hn.2 x (by simp [hx])⟩
      intro k
      have := h k
      rw [memRead_cons, memRead_cons] at this
      by_cases hk : c.1 = k
      · rw [memRead_of_forall_ne (fun x hx => by have := hr x hx; omega), memRead_of_forall_ne (fun x hx => by have := ht x hx; omega)]
      · simpa [hk] using this

/-! ### Byte strings -/

@[simp] theorem padTo_length (n : Nat) (l : List Byte) : (padTo n l).length = n := by simp [padTo]; omega

theorem padTo_of_length {n : Nat} {l : List Byte} (h : l.length = n) : padTo n l = l := by subst h; simp [padTo]

end Sys2Proof.Machine
end

