-- ==== Sys2Proof/Laws/State.lean ====
section
/-!
SUPPORT. Laws/State: what each named update of the state leaves alone, and what it puts where: one small lemma per field and update,
so that no later proof unfolds a record update.
-/
namespace Sys2Proof.Machine

variable (s : State)

/-! ### Small tables -/

@[simp] theorem vget_vset_same {α : Type} {w : Nat} (v : Vector α (2 ^ w)) (i : BitVec w) (x : α) : vget (vset v i x) i = x := by
  simp [vget, vset]

theorem vget_vset_ne {α : Type} {w : Nat} (v : Vector α (2 ^ w)) (i j : BitVec w) (x : α) (h : j ≠ i) :
    vget (vset v i x) j = vget v j := by
  have h' : i.toNat ≠ j.toNat := fun e => h (BitVec.eq_of_toNat_eq e.symm)
  simp [vget, vset, h']

theorem vget_vset {α : Type} {w : Nat} (v : Vector α (2 ^ w)) (i j : BitVec w) (x : α) :
    vget (vset v i x) j = if j = i then x else vget v j := by
  by_cases h : j = i
  · subst h; simp
  · simp [h, vget_vset_ne v i j x h]

@[simp] theorem vset_vset_same {α : Type} {w : Nat} (v : Vector α (2 ^ w)) (i : BitVec w) (x y : α) : vset (vset v i x) i y = vset v i y := by
  apply Vector.ext; intro k hk
  simp [vset]

@[simp] theorem vset_vget_self {α : Type} {w : Nat} (v : Vector α (2 ^ w)) (i : BitVec w) : vset v i (vget v i) = v := by
  apply Vector.ext; intro k hk
  simp only [vset, vget, Vector.getElem_set]; split
  · next h => subst h; rfl
  · rfl

/-- Tables that agree at every index are equal. -/
theorem vget_ext {α : Type} {w : Nat} {u v : Vector α (2 ^ w)} (h : ∀ i, vget u i = vget v i) : u = v := by
  apply Vector.ext; intro k hk
  have := h (BitVec.ofNat w k)
  simpa [vget, BitVec.toNat_ofNat, Nat.mod_eq_of_lt hk] using this

/-! ### The datapath -/

@[simp] theorem Dp.landIn_cores (d : Dp) (n : Nat) (l : Landing) : (d.landIn n l).cores = d.cores := rfl
@[simp] theorem Dp.setCore_dev (d : Dp) (c : BitVec 3) (x : Core) : (d.setCore c x).dev = d.dev := rfl
@[simp] theorem Dp.modCore_dev (d : Dp) (c : BitVec 3) (f : Core → Core) : (d.modCore c f).dev = d.dev := rfl
@[simp] theorem Dp.landIn_dev (d : Dp) (n : Nat) (l : Landing) : (d.landIn n l).dev = d.dev := rfl
@[simp] theorem Dp.setCore_ecc (d : Dp) (c : BitVec 3) (x : Core) : (d.setCore c x).ecc = d.ecc := rfl
@[simp] theorem Dp.modCore_ecc (d : Dp) (c : BitVec 3) (f : Core → Core) : (d.modCore c f).ecc = d.ecc := rfl
@[simp] theorem Dp.landIn_ecc (d : Dp) (n : Nat) (l : Landing) : (d.landIn n l).ecc = d.ecc := rfl
@[simp] theorem Dp.setCore_wcls (d : Dp) (c : BitVec 3) (x : Core) : (d.setCore c x).wcls = d.wcls := rfl
@[simp] theorem Dp.modCore_wcls (d : Dp) (c : BitVec 3) (f : Core → Core) : (d.modCore c f).wcls = d.wcls := rfl
@[simp] theorem Dp.landIn_wcls (d : Dp) (n : Nat) (l : Landing) : (d.landIn n l).wcls = d.wcls := rfl
@[simp] theorem Dp.setCore_org (d : Dp) (c : BitVec 3) (x : Core) : (d.setCore c x).org = d.org := rfl
@[simp] theorem Dp.modCore_org (d : Dp) (c : BitVec 3) (f : Core → Core) : (d.modCore c f).org = d.org := rfl
@[simp] theorem Dp.landIn_org (d : Dp) (n : Nat) (l : Landing) : (d.landIn n l).org = d.org := rfl
@[simp] theorem Dp.setCore_orCe (d : Dp) (c : BitVec 3) (x : Core) : (d.setCore c x).orCe = d.orCe := rfl
@[simp] theorem Dp.modCore_orCe (d : Dp) (c : BitVec 3) (f : Core → Core) : (d.modCore c f).orCe = d.orCe := rfl
@[simp] theorem Dp.landIn_orCe (d : Dp) (n : Nat) (l : Landing) : (d.landIn n l).orCe = d.orCe := rfl
@[simp] theorem Dp.setCore_orUe (d : Dp) (c : BitVec 3) (x : Core) : (d.setCore c x).orUe = d.orUe := rfl
@[simp] theorem Dp.modCore_orUe (d : Dp) (c : BitVec 3) (f : Core → Core) : (d.modCore c f).orUe = d.orUe := rfl
@[simp] theorem Dp.landIn_orUe (d : Dp) (n : Nat) (l : Landing) : (d.landIn n l).orUe = d.orUe := rfl
@[simp] theorem Dp.setCore_orLast (d : Dp) (c : BitVec 3) (x : Core) : (d.setCore c x).orLast = d.orLast := rfl
@[simp] theorem Dp.modCore_orLast (d : Dp) (c : BitVec 3) (f : Core → Core) : (d.modCore c f).orLast = d.orLast := rfl
@[simp] theorem Dp.landIn_orLast (d : Dp) (n : Nat) (l : Landing) : (d.landIn n l).orLast = d.orLast := rfl
@[simp] theorem Dp.setCore_orLastW (d : Dp) (c : BitVec 3) (x : Core) : (d.setCore c x).orLastW = d.orLastW := rfl
@[simp] theorem Dp.modCore_orLastW (d : Dp) (c : BitVec 3) (f : Core → Core) : (d.modCore c f).orLastW = d.orLastW := rfl
@[simp] theorem Dp.landIn_orLastW (d : Dp) (n : Nat) (l : Landing) : (d.landIn n l).orLastW = d.orLastW := rfl
@[simp] theorem Dp.setCore_dflg (d : Dp) (c : BitVec 3) (x : Core) : (d.setCore c x).dflg = d.dflg := rfl
@[simp] theorem Dp.modCore_dflg (d : Dp) (c : BitVec 3) (f : Core → Core) : (d.modCore c f).dflg = d.dflg := rfl
@[simp] theorem Dp.landIn_dflg (d : Dp) (n : Nat) (l : Landing) : (d.landIn n l).dflg = d.dflg := rfl
@[simp] theorem Dp.setCore_dflgInit (d : Dp) (c : BitVec 3) (x : Core) : (d.setCore c x).dflgInit = d.dflgInit := rfl
@[simp] theorem Dp.modCore_dflgInit (d : Dp) (c : BitVec 3) (f : Core → Core) : (d.modCore c f).dflgInit = d.dflgInit := rfl
@[simp] theorem Dp.landIn_dflgInit (d : Dp) (n : Nat) (l : Landing) : (d.landIn n l).dflgInit = d.dflgInit := rfl
@[simp] theorem Dp.setCore_wct (d : Dp) (c : BitVec 3) (x : Core) : (d.setCore c x).wct = d.wct := rfl
@[simp] theorem Dp.modCore_wct (d : Dp) (c : BitVec 3) (f : Core → Core) : (d.modCore c f).wct = d.wct := rfl
@[simp] theorem Dp.landIn_wct (d : Dp) (n : Nat) (l : Landing) : (d.landIn n l).wct = d.wct := rfl
@[simp] theorem Dp.setCore_landings (d : Dp) (c : BitVec 3) (x : Core) : (d.setCore c x).landings = d.landings := rfl
@[simp] theorem Dp.modCore_landings (d : Dp) (c : BitVec 3) (f : Core → Core) : (d.modCore c f).landings = d.landings := rfl
@[simp] theorem Dp.setCore_meters (d : Dp) (c : BitVec 3) (x : Core) : (d.setCore c x).meters = d.meters := rfl
@[simp] theorem Dp.modCore_meters (d : Dp) (c : BitVec 3) (f : Core → Core) : (d.modCore c f).meters = d.meters := rfl
@[simp] theorem Dp.landIn_meters (d : Dp) (n : Nat) (l : Landing) : (d.landIn n l).meters = d.meters := rfl
@[simp] theorem Dp.setCore_metering (d : Dp) (c : BitVec 3) (x : Core) : (d.setCore c x).metering = d.metering := rfl
@[simp] theorem Dp.modCore_metering (d : Dp) (c : BitVec 3) (f : Core → Core) : (d.modCore c f).metering = d.metering := rfl
@[simp] theorem Dp.landIn_metering (d : Dp) (n : Nat) (l : Landing) : (d.landIn n l).metering = d.metering := rfl
@[simp] theorem Dp.setCore_tickets (d : Dp) (c : BitVec 3) (x : Core) : (d.setCore c x).tickets = d.tickets := rfl
@[simp] theorem Dp.modCore_tickets (d : Dp) (c : BitVec 3) (f : Core → Core) : (d.modCore c f).tickets = d.tickets := rfl
@[simp] theorem Dp.landIn_tickets (d : Dp) (n : Nat) (l : Landing) : (d.landIn n l).tickets = d.tickets := rfl
@[simp] theorem Dp.setCore_cycle (d : Dp) (c : BitVec 3) (x : Core) : (d.setCore c x).cycle = d.cycle := rfl
@[simp] theorem Dp.modCore_cycle (d : Dp) (c : BitVec 3) (f : Core → Core) : (d.modCore c f).cycle = d.cycle := rfl
@[simp] theorem Dp.landIn_cycle (d : Dp) (n : Nat) (l : Landing) : (d.landIn n l).cycle = d.cycle := rfl
@[simp] theorem Dp.setCore_free (d : Dp) (c : BitVec 3) (x : Core) : (d.setCore c x).free = d.free := rfl
@[simp] theorem Dp.modCore_free (d : Dp) (c : BitVec 3) (f : Core → Core) : (d.modCore c f).free = d.free := rfl
@[simp] theorem Dp.landIn_free (d : Dp) (n : Nat) (l : Landing) : (d.landIn n l).free = d.free := rfl
@[simp] theorem Dp.setCore_ext (d : Dp) (c : BitVec 3) (x : Core) : (d.setCore c x).ext = d.ext := rfl
@[simp] theorem Dp.modCore_ext (d : Dp) (c : BitVec 3) (f : Core → Core) : (d.modCore c f).ext = d.ext := rfl
@[simp] theorem Dp.landIn_ext (d : Dp) (n : Nat) (l : Landing) : (d.landIn n l).ext = d.ext := rfl
@[simp] theorem Dp.setCore_cores (d : Dp) (c : BitVec 3) (x : Core) : (d.setCore c x).cores = vset d.cores c x := rfl
@[simp] theorem Dp.modCore_cores (d : Dp) (c : BitVec 3) (f : Core → Core) : (d.modCore c f).cores = vset d.cores c (f (vget d.cores c)) := rfl
@[simp] theorem Dp.landIn_landings (d : Dp) (n : Nat) (l : Landing) : (d.landIn n l).landings = d.landings ++ [(n, l)] := rfl
@[simp] theorem Dp.setCore_setCore (d : Dp) (c : BitVec 3) (x y : Core) : (d.setCore c x).setCore c y = d.setCore c y := by
  simp [Dp.setCore]
@[simp] theorem Dp.setCore_self (d : Dp) (c : BitVec 3) : d.setCore c (vget d.cores c) = d := by simp [Dp.setCore]
@[simp] theorem Dp.modCore_modCore (d : Dp) (c : BitVec 3) (f g : Core → Core) : (d.modCore c f).modCore c g = d.modCore c (fun x => g (f x)) := by
  simp [Dp.modCore]

/-! ### Work -/

@[simp] theorem Work.report_d (w : Work) (r : Report) : (w.report r).d = w.d := rfl
@[simp] theorem Work.modMe_core (w : Work) (f : Core → Core) : (w.modMe f).core = w.core := rfl
@[simp] theorem Work.report_core (w : Work) (r : Report) : (w.report r).core = w.core := rfl
@[simp] theorem Work.modMe_queue (w : Work) (f : Core → Core) : (w.modMe f).queue = w.queue := rfl
@[simp] theorem Work.report_queue (w : Work) (r : Report) : (w.report r).queue = w.queue := rfl
@[simp] theorem Work.modMe_idx (w : Work) (f : Core → Core) : (w.modMe f).idx = w.idx := rfl
@[simp] theorem Work.report_idx (w : Work) (r : Report) : (w.report r).idx = w.idx := rfl
@[simp] theorem Work.modMe_pitIn (w : Work) (f : Core → Core) : (w.modMe f).pitIn = w.pitIn := rfl
@[simp] theorem Work.report_pitIn (w : Work) (r : Report) : (w.report r).pitIn = w.pitIn := rfl
@[simp] theorem Work.modMe_tick (w : Work) (f : Core → Core) : (w.modMe f).tick = w.tick := rfl
@[simp] theorem Work.report_tick (w : Work) (r : Report) : (w.report r).tick = w.tick := rfl
@[simp] theorem Work.modMe_areas (w : Work) (f : Core → Core) : (w.modMe f).areas = w.areas := rfl
@[simp] theorem Work.report_areas (w : Work) (r : Report) : (w.report r).areas = w.areas := rfl
@[simp] theorem Work.modMe_ends (w : Work) (f : Core → Core) : (w.modMe f).ends = w.ends := rfl
@[simp] theorem Work.report_ends (w : Work) (r : Report) : (w.report r).ends = w.ends := rfl
@[simp] theorem Work.modMe_spec (w : Work) (f : Core → Core) : (w.modMe f).spec = w.spec := rfl
@[simp] theorem Work.report_spec (w : Work) (r : Report) : (w.report r).spec = w.spec := rfl
@[simp] theorem Work.modMe_early (w : Work) (f : Core → Core) : (w.modMe f).early = w.early := rfl
@[simp] theorem Work.report_early (w : Work) (r : Report) : (w.report r).early = w.early := rfl
@[simp] theorem Work.modMe_step (w : Work) (f : Core → Core) : (w.modMe f).step = w.step := rfl
@[simp] theorem Work.report_step (w : Work) (r : Report) : (w.report r).step = w.step := rfl
@[simp] theorem Work.modMe_lateRows (w : Work) (f : Core → Core) : (w.modMe f).lateRows = w.lateRows := rfl
@[simp] theorem Work.report_lateRows (w : Work) (r : Report) : (w.report r).lateRows = w.lateRows := rfl
@[simp] theorem Work.modMe_reps (w : Work) (f : Core → Core) : (w.modMe f).reps = w.reps := rfl
@[simp] theorem Work.modMe_d (w : Work) (f : Core → Core) : (w.modMe f).d = w.d.modCore w.core f := rfl
@[simp] theorem Work.modMe_me (w : Work) (f : Core → Core) : (w.modMe f).me = f w.me := by simp [Work.me]
@[simp] theorem Work.report_reps (w : Work) (r : Report) : (w.report r).reps = w.reps ++ [r] := rfl

/-! ### The state -/

@[simp] theorem modStream_pending (id : W16) (f : Stream → Stream) : (modStream s id f).pending = s.pending := rfl
@[simp] theorem modStream_dp (id : W16) (f : Stream → Stream) : (modStream s id f).dp = s.dp := rfl
@[simp] theorem modStream_tkc (id : W16) (f : Stream → Stream) : (modStream s id f).tkc = s.tkc := rfl
@[simp] theorem modStream_hif (id : W16) (f : Stream → Stream) : (modStream s id f).hif = s.hif := rfl
@[simp] theorem modStream_fwr (id : W16) (f : Stream → Stream) : (modStream s id f).fwr = s.fwr := rfl
@[simp] theorem modStream_err (id : W16) (f : Stream → Stream) : (modStream s id f).err = s.err := rfl
@[simp] theorem modStream_cus (id : W16) (f : Stream → Stream) : (modStream s id f).cus = s.cus := rfl
@[simp] theorem modStream_dus (id : W16) (f : Stream → Stream) : (modStream s id f).dus = s.dus := rfl
@[simp] theorem modStream_pwr (id : W16) (f : Stream → Stream) : (modStream s id f).pwr = s.pwr := rfl
@[simp] theorem modStream_sec (id : W16) (f : Stream → Stream) : (modStream s id f).sec = s.sec := rfl
@[simp] theorem modStream_dbg (id : W16) (f : Stream → Stream) : (modStream s id f).dbg = s.dbg := rfl
@[simp] theorem modStream_twn (id : W16) (f : Stream → Stream) : (modStream s id f).twn = s.twn := rfl
@[simp] theorem modStream_xp (id : W16) (f : Stream → Stream) : (modStream s id f).xp = s.xp := rfl
@[simp] theorem modStream_pp (id : W16) (f : Stream → Stream) : (modStream s id f).pp = s.pp := rfl
@[simp] theorem modStream_spp (id : W16) (f : Stream → Stream) : (modStream s id f).spp = s.spp := rfl
@[simp] theorem modStream_cps (id : W16) (f : Stream → Stream) : (modStream s id f).cps = s.cps := rfl
@[simp] theorem mapTicks_pending (f : TickRec → TickRec) : (mapTicks s f).pending = s.pending := rfl
@[simp] theorem mapTicks_dp (f : TickRec → TickRec) : (mapTicks s f).dp = s.dp := rfl
@[simp] theorem mapTicks_tkc (f : TickRec → TickRec) : (mapTicks s f).tkc = s.tkc := rfl
@[simp] theorem mapTicks_hif (f : TickRec → TickRec) : (mapTicks s f).hif = s.hif := rfl
@[simp] theorem mapTicks_fwr (f : TickRec → TickRec) : (mapTicks s f).fwr = s.fwr := rfl
@[simp] theorem mapTicks_err (f : TickRec → TickRec) : (mapTicks s f).err = s.err := rfl
@[simp] theorem mapTicks_cus (f : TickRec → TickRec) : (mapTicks s f).cus = s.cus := rfl
@[simp] theorem mapTicks_dus (f : TickRec → TickRec) : (mapTicks s f).dus = s.dus := rfl
@[simp] theorem mapTicks_pwr (f : TickRec → TickRec) : (mapTicks s f).pwr = s.pwr := rfl
@[simp] theorem mapTicks_sec (f : TickRec → TickRec) : (mapTicks s f).sec = s.sec := rfl
@[simp] theorem mapTicks_dbg (f : TickRec → TickRec) : (mapTicks s f).dbg = s.dbg := rfl
@[simp] theorem mapTicks_twn (f : TickRec → TickRec) : (mapTicks s f).twn = s.twn := rfl
@[simp] theorem mapTicks_xp (f : TickRec → TickRec) : (mapTicks s f).xp = s.xp := rfl
@[simp] theorem mapTicks_pp (f : TickRec → TickRec) : (mapTicks s f).pp = s.pp := rfl
@[simp] theorem mapTicks_spp (f : TickRec → TickRec) : (mapTicks s f).spp = s.spp := rfl
@[simp] theorem mapTicks_cps (f : TickRec → TickRec) : (mapTicks s f).cps = s.cps := rfl
@[simp] theorem modTick_pending (seq : W64) (f : TickRec → TickRec) : (modTick s seq f).pending = s.pending := rfl
@[simp] theorem modTick_dp (seq : W64) (f : TickRec → TickRec) : (modTick s seq f).dp = s.dp := rfl
@[simp] theorem modTick_tkc (seq : W64) (f : TickRec → TickRec) : (modTick s seq f).tkc = s.tkc := rfl
@[simp] theorem modTick_hif (seq : W64) (f : TickRec → TickRec) : (modTick s seq f).hif = s.hif := rfl
@[simp] theorem modTick_fwr (seq : W64) (f : TickRec → TickRec) : (modTick s seq f).fwr = s.fwr := rfl
@[simp] theorem modTick_err (seq : W64) (f : TickRec → TickRec) : (modTick s seq f).err = s.err := rfl
@[simp] theorem modTick_cus (seq : W64) (f : TickRec → TickRec) : (modTick s seq f).cus = s.cus := rfl
@[simp] theorem modTick_dus (seq : W64) (f : TickRec → TickRec) : (modTick s seq f).dus = s.dus := rfl
@[simp] theorem modTick_pwr (seq : W64) (f : TickRec → TickRec) : (modTick s seq f).pwr = s.pwr := rfl
@[simp] theorem modTick_sec (seq : W64) (f : TickRec → TickRec) : (modTick s seq f).sec = s.sec := rfl
@[simp] theorem modTick_dbg (seq : W64) (f : TickRec → TickRec) : (modTick s seq f).dbg = s.dbg := rfl
@[simp] theorem modTick_twn (seq : W64) (f : TickRec → TickRec) : (modTick s seq f).twn = s.twn := rfl
@[simp] theorem modTick_xp (seq : W64) (f : TickRec → TickRec) : (modTick s seq f).xp = s.xp := rfl
@[simp] theorem modTick_pp (seq : W64) (f : TickRec → TickRec) : (modTick s seq f).pp = s.pp := rfl
@[simp] theorem modTick_spp (seq : W64) (f : TickRec → TickRec) : (modTick s seq f).spp = s.spp := rfl
@[simp] theorem modTick_cps (seq : W64) (f : TickRec → TickRec) : (modTick s seq f).cps = s.cps := rfl
@[simp] theorem modSpec_pending (f : FwrSpec → FwrSpec) : (modSpec s f).pending = s.pending := rfl
@[simp] theorem modSpec_dp (f : FwrSpec → FwrSpec) : (modSpec s f).dp = s.dp := rfl
@[simp] theorem modSpec_tkc (f : FwrSpec → FwrSpec) : (modSpec s f).tkc = s.tkc := rfl
@[simp] theorem modSpec_hif (f : FwrSpec → FwrSpec) : (modSpec s f).hif = s.hif := rfl
@[simp] theorem modSpec_err (f : FwrSpec → FwrSpec) : (modSpec s f).err = s.err := rfl
@[simp] theorem modSpec_cus (f : FwrSpec → FwrSpec) : (modSpec s f).cus = s.cus := rfl
@[simp] theorem modSpec_dus (f : FwrSpec → FwrSpec) : (modSpec s f).dus = s.dus := rfl
@[simp] theorem modSpec_pwr (f : FwrSpec → FwrSpec) : (modSpec s f).pwr = s.pwr := rfl
@[simp] theorem modSpec_sec (f : FwrSpec → FwrSpec) : (modSpec s f).sec = s.sec := rfl
@[simp] theorem modSpec_dbg (f : FwrSpec → FwrSpec) : (modSpec s f).dbg = s.dbg := rfl
@[simp] theorem modSpec_twn (f : FwrSpec → FwrSpec) : (modSpec s f).twn = s.twn := rfl
@[simp] theorem modSpec_sp (f : FwrSpec → FwrSpec) : (modSpec s f).sp = s.sp := rfl
@[simp] theorem modSpec_xp (f : FwrSpec → FwrSpec) : (modSpec s f).xp = s.xp := rfl
@[simp] theorem modSpec_pp (f : FwrSpec → FwrSpec) : (modSpec s f).pp = s.pp := rfl
@[simp] theorem modSpec_spp (f : FwrSpec → FwrSpec) : (modSpec s f).spp = s.spp := rfl
@[simp] theorem modSpec_cps (f : FwrSpec → FwrSpec) : (modSpec s f).cps = s.cps := rfl
@[simp] theorem setSpec_pending (x : FwrSpec) : (setSpec s x).pending = s.pending := rfl
@[simp] theorem setSpec_dp (x : FwrSpec) : (setSpec s x).dp = s.dp := rfl
@[simp] theorem setSpec_tkc (x : FwrSpec) : (setSpec s x).tkc = s.tkc := rfl
@[simp] theorem setSpec_hif (x : FwrSpec) : (setSpec s x).hif = s.hif := rfl
@[simp] theorem setSpec_err (x : FwrSpec) : (setSpec s x).err = s.err := rfl
@[simp] theorem setSpec_cus (x : FwrSpec) : (setSpec s x).cus = s.cus := rfl
@[simp] theorem setSpec_dus (x : FwrSpec) : (setSpec s x).dus = s.dus := rfl
@[simp] theorem setSpec_pwr (x : FwrSpec) : (setSpec s x).pwr = s.pwr := rfl
@[simp] theorem setSpec_sec (x : FwrSpec) : (setSpec s x).sec = s.sec := rfl
@[simp] theorem setSpec_dbg (x : FwrSpec) : (setSpec s x).dbg = s.dbg := rfl
@[simp] theorem setSpec_twn (x : FwrSpec) : (setSpec s x).twn = s.twn := rfl
@[simp] theorem setSpec_sp (x : FwrSpec) : (setSpec s x).sp = s.sp := rfl
@[simp] theorem setSpec_xp (x : FwrSpec) : (setSpec s x).xp = s.xp := rfl
@[simp] theorem setSpec_pp (x : FwrSpec) : (setSpec s x).pp = s.pp := rfl
@[simp] theorem setSpec_spp (x : FwrSpec) : (setSpec s x).spp = s.spp := rfl
@[simp] theorem setSpec_cps (x : FwrSpec) : (setSpec s x).cps = s.cps := rfl
@[simp] theorem setFw_pending (x : FwrFw) : (setFw s x).pending = s.pending := rfl
@[simp] theorem setFw_dp (x : FwrFw) : (setFw s x).dp = s.dp := rfl
@[simp] theorem setFw_tkc (x : FwrFw) : (setFw s x).tkc = s.tkc := rfl
@[simp] theorem setFw_hif (x : FwrFw) : (setFw s x).hif = s.hif := rfl
@[simp] theorem setFw_err (x : FwrFw) : (setFw s x).err = s.err := rfl
@[simp] theorem setFw_cus (x : FwrFw) : (setFw s x).cus = s.cus := rfl
@[simp] theorem setFw_dus (x : FwrFw) : (setFw s x).dus = s.dus := rfl
@[simp] theorem setFw_pwr (x : FwrFw) : (setFw s x).pwr = s.pwr := rfl
@[simp] theorem setFw_sec (x : FwrFw) : (setFw s x).sec = s.sec := rfl
@[simp] theorem setFw_dbg (x : FwrFw) : (setFw s x).dbg = s.dbg := rfl
@[simp] theorem setFw_twn (x : FwrFw) : (setFw s x).twn = s.twn := rfl
@[simp] theorem setFw_sp (x : FwrFw) : (setFw s x).sp = s.sp := rfl
@[simp] theorem setFw_xp (x : FwrFw) : (setFw s x).xp = s.xp := rfl
@[simp] theorem setFw_pp (x : FwrFw) : (setFw s x).pp = s.pp := rfl
@[simp] theorem setFw_spp (x : FwrFw) : (setFw s x).spp = s.spp := rfl
@[simp] theorem setFw_cps (x : FwrFw) : (setFw s x).cps = s.cps := rfl
@[simp] theorem setLdr_pending (x : FwrLdr) : (setLdr s x).pending = s.pending := rfl
@[simp] theorem setLdr_dp (x : FwrLdr) : (setLdr s x).dp = s.dp := rfl
@[simp] theorem setLdr_tkc (x : FwrLdr) : (setLdr s x).tkc = s.tkc := rfl
@[simp] theorem setLdr_hif (x : FwrLdr) : (setLdr s x).hif = s.hif := rfl
@[simp] theorem setLdr_err (x : FwrLdr) : (setLdr s x).err = s.err := rfl
@[simp] theorem setLdr_cus (x : FwrLdr) : (setLdr s x).cus = s.cus := rfl
@[simp] theorem setLdr_dus (x : FwrLdr) : (setLdr s x).dus = s.dus := rfl
@[simp] theorem setLdr_pwr (x : FwrLdr) : (setLdr s x).pwr = s.pwr := rfl
@[simp] theorem setLdr_sec (x : FwrLdr) : (setLdr s x).sec = s.sec := rfl
@[simp] theorem setLdr_dbg (x : FwrLdr) : (setLdr s x).dbg = s.dbg := rfl
@[simp] theorem setLdr_twn (x : FwrLdr) : (setLdr s x).twn = s.twn := rfl
@[simp] theorem setLdr_sp (x : FwrLdr) : (setLdr s x).sp = s.sp := rfl
@[simp] theorem setLdr_xp (x : FwrLdr) : (setLdr s x).xp = s.xp := rfl
@[simp] theorem setLdr_pp (x : FwrLdr) : (setLdr s x).pp = s.pp := rfl
@[simp] theorem setLdr_spp (x : FwrLdr) : (setLdr s x).spp = s.spp := rfl
@[simp] theorem setLdr_cps (x : FwrLdr) : (setLdr s x).cps = s.cps := rfl
@[simp] theorem mapMeters_pending (f : Meter → Meter) : (mapMeters s f).pending = s.pending := rfl
@[simp] theorem mapMeters_tkc (f : Meter → Meter) : (mapMeters s f).tkc = s.tkc := rfl
@[simp] theorem mapMeters_hif (f : Meter → Meter) : (mapMeters s f).hif = s.hif := rfl
@[simp] theorem mapMeters_fwr (f : Meter → Meter) : (mapMeters s f).fwr = s.fwr := rfl
@[simp] theorem mapMeters_err (f : Meter → Meter) : (mapMeters s f).err = s.err := rfl
@[simp] theorem mapMeters_cus (f : Meter → Meter) : (mapMeters s f).cus = s.cus := rfl
@[simp] theorem mapMeters_dus (f : Meter → Meter) : (mapMeters s f).dus = s.dus := rfl
@[simp] theorem mapMeters_pwr (f : Meter → Meter) : (mapMeters s f).pwr = s.pwr := rfl
@[simp] theorem mapMeters_sec (f : Meter → Meter) : (mapMeters s f).sec = s.sec := rfl
@[simp] theorem mapMeters_dbg (f : Meter → Meter) : (mapMeters s f).dbg = s.dbg := rfl
@[simp] theorem mapMeters_twn (f : Meter → Meter) : (mapMeters s f).twn = s.twn := rfl
@[simp] theorem mapMeters_sp (f : Meter → Meter) : (mapMeters s f).sp = s.sp := rfl
@[simp] theorem mapMeters_xp (f : Meter → Meter) : (mapMeters s f).xp = s.xp := rfl
@[simp] theorem mapMeters_pp (f : Meter → Meter) : (mapMeters s f).pp = s.pp := rfl
@[simp] theorem mapMeters_spp (f : Meter → Meter) : (mapMeters s f).spp = s.spp := rfl
@[simp] theorem mapMeters_cps (f : Meter → Meter) : (mapMeters s f).cps = s.cps := rfl
@[simp] theorem freezeNow_pending : (freezeNow s).pending = s.pending := rfl
@[simp] theorem freezeNow_dp : (freezeNow s).dp = s.dp := rfl
@[simp] theorem freezeNow_tkc : (freezeNow s).tkc = s.tkc := rfl
@[simp] theorem freezeNow_hif : (freezeNow s).hif = s.hif := rfl
@[simp] theorem freezeNow_fwr : (freezeNow s).fwr = s.fwr := rfl
@[simp] theorem freezeNow_err : (freezeNow s).err = s.err := rfl
@[simp] theorem freezeNow_cus : (freezeNow s).cus = s.cus := rfl
@[simp] theorem freezeNow_dus : (freezeNow s).dus = s.dus := rfl
@[simp] theorem freezeNow_pwr : (freezeNow s).pwr = s.pwr := rfl
@[simp] theorem freezeNow_sec : (freezeNow s).sec = s.sec := rfl
@[simp] theorem freezeNow_twn : (freezeNow s).twn = s.twn := rfl
@[simp] theorem freezeNow_sp : (freezeNow s).sp = s.sp := rfl
@[simp] theorem freezeNow_xp : (freezeNow s).xp = s.xp := rfl
@[simp] theorem freezeNow_pp : (freezeNow s).pp = s.pp := rfl
@[simp] theorem freezeNow_spp : (freezeNow s).spp = s.spp := rfl
@[simp] theorem freezeNow_cps : (freezeNow s).cps = s.cps := rfl
@[simp] theorem setStatus_pending (n : Nat) : (setStatus s n).pending = s.pending := rfl
@[simp] theorem setStatus_dp (n : Nat) : (setStatus s n).dp = s.dp := rfl
@[simp] theorem setStatus_tkc (n : Nat) : (setStatus s n).tkc = s.tkc := rfl
@[simp] theorem setStatus_hif (n : Nat) : (setStatus s n).hif = s.hif := rfl
@[simp] theorem setStatus_fwr (n : Nat) : (setStatus s n).fwr = s.fwr := rfl
@[simp] theorem setStatus_err (n : Nat) : (setStatus s n).err = s.err := rfl
@[simp] theorem setStatus_cus (n : Nat) : (setStatus s n).cus = s.cus := rfl
@[simp] theorem setStatus_dus (n : Nat) : (setStatus s n).dus = s.dus := rfl
@[simp] theorem setStatus_pwr (n : Nat) : (setStatus s n).pwr = s.pwr := rfl
@[simp] theorem setStatus_sec (n : Nat) : (setStatus s n).sec = s.sec := rfl
@[simp] theorem setStatus_twn (n : Nat) : (setStatus s n).twn = s.twn := rfl
@[simp] theorem setStatus_sp (n : Nat) : (setStatus s n).sp = s.sp := rfl
@[simp] theorem setStatus_xp (n : Nat) : (setStatus s n).xp = s.xp := rfl
@[simp] theorem setStatus_pp (n : Nat) : (setStatus s n).pp = s.pp := rfl
@[simp] theorem setStatus_spp (n : Nat) : (setStatus s n).spp = s.spp := rfl
@[simp] theorem setStatus_cps (n : Nat) : (setStatus s n).cps = s.cps := rfl
@[simp] theorem setRing_pending (i : RingId) (r : PRing) : (setRing s i r).pending = s.pending := by cases i <;> rfl
@[simp] theorem setRing_dp (i : RingId) (r : PRing) : (setRing s i r).dp = s.dp := by cases i <;> rfl
@[simp] theorem setRing_tkc (i : RingId) (r : PRing) : (setRing s i r).tkc = s.tkc := by cases i <;> rfl
@[simp] theorem setRing_fwr (i : RingId) (r : PRing) : (setRing s i r).fwr = s.fwr := by cases i <;> rfl
@[simp] theorem setRing_err (i : RingId) (r : PRing) : (setRing s i r).err = s.err := by cases i <;> rfl
@[simp] theorem setRing_cus (i : RingId) (r : PRing) : (setRing s i r).cus = s.cus := by cases i <;> rfl
@[simp] theorem setRing_dus (i : RingId) (r : PRing) : (setRing s i r).dus = s.dus := by cases i <;> rfl
@[simp] theorem setRing_pwr (i : RingId) (r : PRing) : (setRing s i r).pwr = s.pwr := by cases i <;> rfl
@[simp] theorem setRing_sec (i : RingId) (r : PRing) : (setRing s i r).sec = s.sec := by cases i <;> rfl
@[simp] theorem setRing_dbg (i : RingId) (r : PRing) : (setRing s i r).dbg = s.dbg := by cases i <;> rfl
@[simp] theorem setRing_twn (i : RingId) (r : PRing) : (setRing s i r).twn = s.twn := by cases i <;> rfl
@[simp] theorem setRing_sp (i : RingId) (r : PRing) : (setRing s i r).sp = s.sp := by cases i <;> rfl
@[simp] theorem setRing_xp (i : RingId) (r : PRing) : (setRing s i r).xp = s.xp := by cases i <;> rfl
@[simp] theorem setRing_pp (i : RingId) (r : PRing) : (setRing s i r).pp = s.pp := by cases i <;> rfl
@[simp] theorem setRing_spp (i : RingId) (r : PRing) : (setRing s i r).spp = s.spp := by cases i <;> rfl
@[simp] theorem setRing_cps (i : RingId) (r : PRing) : (setRing s i r).cps = s.cps := by cases i <;> rfl
@[simp] theorem setUnit_pending (u : UnitId) (x : Cu) : (setUnit s u x).pending = s.pending := by cases u <;> rfl
@[simp] theorem setUnit_dp (u : UnitId) (x : Cu) : (setUnit s u x).dp = s.dp := by cases u <;> rfl
@[simp] theorem setUnit_tkc (u : UnitId) (x : Cu) : (setUnit s u x).tkc = s.tkc := by cases u <;> rfl
@[simp] theorem setUnit_hif (u : UnitId) (x : Cu) : (setUnit s u x).hif = s.hif := by cases u <;> rfl
@[simp] theorem setUnit_fwr (u : UnitId) (x : Cu) : (setUnit s u x).fwr = s.fwr := by cases u <;> rfl
@[simp] theorem setUnit_err (u : UnitId) (x : Cu) : (setUnit s u x).err = s.err := by cases u <;> rfl
@[simp] theorem setUnit_pwr (u : UnitId) (x : Cu) : (setUnit s u x).pwr = s.pwr := by cases u <;> rfl
@[simp] theorem setUnit_sec (u : UnitId) (x : Cu) : (setUnit s u x).sec = s.sec := by cases u <;> rfl
@[simp] theorem setUnit_dbg (u : UnitId) (x : Cu) : (setUnit s u x).dbg = s.dbg := by cases u <;> rfl
@[simp] theorem setUnit_twn (u : UnitId) (x : Cu) : (setUnit s u x).twn = s.twn := by cases u <;> rfl
@[simp] theorem setUnit_sp (u : UnitId) (x : Cu) : (setUnit s u x).sp = s.sp := by cases u <;> rfl
@[simp] theorem setUnit_xp (u : UnitId) (x : Cu) : (setUnit s u x).xp = s.xp := by cases u <;> rfl
@[simp] theorem setUnit_pp (u : UnitId) (x : Cu) : (setUnit s u x).pp = s.pp := by cases u <;> rfl
@[simp] theorem setUnit_spp (u : UnitId) (x : Cu) : (setUnit s u x).spp = s.spp := by cases u <;> rfl
@[simp] theorem setUnit_cps (u : UnitId) (x : Cu) : (setUnit s u x).cps = s.cps := by cases u <;> rfl
@[simp] theorem setProc_pending (p : Proc) (r : ProcRec) : (setProc s p r).pending = s.pending := by cases p <;> rfl
@[simp] theorem setProc_dp (p : Proc) (r : ProcRec) : (setProc s p r).dp = s.dp := by cases p <;> rfl
@[simp] theorem setProc_tkc (p : Proc) (r : ProcRec) : (setProc s p r).tkc = s.tkc := by cases p <;> rfl
@[simp] theorem setProc_hif (p : Proc) (r : ProcRec) : (setProc s p r).hif = s.hif := by cases p <;> rfl
@[simp] theorem setProc_fwr (p : Proc) (r : ProcRec) : (setProc s p r).fwr = s.fwr := by cases p <;> rfl
@[simp] theorem setProc_err (p : Proc) (r : ProcRec) : (setProc s p r).err = s.err := by cases p <;> rfl
@[simp] theorem setProc_cus (p : Proc) (r : ProcRec) : (setProc s p r).cus = s.cus := by cases p <;> rfl
@[simp] theorem setProc_dus (p : Proc) (r : ProcRec) : (setProc s p r).dus = s.dus := by cases p <;> rfl
@[simp] theorem setProc_pwr (p : Proc) (r : ProcRec) : (setProc s p r).pwr = s.pwr := by cases p <;> rfl
@[simp] theorem setProc_sec (p : Proc) (r : ProcRec) : (setProc s p r).sec = s.sec := by cases p <;> rfl
@[simp] theorem setProc_dbg (p : Proc) (r : ProcRec) : (setProc s p r).dbg = s.dbg := by cases p <;> rfl
@[simp] theorem setProc_twn (p : Proc) (r : ProcRec) : (setProc s p r).twn = s.twn := by cases p <;> rfl
@[simp] theorem setProc_sp (p : Proc) (r : ProcRec) : (setProc s p r).sp = s.sp := by cases p <;> rfl
@[simp] theorem callChange_pending (c : TwnChange) : (callChange s c).pending = s.pending := by unfold callChange; split <;> rfl
@[simp] theorem callChange_dp (c : TwnChange) : (callChange s c).dp = s.dp := by unfold callChange; split <;> rfl
@[simp] theorem callChange_tkc (c : TwnChange) : (callChange s c).tkc = s.tkc := by unfold callChange; split <;> rfl
@[simp] theorem callChange_hif (c : TwnChange) : (callChange s c).hif = s.hif := by unfold callChange; split <;> rfl
@[simp] theorem callChange_fwr (c : TwnChange) : (callChange s c).fwr = s.fwr := by unfold callChange; split <;> rfl
@[simp] theorem callChange_err (c : TwnChange) : (callChange s c).err = s.err := by unfold callChange; split <;> rfl
@[simp] theorem callChange_cus (c : TwnChange) : (callChange s c).cus = s.cus := by unfold callChange; split <;> rfl
@[simp] theorem callChange_dus (c : TwnChange) : (callChange s c).dus = s.dus := by unfold callChange; split <;> rfl
@[simp] theorem callChange_pwr (c : TwnChange) : (callChange s c).pwr = s.pwr := by unfold callChange; split <;> rfl
@[simp] theorem callChange_sec (c : TwnChange) : (callChange s c).sec = s.sec := by unfold callChange; split <;> rfl
@[simp] theorem callChange_dbg (c : TwnChange) : (callChange s c).dbg = s.dbg := by unfold callChange; split <;> rfl
@[simp] theorem callChange_sp (c : TwnChange) : (callChange s c).sp = s.sp := by unfold callChange; split <;> rfl
@[simp] theorem callChange_xp (c : TwnChange) : (callChange s c).xp = s.xp := by unfold callChange; split <;> rfl
@[simp] theorem callChange_pp (c : TwnChange) : (callChange s c).pp = s.pp := by unfold callChange; split <;> rfl
@[simp] theorem callChange_spp (c : TwnChange) : (callChange s c).spp = s.spp := by unfold callChange; split <;> rfl
@[simp] theorem callChange_cps (c : TwnChange) : (callChange s c).cps = s.cps := by unfold callChange; split <;> rfl

@[simp] theorem mapTicks_cur (f : TickRec → TickRec) : (mapTicks s f).sp.cur = s.sp.cur.map f := rfl
@[simp] theorem mapTicks_early (f : TickRec → TickRec) : (mapTicks s f).sp.early = s.sp.early.map f := rfl
@[simp] theorem mapTicks_streams (f : TickRec → TickRec) : (mapTicks s f).sp.streams = s.sp.streams := rfl
@[simp] theorem mapTicks_groups (f : TickRec → TickRec) : (mapTicks s f).sp.groups = s.sp.groups := rfl
@[simp] theorem mapTicks_task (f : TickRec → TickRec) : (mapTicks s f).sp.task = s.sp.task := rfl
@[simp] theorem mapTicks_restarts (f : TickRec → TickRec) : (mapTicks s f).sp.restarts = s.sp.restarts := rfl
@[simp] theorem mapTicks_mapTicks (f g : TickRec → TickRec) : mapTicks (mapTicks s f) g = mapTicks s (fun t => g (f t)) := by
  simp [mapTicks, Option.map_map, Function.comp_def]
@[simp] theorem modStream_task (id : W16) (f : Stream → Stream) : (modStream s id f).sp.task = s.sp.task := rfl
@[simp] theorem modStream_cur (id : W16) (f : Stream → Stream) : (modStream s id f).sp.cur = s.sp.cur := rfl
@[simp] theorem modStream_early (id : W16) (f : Stream → Stream) : (modStream s id f).sp.early = s.sp.early := rfl
@[simp] theorem modSpec_spec (f : FwrSpec → FwrSpec) : (modSpec s f).fwr.spec = f s.fwr.spec := rfl
@[simp] theorem setSpec_spec (x : FwrSpec) : (setSpec s x).fwr.spec = x := rfl
@[simp] theorem setFw_fw (x : FwrFw) : (setFw s x).fwr.fw = x := rfl
@[simp] theorem setLdr_ldr (x : FwrLdr) : (setLdr s x).fwr.ldr = x := rfl
@[simp] theorem mapMeters_meters (f : Meter → Meter) : (mapMeters s f).dp.meters = s.dp.meters.map f := rfl
@[simp] theorem getProc_setProc (p : Proc) (r : ProcRec) : getProc (setProc s p r) p = r := by
  cases p <;> simp [getProc, setProc]

end Sys2Proof.Machine
end

