-- ==== Sys2Proof/Laws/Report.lean ====
section
/-!
SUPPORT. Laws/Report: what the recorder, a fault, a restart, a comparator and the meters can change, said once for each operation.
-/
namespace Sys2Proof.Machine

variable (s : State)

/-! ### The recorder: only the recorder's own registers and the time-out count -/

theorem recordReport_eq (r : Report) : ∃ e f, recordReport s r = { s with err := e, fwr := { s.fwr with toCnt := f } } := by
  unfold recordReport
  split
  · exact ⟨s.err, s.fwr.toCnt, rfl⟩
  · by_cases h6 : r.cls = 6 <;> simp only [h6, if_true, if_false]
    · split
      · exact ⟨_, _, rfl⟩
      · split <;> exact ⟨_, _, rfl⟩
    · split
      · exact ⟨_, s.fwr.toCnt, rfl⟩
      · split <;> exact ⟨_, s.fwr.toCnt, rfl⟩

@[simp] theorem recordReport_pending (r : Report) : (recordReport s r).pending = s.pending := by obtain ⟨e, f, h⟩ := recordReport_eq s r; rw [h]
@[simp] theorem recordReport_dp (r : Report) : (recordReport s r).dp = s.dp := by obtain ⟨e, f, h⟩ := recordReport_eq s r; rw [h]
@[simp] theorem recordReport_tkc (r : Report) : (recordReport s r).tkc = s.tkc := by obtain ⟨e, f, h⟩ := recordReport_eq s r; rw [h]
@[simp] theorem recordReport_hif (r : Report) : (recordReport s r).hif = s.hif := by obtain ⟨e, f, h⟩ := recordReport_eq s r; rw [h]
@[simp] theorem recordReport_cus (r : Report) : (recordReport s r).cus = s.cus := by obtain ⟨e, f, h⟩ := recordReport_eq s r; rw [h]
@[simp] theorem recordReport_dus (r : Report) : (recordReport s r).dus = s.dus := by obtain ⟨e, f, h⟩ := recordReport_eq s r; rw [h]
@[simp] theorem recordReport_pwr (r : Report) : (recordReport s r).pwr = s.pwr := by obtain ⟨e, f, h⟩ := recordReport_eq s r; rw [h]
@[simp] theorem recordReport_sec (r : Report) : (recordReport s r).sec = s.sec := by obtain ⟨e, f, h⟩ := recordReport_eq s r; rw [h]
@[simp] theorem recordReport_dbg (r : Report) : (recordReport s r).dbg = s.dbg := by obtain ⟨e, f, h⟩ := recordReport_eq s r; rw [h]
@[simp] theorem recordReport_twn (r : Report) : (recordReport s r).twn = s.twn := by obtain ⟨e, f, h⟩ := recordReport_eq s r; rw [h]
@[simp] theorem recordReport_sp (r : Report) : (recordReport s r).sp = s.sp := by obtain ⟨e, f, h⟩ := recordReport_eq s r; rw [h]
@[simp] theorem recordReport_xp (r : Report) : (recordReport s r).xp = s.xp := by obtain ⟨e, f, h⟩ := recordReport_eq s r; rw [h]
@[simp] theorem recordReport_pp (r : Report) : (recordReport s r).pp = s.pp := by obtain ⟨e, f, h⟩ := recordReport_eq s r; rw [h]
@[simp] theorem recordReport_spp (r : Report) : (recordReport s r).spp = s.spp := by obtain ⟨e, f, h⟩ := recordReport_eq s r; rw [h]
@[simp] theorem recordReport_cps (r : Report) : (recordReport s r).cps = s.cps := by obtain ⟨e, f, h⟩ := recordReport_eq s r; rw [h]
@[simp] theorem unrecovered_pending (st : BitVec 7) (x : W16) (n : Nat) : (unrecovered s st x n).pending = s.pending := by simp [unrecovered]
@[simp] theorem unrecovered_dp (st : BitVec 7) (x : W16) (n : Nat) : (unrecovered s st x n).dp = s.dp := by simp [unrecovered]
@[simp] theorem unrecovered_tkc (st : BitVec 7) (x : W16) (n : Nat) : (unrecovered s st x n).tkc = s.tkc := by simp [unrecovered]
@[simp] theorem unrecovered_hif (st : BitVec 7) (x : W16) (n : Nat) : (unrecovered s st x n).hif = s.hif := by simp [unrecovered]
@[simp] theorem unrecovered_cus (st : BitVec 7) (x : W16) (n : Nat) : (unrecovered s st x n).cus = s.cus := by simp [unrecovered]
@[simp] theorem unrecovered_dus (st : BitVec 7) (x : W16) (n : Nat) : (unrecovered s st x n).dus = s.dus := by simp [unrecovered]
@[simp] theorem unrecovered_pwr (st : BitVec 7) (x : W16) (n : Nat) : (unrecovered s st x n).pwr = s.pwr := by simp [unrecovered]
@[simp] theorem unrecovered_sec (st : BitVec 7) (x : W16) (n : Nat) : (unrecovered s st x n).sec = s.sec := by simp [unrecovered]
@[simp] theorem unrecovered_dbg (st : BitVec 7) (x : W16) (n : Nat) : (unrecovered s st x n).dbg = s.dbg := by simp [unrecovered]
@[simp] theorem unrecovered_twn (st : BitVec 7) (x : W16) (n : Nat) : (unrecovered s st x n).twn = s.twn := by simp [unrecovered]
@[simp] theorem unrecovered_sp (st : BitVec 7) (x : W16) (n : Nat) : (unrecovered s st x n).sp = s.sp := by simp [unrecovered]
@[simp] theorem unrecovered_xp (st : BitVec 7) (x : W16) (n : Nat) : (unrecovered s st x n).xp = s.xp := by simp [unrecovered]
@[simp] theorem unrecovered_pp (st : BitVec 7) (x : W16) (n : Nat) : (unrecovered s st x n).pp = s.pp := by simp [unrecovered]
@[simp] theorem unrecovered_spp (st : BitVec 7) (x : W16) (n : Nat) : (unrecovered s st x n).spp = s.spp := by simp [unrecovered]
@[simp] theorem unrecovered_cps (st : BitVec 7) (x : W16) (n : Nat) : (unrecovered s st x n).cps = s.cps := by simp [unrecovered]

/-- A report of a class that is recorded adds one to its class, and to no other. -/
theorem recordReport_cls (r : Report) (h : r.cls ≠ 0) (k : BitVec 4) :
    vget (recordReport s r).err.cls k =
      if k = r.cls then countClass (vget s.err.cls r.cls) (s.tkc.seq.setWidth 32) (coreByte r.core) else vget s.err.cls k := by
  have hk := vget_vset s.err.cls r.cls k (countClass (vget s.err.cls r.cls) (s.tkc.seq.setWidth 32) (coreByte r.core))
  unfold recordReport
  rw [if_neg (fun x => h x.1)]
  by_cases h6 : r.cls = 6 <;> simp only [h6, if_true, if_false] at hk ⊢
  · split
    · exact hk
    · split <;> exact hk
  · split
    · exact hk
    · split <;> exact hk

/-- The class counters count in CNT. -/
@[simp] theorem countClass_cnt (c : ClsRec) (q : W32) (k : Byte) : (countClass c q k).cnt = satInc c.cnt := rfl

/-! ### Rollback and restart: of the datapath only cores, of the SP only its tables -/

@[simp] theorem dropEarly_pending (q : W64) (n : Nat) : (dropEarly s q n).pending = s.pending := by unfold dropEarly; split <;> (try split) <;> rfl
@[simp] theorem dropEarly_dp (q : W64) (n : Nat) : (dropEarly s q n).dp = s.dp := by unfold dropEarly; split <;> (try split) <;> rfl
@[simp] theorem dropEarly_tkc (q : W64) (n : Nat) : (dropEarly s q n).tkc = s.tkc := by unfold dropEarly; split <;> (try split) <;> rfl
@[simp] theorem dropEarly_hif (q : W64) (n : Nat) : (dropEarly s q n).hif = s.hif := by unfold dropEarly; split <;> (try split) <;> rfl
@[simp] theorem dropEarly_err (q : W64) (n : Nat) : (dropEarly s q n).err = s.err := by unfold dropEarly; split <;> (try split) <;> rfl
@[simp] theorem dropEarly_cus (q : W64) (n : Nat) : (dropEarly s q n).cus = s.cus := by unfold dropEarly; split <;> (try split) <;> rfl
@[simp] theorem dropEarly_dus (q : W64) (n : Nat) : (dropEarly s q n).dus = s.dus := by unfold dropEarly; split <;> (try split) <;> rfl
@[simp] theorem dropEarly_pwr (q : W64) (n : Nat) : (dropEarly s q n).pwr = s.pwr := by unfold dropEarly; split <;> (try split) <;> rfl
@[simp] theorem dropEarly_sec (q : W64) (n : Nat) : (dropEarly s q n).sec = s.sec := by unfold dropEarly; split <;> (try split) <;> rfl
@[simp] theorem dropEarly_dbg (q : W64) (n : Nat) : (dropEarly s q n).dbg = s.dbg := by unfold dropEarly; split <;> (try split) <;> rfl
@[simp] theorem dropEarly_twn (q : W64) (n : Nat) : (dropEarly s q n).twn = s.twn := by unfold dropEarly; split <;> (try split) <;> rfl
@[simp] theorem dropEarly_xp (q : W64) (n : Nat) : (dropEarly s q n).xp = s.xp := by unfold dropEarly; split <;> (try split) <;> rfl
@[simp] theorem dropEarly_pp (q : W64) (n : Nat) : (dropEarly s q n).pp = s.pp := by unfold dropEarly; split <;> (try split) <;> rfl
@[simp] theorem dropEarly_spp (q : W64) (n : Nat) : (dropEarly s q n).spp = s.spp := by unfold dropEarly; split <;> (try split) <;> rfl
@[simp] theorem dropEarly_cps (q : W64) (n : Nat) : (dropEarly s q n).cps = s.cps := by unfold dropEarly; split <;> (try split) <;> rfl
@[simp] theorem callRestart_pending (n : Nat) (q : W64) (b : Bool) : (callRestart s n q b).pending = s.pending := by simp [callRestart]
@[simp] theorem callRestart_tkc (n : Nat) (q : W64) (b : Bool) : (callRestart s n q b).tkc = s.tkc := by simp [callRestart]
@[simp] theorem callRestart_hif (n : Nat) (q : W64) (b : Bool) : (callRestart s n q b).hif = s.hif := by simp [callRestart]
@[simp] theorem callRestart_err (n : Nat) (q : W64) (b : Bool) : (callRestart s n q b).err = s.err := by simp [callRestart]
@[simp] theorem callRestart_cus (n : Nat) (q : W64) (b : Bool) : (callRestart s n q b).cus = s.cus := by simp [callRestart]
@[simp] theorem callRestart_dus (n : Nat) (q : W64) (b : Bool) : (callRestart s n q b).dus = s.dus := by simp [callRestart]
@[simp] theorem callRestart_pwr (n : Nat) (q : W64) (b : Bool) : (callRestart s n q b).pwr = s.pwr := by simp [callRestart]
@[simp] theorem callRestart_sec (n : Nat) (q : W64) (b : Bool) : (callRestart s n q b).sec = s.sec := by simp [callRestart]
@[simp] theorem callRestart_dbg (n : Nat) (q : W64) (b : Bool) : (callRestart s n q b).dbg = s.dbg := by simp [callRestart]
@[simp] theorem callRestart_twn (n : Nat) (q : W64) (b : Bool) : (callRestart s n q b).twn = s.twn := by simp [callRestart]
@[simp] theorem callRestart_xp (n : Nat) (q : W64) (b : Bool) : (callRestart s n q b).xp = s.xp := by simp [callRestart]
@[simp] theorem callRestart_pp (n : Nat) (q : W64) (b : Bool) : (callRestart s n q b).pp = s.pp := by simp [callRestart]
@[simp] theorem callRestart_spp (n : Nat) (q : W64) (b : Bool) : (callRestart s n q b).spp = s.spp := by simp [callRestart]
@[simp] theorem callRestart_cps (n : Nat) (q : W64) (b : Bool) : (callRestart s n q b).cps = s.cps := by simp [callRestart]
@[simp] theorem rollChain_pending (r : Report) (n : Nat) : (rollChain s r n).pending = s.pending := by unfold rollChain; dsimp only; split <;> rfl
@[simp] theorem rollChain_dp (r : Report) (n : Nat) : (rollChain s r n).dp = s.dp := by unfold rollChain; dsimp only; split <;> rfl
@[simp] theorem rollChain_tkc (r : Report) (n : Nat) : (rollChain s r n).tkc = s.tkc := by unfold rollChain; dsimp only; split <;> rfl
@[simp] theorem rollChain_hif (r : Report) (n : Nat) : (rollChain s r n).hif = s.hif := by unfold rollChain; dsimp only; split <;> rfl
@[simp] theorem rollChain_fwr (r : Report) (n : Nat) : (rollChain s r n).fwr = s.fwr := by unfold rollChain; dsimp only; split <;> rfl
@[simp] theorem rollChain_err (r : Report) (n : Nat) : (rollChain s r n).err = s.err := by unfold rollChain; dsimp only; split <;> rfl
@[simp] theorem rollChain_cus (r : Report) (n : Nat) : (rollChain s r n).cus = s.cus := by unfold rollChain; dsimp only; split <;> rfl
@[simp] theorem rollChain_dus (r : Report) (n : Nat) : (rollChain s r n).dus = s.dus := by unfold rollChain; dsimp only; split <;> rfl
@[simp] theorem rollChain_pwr (r : Report) (n : Nat) : (rollChain s r n).pwr = s.pwr := by unfold rollChain; dsimp only; split <;> rfl
@[simp] theorem rollChain_sec (r : Report) (n : Nat) : (rollChain s r n).sec = s.sec := by unfold rollChain; dsimp only; split <;> rfl
@[simp] theorem rollChain_dbg (r : Report) (n : Nat) : (rollChain s r n).dbg = s.dbg := by unfold rollChain; dsimp only; split <;> rfl
@[simp] theorem rollChain_twn (r : Report) (n : Nat) : (rollChain s r n).twn = s.twn := by unfold rollChain; dsimp only; split <;> rfl
@[simp] theorem rollChain_xp (r : Report) (n : Nat) : (rollChain s r n).xp = s.xp := by unfold rollChain; dsimp only; split <;> rfl
@[simp] theorem rollChain_pp (r : Report) (n : Nat) : (rollChain s r n).pp = s.pp := by unfold rollChain; dsimp only; split <;> rfl
@[simp] theorem rollChain_spp (r : Report) (n : Nat) : (rollChain s r n).spp = s.spp := by unfold rollChain; dsimp only; split <;> rfl
@[simp] theorem rollChain_cps (r : Report) (n : Nat) : (rollChain s r n).cps = s.cps := by unfold rollChain; dsimp only; split <;> rfl
@[simp] theorem loseStream_pending (q : W64) (x : W16) : (loseStream q s x).pending = s.pending := by simp [loseStream]
@[simp] theorem loseStream_dp (q : W64) (x : W16) : (loseStream q s x).dp = s.dp := by simp [loseStream]
@[simp] theorem loseStream_tkc (q : W64) (x : W16) : (loseStream q s x).tkc = s.tkc := by simp [loseStream]
@[simp] theorem loseStream_hif (q : W64) (x : W16) : (loseStream q s x).hif = s.hif := by simp [loseStream]
@[simp] theorem loseStream_cus (q : W64) (x : W16) : (loseStream q s x).cus = s.cus := by simp [loseStream]
@[simp] theorem loseStream_dus (q : W64) (x : W16) : (loseStream q s x).dus = s.dus := by simp [loseStream]
@[simp] theorem loseStream_pwr (q : W64) (x : W16) : (loseStream q s x).pwr = s.pwr := by simp [loseStream]
@[simp] theorem loseStream_sec (q : W64) (x : W16) : (loseStream q s x).sec = s.sec := by simp [loseStream]
@[simp] theorem loseStream_dbg (q : W64) (x : W16) : (loseStream q s x).dbg = s.dbg := by simp [loseStream]
@[simp] theorem loseStream_twn (q : W64) (x : W16) : (loseStream q s x).twn = s.twn := by simp [loseStream]
@[simp] theorem loseStream_xp (q : W64) (x : W16) : (loseStream q s x).xp = s.xp := by simp [loseStream]
@[simp] theorem loseStream_pp (q : W64) (x : W16) : (loseStream q s x).pp = s.pp := by simp [loseStream]
@[simp] theorem loseStream_spp (q : W64) (x : W16) : (loseStream q s x).spp = s.spp := by simp [loseStream]
@[simp] theorem loseStream_cps (q : W64) (x : W16) : (loseStream q s x).cps = s.cps := by simp [loseStream]
@[simp] theorem loseJournal_pending (n : Nat) : (loseJournal s n).pending = s.pending := by simp [loseJournal]
@[simp] theorem loseJournal_dp (n : Nat) : (loseJournal s n).dp = s.dp := by simp [loseJournal]
@[simp] theorem loseJournal_tkc (n : Nat) : (loseJournal s n).tkc = s.tkc := by simp [loseJournal]
@[simp] theorem loseJournal_cus (n : Nat) : (loseJournal s n).cus = s.cus := by simp [loseJournal]
@[simp] theorem loseJournal_dus (n : Nat) : (loseJournal s n).dus = s.dus := by simp [loseJournal]
@[simp] theorem loseJournal_pwr (n : Nat) : (loseJournal s n).pwr = s.pwr := by simp [loseJournal]
@[simp] theorem loseJournal_sec (n : Nat) : (loseJournal s n).sec = s.sec := by simp [loseJournal]
@[simp] theorem loseJournal_dbg (n : Nat) : (loseJournal s n).dbg = s.dbg := by simp [loseJournal]
@[simp] theorem loseJournal_twn (n : Nat) : (loseJournal s n).twn = s.twn := by simp [loseJournal]
@[simp] theorem loseJournal_xp (n : Nat) : (loseJournal s n).xp = s.xp := by simp [loseJournal]
@[simp] theorem loseJournal_pp (n : Nat) : (loseJournal s n).pp = s.pp := by simp [loseJournal]
@[simp] theorem loseJournal_spp (n : Nat) : (loseJournal s n).spp = s.spp := by simp [loseJournal]
@[simp] theorem loseJournal_cps (n : Nat) : (loseJournal s n).cps = s.cps := by simp [loseJournal]

theorem foldl_modCore_frame (l : List (BitVec 3)) (f : Core → Core) (d : Dp) :
    { l.foldl (fun (d : Dp) c => d.modCore c f) d with cores := d.cores } = d := by
  induction l generalizing d with
  | nil => rfl
  | cons c l ih =>
    have h := ih (d.modCore c f)
    rw [List.foldl_cons]
    exact (congrArg (fun x : Dp => { x with cores := d.cores }) h : _)

/-- A restart called for changes no memory and nothing else of the datapath but the cores of its chain. -/
theorem callRestart_dp (n : Nat) (q : W64) (b : Bool) : { (callRestart s n q b).dp with cores := s.dp.cores } = s.dp := by
  have h : (callRestart s n q b).dp = (chainCores s n).foldl (fun (d : Dp) c => d.modCore c (fun x =>
    { x with restart := true, hold := none, run := if x.run = .computing ∧ q.toNat ≤ x.tick.toNat then .stopped else x.run })) s.dp := by
    unfold callRestart; rw [dropEarly_dp]
  rw [h]; exact foldl_modCore_frame _ _ _

theorem foldl_loseStream_pending (q : W64) (l : List W16) : (l.foldl (loseStream q) s).pending = s.pending := by
  induction l generalizing s with
  | nil => rfl
  | cons x l ih => rw [List.foldl_cons, ih, loseStream_pending]
theorem foldl_loseStream_tkc (q : W64) (l : List W16) : (l.foldl (loseStream q) s).tkc = s.tkc := by
  induction l generalizing s with
  | nil => rfl
  | cons x l ih => rw [List.foldl_cons, ih, loseStream_tkc]
theorem foldl_loseStream_cus (q : W64) (l : List W16) : (l.foldl (loseStream q) s).cus = s.cus := by
  induction l generalizing s with
  | nil => rfl
  | cons x l ih => rw [List.foldl_cons, ih, loseStream_cus]
theorem foldl_loseStream_dus (q : W64) (l : List W16) : (l.foldl (loseStream q) s).dus = s.dus := by
  induction l generalizing s with
  | nil => rfl
  | cons x l ih => rw [List.foldl_cons, ih, loseStream_dus]
theorem foldl_loseStream_pwr (q : W64) (l : List W16) : (l.foldl (loseStream q) s).pwr = s.pwr := by
  induction l generalizing s with
  | nil => rfl
  | cons x l ih => rw [List.foldl_cons, ih, loseStream_pwr]
theorem foldl_loseStream_sec (q : W64) (l : List W16) : (l.foldl (loseStream q) s).sec = s.sec := by
  induction l generalizing s with
  | nil => rfl
  | cons x l ih => rw [List.foldl_cons, ih, loseStream_sec]
theorem foldl_loseStream_dbg (q : W64) (l : List W16) : (l.foldl (loseStream q) s).dbg = s.dbg := by
  induction l generalizing s with
  | nil => rfl
  | cons x l ih => rw [List.foldl_cons, ih, loseStream_dbg]
theorem foldl_loseStream_twn (q : W64) (l : List W16) : (l.foldl (loseStream q) s).twn = s.twn := by
  induction l generalizing s with
  | nil => rfl
  | cons x l ih => rw [List.foldl_cons, ih, loseStream_twn]
theorem foldl_loseStream_xp (q : W64) (l : List W16) : (l.foldl (loseStream q) s).xp = s.xp := by
  induction l generalizing s with
  | nil => rfl
  | cons x l ih => rw [List.foldl_cons, ih, loseStream_xp]
theorem foldl_loseStream_pp (q : W64) (l : List W16) : (l.foldl (loseStream q) s).pp = s.pp := by
  induction l generalizing s with
  | nil => rfl
  | cons x l ih => rw [List.foldl_cons, ih, loseStream_pp]
theorem foldl_loseStream_spp (q : W64) (l : List W16) : (l.foldl (loseStream q) s).spp = s.spp := by
  induction l generalizing s with
  | nil => rfl
  | cons x l ih => rw [List.foldl_cons, ih, loseStream_spp]
theorem foldl_loseStream_cps (q : W64) (l : List W16) : (l.foldl (loseStream q) s).cps = s.cps := by
  induction l generalizing s with
  | nil => rfl
  | cons x l ih => rw [List.foldl_cons, ih, loseStream_cps]

/-! ### A report taken -/

/-- Everything a report taken can do: it is recorded; then streams lose their committed state, or the journal a row, or its chain is
rolled back, or restarted, or both, or nothing more happens (Table 17-3). -/
theorem takeReport_cases (r : Report) :
    (∃ q l, takeReport s r = List.foldl (loseStream q) (recordReport s r) l) ∨ (∃ n, takeReport s r = loseJournal (recordReport s r) n) ∨
      takeReport s r = recordReport s r ∨ (∃ c, takeReport s r = rollChain (recordReport s r) r c) ∨
      (∃ v c q b, (v = recordReport s r ∨ v = rollChain (recordReport s r) r c) ∧ takeReport s r = callRestart v c q b) := by
  unfold takeReport
  extract_lets u row seq hold
  by_cases h : (!hold.isEmpty) = true
  · rw [if_pos h]; exact .inl ⟨_, _, rfl⟩
  · rw [if_neg h]
    by_cases h2 : r.cls = 1 ∧ inJournal u row = true
    · rw [if_pos h2]; exact .inr (.inl ⟨_, rfl⟩)
    · rw [if_neg h2]
      cases faultChain u r with
      | none => exact .inr (.inr (.inl rfl))
      | some c =>
        cases h3 : r.rollback <;> cases h4 : r.restart <;> simp only [Bool.false_eq_true, if_true, if_false]
        · exact .inr (.inr (.inl rfl))
        · exact .inr (.inr (.inr (.inr ⟨u, c, _, _, .inl rfl, rfl⟩)))
        · exact .inr (.inr (.inr (.inl ⟨c, rfl⟩)))
        · exact .inr (.inr (.inr (.inr ⟨_, c, _, _, .inr rfl, rfl⟩)))

@[simp] theorem takeReport_pending (r : Report) : (takeReport s r).pending = s.pending := by
  rcases takeReport_cases s r with ⟨q, l, h⟩ | ⟨n, h⟩ | h | ⟨c, h⟩ | ⟨v, c, q, b, hv | hv, h⟩ <;> rw [h] <;> (try rw [hv]) <;>
    simp [foldl_loseStream_pending]
@[simp] theorem takeReport_tkc (r : Report) : (takeReport s r).tkc = s.tkc := by
  rcases takeReport_cases s r with ⟨q, l, h⟩ | ⟨n, h⟩ | h | ⟨c, h⟩ | ⟨v, c, q, b, hv | hv, h⟩ <;> rw [h] <;> (try rw [hv]) <;>
    simp [foldl_loseStream_tkc]
@[simp] theorem takeReport_cus (r : Report) : (takeReport s r).cus = s.cus := by
  rcases takeReport_cases s r with ⟨q, l, h⟩ | ⟨n, h⟩ | h | ⟨c, h⟩ | ⟨v, c, q, b, hv | hv, h⟩ <;> rw [h] <;> (try rw [hv]) <;>
    simp [foldl_loseStream_cus]
@[simp] theorem takeReport_dus (r : Report) : (takeReport s r).dus = s.dus := by
  rcases takeReport_cases s r with ⟨q, l, h⟩ | ⟨n, h⟩ | h | ⟨c, h⟩ | ⟨v, c, q, b, hv | hv, h⟩ <;> rw [h] <;> (try rw [hv]) <;>
    simp [foldl_loseStream_dus]
@[simp] theorem takeReport_pwr (r : Report) : (takeReport s r).pwr = s.pwr := by
  rcases takeReport_cases s r with ⟨q, l, h⟩ | ⟨n, h⟩ | h | ⟨c, h⟩ | ⟨v, c, q, b, hv | hv, h⟩ <;> rw [h] <;> (try rw [hv]) <;>
    simp [foldl_loseStream_pwr]
@[simp] theorem takeReport_sec (r : Report) : (takeReport s r).sec = s.sec := by
  rcases takeReport_cases s r with ⟨q, l, h⟩ | ⟨n, h⟩ | h | ⟨c, h⟩ | ⟨v, c, q, b, hv | hv, h⟩ <;> rw [h] <;> (try rw [hv]) <;>
    simp [foldl_loseStream_sec]
@[simp] theorem takeReport_dbg (r : Report) : (takeReport s r).dbg = s.dbg := by
  rcases takeReport_cases s r with ⟨q, l, h⟩ | ⟨n, h⟩ | h | ⟨c, h⟩ | ⟨v, c, q, b, hv | hv, h⟩ <;> rw [h] <;> (try rw [hv]) <;>
    simp [foldl_loseStream_dbg]
@[simp] theorem takeReport_twn (r : Report) : (takeReport s r).twn = s.twn := by
  rcases takeReport_cases s r with ⟨q, l, h⟩ | ⟨n, h⟩ | h | ⟨c, h⟩ | ⟨v, c, q, b, hv | hv, h⟩ <;> rw [h] <;> (try rw [hv]) <;>
    simp [foldl_loseStream_twn]
@[simp] theorem takeReport_xp (r : Report) : (takeReport s r).xp = s.xp := by
  rcases takeReport_cases s r with ⟨q, l, h⟩ | ⟨n, h⟩ | h | ⟨c, h⟩ | ⟨v, c, q, b, hv | hv, h⟩ <;> rw [h] <;> (try rw [hv]) <;>
    simp [foldl_loseStream_xp]
@[simp] theorem takeReport_pp (r : Report) : (takeReport s r).pp = s.pp := by
  rcases takeReport_cases s r with ⟨q, l, h⟩ | ⟨n, h⟩ | h | ⟨c, h⟩ | ⟨v, c, q, b, hv | hv, h⟩ <;> rw [h] <;> (try rw [hv]) <;>
    simp [foldl_loseStream_pp]
@[simp] theorem takeReport_spp (r : Report) : (takeReport s r).spp = s.spp := by
  rcases takeReport_cases s r with ⟨q, l, h⟩ | ⟨n, h⟩ | h | ⟨c, h⟩ | ⟨v, c, q, b, hv | hv, h⟩ <;> rw [h] <;> (try rw [hv]) <;>
    simp [foldl_loseStream_spp]
@[simp] theorem takeReport_cps (r : Report) : (takeReport s r).cps = s.cps := by
  rcases takeReport_cases s r with ⟨q, l, h⟩ | ⟨n, h⟩ | h | ⟨c, h⟩ | ⟨v, c, q, b, hv | hv, h⟩ <;> rw [h] <;> (try rw [hv]) <;>
    simp [foldl_loseStream_cps]

@[simp] theorem takeReports_nil : takeReports s [] = s := rfl
@[simp] theorem takeReports_cons (r : Report) (l : List Report) : takeReports s (r :: l) = takeReports (takeReport s r) l := rfl

@[simp] theorem takeReports_pending (l : List Report) : (takeReports s l).pending = s.pending := by
  induction l generalizing s with
  | nil => rfl
  | cons r l ih => rw [takeReports_cons, ih, takeReport_pending]
@[simp] theorem takeReports_tkc (l : List Report) : (takeReports s l).tkc = s.tkc := by
  induction l generalizing s with
  | nil => rfl
  | cons r l ih => rw [takeReports_cons, ih, takeReport_tkc]
@[simp] theorem takeReports_cus (l : List Report) : (takeReports s l).cus = s.cus := by
  induction l generalizing s with
  | nil => rfl
  | cons r l ih => rw [takeReports_cons, ih, takeReport_cus]
@[simp] theorem takeReports_dus (l : List Report) : (takeReports s l).dus = s.dus := by
  induction l generalizing s with
  | nil => rfl
  | cons r l ih => rw [takeReports_cons, ih, takeReport_dus]
@[simp] theorem takeReports_pwr (l : List Report) : (takeReports s l).pwr = s.pwr := by
  induction l generalizing s with
  | nil => rfl
  | cons r l ih => rw [takeReports_cons, ih, takeReport_pwr]
@[simp] theorem takeReports_sec (l : List Report) : (takeReports s l).sec = s.sec := by
  induction l generalizing s with
  | nil => rfl
  | cons r l ih => rw [takeReports_cons, ih, takeReport_sec]
@[simp] theorem takeReports_dbg (l : List Report) : (takeReports s l).dbg = s.dbg := by
  induction l generalizing s with
  | nil => rfl
  | cons r l ih => rw [takeReports_cons, ih, takeReport_dbg]
@[simp] theorem takeReports_twn (l : List Report) : (takeReports s l).twn = s.twn := by
  induction l generalizing s with
  | nil => rfl
  | cons r l ih => rw [takeReports_cons, ih, takeReport_twn]
@[simp] theorem takeReports_xp (l : List Report) : (takeReports s l).xp = s.xp := by
  induction l generalizing s with
  | nil => rfl
  | cons r l ih => rw [takeReports_cons, ih, takeReport_xp]
@[simp] theorem takeReports_pp (l : List Report) : (takeReports s l).pp = s.pp := by
  induction l generalizing s with
  | nil => rfl
  | cons r l ih => rw [takeReports_cons, ih, takeReport_pp]
@[simp] theorem takeReports_spp (l : List Report) : (takeReports s l).spp = s.spp := by
  induction l generalizing s with
  | nil => rfl
  | cons r l ih => rw [takeReports_cons, ih, takeReport_spp]
@[simp] theorem takeReports_cps (l : List Report) : (takeReports s l).cps = s.cps := by
  induction l generalizing s with
  | nil => rfl
  | cons r l ih => rw [takeReports_cons, ih, takeReport_cps]

/-- A report that calls for no action of Table 17-3 is only recorded. -/
theorem takeReport_plain (r : Report) (h1 : r.cls ≠ 1) (h2 : r.rollback = false) (h3 : r.restart = false) : takeReport s r = recordReport s r := by
  unfold takeReport; simp only [h1, h2, h3, false_and, if_false, Bool.false_eq_true, List.isEmpty_nil, Bool.not_true]; split <;> rfl

/-! ### Comparators: only the debug port and the pulse on TICK_OUT -/

theorem foldl_hitOne (spec : Bool) (l : List (BitVec 3)) : ∃ d, l.foldl (hitOne spec) s = { s with dbg := d } := by
  induction l generalizing s with
  | nil => exact ⟨s.dbg, rfl⟩
  | cons i l ih => obtain ⟨d, h⟩ := ih (hitOne spec s i); exact ⟨d, by rw [List.foldl_cons, h]; rfl⟩

theorem bpMatch_eq (l : List (BitVec 3)) (spec : Bool) : ∃ d n, bpMatch s l spec = { s with dbg := d, tkc := { s.tkc with pulse := n } } := by
  obtain ⟨d, h⟩ := foldl_hitOne s spec l
  unfold bpMatch; dsimp only; rw [h]
  split
  · exact ⟨_, s.tkc.pulse, rfl⟩
  · split
    · exact ⟨_, s.tkc.pulse, rfl⟩
    · split
      · exact ⟨_, _, rfl⟩
      · exact ⟨_, s.tkc.pulse, rfl⟩

@[simp] theorem bpMatch_nil (spec : Bool) : bpMatch s [] spec = s := rfl

@[simp] theorem bpMatch_pending (l : List (BitVec 3)) (b : Bool) : (bpMatch s l b).pending = s.pending := by obtain ⟨d, n, h⟩ := bpMatch_eq s l b; rw [h]
@[simp] theorem bpMatch_dp (l : List (BitVec 3)) (b : Bool) : (bpMatch s l b).dp = s.dp := by obtain ⟨d, n, h⟩ := bpMatch_eq s l b; rw [h]
@[simp] theorem bpMatch_hif (l : List (BitVec 3)) (b : Bool) : (bpMatch s l b).hif = s.hif := by obtain ⟨d, n, h⟩ := bpMatch_eq s l b; rw [h]
@[simp] theorem bpMatch_fwr (l : List (BitVec 3)) (b : Bool) : (bpMatch s l b).fwr = s.fwr := by obtain ⟨d, n, h⟩ := bpMatch_eq s l b; rw [h]
@[simp] theorem bpMatch_err (l : List (BitVec 3)) (b : Bool) : (bpMatch s l b).err = s.err := by obtain ⟨d, n, h⟩ := bpMatch_eq s l b; rw [h]
@[simp] theorem bpMatch_cus (l : List (BitVec 3)) (b : Bool) : (bpMatch s l b).cus = s.cus := by obtain ⟨d, n, h⟩ := bpMatch_eq s l b; rw [h]
@[simp] theorem bpMatch_dus (l : List (BitVec 3)) (b : Bool) : (bpMatch s l b).dus = s.dus := by obtain ⟨d, n, h⟩ := bpMatch_eq s l b; rw [h]
@[simp] theorem bpMatch_pwr (l : List (BitVec 3)) (b : Bool) : (bpMatch s l b).pwr = s.pwr := by obtain ⟨d, n, h⟩ := bpMatch_eq s l b; rw [h]
@[simp] theorem bpMatch_sec (l : List (BitVec 3)) (b : Bool) : (bpMatch s l b).sec = s.sec := by obtain ⟨d, n, h⟩ := bpMatch_eq s l b; rw [h]
@[simp] theorem bpMatch_twn (l : List (BitVec 3)) (b : Bool) : (bpMatch s l b).twn = s.twn := by obtain ⟨d, n, h⟩ := bpMatch_eq s l b; rw [h]
@[simp] theorem bpMatch_sp (l : List (BitVec 3)) (b : Bool) : (bpMatch s l b).sp = s.sp := by obtain ⟨d, n, h⟩ := bpMatch_eq s l b; rw [h]
@[simp] theorem bpMatch_xp (l : List (BitVec 3)) (b : Bool) : (bpMatch s l b).xp = s.xp := by obtain ⟨d, n, h⟩ := bpMatch_eq s l b; rw [h]
@[simp] theorem bpMatch_pp (l : List (BitVec 3)) (b : Bool) : (bpMatch s l b).pp = s.pp := by obtain ⟨d, n, h⟩ := bpMatch_eq s l b; rw [h]
@[simp] theorem bpMatch_spp (l : List (BitVec 3)) (b : Bool) : (bpMatch s l b).spp = s.spp := by obtain ⟨d, n, h⟩ := bpMatch_eq s l b; rw [h]
@[simp] theorem bpMatch_cps (l : List (BitVec 3)) (b : Bool) : (bpMatch s l b).cps = s.cps := by obtain ⟨d, n, h⟩ := bpMatch_eq s l b; rw [h]

/-! ### Meters: only their counts, queues and tickets -/

theorem meterOffer_dp (d : Dp) (i : BitVec 4) (n : Nat) (e : Bool) :
    { (meterOffer d i n e).2 with meters := d.meters, tickets := d.tickets } = d := by
  unfold meterOffer; dsimp only; split
  · rfl
  · split <;> rfl

theorem meterTry_dp (d : Dp) (i : BitVec 4) (n : Nat) (e : Bool) : { (meterTry d i n e).2 with meters := d.meters } = d := by
  unfold meterTry; dsimp only; split
  · rfl
  · split <;> rfl

/-- While no tick is metered every unit is admitted at once, and nothing is counted. -/
theorem meterOffer_off (d : Dp) (i : BitVec 4) (n : Nat) (e : Bool) (h : d.metering = false) : meterOffer d i n e = (none, d) := by
  simp [meterOffer, h]

theorem meterTry_off (d : Dp) (i : BitVec 4) (n : Nat) (e : Bool) (h : d.metering = false) : meterTry d i n e = (true, d) := by
  simp [meterTry, h]

end Sys2Proof.Machine
end

