-- ==== Sys2Proof/Laws/Issue.lean ====
section
/-!
SUPPORT. Laws/Issue: rows, landings, the passing of time and the issue of an engine command: what each shared operation can do, said
once.
-/
namespace Sys2Proof.Machine
open Sys2Proof.Safety

/-! ### Rows -/

/-- A row written changes the device memory, its marks and the classes of its granules only. -/
theorem writeRow_dp (d : Dp) (r : Nat) (l : List Byte) : { writeRow d r l with dev := d.dev, ecc := d.ecc, wcls := d.wcls } = d := rfl

@[simp] theorem writeRow_cores (d : Dp) (r : Nat) (l : List Byte) : (writeRow d r l).cores = d.cores := rfl
@[simp] theorem writeRow_landings (d : Dp) (r : Nat) (l : List Byte) : (writeRow d r l).landings = d.landings := rfl

theorem memWf_writeRow {d : Dp} (h : memWf d.dev) (r : Nat) (l : List Byte) : memWf (writeRow d r l).dev := memWf_memWrite h _ _

/-- A row reads back the bytes written to it. -/
theorem rowData_writeRow {d : Dp} (h : memWf d.dev) (r : Nat) (l : List Byte) : rowData (writeRow d r l) r = padTo 512 l := by
  have := memSlice_memWrite_same h (r * rowBytes) (padTo rowBytes l)
  rw [padTo_length] at this; exact this

/-- Another row keeps its bytes. -/
theorem rowData_writeRow_ne {d : Dp} (h : memWf d.dev) (r k : Nat) (l : List Byte) (hk : k ≠ r) : rowData (writeRow d r l) k = rowData d k := by
  have := Nat.lt_or_gt_of_ne hk
  exact memSlice_memWrite_apart h _ _ _ _ (by rw [padTo_length]; simp only [rowBytes]; omega)

/-- Bytes of other rows stay. -/
theorem memRead_writeRow (d : Dp) (r : Nat) (l : List Byte) (a : Nat) (h : a / 512 ≠ r) : memRead (writeRow d r l).dev a = memRead d.dev a := by
  apply memRead_memWrite_of_ne
  rw [padTo_length]; simp only [rowBytes]
  intro ⟨h1, h2⟩; apply h; omega

/-- A row that checks is read as that request finds it, and reading it changes nothing. -/
theorem readDev_clean (w : Work) (r k : Nat) (h : rowChecks w.d w.core r k = true) : w.readDev r k = (rowSeen w.d w.core r k, w) := by
  unfold rowChecks at h; unfold Work.readDev rowSeen
  cases ho : rowOnWay w.d r (accessAt w.d w.core r k) with
  | some b => rfl
  | none => rw [ho] at h; dsimp only; rw [if_pos (by simpa using h)]

/-- A reference to a row that checks gives the bytes that request finds, and reading it changes nothing. -/
theorem readRef_clean (w : Work) (orch : Bool) (o k : Nat) (h : cleanRow w.d w.core orch o k = true) :
    w.readRef orch o k = (rowAt w.d w.core orch o k, w) := by
  unfold cleanRow at h; unfold Work.readRef rowAt
  cases hr : refRow w.d w.core orch o with
  | none => rw [hr] at h; exact absurd h (by simp)
  | some row => rw [hr] at h; exact readDev_clean w row k h

/-- A write of a reference does one of three things: it raises a bound violation, it comes too late, or the bytes are on their way to the
row. -/
theorem writeRef_cases (w : Work) (orch : Bool) (o : Nat) (l : List Byte) (n : Nat) :
    (refRow w.d w.core orch o = none ∧ w.writeRef orch o l n = w.bound o) ∨
      ∃ row, refRow w.d w.core orch o = some row ∧
        (w.writeRef orch o l n = { w with lateRows := w.lateRows ++ [row] } ∨
          w.writeRef orch o l n = { w with d := w.d.rowLands w.core row l n, ends := max w.ends (n + 1) }) := by
  unfold Work.writeRef
  cases hr : refRow w.d w.core orch o with
  | none => exact .inl ⟨rfl, rfl⟩
  | some row =>
    refine .inr ⟨row, rfl, ?_⟩
    dsimp only
    split <;> split <;> first | exact .inl rfl | exact .inr rfl

/-- A row on its way changes the landings only, one behind the others. -/
theorem rowLands_dp (d : Dp) (c : BitVec 3) (r : Nat) (l : List Byte) (n : Nat) :
    d.rowLands c r l n = { d with landings := d.landings ++ [(accessAt d c r n + 1, .row r l)] } := rfl

/-! ### Landings -/

/-- A row that lands is written. -/
@[simp] theorem land_row (d : Dp) (r : Nat) (l : List Byte) : land d (.row r l) = (writeRow d r l, []) := rfl

/-- Any other landing changes no memory of the device and no mark. -/
theorem land_dev (d : Dp) (l : Landing) (h : ∀ r b, l ≠ .row r b) : (land d l).1.dev = d.dev := by
  cases l <;> first | exact absurd rfl (h _ _) | skip
  all_goals simp only [land, landClaim, landCredit, landCurve, Dp.setFlg, Dp.setReady, Dp.cflg, Dp.modCore_dev, Dp.landIn_dev] <;> (try split) <;> rfl

theorem land_ecc (d : Dp) (l : Landing) (h : ∀ r b, l ≠ .row r b) : (land d l).1.ecc = d.ecc := by
  cases l <;> first | exact absurd rfl (h _ _) | skip
  all_goals simp only [land, landClaim, landCredit, landCurve, Dp.setFlg, Dp.setReady, Dp.cflg, Dp.modCore_ecc, Dp.landIn_ecc] <;> (try split) <;> rfl

/-- A landing keeps the device memory in its canonical form. -/
theorem memWf_land {d : Dp} (h : memWf d.dev) (l : Landing) : memWf (land d l).1.dev := by
  by_cases hr : ∃ r b, l = .row r b
  · obtain ⟨r, b, rfl⟩ := hr; exact memWf_writeRow h r b
  · rw [land_dev d l (fun r b e => hr ⟨r, b, e⟩)]; exact h

/-! ### Time -/

@[simp] theorem passSpan_zero (s : State) : s.passSpan 0 = s := by simp [State.passSpan]

theorem nextMissed_zero (s : State) : nextMissed s 0 = none := by
  unfold nextMissed
  generalize (allCores.filter (fun c => (vget s.dp.cores c).hold.isNone)).flatMap (unreleasedWait s) = l
  induction l with
  | nil => rfl
  | cons m l ih => simp

/-- No cycle passed changes nothing. -/
@[simp] theorem pass_zero (s : State) : s.pass 0 = s := by simp [State.pass, State.passSpans, nextMissed_zero]

/-! ### Issue -/

@[simp] theorem lateWrites_nil (s : State) (c : BitVec 3) (t : W64) : lateWrites s c t [] = s := by simp [lateWrites]

/-- A control processor that waits for nothing goes on with nothing. -/
theorem drainCp_nil (s : State) (c : BitVec 3) (h : (coreOf s c).cpWait = []) : drainCp s c = s := by
  unfold drainCp; rw [if_pos (by rw [h]; rfl)]

/-- No write of a command that writes no state too late is dropped. -/
theorem dropLate_nil (w : Work) (n : Nat) (h : w.lateRows = []) : w.dropLate n = w := by
  unfold Work.dropLate; rw [if_pos (by rw [h]; rfl)]

@[simp] theorem packetEnds_cpWait (c : Core) (t : W64) (p e : Nat) : (c.packetEnds t p e).cpWait = c.cpWait := by
  unfold Core.packetEnds; split <;> rfl

/-- A core does not turn to an early tick that does not compute. -/
theorem startEarly_of_noEarlyWork (s : State) (c : BitVec 3) (h : noEarlyWork s = true) : startEarly s c = s := by
  unfold noEarlyWork at h; unfold startEarly
  cases he : s.sp.early with
  | none => rfl
  | some e => rw [he] at h; simp only [Bool.not_eq_true'] at h; simp [h]

/-- The datapath after a command's effect, with how far the writes of its packet's commands reach. -/
theorem issueNow_plain (s : State) (i : Iss) (q : Queue) (step : Bool) (eff : Bool → Work → Work) (h : noEarlyWork s = true) (w : Work)
    (hw : eff (runs s i) (workOf s i.core q step) = w) (hl : w.lateRows = []) (hr : w.reps = []) (hc : (vget w.d.cores i.core).cpWait = []) :
    let e := w.endsIn s.dp.landings.length
    sameBeside s (issueNow s i q step eff) ∧
      (issueNow s i q step eff).dp = if e = 0 then w.d else w.d.modCore i.core (fun x => x.packetEnds w.tick i.pkt (s.dp.cycle + e)) := by
  intro e
  unfold issueNow
  dsimp only
  have hd : (eff (predOn (vget s.dp.cores i.core) i.hdr) (workOf s i.core q step)).dropLate s.dp.landings.length = w := by
    rw [← hw]; exact dropLate_nil _ _ (by rw [hw]; exact hl)
  rw [hd, hl, hr, lateWrites_nil, takeReports_nil]
  generalize hd' : (if w.endsIn s.dp.landings.length = 0 then w.d
    else w.d.modCore i.core (fun x => x.packetEnds w.tick i.pkt (s.dp.cycle + w.endsIn s.dp.landings.length))) = d
  have hc' : (vget d.cores i.core).cpWait = [] := by
    rw [← hd']; split
    · exact hc
    · simp [Dp.modCore, Dp.setCore, hc]
  obtain ⟨g, n, hb⟩ := bpMatch_eq { s with dp := d } (bpsWhere { s with dp := d } (bpIssue { s with dp := d } i.core q w.idx)) (isSpec s i.core)
  rw [hb, drainCp_nil _ _ (by exact hc'), startEarly_of_noEarlyWork _ _ (by exact h)]
  exact ⟨rfl, by rw [← hd']⟩

/-- Everything an engine command can do: a reserved operand code, or one in a format entry, stops it; where it does not fall due, or the device
freezes before it does, nothing of it happens; a gate holds its core; or it issues. -/
theorem issueEngine_cases (c : Instr) (i : Iss) (q : Queue) (eff : Bool → Work → Work) (s : State) :
    (∃ f, issueEngine c i q eff s = .fault (.reservedField f)) ∨ (issueWait s i q c = none ∧ issueEngine c i q eff s = .next s) ∨
      ∃ n, issueWait s i q c = some n ∧
        ((frozen (s.pass n) = true ∧ issueEngine c i q eff s = .next (s.pass n)) ∨
          (∃ hs, hs ≠ [] ∧ holders (s.pass n) i q c = hs ∧ issueEngine c i q eff s = .next (setHold (s.pass n) i q hs)) ∨
          (holders (s.pass n) i q c = [] ∧ issueEngine c i q eff s = .next (issueNow (s.pass n) i q false eff))) := by
  unfold issueEngine
  by_cases h1 : (!c.wf) = true
  · rw [if_pos h1]; exact .inl ⟨_, rfl⟩
  rw [if_neg h1]
  by_cases h2 : (!(tableFmtis c).all (fmtiOk (vget s.dp.cores i.core))) = true
  · rw [if_pos h2]; exact .inl ⟨_, rfl⟩
  rw [if_neg h2]
  cases hw : issueWait s i q c with
  | none => exact .inr (.inl ⟨rfl, rfl⟩)
  | some n =>
    refine .inr (.inr ⟨n, rfl, ?_⟩)
    dsimp only
    by_cases h3 : frozen (s.pass n) = true
    · rw [if_pos h3]; exact .inl ⟨h3, rfl⟩
    · rw [if_neg h3]
      cases hh : holders (s.pass n) i q c with
      | nil => exact .inr (.inr ⟨rfl, rfl⟩)
      | cons a l => exact .inr (.inl ⟨a :: l, by simp, rfl, rfl⟩)

/-- Taking a queue's head touches that queue and the core's hold only. -/
theorem pop_core (x : Core) (q : Queue) : { x.pop q with hold := x.hold, queues := x.queues } = x := rfl

@[simp] theorem pop_cmds (x : Core) (q : Queue) : (vget (x.pop q).queues (queueIndex q)).cmds = (vget x.queues (queueIndex q)).cmds.drop 1 := by
  simp [Core.pop, EngQ.pop]

/-- The queues of a core are the four of its engines. -/
theorem queueIndex_injective (a b : Queue) (h : queueIndex a = queueIndex b) : a = b := by
  cases a <;> cases b <;> first | rfl | exact absurd h (by decide)

end Sys2Proof.Machine
end

