-- ==== Sys2Proof/Laws/PerInstr.lean ====
section
/-!
SUPPORT. Laws/PerInstr: statements made per command. Encoding: the parts of a command's word fit Table 10-3: a value for every field,
each within its width, the body within 93 bits, and group and operation within 4 bits each.
-/
namespace Sys2Proof.Laws
open Sys2Proof.Machine

/-- The word's parts fit their fields (R227, R228); a command that is not of an engine queue has no word. -/
def Encoding.Statement (c : Instr) : Prop :=
  ∀ p, wordParts c = some p → p.widths.length = p.values.length ∧ (∀ x ∈ p.widths.zip p.values, x.2 < 2 ^ x.1) ∧ p.widths.sum ≤ 93 ∧
    p.grp < 16 ∧ p.op < 16

theorem Encoding.of_none {c : Instr} (h : wordParts c = none) : Encoding.Statement c := fun p hp => by rw [h] at hp; cases hp

theorem Encoding.fit_nil : ∀ x ∈ ([] : List (Nat × Nat)), x.2 < 2 ^ x.1 := by simp

theorem Encoding.fit_cons {w v : Nat} {l : List (Nat × Nat)} (h : v < 2 ^ w) (hl : ∀ x ∈ l, x.2 < 2 ^ x.1) : ∀ x ∈ (w, v) :: l, x.2 < 2 ^ x.1 := by
  intro x hx
  rcases List.mem_cons.1 hx with e | e
  · subst e; exact h
  · exact hl x e

theorem Encoding.nop (i : Iss) (q : Queue) : Encoding.Statement (.nop i q) := by
  intro p h; cases h
  exact ⟨rfl, Encoding.fit_nil, Nat.le_of_ble_eq_true rfl, Nat.le_of_ble_eq_true rfl, Nat.le_of_ble_eq_true rfl⟩
theorem Encoding.fset (i : Iss) (q : Queue) (flag : BitVec 6) (dev : Bool) : Encoding.Statement (.fset i q flag dev) := by
  intro p h; cases h
  exact ⟨rfl, Encoding.fit_cons (BitVec.isLt _) (Encoding.fit_cons (Bool.toNat_lt _) (Encoding.fit_nil)), Nat.le_of_ble_eq_true rfl, Nat.le_of_ble_eq_true rfl, Nat.le_of_ble_eq_true rfl⟩
theorem Encoding.fclr (i : Iss) (q : Queue) (flag : BitVec 6) (dev : Bool) : Encoding.Statement (.fclr i q flag dev) := by
  intro p h; cases h
  exact ⟨rfl, Encoding.fit_cons (BitVec.isLt _) (Encoding.fit_cons (Bool.toNat_lt _) (Encoding.fit_nil)), Nat.le_of_ble_eq_true rfl, Nat.le_of_ble_eq_true rfl, Nat.le_of_ble_eq_true rfl⟩
theorem Encoding.fwait (i : Iss) (q : Queue) (flag : BitVec 6) (dev : Bool) (val : Bool) (clr : Bool) (tmo : BitVec 24) : Encoding.Statement (.fwait i q flag dev val clr tmo) := by
  intro p h; cases h
  exact ⟨rfl, Encoding.fit_cons (BitVec.isLt _) (Encoding.fit_cons (Bool.toNat_lt _) (Encoding.fit_cons (Bool.toNat_lt _) (Encoding.fit_cons (Bool.toNat_lt _) (Encoding.fit_cons (BitVec.isLt _) (Encoding.fit_nil))))), Nat.le_of_ble_eq_true rfl, Nat.le_of_ble_eq_true rfl, Nat.le_of_ble_eq_true rfl⟩
theorem Encoding.kset (i : Iss) (q : Queue) (k : BitVec 3) (value : W16) : Encoding.Statement (.kset i q k value) := by
  intro p h; cases h
  exact ⟨rfl, Encoding.fit_cons (BitVec.isLt _) (Encoding.fit_cons (BitVec.isLt _) (Encoding.fit_nil)), Nat.le_of_ble_eq_true rfl, Nat.le_of_ble_eq_true rfl, Nat.le_of_ble_eq_true rfl⟩
theorem Encoding.kadd (i : Iss) (q : Queue) (k : BitVec 3) (value : W16) : Encoding.Statement (.kadd i q k value) := by
  intro p h; cases h
  exact ⟨rfl, Encoding.fit_cons (BitVec.isLt _) (Encoding.fit_cons (BitVec.isLt _) (Encoding.fit_nil)), Nat.le_of_ble_eq_true rfl, Nat.le_of_ble_eq_true rfl, Nat.le_of_ble_eq_true rfl⟩
theorem Encoding.cset (i : Iss) (q : Queue) (cmp : BitVec 2) (k : BitVec 3) (cond : BitVec 3) (value : W16) : Encoding.Statement (.cset i q cmp k cond value) := by
  intro p h; cases h
  exact ⟨rfl, Encoding.fit_cons (BitVec.isLt _) (Encoding.fit_cons (BitVec.isLt _) (Encoding.fit_cons (BitVec.isLt _) (Encoding.fit_cons (BitVec.isLt _) (Encoding.fit_nil)))), Nat.le_of_ble_eq_true rfl, Nat.le_of_ble_eq_true rfl, Nat.le_of_ble_eq_true rfl⟩
theorem Encoding.wclaim (i : Iss) (q : Queue) (wct : BitVec 4) (n1 : BitVec 8) (k : BitVec 3) (cmp : BitVec 2) (cen : Bool) : Encoding.Statement (.wclaim i q wct n1 k cmp cen) := by
  intro p h; cases h
  exact ⟨rfl, Encoding.fit_cons (BitVec.isLt _) (Encoding.fit_cons (BitVec.isLt _) (Encoding.fit_cons (BitVec.isLt _) (Encoding.fit_cons (BitVec.isLt _) (Encoding.fit_cons (Bool.toNat_lt _) (Encoding.fit_nil))))), Nat.le_of_ble_eq_true rfl, Nat.le_of_ble_eq_true rfl, Nat.le_of_ble_eq_true rfl⟩
theorem Encoding.wrst (i : Iss) (q : Queue) (wct : BitVec 4) (limit : W16) : Encoding.Statement (.wrst i q wct limit) := by
  intro p h; cases h
  exact ⟨rfl, Encoding.fit_cons (BitVec.isLt _) (Encoding.fit_cons (BitVec.isLt _) (Encoding.fit_nil)), Nat.le_of_ble_eq_true rfl, Nat.le_of_ble_eq_true rfl, Nat.le_of_ble_eq_true rfl⟩
theorem Encoding.mm (i : Iss) (f : MmF) : Encoding.Statement (.mm i f) := by
  intro p h; cases h
  exact ⟨rfl, Encoding.fit_cons (BitVec.isLt _) (Encoding.fit_cons (BitVec.isLt _) (Encoding.fit_cons (BitVec.isLt _) (Encoding.fit_cons (BitVec.isLt _) (Encoding.fit_cons (BitVec.isLt _) (Encoding.fit_cons (BitVec.isLt _) (Encoding.fit_cons (BitVec.isLt _) (Encoding.fit_cons (BitVec.isLt _) (Encoding.fit_cons (BitVec.isLt _) (Encoding.fit_cons (BitVec.isLt _) (Encoding.fit_cons (BitVec.isLt _) (Encoding.fit_cons (BitVec.isLt _) (Encoding.fit_cons (BitVec.isLt _) (Encoding.fit_cons (BitVec.isLt _) (Encoding.fit_cons (BitVec.isLt _) (Encoding.fit_cons (BitVec.isLt _) (Encoding.fit_cons (BitVec.isLt _) (Encoding.fit_cons (BitVec.isLt _) (Encoding.fit_nil)))))))))))))))))), Nat.le_of_ble_eq_true rfl, Nat.le_of_ble_eq_true rfl, Nat.le_of_ble_eq_true rfl⟩
theorem Encoding.wfill (i : Iss) (f : WfillF) : Encoding.Statement (.wfill i f) := by
  intro p h; cases h
  exact ⟨rfl, Encoding.fit_cons (BitVec.isLt _) (Encoding.fit_cons (BitVec.isLt _) (Encoding.fit_cons (BitVec.isLt _) (Encoding.fit_cons (BitVec.isLt _) (Encoding.fit_cons (BitVec.isLt _) (Encoding.fit_cons (BitVec.isLt _) (Encoding.fit_cons (BitVec.isLt _) (Encoding.fit_nil))))))), Nat.le_of_ble_eq_true rfl, Nat.le_of_ble_eq_true rfl, Nat.le_of_ble_eq_true rfl⟩
theorem Encoding.tload (i : Iss) (f : TloadF) : Encoding.Statement (.tload i f) := by
  intro p h; cases h
  exact ⟨rfl, Encoding.fit_cons (BitVec.isLt _) (Encoding.fit_cons (BitVec.isLt _) (Encoding.fit_nil)), Nat.le_of_ble_eq_true rfl, Nat.le_of_ble_eq_true rfl, Nat.le_of_ble_eq_true rfl⟩
theorem Encoding.smix (i : Iss) (f : SeF) : Encoding.Statement (.smix i f) := by
  intro p h; cases h
  exact ⟨rfl, Encoding.fit_cons (BitVec.isLt _) (Encoding.fit_cons (BitVec.isLt _) (Encoding.fit_cons (BitVec.isLt _) (Encoding.fit_cons (BitVec.isLt _) (Encoding.fit_cons (BitVec.isLt _) (Encoding.fit_nil))))), Nat.le_of_ble_eq_true rfl, Nat.le_of_ble_eq_true rfl, Nat.le_of_ble_eq_true rfl⟩
theorem Encoding.sout (i : Iss) (f : SeF) : Encoding.Statement (.sout i f) := by
  intro p h; cases h
  exact ⟨rfl, Encoding.fit_cons (BitVec.isLt _) (Encoding.fit_cons (BitVec.isLt _) (Encoding.fit_cons (BitVec.isLt _) (Encoding.fit_cons (BitVec.isLt _) (Encoding.fit_cons (BitVec.isLt _) (Encoding.fit_nil))))), Nat.le_of_ble_eq_true rfl, Nat.le_of_ble_eq_true rfl, Nat.le_of_ble_eq_true rfl⟩
theorem Encoding.scarry (i : Iss) (f : SeF) : Encoding.Statement (.scarry i f) := by
  intro p h; cases h
  exact ⟨rfl, Encoding.fit_cons (BitVec.isLt _) (Encoding.fit_cons (BitVec.isLt _) (Encoding.fit_cons (BitVec.isLt _) (Encoding.fit_cons (BitVec.isLt _) (Encoding.fit_cons (BitVec.isLt _) (Encoding.fit_nil))))), Nat.le_of_ble_eq_true rfl, Nat.le_of_ble_eq_true rfl, Nat.le_of_ble_eq_true rfl⟩
theorem Encoding.vmov (i : Iss) (f : VArithF) : Encoding.Statement (.vmov i f) := by
  intro p h; cases h
  exact ⟨rfl, Encoding.fit_cons (BitVec.isLt _) (Encoding.fit_cons (BitVec.isLt _) (Encoding.fit_cons (BitVec.isLt _) (Encoding.fit_cons (BitVec.isLt _) (Encoding.fit_cons (BitVec.isLt _) (Encoding.fit_cons (BitVec.isLt _) (Encoding.fit_cons (BitVec.isLt _) (Encoding.fit_cons (BitVec.isLt _) (Encoding.fit_cons (BitVec.isLt _) (Encoding.fit_cons (BitVec.isLt _) (Encoding.fit_cons (BitVec.isLt _) (Encoding.fit_cons (BitVec.isLt _) (Encoding.fit_cons (BitVec.isLt _) (Encoding.fit_cons (BitVec.isLt _) (Encoding.fit_cons (BitVec.isLt _) (Encoding.fit_cons (BitVec.isLt _) (Encoding.fit_cons (BitVec.isLt _) (Encoding.fit_cons (BitVec.isLt _) (Encoding.fit_cons (BitVec.isLt _) (Encoding.fit_nil))))))))))))))))))), Nat.le_of_ble_eq_true rfl, Nat.le_of_ble_eq_true rfl, Nat.le_of_ble_eq_true rfl⟩
theorem Encoding.vadd (i : Iss) (f : VArithF) : Encoding.Statement (.vadd i f) := by
  intro p h; cases h
  exact ⟨rfl, Encoding.fit_cons (BitVec.isLt _) (Encoding.fit_cons (BitVec.isLt _) (Encoding.fit_cons (BitVec.isLt _) (Encoding.fit_cons (BitVec.isLt _) (Encoding.fit_cons (BitVec.isLt _) (Encoding.fit_cons (BitVec.isLt _) (Encoding.fit_cons (BitVec.isLt _) (Encoding.fit_cons (BitVec.isLt _) (Encoding.fit_cons (BitVec.isLt _) (Encoding.fit_cons (BitVec.isLt _) (Encoding.fit_cons (BitVec.isLt _) (Encoding.fit_cons (BitVec.isLt _) (Encoding.fit_cons (BitVec.isLt _) (Encoding.fit_cons (BitVec.isLt _) (Encoding.fit_cons (BitVec.isLt _) (Encoding.fit_cons (BitVec.isLt _) (Encoding.fit_cons (BitVec.isLt _) (Encoding.fit_cons (BitVec.isLt _) (Encoding.fit_cons (BitVec.isLt _) (Encoding.fit_nil))))))))))))))))))), Nat.le_of_ble_eq_true rfl, Nat.le_of_ble_eq_true rfl, Nat.le_of_ble_eq_true rfl⟩
theorem Encoding.vsub (i : Iss) (f : VArithF) : Encoding.Statement (.vsub i f) := by
  intro p h; cases h
  exact ⟨rfl, Encoding.fit_cons (BitVec.isLt _) (Encoding.fit_cons (BitVec.isLt _) (Encoding.fit_cons (BitVec.isLt _) (Encoding.fit_cons (BitVec.isLt _) (Encoding.fit_cons (BitVec.isLt _) (Encoding.fit_cons (BitVec.isLt _) (Encoding.fit_cons (BitVec.isLt _) (Encoding.fit_cons (BitVec.isLt _) (Encoding.fit_cons (BitVec.isLt _) (Encoding.fit_cons (BitVec.isLt _) (Encoding.fit_cons (BitVec.isLt _) (Encoding.fit_cons (BitVec.isLt _) (Encoding.fit_cons (BitVec.isLt _) (Encoding.fit_cons (BitVec.isLt _) (Encoding.fit_cons (BitVec.isLt _) (Encoding.fit_cons (BitVec.isLt _) (Encoding.fit_cons (BitVec.isLt _) (Encoding.fit_cons (BitVec.isLt _) (Encoding.fit_cons (BitVec.isLt _) (Encoding.fit_nil))))))))))))))))))), Nat.le_of_ble_eq_true rfl, Nat.le_of_ble_eq_true rfl, Nat.le_of_ble_eq_true rfl⟩
theorem Encoding.vmul (i : Iss) (f : VArithF) : Encoding.Statement (.vmul i f) := by
  intro p h; cases h
  exact ⟨rfl, Encoding.fit_cons (BitVec.isLt _) (Encoding.fit_cons (BitVec.isLt _) (Encoding.fit_cons (BitVec.isLt _) (Encoding.fit_cons (BitVec.isLt _) (Encoding.fit_cons (BitVec.isLt _) (Encoding.fit_cons (BitVec.isLt _) (Encoding.fit_cons (BitVec.isLt _) (Encoding.fit_cons (BitVec.isLt _) (Encoding.fit_cons (BitVec.isLt _) (Encoding.fit_cons (BitVec.isLt _) (Encoding.fit_cons (BitVec.isLt _) (Encoding.fit_cons (BitVec.isLt _) (Encoding.fit_cons (BitVec.isLt _) (Encoding.fit_cons (BitVec.isLt _) (Encoding.fit_cons (BitVec.isLt _) (Encoding.fit_cons (BitVec.isLt _) (Encoding.fit_cons (BitVec.isLt _) (Encoding.fit_cons (BitVec.isLt _) (Encoding.fit_cons (BitVec.isLt _) (Encoding.fit_nil))))))))))))))))))), Nat.le_of_ble_eq_true rfl, Nat.le_of_ble_eq_true rfl, Nat.le_of_ble_eq_true rfl⟩
theorem Encoding.vmac (i : Iss) (f : VArithF) : Encoding.Statement (.vmac i f) := by
  intro p h; cases h
  exact ⟨rfl, Encoding.fit_cons (BitVec.isLt _) (Encoding.fit_cons (BitVec.isLt _) (Encoding.fit_cons (BitVec.isLt _) (Encoding.fit_cons (BitVec.isLt _) (Encoding.fit_cons (BitVec.isLt _) (Encoding.fit_cons (BitVec.isLt _) (Encoding.fit_cons (BitVec.isLt _) (Encoding.fit_cons (BitVec.isLt _) (Encoding.fit_cons (BitVec.isLt _) (Encoding.fit_cons (BitVec.isLt _) (Encoding.fit_cons (BitVec.isLt _) (Encoding.fit_cons (BitVec.isLt _) (Encoding.fit_cons (BitVec.isLt _) (Encoding.fit_cons (BitVec.isLt _) (Encoding.fit_cons (BitVec.isLt _) (Encoding.fit_cons (BitVec.isLt _) (Encoding.fit_cons (BitVec.isLt _) (Encoding.fit_cons (BitVec.isLt _) (Encoding.fit_cons (BitVec.isLt _) (Encoding.fit_nil))))))))))))))))))), Nat.le_of_ble_eq_true rfl, Nat.le_of_ble_eq_true rfl, Nat.le_of_ble_eq_true rfl⟩
theorem Encoding.vmax (i : Iss) (f : VArithF) : Encoding.Statement (.vmax i f) := by
  intro p h; cases h
  exact ⟨rfl, Encoding.fit_cons (BitVec.isLt _) (Encoding.fit_cons (BitVec.isLt _) (Encoding.fit_cons (BitVec.isLt _) (Encoding.fit_cons (BitVec.isLt _) (Encoding.fit_cons (BitVec.isLt _) (Encoding.fit_cons (BitVec.isLt _) (Encoding.fit_cons (BitVec.isLt _) (Encoding.fit_cons (BitVec.isLt _) (Encoding.fit_cons (BitVec.isLt _) (Encoding.fit_cons (BitVec.isLt _) (Encoding.fit_cons (BitVec.isLt _) (Encoding.fit_cons (BitVec.isLt _) (Encoding.fit_cons (BitVec.isLt _) (Encoding.fit_cons (BitVec.isLt _) (Encoding.fit_cons (BitVec.isLt _) (Encoding.fit_cons (BitVec.isLt _) (Encoding.fit_cons (BitVec.isLt _) (Encoding.fit_cons (BitVec.isLt _) (Encoding.fit_cons (BitVec.isLt _) (Encoding.fit_nil))))))))))))))))))), Nat.le_of_ble_eq_true rfl, Nat.le_of_ble_eq_true rfl, Nat.le_of_ble_eq_true rfl⟩
theorem Encoding.vmin (i : Iss) (f : VArithF) : Encoding.Statement (.vmin i f) := by
  intro p h; cases h
  exact ⟨rfl, Encoding.fit_cons (BitVec.isLt _) (Encoding.fit_cons (BitVec.isLt _) (Encoding.fit_cons (BitVec.isLt _) (Encoding.fit_cons (BitVec.isLt _) (Encoding.fit_cons (BitVec.isLt _) (Encoding.fit_cons (BitVec.isLt _) (Encoding.fit_cons (BitVec.isLt _) (Encoding.fit_cons (BitVec.isLt _) (Encoding.fit_cons (BitVec.isLt _) (Encoding.fit_cons (BitVec.isLt _) (Encoding.fit_cons (BitVec.isLt _) (Encoding.fit_cons (BitVec.isLt _) (Encoding.fit_cons (BitVec.isLt _) (Encoding.fit_cons (BitVec.isLt _) (Encoding.fit_cons (BitVec.isLt _) (Encoding.fit_cons (BitVec.isLt _) (Encoding.fit_cons (BitVec.isLt _) (Encoding.fit_cons (BitVec.isLt _) (Encoding.fit_cons (BitVec.isLt _) (Encoding.fit_nil))))))))))))))))))), Nat.le_of_ble_eq_true rfl, Nat.le_of_ble_eq_true rfl, Nat.le_of_ble_eq_true rfl⟩
theorem Encoding.vabs (i : Iss) (f : VArithF) : Encoding.Statement (.vabs i f) := by
  intro p h; cases h
  exact ⟨rfl, Encoding.fit_cons (BitVec.isLt _) (Encoding.fit_cons (BitVec.isLt _) (Encoding.fit_cons (BitVec.isLt _) (Encoding.fit_cons (BitVec.isLt _) (Encoding.fit_cons (BitVec.isLt _) (Encoding.fit_cons (BitVec.isLt _) (Encoding.fit_cons (BitVec.isLt _) (Encoding.fit_cons (BitVec.isLt _) (Encoding.fit_cons (BitVec.isLt _) (Encoding.fit_cons (BitVec.isLt _) (Encoding.fit_cons (BitVec.isLt _) (Encoding.fit_cons (BitVec.isLt _) (Encoding.fit_cons (BitVec.isLt _) (Encoding.fit_cons (BitVec.isLt _) (Encoding.fit_cons (BitVec.isLt _) (Encoding.fit_cons (BitVec.isLt _) (Encoding.fit_cons (BitVec.isLt _) (Encoding.fit_cons (BitVec.isLt _) (Encoding.fit_cons (BitVec.isLt _) (Encoding.fit_nil))))))))))))))))))), Nat.le_of_ble_eq_true rfl, Nat.le_of_ble_eq_true rfl, Nat.le_of_ble_eq_true rfl⟩
theorem Encoding.vneg (i : Iss) (f : VArithF) : Encoding.Statement (.vneg i f) := by
  intro p h; cases h
  exact ⟨rfl, Encoding.fit_cons (BitVec.isLt _) (Encoding.fit_cons (BitVec.isLt _) (Encoding.fit_cons (BitVec.isLt _) (Encoding.fit_cons (BitVec.isLt _) (Encoding.fit_cons (BitVec.isLt _) (Encoding.fit_cons (BitVec.isLt _) (Encoding.fit_cons (BitVec.isLt _) (Encoding.fit_cons (BitVec.isLt _) (Encoding.fit_cons (BitVec.isLt _) (Encoding.fit_cons (BitVec.isLt _) (Encoding.fit_cons (BitVec.isLt _) (Encoding.fit_cons (BitVec.isLt _) (Encoding.fit_cons (BitVec.isLt _) (Encoding.fit_cons (BitVec.isLt _) (Encoding.fit_cons (BitVec.isLt _) (Encoding.fit_cons (BitVec.isLt _) (Encoding.fit_cons (BitVec.isLt _) (Encoding.fit_cons (BitVec.isLt _) (Encoding.fit_cons (BitVec.isLt _) (Encoding.fit_nil))))))))))))))))))), Nat.le_of_ble_eq_true rfl, Nat.le_of_ble_eq_true rfl, Nat.le_of_ble_eq_true rfl⟩
theorem Encoding.vclp (i : Iss) (f : VArithF) : Encoding.Statement (.vclp i f) := by
  intro p h; cases h
  exact ⟨rfl, Encoding.fit_cons (BitVec.isLt _) (Encoding.fit_cons (BitVec.isLt _) (Encoding.fit_cons (BitVec.isLt _) (Encoding.fit_cons (BitVec.isLt _) (Encoding.fit_cons (BitVec.isLt _) (Encoding.fit_cons (BitVec.isLt _) (Encoding.fit_cons (BitVec.isLt _) (Encoding.fit_cons (BitVec.isLt _) (Encoding.fit_cons (BitVec.isLt _) (Encoding.fit_cons (BitVec.isLt _) (Encoding.fit_cons (BitVec.isLt _) (Encoding.fit_cons (BitVec.isLt _) (Encoding.fit_cons (BitVec.isLt _) (Encoding.fit_cons (BitVec.isLt _) (Encoding.fit_cons (BitVec.isLt _) (Encoding.fit_cons (BitVec.isLt _) (Encoding.fit_cons (BitVec.isLt _) (Encoding.fit_cons (BitVec.isLt _) (Encoding.fit_cons (BitVec.isLt _) (Encoding.fit_nil))))))))))))))))))), Nat.le_of_ble_eq_true rfl, Nat.le_of_ble_eq_true rfl, Nat.le_of_ble_eq_true rfl⟩
theorem Encoding.vcmp (i : Iss) (f : VArithF) : Encoding.Statement (.vcmp i f) := by
  intro p h; cases h
  exact ⟨rfl, Encoding.fit_cons (BitVec.isLt _) (Encoding.fit_cons (BitVec.isLt _) (Encoding.fit_cons (BitVec.isLt _) (Encoding.fit_cons (BitVec.isLt _) (Encoding.fit_cons (BitVec.isLt _) (Encoding.fit_cons (BitVec.isLt _) (Encoding.fit_cons (BitVec.isLt _) (Encoding.fit_cons (BitVec.isLt _) (Encoding.fit_cons (BitVec.isLt _) (Encoding.fit_cons (BitVec.isLt _) (Encoding.fit_cons (BitVec.isLt _) (Encoding.fit_cons (BitVec.isLt _) (Encoding.fit_cons (BitVec.isLt _) (Encoding.fit_cons (BitVec.isLt _) (Encoding.fit_cons (BitVec.isLt _) (Encoding.fit_cons (BitVec.isLt _) (Encoding.fit_cons (BitVec.isLt _) (Encoding.fit_cons (BitVec.isLt _) (Encoding.fit_cons (BitVec.isLt _) (Encoding.fit_nil))))))))))))))))))), Nat.le_of_ble_eq_true rfl, Nat.le_of_ble_eq_true rfl, Nat.le_of_ble_eq_true rfl⟩
theorem Encoding.vsel (i : Iss) (f : VArithF) : Encoding.Statement (.vsel i f) := by
  intro p h; cases h
  exact ⟨rfl, Encoding.fit_cons (BitVec.isLt _) (Encoding.fit_cons (BitVec.isLt _) (Encoding.fit_cons (BitVec.isLt _) (Encoding.fit_cons (BitVec.isLt _) (Encoding.fit_cons (BitVec.isLt _) (Encoding.fit_cons (BitVec.isLt _) (Encoding.fit_cons (BitVec.isLt _) (Encoding.fit_cons (BitVec.isLt _) (Encoding.fit_cons (BitVec.isLt _) (Encoding.fit_cons (BitVec.isLt _) (Encoding.fit_cons (BitVec.isLt _) (Encoding.fit_cons (BitVec.isLt _) (Encoding.fit_cons (BitVec.isLt _) (Encoding.fit_cons (BitVec.isLt _) (Encoding.fit_cons (BitVec.isLt _) (Encoding.fit_cons (BitVec.isLt _) (Encoding.fit_cons (BitVec.isLt _) (Encoding.fit_cons (BitVec.isLt _) (Encoding.fit_cons (BitVec.isLt _) (Encoding.fit_nil))))))))))))))))))), Nat.le_of_ble_eq_true rfl, Nat.le_of_ble_eq_true rfl, Nat.le_of_ble_eq_true rfl⟩
theorem Encoding.vcrv (i : Iss) (f : VArithF) : Encoding.Statement (.vcrv i f) := by
  intro p h; cases h
  exact ⟨rfl, Encoding.fit_cons (BitVec.isLt _) (Encoding.fit_cons (BitVec.isLt _) (Encoding.fit_cons (BitVec.isLt _) (Encoding.fit_cons (BitVec.isLt _) (Encoding.fit_cons (BitVec.isLt _) (Encoding.fit_cons (BitVec.isLt _) (Encoding.fit_cons (BitVec.isLt _) (Encoding.fit_cons (BitVec.isLt _) (Encoding.fit_cons (BitVec.isLt _) (Encoding.fit_cons (BitVec.isLt _) (Encoding.fit_cons (BitVec.isLt _) (Encoding.fit_cons (BitVec.isLt _) (Encoding.fit_cons (BitVec.isLt _) (Encoding.fit_cons (BitVec.isLt _) (Encoding.fit_cons (BitVec.isLt _) (Encoding.fit_cons (BitVec.isLt _) (Encoding.fit_cons (BitVec.isLt _) (Encoding.fit_cons (BitVec.isLt _) (Encoding.fit_cons (BitVec.isLt _) (Encoding.fit_nil))))))))))))))))))), Nat.le_of_ble_eq_true rfl, Nat.le_of_ble_eq_true rfl, Nat.le_of_ble_eq_true rfl⟩
theorem Encoding.vconv (i : Iss) (f : VConvF) : Encoding.Statement (.vconv i f) := by
  intro p h; cases h
  exact ⟨rfl, Encoding.fit_cons (BitVec.isLt _) (Encoding.fit_cons (BitVec.isLt _) (Encoding.fit_cons (BitVec.isLt _) (Encoding.fit_cons (BitVec.isLt _) (Encoding.fit_cons (BitVec.isLt _) (Encoding.fit_cons (BitVec.isLt _) (Encoding.fit_cons (BitVec.isLt _) (Encoding.fit_cons (BitVec.isLt _) (Encoding.fit_cons (BitVec.isLt _) (Encoding.fit_cons (BitVec.isLt _) (Encoding.fit_cons (BitVec.isLt _) (Encoding.fit_nil))))))))))), Nat.le_of_ble_eq_true rfl, Nat.le_of_ble_eq_true rfl, Nat.le_of_ble_eq_true rfl⟩
theorem Encoding.vrsum (i : Iss) (f : VRedF) : Encoding.Statement (.vrsum i f) := by
  intro p h; cases h
  exact ⟨rfl, Encoding.fit_cons (BitVec.isLt _) (Encoding.fit_cons (BitVec.isLt _) (Encoding.fit_cons (BitVec.isLt _) (Encoding.fit_cons (BitVec.isLt _) (Encoding.fit_cons (BitVec.isLt _) (Encoding.fit_cons (BitVec.isLt _) (Encoding.fit_cons (BitVec.isLt _) (Encoding.fit_nil))))))), Nat.le_of_ble_eq_true rfl, Nat.le_of_ble_eq_true rfl, Nat.le_of_ble_eq_true rfl⟩
theorem Encoding.vrssq (i : Iss) (f : VRedF) : Encoding.Statement (.vrssq i f) := by
  intro p h; cases h
  exact ⟨rfl, Encoding.fit_cons (BitVec.isLt _) (Encoding.fit_cons (BitVec.isLt _) (Encoding.fit_cons (BitVec.isLt _) (Encoding.fit_cons (BitVec.isLt _) (Encoding.fit_cons (BitVec.isLt _) (Encoding.fit_cons (BitVec.isLt _) (Encoding.fit_cons (BitVec.isLt _) (Encoding.fit_nil))))))), Nat.le_of_ble_eq_true rfl, Nat.le_of_ble_eq_true rfl, Nat.le_of_ble_eq_true rfl⟩
theorem Encoding.vrmax (i : Iss) (f : VRedF) : Encoding.Statement (.vrmax i f) := by
  intro p h; cases h
  exact ⟨rfl, Encoding.fit_cons (BitVec.isLt _) (Encoding.fit_cons (BitVec.isLt _) (Encoding.fit_cons (BitVec.isLt _) (Encoding.fit_cons (BitVec.isLt _) (Encoding.fit_cons (BitVec.isLt _) (Encoding.fit_cons (BitVec.isLt _) (Encoding.fit_cons (BitVec.isLt _) (Encoding.fit_nil))))))), Nat.le_of_ble_eq_true rfl, Nat.le_of_ble_eq_true rfl, Nat.le_of_ble_eq_true rfl⟩
theorem Encoding.vld (i : Iss) (f : VMemF) : Encoding.Statement (.vld i f) := by
  intro p h; cases h
  exact ⟨rfl, Encoding.fit_cons (BitVec.isLt _) (Encoding.fit_cons (BitVec.isLt _) (Encoding.fit_cons (BitVec.isLt _) (Encoding.fit_cons (BitVec.isLt _) (Encoding.fit_cons (BitVec.isLt _) (Encoding.fit_cons (BitVec.isLt _) (Encoding.fit_cons (BitVec.isLt _) (Encoding.fit_cons (BitVec.isLt _) (Encoding.fit_cons (BitVec.isLt _) (Encoding.fit_cons (BitVec.isLt _) (Encoding.fit_nil)))))))))), Nat.le_of_ble_eq_true rfl, Nat.le_of_ble_eq_true rfl, Nat.le_of_ble_eq_true rfl⟩
theorem Encoding.vst (i : Iss) (f : VMemF) : Encoding.Statement (.vst i f) := by
  intro p h; cases h
  exact ⟨rfl, Encoding.fit_cons (BitVec.isLt _) (Encoding.fit_cons (BitVec.isLt _) (Encoding.fit_cons (BitVec.isLt _) (Encoding.fit_cons (BitVec.isLt _) (Encoding.fit_cons (BitVec.isLt _) (Encoding.fit_cons (BitVec.isLt _) (Encoding.fit_cons (BitVec.isLt _) (Encoding.fit_cons (BitVec.isLt _) (Encoding.fit_cons (BitVec.isLt _) (Encoding.fit_cons (BitVec.isLt _) (Encoding.fit_nil)))))))))), Nat.le_of_ble_eq_true rfl, Nat.le_of_ble_eq_true rfl, Nat.le_of_ble_eq_true rfl⟩
theorem Encoding.vib (i : Iss) (f : VibF) : Encoding.Statement (.vib i f) := by
  intro p h; cases h
  exact ⟨rfl, Encoding.fit_cons (BitVec.isLt _) (Encoding.fit_cons (BitVec.isLt _) (Encoding.fit_cons (BitVec.isLt _) (Encoding.fit_cons (BitVec.isLt _) (Encoding.fit_cons (BitVec.isLt _) (Encoding.fit_cons (BitVec.isLt _) (Encoding.fit_cons (BitVec.isLt _) (Encoding.fit_cons (BitVec.isLt _) (Encoding.fit_cons (BitVec.isLt _) (Encoding.fit_nil))))))))), Nat.le_of_ble_eq_true rfl, Nat.le_of_ble_eq_true rfl, Nat.le_of_ble_eq_true rfl⟩
theorem Encoding.vft (i : Iss) (f : VftF) : Encoding.Statement (.vft i f) := by
  intro p h; cases h
  exact ⟨rfl, Encoding.fit_cons (BitVec.isLt _) (Encoding.fit_cons (BitVec.isLt _) (Encoding.fit_cons (BitVec.isLt _) (Encoding.fit_cons (BitVec.isLt _) (Encoding.fit_cons (BitVec.isLt _) (Encoding.fit_nil))))), Nat.le_of_ble_eq_true rfl, Nat.le_of_ble_eq_true rfl, Nat.le_of_ble_eq_true rfl⟩
theorem Encoding.vtopk (i : Iss) (f : VTopkF) : Encoding.Statement (.vtopk i f) := by
  intro p h; cases h
  exact ⟨rfl, Encoding.fit_cons (BitVec.isLt _) (Encoding.fit_cons (BitVec.isLt _) (Encoding.fit_cons (BitVec.isLt _) (Encoding.fit_cons (BitVec.isLt _) (Encoding.fit_cons (BitVec.isLt _) (Encoding.fit_cons (BitVec.isLt _) (Encoding.fit_cons (BitVec.isLt _) (Encoding.fit_cons (BitVec.isLt _) (Encoding.fit_cons (BitVec.isLt _) (Encoding.fit_cons (BitVec.isLt _) (Encoding.fit_cons (BitVec.isLt _) (Encoding.fit_cons (BitVec.isLt _) (Encoding.fit_cons (BitVec.isLt _) (Encoding.fit_nil))))))))))))), Nat.le_of_ble_eq_true rfl, Nat.le_of_ble_eq_true rfl, Nat.le_of_ble_eq_true rfl⟩
theorem Encoding.vwadd (i : Iss) (f : VWaddF) : Encoding.Statement (.vwadd i f) := by
  intro p h; cases h
  exact ⟨rfl, Encoding.fit_cons (BitVec.isLt _) (Encoding.fit_cons (BitVec.isLt _) (Encoding.fit_cons (BitVec.isLt _) (Encoding.fit_cons (BitVec.isLt _) (Encoding.fit_cons (BitVec.isLt _) (Encoding.fit_cons (BitVec.isLt _) (Encoding.fit_cons (BitVec.isLt _) (Encoding.fit_cons (BitVec.isLt _) (Encoding.fit_cons (BitVec.isLt _) (Encoding.fit_cons (BitVec.isLt _) (Encoding.fit_cons (BitVec.isLt _) (Encoding.fit_nil))))))))))), Nat.le_of_ble_eq_true rfl, Nat.le_of_ble_eq_true rfl, Nat.le_of_ble_eq_true rfl⟩
theorem Encoding.vctl (i : Iss) (f : VCtlF) : Encoding.Statement (.vctl i f) := by
  intro p h; cases h
  exact ⟨rfl, Encoding.fit_cons (BitVec.isLt _) (Encoding.fit_cons (BitVec.isLt _) (Encoding.fit_nil)), Nat.le_of_ble_eq_true rfl, Nat.le_of_ble_eq_true rfl, Nat.le_of_ble_eq_true rfl⟩
theorem Encoding.dmove (i : Iss) (f : DmoveF) : Encoding.Statement (.dmove i f) := by
  intro p h; cases h
  exact ⟨rfl, Encoding.fit_cons (BitVec.isLt _) (Encoding.fit_cons (BitVec.isLt _) (Encoding.fit_cons (BitVec.isLt _) (Encoding.fit_cons (BitVec.isLt _) (Encoding.fit_cons (BitVec.isLt _) (Encoding.fit_cons (BitVec.isLt _) (Encoding.fit_cons (BitVec.isLt _) (Encoding.fit_cons (BitVec.isLt _) (Encoding.fit_cons (BitVec.isLt _) (Encoding.fit_cons (BitVec.isLt _) (Encoding.fit_cons (BitVec.isLt _) (Encoding.fit_nil))))))))))), Nat.le_of_ble_eq_true rfl, Nat.le_of_ble_eq_true rfl, Nat.le_of_ble_eq_true rfl⟩
theorem Encoding.dmovex (i : Iss) (f : DmovexF) : Encoding.Statement (.dmovex i f) := by
  intro p h; cases h
  exact ⟨rfl, Encoding.fit_cons (BitVec.isLt _) (Encoding.fit_cons (BitVec.isLt _) (Encoding.fit_cons (BitVec.isLt _) (Encoding.fit_cons (BitVec.isLt _) (Encoding.fit_cons (BitVec.isLt _) (Encoding.fit_cons (BitVec.isLt _) (Encoding.fit_cons (BitVec.isLt _) (Encoding.fit_cons (BitVec.isLt _) (Encoding.fit_cons (BitVec.isLt _) (Encoding.fit_cons (BitVec.isLt _) (Encoding.fit_cons (BitVec.isLt _) (Encoding.fit_cons (BitVec.isLt _) (Encoding.fit_nil)))))))))))), Nat.le_of_ble_eq_true rfl, Nat.le_of_ble_eq_true rfl, Nat.le_of_ble_eq_true rfl⟩
theorem Encoding.dremote (i : Iss) (f : DremoteF) : Encoding.Statement (.dremote i f) := by
  intro p h; cases h
  exact ⟨rfl, Encoding.fit_cons (BitVec.isLt _) (Encoding.fit_cons (BitVec.isLt _) (Encoding.fit_cons (BitVec.isLt _) (Encoding.fit_cons (BitVec.isLt _) (Encoding.fit_cons (BitVec.isLt _) (Encoding.fit_cons (BitVec.isLt _) (Encoding.fit_nil)))))), Nat.le_of_ble_eq_true rfl, Nat.le_of_ble_eq_true rfl, Nat.le_of_ble_eq_true rfl⟩
theorem Encoding.dcret (i : Iss) (f : DcretF) : Encoding.Statement (.dcret i f) := by
  intro p h; cases h
  exact ⟨rfl, Encoding.fit_cons (BitVec.isLt _) (Encoding.fit_cons (BitVec.isLt _) (Encoding.fit_cons (BitVec.isLt _) (Encoding.fit_nil))), Nat.le_of_ble_eq_true rfl, Nat.le_of_ble_eq_true rfl, Nat.le_of_ble_eq_true rfl⟩
theorem Encoding.dmem (i : Iss) (f : DmemF) : Encoding.Statement (.dmem i f) := by
  intro p h; cases h
  exact ⟨rfl, Encoding.fit_cons (BitVec.isLt _) (Encoding.fit_cons (BitVec.isLt _) (Encoding.fit_cons (BitVec.isLt _) (Encoding.fit_cons (BitVec.isLt _) (Encoding.fit_cons (BitVec.isLt _) (Encoding.fit_cons (BitVec.isLt _) (Encoding.fit_cons (BitVec.isLt _) (Encoding.fit_cons (BitVec.isLt _) (Encoding.fit_nil)))))))), Nat.le_of_ble_eq_true rfl, Nat.le_of_ble_eq_true rfl, Nat.le_of_ble_eq_true rfl⟩
theorem Encoding.dgather (i : Iss) (f : DgatherF) : Encoding.Statement (.dgather i f) := by
  intro p h; cases h
  exact ⟨rfl, Encoding.fit_cons (BitVec.isLt _) (Encoding.fit_cons (BitVec.isLt _) (Encoding.fit_cons (BitVec.isLt _) (Encoding.fit_cons (BitVec.isLt _) (Encoding.fit_cons (BitVec.isLt _) (Encoding.fit_cons (BitVec.isLt _) (Encoding.fit_nil)))))), Nat.le_of_ble_eq_true rfl, Nat.le_of_ble_eq_true rfl, Nat.le_of_ble_eq_true rfl⟩
theorem Encoding.dmemComplete (core : BitVec 3) (resp : BitVec 2) (data : List Byte) : Encoding.Statement (.dmemComplete core resp data) := Encoding.of_none rfl
theorem Encoding.inboundRowLand (core : BitVec 3) (row : Option OutRow) : Encoding.Statement (.inboundRowLand core row) := Encoding.of_none rfl
theorem Encoding.queueWrite (core : BitVec 3) (q : Queue) (word : CmdWord) : Encoding.Statement (.queueWrite core q word) := Encoding.of_none rfl
theorem Encoding.blockRelease (core : BitVec 3) (q : Queue) (endIdx : BitVec 9) : Encoding.Statement (.blockRelease core q endIdx) := Encoding.of_none rfl
theorem Encoding.windowChange (core : BitVec 3) (w : BitVec 2) (base : BitVec 14) (rows : BitVec 14) (srcCore : Byte) (sp : Bool) (xp : Bool) (dbg : Bool) (opn : Bool) : Encoding.Statement (.windowChange core w base rows srcCore sp xp dbg opn) := Encoding.of_none rfl
theorem Encoding.tick (d : TickDesc) : Encoding.Statement (.tick d) := Encoding.of_none rfl
theorem Encoding.controlBlock (resp : BitVec 2) (data : List Byte) : Encoding.Statement (.controlBlock resp data) := Encoding.of_none rfl
theorem Encoding.errorBlock (resp : BitVec 2) (data : List Byte) : Encoding.Statement (.errorBlock resp data) := Encoding.of_none rfl
theorem Encoding.register (d : StateDesc) : Encoding.Statement (.register d) := Encoding.of_none rfl
theorem Encoding.unregister (d : StateDesc) : Encoding.Statement (.unregister d) := Encoding.of_none rfl
theorem Encoding.swapIn (d : StateDesc) : Encoding.Statement (.swapIn d) := Encoding.of_none rfl
theorem Encoding.swapOut (d : StateDesc) : Encoding.Statement (.swapOut d) := Encoding.of_none rfl
theorem Encoding.bind (d : StateDesc) : Encoding.Statement (.bind d) := Encoding.of_none rfl
theorem Encoding.unbind (d : StateDesc) : Encoding.Statement (.unbind d) := Encoding.of_none rfl
theorem Encoding.writeInit (d : StateDesc) : Encoding.Statement (.writeInit d) := Encoding.of_none rfl
theorem Encoding.clearInit (d : StateDesc) : Encoding.Statement (.clearInit d) := Encoding.of_none rfl
theorem Encoding.load (d : LoadDesc) : Encoding.Statement (.load d) := Encoding.of_none rfl
theorem Encoding.unload (d : BareDesc) : Encoding.Statement (.unload d) := Encoding.of_none rfl
theorem Encoding.nopDescriptor (d : BareDesc) : Encoding.Statement (.nopDescriptor d) := Encoding.of_none rfl
theorem Encoding.packageCheck (p : Package) : Encoding.Statement (.packageCheck p) := Encoding.of_none rfl
theorem Encoding.loaderFill : Encoding.Statement .loaderFill := Encoding.of_none rfl
theorem Encoding.imageCheck (stream : W16) (resp : BitVec 2) (data : List Byte) : Encoding.Statement (.imageCheck stream resp data) := Encoding.of_none rfl
theorem Encoding.swapOutComplete (stream : W16) (resp : BitVec 2) : Encoding.Statement (.swapOutComplete stream resp) := Encoding.of_none rfl
theorem Encoding.initImageLanded (stream : W16) (resp : BitVec 2) (data : List Byte) : Encoding.Statement (.initImageLanded stream resp data) := Encoding.of_none rfl
theorem Encoding.tickBoundary : Encoding.Statement .tickBoundary := Encoding.of_none rfl
theorem Encoding.flywheelBoundary : Encoding.Statement .flywheelBoundary := Encoding.of_none rfl
theorem Encoding.tkcExtWait : Encoding.Statement .tkcExtWait := Encoding.of_none rfl
theorem Encoding.dispatch : Encoding.Statement .dispatch := Encoding.of_none rfl
theorem Encoding.computeStart : Encoding.Statement .computeStart := Encoding.of_none rfl
theorem Encoding.pit : Encoding.Statement .pit := Encoding.of_none rfl
theorem Encoding.publish : Encoding.Statement .publish := Encoding.of_none rfl
theorem Encoding.earlyIntake : Encoding.Statement .earlyIntake := Encoding.of_none rfl
theorem Encoding.earlyDispatch : Encoding.Statement .earlyDispatch := Encoding.of_none rfl
theorem Encoding.timeout (core : BitVec 3) (q : Queue) : Encoding.Statement (.timeout core q) := Encoding.of_none rfl
theorem Encoding.waitCycle (chain : Nat) : Encoding.Statement (.waitCycle chain) := Encoding.of_none rfl
theorem Encoding.tileReadyLimit (core : BitVec 3) : Encoding.Statement (.tileReadyLimit core) := Encoding.of_none rfl
theorem Encoding.gateResolve (core : BitVec 3) : Encoding.Statement (.gateResolve core) := Encoding.of_none rfl
theorem Encoding.chainRestart (chain : Nat) (fetchOk : Bool) (rows : List (Nat × List Byte)) : Encoding.Statement (.chainRestart chain fetchOk rows) := Encoding.of_none rfl
theorem Encoding.eccWriteBack (granule : BitVec 23) : Encoding.Statement (.eccWriteBack granule) := Encoding.of_none rfl
theorem Encoding.errorFifoDrain : Encoding.Statement .errorFifoDrain := Encoding.of_none rfl
theorem Encoding.errClsClr (mask : W16) : Encoding.Statement (.errClsClr mask) := Encoding.of_none rfl
theorem Encoding.watchdogExpiry (p : Proc) : Encoding.Statement (.watchdogExpiry p) := Encoding.of_none rfl
theorem Encoding.watchdogKick (p : Proc) : Encoding.Statement (.watchdogKick p) := Encoding.of_none rfl
theorem Encoding.mpuFault (p : Proc) : Encoding.Statement (.mpuFault p) := Encoding.of_none rfl
theorem Encoding.logEntry (level : BitVec 3) (source : BitVec 4) (code : W32) (args : List W32) : Encoding.Statement (.logEntry level source code args) := Encoding.of_none rfl
theorem Encoding.tracePacket (source : BitVec 4) (point : BitVec 12) (cls : BitVec 4) (arg0 : W32) (arg1 : W32) (debug : Bool) : Encoding.Statement (.tracePacket source point cls arg0 arg1 debug) := Encoding.of_none rfl
theorem Encoding.fwrWrite (ofs : W16) (value : W32) (strb : BitVec 4) : Encoding.Statement (.fwrWrite ofs value strb) := Encoding.of_none rfl
theorem Encoding.fwrWriteApply : Encoding.Statement .fwrWriteApply := Encoding.of_none rfl
theorem Encoding.fwrLate : Encoding.Statement .fwrLate := Encoding.of_none rfl
theorem Encoding.cfgWrite (ofs : W16) (value : W32) (strb : BitVec 4) (via : Via) : Encoding.Statement (.cfgWrite ofs value strb via) := Encoding.of_none rfl
theorem Encoding.tkcRunStart (src : Bool) (fly : Bool) (outEn : Bool) : Encoding.Statement (.tkcRunStart src fly outEn) := Encoding.of_none rfl
theorem Encoding.tkcRunStop (src : Bool) (fly : Bool) (outEn : Bool) : Encoding.Statement (.tkcRunStop src fly outEn) := Encoding.of_none rfl
theorem Encoding.tkcOutEn (src : Bool) (fly : Bool) : Encoding.Statement (.tkcOutEn src fly) := Encoding.of_none rfl
theorem Encoding.tkcSeqLoRead : Encoding.Statement .tkcSeqLoRead := Encoding.of_none rfl
theorem Encoding.hifDb (n : BitVec 4) (value : W32) : Encoding.Statement (.hifDb n value) := Encoding.of_none rfl
theorem Encoding.hifKill : Encoding.Statement .hifKill := Encoding.of_none rfl
theorem Encoding.ringEnable (r : RingId) (value : W32) : Encoding.Statement (.ringEnable r value) := Encoding.of_none rfl
theorem Encoding.head (r : RingId) (value : BitVec 12) : Encoding.Statement (.head r value) := Encoding.of_none rfl
theorem Encoding.ringEntryWritten (r : RingId) (resp : BitVec 2) : Encoding.Statement (.ringEntryWritten r resp) := Encoding.of_none rfl
theorem Encoding.start (u : UnitId) (src : Bool) (fold : W32) : Encoding.Statement (.start u src fold) := Encoding.of_none rfl
theorem Encoding.preset (u : UnitId) (p : BitVec 2) : Encoding.Statement (.preset u p) := Encoding.of_none rfl
theorem Encoding.dataB (u : UnitId) (b : Byte) : Encoding.Statement (.dataB u b) := Encoding.of_none rfl
theorem Encoding.dataH (u : UnitId) (h : W16) : Encoding.Statement (.dataH u h) := Encoding.of_none rfl
theorem Encoding.dataW (u : UnitId) (w : W32) : Encoding.Statement (.dataW u w) := Encoding.of_none rfl
theorem Encoding.rowFeed (u : UnitId) (data : List Byte) : Encoding.Statement (.rowFeed u data) := Encoding.of_none rfl
theorem Encoding.runWrite (u : UnitId) (run : Option W64) (count : Option W32) : Encoding.Statement (.runWrite u run count) := Encoding.of_none rfl
theorem Encoding.secBootGo : Encoding.Statement .secBootGo := Encoding.of_none rfl
theorem Encoding.bootRelease (resp : BitVec 2) (img : List Byte) (sigOk : Bool) (measure : BitVec 256) : Encoding.Statement (.bootRelease resp img sigOk measure) := Encoding.of_none rfl
theorem Encoding.initScrubComplete (failed : Option (BitVec 17)) : Encoding.Statement (.initScrubComplete failed) := Encoding.of_none rfl
theorem Encoding.secAttGo (alsoCert : Bool) : Encoding.Statement (.secAttGo alsoCert) := Encoding.of_none rfl
theorem Encoding.secCertGo : Encoding.Statement .secCertGo := Encoding.of_none rfl
theorem Encoding.attestationDone (resp : BitVec 2) : Encoding.Statement (.attestationDone resp) := Encoding.of_none rfl
theorem Encoding.pwrCap (value : W32) (strb : BitVec 4) : Encoding.Statement (.pwrCap value strb) := Encoding.of_none rfl
theorem Encoding.pwrGnt (lvl : BitVec 2) : Encoding.Statement (.pwrGnt lvl) := Encoding.of_none rfl
theorem Encoding.powerFault (lvl : BitVec 2) : Encoding.Statement (.powerFault lvl) := Encoding.of_none rfl
theorem Encoding.pwrGntLate : Encoding.Statement .pwrGntLate := Encoding.of_none rfl
theorem Encoding.ballastWindow (work : List Nat) (sched : List Nat) : Encoding.Statement (.ballastWindow work sched) := Encoding.of_none rfl
theorem Encoding.poresetN : Encoding.Statement .poresetN := Encoding.of_none rfl
theorem Encoding.rstN : Encoding.Statement .rstN := Encoding.of_none rfl
theorem Encoding.tickIn : Encoding.Statement .tickIn := Encoding.of_none rfl
theorem Encoding.sinPacket (port : BitVec 2) (stream : W16) (data : List Byte) (keepOk : Bool) : Encoding.Statement (.sinPacket port stream data keepOk) := Encoding.of_none rfl
theorem Encoding.twnAttach : Encoding.Statement .twnAttach := Encoding.of_none rfl
theorem Encoding.twnDetach : Encoding.Statement .twnDetach := Encoding.of_none rfl
theorem Encoding.twnTakeover : Encoding.Statement .twnTakeover := Encoding.of_none rfl
theorem Encoding.align (seq : W64) (skew : Nat) : Encoding.Statement (.align seq skew) := Encoding.of_none rfl
theorem Encoding.sig (seq : W64) (group : W16) (sigs : List W64) (bitmap : W64) : Encoding.Statement (.sig seq group sigs bitmap) := Encoding.of_none rfl
theorem Encoding.verdict (seq : W64) (group : W16) (link : Bool) (selftest : Bool) (commit : W64) (mismatch : W64) : Encoding.Statement (.verdict seq group link selftest commit mismatch) := Encoding.of_none rfl
theorem Encoding.delta (seq : W64) (stream : W16) (group : Byte) (row : Nat) (data : List Byte) : Encoding.Statement (.delta seq stream group row data) := Encoding.of_none rfl
theorem Encoding.deltaEnd (seq : W64) (frames : W32) (streams : W16) (abandon : Bool) : Encoding.Statement (.deltaEnd seq frames streams abandon) := Encoding.of_none rfl
theorem Encoding.hello (h : HelloInfo) : Encoding.Statement (.hello h) := Encoding.of_none rfl
theorem Encoding.ctrlDetach (seq : W64) : Encoding.Statement (.ctrlDetach seq) := Encoding.of_none rfl
theorem Encoding.stateRequest (seq : W64) : Encoding.Statement (.stateRequest seq) := Encoding.of_none rfl
theorem Encoding.streamTableChange (seq : W64) (c : TableChange) : Encoding.Statement (.streamTableChange seq c) := Encoding.of_none rfl
theorem Encoding.selfTestResult (pass : Bool) : Encoding.Statement (.selfTestResult pass) := Encoding.of_none rfl
theorem Encoding.twlTxCrd : Encoding.Statement .twlTxCrd := Encoding.of_none rfl
theorem Encoding.twlRxUp (level : Bool) : Encoding.Statement (.twlRxUp level) := Encoding.of_none rfl
theorem Encoding.linkDown : Encoding.Statement .linkDown := Encoding.of_none rfl
theorem Encoding.sealTick : Encoding.Statement .sealTick := Encoding.of_none rfl
theorem Encoding.verdictDeadline : Encoding.Statement .verdictDeadline := Encoding.of_none rfl
theorem Encoding.selftestEnd (pass : Bool) (peerLate : Bool) : Encoding.Statement (.selftestEnd pass peerLate) := Encoding.of_none rfl
theorem Encoding.deltaSend : Encoding.Statement .deltaSend := Encoding.of_none rfl
theorem Encoding.deltaAbandon : Encoding.Statement .deltaAbandon := Encoding.of_none rfl
theorem Encoding.syncComplete : Encoding.Statement .syncComplete := Encoding.of_none rfl
theorem Encoding.tapReset : Encoding.Statement .tapReset := Encoding.of_none rfl
theorem Encoding.idcode : Encoding.Statement .idcode := Encoding.of_none rfl
theorem Encoding.dbgStat : Encoding.Statement .dbgStat := Encoding.of_none rfl
theorem Encoding.dbgChal (nonce : BitVec 256) : Encoding.Statement (.dbgChal nonce) := Encoding.of_none rfl
theorem Encoding.dbgResp (level : Byte) (key : BitVec 512) (sg : BitVec 512) : Encoding.Statement (.dbgResp level key sg) := Encoding.of_none rfl
theorem Encoding.unlockDecision (sigOk : Bool) (virell : Bool) (keyMatch : Bool) : Encoding.Statement (.unlockDecision sigOk virell keyMatch) := Encoding.of_none rfl
theorem Encoding.dbgData (shiftIn : BitVec 160) : Encoding.Statement (.dbgData shiftIn) := Encoding.of_none rfl
theorem Encoding.otpProg (f : OtpField) (vpp : Bool) : Encoding.Statement (.otpProg f vpp) := Encoding.of_none rfl
theorem Encoding.bypass : Encoding.Statement .bypass := Encoding.of_none rfl
theorem Encoding.freeze : Encoding.Statement .freeze := Encoding.of_none rfl
theorem Encoding.halt : Encoding.Statement .halt := Encoding.of_none rfl
theorem Encoding.resume : Encoding.Statement .resume := Encoding.of_none rfl
theorem Encoding.stepCmd (c : DbgCmd) : Encoding.Statement (.stepCmd c) := Encoding.of_none rfl
theorem Encoding.stepTick : Encoding.Statement .stepTick := Encoding.of_none rfl
theorem Encoding.read (c : DbgCmd) : Encoding.Statement (.read c) := Encoding.of_none rfl
theorem Encoding.write (c : DbgCmd) : Encoding.Statement (.write c) := Encoding.of_none rfl
theorem Encoding.bpSet (c : DbgCmd) : Encoding.Statement (.bpSet c) := Encoding.of_none rfl
theorem Encoding.bpClr (c : DbgCmd) : Encoding.Statement (.bpClr c) := Encoding.of_none rfl
theorem Encoding.claim (c : DbgCmd) : Encoding.Statement (.claim c) := Encoding.of_none rfl
theorem Encoding.lock : Encoding.Statement .lock := Encoding.of_none rfl
theorem Encoding.embeddingFetchComplete (stream : W16) (resp : BitVec 2) (data : List Byte) : Encoding.Statement (.embeddingFetchComplete stream resp data) := Encoding.of_none rfl
theorem Encoding.frameDiscard (beats : BitVec 8) : Encoding.Statement (.frameDiscard beats) := Encoding.of_none rfl
theorem Encoding.reservedTypeDescriptor (type : Byte) (d : BareDesc) : Encoding.Statement (.reservedTypeDescriptor type d) := Encoding.of_none rfl

end Sys2Proof.Laws
end

