-- ==== Sys2Proof/Tests/Slice0.lean ====
section
/-!
SUPPORT. Tests: small tests of the model, and for every statement with hypotheses a state and operands that meet them.
-/
namespace Sys2Proof.Tests
open Sys2Proof Sys2Proof.Machine Sys2Proof.Safety

set_option Elab.async false

/-! ### States to test on -/

/-- A header with DELTA 0, no mask and no predicate. -/
def h0 : Hdr := ⟨0, 0, false, 0, false⟩

/-- Core 0, packet 0. -/
def i0 : Iss := ⟨0, h0, 0⟩

/-- A region over rows 0 to 63. -/
def region : Region := ⟨0, 64, true, false, false, false, true⟩

/-- A core memory and an Orchard window of 64 rows each. -/
def smallMem : Cmem := { cmemReset with rows := 64, orRows := 64, regions := vset cmemReset.regions 0 region }

/-- A core that computes tick 1 and whose queue q holds command c. Format entry 1 is plain I8, entry 2 plain I32. -/
def coreWith (c : Instr) (q : Queue) : Core :=
  { coreReset with run := .computing, tick := 1, cm := smallMem, fmts := [(1, ⟨1, 0, 0x7F⟩), (2, ⟨3, 0, 0x7F⟩)],
                   queues := vset coreReset.queues (queueIndex q) { engqReset with cmds := (encodeCmd c).toList, blocks := [(1, 1)], got := true } }

/-- The device with ACLK running at 200 MHz and nothing loaded. -/
def lit : State :=
  { State.reset with pwr := { pwrReset with aclkRun := true, aclkHalf := false },
                     fwr := { fwrReset with pending := false, fw := { fwrReset.fw with level := 2 } }, sec := { secReset with idShown := true } }

/-- Core 0 computes tick 1 with command c next in queue q; the Orchard has a region over its rows 0 to 63. -/
def due (c : Instr) (q : Queue) (f : Core → Core := id) : State :=
  { lit with dp := { dpReset with org := [region], cores := vset dpReset.cores 0 (f (coreWith c q)) } }

/-- A lane of a register of a core's VE set. -/
def lane (n j code : Nat) (x : Core) : Core := setLane x n j code

/-! ### Well-formed commands: each check refuses a term that breaks it -/

def mm0 : MmF := ⟨0, 0, 0, 0, 0, 0, 0, 1, 1, 0, 0, 0, 0, 0, 0, 0, 0, 0⟩
def fill0 : WfillF := ⟨0, 0, 0, 0, 0, 0, 0⟩
def arith0 : VArithF := ⟨0, 0, 0, 0, 0, 0, 0, 0, 0, 0, 0, 0, 0, 0, 0, 0, 0, 0, 0⟩
def conv0 : VConvF := ⟨16, 0, 0, 0, 0, 0, 0, 0, 0, 0, 0⟩
def red0 : VRedF := ⟨0, 0, 0, 0, 0, 0, 0⟩
def vmem0 : VMemF := ⟨0, 0, 0, 0, 0, 1, 0, 0, 0, 0⟩
def vib0 : VibF := ⟨0, 0, 0, 0, 0, 1, 0, 0, 0⟩
def vft0 : VftF := ⟨0, 0, 0, 0, 0⟩
def topk0 : VTopkF := ⟨0, 0, 0, 0, 0, 1, 0, 0, 0, 0, 0, 0, 0⟩
def wadd0 : VWaddF := ⟨0, 0, 0, 0, 0, 0, 0, 0, 0, 0, 0⟩
def vctl0 : VCtlF := ⟨0, 0⟩
def dmove0 : DmoveF := ⟨0, 0, 0, 1, 0, 0, 0, 0, 0, 0, 0⟩
def dmovex0 : DmovexF := ⟨0, 0, 0, 1, 0, 0, 0, 0, 0, 0, 0, 0⟩
def dremote0 : DremoteF := ⟨0, 0, 0, 0, 0, 0⟩
def dmem0 : DmemF := ⟨0, 0, 0, 0, 0, 0, 0, 0⟩
def dgather0 : DgatherF := ⟨0, 0, 0, 1, 0, 0⟩

theorem wf_pred : Instr.wf (.nop ⟨0, { h0 with pred := 5 }, 0⟩ .me) = false ∧ Instr.wf (.nop ⟨0, { h0 with pred := 4 }, 0⟩ .me) = true := by decide
theorem wf_resgate : Instr.wf (.vctl ⟨0, { h0 with resgate := true }, 0⟩ vctl0) = false ∧ Instr.wf (.dmove ⟨0, { h0 with resgate := true }, 0⟩ dmove0) = true := by decide
theorem wf_cset_cond : Instr.wf (.cset i0 .me 0 0 6 0) = false ∧ Instr.wf (.cset i0 .me 0 0 5 0) = true := by decide
theorem wf_mm_shape : Instr.wf (.mm i0 { mm0 with shape := 6 }) = false ∧ Instr.wf (.mm i0 mm0) = true := by decide
theorem wf_mm_dst : Instr.wf (.mm i0 { mm0 with dst := 3 }) = false := by decide
theorem wf_mm_columns : Instr.wf (.mm i0 { mm0 with shape := 1, acol := 63, n1 := 1 }) = false ∧ Instr.wf (.mm i0 { mm0 with shape := 1, acol := 63, n1 := 0 }) = true := by decide
theorem wf_mm_steps : Instr.wf (.mm i0 { mm0 with shape := 4, s1 := 2 }) = false ∧ Instr.wf (.mm i0 { mm0 with shape := 4, s1 := 1 }) = true := by decide
theorem wf_mm_tile : Instr.wf (.mm i0 { mm0 with dst := 1, fmtO := 0 }) = false ∧ Instr.wf (.mm i0 { mm0 with dst := 1, fmtO := 1, acol := 8 }) = false := by decide

theorem wf_wfill_rows : Instr.wf (.wfill i0 { fill0 with wrow := 127, nrows1 := 1 }) = false ∧ Instr.wf (.wfill i0 { fill0 with wrow := 127 }) = true := by decide
theorem wf_wfill_scales : Instr.wf (.wfill i0 { fill0 with srows := 33 }) = false ∧ Instr.wf (.wfill i0 { fill0 with srows := 2, swrow := 31 }) = false := by decide
theorem wf_stride : Instr.wf (.vadd i0 { arith0 with sdb := 6 }) = false ∧ Instr.wf (.vadd i0 { arith0 with sdb := 5 }) = true := by decide
theorem wf_cond : Instr.wf (.vcmp i0 { arith0 with cond := 7 }) = false := by decide
theorem wf_conv : Instr.wf (.vconv i0 { conv0 with kc2 := 3 }) = false ∧ Instr.wf (.vconv i0 { conv0 with va := 17 }) = false ∧ Instr.wf (.vconv i0 conv0) = true := by decide
theorem wf_span : Instr.wf (.vrsum i0 { red0 with va := 31, cnt1 := 1 }) = false ∧ Instr.wf (.vrsum i0 { red0 with va := 31 }) = true := by decide
theorem wf_storage : Instr.wf (.vld i0 { vmem0 with fmti := 0 }) = false ∧ Instr.wf (.vst i0 { vmem0 with fmti := 63 }) = false := by decide
theorem wf_vst_e0 : Instr.wf (.vst i0 { vmem0 with e0 := 1 }) = false ∧ Instr.wf (.vld i0 { vmem0 with e0 := 1 }) = true := by decide
theorem wf_vft : Instr.wf (.vft i0 { vft0 with vd := 17 }) = false ∧ Instr.wf (.vft i0 { vft0 with vd := 17, dstw := 1 }) = true := by decide
theorem wf_topk : Instr.wf (.vtopk i0 { topk0 with vd := 31 }) = false := by decide
theorem wf_wadd : Instr.wf (.vwadd i0 { wadd0 with src := 3 }) = false ∧ Instr.wf (.vwadd i0 { wadd0 with nw2 := 7 }) = false ∧ Instr.wf (.vwadd i0 { wadd0 with va := 27 }) = false := by decide
theorem wf_levels : Instr.wf (.dmove i0 { dmove0 with sl := 2 }) = false ∧ Instr.wf (.dmove i0 { dmove0 with dl := 3 }) = false := by decide
theorem wf_fmtd : Instr.wf (.dmem i0 { dmem0 with fmtS := 63 }) = false ∧ Instr.wf (.dmem i0 { dmem0 with fmtS := 62 }) = true := by decide
/-- Batches with destination stride 0 are legal: a later one overwrites an earlier one (R258). -/
theorem wf_batches : Instr.wf (.dmove i0 { dmove0 with bcnt1 := 1, bds := 0 }) = true := by decide
theorem wf_dmem : Instr.wf (.dmem i0 { dmem0 with fmtD := 63 }) = false := by decide

/-- A reserved code stops the command by name. -/
theorem test_reserved_stops : execNop ⟨0, { h0 with pred := 5 }, 0⟩ .me State.reset = .fault (.reservedField "operand code") := rfl

/-! ### Decoding: words written out field by field from Tables 10-1 and 10-3, the last field first -/

/-- The header bits: PINV, PRED, RESGATE, MASK, GRP, OP, DELTA. -/
def hdrBits (grp op : BitVec 4) (pinv : BitVec 1) (pred : BitVec 3) (rg : BitVec 1) (mask : BitVec 6) (delta : W16) : BitVec 35 :=
  pinv ++ pred ++ rg ++ mask ++ grp ++ op ++ delta

theorem test_decode_nop : decodeCmd 3 0 .se (0#93 ++ hdrBits 0 0 1 2 0 9 7) = some (.nop ⟨3, ⟨7, 9, false, 2, true⟩, 0⟩ .se) := by decide +kernel
theorem test_decode_fset : decodeCmd 0 0 .me (0#86 ++ 1#1 ++ 5#6 ++ hdrBits 0 1 0 0 0 0 1) = some (.fset ⟨0, ⟨1, 0, false, 0, false⟩, 0⟩ .me 5 true) := by decide +kernel
theorem test_decode_fwait : decodeCmd 0 0 .de (0#60 ++ 0x123456#24 ++ 0#1 ++ 1#1 ++ 0#1 ++ 63#6 ++ hdrBits 0 3 0 0 0 0 0) =
    some (.fwait i0 .de 63 false true false 0x123456) := by decide +kernel
theorem test_decode_cset : decodeCmd 0 0 .ve (0#69 ++ 0xFFFE#16 ++ 5#3 ++ 7#3 ++ 2#2 ++ hdrBits 0 6 0 0 0 0 0) = some (.cset i0 .ve 2 7 5 0xFFFE) := by decide +kernel
theorem test_decode_wclaim : decodeCmd 0 0 .ve (0#75 ++ 1#1 ++ 2#2 ++ 5#3 ++ 255#8 ++ 9#4 ++ hdrBits 0 7 0 0 0 0 0) = some (.wclaim i0 .ve 9 255 5 2 true) := by decide +kernel
theorem test_decode_mm : decodeCmd 1 0 .me (0x2001#14 ++ 1#6 ++ 2#6 ++ 3#6 ++ 1#2 ++ 16#7 ++ 1#1 ++ 0#1 ++ 0x1FF#9 ++ 4#6 ++ 5#6 ++ 6#4 ++ 7#10 ++ 1#1 ++ 2#2 ++ 15#7 ++ 3#2 ++ 5#3 ++
    hdrBits 1 0 0 0 0 0 40) = some (.mm ⟨1, ⟨40, 0, false, 0, false⟩, 0⟩ ⟨5, 3, 15, 2, 1, 7, 6, 5, 4, 0x1FF, 0, 1, 16, 1, 3, 2, 1, 0x2001⟩) := by decide +kernel
theorem test_decode_wfill : decodeCmd 0 0 .me (0#49 ++ 3#5 ++ 2#6 ++ 8#4 ++ 9#14 ++ 10#7 ++ 11#7 ++ 1#1 ++ hdrBits 1 1 0 0 0 0 0) = some (.wfill i0 ⟨1, 11, 10, 9, 8, 2, 3⟩) := by decide +kernel
theorem test_decode_sout : decodeCmd 0 0 .se (0#50 ++ 9#4 ++ 1#1 ++ 100#12 ++ 200#12 ++ 300#14 ++ hdrBits 2 1 0 0 0 0 0) = some (.sout i0 ⟨300, 200, 100, 1, 9⟩) := by decide +kernel
theorem test_decode_vcrv : decodeCmd 0 0 .ve (0#5 ++ 0#3 ++ 1#1 ++ 6#3 ++ 1#3 ++ 2#6 ++ 3#3 ++ 4#6 ++ 5#3 ++ 6#6 ++ 1#1 ++ 0#1 ++ 0xF1#8 ++ 0xF2#8 ++ 0xF3#8 ++ 0xF4#8 ++ 7#5 ++ 8#5 ++ 9#5 ++ 10#5 ++
    hdrBits 3 12 0 0 0 0 0) = some (.vcrv i0 ⟨10, 9, 8, 7, 0xF4, 0xF3, 0xF2, 0xF1, 0, 1, 6, 5, 4, 3, 2, 1, 6, 1, 0⟩) := by decide +kernel
theorem test_decode_vld : decodeCmd 0 0 .ve (0#1 ++ 0x20003#18 ++ 2#12 ++ 1#12 ++ 0x00005#18 ++ 4#6 ++ 1#1 ++ 0xFF#8 ++ 0x80#8 ++ 2#4 ++ 30#5 ++ hdrBits 4 4 0 0 0 0 0) =
    some (.vld i0 ⟨30, 2, 0x80, 0xFF, 1, 4, 5, 1, 2, 0x20003⟩) := by decide +kernel
theorem test_decode_vwadd : decodeCmd 0 0 .ve (0#21 ++ 2#10 ++ 1#10 ++ 1#1 ++ 7#18 ++ 2#2 ++ 1#2 ++ 6#3 ++ 0xE0#8 ++ 0xE1#8 ++ 3#5 ++ 4#5 ++ hdrBits 4 9 0 0 0 0 0) =
    some (.vwadd i0 ⟨4, 3, 0xE1, 0xE0, 6, 1, 2, 7, 1, 1, 2⟩) := by decide +kernel
theorem test_decode_dmove : decodeCmd 0 5 .de (0#2 ++ 0xFF#8 ++ 2#8 ++ 3#8 ++ 0x41#7 ++ 2#6 ++ 1#6 ++ 15#8 ++ 0x20009#18 ++ 8#18 ++ 2#2 ++ 1#2 ++ hdrBits 5 0 0 0 1 0 0) =
    some (.dmove ⟨0, ⟨0, 0, true, 0, false⟩, 5⟩ ⟨1, 2, 8, 0x20009, 15, 1, 2, 0x41, 3, 2, 0xFF⟩) := by decide +kernel
theorem test_decode_dmem : decodeCmd 0 0 .de (0#15 ++ 0x47#7 ++ 2#6 ++ 1#6 ++ 4#8 ++ 0x20002#18 ++ 0x7FFFFFFF#31 ++ 1#1 ++ 0#1 ++ hdrBits 5 4 0 0 0 0 0) =
    some (.dmem i0 ⟨0, 1, 0x7FFFFFFF, 0x20002, 4, 1, 2, 0x47⟩) := by decide +kernel
/-- A reserved operation, a reserved group, a set bit above the body, and a command of another queue spell nothing. -/
theorem test_decode_reserved : decodeCmd 0 0 .me (0#93 ++ hdrBits 1 3 0 0 0 0 0) = none ∧ decodeCmd 0 0 .me (0#93 ++ hdrBits 6 0 0 0 0 0 0) = none ∧
    decodeCmd 0 0 .me (1#93 ++ hdrBits 0 0 0 0 0 0 0) = none ∧ decodeCmd 0 0 .se (0#93 ++ hdrBits 1 0 0 0 0 0 0) = none := by decide +kernel
theorem test_no_table_bits : decodeTableWord 128 0 = none ∧ State.reset.withFetchWord 128 0 = State.reset := ⟨rfl, rfl⟩

/-! ### What the statements assume can be met: the machine and the words -/

theorem meets_EmptyQueueIdles : State.reset.pending = [] ∧ State.reset.sec.idShown = false ∧
    ({ lit with pwr := pwrReset } : State).pwr.aclkRun = false ∧ lit.pending = [] ∧ lit.sec.idShown = true ∧ mayReach lit 1 = true := by decide +kernel

theorem meets_StepKeepsMemoriesCanonical : canonical lit ∧ step lit = .next (idle lit) := ⟨by unfold canonical; decide +kernel, rfl⟩

theorem meets_OnlyOtpProgChangesOtp : (∀ f vpp, Instr.tapReset ≠ .otpProg f vpp) ∧
    exec .tapReset State.reset = .next { State.reset with dbg := { dbgReset with ir := 0x01 } } := ⟨fun _ _ h => (nomatch h), rfl⟩

theorem meets_EncodedCommandDecodesBack : issOf (.kset i0 .se 7 0xFFFF) = some i0 ∧ queueOf (.kset i0 .se 7 0xFFFF) = some .se ∧
    (encodeCmd (.kset i0 .se 7 0xFFFF)).isSome = true := by decide +kernel

/-! ### Numbers -/

/-- I8 at exponent 0: 2.5 rounds to the even 2, 127.4 to the bound 127, 128 and −129 lie outside; −128 is the marker's code, which the
symmetric option avoids. -/
theorem meets_IntegerStoreRoundsOnce : Fmt.isInt .i8 = true ∧ storeElem .i8 false (.fin 5 (-1)) 0 = (2, ⟨false, false, true, false⟩) ∧
    storeElem .i8 false (.fin 128 0) 0 = (127, ⟨true, false, true, false⟩) ∧ storeElem .i8 false (.fin (-129) 0) 0 = (0x80, ⟨true, false, true, false⟩) ∧
    storeElem .i8 true (.fin (-128) 0) 0 = (0x81, ⟨true, false, true, false⟩) := by decide +kernel

theorem meets_SharedScaleMultiplies : loadElem (OpFmt.plain .m8v) 0x38 (some 0x80) 0 = (⟨.finite, 8, -2⟩, false) ∧
    loadElem (OpFmt.plain .m8v) 0x38 (some 0xFF) 0 = (.nan, true) := by decide +kernel

/-- Products at the bounds of W: in range, above and below. -/
theorem meets_ProductRoundsOnce : prodTerm (.fin (2 ^ 43) 0) (.fin (2 ^ 43) 0) 24 = (⟨.finite, 2 ^ 86⟩, .none) ∧
    (prodTerm (.fin (2 ^ 44) 0) (.fin (2 ^ 43) 0) 24).1.cls = .satPos ∧ (prodTerm (.fin (-(2 ^ 44)) 0) (.fin (2 ^ 43) 0) 24).1 = ⟨.finite, -(2 ^ 87)⟩ ∧
    (prodTerm (.fin (-(2 ^ 44) - 1) 0) (.fin (2 ^ 43) 0) 24).1.cls = .satNeg ∧
    prodTerm (.fin 1 (-3)) (.fin 1 0) 24 = (⟨.finite, 0⟩, ⟨false, true, true, false⟩) := by decide +kernel

theorem meets_SplitReductionKeepsEveryBit :
    let p : List (List (Dec × Dec)) := [[(.fin 3 0, .fin 5 0)], [(.fin (-7) (-30), .fin 1 0), (.fin 1 0, .fin 1 0)]]
    (p.flatten).Perm p.flatten ∧ (∀ v, some (A88.zero) = some v → v.cls = .finite) ∧ (∀ x ∈ p, (dotEntry A88.zero x 0).1.cls = .finite) :=
  ⟨List.Perm.refl _, fun v h => by cases h; rfl, by decide +kernel⟩

theorem meets_SplitKeepsClassWhenNonFinite :
    ∀ p ∈ ([[(⟨.posInf, 0, 0⟩, .fin 1 0)], [(.fin 2 0, .fin 3 0)]] : List (List (Dec × Dec))),
      ((p.map (fun x => (prodTerm x.1 x.2 0).1)).any (fun v => v.cls != .finite)) = true ∨ (dotEntry A88.zero p 0).1.cls = .finite := by decide +kernel

theorem meets_FullWidthWordsLoadBack : (-(2 ^ 87) : Int) ≤ (A88.mk .finite (-(2 ^ 87))).w ∧ (A88.mk .finite (-(2 ^ 87))).w ≤ 2 ^ 87 - 1 ∧
    A88.ofCls .satPos = A88.ofCls (A88.ofCls .satPos).cls ∧ (0x05000000 : Nat) < 2 ^ 32 ∧ (0x05000000 / 2 ^ 24) % 8 = 5 := by decide +kernel

/-! ### Engine commands that fall due -/

theorem meets_DueEngineCommandIssues : (effectOf (.fset i0 .me 5 false)).map (fun e => e.1) = some i0 ∧ dueNow (due (.fset i0 .me 5 false) .me) (.fset i0 .me 5 false) i0 .me = true := by
  decide +kernel

/-- Each engine has a command that falls due. -/
theorem meets_IssueTakesQueueHead : dueNow (due (.mm i0 mm0) .me (fun x => { x with me := { x.me with ibReady := 15, whReady := 3 } })) (.mm i0 mm0) i0 .me = true ∧
    dueNow (due (.vmov i0 arith0) .ve) (.vmov i0 arith0) i0 .ve = true ∧ dueNow (due (.dmove i0 dmove0) .de) (.dmove i0 dmove0) i0 .de = true := by decide +kernel

/-- FWAIT for flag 3 at 1 while it is 0. -/
theorem meets_WaitingCommandHoldsItsCore : let c := Instr.fwait i0 .se 3 false true false 9
    c.wf = true ∧ (tableFmtis c).all (fmtiOk (coreOf (due c .se) 0)) = true ∧ issueWait (due c .se) i0 .se c = some 0 ∧ runs (due c .se) i0 = true ∧
    flagSeen (due c .se).dp 0 3 false ≠ true ∧ (gateOf (due c .se) 0 c).2 = false ∧
    (issOf (.mm i0 mm0) = some i0 ∧ issueWait (due (.mm i0 mm0) .me) i0 .me (.mm i0 mm0) = some 0 ∧ (gateOf (due (.mm i0 mm0) .me) 0 (.mm i0 mm0)).2 = false) := by
  decide +kernel

/-- The four flag commands, and the case of a false predicate (CMP0 is 0). -/
theorem meets_FlagCommandsWriteTheirFlag : let no : Iss := ⟨0, { h0 with pred := 1 }, 0⟩
    dueNow (due (.nop i0 .ve) .ve) (.nop i0 .ve) i0 .ve = true ∧ dueNow (due (.fset i0 .ve 63 true) .ve) (.fset i0 .ve 63 true) i0 .ve = true ∧
    dueNow (due (.fclr i0 .ve 0 false) .ve) (.fclr i0 .ve 0 false) i0 .ve = true ∧
    dueNow (due (.fwait i0 .ve 1 false false true 0) .ve) (.fwait i0 .ve 1 false false true 0) i0 .ve = true ∧ runs (due (.nop i0 .ve) .ve) i0 = true ∧
    dueNow (due (.fset no .ve 1 false) .ve) (.fset no .ve 1 false) no .ve = true ∧ runs (due (.fset no .ve 1 false) .ve) no = false := by decide +kernel

theorem meets_CounterCommandsWriteTheirRegister : dueNow (due (.kset i0 .de 7 0x8000) .de) (.kset i0 .de 7 0x8000) i0 .de = true ∧
    dueNow (due (.kadd i0 .de 0 0xFFFF) .de) (.kadd i0 .de 0 0xFFFF) i0 .de = true ∧ dueNow (due (.cset i0 .de 3 1 5 0) .de) (.cset i0 .de 3 1 5 0) i0 .de = true := by
  decide +kernel

theorem meets_WorkCounterCommands : dueNow (due (.wrst i0 .me 15 0xFFFF) .me) (.wrst i0 .me 15 0xFFFF) i0 .me = true ∧
    dueNow (due (.wclaim i0 .me 0 255 7 3 true) .me) (.wclaim i0 .me 0 255 7 3 true) i0 .me = true ∧ (256 : Nat) ≤ 256 := by decide +kernel

theorem meets_LandingTakesEffectInItsCycle : ({ dpReset with landings := [(3, .flag 0 5 true)] } : Dp).landings = [(3, .flag 0 5 true)] ∧ (2 : Nat) < 3 ∧ 3 ≤ 3 ∧
    (∀ c q w k p x y, Landing.flag 0 5 true ≠ .claimUnit c q w k p x y) := ⟨rfl, by decide, by decide, fun _ _ _ _ _ _ _ h => nomatch h⟩

theorem meets_LaneCommandsRoundOnce : laneBody (.vmac i0 arith0) = some (i0, arith0) ∧ dueNow (due (.vmac i0 arith0) .ve (lane 0 0 7)) (.vmac i0 arith0) i0 .ve = true ∧
    memWf (coreOf (due (.vmac i0 arith0) .ve (lane 0 0 7)) 0).ve.regs := by decide +kernel

theorem meets_ReductionsStoreOnce : let c := Instr.vrsum i0 { red0 with cnt1 := 1, vd := 31, std := 63 }
    dueNow (due c .ve (lane 1 63 9)) c i0 .ve = true ∧ memWf (coreOf (due c .ve (lane 1 63 9)) 0).ve.regs ∧
    dueNow (due (.vrssq i0 red0) .ve) (.vrssq i0 red0) i0 .ve = true ∧ dueNow (due (.vrmax i0 red0) .ve) (.vrmax i0 red0) i0 .ve = true := by decide +kernel

/-! ### Commands that read and write rows -/

def vld1 : VMemF := { vmem0 with vr := 31, str := 1 }

theorem meets_VldLoadsElements : let s := due (.vld i0 vld1) .ve
    let x := coreOf s 0
    let rows := vldRows x vld1
    dueNow s (.vld i0 vld1) i0 .ve = true ∧ runs s i0 = true ∧
    ∀ y ∈ ((List.range 1).flatMap (fun r => (List.range 64).map (fun j => (r, j)))).filter (fun y => laneOn x 0 0 y.1 y.2),
      cleanElem s.dp 0 (fmtGet x 1) false 0 (portCycle rows.1 0) false 0 (portCycle rows.2 rows.1.length) (vld1.e0.toNat + (64 * y.1 + y.2) * 1) = true := by
  decide +kernel

/-- 64 lanes of 8 bits fill part of row 0, which lies in bounds. -/
theorem meets_VstStoresRows : let s := due (.vst i0 vmem0) .ve (lane 0 1 5)
    let l := storeLanes (seenAt s 0) i0 0 1 false 0
    dueNow s (.vst i0 vmem0) i0 .ve = true ∧ (runs s i0 && l.2) = true ∧ vstRows (coreOf s 0) vmem0 = (1, 0) ∧
    rowsThere s.dp 0 false 0 1 = true ∧ rowsThere s.dp 0 false 0 0 = true := by decide +kernel

/-- An MM over one row and one column, with its tile stored, and one whose predicate is false. -/
def mmCore (x : Core) : Core := { x with me := { x.me with ibReady := 15, whReady := 3 }, masks := [(1, ⟨1, 1, 0, false, 0, 0, 0, 0⟩)] }
def mm2 : MmF := { mm0 with dst := 2, fmtO := 1, n1 := 15 }
def i1 : Iss := ⟨0, { h0 with mask := 1 }, 0⟩

theorem meets_MatrixCommandAccumulates : let s := due (.mm i1 mm2) .me mmCore
    let tiles := tilesOf (coreOf s 0) s.dp.free i1 mm2
    dueNow s (.mm i1 mm2) i1 .me = true ∧ (runs s i1 && !mmZeroShape (coreOf s 0) i1 mm2) = true ∧ tiles.length = 1 ∧
    rowsThere s.dp 0 false mm2.addr.toNat (tiles.map (fun u => rowsFor (tileRows u.2).length)).sum = true := by
  decide +kernel

theorem meets_FillsCopyRows : let w : WfillF := { fill0 with wh := 1, wrow := 127, srows := 1, swrow := 31 }
    let s := due (.wfill i0 w) .me
    dueNow s (.wfill i0 w) i0 .me = true ∧ runs s i0 = true ∧ memWf (coreOf s 0).me.wh ∧ memWf (coreOf s 0).me.whScale ∧
    (∀ k < 2, cleanRow s.dp 0 false (0 + xkValue (coreOf s 0) 0 + k) k = true) ∧
    dueNow (due (.tload i0 ⟨63, 0⟩) .me) (.tload i0 ⟨63, 0⟩) i0 .me = true ∧ cleanRow (due (.tload i0 ⟨63, 0⟩) .me).dp 0 false 63 0 = true := by decide +kernel

/-- The rows of a move, one by one: each exists and checks, is written in time, and is not read as well. -/
def plainly (s : State) (i : Iss) (j : MoveJob) : Bool :=
  (List.range j.bcnt).all (fun b =>
    (batchReads s i j b).all (fun k => match srcPlace s i j b k with
      | some p => placeChecks s.dp i.core (readCycle s i j b k) p &&
          (List.range j.bcnt).all (fun c => (batchWrites s i j c).all (fun w => decide (dstPlace s i j c w.1 ≠ some p)))
      | none => false) &&
    (batchWrites s i j b).all (fun w => match dstPlace s i j b w.1 with
      | some p => inTime s i.core (pitInOf s i.core) w.2.1 p
      | none => false))

theorem movesPlainly_of (s : State) (i : Iss) (j : MoveJob) (h : plainly s i j = true) : movesPlainly s i j := by
  intro b hb
  have hb' := List.all_eq_true.1 h b (List.mem_range.2 hb)
  rw [Bool.and_eq_true, List.all_eq_true, List.all_eq_true] at hb'
  refine ⟨fun k hk => ?_, fun w hw => ?_⟩
  · have hk' := hb'.1 k hk
    cases hp : srcPlace s i j b k with
    | none => simp [hp] at hk'
    | some p =>
      rw [hp] at hk'
      simp only [Bool.and_eq_true, List.all_eq_true, decide_eq_true_eq] at hk'
      exact ⟨p, rfl, hk'.1, fun c hc w hw => hk'.2 c (List.mem_range.2 hc) w hw⟩
  · have hw' := hb'.2 w hw
    cases hp : dstPlace s i j b w.1 with
    | none => simp [hp] at hw'
    | some p => rw [hp] at hw'; exact ⟨p, rfl, hw'⟩

/-- One row from row 0 of the core memory to row 63 of the Orchard window; two batches into the state buffer; a row into a slot; and a
conversion from I8 to I32. -/
def mvA : DmoveF := { dmove0 with dadr := 0x2003F }
def mvB : DmoveF := { dmove0 with dl := 1, bcnt1 := 1, bss := 1, bds := 0x10 }
def mvC : DmovexF := { dmovex0 with dl := 2, dadr := 0x3F }
def mvD : DmoveF := { dmove0 with fmtS := 1, fmtD := 2, dadr := 0x20000 }

theorem meets_MovesCopyRows_a : let s := due (.dmove i0 mvA) .de
    dueNow s (.dmove i0 mvA) i0 .de = true ∧ runs s i0 = true ∧ movesPlainly s i0 (dmoveJob mvA) :=
  ⟨by decide +kernel, by decide +kernel, movesPlainly_of _ _ _ (by decide +kernel)⟩

theorem meets_MovesCopyRows_b : let s := due (.dmove i0 mvB) .de
    dueNow s (.dmove i0 mvB) i0 .de = true ∧ movesPlainly s i0 (dmoveJob mvB) ∧ (moveLandings s i0 (dmoveJob mvB)).length = 2 :=
  ⟨by decide +kernel, movesPlainly_of _ _ _ (by decide +kernel), by decide +kernel⟩

theorem meets_MovesCopyRows_c : let s := due (.dmovex i0 mvC) .de
    dueNow s (.dmovex i0 mvC) i0 .de = true ∧ movesPlainly s i0 (dmovexJob mvC (xkValue (coreOf s 0) mvC.xk * mvC.xsc.toNat : Nat)) ∧
    (moveSlots s i0 (dmovexJob mvC 0)).map (fun y => y.1) = [512 * 63] :=
  ⟨by decide +kernel, movesPlainly_of _ _ _ (by decide +kernel), by decide +kernel⟩

theorem meets_MovesCopyRows_conv : let s := due (.dmove i0 mvD) .de
    dueNow s (.dmove i0 mvD) i0 .de = true ∧ needsConv (coreOf s 0) 1 2 = true ∧ movesPlainly s i0 (dmoveJob mvD) ∧
    (batchWrites s i0 (dmoveJob mvD) 0).map (fun w => w.1) = [0, 1, 2, 3] :=
  ⟨by decide +kernel, by decide +kernel, movesPlainly_of _ _ _ (by decide +kernel), by decide +kernel⟩

/-- The index at element 0 of row 2 is 0: source row 0 goes to row 1. -/
def gat : DgatherF := { dgather0 with iadr := 2 }
theorem meets_MovesCopyRows_d : let s := due (.dgather i0 gat) .de
    dueNow s (.dgather i0 gat) i0 .de = true ∧ runs s i0 = true ∧ (List.range 1).filter (fun k => rowOn (coreOf s 0) 0 0 (k % 64)) = [0] ∧
    refRow s.dp 0 false 2 = some (coreRow 0 2) ∧ rowChecks s.dp 0 (coreRow 0 2) 0 = true ∧
    codeAt .i32 (rowSeen s.dp 0 (coreRow 0 2) 0) 0 = 0 ∧ Safety.placeOf s.dp 0 0 gat.sadr 0 = some (.dev (coreRow 0 0)) ∧
    placeChecks s.dp 0 0 (.dev (coreRow 0 0)) = true ∧ Safety.placeOf s.dp 0 0 gat.dadr 0 = some (.dev (coreRow 0 1)) ∧
    inTime s 0 (pitInOf s 0) (0 + srcLat 0 gat.sadr + 1) (.dev (coreRow 0 1)) = true := by decide +kernel

/-- Channel 3 of core 0 leads to rows 8 to 11 of core 1, with 4 credits. -/
def twoCores (c : Instr) : State :=
  let s := due c .de (fun x => { x with cm := { x.cm with chans := vset x.cm.chans 3 ⟨4, 4, 1, true, 7, 8, 4⟩ } })
  { s with dp := s.dp.setCore 1 { coreReset with cm := smallMem } }
def rem : DremoteF := { dremote0 with cch := 3, rofs := 1, nrows1 := 2 }

theorem meets_RemoteWritesAndCredits : let s := twoCores (.dremote i0 rem)
    dueNow s (.dremote i0 rem) i0 .de = true ∧ 3 ≤ (vget (coreOf s 0).cm.chans 3).credit ∧ 1 + 3 ≤ (vget (coreOf s 0).cm.chans 3).rrows.toNat ∧
    s.dp.landings = [] ∧ (∀ k ∈ [0, 1, 2], cleanRow s.dp 0 false k k = true ∧ (cmRow s.dp 1 (8 + 1 + k)).isSome = true) ∧
    (let r : DremoteF := { rem with nrows1 := 4 }
     dueNow (twoCores (.dremote i0 r)) (.dremote i0 r) i0 .de = true ∧ (vget (coreOf (twoCores (.dremote i0 r)) 0).cm.chans 3).credit < 5) ∧
    dueNow (twoCores (.dcret i0 ⟨1, 3, 0⟩)) (.dcret i0 ⟨1, 3, 0⟩) i0 .de = true ∧
    (vget (coreOf s 0).cm.chans 3).init < (vget (coreOf s 0).cm.chans 3).credit + 1 := by decide +kernel

/-- Core 0 in service with a row inbound; out of service with a window open to core 2. -/
def inSvc : State := { lit with dp := dpReset.modCore 0 (fun x => { x with cm := { smallMem with inService := true, inbound := [⟨.core 1, some 12287, [1], some 5⟩] } }) }
def winOpen : State := { lit with dp := dpReset.modCore 0 (fun x => { x with cm := { smallMem with windows := vset smallMem.windows 0 ⟨0, 64, 4, true, false, false, true⟩ } }) }

theorem meets_InboundRowLands : memWf inSvc.dp.dev ∧ (coreOf inSvc 0).cm.inbound = [⟨.core 1, some 12287, [1], some 5⟩] ∧
    rowAdmitted inSvc.dp 0 (.core 1) 12287 = true ∧ rowAdmitted inSvc.dp 0 .sp 0 = false ∧ rowAdmitted inSvc.dp 0 (.core 1) 12288 = false ∧
    rowAdmitted winOpen.dp 0 (.core 2) 63 = true ∧ rowAdmitted winOpen.dp 0 .sp 0 = true ∧ rowAdmitted winOpen.dp 0 .sp 64 = false ∧
    (coreOf winOpen 0).cm.inbound = [] ∧
    (let s : State := { winOpen with dp := winOpen.dp.modCore 0 (fun x => { x with cm := { x.cm with inbound := [⟨.core 1, some 0, [], none⟩] } }) }
     (coreOf s 0).cm.inbound = [⟨.core 1, some 0, [], none⟩] ∧ rowAdmitted s.dp 0 (.core 1) 0 = false) := by decide +kernel

def dmw : DmemF := { dmem0 with dir := 1, ladr := 0x20000 }
def dmOff : Iss := ⟨0, { h0 with pred := 1 }, 0⟩

/-- The rows of a write DMEM exist and check. -/
theorem meets_DmemTransfersRows_issue : let s := due (.dmem i0 dmw) .de
    dueNow s (.dmem i0 dmw) i0 .de = true ∧ runs s i0 = true ∧ rowsOn s i0 (dmemJob dmw) 0 = [0] ∧ batchReads s i0 (dmemJob dmw) 0 = [0] ∧
    srcPlace s i0 (dmemJob dmw) 0 0 = some (.dev 0) ∧ placeChecks s.dp 0 0 (.dev 0) = true ∧
    dueNow (due (.dmem dmOff dmw) .de) (.dmem dmOff dmw) dmOff .de = true ∧ runs (due (.dmem dmOff dmw) .de) dmOff = false := by decide +kernel

/-- A read of one row into row 0 of the core memory, and a write of one row, outstanding on core 0. -/
def xfer (dir : BitVec 1) : DmemXfer := ⟨0, dir, 5, 0, 1, 0, 0, 0, 1, [7], none, 1, 0⟩
def transferring (dir : BitVec 1) : State := due .tapReset .de (fun x => { x with dmem := [xfer dir] })
theorem meets_DmemTransfersRows_complete : let s := transferring 0
    memWf s.dp.ext ∧ takeDmem s.dp (coreOf s 0).dmem = some (xfer 0, []) ∧ (dmemRowsIn (coreOf s 0) (xfer 0) [9]).1.map (fun y => y.1) = [0] ∧
    Safety.placeOf s.dp 0 0 0 0 = some (.dev (coreRow 0 0)) ∧ inTime s 0 (pitOfTick s 1) 0 (.dev (coreRow 0 0)) = true ∧
    takeDmem (transferring 1).dp (coreOf (transferring 1) 0).dmem = some (xfer 1, []) ∧ destOn (coreOf s 0) 0 0 (xfer 1).on 1 0 = true ∧
    takeDmem lit.dp (coreOf lit 0).dmem = none := by decide +kernel

theorem meets_StagingCommands : dueNow (due (.vib i0 { vib0 with slot := 3, srow := 15, last := 1 }) .ve) (.vib i0 { vib0 with slot := 3, srow := 15, last := 1 }) i0 .ve = true ∧
    dueNow (due (.vctl i0 ⟨7, 0⟩) .ve) (.vctl i0 ⟨7, 0⟩) i0 .ve = true ∧ runs (due (.vctl i0 ⟨7, 0⟩) .ve) i0 = true ∧
    cleanRow (due (.vctl i0 ⟨7, 0⟩) .ve).dp 0 false 0 0 = true ∧
    memWf coreReset.me.ib ∧ memWf coreReset.me.ibScale ∧ memWf coreReset.ve.ctPending ∧ memWf coreReset.ve.ctActive := by decide +kernel

/-- A VFT into registers and one into rows, with a tile in the queue and with none. -/
def vftM : VftF := { vft0 with dstw := 1 }
def oneTile (x : Core) : Core := { x with me := { x.me with ftq := [⟨1, [], []⟩] }, ftPlan := [(0, 1)] }
theorem meets_StagingCommands_vft : dueNow (due (.vft i0 vft0) .ve oneTile) (.vft i0 vft0) i0 .ve = true ∧
    (coreOf (due (.vft i0 vft0) .ve oneTile) 0).me.ftq = [⟨1, [], []⟩] ∧
    (let s := due (.vft i0 vftM) .ve oneTile
     dueNow s (.vft i0 vftM) i0 .ve = true ∧ runs s i0 = true ∧ laneOn (coreOf s 0) 0 0 0 0 = true ∧
     rowsThere s.dp 0 false 0 (rowsFor (tileRows ⟨1, [], []⟩).length) = true) ∧
    (let s := due (.vft i0 vftM) .ve
     dueNow s (.vft i0 vftM) i0 .ve = true ∧ (coreOf s 0).me.ftq = [] ∧
     rowsThere s.dp 0 false 0 (plannedRows (coreOf s 0) (vget (coreOf s 0).queues (queueIndex .ve)).issued) = true) ∧
    dueNow (due (.vft i0 vft0) .ve) (.vft i0 vft0) i0 .ve = true := by decide +kernel

/-- Candidates from registers, and candidates from memory. -/
def topM : VTopkF := { topk0 with msrc := 1, m1 := 3 }
theorem meets_VtopkSelectsInOrder : dueNow (due (.vtopk i0 topk0) .ve) (.vtopk i0 topk0) i0 .ve = true ∧
    (let s := due (.vtopk i0 topM) .ve
     dueNow s (.vtopk i0 topM) i0 .ve = true ∧ runs s i0 = true ∧
     ∀ e, e ≤ 3 → cleanRow s.dp 0 false (0 + e / 512) (portCycle (vtopkRows (coreOf s 0) topM) 0 (0 + e / 512)) = true) ∧
    (∀ y ∈ ([(.fin 3 0, 1)] : List Cand), y.1.cls ≠ .satPos ∧ y.1.cls ≠ .satNeg) := by
  refine ⟨by decide +kernel, ⟨by decide +kernel, by decide +kernel, fun e he => ?_⟩, by decide +kernel⟩
  have h0 : 0 + e / 512 = 0 := by omega
  rw [h0]; decide +kernel

def waddM : VWaddF := { wadd0 with src := 1, dstw := 2, pstr := 1, ostr := 3 }
theorem meets_VwaddIsTheWideAdd : let s := due (.vwadd i0 waddM) .ve
    dueNow s (.vwadd i0 waddM) i0 .ve = true ∧ runs s i0 = true ∧ laneOn (coreOf s 0) 0 0 0 0 = true ∧
    (∀ m < 2, ∀ p < 3, cleanRow s.dp 0 false (0 + m * 3 + p * 1) (0 + (3 * m + p) / 2) = true) ∧
    dueNow (due (.vwadd i0 wadd0) .ve) (.vwadd i0 wadd0) i0 .ve = true := by decide +kernel

def convW : VConvF := { conv0 with vc := 8 }
def convD : VConvF := { convW with va := 16, vd := 16, vc := 0 }

/-- With the dispatch record's reset word, and with the package's reset rows. -/
theorem meets_VconvFilters : (let s := due (.vconv i0 convD) .ve
      dueNow s (.vconv i0 convD) i0 .ve = true ∧ memWf (coreOf s 0).ve.regs ∧ runs s i0 = true ∧ laneOn (coreOf s 0) 0 0 0 0 = true ∧
        (coreOf s 0).rstRow = none) ∧
    (let s := due (.vconv i0 convD) .ve (fun x => { x with rstRow := some 6 })
     dueNow s (.vconv i0 convD) i0 .ve = true ∧ (coreOf s 0).rstRow = some 6 ∧ cleanRow s.dp 0 false (6 + 0 / 64) 0 = true) ∧
    (∀ n, 0 ≤ n ∧ n < 0 + (0 + 1) * ((64 / lcOf 0 + 3) / 4) → ¬(16 ≤ n ∧ n < 16 + 16)) := by
  refine ⟨by decide +kernel, by decide +kernel, fun n h h2 => ?_⟩
  have : (64 / lcOf 0 + 3) / 4 = 2 := by decide
  rw [this] at h; omega

/-! ### Scan commands -/

/-- One real head of 16 channels and one state each, streams of 64 steps. -/
def spb1 : Spb :=
  { c := 16, n := 1, p := 16, l := 64, complex := false, fx := ⟨1, 0, 0x7F⟩, fb := ⟨1, 0, 0x7F⟩, fc := ⟨1, 0, 0x7F⟩, symState := false,
    eg := 0, qg := 0, ey := 0, tExp := 0, tCos := 1, tSin := 2, aLam := 0, aTheta := 0, aB := 1, aC := 2, aCi := 0, aX := 3, aG := 8, aGi := 0,
    aM := 48, aMi := 0, aOut := 72, aRst := 6, aQh := 7, seBase := 0, initOfs := 0 }

def scanCore (x : Core) : Core :=
  { x with cm := { smallMem with rows := 128, regions := vset smallMem.regions 0 { region with rows := 128 } } }
def se1 : SeF := ⟨5, 0, 0, 0, 0⟩

/-- A scan command due on a core whose row 5 holds the parameter block. -/
def scanDue (c : Instr) : State :=
  let s := due c .se scanCore
  { s with dp := { s.dp with dev := memWrite [] (512 * coreRow 0 5) (spbRow spb1) } }

theorem spbSeen_scan (c : Instr) : spbSeen (scanDue c) i0 se1 = spb1 := by
  have : spbSeen (scanDue .tapReset) i0 se1 = spb1 := by decide +kernel
  exact this

theorem inits_none (c : Instr) (h : initSlot (coreOf (scanDue c) 0) i0 spb1 0 = none) : initsClean (scanDue c) i0 spb1 := by
  intro st hst r hr
  have h1 : spbStreams spb1 = 1 := by decide
  have : st = 0 := by omega
  subst this
  have hr' : initSlot (coreOf (scanDue c) 0) i0 spb1 0 = some r := hr
  rw [h] at hr'; cases hr'

theorem meets_ScanCommands_smix : let s := scanDue (.smix i0 se1)
    dueNow s (.smix i0 se1) i0 .se = true ∧ cleanRow s.dp 0 false 5 0 = true ∧ (runs s i0 && !noRows (coreOf s 0) i0) = true ∧
    seRange (coreOf s 0) se1 (spbHeads spb1) = [0] ∧ offsClean s 0 (stepOffs i0 spb1 ++ (List.range 32).map (8 + ·)) ∧
    rowsThere s.dp 0 false (48 + 17 * 0) 17 = true := by unfold offsClean; decide +kernel

theorem meets_ScanCommands_sout : let s := scanDue (.sout i0 { se1 with count1 := 15 })
    dueNow s (.sout i0 { se1 with count1 := 15 }) i0 .se = true ∧ (runs s i0 && !noRows (coreOf s 0) i0) = true ∧ 0 < spb1.l ∧ 64 % spb1.l = 0 ∧
    0 < spb1.p ∧ spb1.c % spb1.p = 0 ∧
    offsClean s 0 (stepOffs i0 spb1 ++ fmtOffs (spbFmt spb1.fc) 2 64 ++ [] ++ (List.range (rowsOf 16 8)).map (7 + ·)) ∧ initsClean s i0 spb1 ∧
    distinct ((seRange (coreOf s 0) { se1 with count1 := 15 } 16).map (fun ch => ch / 16)) = [0] ∧ rowsThere s.dp 0 false 72 24 = true :=
  ⟨by decide +kernel, by decide +kernel, by decide, by decide, by decide, by decide, by unfold offsClean; decide +kernel, inits_none _ (by decide +kernel),
    by decide +kernel, by decide +kernel⟩

theorem meets_ScanCommands_scarry : let s := scanDue (.scarry i0 { se1 with count1 := 15 })
    dueNow s (.scarry i0 { se1 with count1 := 15 }) i0 .se = true ∧ (runs s i0 && !noRows (coreOf s 0) i0) = true ∧
    offsClean s 0 (stepOffs i0 spb1 ++ fmtOffs (spbFmt spb1.fb) 1 64 ++ fmtOffs (spbFmt spb1.fx) 3 (64 * 16) ++ (List.range (rowsOf 16 8)).map (7 + ·)) ∧
    initsClean s i0 spb1 :=
  ⟨by decide +kernel, by decide +kernel, by unfold offsClean; decide +kernel, inits_none _ (by decide +kernel)⟩

/-! ### A task, its streams and its rings -/

/-- What a package of one core holds for it: one NOP in each queue. -/
def plan0 : CorePlan :=
  { cmBase := 0, cmRows := 64, orBase := 0, orRows := 256, regions := [⟨0, 64, false, true, false, false⟩], chans := [], cacheSize := 0, fmts := [], masks := [],
    adMasks := [], spbs := [], curves := [], flgInit := 5, kInit := [1, 2], cmpInit := 3, blocks := [], pkts := [],
    planned := [], cuCycles := 0, fills := [], ballast := [] }

/-- A package of one core, one place and a state area of 16 rows: slots of two rows. -/
def pkg0 : Package :=
  { pkgId := 7, gen := 1, signer := some 0, sigOk := true, measure := 9, sections := [([1, 2, 3], 0)], cores := 1, chains := [[0]], steps := 1, minL := 1,
    places := [⟨0, 0, 0, [(0, 0)]⟩], cuRows := [], vmax := [], plans := [plan0], orRegions := [⟨0, 256, false, true, false, false⟩], orRows := 256, stateBase := 32,
    stateRows := 16, slotState := 1, slotSide := 1, layoutId := 3, bloomBase := 0, bloomMap := [], bloomLayers := 0, adapters := [], dispBase := 64, intakeBase := 72,
    smpBytes := 0, embBase := 80, embRows := 0, embFmtS := ⟨1, 0, 0⟩, embFmtD := ⟨1, 0, 0⟩, outBase := 96, outPayload := 0, errBase := 0, lrnBase := 128,
    journalBase := 0, cuReserve := 0, dflgInit := 0, pkgLim := List.replicate 15 100000, eComp := 1000000, splits := [], ramp := 0 }

/-- The section's CRC put in place. -/
def sealed (p : Package) : Package :=
  { p with sections := p.sections.zipIdx.map (fun x => (x.1.1, BitVec.ofNat 32 (formCheck lit 3 1 false (BitVec.ofNat 32 x.2) x.1.1).1)) }

/-- Submission ring 0 holds a descriptor; completion ring 0 and the event ring are enabled. -/
def rung : State :=
  { lit with hif := { hifReset with sqs := vset hifReset.sqs 0 { sqReset with enable := true, db := 1 },
                                    cqs := vset hifReset.cqs 0 { pringReset with enable := true }, evt := { pringReset with enable := true } } }

/-- With a task loaded and the given streams. -/
def tasked (p : Package) (l : List Stream) : State := { rung with sp := { spReset with task := some ⟨p, 0, 0, false⟩, streams := l } }

def crcOf (bs : List Byte) : W32 := BitVec.ofNat 32 (formCheck lit 0 1 false (descFold 0 0) bs).1

def stDesc (op : Byte) (d : StateDesc) : StateDesc := { d with crc := crcOf (stateBytes op d) }
def sd0 : StateDesc := { sq := 0, tag := 0x1234, rsv := 0, flags := 0, stream := 5, adapt := 0, group := 0, place := 0, addr := 0, rest := [], crc := 0 }
def st0 : Stream := newStream 5 false 0 0

theorem meets_StreamTableDescriptors_1 : (stateReady (tasked pkg0 []) 1 (stDesc 1 sd0) ∧ findStream (tasked pkg0 []) 5 = none ∧ (0 : Nat) < 4096 ∧ sd0.adapt.toNat < 2) ∧
    stateReady (tasked pkg0 [st0]) 2 (stDesc 2 sd0) ∧ findStream (tasked pkg0 [st0]) 5 = some st0 ∧ st0.life = .absent ∧ st0.placeNext = none ∧
    st0.initJob = none := by
  unfold stateReady descReady; decide +kernel

theorem meets_StreamTableDescriptors_2 : (stateReady (tasked pkg0 [st0]) 5 (stDesc 5 sd0) ∧ st0.life ≠ .draining ∧ st0.life ≠ .leaving ∧ st0.placeNext = none ∧
      freePlace (tasked pkg0 [st0]) 0 = some 0) ∧
    (let x := { st0 with placeNext := some 0 }
     stateReady (tasked pkg0 [x]) 6 (stDesc 6 sd0) ∧ findStream (tasked pkg0 [x]) 5 = some x ∧ x.placeNext ≠ none) ∧
    stateReady (tasked pkg0 [st0]) 8 (stDesc 8 sd0) ∧ pinsOf st0 = 0 := by
  unfold stateReady descReady; decide +kernel

/-- A package with the adapter of group 3: its first stream allocates the group's pair, a second one finds it, and leaves it. -/
def adG : AdapterDef := ⟨0, 16, 16, 1, ⟨1, 0, 0⟩, 0, 0, 0, 0, 0, 0, 1, 0, 1, 0, 1, 4, 8, 1, 0, 112, [], some 3⟩
def pkgG : Package := { pkg0 with adapters := [adG] }
def inGroup (l : List Stream) (g : List GroupSlot) : State := let s := tasked pkgG l; { s with sp := { s.sp with groups := g } }
def sdG : StateDesc := { sd0 with adapt := 2, group := 3 }
theorem meets_StreamTableDescriptors_group : (stateReady (inGroup [] []) 1 (stDesc 1 sdG) ∧ memWf (inGroup [] []).dp.dev ∧ findStream (inGroup [] []) 5 = none ∧
      taskPkg (inGroup [] []) = some pkgG ∧ groupAdapter pkgG 3 = some adG ∧ allocRows (inGroup [] []) (2 * adapterRows adG) = some 32) ∧
    (stateReady (inGroup [newStream 6 false 2 3] [⟨3, 32, false⟩]) 1 (stDesc 1 sdG) ∧ findStream (inGroup [newStream 6 false 2 3] [⟨3, 32, false⟩]) 5 = none ∧
      ∃ g ∈ (inGroup [newStream 6 false 2 3] [⟨3, 32, false⟩]).sp.groups, g.group = sdG.group) ∧
    (let x := newStream 5 false 2 3
     stateReady (inGroup [x] [⟨3, 32, false⟩]) 2 (stDesc 2 sd0) ∧ findStream (inGroup [x] [⟨3, 32, false⟩]) 5 = some x ∧ x.life = .absent ∧
       x.placeNext = none ∧ x.initJob = none ∧ x.adapt = 2) := by
  unfold stateReady descReady; decide +kernel

/-- A stream that is not registered, in every operation but REGISTER. -/
theorem meets_StreamTableDescriptors_3 : ∀ op ∈ ([2, 3, 4, 5, 6, 7, 8] : List Byte), stateReady (tasked pkg0 []) op (stDesc op sd0) ∧ findStream (tasked pkg0 []) 5 = none := by
  unfold stateReady descReady; decide +kernel

theorem meets_SwapDescriptorsStart_1 : (stateReady (tasked pkg0 [st0]) 3 (stDesc 3 sd0) ∧ memWf (tasked pkg0 [st0]).dp.dev ∧ (stDesc 3 sd0).flags.getLsbD 2 = false ∧
      st0.life = .absent ∧ residentCount (tasked pkg0 [st0]) < 512 ∧ taskPkg (tasked pkg0 [st0]) = some pkg0 ∧ allocRows (tasked pkg0 [st0]) (2 * slotRows pkg0) = some 32 ∧
      (stDesc 3 sd0).addr = 0 ∧ st0.init = none ∧ allocBloom (tasked pkg0 [st0]) pkg0 = none) ∧
    stateReady (tasked pkg0 [st0]) 3 (stDesc 3 { sd0 with addr := 0x200 }) ∧
    (let d := stDesc 3 { sd0 with flags := 4 }
     stateReady (tasked pkg0 [st0]) 3 d ∧ d.flags.getLsbD 2 = true ∧ st0.placeNext = none ∧ freePlace (tasked pkg0 [st0]) d.place = some 0) ∧
    (let x := { st0 with init := some 44 }
     findStream (tasked pkg0 [x]) 5 = some x ∧ rowMarks (tasked pkg0 [x]).dp 44 = []) := by
  unfold stateReady descReady; decide +kernel

/-- With a Bloom layer: the Bloom slots lie apart from the slot pair. -/
def pkgB : Package := { pkg0 with bloomMap := [0], bloomLayers := 1, bloomBase := 200 }
theorem meets_SwapDescriptorsStart_bloom : stateReady (tasked pkgB [st0]) 3 (stDesc 3 sd0) ∧ allocRows (tasked pkgB [st0]) (2 * slotRows pkgB) = some 32 ∧
    allocBloom (tasked pkgB [st0]) pkgB = some 200 ∧ 32 + slotRows pkgB ≤ 200 := by
  unfold stateReady descReady; decide +kernel

/-- A resident stream in the first slot pair; pinned by tick 4; its state lost. -/
def stR : Stream := { st0 with life := .resident, slot := some 32 }
def stPin : Stream := { stR with pins := [(4, 1)] }
def stLost : Stream := { stR with lost := true }

theorem meets_SwapDescriptorsStart_2 : (stateReady (tasked pkg0 [stR]) 4 (stDesc 4 { sd0 with addr := 0x200 }) ∧ findStream (tasked pkg0 [stR]) 5 = some stR ∧
      stR.life = .resident ∧ stR.lost = false ∧ pinsOf stR = 0) ∧
    (stateReady (tasked pkg0 [stPin]) 4 (stDesc 4 { sd0 with addr := 0x200 }) ∧ findStream (tasked pkg0 [stPin]) 5 = some stPin ∧ pinsOf stPin ≠ 0 ∧
      stPin.lost = false ∧ (stDesc 4 { sd0 with addr := 0x200 }).flags.getLsbD 0 = false ∧
      stateReady (tasked pkg0 [stPin]) 4 (stDesc 4 { sd0 with addr := 0x200, flags := 1 }) ∧ (stDesc 4 { sd0 with addr := 0x200, flags := 1 }).flags.getLsbD 0 = true) ∧
    (stateReady (tasked pkg0 [stLost]) 4 (stDesc 4 { sd0 with addr := 0x200 }) ∧ findStream (tasked pkg0 [stLost]) 5 = some stLost ∧ pinsOf stLost = 0) ∧
    stateReady (tasked pkg0 [stR]) 7 (stDesc 7 { sd0 with addr := 0x400 }) ∧ stR.initJob = none ∧ allocRows (tasked pkg0 [stR]) pkg0.slotState = some 36 := by
  unfold stateReady descReady; decide +kernel

/-- An image of stream 5 with sequence number 9. -/
def imgHead : List Byte := padTo 508 (bytesOf 4 0x54494D47 ++ bytesOf 2 1 ++ bytesOf 2 0x200 ++ bytesOf 2 5 ++ bytesOf 2 0 ++ bytesOf 4 2 ++ bytesOf 8 9 ++ bytesOf 4 3)
def imgBody : List Byte := List.replicate 1024 7
def img0 : List Byte := imgHead ++ bytesOf 4 (imageCrc lit 5 (imgHead ++ [0, 0, 0, 0] ++ imgBody)).1 ++ imgBody
def req0 : ReqTicket := ⟨0x1234, 0, 0, false⟩
def stA : Stream := { st0 with life := .arriving, slot := some 32, swap := some ⟨req0, 0x200, false, none, true, false⟩, expSeq := some 9 }

theorem meets_ImagesComplete_1 : findStream (tasked pkg0 [stA]) 5 = some stA ∧ stA.id = 5 ∧ stA.life = .arriving ∧ stA.slot = some 32 ∧ req0.silent = false ∧
    meterHolds (tasked pkg0 [stA]).dp 11 none = false ∧ stA.bloom = none ∧ memWf (tasked pkg0 [stA]).dp.dev ∧
    imageMatches pkg0 stA ⟨req0, 0x200, false, none, true, false⟩ img0 = true ∧ img0.length = 512 * (1 + slotRows pkg0) := by decide +kernel

/-- A value below 2^32 written as four bytes behind 508 others reads back. -/
theorem fieldAt_check (h b : List Byte) (c : Nat) (hl : h.length = 508) (hc : c < 2 ^ 32) : fieldAt (h ++ bytesOf 4 c ++ b) 508 4 = c := by
  have e : ((h ++ bytesOf 4 c ++ b).drop 508).take 4 = bytesOf 4 c := by
    rw [List.append_assoc, ← hl, List.drop_left]; rfl
  unfold fieldAt
  rw [e]
  simp only [bytesOf, leBytes, List.foldr, BitVec.toNat_ofNat]
  omega

theorem reflect_lt (l : List Nat) (v a k : Nat) (h : a < 2 ^ k) : l.foldl (fun a i => 2 * a + (v / 2 ^ i) % 2) a < 2 ^ (k + l.length) := by
  induction l generalizing a k with
  | nil => simpa using h
  | cons x l ih =>
    rw [List.foldl_cons, List.length_cons, Nat.add_comm l.length 1, ← Nat.add_assoc]
    exact ih _ _ (by rw [Nat.pow_succ]; omega)

/-- A CRC-32C is a number of 32 bits. -/
theorem crc32_lt (s : State) (d : BitVec 2) (row : Bool) (f : W32) (bs : List Byte) : (formCheck s d 1 row f bs).1 < 2 ^ 32 := by
  have hr : ∀ v, reflectBits 32 v < 2 ^ 32 := fun v => by
    have := reflect_lt (List.range 32) v 0 0 (by decide)
    simpa [reflectBits] using this
  have hx : ∀ v, crcResult 32 true true v < 2 ^ 32 := fun v => by
    simp only [crcResult, if_true]
    exact Nat.xor_lt_two_pow (hr v) (by decide)
  have : (formCheck s d 1 row f bs).1 = (BitVec.ofNat 64 (crcResult 32 true true _)).toNat := rfl
  rw [this, BitVec.toNat_ofNat]
  exact Nat.lt_of_le_of_lt (Nat.mod_le _ _) (hx _)

/-- Bytes 508 to 511 of an image do not enter its check, nor does the state but for the unit's registers. -/
theorem imageCrc_check (c : Nat) (hh : imgHead.length = 508) :
    (imageCrc (tasked pkg0 [stA]) 5 (imgHead ++ bytesOf 4 c ++ imgBody)).1 = (imageCrc lit 5 (imgHead ++ [0, 0, 0, 0] ++ imgBody)).1 := by
  have ht : ∀ x : List Byte, x.length = 4 → (imgHead ++ x ++ imgBody).take 508 = imgHead ∧ (imgHead ++ x ++ imgBody).drop 512 = imgBody := by
    intro x hx
    have h1 : (imgHead ++ x).length = 512 := by rw [List.length_append, hh, hx]
    exact ⟨by rw [List.append_assoc, ← hh, List.take_left], by rw [← h1, List.drop_left]⟩
  have hf : ∀ x : List Byte, fieldAt (imgHead ++ x ++ imgBody) 0x10 8 = fieldAt imgHead 0x10 8 := by
    intro x
    unfold fieldAt
    rw [List.append_assoc, List.drop_append_of_le_length (by rw [hh]; decide), List.take_append_of_le_length (by rw [List.length_drop, hh]; decide)]
  unfold imageCrc
  rw [hf, hf, (ht (bytesOf 4 c) rfl).1, (ht (bytesOf 4 c) rfl).2, (ht [0, 0, 0, 0] rfl).1, (ht [0, 0, 0, 0] rfl).2]
  rfl

theorem meets_ImagesComplete_1_check : (imageCrc (tasked pkg0 [stA]) 5 img0).1 = fieldAt img0 508 4 := by
  have hh : imgHead.length = 508 := by decide +kernel
  have hc : (imageCrc lit 5 (imgHead ++ [0, 0, 0, 0] ++ imgBody)).1 < 2 ^ 32 := crc32_lt _ _ _ _ _
  unfold img0
  rw [fieldAt_check _ _ _ hh hc, imageCrc_check _ hh]

def stL : Stream := { stR with life := .leaving, swap := some ⟨req0, 0x200, false, none, true, false⟩ }
def stI : Stream := { stR with initJob := some ⟨36, 0x400, false, none, req0⟩ }

def stIp : Stream := { stI with pins := [(4, 1)] }
theorem meets_ImagesComplete_2 : (memWf (tasked pkg0 [stL]).dp.ext ∧ findStream (tasked pkg0 [stL]) 5 = some stL ∧ stL.life = .leaving ∧ stL.lost = false ∧
      ∀ r ∈ committedList pkg0 stL, rowMarks (tasked pkg0 [stL]).dp r = []) ∧
    findStream (tasked pkg0 [stI]) 5 = some stI ∧ pinsOf stI = 0 ∧ memWf (tasked pkg0 [stI]).dp.dev ∧
    findStream (tasked pkg0 [stIp]) 5 = some stIp ∧ pinsOf stIp ≠ 0 := by decide +kernel

/-! ### The control processors -/

/-- Core 7's control processor runs; it holds the dispatch record of tick 4 and a queue of two commands. -/
def cpState : State :=
  { lit with cps := vset lit.cps 7 { procReset with released := true },
             dp := dpReset.modCore 7 (fun x => { x with dispNext := some { dispReset with seq := 4 }, queues := vset x.queues 3 { engqReset with cmds := [0, 0], rel := 511 } }) }

theorem meets_ControlProcessorCommands : cpRuns cpState 7 = true ∧ (coreOf cpState 7).cpWait = [] ∧ cpState.dp.metering = false ∧
    (let e := vget (coreOf cpState 7).queues 3
     releaseTick (coreOf cpState 7) e = some 4 ∧ (∀ b ∈ e.blocks, b.1 ≠ 4) ∧ (e.blocks.map (fun b => b.2)).sum + ((1 : BitVec 9) - 511).toNat ≤ e.cmds.length ∧
     e.cmds.length < (e.blocks.map (fun b => b.2)).sum + ((8 : BitVec 9) - 511).toNat ∧
     releaseTick (coreOf lit 0) (vget (coreOf lit 0).queues 0) = none) ∧
    cpRuns cpState 6 = false := by decide +kernel

/-- The same with its planned cycles metered at a limit, and with a write that waits for room in a full queue. -/
def cpPkg : Package := { pkg0 with plans := List.replicate 8 { plan0 with planned := [1, 1, 1, 9] } }
def cpMetered (lim : W32) : State :=
  { cpState with sp := { cpState.sp with task := some ⟨cpPkg, 0, 0, false⟩ },
                 dp := { cpState.dp with metering := true, meters := vset cpState.dp.meters 7 { vget cpState.dp.meters 7 with lim := lim } } }
def cpWaiting (n : Nat) : State :=
  { cpState with dp := cpState.dp.modCore 7 (fun x =>
      { x with cpWait := [.queueWrite 7 .de 0], queues := vset x.queues 3 { vget x.queues 3 with cmds := List.replicate n 0 } }) }

theorem meets_ControlProcessorCommands_meter : plannedCycles (cpMetered 9) 7 .de = 9 ∧ (cpMetered 9).dp.metering = true ∧
    (vget (cpMetered 9).dp.meters 7).queue = [] ∧ isEarlySeq (cpMetered 9) 4 = false ∧
    (vget (cpMetered 9).dp.meters 7).count + 9 ≤ (vget (cpMetered 9).dp.meters 7).lim.toNat ∧
    (vget (cpMetered 8).dp.meters 7).lim.toNat < (vget (cpMetered 8).dp.meters 7).count + 9 := by decide +kernel

theorem meets_ControlProcessorCommands_wait : cpRuns (cpWaiting 512) 7 = true ∧ (coreOf (cpWaiting 512) 7).cpWait = [.queueWrite 7 .de 0] ∧
    ¬((vget (coreOf (cpWaiting 512) 7).queues (queueIndex .de)).cmds.length < 512) ∧
    (vget (coreOf (cpWaiting 511) 7).queues (queueIndex .de)).cmds.length < 512 := by decide +kernel

/-! ### Loading -/

def loadD : LoadDesc := let d : LoadDesc := ⟨0, 1, 0, 0x200, 64, [], 0⟩; { d with crc := crcOf (bodyBytes 3 0 1 (loadBody d)) }
def bareD (type : Byte) : BareDesc := ⟨0, 1, 0, [], crcOf (bodyBytes type 0 1 [])⟩
def loading (q : Option Package) : State := { rung with sp := { spReset with load := some ⟨1, 0, 0, 0x200, 64, q⟩ } }

theorem meets_LoadCommands_load : descReady rung 0 (bodyBytes 3 0 1 (loadBody loadD)) loadD.crc ∧ loadOk loadD = true ∧ rung.twn.state = .unpaired ∧ rung.sp.task = none ∧
    rung.sp.load = none ∧ rung.tkc.run = false := by unfold descReady; decide +kernel

/-- After a task of owner n. -/
def after (n : Byte) (s : State) : State := { s with sp := { s.sp with lastOwner := some n } }

/-- The package passes every check; with a wrong signature it fails with SIGNATURE. -/
theorem meets_LoadCommands_check : spServes (loading none) = true ∧ (checkPackage (loading none) (sealed pkg0)).1 = none ∧
    (checkPackage (loading none) { pkg0 with sigOk := false }).1 = some ⟨0xF, 2, none⟩ ∧
    ownerChanges (loading none) (ownerOf (sealed pkg0)) = false ∧ ownerChanges (after 1 (loading none)) (ownerOf (sealed pkg0)) = true ∧
    (checkPackage (after 1 (loading none)) (sealed pkg0)).1 = none := by decide +kernel

theorem meets_LoadCommands_fill : (loading (some pkg0)).tkc.active = false ∧ spServes (loading (some pkg0)) = true ∧ (loading (some pkg0)).sp.scrub = 0 ∧
    (loading (some pkg0)).sp.cmScrub = 0 ∧ scrubWait (loading (some pkg0)) sloeRows = 0 ∧ clockRuns (loading (some pkg0)) = true ∧
    (fillDp (loading (some pkg0)) pkg0).2 = [] ∧ (∀ y ∈ fillRows pkg0, y.1 < 0x40000) ∧ pkg0.plans[(0 : BitVec 3).toNat]? = some plan0 ∧
    memWf (loading (some pkg0)).dp.dev := by decide +kernel

/-- A package whose VE block has two VADDs, the second `delta` cycles behind the first. -/
def vePkg (delta : W16) (f : VArithF) : Package :=
  let words := [Instr.vadd i0 arith0, .vadd ⟨0, { h0 with delta := delta }, 0⟩ f].filterMap encodeCmd
  sealed { pkg0 with plans := [{ plan0 with blocks := [[], [], words, []], pkts := [[], [], [0, 0], []] }] }

/-- 08_vector_engine, R175 and Table 11-4: a VE command that issues while its predecessor occupies the engine fails check 0x30, at core 0,
queue 2, index 1. -/
theorem test_loader_spacing : (checkPackage (loading none) (vePkg 0 arith0)).1 = some ⟨8, 0x30, some (0, .ve, 1)⟩ := by decide +kernel

/-- 08_vector_engine, R171: a register read before the tick writes it fails check 0x32. -/
theorem test_loader_reads : (checkPackage (loading none) (vePkg 1 arith0)).1.map (fun f => f.reason) = some 0x32 := by decide +kernel

/-- A body of TYPE 2 whose operation, 9, is reserved. -/
def op9 : BareDesc := let d : BareDesc := ⟨0, 1, 0, [9], 0⟩; { d with crc := crcOf (stateBytes (stateOfBody d).1 (stateOfBody d).2) }

theorem meets_LoadCommands_bare : (descReady (tasked pkg0 []) 0 (bodyBytes 4 0 1 []) (bareD 4).crc ∧ bareOk (bareD 4) = true ∧ (tasked pkg0 []).sp.task ≠ none ∧
      (tasked pkg0 []).tkc.run = false ∧ (tasked pkg0 []).tkc.active = false ∧ memWf (settleData (tasked pkg0 [])).dp.dev) ∧
    descReady rung 0 (bodyBytes 5 0 1 []) (bareD 5).crc ∧ bareOk (bareD 5) = true ∧ descReady rung 0 (bodyBytes 6 0 1 []) (bareD 6).crc ∧
    descReady rung 0 (bodyBytes 0 0 1 []) (bareD 0).crc ∧
    (¬(1 ≤ (stateOfBody op9).1.toNat ∧ (stateOfBody op9).1.toNat ≤ 8) ∧ descReady rung 0 (stateBytes (stateOfBody op9).1 (stateOfBody op9).2) op9.crc) := by
  unfold descReady; decide +kernel

/-! ### The tick -/

/-- A tick runs, at TU `time` after its boundary, with record r. -/
def ticking (time : Nat) (r : Option TickRec) (s : State := lit) : State :=
  { s with tkc := { s.tkc with run := true, active := true, seq := 4, time := time, phase := 1 }, sp := { s.sp with cur := r } }

/-- The record of tick 4. -/
def rec4 : TickRec :=
  { seq := 4, early := false, predicted := false, confirmed := false, refused := none, cmd := none, ctl := none, errs := [], dispatched := false, computing := false,
    passive := false, sealed := false, vdDone := false, sts := [], coreStatus := [], sloe := false, done := false, unlisted := 0 }

theorem meets_TickControlWrites : (lit.tkc.run = false ∧ lit.tkc.active = false ∧ lit.tkc.stopAt = false ∧ lit.twn.state ≠ .fenced ∧ tkcLegal lit.tkc = true ∧
      lit.tkc.outEn = false ∧ lit.err.ownTout = 0 ∧ vget lit.err.ownLast 2 = none) ∧
    (let e : Err := { lit.err with ownTout := 2, ownLast := vset lit.err.ownLast 2 (some ⟨true, true, lit.dp.cycle⟩) }
     e.ownTout = 2 ∧ vget e.ownLast 2 = some ⟨true, true, lit.dp.cycle⟩) ∧
    tkcLegal { lit.tkc with period := 49999 } = false ∧ tkcLegal { lit.tkc with period := 1600000 } = true ∧ tkcLegal { lit.tkc with period := 1600001 } = false ∧
    (ticking 0 (some rec4)).tkc.run = true ∧ (ticking 0 (some rec4)).tkc.active = true ∧
    ({ lit.tkc with outEn := true } : Tkc).outEn = true ∧ (true, true) ≠ (lit.tkc.src, lit.tkc.fly) ∧ ticksOff lit = true ∧ ticksOff (ticking 0 (some rec4)) = false := by
  decide +kernel

/-- A stop under way before its boundary, with ticks running and with the first boundary placed; the last tick ending. -/
theorem meets_TickControlWrites_cancel : (let s := { ticking 5 (some rec4) with tkc := { (ticking 5 (some rec4)).tkc with run := false, stopAt := true } }
      s.tkc.run = false ∧ s.tkc.stopAt = true ∧ s.tkc.active = true ∧ s.tkc.ending = false) ∧
    (let s := { lit with tkc := { lit.tkc with startIn := some 9, stopAt := true } }
     s.tkc.run = false ∧ s.tkc.stopAt = true ∧ s.tkc.active = false) ∧
    (let s := { ticking 5 (some rec4) with tkc := { (ticking 5 (some rec4)).tkc with run := false, ending := true } }
     s.tkc.run = false ∧ s.tkc.active = true ∧ s.tkc.ending = true) ∧
    (let s := { lit with tkc := { lit.tkc with run := true, src := true, extWait := true } }
     s.tkc.run = true ∧ s.tkc.active = false ∧ s.tkc.startIn = none ∧ s.tkc.edgeIn = none) := by decide +kernel

/-- A boundary that a start places, one at which a stop takes effect, the flywheel's, and the wait without it. -/
def starting : State := { lit with tkc := { lit.tkc with run := true, startIn := some 64 } }
def stopping : State := let s := ticking 399999 none; { s with tkc := { s.tkc with run := false, stopAt := true } }
def edges (fly : Bool) : State := let s := ticking 400000 none; { s with tkc := { s.tkc with src := true, fly := fly } }

theorem meets_BoundaryStartsTick_start : boundaryWait starting = some 64 ∧ mayReach starting 64 = true ∧ (let u := starting.pass 64
    frozen u = false ∧ u.dbg.haltPend = false ∧ u.dbg.stepTick = false ∧ u.twn.state = .unpaired ∧ u.twn.change = none ∧ u.sp.early = none ∧ u.tkc.stopAt = false) := by
  decide +kernel

theorem meets_BoundaryStartsTick_stop : boundaryWait stopping = some 1 ∧ mayReach stopping 1 = true ∧ (let u := stopping.pass 1
    frozen u = false ∧ u.dbg.haltPend = false ∧ u.dbg.stepTick = false ∧ u.twn.state = .unpaired ∧ u.twn.change = none ∧ u.sp.early = none ∧ u.tkc.stopAt = true ∧
    u.tkc.active = true) := by decide +kernel

/-- A stop written before the first boundary. -/
def stoppedEarly : State := { lit with tkc := { lit.tkc with stopAt := true, startIn := some 64 } }
theorem meets_BoundaryStartsTick_first : boundaryWait stoppedEarly = some 64 ∧ mayReach stoppedEarly 64 = true ∧ (let u := stoppedEarly.pass 64
    frozen u = false ∧ u.dbg.haltPend = false ∧ u.dbg.stepTick = false ∧ u.twn.state = .unpaired ∧ u.twn.change = none ∧ u.sp.early = none ∧ u.tkc.stopAt = true ∧
    u.tkc.active = false) := by decide +kernel

theorem meets_BoundaryStartsTick_flywheel : awaitsEdge (edges true) = true ∧ mayReach (edges true) (cyclesTo (edges true) (flyLimit (edges true))) = true ∧
    (let u := (edges true).pass (cyclesTo (edges true) (flyLimit (edges true)))
     frozen u = false ∧ u.dbg.haltPend = false ∧ u.dbg.stepTick = false ∧ u.twn.state = .unpaired ∧ u.twn.change = none ∧ u.sp.early = none ∧ u.tkc.stopAt = false) ∧
    awaitsEdge (edges false) = true ∧ mayReach (edges false) (cyclesTo (edges false) (flyLimit (edges false))) = true ∧
    frozen ((edges false).pass (cyclesTo (edges false) (flyLimit (edges false)))) = false := by decide +kernel

/-- Early start is on. -/
def spec (s : State) : State := { s with fwr := { s.fwr with spec := { s.fwr.spec with early := true } } }

theorem meets_EdgesAndEarlyIntake : (frozen (edges true) = false ∧ (edges true).tkc.src = true ∧ edgeAccepted (edges true) = true) ∧
    edgeAccepted { edges true with tkc := { (edges true).tkc with time := 359999 } } = false ∧ lit.tkc.src = false ∧
    (let s := spec (ticking 0 (some rec4))
     s.sp.cur ≠ none ∧ s.sp.early = none ∧ noEarly s = false ∧ s.tkc.active = true) ∧
    (let s := spec (ticking 0 (some { rec4 with dispatched := true, computing := true }))
     s.sp.cur ≠ none ∧ noEarly s = false ∧ canReach s s.fwr.spec.ofs.toNat = true ∧ frozen (reach s s.fwr.spec.ofs.toNat) = false) := by decide +kernel

/-- A resident stream at the package's place. -/
def stP : Stream := { stR with placeNext := some 0 }
def rec4c : TickRec := { rec4 with ctl := some ⟨[], []⟩ }
def dispatching : State := ticking 0 (some rec4c) (tasked pkg0 [{ stP with window := [[]] }])
def rec4d : TickRec := { rec4 with dispatched := true }
def beginning : State :=
  let s := ticking 16000 (some rec4d) (tasked pkg0 [stP])
  { s with dp := s.dp.modCore 0 (fun x => { x with dispNext := some { dispReset with seq := 4 } }) }

theorem meets_DispatchAndCompute_dispatch : let s := dispatching
    s.sp.cur = some rec4c ∧ s.tkc.active = true ∧ canReach s s.tkc.dispOfs.toNat = true ∧ (let u := reach s s.tkc.dispOfs.toNat
    u.sp.cur = some rec4c ∧ rec4c.sts = [] ∧ u.sp.early = none ∧ frozen u = false ∧ u.twn.state = .unpaired ∧ s.sp.streams = u.sp.streams) := by decide +kernel

theorem meets_DispatchAndCompute_compute : let s := beginning
    s.sp.cur = some rec4d ∧ rec4d.passive = false ∧ canReach s s.tkc.compOfs.toNat = true ∧ (let u := reach s s.tkc.compOfs.toNat
    u.sp.cur = some rec4d ∧ u.sp.early = none ∧ frozen u = false ∧ publishBehind u rec4d.seq = false ∧ u.twn.state = .unpaired ∧ canBegin u 4 0 false = true ∧
      canBegin u 4 1 false = false) := by decide +kernel

/-- The tick computes and the early tick 5 waits for its dispatch. -/
def earlyWaits (l : List Stream) : State :=
  let s := spec (ticking 298000 (some { rec4d with computing := true }) (tasked pkg0 l))
  { s with sp := { s.sp with early := some { rec4 with seq := 5, early := true } } }

theorem meets_DispatchAndCompute_early : let s := earlyWaits []
    s.sp.early = some { rec4 with seq := 5, early := true } ∧ canReach s (s.fwr.spec.ofs.toNat + s.tkc.dispOfs.toNat) = true ∧
    (let u := reach s (s.fwr.spec.ofs.toNat + s.tkc.dispOfs.toNat)
     u.sp.early = some { rec4 with seq := 5, early := true } ∧ u.sp.cur = some { rec4d with computing := true } ∧ rec4d.seq ≠ 5 ∧ frozen u = false ∧
       earlyReady u = true ∧ noEarly u = false) ∧
    (let s := { earlyWaits [] with sp := { (earlyWaits []).sp with pubs := [rec4] } }
     canReach s (s.fwr.spec.ofs.toNat + s.tkc.dispOfs.toNat) = true ∧ earlyReady (reach s (s.fwr.spec.ofs.toNat + s.tkc.dispOfs.toNat)) = false) := by decide +kernel

/-- A stream-tick of stream 5. -/
def stTick : StreamTick :=
  { stream := 5, place := 0, chain := 0, seqs := [4], kind := none, cuIdx := none, window := [], ctl := ⟨0, false, false⟩, out := .running, late := false, lrnRan := false,
    srcBloom := 0, dstBloom := 0, fromDst := false, srcBad := false, mism := false }
/-- The example of R303: C3 was late for place 17, no core caused the skip of place 40. -/
theorem test_core_status : (let sts := [{ stTick with place := 17, out := .skipped }, { stTick with place := 40, out := .skipped }]
    let t : TickRec := noteCore 4 3 1 (fun y => y.place == 17) { rec4d with sts := sts }
    coreStatusByte t sts 3 = 1 ∧ coreStatusByte t sts 2 = 0 ∧ coreStatusByte t (sts.drop 1) 3 = 0 ∧
      coreStatusByte (noteCore 4 3 7 (fun y => y.place == 17) t) sts 3 = 7) := by decide

def rec4p : TickRec := { rec4d with computing := true, sts := [stTick] }

theorem meets_PitCommitsWhatFinished : let s := ticking 300000 (some rec4p) (tasked pkg0 [stP])
    s.sp.cur = some rec4p ∧ canReach s s.tkc.deadOfs.toNat = true ∧ s.sp.early = none ∧ (let u := reach s s.tkc.deadOfs.toNat
    u.sp.cur = some rec4p ∧ frozen u = false ∧ u.twn.state = .unpaired ∧ rec4p.early = false ∧ rec4p.predicted = false ∧ taskPkg u = some pkg0 ∧ u.sp.early = none ∧
      (u.sp.streams.map (fun x => x.id)).Nodup ∧ (rec4p.sts.map (fun y => y.stream)).Nodup ∧ u.dp.ecc = []) := by decide +kernel

def cmd4 : TickCmd := { tag := 1, sq := 0, q := 0, vdim := [], ctlAddr := 0, ctlRows := 0, ctlCrc := 0, port := false, ctlWait := false, ctlTicket := none }
def publishing (d : Bool) : State :=
  let s := tasked pkg0 [stP]
  { s with sp := { s.sp with pubs := [{ rec4p with cmd := some cmd4, sts := [{ stTick with out := .skipped }], done := d }] } }

theorem meets_PublishQueuesRecords : ((publishing false).fwr.fw.level ≠ 3 ∧ (publishing false).twn.state ≠ .fenced ∧ (publishing false).err.jrnlActive = false ∧
      committedSts { rec4p with cmd := some cmd4, sts := [{ stTick with out := .skipped }] } = [] ∧
      (vget (publishing false).hif.cqs (vget (publishing false).hif.sqs 0).cq).dead = false) ∧
    tickRecordsWait (publishing true) = false ∧ (publishing true).tkc.ending = false ∧ (publishing true).hif.evt.room = true := by decide +kernel

theorem meets_KillEndsTask : spServes (tasked pkg0 [stP]) = true ∧ (tasked pkg0 [stP]).hif.evt.room = true ∧ (tasked pkg0 [stP]).tkc.active = false ∧
    memWf (settleData (tasked pkg0 [stP])).dp.dev ∧ spServes State.reset = false := by decide +kernel

/-! ### What arrives for a tick -/

def tickD (n : W64) : TickDesc :=
  let d : TickDesc := ⟨0, 1, 0, n, 0, 0, [], 0, 0, 0, 0, 0⟩
  { d with crc := crcOf (tickBytes d) }
def intake (l : List Stream) (p : Package := pkg0) (r : TickRec := rec4) : State := ticking 0 (some r) (tasked p l)

theorem meets_IntakeTakesWhatArrives_tick : (let s := intake [stP]
      descReady s 0 (tickBytes (tickD 4)) (tickD 4).crc ∧ tickFormOk s (tickD 4) = true ∧ s.hif.tickRing = 0 ∧ s.sp.taken = [] ∧ s.sp.cur = some rec4 ∧
      ¬(s.tkc.seq < (tickD 4).tickSeq) ∧ tickRefusal s (tickD 4) = none) ∧
    (descReady (intake [stP]) 0 (tickBytes (tickD 5)) (tickD 5).crc ∧ (intake [stP]).tkc.seq < (tickD 5).tickSeq) ∧
    descReady (intake [stP] pkg0 rec4d) 0 (tickBytes (tickD 4)) (tickD 4).crc ∧ tickFormOk (intake [stP] pkg0 rec4d) (tickD 4) = true := by
  unfold descReady; decide +kernel

/-- A control block of one row, its check as the descriptor carries it. -/
def ctlCheck : Nat := (formCheck lit 0 1 true 4 (padTo 512 [])).1
def ctlCmd : TickCmd := { cmd4 with ctlAddr := 0x400, ctlRows := 1, ctlCrc := BitVec.ofNat 32 ctlCheck, ctlWait := true }

/-- A number below 2^32 as a word. -/
theorem word_toNat (n : Nat) (h : n < 2 ^ 32) : (BitVec.ofNat 32 n).toNat = n := by rw [BitVec.toNat_ofNat, Nat.mod_eq_of_lt h]

theorem ctlCheck_lt : ctlCheck < 2 ^ 32 := by unfold ctlCheck; exact crc32_lt _ _ _ _ _
theorem ctlCheck_eq : (formCheck lit 0 1 true 4 (padTo 512 [])).1 = ctlCheck := by unfold ctlCheck; with_reducible rfl
theorem ctlCrc_eq : ctlCmd.ctlCrc.toNat = ctlCheck := (congrArg BitVec.toNat (by unfold ctlCmd; with_reducible rfl : ctlCmd.ctlCrc = BitVec.ofNat 32 ctlCheck)).trans (word_toNat _ ctlCheck_lt)
theorem ctlCheck_any : ∀ bs, (formCheck (intake [stP] pkg0 { rec4 with cmd := some ctlCmd }) 0 1 true 4 bs).1 = (formCheck lit 0 1 true 4 bs).1 := fun _ => rfl

theorem meets_IntakeTakesWhatArrives_control_check :
    (formCheck (intake [stP] pkg0 { rec4 with cmd := some ctlCmd }) 0 1 true 4 (padTo 512 [])).1 = ctlCmd.ctlCrc.toNat :=
  (ctlCheck_any _).trans (ctlCheck_eq.trans ctlCrc_eq.symm)

theorem meets_IntakeTakesWhatArrives_control : let r : TickRec := { rec4 with cmd := some ctlCmd }
    let s := intake [stP] pkg0 r
    s.sp.cur = some r ∧ ctlCmd.ctlWait = true ∧ meterHolds s.dp (portMeter ctlCmd.port) ctlCmd.ctlTicket = false ∧
    (List.range (placeCount s)).all (ctlEntryOk []) = true ∧ r.seq = 4 ∧ ctlCmd.ctlRows = 1 := by
  refine ⟨rfl, rfl, rfl, by decide +kernel, rfl, rfl⟩

/-- An adapter of 16 inputs and outputs; a stream that has it; the retention of its tick 2. -/
def ad0 : AdapterDef :=
  ⟨0, 16, 16, 1, ⟨1, 0, 0⟩, 0, 0, 0, 0, 0, 0, 1, 0, 1, 0, 1, 4, 8, 1, 0, 112, [], none⟩
def pkgL : Package := { pkg0 with adapters := [ad0] }
def stLearn : Stream := { stP with adapt := 1 }
def recL (e : ErrFetch) : TickRec := { rec4 with ctl := some ⟨[], [(0, ⟨0, false, true⟩)]⟩, errs := [e] }
def errF : ErrFetch := ⟨4, 0x400, false, none, none⟩
def learning : State :=
  let s := intake [stLearn] pkgL (recL errF)
  { s with sp := { s.sp with retain := [⟨5, 2, true⟩] }, fwr := { s.fwr with lrn := { s.fwr.lrn with enNow := true } } }

def errHead : List Byte := padTo 508 (bytesOf 8 4 ++ bytesOf 2 1)
def errRow : List Byte := padTo 512 (bytesOf 2 5 ++ List.replicate 6 0 ++ bytesOf 8 2)
def errData : List Byte := errHead ++ bytesOf 4 (formCheck lit 0 1 true 4 (errHead ++ errRow)).1 ++ errRow

theorem errBlockOk_of (s : State) (e : ErrFetch) (data : List Byte) (n : Nat) (h : fieldAt data 8 2 = n) (hn : ¬(512 < n ∨ fieldAt data 0 8 ≠ e.seq.toNat))
    (hc : (formCheck s 0 1 true (e.seq.setWidth 32) ((padTo rowBytes data).take 508 ++ padTo (rowBytes * n) (data.drop rowBytes))).1 = fieldAt data 508 4) :
    (errBlockOk s e data).1 = true := by
  unfold errBlockOk
  rw [h, if_neg hn]
  exact decide_eq_true hc

theorem errData_check : (errBlockOk learning errF errData).1 = true := by
  have hh : errHead.length = 508 := by decide +kernel
  have hr : errRow.length = 512 := by decide +kernel
  have hc : (formCheck lit 0 1 true 4 (errHead ++ errRow)).1 < 2 ^ 32 := crc32_lt _ _ _ _ _
  have hf := fieldAt_check errHead errRow _ hh hc
  have hx : ∀ c, (errHead ++ bytesOf 4 c ++ errRow).take 508 = errHead ∧ (errHead ++ bytesOf 4 c ++ errRow).drop 512 = errRow := by
    intro c
    have h1 : (errHead ++ bytesOf 4 c).length = 512 := by rw [List.length_append, hh]; rfl
    exact ⟨by rw [List.append_assoc, ← hh, List.take_left], by rw [← h1, List.drop_left]⟩
  have hl : ∀ c, ((errHead ++ bytesOf 4 c ++ errRow).take 512).take 508 = errHead := by
    intro c; rw [List.take_take]; exact (hx c).1
  have hn : ∀ c, fieldAt (errHead ++ bytesOf 4 c ++ errRow) 8 2 = 1 ∧ fieldAt (errHead ++ bytesOf 4 c ++ errRow) 0 8 = 4 := by
    intro c
    have e : ∀ a n, a + n ≤ 508 → fieldAt (errHead ++ bytesOf 4 c ++ errRow) a n = fieldAt errHead a n := by
      intro a n h
      unfold fieldAt
      rw [List.append_assoc, List.drop_append_of_le_length (by rw [hh]; omega), List.take_append_of_le_length (by rw [List.length_drop, hh]; omega)]
    exact ⟨by rw [e 8 2 (by decide)]; decide +kernel, by rw [e 0 8 (by decide)]; decide +kernel⟩
  have hp : ∀ c, (padTo rowBytes (errHead ++ bytesOf 4 c ++ errRow)).take 508 = errHead := by
    intro c
    unfold padTo
    rw [List.take_append_of_le_length (by rw [List.length_take, List.length_append, List.length_append, hh, hr]; exact (by decide : 508 ≤ min 512 (508 + 4 + 512))),
      show rowBytes = 512 from rfl]
    exact hl c
  have hq : padTo (rowBytes * 1) errRow = errRow := by
    unfold padTo
    rw [hr, show rowBytes * 1 = 512 from rfl, List.take_of_length_le (by omega)]; simp
  have hk : ∀ bs, (formCheck learning 0 1 true 4 bs).1 = (formCheck lit 0 1 true 4 bs).1 := fun _ => rfl
  have hd : ∀ c, (errHead ++ bytesOf 4 c ++ errRow).drop rowBytes = errRow := fun c => (hx c).2
  have he : errData = errHead ++ bytesOf 4 (formCheck lit 0 1 true 4 (errHead ++ errRow)).1 ++ errRow := rfl
  refine errBlockOk_of _ _ _ 1 (by rw [he]; exact (hn _).1) (by rw [he, (hn _).2]; decide) ?_
  rw [he, hp, hd, hq, hf]
  exact hk _

theorem meets_IntakeTakesWhatArrives_error : let s := learning
    s.sp.cur = some (recL errF) ∧ (recL errF).ctl.isSome = true ∧ meterHolds s.dp (portMeter errF.port) errF.ticket = false ∧
    meterHolds s.dp (portMeter errF.port) errF.more = false ∧ s.dp.metering = false ∧
    (recL errF).errs = [errF] ∧ taskPkg s = some pkgL ∧ findStream s 5 = some stLearn ∧ memWf s.dp.dev ∧ streamAdapter pkgL stLearn = some (0, ad0) ∧
    (∀ n < retRows ad0 + 1, rowMarks s.dp (retRow ad0 (stLearn.place.getD 0) 2 + n) = [] ∧ retRow ad0 (stLearn.place.getD 0) 2 + n ∉ [0, 1]) ∧
    (∀ n < retRows ad0 + 2, pkgL.lrnBase + freeLrnSlot s * lrnRows pkgL + n ∉ [pkgL.errBase, pkgL.errBase + 1]) ∧ pkgL.errBase = 0 ∧
    entryRefusal s (recL errF) [] errRow = none ∧ entryRefusal s (recL errF) [] (padTo 512 [5]) = some 3 ∧ entryRefusal s (recL errF) [] (padTo 512 [6]) = some 2 := by
  decide +kernel

theorem meets_IntakeTakesWhatArrives_data : errData.length = 1024 ∧ fieldAt errData 8 2 = 1 ∧ errData.drop 512 = errRow := by
  have hh : errHead.length = 508 := by decide +kernel
  have hr : errRow.length = 512 := by decide +kernel
  have h1 : ∀ c, (errHead ++ bytesOf 4 c).length = 512 := by intro c; rw [List.length_append, hh]; rfl
  refine ⟨by unfold errData; rw [List.length_append, h1, hr], ?_, by unfold errData; rw [← h1, List.drop_left]⟩
  unfold errData fieldAt
  rw [List.append_assoc, List.drop_append_of_le_length (by rw [hh]; decide), List.take_append_of_le_length (by rw [List.length_drop, hh]; decide)]
  decide +kernel

theorem meets_IntakeTakesWhatArrives_landing : (let x := { stP with embFly := true }
     findStream (intake [x]) 5 = some x ∧ meterHolds (intake [x]).dp (portMeter (embPort x)) x.embTicket = false ∧ memWf (intake [x]).dp.dev ∧
       taskPkg (intake [x]) = some pkg0 ∧ embCore (intake [x]) pkg0 x = some 0) ∧
    sinReason (intake [stP]) 0 5 [] true = none ∧ (intake [stP]).sp.early = none ∧ sinReason (intake [stP]) 0 6 [] true = some 2 ∧ sinReason (intake [stP]) 0 5 [1] true = some 3 := by
  decide +kernel

/-! ### Faults and recovery -/

/-- Core 0 of the chain is held on gate g by command c at the head of queue q. -/
def heldOn (g : BitVec 3) (c : Instr) (q : Queue) (p : Package := pkg0) (f : Core → Core := id) : State :=
  let s := due c q (fun x => f { x with hold := some ⟨g, q, 1 <<< (queueIndex q).toNat, 0, 0, 0⟩ })
  { s with sp := { spReset with task := some ⟨p, 0, 0, false⟩ } }

def fw1 : Instr := .fwait i0 .se 3 false true false 9
/-- The limit of the wait is its own; one failed wait ends the hold of the core. -/
theorem meets_FaultsAndRecovery_wait : (holdEnds (heldOn 2 fw1 .se) 0 .se 2).map (fun x => (x.2, chainOf x.1 0)) = some (fw1, some 0) ∧
    (holdEnds (heldOn 2 fw1 .se) 0 .se 2).map (fun x => failedWaits x.1) = some [(0, .se, fw1)] := by decide +kernel

/-- Two waits of a core that fail in one cycle: the SE's holds it, and the VE's is due with it. -/
def twoWaits : State :=
  heldOn 2 fw1 .se pkg0 (fun x => { x with
    hold := some ⟨2, .se, 6, 0, 0, 8⟩,
    queues := vset x.queues 2 { vget x.queues 2 with cmds := (encodeCmd (.fwait i0 .ve 4 false true false 9)).toList, blocks := [(1, 1)], got := true } })
theorem meets_FaultsAndRecovery_waits : (holdEnds twoWaits 0 .se 2).map (fun x => failedWaits x.1) =
    some [(0, .se, fw1), (0, .ve, .fwait i0 .ve 4 false true false 9)] := by decide +kernel

theorem meets_FaultsAndRecovery_tile : ((holdEnds (heldOn 1 (.mm i0 mm0) .me) 0 .me 1).map (fun x => (x.2, chainOf x.1 0))) = some (.mm i0 mm0, some 0) := by decide +kernel

/-- A gated move for packet 0, whose row 0 a stream of the tick has that is not resident. -/
def gated : Instr := .dmove ⟨0, { h0 with resgate := true }, 0⟩ dmove0
def recG : TickRec := { rec4d with computing := true, sts := [stTick] }
def gateHeld : State :=
  let s := heldOn 4 gated .de pkg0 (fun x => { x with tick := 4, disp := { x.disp with pkts := [⟨0, 1, 0, 0, []⟩] }, queues := vset x.queues 3 { vget x.queues 3 with blocks := [(4, 1)] } })
  { s with sp := { s.sp with streams := [st0], cur := some recG } }

theorem meets_FaultsAndRecovery_gate : ((holdEnds gateHeld 0 .de 4).map (fun x => (x.2, x.1.sp.early, x.1.sp.cur, (coreOf x.1 0).tick, isResident x.1 5))) =
    some (gated, none, some recG, 4, false) := by decide +kernel

/-- The chain's one core waits for a flag with a limit of its own far off. -/
def stuck : State := heldOn 2 (.fwait i0 .se 3 false true false 0xFFFFFF) .se
theorem meets_FaultsAndRecovery_stuck : let s := { stuck with dp := stuck.dp.modCore 0 (fun x => { x with queues := x.queues.map (fun q => { q with got := true }) }) }
    noProgress s 0 = true ∧ mayReach s npdLimit = true ∧ frozen (s.pass npdLimit) = false ∧ npdLimit ≤ (s.pass npdLimit).sp.npd.getD 0 0 ∧
    (chainCores (s.pass npdLimit) 0).find? (fun c => heldByWait (coreOf (s.pass npdLimit) c)) = some 0 := by decide +kernel

/-- Chain 0 waits for its restart, with a restore that its fault asked for; a W-class row of its core fails to check. -/
def restarting : State :=
  let s := tasked pkg0 []
  { s with sp := { s.sp with restarts := [⟨0, true, false⟩] },
           dp := { s.dp with ecc := [⟨32 * coreRow 0 3, .uncorrectable, true, false⟩] } }
theorem meets_FaultsAndRecovery_restart : (restarting.fwr.fw.level ≠ 3 ∧ mayReach restarting (landingsEnd restarting) = true ∧
      restarting.sp.restarts.find? (fun x => x.chain == 0) = some ⟨0, true, false⟩) ∧
    (let u := restarting.pass (landingsEnd restarting)
     frozen u = false ∧ chainDrained u 0 = true ∧ memWf u.dp.dev ∧
     ([(coreRow 0 3, [1])] : List (Nat × List Byte)).filter (fun x => (rowMarks u.dp x.1).any (fun m => m.unc && m.w)) = [(coreRow 0 3, [1])] ∧
     coreRow 0 3 < 0x40000 ∧ coreRow 0 3 % 0x4000 < 12288 ∧ rowCore (coreRow 0 3) ∈ chainCores u 0) := by decide +kernel

def entry0 : ErrEntry := { rep := deviceReport 1 2 0 3 4, repeats := 0, seq := 1, time := 2, unrecov := false, opened := true, charged := false }
theorem meets_FaultsAndRecovery_drain : let s := { rung with err := { rung.err with fifo := [entry0] }, hif := { rung.hif with err := { pringReset with enable := true } } }
    s.err.fifo[s.hif.err.waiting.length]? = some entry0 ∧ s.hif.err.room = true ∧ s.err.fifoTicket = none ∧ s.dp.metering = false ∧
    meterHolds s.dp 10 none = false := by decide +kernel

/-! ### Firmware -/

/-- Every processor runs with a watchdog of 100 µs; a task is loaded. -/
def running : State :=
  let r : ProcRec := { procReset with released := true, wdPeriod := 100 }
  { tasked pkg0 [] with xp := r, pp := r, spp := r, cps := Vector.replicate 8 r }

theorem meets_FirmwareEvents_processors : procRuns running (.cp 0) = true ∧ (vget running.cps 0).wdPeriod ≠ 0 ∧ (vget running.cps 0).lastExp = none ∧
    mayReach running ((watchdogLeft (vget running.cps 0) + tuStep running - 1) / tuStep running) = true ∧ chainOf running 0 = some 0 ∧
    (let u := running.pass ((watchdogLeft (vget running.cps 0) + tuStep running - 1) / tuStep running)
     u.fwr.fw.level ≠ 3 ∧ (vget u.cps 0).lastExp = none ∧ chainOf u 0 = some 0) ∧
    (∀ p ∈ [Proc.xp, .pp, .sp], procRuns running p = true ∧ (getProc running p).wdPeriod ≠ 0) ∧ (∀ k, Proc.xp ≠ .cp k) ∧
    procOfSource 3 = some (.cp 0) ∧ running.spp.released = true ∧ running.fwr.fw.logs.length < 64 ∧ running.fwr.fw.logLevel.toNat < 4 := by decide +kernel

theorem meets_FirmwareEvents_trace : (let s := { lit with dbg := { dbgReset with trace := true } }
      s.fwr.fw.drainEn = false ∧ s.dbg.trace = true ∧ (tracePart s.fwr.fw true).length < traceCap s.fwr.fw) ∧
    (let s := { lit with fwr := { lit.fwr with fw := { lit.fwr.fw with trcEn := true, trcMask := 1, trace := List.replicate 4096 ⟨false, []⟩ } } }
     s.fwr.fw.trcEn = true ∧ s.fwr.fw.trcMask.getLsbD 0 = true ∧ traceCap s.fwr.fw ≤ (tracePart s.fwr.fw false).length ∧ s.fwr.fw.trcWrap = false) := by decide +kernel

def queued (n : Nat) : State := { running with fwr := { running.fwr with queue := List.replicate n ⟨0x8240, 0x1000, 4000, false⟩ } }
theorem meets_FirmwareEvents_writes : (0x8E00 : W16) &&& 3 = 0 ∧ fwrDefined 0x8E00 = true ∧ (queued 15).fwr.queue.length < 16 ∧ 16 ≤ (queued 16).fwr.queue.length ∧
    spServes (queued 1) = true ∧ (queued 1).spp.released = true ∧ clockRuns (queued 1) = true ∧ ((queued 1).fwr.queue.find? (fun x => !x.late)).isSome = true ∧
    mayReach (queued 1) ((4000 + tuStep (queued 1) - 1) / tuStep (queued 1)) = true := by decide +kernel

/-! ### Registers, check units, boot and power -/

theorem meets_RingsAndRegisters : ((vget rung.hif.sqs 0).enable = true ∧ (0 : Nat) % 4096 < (vget rung.hif.sqs 0).size ∧ (vget rung.hif.sqs 0).size ≤ 16 % 4096 ∧
      (vget rung.hif.sqs 1).enable = false) ∧
    ((0x1A : W32).getLsbD 4 = true ∧ sizeOk 10 = true ∧ (10 : BitVec 4) ≠ (vget rung.hif.sqs 0).sizeLog2) ∧
    ((getRing rung (.cq 1)).isSome = true ∧ ((getRing rung (.cq 1)).map (fun r => r.enable)) = some false ∧ getRing rung .evt = some { pringReset with enable := true }) ∧
    (let s := { rung with hif := { rung.hif with evt := { pringReset with enable := true, tail := 15, head := 8, waiting := [⟨[7], 1, true, none, false⟩] } } }
     ((getRing s .evt).map (fun r => mayWrite s .evt r ⟨[7], 1, true, none, false⟩)) = some true ∧ meterHolds s.dp 10 none = false ∧ memWf s.dp.ext ∧
       s.sp.pubs = [] ∧ s.tkc.ending = false ∧ s.dp.metering = false) ∧
    corePresent rung 0 = true ∧ (coreOf rung 0).nflagCyc ≠ rung.dp.cycle + 1 := by decide +kernel

theorem meets_CheckUnitCommands : (getUnit lit (.cu 0 0)).isSome = true ∧ ((getUnit lit (.cu 0 0)).map (fun x => x.src)) = some false ∧
    (let s := { lit with dus := vset lit.dus 0 { vget lit.dus 0 with src := true } }
     ((getUnit s (.du 0)).map (fun x => x.src)) = some true ∧ hasRowFeed (.du 0) = true) ∧
    (vget lit.dus 0).width.toNat ≤ 64 := by decide +kernel

/-- An image of one section of 64 bytes for the PP, under one region. -/
def bootImg : List Byte :=
  padTo 0x240 (bytesOf 4 0x54524657 ++ bytesOf 2 1 ++ bytesOf 2 1 ++ bytesOf 4 768 ++ bytesOf 4 5 ++ [1, 0] ++ (List.replicate 4 (bytesOf 2 100)).flatten ++ bytesOf 2 1 ++
    List.replicate 36 0 ++ [1, 0, 0, 0] ++ bytesOf 4 640 ++ bytesOf 4 64 ++ bytesOf 4 0 ++ [0, 0] ++ List.replicate 14 0xFF) ++
    padTo 64 (bytesOf 4 0 ++ [5, 7, 0, 0]) ++ List.replicate 64 9 ++ List.replicate 64 0
def booting : State := { State.reset with sec := { secReset with idShown := true, bootState := 1, bootLen := 768 } }

theorem meets_BootAndReset : (State.reset.sec.bootState = 0 ∧ State.reset.sec.idShown = false ∧ lit.sec.bootState = 0 ∧ lit.sec.idShown = true) ∧
    (booting.sec.bootState = 1 ∧ (let img := padTo booting.sec.bootLen.toNat bootImg
      fieldAt img 0 4 = 0x54524657 ∧ fieldAt img 4 2 = 1 ∧ imgTableOk img booting.sec.bootLen.toNat = true ∧ fieldAt img 0x10 1 = deviceGen.toNat ∧
        imgMpuOk img = true) ∧ memWf booting.pp.mem ∧ memWf booting.spp.mem) ∧
    (lit.sec.attState ≠ 1 ∧ (let s := { lit with sec := { lit.sec with attState := 1, attPend := true, keyReady := true } }
      s.sec.attState = 1 ∧ s.sec.bootState ≠ 6 ∧ s.sec.attPend = true ∧ s.sec.certPend = false ∧ s.sec.keyReady = true ∧ memWf s.dp.ext)) := by decide +kernel

/-- The grant of LOW is awaited; the device is at SLOE, with its scrub behind it, and awaits NOMINAL. -/
def lowAsked : State := { State.reset with pwr := { pwrReset with req := 1 } }
def atSloe : State :=
  { lit with pwr := { lit.pwr with req := 1, gnt := 1, aclkHalf := true }, fwr := { lit.fwr with fw := { lit.fwr.fw with level := 1, scrubFrom := some 0 } },
             dp := { lit.dp with cycle := 500000 } }

theorem meets_PowerCommands : ((0x0DAC : W32).extractLsb' 0 16 = 3500 ∧ (10000 : W16).toNat ≤ 10000 ∧ ((3499 : W32).extractLsb' 0 16).toNat < 3500) ∧
    (lowAsked.fwr.fw.level = 0 ∧ lowAsked.pwr.req = 1 ∧ lowAsked.pwr.gnt = 0 ∧ lowAsked.hif.kill = false ∧ (2 : BitVec 2) ≠ lowAsked.pwr.req ∧
      lowAsked.pwr.gnt.toNat < lowAsked.pwr.req.toNat) ∧
    (let s := { atSloe with pwr := { atSloe.pwr with req := 2 } }
     s.fwr.fw.level = 1 ∧ s.pwr.req = 2 ∧ s.pwr.gnt = 1 ∧ ticksOff s = true ∧ ticksOff { s with tkc := { s.tkc with run := true } } = false ∧
       (0 : BitVec 2).toNat < s.pwr.gnt.toNat ∧ (0 : BitVec 2).toNat < s.pwr.req.toNat) ∧
    lit.pwr.aclkRun = true ∧
    (atSloe.fwr.fw.scrubbed = false ∧ mayReach atSloe (scrubWait atSloe 131072) = true ∧ (let u := atSloe.pass (scrubWait atSloe 131072)
      frozen u = false ∧ u.fwr.fw.level = 1 ∧ holdsAtSloe u = false ∧ u.pwr.gnt = 1 ∧ u.pwr.req = 1)) := by decide +kernel

/-! ### The pair and the debug port -/

/-- The link is up; a twin in a pairing state; a peer whose HELLO agrees. -/
def linked (st : TwnState) (f : Twn → Twn := id) (s : State := lit) : State :=
  { s with twn := f { s.twn with state := st, linkEn := true, rxUp := true, credit := 256 } }
def asking : State :=
  let s := linked .unpaired (fun t => { t with attach := true, mode := 2, skew := some 0 })
  { s with tkc := { s.tkc with src := true } }
def peerHello : HelloInfo := { ownHello asking with role := !(ownHello asking).role }

theorem meets_PairingAndLink : ((linked .unpaired).twn.attach = false ∧ (linked .unpaired).twn.peer = none ∧ linkTakes (linked .unpaired) [helloFrame (ownHello (linked .unpaired))]) ∧
    (asking.twn.change = none ∧ attachOk asking peerHello = true) ∧
    ((linked .mirror).twn.change = none ∧ linkTakes (linked .mirror) [ctrlFrame (linked .mirror).tkc.seq 2 []] ∧ (linked .mirror).twn.down = false ∧
      (0 : Nat) ≤ (linked .mirror).twn.skewMax.toNat ∧ (1 : W64) ≠ (linked .mirror).tkc.seq) ∧
    ((linked .standby (fun t => { t with auto := true })).twn.down = false ∧ (linked .active).twn.quiet = none ∧
      linkTakes (linked .active) [ctrlFrame ((linked .active).tkc.seq + 1) 3 []]) ∧
    (let s := linked .syncing (fun t => { t with role := true, copied := true })
     s.twn.quiet = none ∧ linkTakes s [ctrlFrame (s.tkc.seq + 1) 3 []] ∧ s.tkc.seq.toNat < (1 : W64).toNat) ∧
    (lit.twn.tx = [] ∧ lit.twn.rxUp = false ∧ lit.twn.badFrames ≠ 7) := by
  unfold linkTakes; decide +kernel

/-- A task with one place, its tick before the seal, in mirror mode. -/
def mirrored (role : Bool) (r : TickRec) (f : Twn → Twn := id) : State :=
  linked .mirror (fun t => f { t with role := role }) (ticking 290000 (some r) (tasked pkg0 [stP]))
def mine4 : SigRec := ⟨4, 0, [7], 1⟩

theorem meets_MirrorAndDeltas_seal : let s := { mirrored true rec4p with twn := { (mirrored true rec4p).twn with sigOfs := 295000 } }
    s.sp.cur = some rec4p ∧ taskPkg s = some pkg0 ∧ rec4p.sealed = false ∧ canReach s s.twn.sigOfs.toNat = true ∧
    (let u := reach s s.twn.sigOfs.toNat
     u.sp.cur = some rec4p ∧ frozen u = false ∧ ∀ y ∈ rec4p.sts, ∀ k ∈ outReads pkg0 rec4p.seq y, rowMarks u.dp k = []) := by decide +kernel

theorem meets_MirrorAndDeltas_verdict : (let s := mirrored false rec4p (fun t => { t with mine := [mine4] })
      mine4.seq = s.tkc.seq ∧ s.sp.cur.isSome = true ∧ s.twn.mine.find? (fun x => x.seq == mine4.seq && x.group == mine4.group) = some mine4 ∧
        hasVerdict s mine4.seq mine4.group = false ∧ s.twn.sigs = []) ∧
    (let s := mirrored true rec4p
     s.sp.cur.isSome = true ∧ hasVerdict s s.tkc.seq 0 = false ∧ s.twn.change = none) ∧
    (let s := mirrored false { rec4p with sealed := true }
     s.sp.cur = some { rec4p with sealed := true } ∧ rec4p.vdDone = false ∧ canReach s (s.tkc.deadOfs.toNat - 1000) = true ∧ frozen (reach s (s.tkc.deadOfs.toNat - 1000)) = false) := by decide +kernel

theorem meets_MirrorAndDeltas_test : (let s := linked .selftest (fun t => { t with testLeft := 480000, other := some true }) (tasked pkg0 [])
      s.twn.own = none ∧ mayReach s s.twn.testLeft = true ∧ (let u := s.pass s.twn.testLeft
        frozen u = false ∧ u.twn.other = some true ∧ u.twn.change = none)) ∧
    (linked .selftest).twn.own = none ∧ (linked .selftest).twn.other = none := by decide +kernel

/-- A standby with the stream resident, and an active twin with a frame of its delta left. -/
def standing : State := linked .standby (s := tasked pkg0 [stR])
def sending : State :=
  let s := linked .active (fun t => { t with deltaOf := some 3, deltaLeft := [deltaEnd 3 0 0 false], deltaIds := [5] }) (ticking 300000 (some rec4p) (tasked pkg0 [stP]))
  { s with err := { s.err with ownL3 := 2 } }

theorem meets_MirrorAndDeltas_delta : (isStandby standing = true ∧ taskPkg standing = some pkg0 ∧ findStream standing stR.id = some stR ∧ stR.id ≠ 0xFFFF ∧
      nextSlot pkg0 stR = some 34 ∧ 0 < slotRows pkg0 ∧ pkg0.bloomMap = [] ∧ memWf standing.dp.dev ∧ standing.dp.ecc = [] ∧ standing.twn.rxFrames = (0 : W32).toNat ∧
      standing.twn.rxFrames ≠ (1 : W32).toNat ∧ standing.twn.changes = [] ∧ (standing.sp.streams.map (fun x => x.id)).Nodup) ∧
    (sending.err.ownL3.getLsbD 1 = true ∧ sending.dp.metering = false ∧ sending.twn.deltaOf = some 3 ∧ sending.twn.deltaTicket = none ∧ linkTakes sending sending.twn.deltaLeft) ∧
    (sending.sp.cur = some rec4p ∧ (3 : W64).toNat < rec4p.seq.toNat ∧ canReach sending (sending.tkc.deadOfs.toNat - tuStep sending) = true ∧
      (let u := reach sending (sending.tkc.deadOfs.toNat - tuStep sending)
       frozen u = false ∧ u.twn.state = .active ∧ u.twn.deltaOf = some 3 ∧ u.twn.deltaLeft ≠ [])) := by
  unfold linkTakes; decide +kernel

/-- The port unlocked at a level. -/
def unlocked (level : BitVec 2) (s : State := lit) : State := { s with dbg := { s.dbg with level := level, virell := true } }
def resp1 : UnlockResp := ⟨2, 0, 0⟩

theorem meets_UnlockAndProvisioning : (lit.dbg.level = 0 ∧ (unlocked 1).dbg.level ≠ 0 ∧ lit.dbg.lockout = false ∧ lit.sec.bootState ≠ 6) ∧
    (let s := { lit with dbg := { lit.dbg with resp := some resp1, nonce := some 9, fails := 3 } }
     s.dbg.resp = some resp1 ∧ (s.dbg.nonce.isSome && (resp1.level == 1 || resp1.level == 2)) = true ∧ 3 ≤ s.dbg.fails.toNat) ∧
    (let s := { unlocked 2 with sec := { lit.sec with otp := { lit.sec.otp with done := [] } } }
     s.dbg.virell = true ∧ otpExists (.lifecycle 2) = true ∧ otpIndex (.lifecycle 2) ∉ s.sec.otp.done ∧ otpExists (.lifecycle 3) = false) := by decide +kernel

/-- A debug command of a target, with its address and arguments. -/
def cmdAt (tgt : Byte) (addr arg : BitVec 24 := 0) : DbgCmd := ⟨tgt, addr, arg, 0⟩

/-- Unlocked at level 2 and halted or frozen, in a tick. -/
def standstill (r : RunState) (s : State := ticking 100 none) : State := let u := unlocked 2 s; { u with dbg := { u.dbg with runState := r } }

theorem meets_DebugCommands_run : (lit.dbg.level = 0 ∧ (unlocked 1).dbg.level = 1) ∧ (mayCommand (unlocked 2) 2 ∧ soloTwin (unlocked 2) = true ∧ (unlocked 2).dbg.runState = .run) ∧
    (let s := standstill .halted
     mayCommand s 2 ∧ soloTwin s = true ∧ s.dbg.runState = .halted ∧ s.tkc.active = true ∧ s.tkc.ending = false ∧ s.tkc.src = false ∧ stopped s = true) := by
  decide +kernel

theorem meets_DebugCommands_step : (let s := standstill .frozen (due (.fset i0 .me 5 false) .me)
      mayCommand s 2 ∧ soloTwin s = true ∧ frozen s = true ∧ stepTarget (inCmd s) (cmdAt 0) = some (0, .me, .fset i0 .me 5 false) ∧
        (effectOf (.fset i0 .me 5 false)).isSome = true ∧ (coreOf s 0).cpWait = [] ∧ (gateOf (inCmd s) 0 (.fset i0 .me 5 false)).2 = true) ∧
    (let s := standstill .frozen (due fw1 .se)
     stepTarget (inCmd s) (cmdAt 0 0 1) = some (0, .se, fw1) ∧ (gateOf (inCmd s) 0 fw1).2 = false) := by decide +kernel

theorem meets_DebugCommands_access : (let s := standstill .frozen
      mayCommand s 2 ∧ stopped s = true ∧ Machine.placeOf (inCmd s) (cmdAt 0 5) = .row 5 ∧ s.dp.ecc.find? (fun m => m.gran == 5) = none ∧ memWf s.dp.dev ∧
        isOrchard (5 / 32) = true) ∧
    (let s := standstill .frozen
     let m : EccMark := ⟨5, .corrected, true, false⟩
     ({ s with dp := { s.dp with ecc := [m] } } : State).dp.ecc.find? (fun m => m.gran == 5) = some m ∧ m.unc = false) ∧
    (mayCommand (unlocked 1) 1 ∧ bpAllowed (inCmd (unlocked 1)) ⟨(cmdAt 0 0 0xC8).arg.extractLsb' 3 10, 0, 0⟩ = true ∧ (unlocked 1).dbg.runState = .run) ∧
    ((cmdAt 0 0 0x103).arg.getLsbD 0 = true ∧ (cmdAt 0 0 0x103).arg.getLsbD 1 = true ∧ (cmdAt 0 0 0x103).arg.getLsbD 8 = true ∧
      (cmdAt 0 0 3).arg.getLsbD 8 = false ∧ (unlocked 1).dbg.trace = false ∧ (unlocked 1).dbg.marker = false ∧ (unlocked 1).err.ownTrc = 0 ∧
      (unlocked 1).err.ownTout = 0 ∧ vget (unlocked 1).err.ownLast 0 = none ∧ vget (unlocked 1).err.ownLast 2 = none) := by decide +kernel

/-- A granule of core 0's memory, halted: with no window open to the port, and with one. -/
def portWindow (x : Core) : Core := { x with cm := { x.cm with windows := vset x.cm.windows 0 ⟨0, 64, 0, false, false, true, true⟩ } }
theorem meets_DebugCommands_window : (let s := standstill .halted
      Machine.placeOf (inCmd s) (cmdAt 0x10 96) = .row (32 * coreRow 0 3) ∧ stopped s = true ∧ frozen s = false ∧
        isOrchard (32 * coreRow 0 3 / 32) = false ∧ rowAdmitted s.dp (rowCore (32 * coreRow 0 3 / 32)) .dbg (32 * coreRow 0 3 / 32 % 0x4000) = false) ∧
    (let s : State := { standstill .halted with dp := (standstill .halted).dp.modCore 0 portWindow }
     rowAdmitted s.dp (rowCore (32 * coreRow 0 3 / 32)) .dbg (32 * coreRow 0 3 / 32 % 0x4000) = true) := by decide +kernel

theorem meets_ExecLeavesQueue : ∃ t, exec .tapReset { lit with pending := [.idcode] } = .next t := ⟨_, rfl⟩

/-- A format entry whose BLK is 7 stops the command that names it; an entry that nothing has filled does not. -/
theorem meets_ExecLeavesQueue_stop : issOf (.vld i0 { vmem0 with fmti := 4 }) = some i0 ∧ (Instr.vld i0 { vmem0 with fmti := 4 }).wf = true ∧
    (tableFmtis (.vld i0 { vmem0 with fmti := 4 })).all (fmtiOk coreReset) = true ∧
    (tableFmtis (.vld i0 { vmem0 with fmti := 4 })).all (fmtiOk { coreReset with fmts := [(4, ⟨0x070, 0, 0⟩)] }) = false ∧
    (Instr.nop ⟨0, { h0 with pred := 5 }, 0⟩ .me).wf = false := by decide +kernel

theorem meets_DecodedWordIsItsEncoding : (decodeCmd 3 0 .se (0#93 ++ hdrBits 0 0 1 2 0 9 7)).isSome = true := by decide +kernel

/-! ### Worked examples of the spec -/

/-- 03_number_formats, stores into M8V: 464, 470, 3 × 2^−11, 2^−11 and −(2^−12). -/
theorem test_store_m8v : [(.fin 464 0), .fin 470 0, .fin 3 (-11), .fin 1 (-11), .fin (-1) (-12)].map (fun d => storeElem .m8v false d 0) =
    [(0x7E, ⟨false, false, true, false⟩), (0x7E, ⟨true, false, true, false⟩), (1, ⟨false, true, true, false⟩), (0, ⟨false, true, true, false⟩),
      (0, ⟨false, true, true, false⟩)] := by decide +kernel

/-- 03_number_formats, R77: a block of eight stored to M4 packs to F6 93 02 00 with scale 0x82, INX and UNF. -/
theorem test_store_block_m4 : storeElems { OpFmt.plain .m4 with blk := 1, smode := true } 0 0 8
      [.fin 40 0, .fin (-61) 0, .fin 13 0, .fin (-11) (-1), .fin 29 (-2), .fin 3 (-2), .fin 1 (-3), .fin 0 0] =
    ([0xF6, 0x93, 0x02, 0x00], [0x82], ⟨false, true, true, false⟩) := by decide +kernel

/-- 03_number_formats: I4 5 and 7 stored to M4, and 7 to M8V. -/
theorem test_store_i4 : storeElem .m4 false (.fin 5 0) 0 = (6, ⟨false, false, true, false⟩) ∧ storeElem .m4 false (.fin 7 0) 0 = (7, ⟨true, false, true, false⟩) ∧
    storeElem .m8v false (.fin 7 0) 0 = (0x4E, .none) := by decide +kernel

/-- 08_vector_engine, R188: SiLU of the code 1,229 at QA −12 is 705 at QD −12, with INX. -/
theorem test_silu : let t := (vendorCurve 4).getD []
    let v := (curveEval t (.fin 1229 (-12))).1
    (v.sig, v.exp) = (9396, -14) ∧ storeElem .i32 false (mulExact (.fin 1229 (-12)) v) (-12) = (705, ⟨false, false, true, false⟩) := by decide +kernel

/-- 08_vector_engine, R194: twelve scores, the best five. -/
def scores : List Byte := [40, 95, 0x8000, 95, 0xFFF6, 88, 95, 12, 88, 0, 101, 7].flatMap (bytesOf 2)
def topE : VTopkF := { topk0 with vd := 2, msrc := 1, m1 := 11, fmti := 3, k1 := 4, pos0 := 256, qa := -8, qd := -8 }
def topS : State :=
  let s := due (.vtopk i0 topE) .ve (fun x => { x with fmts := [(3, ⟨0x00A, 0, 0⟩)] })
  { s with dp := { s.dp with dev := memWrite [] (512 * coreRow 0 0) scores } }
theorem test_topk : (match exec (.vtopk i0 topE) topS with
      | .next t =>
        let x := vget (t.dp.passLandings 14).1.cores 0
        (List.range 6).map (fun j => (laneCode x 2 j, laneCode x 3 j))
      | _ => []) =
    [(101, 266), (95, 257), (95, 259), (95, 262), (88, 261), (0, 0)] := by decide +kernel

/-- 13_adapter_learning, R284: three weights of code 1,000 at Q_A −14 under block scale 0x7C, η 5 × 2^−10 and c 0.5. -/
theorem test_weight_update : [0x3A, 0xBA, 0x5B].map (fun g =>
      stepWeight { ad0 with qA := -14, lrM := 5, lrE := -10, clipM := 1, clipE := -1, wmax := 32767 } 0 (-14) 1000
        (loadElem lrnFmt g (some 0x7C) 0).1) = [(992, true), (1008, true), (960, false)] := by decide +kernel

/-- 04_accumulation and 10_command_queues, R174: a read before the landing cycle gets the old value. -/
theorem test_lane_lands_late : (match exec (.vadd i0 { arith0 with vd := 3 }) (due (.vadd i0 { arith0 with vd := 3 }) .ve (lane 0 0 7)) with
      | .next t => (laneCode (vget (t.dp.passLandings 4).1.cores 0) 3 0, laneCode (vget (t.dp.passLandings 5).1.cores 0) 3 0)
      | _ => (1, 1)) = (0, 14) := by decide +kernel

end Sys2Proof.Tests
end

section
/-!
SUPPORT. Numbers: what rounding, clamping, the two's-complement codes and the decoder of one element do, said once for each; then the
statements of 03_number_formats.
-/
namespace Sys2Proof.Machine
open Sys2Proof.Safety

/-! ### Rounding (R2) -/

/-- The remainder decides: below half the quotient, above half its successor, at half the even one of the two. -/
theorem rneShift_nearest (n : Int) (k : Nat) :
    2 * (n - rneShift n k * 2 ^ k).natAbs ≤ 2 ^ k ∧ (2 * (n - rneShift n k * 2 ^ k).natAbs = 2 ^ k → rneShift n k % 2 = 0) := by
  have hdiv : (2 : Int) ^ k * (n / 2 ^ k) + n % 2 ^ k = n := Int.mul_ediv_add_emod n (2 ^ k)
  have hpos : (0 : Int) < 2 ^ k := by positivity
  have hlow : 0 ≤ n % 2 ^ k := Int.emod_nonneg n hpos.ne'
  have hhigh : n % 2 ^ k < 2 ^ k := Int.emod_lt_of_pos n hpos
  have hdown : n - n / 2 ^ k * 2 ^ k = n % 2 ^ k := by linarith
  have hup : n - (n / 2 ^ k + 1) * 2 ^ k = n % 2 ^ k - 2 ^ k := by linarith
  have hcast : ((2 ^ k : Nat) : Int) = 2 ^ k := Nat.cast_pow 2 k
  unfold rneShift
  dsimp only
  split_ifs
  · rw [hdown]; omega
  · rw [hup]; omega
  · rw [hdown]; omega
  · rw [hup]; omega

/-- The model's rounding is rne of 03_number_formats. -/
theorem isRne_rneScale (n e : Int) : IsRne (rneScale n e) n e := by
  unfold IsRne rneScale
  split_ifs
  · rfl
  · exact rneShift_nearest n (-e).toNat

/-! ### Clamping and codes -/

theorem clampInt_of_mem {lo hi v : Int} (hlo : lo ≤ v) (hhi : v ≤ hi) : clampInt lo hi v = v := by
  simp [clampInt, hlo.not_gt, hhi.not_gt]

theorem clampInt_of_lt {lo hi v : Int} (h : v < lo) : clampInt lo hi v = lo := by simp [clampInt, h]

theorem clampInt_of_gt {lo hi v : Int} (hlo : lo ≤ hi) (h : hi < v) : clampInt lo hi v = hi := by
  simp [clampInt, h, (hlo.trans h.le).not_gt]

/-- A clamped value lies between its bounds. -/
theorem clampInt_mem {lo hi : Int} (h : lo ≤ hi) (v : Int) : lo ≤ clampInt lo hi v ∧ clampInt lo hi v ≤ hi := by
  unfold clampInt
  split_ifs <;> omega

/-- The code of a value in two's-complement range reads back as the value. -/
theorem signedOf_codeOf {n : Nat} (hn : 0 < n) {v : Int} (hlo : -(2 ^ (n - 1)) ≤ v) (hhi : v ≤ 2 ^ (n - 1) - 1) :
    signedOf n (codeOf n v) = v := by
  rw [signedOf, codeOf, BitVec.ofNat_toNat, BitVec.setWidth_eq]
  exact BitVec.toInt_ofInt_eq_self hn hlo (by omega)

/-- The code of the NaN marker stands for the most negative value. -/
theorem signedOf_marker {n : Nat} (hn : 0 < n) : signedOf n (2 ^ (n - 1)) = -(2 ^ (n - 1)) := by
  have hmin : BitVec.ofNat n (2 ^ (n - 1)) = BitVec.intMin n := BitVec.eq_of_toNat_eq (by rw [BitVec.toNat_ofNat, BitVec.toNat_intMin])
  rw [signedOf, hmin, BitVec.toInt_intMin_of_pos hn]

/-- A value above the most negative one is not written as the NaN marker. -/
theorem codeOf_ne_marker {n : Nat} (hn : 0 < n) {v : Int} (hlo : -(2 ^ (n - 1)) < v) (hhi : v ≤ 2 ^ (n - 1) - 1) :
    codeOf n v ≠ 2 ^ (n - 1) := by
  intro hcode
  have hread := signedOf_codeOf hn hlo.le hhi
  rw [hcode, signedOf_marker hn] at hread
  exact hlo.ne hread

/-! ### The integer store (R73) -/

theorem Fmt.bits_pos (f : Fmt) : 0 < f.bits := by cases f <;> decide

theorem intBounds_fst (n : Nat) (sym : Bool) : (intBounds n sym).1 = if sym then -(2 ^ (n - 1) - 1) else -(2 ^ (n - 1)) := by
  cases sym <;> simp [intBounds]

theorem intBounds_snd (n : Nat) (sym : Bool) : (intBounds n sym).2 = 2 ^ (n - 1) - 1 := rfl

/-- The lower bound lies inside two's complement. -/
theorem intBounds_fst_ge (n : Nat) (sym : Bool) : -(2 ^ (n - 1)) ≤ (intBounds n sym).1 := by
  rw [intBounds_fst]
  split_ifs <;> omega

/-- The symmetric option leaves out the most negative value. -/
theorem intBounds_fst_gt_of_sym (n : Nat) : -(2 ^ (n - 1)) < (intBounds n true).1 := by
  rw [intBounds_fst, if_pos rfl]
  omega

theorem intBounds_fst_le_snd (n : Nat) (sym : Bool) : (intBounds n sym).1 ≤ (intBounds n sym).2 := by
  have hpos : (0 : Int) < 2 ^ (n - 1) := by positivity
  rw [intBounds_fst, intBounds_snd]
  split_ifs <;> omega

/-- A finite value goes to an integer format through the integer store. -/
theorem storeElem_fin_of_isInt {f : Fmt} (hf : f.isInt = true) (sym : Bool) (sig exp q : Int) :
    storeElem f sym (.fin sig exp) q = storeInt f.bits sym sig exp q := by
  simp [storeElem, Dec.fin, hf]

/-- The value an integer store rounds to and keeps inside its bounds. -/
def storedInt (n : Nat) (sym : Bool) (sig exp q : Int) : Int :=
  clampInt (intBounds n sym).1 (intBounds n sym).2 (rneScale sig (exp - q))

theorem storeInt_fst (n : Nat) (sym : Bool) (sig exp q : Int) :
    (storeInt n sym sig exp q).1 = codeOf n (storedInt n sym sig exp q) := rfl

/-- OVF is set exactly where the bounds changed the rounded value. -/
theorem storeInt_ovf (n : Nat) (sym : Bool) (sig exp q : Int) :
    (storeInt n sym sig exp q).2.ovf = (storedInt n sym sig exp q != rneScale sig (exp - q)) := rfl

theorem storedInt_mem (n : Nat) (sym : Bool) (sig exp q : Int) :
    (intBounds n sym).1 ≤ storedInt n sym sig exp q ∧ storedInt n sym sig exp q ≤ (intBounds n sym).2 :=
  clampInt_mem (intBounds_fst_le_snd n sym) _

/-- The stored code reads back as the rounded value inside the bounds. -/
theorem signedOf_storeInt {n : Nat} (hn : 0 < n) (sym : Bool) (sig exp q : Int) :
    signedOf n (storeInt n sym sig exp q).1 = storedInt n sym sig exp q := by
  obtain ⟨hlo, hhi⟩ := storedInt_mem n sym sig exp q
  exact signedOf_codeOf hn ((intBounds_fst_ge n sym).trans hlo) hhi

/-- With the symmetric option no finite value is written as the NaN marker. -/
theorem storeInt_sym_ne_marker {n : Nat} (hn : 0 < n) (sig exp q : Int) : (storeInt n true sig exp q).1 ≠ 2 ^ (n - 1) := by
  obtain ⟨hlo, hhi⟩ := storedInt_mem n true sig exp q
  exact codeOf_ne_marker hn ((intBounds_fst_gt_of_sym n).trans_le hlo) hhi

/-- Settles O10: the value is the model's rounding, which is rne, and the three ranges are the three branches of the clamp. -/
theorem integerStoreRoundsOnce : Obligations.IntegerStoreRoundsOnce := by
  unfold Obligations.IntegerStoreRoundsOnce
  intro f sym sig exp q hf
  refine ⟨rneScale sig (exp - q), isRne_rneScale _ _, ?_⟩
  simp only [← intBounds_fst]
  simp only [← intBounds_snd f.bits sym, storeElem_fin_of_isInt hf, signedOf_storeInt f.bits_pos, storeInt_ovf, bne_eq_false_iff_eq,
    bne_iff_ne]
  refine ⟨fun hlo hhi => ?inside, fun hhi => ?above, fun hlo => ?below, ?marker⟩
  case inside => exact ⟨clampInt_of_mem hlo hhi, clampInt_of_mem hlo hhi⟩
  case above =>
    have hval := clampInt_of_gt (intBounds_fst_le_snd f.bits sym) hhi
    exact ⟨hval, fun heq => hhi.ne (hval.symm.trans heq)⟩
  case below =>
    have hval : storedInt f.bits sym sig exp q = (intBounds f.bits sym).1 := clampInt_of_lt hlo
    exact ⟨hval, fun heq => hlo.ne (heq.symm.trans hval)⟩
  case marker =>
    rintro rfl
    exact storeInt_sym_ne_marker f.bits_pos sig exp q

/-! ### Loads with a shared scale (R66) -/

/-- A special float code has a class that is not finite. -/
theorem specialOf_ne_finite (f : Fmt) (code : Nat) : specialOf f code ≠ some .finite := by
  cases f <;> simp [specialOf, ite_eq_iff]

/-- The exponent given to a load only shifts the exponent of a finite element. -/
theorem decodeElem_add (f : Fmt) (sym : Bool) (code : Nat) (k q : Int) :
    (decodeElem f sym code (k + q)).cls = (decodeElem f sym code q).cls ∧
      (decodeElem f sym code (k + q)).sig = (decodeElem f sym code q).sig ∧
      ((decodeElem f sym code q).cls = .finite → (decodeElem f sym code (k + q)).exp = (decodeElem f sym code q).exp + k) := by
  unfold decodeElem
  split
  case isTrue =>
    split
    case isTrue => exact ⟨rfl, rfl, fun h => nomatch h⟩
    case isFalse => exact ⟨rfl, rfl, fun _ => add_comm k q⟩
  case isFalse =>
    cases hspecial : specialOf f code with
    | some c => exact ⟨rfl, rfl, fun hc => absurd (hspecial.trans (congrArg some hc)) (specialOf_ne_finite f code)⟩
    | none => exact ⟨rfl, rfl, fun _ => by simp only [Dec.fin]; ring⟩

theorem scaleExp_poisoned : scaleExp 0xFF = none := rfl

theorem scaleExp_of_ne {b : Byte} (hb : b ≠ 0xFF) : scaleExp b = some ((b.toNat : Int) - 127) := if_neg hb

@[simp] theorem loadElem_none (o : OpFmt) (code : Nat) (fq : Int) : loadElem o code none fq = (decodeElem o.fmt o.sym code fq, false) := rfl

/-- A block with a scale loads its elements with the scale's exponent added. -/
theorem loadElem_scaled (o : OpFmt) (code : Nat) {b : Byte} (hb : b ≠ 0xFF) (fq : Int) :
    loadElem o code (some b) fq = (decodeElem o.fmt o.sym code ((b.toNat : Int) - 127 + fq), false) := by
  simp only [loadElem, scaleExp_of_ne hb]

/-- A poisoned block loads as NAN with INV. -/
theorem loadElem_poisoned (o : OpFmt) (code : Nat) (fq : Int) : loadElem o code (some 0xFF) fq = (.nan, true) := by
  simp only [loadElem, scaleExp_poisoned]

/-- Settles O11: a scale shifts the exponent of the decoded element; a poisoned block never reaches the decoder. -/
theorem sharedScaleMultiplies : Obligations.SharedScaleMultiplies := by
  unfold Obligations.SharedScaleMultiplies
  intro o code b fq
  refine ⟨fun hb => ?scaled, fun hb => ?poisoned⟩
  case scaled =>
    rw [loadElem_scaled o code hb, loadElem_none]
    exact ⟨rfl, decodeElem_add o.fmt o.sym code _ fq⟩
  case poisoned =>
    rw [hb, loadElem_poisoned]
    exact ⟨rfl, rfl⟩

end Sys2Proof.Machine
end

section
/-!
SUPPORT. Accumulation: what a product, a union of flags, a sum of A88 values and a dot product do, said once for each; then the statements
of 04_accumulation.
-/
namespace Sys2Proof.Machine
open Sys2Proof.Safety

/-! ### Products (R84 to R86) -/

/-- Nothing is rounded away exactly where the rounded value scales back to the number it came from. -/
theorem isIntScale_iff (n k : Int) :
    isIntScale n k = true ↔ if 0 ≤ k then True else rneScale n k * 2 ^ (-k).toNat = n := by
  unfold isIntScale rneScale
  split_ifs
  case pos => simp
  case neg =>
    rw [beq_iff_eq]
    refine ⟨fun hrem => ?exact, fun hback => ?multiple⟩
    case exact =>
      have hpos : (0 : Int) < 2 ^ (-k).toNat := by positivity
      have hquot : rneShift n (-k).toNat = n / 2 ^ (-k).toNat := by simp [rneShift, hrem, hpos]
      rw [hquot, Int.ediv_mul_cancel_of_emod_eq_zero hrem]
    case multiple =>
      rw [← hback]
      exact Int.mul_emod_left _ _

/-- The product of two finite values enters as one exact term, with no INV. -/
theorem prodTerm_fin (sa ea sb eb e : Int) :
    prodTerm (.fin sa ea) (.fin sb eb) e =
      ((termOf (.fin (sa * sb) (ea + eb)) e).1, { (termOf (.fin (sa * sb) (ea + eb)) e).2 with inv := false }) := rfl

theorem termOf_fin_of_mem {sig exp e : Int} (hlo : a88Min ≤ rneScale sig (exp - (e - 24))) (hhi : rneScale sig (exp - (e - 24)) ≤ a88Max) :
    termOf (.fin sig exp) e = (⟨.finite, rneScale sig (exp - (e - 24))⟩,
      { ovf := false, unf := sig != 0 && rneScale sig (exp - (e - 24)) == 0, inx := !isIntScale sig (exp - (e - 24)), inv := false }) := by
  simp [termOf, Dec.fin, hlo.not_gt, hhi.not_gt]

theorem termOf_fin_of_gt {sig exp e : Int} (h : a88Max < rneScale sig (exp - (e - 24))) :
    termOf (.fin sig exp) e = (A88.ofCls .satPos, { ovf := true, unf := false, inx := true, inv := false }) := by
  simp [termOf, Dec.fin, h]

theorem termOf_fin_of_lt {sig exp e : Int} (h : rneScale sig (exp - (e - 24)) < a88Min) :
    termOf (.fin sig exp) e = (A88.ofCls .satNeg, { ovf := true, unf := false, inx := true, inv := false }) := by
  have hmax : ¬ a88Max < rneScale sig (exp - (e - 24)) := (h.trans (by decide : a88Min < a88Max)).not_gt
  simp [termOf, Dec.fin, h, hmax]

/-- Settles O12: the value is the model's rounding of the exact product, and the three ranges are the three branches of the term. -/
theorem productRoundsOnce : Obligations.ProductRoundsOnce := by
  unfold Obligations.ProductRoundsOnce
  intro sa ea sb eb e
  refine ⟨rneScale (sa * sb) (ea + eb - (e - 24)), isRne_rneScale _ _, fun hlo hhi => ?inside, fun hhi => ?above, fun hlo => ?below⟩
  case inside =>
    rw [prodTerm_fin, termOf_fin_of_mem hlo hhi]
    refine ⟨rfl, rfl, ?inx, ?unf⟩
    case inx => rw [← isIntScale_iff, Bool.not_eq_true, Bool.not_eq_true']
    case unf => simp
  case above =>
    rw [prodTerm_fin, termOf_fin_of_gt hhi]
    exact ⟨rfl, rfl, rfl⟩
  case below =>
    rw [prodTerm_fin, termOf_fin_of_lt hlo]
    exact ⟨rfl, rfl, rfl⟩

/-! ### Unions of flags (R99) -/

@[simp] theorem NFlags.none_or (f : NFlags) : NFlags.none.or f = f := by simp [NFlags.or, NFlags.none]

@[simp] theorem NFlags.or_none (f : NFlags) : f.or NFlags.none = f := by simp [NFlags.or, NFlags.none]

theorem NFlags.or_assoc (a b c : NFlags) : (a.or b).or c = a.or (b.or c) := by simp [NFlags.or, Bool.or_assoc]

theorem NFlags.or_left_comm (a b c : NFlags) : a.or (b.or c) = b.or (a.or c) := by simp [NFlags.or, Bool.or_left_comm]

@[simp] theorem flagsAll_nil : flagsAll [] = NFlags.none := rfl

/-- Flags already raised join a union from the left. -/
theorem foldl_or_eq (l : List NFlags) (f : NFlags) : l.foldl NFlags.or f = f.or (flagsAll l) := by
  induction l generalizing f with
  | nil => simp
  | cons a l ih => rw [flagsAll, List.foldl_cons, List.foldl_cons, ih, ih (NFlags.none.or a), NFlags.none_or, NFlags.or_assoc]

@[simp] theorem flagsAll_cons (a : NFlags) (l : List NFlags) : flagsAll (a :: l) = a.or (flagsAll l) := by
  rw [flagsAll, List.foldl_cons, NFlags.none_or, foldl_or_eq]

theorem flagsAll_append (l m : List NFlags) : flagsAll (l ++ m) = (flagsAll l).or (flagsAll m) := by
  rw [flagsAll, List.foldl_append, foldl_or_eq]
  rfl

/-- The union of the parts' unions is the union of all. -/
theorem flagsAll_flatten (ls : List (List NFlags)) : flagsAll ls.flatten = flagsAll (ls.map flagsAll) := by
  induction ls with
  | nil => rfl
  | cons l ls ih => rw [List.flatten_cons, flagsAll_append, ih, List.map_cons, flagsAll_cons]

/-- A union does not depend on the order in which the flags are raised. -/
theorem flagsAll_perm {l m : List NFlags} (h : l.Perm m) : flagsAll l = flagsAll m := by
  induction h with
  | nil => rfl
  | cons a _ ih => rw [flagsAll_cons, flagsAll_cons, ih]
  | swap a b l => simp only [flagsAll_cons, NFlags.or_left_comm]
  | trans _ _ ih₁ ih₂ => exact ih₁.trans ih₂

/-! ### Sums of A88 values (R88 to R90) -/

/-- A sum that only finite values have reached. -/
def Sum.ofTotal (t : Int) : Sum := { Sum.start with total := t }

/-- A class other than FINITE has reached the sum. -/
def Sum.marked (s : Sum) : Bool := s.nan || s.pinf || s.ninf || s.spos || s.sneg

theorem Sum.ofTotal_add {v : A88} (hv : v.cls = .finite) (t : Int) : (Sum.ofTotal t).add v = Sum.ofTotal (t + v.w) := by
  simp [Sum.add, Sum.ofTotal, hv]

/-- Finite values only move the total. -/
theorem Sum.foldl_add_ofTotal {vs : List A88} (hvs : ∀ v ∈ vs, v.cls = .finite) (t : Int) :
    vs.foldl Sum.add (Sum.ofTotal t) = Sum.ofTotal (t + (vs.map A88.w).sum) := by
  induction vs generalizing t with
  | nil => simp
  | cons v vs ih =>
    obtain ⟨hv, hrest⟩ := List.forall_mem_cons.1 hvs
    rw [List.foldl_cons, Sum.ofTotal_add hv, ih hrest, List.map_cons, List.sum_cons, add_assoc]

/-- A sum of finite values is the exact sum, checked once against the window. -/
theorem a88Sum_of_finite {vs : List A88} (hvs : ∀ v ∈ vs, v.cls = .finite) :
    a88Sum vs = (Sum.ofTotal (vs.map A88.w).sum).finish := by
  have hfold := Sum.foldl_add_ofTotal hvs 0
  rw [zero_add] at hfold
  exact congrArg Sum.finish hfold

theorem Sum.marked_add (s : Sum) (v : A88) : (s.add v).marked = true ↔ s.marked = true ∨ v.cls ≠ .finite := by
  cases hv : v.cls <;> simp [Sum.add, Sum.marked, hv]

/-- A class that is not FINITE stays with the sum it has reached. -/
theorem Sum.marked_foldl_add (vs : List A88) (s : Sum) :
    (vs.foldl Sum.add s).marked = true ↔ s.marked = true ∨ ∃ v ∈ vs, v.cls ≠ .finite := by
  induction vs generalizing s with
  | nil => simp
  | cons v vs ih => rw [List.foldl_cons, ih, Sum.marked_add, List.exists_mem_cons_iff, or_assoc]

theorem Sum.finish_ne_finite_of_marked {s : Sum} (h : s.marked = true) : s.finish.1.cls ≠ .finite := by
  simp only [Sum.marked, Bool.or_eq_true] at h
  unfold Sum.finish
  split_ifs <;> simp_all [A88.ofCls]

/-- A sum that ends FINITE has taken finite values only. -/
theorem finite_of_a88Sum {vs : List A88} (h : (a88Sum vs).1.cls = .finite) : ∀ v ∈ vs, v.cls = .finite := by
  intro v hv
  by_contra hcls
  exact Sum.finish_ne_finite_of_marked ((Sum.marked_foldl_add vs Sum.start).2 (.inr ⟨v, hv, hcls⟩)) h

/-- A total that ends FINITE passed the window check: it lies inside, and is kept with no flag. -/
theorem Sum.finish_ofTotal_of_finite {t : Int} (h : (Sum.ofTotal t).finish.1.cls = .finite) :
    (a88Min ≤ t ∧ t ≤ a88Max) ∧ (Sum.ofTotal t).finish = (⟨.finite, t⟩, .none) := by
  by_cases hmax : a88Max < t
  · simp [Sum.finish, Sum.ofTotal, Sum.start, A88.ofCls, hmax] at h
  by_cases hmin : t < a88Min
  · simp [Sum.finish, Sum.ofTotal, Sum.start, A88.ofCls, hmax, hmin] at h
  exact ⟨⟨not_lt.1 hmin, not_lt.1 hmax⟩, by simp [Sum.finish, Sum.ofTotal, Sum.start, hmax, hmin]⟩

/-! ### Dot products (R87, R88) -/

/-- The terms a list of products brings to an entry. -/
def prodValues (e : Int) (ps : List (Dec × Dec)) : List A88 := ps.map (fun x => (prodTerm x.1 x.2 e).1)

/-- The flags the products raise. -/
def prodFlags (e : Int) (ps : List (Dec × Dec)) : List NFlags := ps.map (fun x => (prodTerm x.1 x.2 e).2)

/-- One product taken by an entry: its term joins the sum, its flags the flags. -/
def dotStep (e : Int) (acc : Sum × NFlags) (x : Dec × Dec) : Sum × NFlags :=
  (acc.1.add (prodTerm x.1 x.2 e).1, acc.2.or (prodTerm x.1 x.2 e).2)

/-- Terms and flags do not meet before the entry is finished. -/
theorem foldl_dotStep (e : Int) (ps : List (Dec × Dec)) (s : Sum) (f : NFlags) :
    ps.foldl (dotStep e) (s, f) = ((prodValues e ps).foldl Sum.add s, f.or (flagsAll (prodFlags e ps))) := by
  induction ps generalizing s f with
  | nil => simp [prodValues, prodFlags]
  | cons x ps ih => simp [dotStep, ih, prodValues, prodFlags, NFlags.or_assoc]

/-- A dot product is the sum of its start value and its terms; the products' flags join those of the sum. -/
theorem dotEntry_eq (start : A88) (ps : List (Dec × Dec)) (e : Int) :
    dotEntry start ps e = ((a88Sum (start :: prodValues e ps)).1,
      (flagsAll (prodFlags e ps)).or (a88Sum (start :: prodValues e ps)).2) := by
  have hfold := foldl_dotStep e ps (Sum.start.add start) NFlags.none
  rw [NFlags.none_or] at hfold
  exact congrArg (fun r : Sum × NFlags => (r.1.finish.1, r.2.or r.1.finish.2)) hfold

/-- The exact sum of the terms. -/
def prodSum (e : Int) (ps : List (Dec × Dec)) : Int := ((prodValues e ps).map A88.w).sum

theorem prodSum_perm {e : Int} {ps qs : List (Dec × Dec)} (h : ps.Perm qs) : prodSum e ps = prodSum e qs :=
  ((h.map _).map _).sum_eq

theorem prodFlags_perm {e : Int} {ps qs : List (Dec × Dec)} (h : ps.Perm qs) : flagsAll (prodFlags e ps) = flagsAll (prodFlags e qs) :=
  flagsAll_perm (h.map _)

theorem prodSum_flatten (e : Int) (parts : List (List (Dec × Dec))) : prodSum e parts.flatten = (parts.map (prodSum e)).sum := by
  rw [prodSum, prodValues, List.map_flatten, List.map_flatten, List.sum_flatten, List.map_map, List.map_map]
  rfl

theorem prodFlags_flatten (e : Int) (parts : List (List (Dec × Dec))) :
    flagsAll (prodFlags e parts.flatten) = flagsAll (parts.map (fun p => flagsAll (prodFlags e p))) := by
  rw [prodFlags, List.map_flatten, flagsAll_flatten, List.map_map]
  rfl

/-- With finite terms and a finite start value the entry is their exact sum, checked once. -/
theorem dotEntry_of_finite {start : A88} {ps : List (Dec × Dec)} {e : Int} (hstart : start.cls = .finite)
    (hps : ∀ v ∈ prodValues e ps, v.cls = .finite) :
    dotEntry start ps e = ((Sum.ofTotal (start.w + prodSum e ps)).finish.1,
      (flagsAll (prodFlags e ps)).or (Sum.ofTotal (start.w + prodSum e ps)).finish.2) := by
  rw [dotEntry_eq, a88Sum_of_finite (List.forall_mem_cons.2 ⟨hstart, hps⟩)]
  rfl

/-- An entry that starts from zero and ends FINITE has taken finite terms only, holds their exact sum, which lies inside the window, and
raises no flag but theirs. -/
theorem dotEntry_zero_finite {ps : List (Dec × Dec)} {e : Int} (h : (dotEntry A88.zero ps e).1.cls = .finite) :
    (∀ v ∈ prodValues e ps, v.cls = .finite) ∧ (a88Min ≤ prodSum e ps ∧ prodSum e ps ≤ a88Max) ∧
      dotEntry A88.zero ps e = (⟨.finite, prodSum e ps⟩, flagsAll (prodFlags e ps)) := by
  have hterms : ∀ v ∈ prodValues e ps, v.cls = .finite := by
    rw [dotEntry_eq] at h
    exact (List.forall_mem_cons.1 (finite_of_a88Sum h)).2
  have hentry := dotEntry_of_finite (start := A88.zero) rfl hterms
  rw [A88.zero, zero_add] at hentry
  rw [A88.zero, hentry] at h
  obtain ⟨hwindow, hfinish⟩ := Sum.finish_ofTotal_of_finite h
  rw [hfinish, NFlags.or_none] at hentry
  exact ⟨hterms, hwindow, hentry⟩

/-! ### Full-width words (R92, R93) -/

/-- A value written out in full width and loaded back; the Bool is INV. -/
def A88.reload (v : A88) : A88 × Bool := A88.ofWords (v.words.getD 0 0) (v.words.getD 1 0) (v.words.getD 2 0)

/-- A finite value inside the window loads back as it was, without INV. -/
theorem reload_finite {w : Int} (hlo : a88Min ≤ w) (hhi : w ≤ a88Max) : A88.reload ⟨.finite, w⟩ = (⟨.finite, w⟩, false) := by
  have hcode : codeOf 88 w < 2 ^ 88 := BitVec.isLt _
  have hcls : codeOf 88 w % 2 ^ 24 / 2 ^ 24 % 8 = 0 := by omega
  have hjoin : codeOf 88 w / 2 ^ 56 % 2 ^ 32 * 2 ^ 56 + codeOf 88 w / 2 ^ 24 % 2 ^ 32 % 2 ^ 32 * 2 ^ 24 +
      codeOf 88 w % 2 ^ 24 % 2 ^ 24 = codeOf 88 w := by omega
  have hread : signedOf 88 (codeOf 88 w) = w := signedOf_codeOf (by decide) hlo hhi
  simp only [A88.reload, A88.words, A88.ofWords, Cls.code, zero_mul, add_zero, List.getD_cons_zero, List.getD_cons_succ, hcls, Cls.ofCode,
    hjoin, hread]

/-! ### Split reductions (R97, R98) -/

/-- A part that ends FINITE loads back as the exact sum of its terms. -/
theorem reload_dotEntry_finite {e : Int} {p : List (Dec × Dec)} (h : (dotEntry A88.zero p e).1.cls = .finite) :
    (dotEntry A88.zero p e).1.reload = (⟨.finite, prodSum e p⟩, false) := by
  obtain ⟨-, ⟨hlo, hhi⟩, hentry⟩ := dotEntry_zero_finite h
  rw [hentry, reload_finite hlo hhi]

section
variable {e : Int} {parts : List (List (Dec × Dec))} {whole : List (Dec × Dec)}

/-- However the products are dealt out, finite parts mean finite terms. -/
theorem prodValues_finite_of_parts (hperm : whole.Perm parts.flatten) (hparts : ∀ p ∈ parts, (dotEntry A88.zero p e).1.cls = .finite) :
    ∀ v ∈ prodValues e whole, v.cls = .finite := by
  intro v hv
  obtain ⟨x, hx, rfl⟩ := List.mem_map.1 hv
  obtain ⟨p, hp, hxp⟩ := List.mem_flatten.1 (hperm.mem_iff.1 hx)
  obtain ⟨hterms, -, -⟩ := dotEntry_zero_finite (hparts p hp)
  exact hterms _ (List.mem_map_of_mem hxp)

/-- Finite parts raise together the flags of their products. -/
theorem partFlags_eq (hperm : whole.Perm parts.flatten) (hparts : ∀ p ∈ parts, (dotEntry A88.zero p e).1.cls = .finite) :
    flagsAll (parts.map (fun p => (dotEntry A88.zero p e).2)) = flagsAll (prodFlags e whole) := by
  rw [prodFlags_perm hperm, prodFlags_flatten]
  refine congrArg flagsAll (List.map_congr_left (fun p hp => ?_))
  obtain ⟨-, -, hentry⟩ := dotEntry_zero_finite (hparts p hp)
  rw [hentry]

end

/-- Settles O13: finite parts hold the exact sums of their terms, so the wide add and the unsplit reduction check the same total once. -/
theorem splitReductionKeepsEveryBit : Obligations.SplitReductionKeepsEveryBit := by
  unfold Obligations.SplitReductionKeepsEveryBit
  intro e start parts whole hperm hstart hparts loaded combined unsplit
  have hloaded : loaded = parts.map (fun p => (⟨.finite, prodSum e p⟩, false)) :=
    List.map_congr_left (fun p hp => reload_dotEntry_finite (hparts p hp))
  have htotal : (start.getD A88.zero).w + prodSum e whole = ((start.toList ++ loaded.map (fun x => x.1)).map A88.w).sum := by
    rw [prodSum_perm hperm, prodSum_flatten, hloaded]
    cases start <;> simp [A88.zero, Function.comp_def]
  have hcombined : combined = (Sum.ofTotal ((start.getD A88.zero).w + prodSum e whole)).finish := by
    rw [htotal]
    refine a88Sum_of_finite (fun v hv => ?_)
    rw [hloaded, List.map_map, List.mem_append, Option.mem_toList, List.mem_map] at hv
    obtain hv | ⟨p, -, rfl⟩ := hv
    · exact hstart v hv
    · rfl
  have hunsplit := dotEntry_of_finite (start := start.getD A88.zero) (by cases start; exacts [rfl, hstart _ rfl])
    (prodValues_finite_of_parts hperm hparts)
  rw [partFlags_eq hperm hparts, hcombined]
  exact ⟨(congrArg Prod.fst hunsplit).symm, (congrArg Prod.snd hunsplit).symm⟩

/-- One part takes a product that saturates above and one that saturates below; the other takes an infinity. -/
def nanPartAndInfPart : List (List (Dec × Dec)) :=
  [[(.fin 1 88, .fin 1 0), (.fin (-1) 88, .fin 1 0)], [(⟨.posInf, 0, 0⟩, .fin 1 0)]]

/-- Refutes O14: the saturated products of both signs make their part NAN, which the wide add keeps; unsplit, the infinity outranks
them. -/
theorem not_splitKeepsClassWhenNonFinite : ¬ Obligations.SplitKeepsClassWhenNonFinite := by
  unfold Obligations.SplitKeepsClassWhenNonFinite
  intro h
  have hsplit : (wideAdd (nanPartAndInfPart.map (fun p => (dotEntry A88.zero p 0).1))).1 = A88.ofCls .nan := by decide +kernel
  have hunsplit : (dotEntry A88.zero nanPartAndInfPart.flatten 0).1 = A88.ofCls .posInf := by decide +kernel
  have heq := h 0 nanPartAndInfPart (by decide +kernel)
  rw [hsplit, hunsplit] at heq
  exact absurd heq (by decide)

end Sys2Proof.Machine
end

section
/-!
SUPPORT. Vector: the number that a decoded element holds and the store that depends on it alone; the issue of a VE command; what the
reductions read and form; then the statement of 08_vector_engine about them.
-/
namespace Sys2Proof.Machine
open Sys2Proof.Safety

/-! ### The number a decoded element holds (R59, R173) -/

/-- The decoded element is finite and stands for the number v. -/
def Dec.Holds (d : Dec) (v : ℚ) : Prop := d.cls = .finite ∧ (d.sig : ℚ) * 2 ^ d.exp = v

theorem holds_fin (sig exp : Int) : (Dec.fin sig exp).Holds ((sig : ℚ) * 2 ^ exp) := ⟨rfl, rfl⟩

/-- A significand moved down to a lower exponent keeps its number. -/
theorem sig_mul_pow_sub (sig : Int) {exp x : Int} (h : x ≤ exp) :
    ((sig * 2 ^ (exp - x).toNat : Int) : ℚ) * 2 ^ x = (sig : ℚ) * 2 ^ exp := by
  have hk : ((exp - x).toNat : Int) = exp - x := Int.toNat_of_nonneg (by omega)
  have hpow : (2 : ℚ) ^ (exp - x).toNat * 2 ^ x = 2 ^ exp := by
    rw [← zpow_natCast, hk, ← zpow_add₀ (by norm_num), sub_add_cancel]
  push_cast
  rw [mul_assoc, hpow]

section
variable {a b : Dec} {u v : ℚ}

theorem holds_addExact (ha : a.Holds u) (hb : b.Holds v) : (addExact a b).Holds (u + v) := by
  obtain ⟨-, rfl⟩ := ha
  obtain ⟨-, rfl⟩ := hb
  refine ⟨rfl, ?_⟩
  rw [← sig_mul_pow_sub a.sig (min_le_left a.exp b.exp), ← sig_mul_pow_sub b.sig (min_le_right a.exp b.exp), ← add_mul, ← Int.cast_add]
  rfl

theorem holds_subExact (ha : a.Holds u) (hb : b.Holds v) : (subExact a b).Holds (u - v) := by
  obtain ⟨-, rfl⟩ := ha
  obtain ⟨-, rfl⟩ := hb
  refine ⟨rfl, ?_⟩
  rw [← sig_mul_pow_sub a.sig (min_le_left a.exp b.exp), ← sig_mul_pow_sub b.sig (min_le_right a.exp b.exp), ← sub_mul, ← Int.cast_sub]
  rfl

/-- The sign of the exact difference orders the numbers. -/
theorem ltDec_of_holds (ha : a.Holds u) (hb : b.Holds v) : ltDec a b = decide (u < v) := by
  obtain ⟨-, hval⟩ := holds_subExact ha hb
  obtain ⟨hacls, -⟩ := ha
  obtain ⟨hbcls, -⟩ := hb
  have hpos : (0 : ℚ) < 2 ^ (subExact a b).exp := by positivity
  have hsign : (subExact a b).sig < 0 ↔ u < v := by
    rw [← sub_neg (a := u), ← hval, ← not_le, ← not_le, mul_nonneg_iff_of_pos_right hpos, Int.cast_nonneg_iff]
  simp [ltDec, hacls, hbcls, hsign]

theorem holds_maxDec (ha : a.Holds u) (hb : b.Holds v) : (maxDec a b).Holds (max u v) := by
  rw [maxDec, ltDec_of_holds ha hb]
  by_cases h : u < v
  · simpa [h, max_eq_right h.le] using hb
  · simpa [h, max_eq_left (not_lt.1 h)] using ha

end

/-! ### The integer store depends on the number alone (R72, R73) -/

/-- A common power of two does not change the quotient nor the side of half on which the remainder lies. -/
theorem rneShift_mul_two_pow (n : Int) (k m : Nat) : rneShift (2 ^ k * n) (k + m) = rneShift n m := by
  have hk : (0 : Int) < 2 ^ k := by positivity
  have hbelow : 2 * (2 ^ k * (n % 2 ^ m)) < 2 ^ k * 2 ^ m ↔ 2 * (n % 2 ^ m) < 2 ^ m := by
    rw [mul_left_comm, mul_lt_mul_iff_right₀ hk]
  have habove : 2 ^ k * 2 ^ m < 2 * (2 ^ k * (n % 2 ^ m)) ↔ 2 ^ m < 2 * (n % 2 ^ m) := by
    rw [mul_left_comm, mul_lt_mul_iff_right₀ hk]
  simp only [rneShift, pow_add, Int.mul_ediv_mul_of_pos _ _ hk, Int.mul_emod_mul_of_pos _ _ hk, hbelow, habove]

/-- An integer is its own rounding. -/
theorem rneShift_mul_self (n : Int) (k : Nat) : rneShift (2 ^ k * n) k = n := by
  simp [rneShift]

/-- Powers of two move between the significand and the scale of a rounding. -/
theorem rneScale_mul_two_pow (n e : Int) (k : Nat) : rneScale (2 ^ k * n) e = rneScale n (e + k) := by
  unfold rneScale
  split_ifs with he hsum hsum
  · have hexp : (e + k).toNat = e.toNat + k := by omega
    rw [hexp, pow_add]
    ring
  · omega
  · have hexp : k = (-e).toNat + (e + k).toNat := by omega
    conv_lhs => rw [hexp, pow_add, mul_assoc, rneShift_mul_self, mul_comm]
  · have hexp : (-e).toNat = k + (-(e + k)).toNat := by omega
    rw [hexp, rneShift_mul_two_pow]

/-- A rounding depends on the number it is given alone. -/
theorem rneScale_congr {n m e k : Int} (h : (n : ℚ) * 2 ^ e = m * 2 ^ k) : rneScale n e = rneScale m k := by
  wlog hek : e ≤ k generalizing n m e k
  · exact (this h.symm (by omega)).symm
  have hpow : (2 : ℚ) ^ e ≠ 0 := by positivity
  rw [← sig_mul_pow_sub m hek] at h
  have hn : n = 2 ^ (k - e).toNat * m := by rw [mul_comm, Int.cast_injective (mul_right_cancel₀ hpow h)]
  have hk : e + ((k - e).toNat : Int) = k := by omega
  rw [hn, rneScale_mul_two_pow, hk]

/-- Nothing is rounded away exactly where the rounding is the number itself. -/
theorem isIntScale_iff_rneScale (n e : Int) : isIntScale n e = true ↔ (rneScale n e : ℚ) = n * 2 ^ e := by
  rw [isIntScale_iff]
  split_ifs with he
  · have hexp : (2 : ℚ) ^ e = 2 ^ e.toNat := by rw [← zpow_natCast, Int.toNat_of_nonneg he]
    simp [rneScale, he, hexp]
  · have hexp : (2 : ℚ) ^ e = (2 ^ (-e).toNat)⁻¹ := by
      rw [← zpow_natCast, Int.toNat_of_nonneg (by omega), zpow_neg, inv_inv]
    rw [hexp, eq_mul_inv_iff_mul_eq₀ (by positivity)]
    exact_mod_cast Iff.rfl

/-- Two elements that hold one number store alike to an integer format. -/
theorem storeElem_eq_of_holds {f : Fmt} (hf : f.isInt = true) {a b : Dec} {v : ℚ} (ha : a.Holds v) (hb : b.Holds v) (sym : Bool) (q : Int) :
    storeElem f sym a q = storeElem f sym b q := by
  obtain ⟨ca, sa, ea⟩ := a
  obtain ⟨cb, sb, eb⟩ := b
  obtain ⟨rfl, hva⟩ : ca = .finite ∧ (sa : ℚ) * 2 ^ ea = v := ha
  obtain ⟨rfl, hvb⟩ : cb = .finite ∧ (sb : ℚ) * 2 ^ eb = v := hb
  have hunits : (sa : ℚ) * 2 ^ (ea - q) = sb * 2 ^ (eb - q) := by
    rw [zpow_sub₀ two_ne_zero, zpow_sub₀ two_ne_zero, ← mul_div_assoc, ← mul_div_assoc, hva, hvb]
  have hround : rneScale sa (ea - q) = rneScale sb (eb - q) := rneScale_congr hunits
  have hexact : isIntScale sa (ea - q) = isIntScale sb (eb - q) := by
    rw [Bool.eq_iff_iff, isIntScale_iff_rneScale, isIntScale_iff_rneScale, hround, hunits]
  have hzero : (sa != 0) = (sb != 0) := by
    have ha : v = 0 ↔ sa = 0 := by simp [← hva, (zpow_pos (two_pos (α := ℚ)) ea).ne']
    have hb : v = 0 ↔ sb = 0 := by simp [← hvb, (zpow_pos (two_pos (α := ℚ)) eb).ne']
    rw [Bool.eq_iff_iff, bne_iff_ne, bne_iff_ne, Ne, Ne, ← ha, hb]
  change storeElem f sym (.fin sa ea) q = storeElem f sym (.fin sb eb) q
  rw [storeElem_fin_of_isInt hf, storeElem_fin_of_isInt hf, storeInt, storeInt, hround, hexact, hzero]

/-! ### The issue of a VE command (R17, R26, R180, R229) -/

/-- A command falls due only while time runs. -/
theorem not_frozen_of_issueWait {s : State} {c : Instr} {i : Iss} {q : Queue} {n : Nat} (h : issueWait s i q c = some n) : frozen s = false := by
  unfold issueWait at h
  dsimp only at h
  split_ifs at h with hdue
  simp only [clockRuns, Bool.and_eq_true, Bool.not_eq_true'] at hdue
  obtain ⟨⟨⟨⟨⟨⟨-, hfrozen⟩, -⟩, -⟩, -⟩, -⟩, -⟩ := hdue
  exact hfrozen

/-- What makes a command due: beside its issue, no early tick computes and its control processor waits for nothing. -/
theorem issueEngine_of_dueNow {s : State} {c : Instr} {i : Iss} {q : Queue} (h : dueNow s c i q = true) (eff : Bool → Work → Work) :
    issueEngine c i q eff s = .next (issueNow s i q false eff) ∧ noEarlyWork s = true ∧ (coreOf s i.core).cpWait = [] := by
  simp only [dueNow, Bool.and_eq_true, decide_eq_true_eq, List.isEmpty_iff] at h
  obtain ⟨⟨⟨⟨⟨⟨-, hwf⟩, hfmt⟩, hwait⟩, hholders⟩, hearly⟩, hcp⟩ := h
  refine ⟨?_, hearly, hcp⟩
  have hfrozen := not_frozen_of_issueWait hwait
  simp [issueEngine, hwf, hfmt, hwait, hholders, hfrozen]

/-- Of the datapath only the core's record and the effects on their way differ. -/
theorem onlyCore_of_dp {s t : State} {c : BitVec 3} {q : Queue} {keep : Core → Core → Core} {y : Core} {l : List (Nat × Landing)}
    (hdp : t.dp = { s.dp.setCore c y with landings := s.dp.landings ++ l }) (hkeep : keep y ((coreOf s c).pop q) = y) :
    onlyCore s t c q keep l ∧ coreOf t c = y := by
  have hcore : coreOf t c = y := by rw [coreOf, hdp]; simp
  exact ⟨by rw [onlyCore, hcore, hkeep, hdp], hcore⟩

/-- A core's record with flags raised by a command of its tick (R100, R101). -/
def withFlags (s : State) (c : BitVec 3) (q : Queue) (fl : NFlags) (x : Core) : Core :=
  if isSpec s c then { x with nflagHeld := holdFlags (coreOf s c).tick (nflagBits q fl) x.nflagHeld }
  else x.setNflag (nflagBits q fl) s.dp.cycle

/-- The core's record with the VE command taken from its queue and its engine occupied. -/
def veOccupied (s : State) (c : BitVec 3) (o lat : Nat) : Core :=
  { (coreOf s c).pop .ve with ve := veBusyWith (coreOf s c).ve s.dp.cycle o lat }

/-- A VE command at work: its engine is occupied, and, where it runs, lanes are on their way and flags raised. -/
def veWork (w : Work) (o lat : Nat) (run : Bool) (n : Nat) (l : List (Nat × Nat × Nat)) (fl : NFlags) : Work :=
  if run then ((w.veBusy o lat).regsLand n l).raise fl else w.veBusy o lat

/-- Where a packet's writes end is all that an issue notes in its core's record. -/
theorem exists_pktEnds (d : Dp) (c : BitVec 3) (e : Nat) (t : W64) (pkt last : Nat) :
    ∃ p, (if e = 0 then d else d.modCore c (fun x => x.packetEnds t pkt last)) = d.modCore c (fun x => { x with pktEnds := p }) := by
  by_cases he : e = 0
  · exact ⟨(vget d.cores c).pktEnds, by rw [if_pos he, Dp.modCore, Dp.setCore_self]⟩
  · refine ⟨((vget d.cores c).packetEnds t pkt last).pktEnds, ?_⟩
    rw [if_neg he, Dp.modCore, Dp.modCore]
    refine congrArg (d.setCore c) ?_
    unfold Core.packetEnds
    split <;> rfl

section
variable (s : State) (c : BitVec 3) (o lat : Nat) (run : Bool) (n : Nat) (l : List (Nat × Nat × Nat)) (fl : NFlags)

/-- The core's record after a VE command: where it runs, its flags are raised. -/
def veIssued : Core := if run then withFlags s c .ve fl (veOccupied s c o lat) else veOccupied s c o lat

/-- The engine occupied is all that a VE command at work has changed so far. -/
theorem veBusy_workOf_d : ((workOf s c .ve false).veBusy o lat).d = s.dp.setCore c (veOccupied s c o lat) := by
  simp [Work.veBusy, workOf, eventWork, veOccupied, veBusyWith, Core.pop, Dp.modCore]

theorem veWork_d : (veWork (workOf s c .ve false) o lat run n l fl).d =
    { s.dp.setCore c (veIssued s c o lat run fl) with landings := s.dp.landings ++ if run then [(n, .regs c l)] else [] } := by
  cases run
  case true =>
    change (((workOf s c .ve false).veBusy o lat).d.landIn n (.regs c l)).modCore c (withFlags s c .ve fl) = _
    simp [veIssued, veBusy_workOf_d, Dp.modCore, Dp.landIn, Dp.setCore]
  case false =>
    simp [veWork, veIssued, veBusy_workOf_d, Dp.setCore]

theorem veWork_lateRows : (veWork (workOf s c .ve false) o lat run n l fl).lateRows = [] := by cases run <;> rfl

theorem veWork_reps : (veWork (workOf s c .ve false) o lat run n l fl).reps = [] := by cases run <;> rfl

/-- Of the occupied core's record only the flags may differ. -/
theorem veIssued_eq : veIssued s c o lat run fl =
    { veOccupied s c o lat with nflag := (veIssued s c o lat run fl).nflag, nflagNew := (veIssued s c o lat run fl).nflagNew,
                                nflagCyc := (veIssued s c o lat run fl).nflagCyc, nflagHeld := (veIssued s c o lat run fl).nflagHeld } := by
  unfold veIssued withFlags
  split_ifs <;> rfl

theorem veIssued_ve : (veIssued s c o lat run fl).ve = veBusyWith (coreOf s c).ve s.dp.cycle o lat := by
  rw [veIssued_eq]
  rfl

theorem veIssued_cpWait : (veIssued s c o lat run fl).cpWait = (coreOf s c).cpWait := by
  rw [veIssued_eq]
  rfl

theorem keepVe_veIssued (p : List (W64 × Nat × Nat)) :
    keepVe { veIssued s c o lat run fl with pktEnds := p } ((coreOf s c).pop .ve) = { veIssued s c o lat run fl with pktEnds := p } := by
  rw [veIssued_eq]
  rfl

/-- A VE command raises its flags where it runs, and none where it does not. -/
theorem flagsRaised_veIssued {t : State} (p : List (W64 × Nat × Nat)) (ht : coreOf t c = { veIssued s c o lat run fl with pktEnds := p }) :
    flagsRaised s t c .ve (if run then fl else .none) := by
  unfold flagsRaised flagsOfTick
  rw [ht]
  cases run
  case true =>
    rw [if_pos rfl]
    split_ifs with hspec <;> simp [veIssued, withFlags, isSpec, hspec, veOccupied, Core.pop, Core.setNflag]
  case false =>
    have hnone : nflagBits .ve .none = 0 := by decide
    simp [veIssued, veOccupied, Core.pop, holdFlags, hnone]

end

/-- What the issue of a VE command does: it occupies its engine; where it runs, its lanes are on their way and its flags raised; nothing
else changes. -/
theorem issueNow_veWork {s : State} {i : Iss} {eff : Bool → Work → Work} {o lat n : Nat} {l : List (Nat × Nat × Nat)} {fl : NFlags}
    (hearly : noEarlyWork s = true) (hcp : (coreOf s i.core).cpWait = [])
    (heff : eff (runs s i) (workOf s i.core .ve false) = veWork (workOf s i.core .ve false) o lat (runs s i) n l fl) :
    let t := issueNow s i .ve false eff
    sameBeside s t ∧ onlyCore s t i.core .ve keepVe (if runs s i then [(n, .regs i.core l)] else []) ∧
      (coreOf t i.core).ve = veBusyWith (coreOf s i.core).ve s.dp.cycle o lat ∧
      flagsRaised s t i.core .ve (if runs s i then fl else .none) := by
  intro t
  have hd := veWork_d s i.core o lat (runs s i) n l fl
  have hwait : (vget (veWork (workOf s i.core .ve false) o lat (runs s i) n l fl).d.cores i.core).cpWait = [] := by
    rw [hd, ← hcp, ← veIssued_cpWait s i.core o lat (runs s i) fl]
    simp
  obtain ⟨hside, hdp⟩ := issueNow_plain s i .ve false eff hearly _ heff (veWork_lateRows ..) (veWork_reps ..) hwait
  obtain ⟨p, hp⟩ := exists_pktEnds (veWork (workOf s i.core .ve false) o lat (runs s i) n l fl).d i.core _ _ i.pkt _
  rw [hp, hd] at hdp
  obtain ⟨honly, hcore⟩ := onlyCore_of_dp (s := s) (y := { veIssued s i.core o lat (runs s i) fl with pktEnds := p }) (by simpa [Dp.modCore, Dp.setCore] using hdp)
    (keepVe_veIssued ..)
  exact ⟨hside, honly, by rw [hcore]; exact veIssued_ve .., flagsRaised_veIssued s i.core o lat (runs s i) fl p hcore⟩

/-! ### Exact sums and maxima -/

/-- A sum over lanes adds the numbers they hold. -/
theorem holds_foldl_addExact {g : Int → Dec} {h : Int → ℚ} (hg : ∀ a, (g a).Holds (h a)) (l : List Int) {d : Dec} {v : ℚ} (hd : d.Holds v) :
    ((l.map g).foldl addExact d).Holds (v + (l.map h).sum) := by
  induction l generalizing d v with
  | nil => simpa using hd
  | cons a l ih =>
    rw [List.map_cons, List.foldl_cons, List.map_cons, List.sum_cons, ← add_assoc]
    exact ih (holds_addExact hd (hg a))

/-- The largest magnitude among lanes of one exponent is that of their significands. -/
theorem holds_foldl_maxDec (q : Int) (l : List Int) {d : Dec} {m : Int} (hd : d.Holds (m * 2 ^ q)) :
    ((l.map (fun a => absDec (.fin a q))).foldl maxDec d).Holds ((l.foldl (fun m a => max m a.natAbs) m : Int) * 2 ^ q) := by
  induction l generalizing d m with
  | nil => exact hd
  | cons a l ih =>
    rw [List.map_cons, List.foldl_cons, List.foldl_cons]
    refine ih ?_
    rw [Int.cast_max, max_mul_of_nonneg _ _ (by positivity : (0 : ℚ) ≤ 2 ^ q)]
    exact holds_maxDec hd (holds_fin _ q)

theorem nanOr_of_nan {ds : List Dec} (h : ∃ d ∈ ds, d.cls = .nan) (r : Dec) : nanOr ds r = .nan := by
  simp [nanOr, h]

theorem nanOr_of_finite {ds : List Dec} (h : ∀ d ∈ ds, d.cls = .finite) (r : Dec) : nanOr ds r = r := by
  have hnan : ¬ ∃ d ∈ ds, d.cls = .nan := fun ⟨d, hd, hcls⟩ => by simp [h d hd] at hcls
  simp [nanOr, hnan]

theorem map_fin_finite (l : List Int) (q : Int) : ∀ d ∈ l.map (Dec.fin · q), d.cls = .finite := by
  simp [Dec.fin]

/-! ### Reductions (R192) -/

/-- The reduction gives NAN when a lane is NAN, and holds the number of `total` when the lanes are integers in units of 2^q. -/
def Reduces (fn : List Dec → Dec) (total : List Int → Dec) (q : Int) : Prop :=
  (∀ ds, (∃ d ∈ ds, d.cls = .nan) → fn ds = .nan) ∧ ∀ l, ∃ v, (fn (l.map (Dec.fin · q))).Holds v ∧ (total l).Holds v

theorem redSum_reduces (q : Int) : Reduces redSum (fun l => .fin l.sum q) q := by
  refine ⟨fun ds h => nanOr_of_nan h _, fun l => ⟨_, ?_, holds_fin _ q⟩⟩
  rw [redSum, sumExact, nanOr_of_finite (map_fin_finite l q)]
  have hsum := holds_foldl_addExact (holds_fin · q) l (holds_fin 0 0)
  rwa [List.sum_map_mul_right, Int.cast_zero, zero_mul, zero_add, ← Int.cast_list_sum] at hsum

/-- The squares of lanes are the lanes of the squares. -/
theorem redSsq_map_fin (l : List Int) (q : Int) : redSsq (l.map (Dec.fin · q)) = redSum ((l.map (fun a => a * a)).map (Dec.fin · (2 * q))) := by
  rw [redSsq, redSum, List.map_map, List.map_map, two_mul]
  refine congrArg sumExact (List.map_congr_left (fun a _ => ?_))
  exact nanOr_of_finite (map_fin_finite [a] q) _

theorem redSsq_reduces (q : Int) : Reduces redSsq (fun l => .fin (l.map (fun a => a * a)).sum (2 * q)) q := by
  refine ⟨fun ds h => ?nan, fun l => ?fin⟩
  case nan =>
    obtain ⟨d, hd, hcls⟩ := h
    refine nanOr_of_nan ⟨_, List.mem_map_of_mem hd, ?_⟩ _
    rw [nanOr_of_nan ⟨d, List.mem_singleton_self d, hcls⟩]
    rfl
  case fin =>
    rw [redSsq_map_fin]
    exact (redSum_reduces (2 * q)).2 _

theorem redMax_reduces (q : Int) : Reduces redMax (fun l => .fin (l.foldl (fun m a => max m a.natAbs) 0) q) q := by
  refine ⟨fun ds h => nanOr_of_nan h _, fun l => ⟨_, ?_, holds_fin _ q⟩⟩
  rw [redMax, nanOr_of_finite (map_fin_finite l q), List.map_map]
  refine holds_foldl_maxDec q l ?_
  simpa using holds_fin 0 0

/-- The decoded value of an integer lane in units of 2^q: NAN for the symmetric marker (R62, R172). -/
def intDec (sym : Bool) (q a : Int) : Dec := if sym = true ∧ a = -(2 ^ 31) then .nan else .fin a q

/-- A reduction over decoded lanes stores the total of the lanes' integers, or NAN when a lane is the marker. -/
theorem storeElem_reduce {fn : List Dec → Dec} {total : List Int → Dec} {q : Int} (h : Reduces fn total q) (sym : Bool) (l : List Int)
    (qd : Int) : storeElem .i32 sym (fn (l.map (intDec sym q))) qd =
      storeElem .i32 sym (if sym = true ∧ -(2 ^ 31) ∈ l then .nan else total l) qd := by
  obtain ⟨hnan, hfin⟩ := h
  by_cases hm : sym = true ∧ -(2 ^ 31) ∈ l
  · rw [if_pos hm, hnan]
    exact ⟨_, List.mem_map_of_mem hm.2, by rw [intDec, if_pos ⟨hm.1, rfl⟩]; rfl⟩
  · have hlanes : l.map (intDec sym q) = l.map (Dec.fin · q) :=
      List.map_congr_left (fun a ha => if_neg (fun ⟨hsym, hmarker⟩ => hm ⟨hsym, hmarker ▸ ha⟩))
    obtain ⟨v, hv, htotal⟩ := hfin l
    rw [if_neg hm, hlanes]
    exact storeElem_eq_of_holds rfl hv htotal sym qd

/-! ### What the lanes read (R172, R174) -/

/-- A little-endian number of n bytes lies below 256^n. -/
theorem leValue_lt (l : List Byte) : l.foldr (fun b acc => b.toNat + 256 * acc) 0 < 256 ^ l.length := by
  induction l with
  | nil => simp
  | cons b l ih =>
    have hb := b.isLt
    rw [List.foldr_cons, List.length_cons, pow_succ]
    omega

theorem laneCode_lt (c : Core) (n j : Nat) : laneCode c n j < 2 ^ 32 := by
  have h := leValue_lt (memSlice c.ve.regs (256 * n + 4 * j) 4)
  rwa [memSlice_length] at h

/-- Of the codes of n bits only the marker reads as the most negative value. -/
theorem signedOf_eq_marker_iff {n code : Nat} (hn : 0 < n) (h : code < 2 ^ n) : signedOf n code = -(2 ^ (n - 1)) ↔ code = 2 ^ (n - 1) := by
  refine ⟨fun hcode => ?_, fun hcode => hcode ▸ signedOf_marker hn⟩
  have hbits := congrArg BitVec.toNat (BitVec.toInt_inj.1 (hcode.trans (signedOf_marker hn).symm))
  have hmarker : 2 ^ (n - 1) < 2 ^ n := Nat.pow_lt_pow_right (by norm_num) (by omega)
  rwa [BitVec.toNat_ofNat, BitVec.toNat_ofNat, Nat.mod_eq_of_lt h, Nat.mod_eq_of_lt hmarker] at hbits

/-- A lane decodes as the integer of its code. -/
theorem laneDec_eq_intDec (c : Core) (sym : Bool) (n j : Nat) (q : Int) : laneDec c sym n j q = intDec sym q (signedOf 32 (laneCode c n j)) := by
  have hmarker : signedOf 32 (laneCode c n j) = -(2 ^ 31) ↔ laneCode c n j = 2 ^ 31 := signedOf_eq_marker_iff (by norm_num) (laneCode_lt c n j)
  simp only [laneDec, decodeElem, intDec, hmarker, Fmt.isInt, Fmt.bits, Bool.and_eq_true, beq_iff_eq, if_true]

/-- Lanes written change the registers only. -/
theorem setLanes_eq (c : Core) (l : List (Nat × Nat × Nat)) :
    setLanes c l = { c with ve := { c.ve with regs := (setLanes c l).ve.regs } } := by
  induction l generalizing c with
  | nil => rfl
  | cons x l ih => exact (ih (setLane c x.1 x.2.1 x.2.2) :)

/-- What lanes written leave in the registers depends on the registers they met. -/
theorem setLanes_regs_congr {c d : Core} (h : c.ve.regs = d.ve.regs) (l : List (Nat × Nat × Nat)) :
    (setLanes c l).ve.regs = (setLanes d l).ve.regs := by
  induction l generalizing c d with
  | nil => exact h
  | cons x l ih => exact ih (by simp [setLane, h])

theorem laneOn_setLanes (c : Core) (l : List (Nat × Nat × Nat)) : laneOn (setLanes c l) = laneOn c := by
  rw [setLanes_eq]
  rfl

/-- A VE command that has taken its queue's head and its engine's cycles still reads the registers and masks of its issue cycle. -/
theorem reduceLanes_eq (s : State) (i : Iss) (f : VRedF) (o lat : Nat) :
    reduceLanes ((workOf s i.core .ve false).veBusy o lat).meAt i f = (enabledLanes s i f).map (intDec (f.sym == 1) f.qa.toInt) := by
  have hme : ((workOf s i.core .ve false).veBusy o lat).me = veOccupied s i.core o lat := by
    rw [Work.me, veBusy_workOf_d]
    exact vget_vset_same ..
  have hon : laneOn (((workOf s i.core .ve false).veBusy o lat).meAt 0) = laneOn (coreOf s i.core) := by
    rw [Work.meAt, laneOn_setLanes, hme]
    rfl
  have hcode (r : Nat) : laneCode (((workOf s i.core .ve false).veBusy o lat).meAt r) = laneCode (seenAt s i.core r) := by
    have hregs : (((workOf s i.core .ve false).veBusy o lat).meAt r).ve.regs = (seenAt s i.core r).ve.regs :=
      setLanes_regs_congr (by rw [hme]; rfl) _
    funext n j
    rw [laneCode, hregs, laneCode]
  simp only [reduceLanes, enabledLanes, laneDec_eq_intDec, hon, hcode, List.map_flatMap, List.map_map, Function.comp_def]

/-! ### The statement about the reductions -/

/-- The code and the flags of a reduction's one store: the total of the enabled lanes, or NAN where one of them is the symmetric marker. -/
def reduceStore (total : List Int → Dec) (s : State) (i : Iss) (f : VRedF) : Nat × NFlags :=
  storeElem .i32 (f.sym == 1) (if f.sym = 1 ∧ -(2 ^ 31) ∈ enabledLanes s i f then .nan else total (enabledLanes s i f)) f.qd.toInt

section
variable {fn : List Dec → Dec} {total : List Int → Dec} {f : VRedF} (h : Reduces fn total f.qa.toInt)
include h

/-- A reduction at work puts its one result on the way to lane STD of VD. -/
theorem effReduce_eq_veWork (s : State) (i : Iss) (run : Bool) :
    effReduce fn i f run (workOf s i.core .ve false) = veWork (workOf s i.core .ve false) (f.cnt1.toNat + 1) 6 run (f.cnt1.toNat + 1 + 6)
      [(f.vd.toNat, f.std.toNat, (reduceStore total s i f).1)] (reduceStore total s i f).2 := by
  have hstore := storeElem_reduce h (f.sym == 1) (enabledLanes s i f) f.qd.toInt
  rw [← reduceLanes_eq s i f (f.cnt1.toNat + 1) 6] at hstore
  simp only [beq_iff_eq] at hstore
  cases run
  · rfl
  · simp only [effReduce, veWork, reduceStore, hstore, Bool.not_true, Bool.false_eq_true, if_false, if_true]

/-- A due command whose effect is the reduction through `fn` stores `total` once. -/
theorem exec_reduce {s : State} {c : Instr} {i : Iss} (hexec : exec c s = issueEngine c i .ve (effReduce fn i f) s)
    (hdue : dueNow s c i .ve = true) :
    let r := reduceStore total s i f
    ∃ t, exec c s = .next t ∧ sameBeside s t ∧
      onlyCore s t i.core .ve keepVe (if runs s i then [(f.cnt1.toNat + 1 + 6, .regs i.core [(f.vd.toNat, f.std.toNat, r.1)])] else []) ∧
      (coreOf t i.core).ve = veBusyWith (coreOf s i.core).ve s.dp.cycle (f.cnt1.toNat + 1) 6 ∧
      flagsRaised s t i.core .ve (if runs s i then r.2 else .none) := by
  obtain ⟨hissue, hearly, hcp⟩ := issueEngine_of_dueNow hdue (effReduce fn i f)
  exact ⟨_, hexec.trans hissue, issueNow_veWork hearly hcp (effReduce_eq_veWork h s i (runs s i))⟩

end

/-- Settles O24: each of the three forms its total as one exact value over the decoded lanes, and the store depends on that value alone. -/
theorem reductionsStoreOnce : Obligations.ReductionsStoreOnce := by
  unfold Obligations.ReductionsStoreOnce
  intro s c i f total hc hdue
  rcases hc with ⟨rfl, rfl⟩ | ⟨rfl, rfl⟩ | ⟨rfl, rfl⟩
  · exact exec_reduce (redSum_reduces _) rfl hdue
  · exact exec_reduce (redSsq_reduces _) rfl hdue
  · exact exec_reduce (redMax_reduces _) rfl hdue

end Sys2Proof.Machine
end

section
/-!
SUPPORT. Check units: which unit a command changes, the register as bytes are absorbed, and what a start, a feed and a preset leave in a
unit, said once for each; then the statement of 15_check_units.
-/
namespace Sys2Proof.Machine
open Sys2Proof.Safety

/-! ### One unit of the state -/

/-- Two units of cores with one place in the table are one unit. -/
theorem cuIndex_inj {c d : BitVec 3} {i j : BitVec 1}
    (h : BitVec.ofNat 4 (2 * c.toNat + i.toNat) = BitVec.ofNat 4 (2 * d.toNat + j.toNat)) : c = d ∧ i = j := by
  have hn := congrArg BitVec.toNat h
  rw [BitVec.toNat_ofNat, BitVec.toNat_ofNat] at hn
  exact ⟨by bv_omega, by bv_omega⟩

theorem corePresent_setUnit (s : State) (u : UnitId) (y : Cu) (c : BitVec 3) : corePresent (setUnit s u y) c = corePresent s c := by
  cases u <;> rfl

theorem getUnit_setUnit_same {s : State} {u : UnitId} {x : Cu} (h : getUnit s u = some x) (y : Cu) :
    getUnit (setUnit s u y) u = some y := by
  cases u with
  | cu c k =>
    have hpresent : corePresent s c = true := by
      by_contra habsent
      simp [getUnit, habsent] at h
    rw [getUnit, corePresent_setUnit, if_pos hpresent]
    exact congrArg some (vget_vset_same ..)
  | du d => simp [getUnit, setUnit]

theorem getUnit_setUnit_ne {u k : UnitId} (h : k ≠ u) (s : State) (y : Cu) : getUnit (setUnit s u y) k = getUnit s k := by
  cases u with
  | cu c i =>
    cases k with
    | cu d j =>
      have hplace : BitVec.ofNat 4 (2 * d.toNat + j.toNat) ≠ BitVec.ofNat 4 (2 * c.toNat + i.toNat) := by
        intro he
        obtain ⟨rfl, rfl⟩ := cuIndex_inj he
        exact h rfl
      simp only [getUnit, corePresent_setUnit]
      simp only [setUnit, vget_vset_ne _ _ _ _ hplace]
    | du d => rfl
  | du d =>
    cases k with
    | cu c i => rfl
    | du e =>
      have hplace : e ≠ d := fun he => h (congrArg UnitId.du he)
      simp only [getUnit, setUnit, vget_vset_ne _ _ _ _ hplace]

theorem unitOnly_setUnit (s : State) (u : UnitId) (y : Cu) : unitOnly s (setUnit s u y) u :=
  ⟨fun _ hk => getUnit_setUnit_ne hk s y, by cases u <;> rfl⟩

/-- A command that changes unit u by f leaves f of it, every other unit, and the rest of the block. -/
theorem exec_modUnit {c : Instr} {s : State} {u : UnitId} {x : Cu} {f : Cu → Cu} (hget : getUnit s u = some x)
    (hexec : exec c s = .next (modUnit s u f)) : ∃ t, exec c s = .next t ∧ unitOnly s t u ∧ getUnit t u = some (f x) := by
  have hmod : modUnit s u f = setUnit s u (f x) := by simp only [modUnit, hget]
  rw [hmod] at hexec
  exact ⟨_, hexec, unitOnly_setUnit s u (f x), getUnit_setUnit_same hget (f x)⟩

/-! ### The register (R316) -/

theorem crcShift_lt (w poly reg : Nat) : crcShift w poly reg < 2 ^ w := by
  have hshift : 2 * reg % 2 ^ w < 2 ^ w := Nat.mod_lt _ (Nat.two_pow_pos w)
  unfold crcShift
  split
  · exact Nat.xor_lt_two_pow hshift (Nat.mod_lt _ (Nat.two_pow_pos w))
  · exact hshift

theorem crcShifts_succ_lt (w poly k reg : Nat) : crcShifts w poly (k + 1) reg < 2 ^ w := by
  induction k generalizing reg with
  | zero => exact crcShift_lt w poly reg
  | succ k ih => exact ih (crcShift w poly reg)

/-- An absorbed byte leaves a register of w bits. -/
theorem crcByte_lt (w poly : Nat) (refin : Bool) (reg b : Nat) : crcByte w poly refin reg b < 2 ^ w :=
  crcShifts_succ_lt w poly 7 _

theorem crcBytes_append (w poly : Nat) (refin : Bool) (reg : Nat) (a b : List Byte) :
    crcBytes w poly refin reg (a ++ b) = crcBytes w poly refin (crcBytes w poly refin reg a) b := List.foldl_append

/-- A register that fits n bits, no fewer than the width, keeps fitting them. -/
theorem crcBytes_lt {w n reg : Nat} (hw : w ≤ n) (hreg : reg < 2 ^ n) (poly : Nat) (refin : Bool) (bs : List Byte) :
    crcBytes w poly refin reg bs < 2 ^ n := by
  induction bs generalizing reg with
  | nil => exact hreg
  | cons b bs ih => exact ih ((crcByte_lt w poly refin reg b.toNat).trans_le (Nat.pow_le_pow_right Nat.two_pos hw))

/-! ### Absorbing, start, feed and result (R317 to R320) -/

/-- RUN holds the whole register between the parts, so the parts absorb as one message. -/
theorem Cu.absorb_append (x : Cu) (hw : x.width.toNat ≤ 64) (a b : List Byte) : (x.absorb a).absorb b = x.absorb (a ++ b) := by
  have hrun : (BitVec.ofNat 64 (crcBytes x.width.toNat x.poly.toNat x.refin x.run.toNat a)).toNat =
      crcBytes x.width.toNat x.poly.toNat x.refin x.run.toNat a :=
    (BitVec.toNat_ofNat ..).trans (Nat.mod_eq_of_lt (crcBytes_lt hw x.run.isLt ..))
  simp only [Cu.absorb, hrun, crcBytes_append]

/-- INIT cut to the width fits RUN. -/
theorem Cu.toNat_initRun (x : Cu) : (BitVec.ofNat 64 (x.init.toNat % 2 ^ x.width.toNat)).toNat = x.init.toNat % 2 ^ x.width.toNat :=
  (BitVec.toNat_ofNat ..).trans (Nat.mod_eq_of_lt ((Nat.mod_le _ _).trans_lt x.init.isLt))

/-- A start leaves INIT with the fold absorbed, where it is enabled, as RUN. -/
theorem Cu.start_eq (x : Cu) (src : Bool) (fold : W32) (now : Nat) :
    x.start src fold now = { x with
      src := src, fold := fold, count := 0, fresh := false, busyTo := if x.foldEn then max x.busyTo now + 4 else x.busyTo,
      run := BitVec.ofNat 64 (crcBytes x.width.toNat x.poly.toNat x.refin (x.init.toNat % 2 ^ x.width.toNat)
        (if x.foldEn then foldBytes fold else [])) } := by
  cases hfold : x.foldEn with
  | true => simp only [Cu.start, Cu.absorb, hfold, x.toNat_initRun, if_true]
  | false => simp only [Cu.start, hfold, Bool.false_eq_true, if_false]; rfl

/-- A feed of the source selected absorbs its bytes and counts them. -/
theorem Cu.feed_selected {x : Cu} {row : Bool} (h : x.src = row) (bs : List Byte) (k now : Nat) :
    x.feed row bs k now = { x.absorb bs with count := x.count + BitVec.ofNat 32 bs.length, busyTo := max x.busyTo now + k } := if_pos h

/-- A feed of the other source is refused. -/
theorem Cu.feed_refused {x : Cu} {row : Bool} (h : x.src ≠ row) (bs : List Byte) (k now : Nat) :
    x.feed row bs k now = { x with feedErr := true } := if_neg h

/-- The result of a message that no fold opens is the CRC of its bytes from INIT. -/
theorem Cu.result_absorb_start {x : Cu} (hfold : x.foldEn = false) (hw : x.width.toNat ≤ 64) (src : Bool) (fold : W32) (now : Nat)
    (bs : List Byte) : ((x.start src fold now).absorb bs).result = BitVec.ofNat 64 (crcResult x.width.toNat x.refout x.inv
      (crcBytes x.width.toNat x.poly.toNat x.refin (x.init.toNat % 2 ^ x.width.toNat) bs)) := by
  have hreg : crcBytes x.width.toNat x.poly.toNat x.refin (x.init.toNat % 2 ^ x.width.toNat) bs < 2 ^ x.width.toNat :=
    crcBytes_lt le_rfl (Nat.mod_lt _ (Nat.two_pow_pos _)) ..
  have hinit : crcBytes x.width.toNat x.poly.toNat x.refin (x.init.toNat % 2 ^ x.width.toNat) [] = x.init.toNat % 2 ^ x.width.toNat := rfl
  simp only [Cu.start_eq, hfold, Bool.false_eq_true, if_false, hinit, Cu.absorb, Cu.result, x.toNat_initRun, BitVec.toNat_ofNat,
    Nat.mod_eq_of_lt (hreg.trans_le (Nat.pow_le_pow_right Nat.two_pos hw)), Nat.mod_eq_of_lt hreg]

/-! ### The commands -/

section
variable {s : State} {u : UnitId} {x : Cu} (hget : getUnit s u = some x)
include hget

theorem exec_start (src : Bool) (fold : W32) : ∃ t y, exec (.start u src fold) s = .next t ∧ unitOnly s t u ∧ getUnit t u = some y ∧ y.count = 0 ∧
    y.run.toNat = crcBytes x.width.toNat x.poly.toNat x.refin (x.init.toNat % 2 ^ x.width.toNat) (if x.foldEn then foldBytes fold else []) % 2 ^ 64 ∧
    { y with src := x.src, fold := x.fold, run := x.run, count := x.count, busyTo := x.busyTo, fresh := x.fresh } = x ∧ y.src = src ∧ y.fold = fold ∧
    y.fresh = false := by
  obtain ⟨t, hexec, honly, hunit⟩ := exec_modUnit hget (c := .start u src fold) rfl
  rw [Cu.start_eq] at hunit
  exact ⟨t, _, hexec, honly, hunit, rfl, BitVec.toNat_ofNat .., rfl, rfl, rfl, rfl⟩

/-- A command that feeds bytes from the registers. -/
theorem exec_registerFeed {c : Instr} {bs : List Byte} {k : Nat}
    (hfeed : exec c s = .next (modUnit s u (fun x => x.feed false bs k s.dp.cycle))) :
    ∃ t y, exec c s = .next t ∧ unitOnly s t u ∧ getUnit t u = some y ∧
      (x.src = false → y.run = (x.absorb bs).run ∧ y.count = x.count + BitVec.ofNat 32 bs.length ∧
        { y with run := x.run, count := x.count, busyTo := x.busyTo, fresh := x.fresh } = x ∧ y.fresh = false) ∧
      (x.src = true → y = { x with feedErr := true }) := by
  obtain ⟨t, hexec, honly, hunit⟩ := exec_modUnit hget hfeed
  refine ⟨t, _, hexec, honly, hunit, fun hsrc => ?_, fun hsrc => Cu.feed_refused (by simp [hsrc]) ..⟩
  rw [Cu.feed_selected hsrc]
  exact ⟨rfl, rfl, rfl, rfl⟩

theorem exec_rowFeed_selected (data : List Byte) (hrow : hasRowFeed u = true) (hsrc : x.src = true) :
    ∃ t y, exec (.rowFeed u data) s = .next t ∧ unitOnly s t u ∧ getUnit t u = some y ∧ y.run = (x.absorb data).run ∧
      y.count = x.count + BitVec.ofNat 32 data.length ∧ { y with run := x.run, count := x.count, busyTo := x.busyTo, fresh := x.fresh } = x := by
  obtain ⟨t, hexec, honly, hunit⟩ := exec_modUnit hget (c := .rowFeed u data) rfl
  rw [if_pos hrow, Cu.feed_selected hsrc] at hunit
  exact ⟨t, _, hexec, honly, hunit, rfl, rfl, rfl⟩

/-- A unit without row feed refuses it as one whose message comes from the registers does. -/
theorem exec_rowFeed_refused (data : List Byte) (h : hasRowFeed u = false ∨ x.src = false) :
    ∃ t, exec (.rowFeed u data) s = .next t ∧ unitOnly s t u ∧ getUnit t u = some { x with feedErr := true } := by
  obtain ⟨t, hexec, honly, hunit⟩ := exec_modUnit hget (c := .rowFeed u data) rfl
  refine ⟨t, hexec, honly, hunit.trans ?_⟩
  rcases h with hrow | hsrc
  · simp only [hrow, Bool.false_eq_true, if_false]
  · simp only [Cu.feed_refused (show x.src ≠ true by simp [hsrc]), ite_self]

theorem exec_preset (p : BitVec 2) : ∃ t, exec (.preset u p) s = .next t ∧ unitOnly s t u ∧ getUnit t u = some (x.preset p) :=
  exec_modUnit hget (f := fun x => x.preset p) rfl

theorem exec_runWrite (run : Option W64) (count : Option W32) : ∃ t, exec (.runWrite u run count) s = .next t ∧ unitOnly s t u ∧
    getUnit t u = some { x with run := run.getD x.run, count := count.getD x.count, fresh := x.fresh && run.isNone } :=
  exec_modUnit hget (f := fun x => { x with run := run.getD x.run, count := count.getD x.count, fresh := x.fresh && run.isNone }) rfl

end

/-! ### Presets (R321, Table 15-1) -/

theorem preset_cases (p : BitVec 2) : p = 0 ∨ p = 1 ∨ p = 2 ∨ p = 3 := by
  revert p; decide

/-- A preset leaves reg, COUNT and FOLD; only the named checks count as a configuration set. -/
theorem Cu.preset_keeps (x : Cu) (p : BitVec 2) :
    (x.preset p).run = x.run ∧ (x.preset p).count = x.count ∧ (x.preset p).fold = x.fold ∧ (x.preset p).fresh = (x.fresh && p == 0) := by
  rcases preset_cases p with rfl | rfl | rfl | rfl
  · exact ⟨rfl, rfl, rfl, (Bool.and_true _).symm⟩
  all_goals exact ⟨rfl, rfl, rfl, (Bool.and_false _).symm⟩

theorem Cu.preset_width_le (x : Cu) {p : BitVec 2} (hp : p ≠ 0) : (x.preset p).width.toNat ≤ 64 := by
  rcases preset_cases p with rfl | rfl | rfl | rfl
  · exact absurd rfl hp
  · exact (by decide : 32 ≤ 64)
  · exact (le_rfl : 64 ≤ 64)
  · exact (by decide : 32 ≤ 64)

/-- The ASCII bytes "123456789". -/
def checkMessage : List Byte := [0x31, 0x32, 0x33, 0x34, 0x35, 0x36, 0x37, 0x38, 0x39]

theorem crc32c_checkValue : crcResult 32 true true (crcBytes 32 0x1EDC6F41 true 0xFFFFFFFF checkMessage) = 0xE3069283 := by decide +kernel

theorem sig64_checkValue :
    crcResult 64 true true (crcBytes 64 0x42F0E1EBA9EA3693 true 0xFFFFFFFFFFFFFFFF checkMessage) = 0x995DC9BBDF1939FA := by decide +kernel

/-- The check values of Table 15-1; presets 1 and 3 differ in FOLD_EN alone. -/
theorem Cu.preset_checkValue (x : Cu) {p : BitVec 2} (hp : p ≠ 0) :
    ((({ x.preset p with foldEn := false }).start false 0 0).absorb checkMessage).result =
      if p = 2 then 0x995DC9BBDF1939FA else 0xE3069283 := by
  rw [Cu.result_absorb_start (x := { x.preset p with foldEn := false }) rfl (x.preset_width_le hp)]
  rcases preset_cases p with rfl | rfl | rfl | rfl
  · exact absurd rfl hp
  · exact congrArg (BitVec.ofNat 64) crc32c_checkValue
  · exact congrArg (BitVec.ofNat 64) sig64_checkValue
  · exact congrArg (BitVec.ofNat 64) crc32c_checkValue

/-- Settles O54: each command changes its one unit by a function of the unit, whose equation says the rest; RUN holds the register whole
between the parts of a message. -/
theorem checkUnitCommands : Obligations.CheckUnitCommands := by
  unfold Obligations.CheckUnitCommands
  refine ⟨fun s u x hget => ⟨exec_start hget, ?_, exec_rowFeed_selected hget, exec_rowFeed_refused hget, ?_, exec_runWrite hget⟩,
    fun x a b hw => x.absorb_append hw a b, fun x p hp => x.preset_checkValue hp⟩
  · rintro c bs (⟨b, rfl, rfl⟩ | ⟨h, rfl, rfl⟩ | ⟨w, rfl, rfl⟩)
    · exact exec_registerFeed hget (k := 1) rfl
    · exact exec_registerFeed hget (k := 2) rfl
    · exact exec_registerFeed hget (k := 4) rfl
  · intro p
    obtain ⟨t, hexec, honly, hunit⟩ := exec_preset hget p
    obtain ⟨hrun, hcount, hfold, hfresh⟩ := x.preset_keeps p
    refine ⟨t, _, hexec, honly, hunit, hrun, hcount, hfold, hfresh, ?_, ?_, ?_, ?_⟩
    all_goals rintro rfl; rfl

end Sys2Proof.Machine
end

section
/-!
SUPPORT. The step and the memories at reset: what one step does, and that a reset leaves no byte listed.
-/
namespace Sys2Proof.Machine
-- one proof after the other: the check compiles one text, and its memory holds few threads
set_option Elab.async false
open Sys2Proof.Safety

/-! ### The step -/

theorem step_cons (c : Instr) (cs : List Instr) (s : State) : step { s with pending := c :: cs } = exec c { s with pending := cs } := rfl

theorem step_nil {s : State} (h : s.pending = []) : step s = .next (idle s) := by unfold step; rw [h]

/-- The sensed identity is shown, whether or not a GO was held for it. -/
theorem senseIdentity_idShown (s : State) : (senseIdentity s).sec.idShown = true := by
  unfold senseIdentity startBoot; dsimp only; split <;> rfl

theorem idle_of_not_idShown {s : State} (h : s.sec.idShown = false) : idle s = senseIdentity s := by simp [idle, h]

/-- Nothing is reached while ACLK is stopped. -/
theorem mayReach_of_stopped {s : State} (h : s.pwr.aclkRun = false) (n : Nat) : mayReach s n = false := by simp [mayReach, clockRuns, h]

theorem idle_of_stopped {s : State} (hid : s.sec.idShown = true) (h : s.pwr.aclkRun = false) : idle s = s := by
  simp [idle, hid, h, mayReach_of_stopped h]

theorem idle_of_mayReach {s : State} (hid : s.sec.idShown = true) (h : mayReach s 1 = true) : idle s = s.pass 1 := by
  simp [idle, hid, h]

/-- Settles O1: exec is what a step runs. -/
theorem stepRunsFrontCommand : Obligations.StepRunsFrontCommand := by
  unfold Obligations.StepRunsFrontCommand
  intro c cs s
  exact step_cons c cs s

/-- Settles O2, case by case of the idle block. -/
theorem emptyQueueIdles : Obligations.EmptyQueueIdles := by
  unfold Obligations.EmptyQueueIdles
  intro s hs
  refine ⟨idle s, step_nil hs, fun hid => ?_, fun hid hclk => idle_of_stopped hid hclk, fun hid hr => idle_of_mayReach hid hr⟩
  rw [idle_of_not_idShown hid]
  exact senseIdentity_idShown s

/-! ### Memories in canonical form -/

/-- The block's memories are canonical where those of the datapath and of the processors are. -/
theorem canonical_iff (s : State) : canonical s ↔ (∀ m ∈ dpMems s.dp, memWf m) ∧ memWf s.xp.mem ∧ memWf s.pp.mem ∧ memWf s.spp.mem ∧
    ∀ p ∈ s.cps.toList, memWf p.mem := by
  simp only [canonical, allMems, List.mem_append, List.mem_cons, List.mem_map, List.not_mem_nil, or_false]
  constructor
  · intro h
    exact ⟨fun m hm => h m (by simp [hm]), h _ (by simp), h _ (by simp), h _ (by simp), fun p hp => h _ (.inr ⟨p, hp, rfl⟩)⟩
  · rintro ⟨hd, hx, hp, hs, hc⟩ m ((hm | hm | hm | hm) | ⟨p, hm, rfl⟩)
    · exact hd m hm
    · exact hm ▸ hx
    · exact hm ▸ hp
    · exact hm ▸ hs
    · exact hc p hm

/-- The memories of a datapath: the device, external memory, and those of its cores. -/
theorem dpMems_wf_iff (d : Dp) : (∀ m ∈ dpMems d, memWf m) ↔ memWf d.dev ∧ memWf d.ext ∧ ∀ c ∈ d.cores.toList, ∀ m ∈ coreMems c, memWf m := by
  simp only [dpMems, List.mem_cons, List.mem_flatMap]
  constructor
  · intro h
    exact ⟨h _ (by simp), h _ (by simp), fun c hc m hm => h m (.inr (.inr ⟨c, hc, hm⟩))⟩
  · rintro ⟨hd, hx, hc⟩ m (rfl | rfl | ⟨c, hm, hmc⟩)
    · exact hd
    · exact hx
    · exact hc c hm m hmc

theorem coreMems_coreReset_wf : ∀ m ∈ coreMems coreReset, memWf m := by
  intro m hm
  have : m = [] := by simpa [coreMems, coreReset, meReset, seReset, veReset] using hm
  exact this ▸ memWf_nil

theorem dpMems_dpReset_wf : ∀ m ∈ dpMems dpReset, memWf m := by
  rw [dpMems_wf_iff]
  refine ⟨memWf_nil, memWf_nil, fun c hc => ?_⟩
  obtain rfl : c = coreReset := by simpa [dpReset] using hc
  exact coreMems_coreReset_wf

/-- Settles O4: every memory of the reset state lists no byte. -/
theorem resetMemoriesCanonical : Obligations.ResetMemoriesCanonical := by
  unfold Obligations.ResetMemoriesCanonical
  rw [canonical_iff]
  refine ⟨dpMems_dpReset_wf, memWf_nil, memWf_nil, memWf_nil, fun p hp => ?_⟩
  obtain rfl : p = procReset := by simpa [State.reset] using hp
  exact memWf_nil

/-! ### The full-width words (R92, R93) -/

/-- The bits of a code above its width are none. -/
theorem codeOf_lt (n : Nat) (v : Int) : codeOf n v < 2 ^ n := BitVec.isLt _

theorem ofCode_code (c : Cls) : Cls.ofCode c.code = some c := by cases c <;> rfl

theorem code_lt (c : Cls) : c.code < 8 := by cases c <;> decide

/-- The three words hold bits [55:24], [87:56] and [23:0] of W, the last with the class above them. -/
theorem words_join {u c : Nat} (hu : u < 2 ^ 88) (hc : c < 8) :
    (u % 2 ^ 24 + c * 2 ^ 24) / 2 ^ 24 % 8 = c ∧
      u / 2 ^ 56 % 2 ^ 32 * 2 ^ 56 + u / 2 ^ 24 % 2 ^ 32 % 2 ^ 32 * 2 ^ 24 + (u % 2 ^ 24 + c * 2 ^ 24) % 2 ^ 24 = u := by
  have h24 : u % 2 ^ 24 < 2 ^ 24 := Nat.mod_lt _ (by decide)
  have hhigh : u / 2 ^ 56 < 2 ^ 32 := Nat.div_lt_of_lt_mul hu
  have hsplit : u / 2 ^ 24 / 2 ^ 32 = u / 2 ^ 56 := Nat.div_div_eq_div_mul u _ _
  have hmid := Nat.div_add_mod (u / 2 ^ 24) (2 ^ 32)
  have hlow := Nat.div_add_mod u (2 ^ 24)
  rw [hsplit] at hmid
  rw [Nat.mod_eq_of_lt hhigh, Nat.mod_mod, Nat.add_mul_div_right _ _ (by decide), Nat.div_eq_of_lt h24, Nat.add_mul_mod_self_right,
    Nat.mod_mod]
  generalize u / 2 ^ 56 = a at *
  generalize u / 2 ^ 24 % 2 ^ 32 = b at *
  generalize u / 2 ^ 24 = d at *
  generalize u % 2 ^ 24 = e at *
  omega

/-- A full-width load of a class that Table 4-1 gives: the class, and for FINITE the W of the words. -/
theorem ofWords_of_ofCode {w0 w1 w2 : Nat} {c : Cls} (h : Cls.ofCode (w2 / 2 ^ 24 % 8) = some c) :
    A88.ofWords w0 w1 w2 = (if c = .finite then ⟨.finite, signedOf 88 (w1 % 2 ^ 32 * 2 ^ 56 + w0 % 2 ^ 32 * 2 ^ 24 + w2 % 2 ^ 24)⟩
      else A88.ofCls c, false) := by
  unfold A88.ofWords
  rw [h]
  cases c <;> rfl

theorem words_0 (v : A88) : v.words.getD 0 0 = codeOf 88 v.w / 2 ^ 24 % 2 ^ 32 := by simp only [A88.words, List.getD_cons_zero]

theorem words_1 (v : A88) : v.words.getD 1 0 = codeOf 88 v.w / 2 ^ 56 := by
  simp only [A88.words, List.getD_cons_succ, List.getD_cons_zero]

theorem words_2 (v : A88) : v.words.getD 2 0 = codeOf 88 v.w % 2 ^ 24 + v.cls.code * 2 ^ 24 := by
  simp only [A88.words, List.getD_cons_succ, List.getD_cons_zero]

/-- A full-width load of the words of a value gives the value. -/
theorem ofWords_words {v : A88} (hlo : -(2 ^ 87) ≤ v.w) (hhi : v.w ≤ 2 ^ 87 - 1) (hc : v.cls ≠ .finite → v = A88.ofCls v.cls) :
    A88.ofWords (v.words.getD 0 0) (v.words.getD 1 0) (v.words.getD 2 0) = (v, false) := by
  obtain ⟨hcode, hw⟩ := words_join (codeOf_lt 88 v.w) (code_lt v.cls)
  have hread : signedOf 88 (codeOf 88 v.w) = v.w := signedOf_codeOf (by decide) hlo hhi
  rw [words_0, words_1, words_2]
  have hcls : Cls.ofCode ((codeOf 88 v.w % 2 ^ 24 + v.cls.code * 2 ^ 24) / 2 ^ 24 % 8) = some v.cls := by rw [hcode, ofCode_code]
  rw [ofWords_of_ofCode hcls, hw, hread]
  by_cases hf : v.cls = .finite
  · rw [if_pos hf, ← hf]
  · rw [if_neg hf, ← hc hf]

theorem ofWords_reserved (w0 w1 : Nat) {w2 : Nat} (h : w2 / 2 ^ 24 % 8 = 5 ∨ w2 / 2 ^ 24 % 8 = 6) :
    A88.ofWords w0 w1 w2 = (A88.ofCls .nan, true) := by
  unfold A88.ofWords
  rcases h with h | h <;> rw [h] <;> rfl

/-- Only bits [26:0] of word 2 count. -/
theorem ofWords_mod (w0 w1 w2 : Nat) : A88.ofWords w0 w1 w2 = A88.ofWords w0 w1 (w2 % 2 ^ 27) := by
  have hcls : w2 % 2 ^ 27 / 2 ^ 24 % 8 = w2 / 2 ^ 24 % 8 := by omega
  have hlow : w2 % 2 ^ 27 % 2 ^ 24 = w2 % 2 ^ 24 := by omega
  unfold A88.ofWords
  rw [hcls, hlow]

/-- Settles O15, from the places of the bits in the three words. -/
theorem fullWidthWordsLoadBack : Obligations.FullWidthWordsLoadBack := by
  unfold Obligations.FullWidthWordsLoadBack
  exact ⟨fun _ hlo hhi hc => ofWords_words hlo hhi hc, fun w0 w1 _ _ h => ofWords_reserved w0 w1 h, ofWords_mod⟩

end Sys2Proof.Machine
end

section
/-!
SUPPORT. Command words (R227, R228): fields packed and read back, the header and the body of a word, and what every body reader gives
for the values it is made of; then decode and encode of every engine command.
-/
namespace Sys2Proof.Machine
-- one proof after the other: the check compiles one text, and its memory holds few threads
set_option Elab.async false

/-! ### Fields packed from bit 0 upward -/

theorem packFields_append (a b : List (Nat × Nat)) :
    packFields (a ++ b) = packFields a + 2 ^ (a.map (fun x => x.1)).sum * packFields b := by
  induction a with
  | nil => simp [packFields]
  | cons x a ih => simp only [List.cons_append, packFields, ih, List.map_cons, List.sum_cons, pow_add]; ring

theorem packFields_lt (l : List (Nat × Nat)) : packFields l < 2 ^ (l.map (fun x => x.1)).sum := by
  induction l with
  | nil => simp [packFields]
  | cons x l ih =>
    have hx : x.2 % 2 ^ x.1 < 2 ^ x.1 := Nat.mod_lt _ (Nat.two_pow_pos _)
    simp only [packFields, List.map_cons, List.sum_cons, pow_add]
    calc x.2 % 2 ^ x.1 + 2 ^ x.1 * packFields l < 2 ^ x.1 + 2 ^ x.1 * packFields l := by omega
      _ = 2 ^ x.1 * (packFields l + 1) := by ring
      _ ≤ 2 ^ x.1 * 2 ^ (l.map (fun x => x.1)).sum := Nat.mul_le_mul_left _ ih

/-- What is packed reads back, with anything above it. -/
theorem unpackFields_packFields (l : List (Nat × Nat)) (n : Nat) (h : ∀ x ∈ l, x.2 < 2 ^ x.1) :
    unpackFields (l.map (fun x => x.1)) (packFields l + 2 ^ (l.map (fun x => x.1)).sum * n) = l.map (fun x => x.2) := by
  induction l with
  | nil => rfl
  | cons x l ih =>
    have hx : x.2 < 2 ^ x.1 := h x (by simp)
    have e : packFields (x :: l) + 2 ^ ((x :: l).map (fun x => x.1)).sum * n =
        x.2 + 2 ^ x.1 * (packFields l + 2 ^ (l.map (fun x => x.1)).sum * n) := by
      simp only [packFields, List.map_cons, List.sum_cons, pow_add, Nat.mod_eq_of_lt hx]; ring
    rw [e]
    simp only [List.map_cons, unpackFields, Nat.add_mul_mod_self_left, Nat.mod_eq_of_lt hx,
      Nat.add_mul_div_left _ _ (Nat.two_pow_pos x.1), Nat.div_eq_of_lt hx, Nat.zero_add]
    rw [ih (fun y hy => h y (by simp [hy]))]

@[simp] theorem unpackFields_length (ws : List Nat) (n : Nat) : (unpackFields ws n).length = ws.length := by
  induction ws generalizing n with
  | nil => rfl
  | cons w ws ih => simp [unpackFields, ih]

/-- Packing the fields read gives the bits they were read from. -/
theorem packFields_unpackFields (ws : List Nat) (n : Nat) : packFields (ws.zip (unpackFields ws n)) = n % 2 ^ ws.sum := by
  induction ws generalizing n with
  | nil => simp [packFields, Nat.mod_one]
  | cons w ws ih => simp only [unpackFields, List.zip_cons_cons, packFields, ih, List.sum_cons, pow_add, Nat.mod_mod, Nat.mod_mul]

/-! ### The header and the body of a word -/

/-- The parts fit their fields: Laws.Encoding.Statement of a command whose parts they are. -/
def WordParts.Fits (p : WordParts) : Prop :=
  p.widths.length = p.values.length ∧ (∀ x ∈ p.widths.zip p.values, x.2 < 2 ^ x.1) ∧ p.widths.sum ≤ 93 ∧ p.grp < 16 ∧ p.op < 16

theorem fits_of_wordParts {c : Instr} {p : WordParts} (h : wordParts c = some p) : p.Fits := by
  cases c with
  | nop => exact Laws.Encoding.nop _ _ p h
  | fset => exact Laws.Encoding.fset _ _ _ _ p h
  | fclr => exact Laws.Encoding.fclr _ _ _ _ p h
  | fwait => exact Laws.Encoding.fwait _ _ _ _ _ _ _ p h
  | kset => exact Laws.Encoding.kset _ _ _ _ p h
  | kadd => exact Laws.Encoding.kadd _ _ _ _ p h
  | cset => exact Laws.Encoding.cset _ _ _ _ _ _ p h
  | wclaim => exact Laws.Encoding.wclaim _ _ _ _ _ _ _ p h
  | wrst => exact Laws.Encoding.wrst _ _ _ _ p h
  | mm => exact Laws.Encoding.mm _ _ p h
  | wfill => exact Laws.Encoding.wfill _ _ p h
  | tload => exact Laws.Encoding.tload _ _ p h
  | smix => exact Laws.Encoding.smix _ _ p h
  | sout => exact Laws.Encoding.sout _ _ p h
  | scarry => exact Laws.Encoding.scarry _ _ p h
  | vmov => exact Laws.Encoding.vmov _ _ p h
  | vadd => exact Laws.Encoding.vadd _ _ p h
  | vsub => exact Laws.Encoding.vsub _ _ p h
  | vmul => exact Laws.Encoding.vmul _ _ p h
  | vmac => exact Laws.Encoding.vmac _ _ p h
  | vmax => exact Laws.Encoding.vmax _ _ p h
  | vmin => exact Laws.Encoding.vmin _ _ p h
  | vabs => exact Laws.Encoding.vabs _ _ p h
  | vneg => exact Laws.Encoding.vneg _ _ p h
  | vclp => exact Laws.Encoding.vclp _ _ p h
  | vcmp => exact Laws.Encoding.vcmp _ _ p h
  | vsel => exact Laws.Encoding.vsel _ _ p h
  | vcrv => exact Laws.Encoding.vcrv _ _ p h
  | vconv => exact Laws.Encoding.vconv _ _ p h
  | vrsum => exact Laws.Encoding.vrsum _ _ p h
  | vrssq => exact Laws.Encoding.vrssq _ _ p h
  | vrmax => exact Laws.Encoding.vrmax _ _ p h
  | vld => exact Laws.Encoding.vld _ _ p h
  | vst => exact Laws.Encoding.vst _ _ p h
  | vib => exact Laws.Encoding.vib _ _ p h
  | vft => exact Laws.Encoding.vft _ _ p h
  | vtopk => exact Laws.Encoding.vtopk _ _ p h
  | vwadd => exact Laws.Encoding.vwadd _ _ p h
  | vctl => exact Laws.Encoding.vctl _ _ p h
  | dmove => exact Laws.Encoding.dmove _ _ p h
  | dmovex => exact Laws.Encoding.dmovex _ _ p h
  | dremote => exact Laws.Encoding.dremote _ _ p h
  | dcret => exact Laws.Encoding.dcret _ _ p h
  | dmem => exact Laws.Encoding.dmem _ _ p h
  | dgather => exact Laws.Encoding.dgather _ _ p h
  | _ => cases h

/-- The header's fields with their widths. -/
def hdrFields (h : Hdr) (grp op : Nat) : List (Nat × Nat) := hdrWidths.zip (hdrValues h grp op)

theorem hdrFields_widths (h : Hdr) (grp op : Nat) : (hdrFields h grp op).map (fun x => x.1) = hdrWidths := rfl

theorem hdrFields_values (h : Hdr) (grp op : Nat) : (hdrFields h grp op).map (fun x => x.2) = hdrValues h grp op := rfl

theorem hdrFields_fit (h : Hdr) {grp op : Nat} (hg : grp < 16) (ho : op < 16) : ∀ x ∈ hdrFields h grp op, x.2 < 2 ^ x.1 := by
  open Laws.Encoding in
  exact fit_cons (BitVec.isLt _) (fit_cons ho (fit_cons hg (fit_cons (BitVec.isLt _) (fit_cons (Bool.toNat_lt _) (fit_cons (BitVec.isLt _)
    (fit_cons (Bool.toNat_lt _) fit_nil))))))

/-- A word is its header in 35 bits and its body above them. -/
theorem wordOf_eq (p : WordParts) :
    wordOf p = packFields (hdrFields p.hdr p.grp p.op) + 2 ^ 35 * packFields (p.widths.zip p.values) := by
  have hz : (hdrWidths ++ p.widths).zip (hdrValues p.hdr p.grp p.op ++ p.values) = hdrFields p.hdr p.grp p.op ++ p.widths.zip p.values :=
    List.zip_append rfl
  rw [wordOf, hz, packFields_append]
  rfl

theorem wordOf_body {p : WordParts} : wordOf p / 2 ^ 35 = packFields (p.widths.zip p.values) := by
  have hlt : packFields (hdrFields p.hdr p.grp p.op) < 2 ^ 35 := packFields_lt _
  rw [wordOf_eq, Nat.add_mul_div_left _ _ (by decide), Nat.div_eq_of_lt hlt, Nat.zero_add]

theorem body_lt {p : WordParts} (h : p.Fits) : packFields (p.widths.zip p.values) < 2 ^ p.widths.sum := by
  have hlt := packFields_lt (p.widths.zip p.values)
  have e : (p.widths.zip p.values).map (fun x => x.1) = p.widths := List.map_fst_zip (le_of_eq h.1)
  rwa [e] at hlt

/-- A word that fits its fields has no bit above 128, so none is lost. -/
theorem toNat_wordOf {p : WordParts} (h : p.Fits) : (BitVec.ofNat 128 (wordOf p)).toNat = wordOf p := by
  rw [BitVec.toNat_ofNat, Nat.mod_eq_of_lt]
  have hb : packFields (p.widths.zip p.values) < 2 ^ 93 := lt_of_lt_of_le (body_lt h) (Nat.pow_le_pow_right (by decide) h.2.2.1)
  rw [← wordOf_body] at hb
  have := Nat.lt_mul_of_div_lt hb (by decide : 0 < 2 ^ 35)
  rwa [← pow_add] at this

/-- The header of a word reads back. -/
theorem readHdr_wordOf {p : WordParts} (h : p.Fits) : readHdr (wordOf p) = some (p.grp, p.op, p.hdr) := by
  obtain ⟨-, -, -, hg, ho⟩ := h
  have hu : unpackFields hdrWidths (wordOf p) = hdrValues p.hdr p.grp p.op := by
    rw [wordOf_eq]
    exact unpackFields_packFields (hdrFields p.hdr p.grp p.op) _ (hdrFields_fit p.hdr hg ho)
  rw [readHdr, hu]
  simp [hdrValues]

/-- The body of a word reads back. -/
theorem readBody_wordOf {p : WordParts} (h : p.Fits) : readBody p.widths (wordOf p) = some p.values := by
  obtain ⟨hl, hv, -⟩ := id h
  have hz : wordOf p / 2 ^ (35 + p.widths.sum) = 0 := by
    rw [pow_add, ← Nat.div_div_eq_div_mul, wordOf_body, Nat.div_eq_of_lt (body_lt h)]
  have hu := unpackFields_packFields (p.widths.zip p.values) 0 hv
  rw [List.map_fst_zip (le_of_eq hl), List.map_snd_zip (le_of_eq hl.symm), Nat.mul_zero, Nat.add_zero] at hu
  rw [readBody, if_pos hz, wordOf_body, hu]

/-- The header read from a word stands in its first 35 bits. -/
theorem hdrFields_of_readHdr {n g o : Nat} {h : Hdr} (hr : readHdr n = some (g, o, h)) : packFields (hdrFields h g o) = n % 2 ^ 35 := by
  have hp := packFields_unpackFields hdrWidths n
  rw [show hdrWidths.sum = 35 from rfl] at hp
  have hb : ∀ k, (k % 2 ^ 1 != 0).toNat = k % 2 ^ 1 := fun k => by rcases Nat.mod_two_eq_zero_or_one k with e | e <;> simp [e]
  simp only [readHdr, hdrWidths, unpackFields, Option.some.injEq, Prod.mk.injEq] at hr
  obtain ⟨rfl, rfl, rfl⟩ := hr
  rw [← hp]
  simp only [hdrFields, hdrValues, hdrWidths, unpackFields, BitVec.toNat_ofNat, Nat.mod_mod, hb]

/-- A word whose header and body are read is the word of what was read. -/
theorem wordOf_of_read {n g o : Nat} {h : Hdr} {ws vs : List Nat} (hr : readHdr n = some (g, o, h)) (hb : readBody ws n = some vs) :
    wordOf ⟨g, o, h, ws, vs⟩ = n := by
  unfold readBody at hb
  split at hb
  · next hz =>
    cases hb
    rw [pow_add, ← Nat.div_div_eq_div_mul, Nat.div_eq_zero_iff_lt (Nat.two_pow_pos _)] at hz
    rw [wordOf_eq, packFields_unpackFields, Nat.mod_eq_of_lt hz, hdrFields_of_readHdr hr, Nat.mod_add_div]
  · cases hb

/-- What is read from a word is the fields of its body. -/
theorem eq_of_readBody {n : Nat} {ws vs : List Nat} (h : readBody ws n = some vs) : vs = unpackFields ws (n / 2 ^ 35) := by
  unfold readBody at h
  split at h <;> cases h
  rfl

/-! ### Each body: reading its values gives it back, and the values of what is read are the fields read -/

@[simp] theorem rMm_vMm (f : MmF) : rMm (vMm f) = some f := by simp [rMm, vMm]
@[simp] theorem rWfill_vWfill (f : WfillF) : rWfill (vWfill f) = some f := by simp [rWfill, vWfill]
@[simp] theorem rTload_vTload (f : TloadF) : rTload (vTload f) = some f := by simp [rTload, vTload]
@[simp] theorem rSe_vSe (f : SeF) : rSe (vSe f) = some f := by simp [rSe, vSe]
@[simp] theorem rVArith_vVArith (f : VArithF) : rVArith (vVArith f) = some f := by simp [rVArith, vVArith]
@[simp] theorem rVConv_vVConv (f : VConvF) : rVConv (vVConv f) = some f := by simp [rVConv, vVConv]
@[simp] theorem rVRed_vVRed (f : VRedF) : rVRed (vVRed f) = some f := by simp [rVRed, vVRed]
@[simp] theorem rVMem_vVMem (f : VMemF) : rVMem (vVMem f) = some f := by simp [rVMem, vVMem]
@[simp] theorem rVib_vVib (f : VibF) : rVib (vVib f) = some f := by simp [rVib, vVib]
@[simp] theorem rVft_vVft (f : VftF) : rVft (vVft f) = some f := by simp [rVft, vVft]
@[simp] theorem rVTopk_vVTopk (f : VTopkF) : rVTopk (vVTopk f) = some f := by simp [rVTopk, vVTopk]
@[simp] theorem rVWadd_vVWadd (f : VWaddF) : rVWadd (vVWadd f) = some f := by simp [rVWadd, vVWadd]
@[simp] theorem rVCtl_vVCtl (f : VCtlF) : rVCtl (vVCtl f) = some f := by simp [rVCtl, vVCtl]
@[simp] theorem rDmove_vDmove (f : DmoveF) : rDmove (vDmove f) = some f := by simp [rDmove, vDmove]
@[simp] theorem rDmovex_vDmovex (f : DmovexF) : rDmovex (vDmovex f) = some f := by simp [rDmovex, vDmovex]
@[simp] theorem rDremote_vDremote (f : DremoteF) : rDremote (vDremote f) = some f := by simp [rDremote, vDremote]
@[simp] theorem rDcret_vDcret (f : DcretF) : rDcret (vDcret f) = some f := by simp [rDcret, vDcret]
@[simp] theorem rDmem_vDmem (f : DmemF) : rDmem (vDmem f) = some f := by simp [rDmem, vDmem]
@[simp] theorem rDgather_vDgather (f : DgatherF) : rDgather (vDgather f) = some f := by simp [rDgather, vDgather]

theorem vMm_of_rMm {n : Nat} {f : MmF} (h : rMm (unpackFields wMm n) = some f) : vMm f = unpackFields wMm n := by
  cases h
  simp [vMm, wMm, unpackFields]
theorem vWfill_of_rWfill {n : Nat} {f : WfillF} (h : rWfill (unpackFields wWfill n) = some f) : vWfill f = unpackFields wWfill n := by
  cases h
  simp [vWfill, wWfill, unpackFields]
theorem vTload_of_rTload {n : Nat} {f : TloadF} (h : rTload (unpackFields wTload n) = some f) : vTload f = unpackFields wTload n := by
  cases h
  simp [vTload, wTload, unpackFields]
theorem vSe_of_rSe {n : Nat} {f : SeF} (h : rSe (unpackFields wSe n) = some f) : vSe f = unpackFields wSe n := by
  cases h
  simp [vSe, wSe, unpackFields]
theorem vVArith_of_rVArith {n : Nat} {f : VArithF} (h : rVArith (unpackFields wVArith n) = some f) : vVArith f = unpackFields wVArith n := by
  cases h
  simp [vVArith, wVArith, unpackFields]
theorem vVConv_of_rVConv {n : Nat} {f : VConvF} (h : rVConv (unpackFields wVConv n) = some f) : vVConv f = unpackFields wVConv n := by
  cases h
  simp [vVConv, wVConv, unpackFields]
theorem vVRed_of_rVRed {n : Nat} {f : VRedF} (h : rVRed (unpackFields wVRed n) = some f) : vVRed f = unpackFields wVRed n := by
  cases h
  simp [vVRed, wVRed, unpackFields]
theorem vVMem_of_rVMem {n : Nat} {f : VMemF} (h : rVMem (unpackFields wVMem n) = some f) : vVMem f = unpackFields wVMem n := by
  cases h
  simp [vVMem, wVMem, unpackFields]
theorem vVib_of_rVib {n : Nat} {f : VibF} (h : rVib (unpackFields wVib n) = some f) : vVib f = unpackFields wVib n := by
  cases h
  simp [vVib, wVib, unpackFields]
theorem vVft_of_rVft {n : Nat} {f : VftF} (h : rVft (unpackFields wVft n) = some f) : vVft f = unpackFields wVft n := by
  cases h
  simp [vVft, wVft, unpackFields]
theorem vVTopk_of_rVTopk {n : Nat} {f : VTopkF} (h : rVTopk (unpackFields wVTopk n) = some f) : vVTopk f = unpackFields wVTopk n := by
  cases h
  simp [vVTopk, wVTopk, unpackFields]
theorem vVWadd_of_rVWadd {n : Nat} {f : VWaddF} (h : rVWadd (unpackFields wVWadd n) = some f) : vVWadd f = unpackFields wVWadd n := by
  cases h
  simp [vVWadd, wVWadd, unpackFields]
theorem vVCtl_of_rVCtl {n : Nat} {f : VCtlF} (h : rVCtl (unpackFields wVCtl n) = some f) : vVCtl f = unpackFields wVCtl n := by
  cases h
  simp [vVCtl, wVCtl, unpackFields]
theorem vDmove_of_rDmove {n : Nat} {f : DmoveF} (h : rDmove (unpackFields wDmove n) = some f) : vDmove f = unpackFields wDmove n := by
  cases h
  simp [vDmove, wDmove, unpackFields]
theorem vDmovex_of_rDmovex {n : Nat} {f : DmovexF} (h : rDmovex (unpackFields wDmovex n) = some f) : vDmovex f = unpackFields wDmovex n := by
  cases h
  simp [vDmovex, wDmovex, unpackFields]
theorem vDremote_of_rDremote {n : Nat} {f : DremoteF} (h : rDremote (unpackFields wDremote n) = some f) : vDremote f = unpackFields wDremote n := by
  cases h
  simp [vDremote, wDremote, unpackFields]
theorem vDcret_of_rDcret {n : Nat} {f : DcretF} (h : rDcret (unpackFields wDcret n) = some f) : vDcret f = unpackFields wDcret n := by
  cases h
  simp [vDcret, wDcret, unpackFields]
theorem vDmem_of_rDmem {n : Nat} {f : DmemF} (h : rDmem (unpackFields wDmem n) = some f) : vDmem f = unpackFields wDmem n := by
  cases h
  simp [vDmem, wDmem, unpackFields]
theorem vDgather_of_rDgather {n : Nat} {f : DgatherF} (h : rDgather (unpackFields wDgather n) = some f) : vDgather f = unpackFields wDgather n := by
  cases h
  simp [vDgather, wDgather, unpackFields]

/-! ### Decode and encode -/

/-- A body read by its reader, then put under its constructor. -/
theorem body_of_wordOf {p : WordParts} (h : p.Fits) {α : Type} {r : List Nat → Option α} {f : α} (hr : r p.values = some f) :
    (readBody p.widths (wordOf p)).bind r = some f := by rw [readBody_wordOf h]; exact hr

theorem encodeCmd_of_wordParts {c : Instr} {p : WordParts} (h : wordParts c = some p) : encodeCmd c = some (BitVec.ofNat 128 (wordOf p)) := by
  rw [encodeCmd, h]; rfl

/-- A body that is read: its fields are those of the word, and with the header they make the word. -/
theorem body_of_bind {w : CmdWord} {g o : Nat} {h : Hdr} {ws : List Nat} {α : Type} {r : List Nat → Option α} {f : α}
    (hh : readHdr w.toNat = some (g, o, h)) (hb : (readBody ws w.toNat).bind r = some f) :
    r (unpackFields ws (w.toNat / 2 ^ 35)) = some f ∧
      BitVec.ofNat 128 (wordOf ⟨g, o, h, ws, unpackFields ws (w.toNat / 2 ^ 35)⟩) = w := by
  obtain ⟨vs, hv, hf⟩ := Option.bind_eq_some_iff.1 hb
  obtain rfl := eq_of_readBody hv
  exact ⟨hf, by rw [wordOf_of_read hh hv, BitVec.ofNat_toNat, BitVec.setWidth_eq]⟩

end Sys2Proof.Machine
end

section
/-!
SUPPORT. Decode and encode of the engine commands (R227, R228), and the two statements about them.
-/
namespace Sys2Proof.Machine
-- one proof after the other: the check compiles one text, and its memory holds few threads
set_option Elab.async false

/-! ### Commands of group 0 -/

@[simp] theorem mod_two_beq_one (n : Nat) : (n % 2 == 1).toNat = n % 2 := by
  rcases Nat.mod_two_eq_zero_or_one n with h | h <;> simp [h]

/-- What a reader of group 0 answers has the fields read as its values, and stands in the queue it was read for. -/
def CtlReads (i : Iss) (q : Queue) (op : Nat) (ws : List Nat) (r : List Nat → Option Instr) : Prop :=
  ∀ n c, r (unpackFields ws n) = some c →
    wordParts c = some ⟨0, op, i.hdr, ws, unpackFields ws n⟩ ∧ queueOf c = some q ∧ issOf c = some i

@[simp] theorem rCtlNop_values (i : Iss) (q : Queue) :
    rCtlNop i q [] = some (.nop i q) := by simp [rCtlNop]
@[simp] theorem rCtlFset_values (i : Iss) (q : Queue) (flag : BitVec 6) (dev : Bool) :
    rCtlFset i q [flag.toNat, dev.toNat] = some (.fset i q flag dev) := by simp [rCtlFset]
@[simp] theorem rCtlFclr_values (i : Iss) (q : Queue) (flag : BitVec 6) (dev : Bool) :
    rCtlFclr i q [flag.toNat, dev.toNat] = some (.fclr i q flag dev) := by simp [rCtlFclr]
@[simp] theorem rCtlFwait_values (i : Iss) (q : Queue) (flag : BitVec 6) (dev : Bool) (val : Bool) (clr : Bool) (tmo : BitVec 24) :
    rCtlFwait i q [flag.toNat, dev.toNat, val.toNat, clr.toNat, tmo.toNat] = some (.fwait i q flag dev val clr tmo) := by simp [rCtlFwait]
@[simp] theorem rCtlKset_values (i : Iss) (q : Queue) (k : BitVec 3) (value : BitVec 16) :
    rCtlKset i q [k.toNat, value.toNat] = some (.kset i q k value) := by simp [rCtlKset]
@[simp] theorem rCtlKadd_values (i : Iss) (q : Queue) (k : BitVec 3) (value : BitVec 16) :
    rCtlKadd i q [k.toNat, value.toNat] = some (.kadd i q k value) := by simp [rCtlKadd]
@[simp] theorem rCtlCset_values (i : Iss) (q : Queue) (cmp : BitVec 2) (k : BitVec 3) (cond : BitVec 3) (value : BitVec 16) :
    rCtlCset i q [cmp.toNat, k.toNat, cond.toNat, value.toNat] = some (.cset i q cmp k cond value) := by simp [rCtlCset]
@[simp] theorem rCtlWclaim_values (i : Iss) (q : Queue) (wct : BitVec 4) (n1 : BitVec 8) (k : BitVec 3) (cmp : BitVec 2) (cen : Bool) :
    rCtlWclaim i q [wct.toNat, n1.toNat, k.toNat, cmp.toNat, cen.toNat] = some (.wclaim i q wct n1 k cmp cen) := by simp [rCtlWclaim]
@[simp] theorem rCtlWrst_values (i : Iss) (q : Queue) (wct : BitVec 4) (limit : BitVec 16) :
    rCtlWrst i q [wct.toNat, limit.toNat] = some (.wrst i q wct limit) := by simp [rCtlWrst]

theorem ctlReads_nop (i : Iss) (q : Queue) : CtlReads i q 0 [] (rCtlNop i q) := by
  intro n c h
  cases h
  simp [wordParts, unpackFields, queueOf, issOf]
theorem ctlReads_fset (i : Iss) (q : Queue) : CtlReads i q 1 [6, 1] (rCtlFset i q) := by
  intro n c h
  cases h
  simp [wordParts, unpackFields, queueOf, issOf]
theorem ctlReads_fclr (i : Iss) (q : Queue) : CtlReads i q 2 [6, 1] (rCtlFclr i q) := by
  intro n c h
  cases h
  simp [wordParts, unpackFields, queueOf, issOf]
theorem ctlReads_fwait (i : Iss) (q : Queue) : CtlReads i q 3 [6, 1, 1, 1, 24] (rCtlFwait i q) := by
  intro n c h
  cases h
  simp [wordParts, unpackFields, queueOf, issOf]
theorem ctlReads_kset (i : Iss) (q : Queue) : CtlReads i q 4 [3, 16] (rCtlKset i q) := by
  intro n c h
  cases h
  simp [wordParts, unpackFields, queueOf, issOf]
theorem ctlReads_kadd (i : Iss) (q : Queue) : CtlReads i q 5 [3, 16] (rCtlKadd i q) := by
  intro n c h
  cases h
  simp [wordParts, unpackFields, queueOf, issOf]
theorem ctlReads_cset (i : Iss) (q : Queue) : CtlReads i q 6 [2, 3, 3, 16] (rCtlCset i q) := by
  intro n c h
  cases h
  simp [wordParts, unpackFields, queueOf, issOf]
theorem ctlReads_wclaim (i : Iss) (q : Queue) : CtlReads i q 7 [4, 8, 3, 2, 1] (rCtlWclaim i q) := by
  intro n c h
  cases h
  simp [wordParts, unpackFields, queueOf, issOf]
theorem ctlReads_wrst (i : Iss) (q : Queue) : CtlReads i q 8 [4, 16] (rCtlWrst i q) := by
  intro n c h
  cases h
  simp [wordParts, unpackFields, queueOf, issOf]

/-! ### Decode of encode -/

/-- Settles O8: the header and the body of the word read back, and the body's reader gives the command. -/
theorem encodedCommandDecodesBack : Obligations.EncodedCommandDecodesBack := by
  unfold Obligations.EncodedCommandDecodesBack
  intro c i q w hi hq hw
  obtain ⟨p, hp, rfl⟩ := Option.map_eq_some_iff.1 hw
  have hfit := fits_of_wordParts hp
  have hbody := readBody_wordOf hfit
  unfold decodeCmd
  rw [toNat_wordOf hfit, readHdr_wordOf hfit]
  cases c <;> cases hi <;> cases hq <;> cases hp <;> dsimp only at hbody ⊢ <;> rw [hbody] <;> simp

/-! ### Encode of decode -/

/-- A command whose parts are the fields read from a word is encoded as that word. -/
theorem encodeCmd_of_read {w : CmdWord} {g o : Nat} {h : Hdr} {ws vs : List Nat} {c : Instr} (hh : readHdr w.toNat = some (g, o, h))
    (hb : readBody ws w.toNat = some vs) (hc : wordParts c = some ⟨g, o, h, ws, vs⟩) : encodeCmd c = some w := by
  rw [encodeCmd_of_wordParts hc, wordOf_of_read hh hb, BitVec.ofNat_toNat, BitVec.setWidth_eq]

/-- What O9 says of a command decoded from w. -/
def SpelledBy (core : BitVec 3) (pkt : Nat) (q : Queue) (w : CmdWord) (c : Instr) : Prop :=
  encodeCmd c = some w ∧ queueOf c = some q ∧ issOf c = some ⟨core, ((issOf c).map (fun i => i.hdr)).getD ⟨0, 0, false, 0, false⟩, pkt⟩

theorem spelledBy_of {core : BitVec 3} {pkt : Nat} {q : Queue} {w : CmdWord} {c : Instr} {h : Hdr} (he : encodeCmd c = some w)
    (hq : queueOf c = some q) (hi : issOf c = some ⟨core, h, pkt⟩) : SpelledBy core pkt q w c := ⟨he, hq, by rw [hi]; rfl⟩

/-- A command of group 0 read from a word is spelled by it. -/
theorem decoded_ctl {core : BitVec 3} {pkt : Nat} {q : Queue} {w : CmdWord} {o : Nat} {h : Hdr} {ws : List Nat} {r : List Nat → Option Instr}
    {c : Instr} (hh : readHdr w.toNat = some (0, o, h)) (hc : (readBody ws w.toNat).bind r = some c)
    (hr : CtlReads ⟨core, h, pkt⟩ q o ws r) : SpelledBy core pkt q w c := by
  obtain ⟨vs, hv, hc⟩ := Option.bind_eq_some_iff.1 hc
  rw [eq_of_readBody hv] at hc hv
  obtain ⟨hp, hq, hi⟩ := hr _ c hc
  exact spelledBy_of (encodeCmd_of_read hh hv hp) hq hi

/-- A command of an engine's own group read from a word is spelled by it. -/
theorem decoded_body {core : BitVec 3} {pkt : Nat} {q : Queue} {w : CmdWord} {g o : Nat} {h : Hdr} {ws : List Nat} {α : Type}
    {r : List Nat → Option α} {v : α → List Nat} {mk : α → Instr} {c : Instr} (hh : readHdr w.toNat = some (g, o, h))
    (hc : ((readBody ws w.toNat).bind r).map mk = some c) (hv : ∀ {n f}, r (unpackFields ws n) = some f → v f = unpackFields ws n)
    (hp : ∀ f, wordParts (mk f) = some ⟨g, o, h, ws, v f⟩) (hq : ∀ f, queueOf (mk f) = some q)
    (hi : ∀ f, issOf (mk f) = some ⟨core, h, pkt⟩) : SpelledBy core pkt q w c := by
  obtain ⟨f, hf, rfl⟩ := Option.map_eq_some_iff.1 hc
  obtain ⟨vs, hvs, hf⟩ := Option.bind_eq_some_iff.1 hf
  rw [eq_of_readBody hvs] at hf hvs
  exact spelledBy_of (encodeCmd_of_read hh hvs (by rw [hp, hv hf])) (hq f) (hi f)

/-- Settles O9, arm by arm of the decoder. -/
theorem decodedWordIsItsEncoding : Obligations.DecodedWordIsItsEncoding := by
  unfold Obligations.DecodedWordIsItsEncoding
  intro core pkt q w c h
  change SpelledBy core pkt q w c
  unfold decodeCmd at h
  cases hh : readHdr w.toNat with
  | none => rw [hh] at h; cases h
  | some x =>
    obtain ⟨g, o, hd⟩ := x
    rw [hh] at h
    dsimp only at h
    split at h
    · exact decoded_ctl hh h (ctlReads_nop _ q)
    · exact decoded_ctl hh h (ctlReads_fset _ q)
    · exact decoded_ctl hh h (ctlReads_fclr _ q)
    · exact decoded_ctl hh h (ctlReads_fwait _ q)
    · exact decoded_ctl hh h (ctlReads_kset _ q)
    · exact decoded_ctl hh h (ctlReads_kadd _ q)
    · exact decoded_ctl hh h (ctlReads_cset _ q)
    · exact decoded_ctl hh h (ctlReads_wclaim _ q)
    · exact decoded_ctl hh h (ctlReads_wrst _ q)
    · exact decoded_body hh h vMm_of_rMm (fun _ => rfl) (fun _ => rfl) (fun _ => rfl)
    · exact decoded_body hh h vWfill_of_rWfill (fun _ => rfl) (fun _ => rfl) (fun _ => rfl)
    · exact decoded_body hh h vTload_of_rTload (fun _ => rfl) (fun _ => rfl) (fun _ => rfl)
    · exact decoded_body hh h vSe_of_rSe (fun _ => rfl) (fun _ => rfl) (fun _ => rfl)
    · exact decoded_body hh h vSe_of_rSe (fun _ => rfl) (fun _ => rfl) (fun _ => rfl)
    · exact decoded_body hh h vSe_of_rSe (fun _ => rfl) (fun _ => rfl) (fun _ => rfl)
    · exact decoded_body hh h vVArith_of_rVArith (fun _ => rfl) (fun _ => rfl) (fun _ => rfl)
    · exact decoded_body hh h vVArith_of_rVArith (fun _ => rfl) (fun _ => rfl) (fun _ => rfl)
    · exact decoded_body hh h vVArith_of_rVArith (fun _ => rfl) (fun _ => rfl) (fun _ => rfl)
    · exact decoded_body hh h vVArith_of_rVArith (fun _ => rfl) (fun _ => rfl) (fun _ => rfl)
    · exact decoded_body hh h vVArith_of_rVArith (fun _ => rfl) (fun _ => rfl) (fun _ => rfl)
    · exact decoded_body hh h vVArith_of_rVArith (fun _ => rfl) (fun _ => rfl) (fun _ => rfl)
    · exact decoded_body hh h vVArith_of_rVArith (fun _ => rfl) (fun _ => rfl) (fun _ => rfl)
    · exact decoded_body hh h vVArith_of_rVArith (fun _ => rfl) (fun _ => rfl) (fun _ => rfl)
    · exact decoded_body hh h vVArith_of_rVArith (fun _ => rfl) (fun _ => rfl) (fun _ => rfl)
    · exact decoded_body hh h vVArith_of_rVArith (fun _ => rfl) (fun _ => rfl) (fun _ => rfl)
    · exact decoded_body hh h vVArith_of_rVArith (fun _ => rfl) (fun _ => rfl) (fun _ => rfl)
    · exact decoded_body hh h vVArith_of_rVArith (fun _ => rfl) (fun _ => rfl) (fun _ => rfl)
    · exact decoded_body hh h vVArith_of_rVArith (fun _ => rfl) (fun _ => rfl) (fun _ => rfl)
    · exact decoded_body hh h vVConv_of_rVConv (fun _ => rfl) (fun _ => rfl) (fun _ => rfl)
    · exact decoded_body hh h vVRed_of_rVRed (fun _ => rfl) (fun _ => rfl) (fun _ => rfl)
    · exact decoded_body hh h vVRed_of_rVRed (fun _ => rfl) (fun _ => rfl) (fun _ => rfl)
    · exact decoded_body hh h vVRed_of_rVRed (fun _ => rfl) (fun _ => rfl) (fun _ => rfl)
    · exact decoded_body hh h vVMem_of_rVMem (fun _ => rfl) (fun _ => rfl) (fun _ => rfl)
    · exact decoded_body hh h vVMem_of_rVMem (fun _ => rfl) (fun _ => rfl) (fun _ => rfl)
    · exact decoded_body hh h vVib_of_rVib (fun _ => rfl) (fun _ => rfl) (fun _ => rfl)
    · exact decoded_body hh h vVft_of_rVft (fun _ => rfl) (fun _ => rfl) (fun _ => rfl)
    · exact decoded_body hh h vVTopk_of_rVTopk (fun _ => rfl) (fun _ => rfl) (fun _ => rfl)
    · exact decoded_body hh h vVWadd_of_rVWadd (fun _ => rfl) (fun _ => rfl) (fun _ => rfl)
    · exact decoded_body hh h vVCtl_of_rVCtl (fun _ => rfl) (fun _ => rfl) (fun _ => rfl)
    · exact decoded_body hh h vDmove_of_rDmove (fun _ => rfl) (fun _ => rfl) (fun _ => rfl)
    · exact decoded_body hh h vDmovex_of_rDmovex (fun _ => rfl) (fun _ => rfl) (fun _ => rfl)
    · exact decoded_body hh h vDremote_of_rDremote (fun _ => rfl) (fun _ => rfl) (fun _ => rfl)
    · exact decoded_body hh h vDcret_of_rDcret (fun _ => rfl) (fun _ => rfl) (fun _ => rfl)
    · exact decoded_body hh h vDmem_of_rDmem (fun _ => rfl) (fun _ => rfl) (fun _ => rfl)
    · exact decoded_body hh h vDgather_of_rDgather (fun _ => rfl) (fun _ => rfl) (fun _ => rfl)
    · cases h

end Sys2Proof.Machine
end

section
/-!
SUPPORT. Control commands (R237 to R247): the issue of a command that writes nothing but one effect on its way; then what each effect
does when it lands.
-/
namespace Sys2Proof.Machine
-- one proof after the other: the check compiles one text, and its memory holds few threads
set_option Elab.async false
open Sys2Proof.Safety

/-! ### Commands with at most one effect on its way -/

/-- The datapath with an effect put on its way, or as it was. -/
def landOpt (d : Dp) : Option (Nat × Landing) → Dp
  | some x => d.landIn x.1 x.2
  | none => d

theorem landOpt_cores (d : Dp) (l : Option (Nat × Landing)) : (landOpt d l).cores = d.cores := by cases l <;> rfl

theorem landOpt_landings (d : Dp) (l : Option (Nat × Landing)) : (landOpt d l).landings = d.landings ++ l.toList := by
  cases l <;> simp [landOpt]

theorem workOf_d (s : State) (c : BitVec 3) (q : Queue) (step : Bool) : (workOf s c q step).d = popped s c q := rfl

theorem popped_landings (s : State) (c : BitVec 3) (q : Queue) : (popped s c q).landings = s.dp.landings := rfl

theorem popped_core (s : State) (c : BitVec 3) (q : Queue) : vget (popped s c q).cores c = (coreOf s c).pop q := by simp [popped]

/-- The issue of a command whose only effect is on its way, and is no result of an engine: the head is taken, the effect is on its way,
and nothing else happens. -/
theorem issueNow_landOpt {s : State} {i : Iss} {q : Queue} {eff : Bool → Work → Work} {l : Option (Nat × Landing)}
    (hearly : noEarlyWork s = true) (hcp : (coreOf s i.core).cpWait = []) (hl : ∀ x, l = some x → x.2.isResult = false)
    (heff : eff (runs s i) (workOf s i.core q false) = { workOf s i.core q false with d := landOpt (popped s i.core q) l }) :
    sameBeside s (issueNow s i q false eff) ∧ (issueNow s i q false eff).dp = landOpt (popped s i.core q) l := by
  have hwait : (vget (landOpt (popped s i.core q) l).cores i.core).cpWait = [] := by
    rw [landOpt_cores, popped_core]; exact hcp
  have hends : ({ workOf s i.core q false with d := landOpt (popped s i.core q) l } : Work).endsIn s.dp.landings.length = 0 := by
    unfold Work.endsIn
    dsimp only
    rw [landOpt_landings, popped_landings, List.drop_left]
    cases l with
    | none => rfl
    | some x => simp only [Option.toList_some, List.filter_cons, hl x rfl]; rfl
  obtain ⟨hside, hdp⟩ := issueNow_plain s i q false eff hearly _ heff rfl rfl hwait
  rw [hends, if_pos rfl] at hdp
  exact ⟨hside, hdp⟩

/-- A due command whose only effect is on its way, and is no result of an engine. -/
theorem exec_landOpt {s : State} {c : Instr} {i : Iss} {q : Queue} {eff : Bool → Work → Work} (l : Option (Nat × Landing))
    (hexec : exec c s = issueEngine c i q eff s) (hdue : dueNow s c i q = true) (hl : ∀ x, l = some x → x.2.isResult = false)
    (heff : eff (runs s i) (workOf s i.core q false) = { workOf s i.core q false with d := landOpt (popped s i.core q) l }) :
    ∃ t, exec c s = .next t ∧ sameBeside s t ∧ t.dp = landOpt (popped s i.core q) l := by
  obtain ⟨hissue, hearly, hcp⟩ := issueEngine_of_dueNow hdue eff
  exact ⟨_, hexec.trans hissue, issueNow_landOpt hearly hcp hl heff⟩

/-- An effect that a true condition puts on its way. -/
theorem landOpt_ite (d : Dp) (p : Prop) [Decidable p] (n : Nat) (l : Landing) :
    landOpt d (if p then some (n, l) else none) = if p then d.landIn n l else d := by split <;> rfl

/-- A due command that puts one effect on its way where its condition holds, and otherwise does nothing but leave its queue. -/
theorem exec_landIf {s : State} {c : Instr} {i : Iss} {q : Queue} {eff : Bool → Work → Work} {p : Prop} [Decidable p] {n : Nat} {l : Landing}
    (hexec : exec c s = issueEngine c i q eff s) (hdue : dueNow s c i q = true) (hl : l.isResult = false)
    (heff : eff (runs s i) (workOf s i.core q false) =
      { workOf s i.core q false with d := if p then (popped s i.core q).landIn n l else popped s i.core q }) :
    ∃ t, exec c s = .next t ∧ sameBeside s t ∧ t.dp = if p then (popped s i.core q).landIn n l else popped s i.core q := by
  rw [← landOpt_ite] at heff ⊢
  refine exec_landOpt _ hexec hdue (fun x hx => ?_) heff
  split at hx <;> cases hx
  exact hl

/-! ### Flags, loop counters, comparators and work counters -/

/-- The landing of a flag write: a core flag in the next cycle, a device flag in the third. -/
def flagLanding (c : BitVec 3) (flag : BitVec 6) (dev v : Bool) : Nat × Landing := if dev then (3, .dflag flag v) else (1, .flag c flag v)

theorem flagLanding_isResult (c : BitVec 3) (flag : BitVec 6) (dev v : Bool) : (flagLanding c flag dev v).2.isResult = false := by
  cases dev <;> rfl

theorem landIn_flagLanding (d : Dp) (c : BitVec 3) (flag : BitVec 6) (dev v : Bool) :
    d.landIn (flagLanding c flag dev v).1 (flagLanding c flag dev v).2 =
      if dev then d.landIn 3 (.dflag flag v) else d.landIn 1 (.flag c flag v) := by cases dev <;> rfl

/-- What a flag write of a command puts on its way. -/
theorem flagWrite_workOf (s : State) (c : BitVec 3) (q : Queue) (flag : BitVec 6) (dev v : Bool) :
    (workOf s c q false).flagWrite flag dev v =
      { workOf s c q false with d := (popped s c q).landIn (flagLanding c flag dev v).1 (flagLanding c flag dev v).2 } := by cases dev <;> rfl

/-- A due command that writes a flag where its condition holds. -/
theorem exec_flagWrite {s : State} {c : Instr} {i : Iss} {q : Queue} {eff : Bool → Work → Work} {p : Prop} [Decidable p] {flag : BitVec 6} {dev v : Bool}
    (hexec : exec c s = issueEngine c i q eff s) (hdue : dueNow s c i q = true)
    (heff : eff (runs s i) (workOf s i.core q false) = if p then (workOf s i.core q false).flagWrite flag dev v else workOf s i.core q false) :
    ∃ t, exec c s = .next t ∧ sameBeside s t ∧ t.dp = if p then
      (if dev then (popped s i.core q).landIn 3 (.dflag flag v) else (popped s i.core q).landIn 1 (.flag i.core flag v)) else popped s i.core q := by
  rw [← landIn_flagLanding]
  refine exec_landIf hexec hdue (flagLanding_isResult ..) ?_
  rw [heff, flagWrite_workOf]
  split <;> rfl

/-- Settles O19: each puts at most one flag write on its way. -/
theorem flagCommandsWriteTheirFlag : Obligations.FlagCommandsWriteTheirFlag := by
  unfold Obligations.FlagCommandsWriteTheirFlag
  intro s i q flag dev val clr tmo
  refine ⟨fun h => exec_landOpt none rfl h (by simp) rfl, fun h => exec_flagWrite rfl h rfl, fun h => exec_flagWrite rfl h rfl,
    fun h => exec_flagWrite rfl h ?_⟩
  simp [effFwait]

/-- The conditions of a comparator as comparisons of integers (R247). -/
theorem condHolds_int (cond : BitVec 3) (a b : Int) : condHolds cond (decide (a < b)) (a == b) =
    (if cond = 0 then a = b else if cond = 1 then a ≠ b else if cond = 2 then a < b else if cond = 3 then a ≤ b
      else if cond = 4 then a > b else a ≥ b : Bool) := by
  have h : cond = 0 ∨ cond = 1 ∨ cond = 2 ∨ cond = 3 ∨ cond = 4 ∨ cond = 5 ∨ cond = 6 ∨ cond = 7 := by
    revert cond; decide
  have hle : (decide (a < b) || a == b) = decide (a ≤ b) := by
    rw [Bool.eq_iff_iff]; simp [le_iff_lt_or_eq]
  have hgt : (!decide (a ≤ b)) = decide (b < a) := by simp [← decide_not]
  have hge : (!decide (a < b)) = decide (b ≤ a) := by simp [← decide_not]
  have hne : (!(a == b)) = decide (a ≠ b) := by rw [Bool.eq_iff_iff]; simp
  rcases h with rfl | rfl | rfl | rfl | rfl | rfl | rfl | rfl <;> simp only [condHolds, hle, hgt, hge, hne] <;> rfl

/-- Settles O20: each puts at most one write of its register on its way, with the counter read in the issue cycle. -/
theorem counterCommandsWriteTheirRegister : Obligations.CounterCommandsWriteTheirRegister := by
  unfold Obligations.CounterCommandsWriteTheirRegister
  intro s i q k v cmp cond
  have hk : (workOf s i.core q false).me.k = (coreOf s i.core).k := (congrArg Core.k (popped_core s i.core q) :)
  refine ⟨fun h => exec_landIf rfl h rfl ?_, fun h => exec_landIf rfl h rfl ?_, fun h => ?_⟩
  · unfold effKset; split <;> rfl
  · unfold effKadd; split <;> rfl
  · have hholds := condHolds_int cond (vget (coreOf s i.core).k k).toInt v.toInt
    have hcset := exec_landIf (eff := effCset cmp k cond v) (p := runs s i = true) (n := 1) (l := .cmp i.core q cmp
      (condHolds cond (decide ((vget (coreOf s i.core).k k).toInt < v.toInt)) ((vget (coreOf s i.core).k k).toInt == v.toInt))) rfl h rfl (by
        unfold effCset
        rw [hk]
        dsimp only
        split <;> rfl)
    rw [hholds] at hcset
    exact hcset

/-- A claim that reaches the counter unit. -/
theorem landClaim_eq (d : Dp) (c : BitVec 3) (q : Queue) (wct : BitVec 4) (n : Nat) (k : BitVec 3) (cmp : BitVec 2) (cen : Bool) :
    landClaim d c q wct n k cmp cen =
      { d with wct := if (vget d.wct wct).val.toNat + n ≤ (vget d.wct wct).lim.toNat
                 then vset d.wct wct { vget d.wct wct with val := (vget d.wct wct).val + BitVec.ofNat 16 n } else d.wct,
               landings := d.landings ++ [(2, .claimResult c q k (vget d.wct wct).val cmp cen
                 (decide ((vget d.wct wct).val.toNat + n ≤ (vget d.wct wct).lim.toNat)))] } := by
  unfold landClaim Dp.landIn
  by_cases h : (vget d.wct wct).val.toNat + n ≤ (vget d.wct wct).lim.toNat <;> simp [h]

/-- Settles O21: the two commands put one effect on its way, and the three effects land as the counter unit says. -/
theorem workCounterCommands : Obligations.WorkCounterCommands := by
  unfold Obligations.WorkCounterCommands
  refine ⟨fun s i q wct limit n1 k cmp cen => ⟨fun h => exec_landIf rfl h rfl ?_, fun h => exec_landIf rfl h rfl ?_⟩, fun d wct limit => rfl,
    fun d c q wct n k cmp cen _ => ?_, fun d c q k v cmp cen ok => rfl⟩
  · unfold effWrst; split <;> rfl
  · unfold effWclaim; split <;> rfl
  · simp only [decide_eq_true_eq]
    exact landClaim_eq d c q wct n k cmp cen

end Sys2Proof.Machine
end

section
/-!
SUPPORT. Landings (R174, R180, R237, R247): one effect on its way lands after its cycles and no sooner, and what each kind of effect
leaves: lanes, rows with fresh checks, byte strings written into a memory.
-/
namespace Sys2Proof.Machine
-- one proof after the other: the check compiles one text, and its memory holds few threads
set_option Elab.async false
open Sys2Proof.Safety

/-! ### When a single effect lands -/

theorem passLandings_of_lt {d : Dp} {n m : Nat} {l : Landing} (h : d.landings = [(n, l)]) (hm : m < n) :
    (d.passLandings m).1 = { d with landings := [(n - m, l)] } := by
  have hn : ¬ n ≤ m := by omega
  simp [Dp.passLandings, h, hn, hm, sortLandings]

theorem passLandings_of_le {d : Dp} {n m : Nat} {l : Landing} (h : d.landings = [(n, l)]) (hm : n ≤ m)
    (hl : ∀ c q w k p x y, l ≠ .claimUnit c q w k p x y) : (d.passLandings m).1 = (land { d with landings := [] } l).1 := by
  have hn : ¬ m < n := by omega
  simp only [Dp.passLandings, h, List.filter_cons, hm, hn, decide_true, decide_false, if_true, Bool.false_eq_true, if_false, List.filter_nil,
    sortLandings, insertLanding, List.map_nil, List.foldl_cons, List.foldl_nil]

/-! ### Bytes, lanes and rows -/

theorem memRead_memWrite_byteAt (m : Mem) (a : Nat) (b : List Byte) (k : Nat) :
    memRead (memWrite m a b) k = if a ≤ k ∧ k < a + b.length then byteAt b (k - a) else memRead m k := memRead_memWrite m a b k

@[simp] theorem leBytes_length (n v : Nat) : (leBytes n v).length = n := by
  induction n generalizing v with
  | zero => rfl
  | succ n ih => simp [leBytes, ih]

/-- The little-endian value of the bytes of a number. -/
theorem leValue_leBytes (n v : Nat) : (leBytes n v).foldr (fun b acc => b.toNat + 256 * acc) 0 = v % 256 ^ n := by
  induction n generalizing v with
  | zero => simp [leBytes, Nat.mod_one]
  | succ n ih =>
    rw [leBytes, List.foldr_cons, ih, BitVec.toNat_ofNat, pow_succ' 256 n, Nat.mod_mul (x := v) (a := 256)]

/-- A lane written holds the low 32 bits of its code. -/
theorem laneCode_setLane_same {c : Core} (h : memWf c.ve.regs) (n j code : Nat) : laneCode (setLane c n j code) n j = code % 2 ^ 32 := by
  have hs := memSlice_memWrite_same h (256 * n + 4 * j) (leBytes 4 code)
  rw [leBytes_length] at hs
  exact (congrArg (List.foldr (fun (b : Byte) acc => b.toNat + 256 * acc) 0) hs).trans (leValue_leBytes 4 code)

/-- Another lane keeps its code. -/
theorem laneCode_setLane_ne {c : Core} (h : memWf c.ve.regs) {n j n' j' : Nat} (code : Nat) (hj : j < 64) (hj' : j' < 64)
    (hne : ¬(n' = n ∧ j' = j)) : laneCode (setLane c n j code) n' j' = laneCode c n' j' := by
  have hs := memSlice_memWrite_apart h (256 * n + 4 * j) (256 * n' + 4 * j') 4 (leBytes 4 code) (by rw [leBytes_length]; omega)
  exact congrArg (List.foldr (fun (b : Byte) acc => b.toNat + 256 * acc) 0) hs

theorem memWf_setLane {c : Core} (h : memWf c.ve.regs) (n j code : Nat) : memWf (setLane c n j code).ve.regs := memWf_memWrite h _ _

theorem memWf_setLanes {c : Core} (h : memWf c.ve.regs) (l : List (Nat × Nat × Nat)) : memWf (setLanes c l).ve.regs := by
  induction l generalizing c with
  | nil => exact h
  | cons x l ih => exact ih (memWf_setLane h _ _ _)

theorem setLanes_cons (c : Core) (x : Nat × Nat × Nat) (l : List (Nat × Nat × Nat)) :
    setLanes c (x :: l) = setLanes (setLane c x.1 x.2.1 x.2.2) l := rfl

/-- A lane that none of the writes names keeps its code. -/
theorem laneCode_setLanes_notMem {c : Core} (h : memWf c.ve.regs) {l : List (Nat × Nat × Nat)} (hl : ∀ y ∈ l, y.2.1 < 64) {n j : Nat} (hj : j < 64)
    (hn : ∀ v, (n, j, v) ∉ l) : laneCode (setLanes c l) n j = laneCode c n j := by
  induction l generalizing c with
  | nil => rfl
  | cons x l ih =>
    obtain ⟨a, b, v⟩ := x
    have hb : b < 64 := hl (a, b, v) (by simp)
    rw [setLanes_cons, ih (memWf_setLane h _ _ _) (fun y hy => hl y (by simp [hy])) (fun v hv => hn v (by simp [hv])),
      laneCode_setLane_ne h v hb hj]
    rintro ⟨rfl, rfl⟩
    exact hn v (by simp)

/-- A lane that exactly one of the writes names takes its code. -/
theorem laneCode_setLanes_mem {c : Core} (h : memWf c.ve.regs) {l : List (Nat × Nat × Nat)} (hl : ∀ y ∈ l, y.2.1 < 64)
    (hd : (l.map (fun y => (y.1, y.2.1))).Nodup) {n j v : Nat} (hm : (n, j, v) ∈ l) : laneCode (setLanes c l) n j = v % 2 ^ 32 := by
  induction l generalizing c with
  | nil => simp at hm
  | cons x l ih =>
    obtain ⟨hx, hd⟩ := List.nodup_cons.1 hd
    have hl' : ∀ y ∈ l, y.2.1 < 64 := fun y hy => hl y (by simp [hy])
    rw [setLanes_cons]
    rcases List.mem_cons.1 hm with rfl | hm
    · have hn : ∀ w, (n, j, w) ∉ l := fun w hw => hx (List.mem_map.2 ⟨_, hw, rfl⟩)
      exact (laneCode_setLanes_notMem (memWf_setLane h _ _ _) hl' (hl (n, j, v) (by simp)) hn).trans (laneCode_setLane_same h _ _ _)
    · exact ih (memWf_setLane h _ _ _) hl' hd hm

/-- A row written has no mark left. -/
theorem rowMarks_writeRow_same (d : Dp) (r : Nat) (l : List Byte) : rowMarks (writeRow d r l) r = [] := by
  simp only [rowMarks, writeRow, Dp.rewrite, List.filter_filter, List.filter_eq_nil_iff]
  intro m _ h
  simp only [Bool.and_eq_true, beq_iff_eq, Bool.not_eq_true', Bool.and_eq_false_iff, decide_eq_false_iff_not] at h
  omega

/-- Another row keeps its marks. -/
theorem rowMarks_writeRow_ne (d : Dp) {r k : Nat} (l : List Byte) (h : k ≠ r) : rowMarks (writeRow d r l) k = rowMarks d k := by
  simp only [rowMarks, writeRow, Dp.rewrite, List.filter_filter]
  refine List.filter_congr (fun m _ => ?_)
  rw [Bool.eq_iff_iff]
  simp only [Bool.and_eq_true, beq_iff_eq, Bool.not_eq_true', Bool.and_eq_false_iff, decide_eq_false_iff_not]
  omega

theorem memRead_setCells_one (m : Mem) (a : Nat) (b : List Byte) (k : Nat) :
    memRead (setCells m [(a, b)]) k = if a ≤ k ∧ k < a + b.length then byteAt b (k - a) else memRead m k := memRead_memWrite_byteAt m a b k

/-! ### Ready bits -/

/-- The six ready bits kept in two parts. -/
theorem ready_parts : ∀ b : BitVec 6, b.extractLsb' 4 2 ++ b.extractLsb' 0 4 = b := by decide

/-! ### The statement about landings -/

/-- Lanes of vector registers that land: each takes its code, and nothing else changes. -/
theorem land_regs {d : Dp} {c : BitVec 3} {l : List (Nat × Nat × Nat)} (h : memWf (vget d.cores c).ve.regs) (hl : ∀ y ∈ l, y.2.1 < 64)
    (hd : (l.map (fun y => (y.1, y.2.1))).Nodup) :
    (∀ n j v, (n, j, v) ∈ l → laneCode (vget (land d (.regs c l)).1.cores c) n j = v % 2 ^ 32) ∧
      (∀ n j, j < 64 → (∀ v, (n, j, v) ∉ l) → laneCode (vget (land d (.regs c l)).1.cores c) n j = laneCode (vget d.cores c) n j) ∧
      (land d (.regs c l)).1 = d.modCore c (fun x => { x with ve := { x.ve with regs := (vget (land d (.regs c l)).1.cores c).ve.regs } }) := by
  have hcore : vget (land d (.regs c l)).1.cores c = setLanes (vget d.cores c) l := vget_vset_same ..
  rw [hcore]
  refine ⟨fun n j v hm => laneCode_setLanes_mem h hl hd hm, fun n j hj hn => laneCode_setLanes_notMem h hl hj hn, ?_⟩
  change d.setCore c (setLanes (vget d.cores c) l) = _
  exact congrArg (d.setCore c) (setLanes_eq _ l)

/-- A row that lands holds its bytes with fresh checks, and no other row changes. -/
theorem land_row_frame {d : Dp} (h : memWf d.dev) (row : Nat) (b : List Byte) :
    rowData (land d (.row row b)).1 row = padTo 512 b ∧ (rowMarks (land d (.row row b)).1 row).isEmpty = true ∧
      (∀ a, a / 512 ≠ row → memRead (land d (.row row b)).1.dev a = memRead d.dev a) ∧
      (∀ k, k ≠ row → rowMarks (land d (.row row b)).1 k = rowMarks d k) ∧
      { (land d (.row row b)).1 with dev := d.dev, ecc := d.ecc, wcls := d.wcls } = d :=
  ⟨rowData_writeRow h row b, by rw [land_row, rowMarks_writeRow_same]; rfl, fun a ha => memRead_writeRow d row b a ha,
    fun _ hk => rowMarks_writeRow_ne d b hk, writeRow_dp d row b⟩

/-- A finished tile that lands enters the queue, or stays with the output stage. -/
theorem land_tile (d : Dp) (c : BitVec 3) (u : Tile) :
    (land d (.tile c u)).1 = d.modCore c (fun y => { y with me :=
      if (vget d.cores c).me.ftq.length < 8 ∧ (vget d.cores c).me.outq = [] then { (vget d.cores c).me with ftq := (vget d.cores c).me.ftq ++ [u] }
      else { (vget d.cores c).me with outq := (vget d.cores c).me.outq ++ [u] } }) := by
  change d.setCore c { vget d.cores c with me := pushTile (vget d.cores c).me u } = _
  simp only [pushTile, List.isEmpty_iff]
  rfl

/-- A row that lands in an inbound buffer enters it, or waits in the fabric. -/
theorem land_inRow (d : Dp) (c : BitVec 3) (r : InRow) :
    (land d (.inRow c r)).1 = d.modCore c (fun y => { y with cm :=
      if (vget d.cores c).cm.fabric = [] ∧ (vget d.cores c).cm.inbound.length < 16
      then { (vget d.cores c).cm with inbound := (vget d.cores c).cm.inbound ++ [r] }
      else { (vget d.cores c).cm with fabric := (vget d.cores c).cm.fabric ++ [r] } }) := by
  change d.setCore c { vget d.cores c with cm := (vget d.cores c).cm.arrive r } = _
  simp only [Cmem.arrive, Bool.and_eq_true, List.isEmpty_iff, decide_eq_true_eq]
  rfl

/-- Bytes of the state buffer that land. -/
theorem land_sbuf (d : Dp) (c : BitVec 3) (a : Nat) (b : List Byte) :
    (∀ k, memRead (vget (land d (.sbuf c [(a, b)])).1.cores c).se.buf k =
      if a ≤ k ∧ k < a + b.length then byteAt b (k - a) else memRead (vget d.cores c).se.buf k) ∧
      (land d (.sbuf c [(a, b)])).1 = d.modCore c (fun x => { x with se := { x.se with buf := (vget (land d (.sbuf c [(a, b)])).1.cores c).se.buf } }) := by
  have hcore : (vget (land d (.sbuf c [(a, b)])).1.cores c).se.buf = setCells (vget d.cores c).se.buf [(a, b)] :=
    congrArg (fun x : Core => x.se.buf) (vget_vset_same ..)
  rw [hcore]
  exact ⟨memRead_setCells_one _ a b, rfl⟩

/-- Tables that land. -/
theorem land_tables (d : Dp) (c : BitVec 3) (b : List Byte) :
    (∀ k, memRead (vget (land d (.tables c b)).1.cores c).me.tb k = if k < b.length then byteAt b k else memRead (vget d.cores c).me.tb k) ∧
      (land d (.tables c b)).1 = d.modCore c (fun x => { x with me := { x.me with tb := (vget (land d (.tables c b)).1.cores c).me.tb } }) := by
  have hcore : (vget (land d (.tables c b)).1.cores c).me.tb = memWrite (vget d.cores c).me.tb 0 b :=
    congrArg (fun x : Core => x.me.tb) (vget_vset_same ..)
  rw [hcore]
  exact ⟨fun k => by simpa using memRead_memWrite_byteAt (vget d.cores c).me.tb 0 b k, rfl⟩

/-- Ready bits that land: set or cleared among the six. -/
theorem land_ready (d : Dp) (c : BitVec 3) (b : BitVec 6) (v : Bool) :
    let x := (vget d.cores c).me
    let y := (vget (land d (.ready c b v)).1.cores c).me
    y.whReady ++ y.ibReady = (if v then (x.whReady ++ x.ibReady) ||| b else (x.whReady ++ x.ibReady) &&& ~~~b) ∧
      (land d (.ready c b v)).1 = d.modCore c (fun z => { z with me := { z.me with ibReady := y.ibReady, whReady := y.whReady } }) := by
  intro x y
  let new := if v then (x.whReady ++ x.ibReady) ||| b else (x.whReady ++ x.ibReady) &&& ~~~b
  have hme : y = { x with ibReady := new.extractLsb' 0 4, whReady := new.extractLsb' 4 2 } :=
    congrArg Core.me (vget_vset_same d.cores c _)
  rw [hme]
  exact ⟨ready_parts new, rfl⟩

/-- Settles O22, one lemma for each kind of landing. -/
theorem landingTakesEffectInItsCycle : Obligations.LandingTakesEffectInItsCycle := by
  unfold Obligations.LandingTakesEffectInItsCycle
  refine ⟨fun d n m l h => ⟨fun hm => passLandings_of_lt h hm, fun hl hm => passLandings_of_le h hm hl, ?_, ?_⟩, fun d c f => ?_,
    fun d c q k v => ⟨rfl, rfl⟩, fun d c q n v => rfl, fun d c b v => land_ready d c b v, fun d c l h hl hd => land_regs h hl hd,
    fun d row b h => land_row_frame h row b, fun d c a b _ => land_sbuf d c a b, fun d c b _ => land_tables d c b,
    fun d c u => land_tile d c u, fun d c r => land_inRow d c r⟩
  · rintro c f v rfl; rfl
  · rintro f v rfl; rfl
  · simp only [land, Dp.cflg, Dp.setFlg]

end Sys2Proof.Machine
end

section
/-!
SUPPORT. What an engine command keeps of the datapath: the queues of every core, what its control processor waits for, and the canonical
form of every memory. One lemma for each operation of an engine's work.
-/
namespace Sys2Proof.Machine
-- one proof after the other: the check compiles one text, and its memory holds few threads
set_option Elab.async false
open Sys2Proof.Safety

/-! ### Memories -/

/-- A memory in canonical form, as an atom for simp. -/
def MemOk (m : Mem) : Prop := memWf m

theorem memOk_iff (m : Mem) : MemOk m ↔ memWf m := Iff.rfl

theorem memOk_nil : MemOk [] := memWf_nil
theorem memOk_memWrite {m : Mem} (h : MemOk m) (a : Nat) (bs : List Byte) : MemOk (memWrite m a bs) := memWf_memWrite h a bs
theorem memOk_memZero {m : Mem} (h : MemOk m) (a n : Nat) : MemOk (memZero m a n) := memWf_memZero h a n

theorem memOk_setCells {m : Mem} (h : MemOk m) (l : List (Nat × List Byte)) : MemOk (setCells m l) := by
  induction l generalizing m with
  | nil => exact h
  | cons x l ih => exact ih (memOk_memWrite h _ _)

theorem memOk_extRows {m : Mem} (h : MemOk m) (a : Nat) (on : Nat → Bool) (j : Nat) (data : List Byte) (n : Nat) :
    MemOk (extRows m a on j data n) := by
  induction n generalizing m j data with
  | zero => exact h
  | succ n ih =>
    rw [extRows]
    refine ih ?_ _ _
    split
    · exact memOk_memWrite h _ _
    · exact h

/-! ### Cores -/

/-- Every memory of a core that was canonical in x is so in y. -/
structure CoreMems (x y : Core) : Prop where
  ib : MemOk x.me.ib → MemOk y.me.ib
  ibScale : MemOk x.me.ibScale → MemOk y.me.ibScale
  wh : MemOk x.me.wh → MemOk y.me.wh
  whScale : MemOk x.me.whScale → MemOk y.me.whScale
  tb : MemOk x.me.tb → MemOk y.me.tb
  buf : MemOk x.se.buf → MemOk y.se.buf
  regs : MemOk x.ve.regs → MemOk y.ve.regs
  ctActive : MemOk x.ve.ctActive → MemOk y.ve.ctActive
  ctPending : MemOk x.ve.ctPending → MemOk y.ve.ctPending

theorem CoreMems.refl (x : Core) : CoreMems x x := ⟨id, id, id, id, id, id, id, id, id⟩

theorem CoreMems.trans {x y z : Core} (h : CoreMems x y) (g : CoreMems y z) : CoreMems x z :=
  ⟨g.ib ∘ h.ib, g.ibScale ∘ h.ibScale, g.wh ∘ h.wh, g.whScale ∘ h.whScale, g.tb ∘ h.tb, g.buf ∘ h.buf, g.regs ∘ h.regs,
    g.ctActive ∘ h.ctActive, g.ctPending ∘ h.ctPending⟩

/-- y keeps the queues of x and what its control processor waits for, and the canonical form of its memories. -/
structure CoreKept (x y : Core) : Prop where
  queues : y.queues = x.queues
  cpWait : y.cpWait = x.cpWait
  mems : CoreMems x y

theorem CoreKept.refl (x : Core) : CoreKept x x := ⟨rfl, rfl, .refl x⟩

theorem CoreKept.trans {x y z : Core} (h : CoreKept x y) (g : CoreKept y z) : CoreKept x z :=
  ⟨g.queues.trans h.queues, g.cpWait.trans h.cpWait, h.mems.trans g.mems⟩

/-- A core changed beside its queues, its control processor's waiting operations and its memories. -/
theorem coreKept_beside {x y : Core} (hq : y.queues = x.queues) (hw : y.cpWait = x.cpWait) (hm : coreMems y = coreMems x) : CoreKept x y := by
  simp only [coreMems, List.cons.injEq, and_true] at hm
  obtain ⟨h1, h2, h3, h4, h5, h6, h7, h8, h9⟩ := hm
  exact ⟨hq, hw, h1 ▸ id, h2 ▸ id, h3 ▸ id, h4 ▸ id, h5 ▸ id, h6 ▸ id, h7 ▸ id, h8 ▸ id, h9 ▸ id⟩

/-! ### The datapath -/

/-- Every core of e keeps what CoreKept says of it, and the memories of device and host stay canonical. -/
structure DpKept (d e : Dp) : Prop where
  cores : ∀ k, CoreKept (vget d.cores k) (vget e.cores k)
  dev : MemOk d.dev → MemOk e.dev
  ext : MemOk d.ext → MemOk e.ext

theorem DpKept.refl (d : Dp) : DpKept d d := ⟨fun _ => .refl _, id, id⟩

theorem DpKept.trans {d e f : Dp} (h : DpKept d e) (g : DpKept e f) : DpKept d f :=
  ⟨fun k => (h.cores k).trans (g.cores k), g.dev ∘ h.dev, g.ext ∘ h.ext⟩

section
variable {d e : Dp}

/-- A core replaced by one that keeps what it must. -/
theorem dpKept_setCore (h : DpKept d e) {c : BitVec 3} {x : Core} (hx : CoreKept (vget e.cores c) x) : DpKept d (e.setCore c x) := by
  refine h.trans ⟨fun k => ?_, id, id⟩
  rw [Dp.setCore_cores, vget_vset]
  split
  · next hk => exact hk ▸ hx
  · exact .refl _

theorem dpKept_modCore (h : DpKept d e) {c : BitVec 3} {f : Core → Core} (hf : ∀ x, CoreKept x (f x)) : DpKept d (e.modCore c f) :=
  dpKept_setCore h (hf _)

/-- Of a datapath only cores, device and host memory matter. -/
theorem DpKept.congr {f : Dp} (h : DpKept d e) (hc : f.cores = e.cores) (hd : f.dev = e.dev) (hx : f.ext = e.ext) : DpKept d f :=
  ⟨hc ▸ h.cores, hd ▸ h.dev, hx ▸ h.ext⟩

theorem dpKept_landIn (h : DpKept d e) (n : Nat) (l : Landing) : DpKept d (e.landIn n l) := h.congr rfl rfl rfl
theorem dpKept_rowLands (h : DpKept d e) (c : BitVec 3) (r : Nat) (l : List Byte) (n : Nat) : DpKept d (e.rowLands c r l n) :=
  h.congr rfl rfl rfl
theorem dpKept_markRead (h : DpKept d e) (r : Nat) : DpKept d (markRead e r) := h.congr rfl rfl rfl

theorem dpKept_meterOffer (h : DpKept d e) (i : BitVec 4) (n : Nat) (b : Bool) : DpKept d (meterOffer e i n b).2 := by
  have hm := meterOffer_dp e i n b
  exact h.congr (congrArg Dp.cores hm :) (congrArg Dp.dev hm :) (congrArg Dp.ext hm :)

theorem dpKept_countEcc (h : DpKept d e) (m : EccMark) : DpKept d (countEcc e m) := by
  unfold countEcc
  split
  · split <;> exact h.congr rfl rfl rfl
  · exact dpKept_modCore h (fun _ => ⟨rfl, rfl, id, id, id, id, id, id, id, id, id⟩)

theorem dpKept_foldl_countEcc (h : DpKept d e) (l : List EccMark) : DpKept d (l.foldl countEcc e) := by
  induction l generalizing e with
  | nil => exact h
  | cons m l ih => exact ih (dpKept_countEcc h m)

end

/-! ### The work of a command -/

/-- The work v keeps what the datapath d holds. -/
def WorkKept (d : Dp) (v : Work) : Prop := DpKept d v.d

section
variable {d : Dp} {w v : Work}

/-- Of a work only its datapath matters. -/
theorem WorkKept.congr (h : WorkKept d w) (hv : v.d = w.d) : WorkKept d v := by unfold WorkKept; rw [hv]; exact h

theorem workKept_with {e : Dp} (h : DpKept d e) : WorkKept d { w with d := e } := h

theorem workKept_modMe (h : WorkKept d w) {f : Core → Core} (hf : ∀ x, CoreKept x (f x)) : WorkKept d (w.modMe f) := dpKept_modCore h hf

theorem workKept_report (h : WorkKept d w) (r : Report) : WorkKept d (w.report r) := h

theorem workKept_bound (h : WorkKept d w) (n : Nat) : WorkKept d (w.bound n) := h

theorem workKept_landIn (h : WorkKept d w) (n : Nat) (l : Landing) : WorkKept d { w with d := w.d.landIn n l } := dpKept_landIn h n l

/-- Cases of a command's work. -/
theorem workKept_ite {p : Prop} [Decidable p] (hw : WorkKept d w) (hv : WorkKept d v) : WorkKept d (if p then w else v) := by
  split <;> assumption

/-- Cases of a command's work and what it gave. -/
theorem workKept_ite_snd {α : Type} {p : Prop} [Decidable p] {a b : α × Work} (ha : WorkKept d a.2) (hb : WorkKept d b.2) :
    WorkKept d (if p then a else b).2 := by
  split <;> assumption

theorem workKept_foldl {α : Type} {f : Work → α → Work} (h : WorkKept d w) (hf : ∀ w x, WorkKept d w → WorkKept d (f w x)) (l : List α) :
    WorkKept d (l.foldl f w) := by
  induction l generalizing w with
  | nil => exact h
  | cons x l ih => exact ih (hf w x h)

theorem workKept_foldl_snd {α β : Type} {f : β × Work → α → β × Work} {a : β × Work} (h : WorkKept d a.2)
    (hf : ∀ a x, WorkKept d a.2 → WorkKept d (f a x).2) (l : List α) : WorkKept d (l.foldl f a).2 := by
  induction l generalizing a with
  | nil => exact h
  | cons x l ih => exact ih (hf a x h)

/-! #### Reading and writing rows -/

theorem workKept_readDev (h : WorkKept d w) (row k : Nat) : WorkKept d (w.readDev row k).2 := by
  unfold Work.readDev
  split
  · exact h
  · refine workKept_ite_snd h ?_
    have hd := dpKept_foldl_countEcc (dpKept_markRead h row) (rowMarks w.d row)
    dsimp only [WorkKept]
    split
    · exact hd.congr rfl rfl rfl
    · exact hd

theorem workKept_readRef (h : WorkKept d w) (orch : Bool) (o k : Nat) : WorkKept d (w.readRef orch o k).2 := by
  unfold Work.readRef
  split
  · exact workKept_bound h o
  · exact workKept_readDev h _ k

theorem workKept_readRows (h : WorkKept d w) (orch : Bool) (o k n : Nat) : WorkKept d (w.readRows orch o k n).2 := by
  induction n generalizing w o k with
  | zero => exact h
  | succ n ih => exact ih (workKept_readRef h orch o k) (o + 1) (k + 1)

theorem workKept_readList (h : WorkKept d w) (orch : Bool) (l : List (Nat × Nat)) : WorkKept d (w.readList orch l).2 := by
  induction l generalizing w with
  | nil => exact h
  | cons o l ih => exact ih (workKept_readRef h orch o.1 o.2)

theorem workKept_readDistinct (h : WorkKept d w) (orch : Bool) (l : List (Nat × Nat)) : WorkKept d (w.readDistinct orch l).2 :=
  workKept_readList h orch l

theorem workKept_writeRef (h : WorkKept d w) (orch : Bool) (o : Nat) (data : List Byte) (land : Nat) :
    WorkKept d (w.writeRef orch o data land) := by
  unfold Work.writeRef
  split
  · exact workKept_bound h o
  · exact workKept_ite h (dpKept_rowLands h _ _ _ _)

theorem workKept_writeRows (h : WorkKept d w) (orch : Bool) (o : Nat) (data : List Byte) (land n : Nat) :
    WorkKept d (w.writeRows orch o data land n) := by
  induction n generalizing w o data land with
  | zero => exact h
  | succ n ih => exact ih (workKept_writeRef h orch o _ land) _ _ _

theorem workKept_writeTogether (h : WorkKept d w) (orch : Bool) (o : Nat) (data : List Byte) (land n : Nat) :
    WorkKept d (w.writeTogether orch o data land n) := by
  induction n generalizing w o data with
  | zero => exact h
  | succ n ih => exact ih (workKept_writeRef h orch o _ land) _ _

theorem workKept_dropLate (h : WorkKept d w) (n : Nat) : WorkKept d (w.dropLate n) := by
  unfold Work.dropLate
  split
  · exact h
  · exact DpKept.congr h rfl rfl rfl

theorem workKept_raise (h : WorkKept d w) (f : NFlags) : WorkKept d (w.raise f) :=
  workKept_modMe h fun x => by split <;> exact coreKept_beside rfl rfl rfl

theorem workKept_deEnds (h : WorkKept d w) (n : Nat) (f : BitVec 7) : WorkKept d (w.deEnds n f) := workKept_landIn h _ _
theorem workKept_regsLand (h : WorkKept d w) (n : Nat) (l : List (Nat × Nat × Nat)) : WorkKept d (w.regsLand n l) := workKept_landIn h _ _
theorem workKept_slotReady (h : WorkKept d w) (slot n : Nat) : WorkKept d (w.slotReady slot n) := workKept_landIn h _ _
theorem workKept_halfReady (h : WorkKept d w) (k n : Nat) : WorkKept d (w.halfReady k n) := workKept_landIn h _ _

theorem workKept_flagWrite (h : WorkKept d w) (flag : BitVec 6) (dev v : Bool) : WorkKept d (w.flagWrite flag dev v) := by
  unfold Work.flagWrite
  cases dev
  · exact workKept_landIn h _ _
  · exact workKept_landIn h _ _

theorem workKept_veBusy (h : WorkKept d w) (o lat : Nat) : WorkKept d (w.veBusy o lat) := workKept_modMe h fun _ => coreKept_beside rfl rfl rfl
theorem workKept_meBusy (h : WorkKept d w) (f : MmF) : WorkKept d (w.meBusy f) := workKept_modMe h fun _ => coreKept_beside rfl rfl rfl
theorem workKept_fillBusy (h : WorkKept d w) (o : Nat) : WorkKept d (w.fillBusy o) := workKept_modMe h fun _ => coreKept_beside rfl rfl rfl
theorem workKept_seBusy (h : WorkKept d w) (op : BitVec 2) (n : Nat) (b : Bool) : WorkKept d (w.seBusy op n b) :=
  workKept_modMe h fun _ => coreKept_beside rfl rfl rfl

/-! #### Matrix and fill -/

theorem workKept_tilesEnter (h : WorkKept d w) (l : List (Nat × Tile)) : WorkKept d (w.tilesEnter l) := by
  induction l generalizing w with
  | nil => exact h
  | cons t l ih => exact ih (workKept_landIn h _ _)

theorem workKept_writeTiles (h : WorkKept d w) (o : Nat) (l : List (Nat × Tile)) : WorkKept d (w.writeTiles o l) := by
  induction l generalizing w o with
  | nil => exact h
  | cons t l ih => exact ih (workKept_writeTogether h _ _ _ _ _) _

theorem workKept_mmRelease (h : WorkKept d w) (f : MmF) : WorkKept d (w.mmRelease f) := DpKept.congr h rfl rfl rfl

theorem workKept_effMm (h : WorkKept d w) (i : Iss) (f : MmF) (run : Bool) : WorkKept d (effMm i f run w) := by
  have hacc : ∀ n r fl, WorkKept d (((({ w.meBusy f with d := { (w.meBusy f).d with free := n } } : Work).modMe (fun c =>
      { c with me := { c.me with acc := accWrite c.me.acc f.abank r } })).mmRelease f).raise fl) := fun n r fl =>
    workKept_raise (workKept_mmRelease (workKept_modMe (by exact DpKept.congr (workKept_meBusy h f) rfl rfl rfl)
      fun _ => by exact coreKept_beside rfl rfl rfl) f) _
  unfold effMm
  exact workKept_ite (workKept_mmRelease (workKept_ite (workKept_tilesEnter h _) h) f) (workKept_ite (hacc _ _ _)
    (workKept_ite (workKept_tilesEnter (workKept_raise (hacc _ _ _) _) _) (workKept_writeTiles (workKept_raise (hacc _ _ _) _) _ _)))

theorem workKept_effWfill (h : WorkKept d w) (i : Iss) (f : WfillF) (run : Bool) : WorkKept d (effWfill i f run w) :=
  workKept_ite (workKept_halfReady (workKept_fillBusy h _) _ _)
    (workKept_halfReady (workKept_modMe (workKept_readRows (workKept_readRows (workKept_fillBusy h _) _ _ _ _) _ _ _ _) fun x =>
      by exact ⟨rfl, rfl, { CoreMems.refl x with wh := fun hm => memOk_memWrite hm _ _, whScale := fun hm => memOk_memWrite hm _ _ }⟩) _ _)

theorem workKept_effTload (h : WorkKept d w) (i : Iss) (f : TloadF) (run : Bool) : WorkKept d (effTload i f run w) :=
  workKept_ite (workKept_fillBusy h _) (workKept_landIn (workKept_readRef (workKept_fillBusy h _) _ _ _) _ _)

/-! #### Vector commands -/

theorem workKept_effLanes (h : WorkKept d w) (fn : LaneFn) (lat : Nat) (i : Iss) (f : VArithF) (run : Bool) :
    WorkKept d (effLanes fn lat i f run w) :=
  workKept_ite (workKept_veBusy h _ _) (workKept_raise (workKept_regsLand (workKept_veBusy h _ _) _ _) _)

theorem workKept_effReduce (h : WorkKept d w) (fn : List Dec → Dec) (i : Iss) (f : VRedF) (run : Bool) :
    WorkKept d (effReduce fn i f run w) :=
  workKept_ite (workKept_veBusy h _ _) (workKept_raise (workKept_regsLand (workKept_veBusy h _ _) _ _) _)

theorem workKept_effVld (h : WorkKept d w) (i : Iss) (f : VMemF) (run : Bool) : WorkKept d (effVld i f run w) :=
  workKept_ite (workKept_veBusy h _ _)
    (workKept_raise (workKept_regsLand (workKept_readDistinct (workKept_readDistinct (workKept_veBusy h _ _) _ _) _ _) _ _) _)

theorem workKept_effVst (h : WorkKept d w) (i : Iss) (f : VMemF) (run : Bool) : WorkKept d (effVst i f run w) :=
  workKept_ite (workKept_veBusy h _ _)
    (workKept_raise (workKept_writeRows (workKept_writeRows (workKept_veBusy h _ _) _ _ _ _ _) _ _ _ _ _) _)

theorem workKept_effVib (h : WorkKept d w) (i : Iss) (f : VibF) (run : Bool) : WorkKept d (effVib i f run w) := by
  have hlast : ∀ v, WorkKept d v → WorkKept d (if f.last = 1 then v.slotReady f.slot.toNat (f.cnt1.toNat + 1 + 1) else v) :=
    fun v hv => workKept_ite (workKept_slotReady hv _ _) hv
  exact workKept_ite (hlast _ (workKept_veBusy h _ _)) (hlast _ (workKept_raise (workKept_modMe (workKept_veBusy h _ _) fun x =>
    by exact ⟨rfl, rfl, { CoreMems.refl x with ib := fun hm => memOk_memWrite hm _ _, ibScale := fun hm => memOk_memWrite hm _ _ }⟩) _))

theorem workKept_ftUnder (h : WorkKept d w) (run : Bool) : WorkKept d (w.ftUnder run) :=
  workKept_report (workKept_raise (workKept_modMe h fun _ => by exact coreKept_beside rfl rfl rfl) _) _

theorem workKept_vftRows (h : WorkKept d w) (f : VftF) (l : List Byte) (n : Nat) : WorkKept d (w.vftRows f l n) :=
  workKept_writeRows h _ _ _ _ _

theorem workKept_takeTile (h : WorkKept d w) (i : Iss) (f : VftF) (run : Bool) : WorkKept d (takeTile i f run w) := by
  unfold takeTile
  split
  · exact h
  · refine workKept_ite (workKept_ite (workKept_vftRows (workKept_veBusy ?_ _ _) _ _ _) (workKept_veBusy ?_ _ _))
      (workKept_ite (workKept_veBusy ?_ _ _) (workKept_raise (workKept_regsLand (workKept_veBusy ?_ _ _) _ _) _))
    all_goals exact workKept_modMe h fun _ => by exact coreKept_beside rfl rfl rfl

theorem workKept_effVft (h : WorkKept d w) (i : Iss) (f : VftF) (run : Bool) : WorkKept d (effVft i f run w) := by
  have hb : WorkKept d (if f.dstw = 1 then w.veBusy (plannedRows w.me w.idx) 6 else w.veBusy 16 3) :=
    workKept_ite (workKept_veBusy h _ _) (workKept_veBusy h _ _)
  exact workKept_ite (workKept_takeTile h i f run) (workKept_ite (workKept_modMe h fun _ => by exact coreKept_beside rfl rfl rfl)
    (workKept_ite (workKept_ftUnder hb _) (workKept_ite (workKept_vftRows (workKept_ftUnder hb _) _ _ _)
      (workKept_regsLand (workKept_ftUnder hb _) _ _))))

theorem workKept_ftResume (h : WorkKept d w) : WorkKept d w.ftResume := by
  unfold Work.ftResume
  split
  · exact workKept_ite h (workKept_takeTile h _ _ _)
  · exact h

theorem workKept_convResets (h : WorkKept d w) (i : Iss) : WorkKept d (w.convResets i).2 := by
  unfold Work.convResets
  split
  · exact workKept_readRef h _ _ _
  · exact h

theorem workKept_effVconv (h : WorkKept d w) (i : Iss) (f : VConvF) (run : Bool) : WorkKept d (effVconv i f run w) :=
  workKept_ite (workKept_veBusy h _ _) (workKept_ite (workKept_veBusy h _ _)
    (workKept_raise (workKept_regsLand (workKept_convResets (workKept_veBusy h _ _) i) _ _) _))

theorem workKept_effVtopk (h : WorkKept d w) (i : Iss) (f : VTopkF) (run : Bool) : WorkKept d (effVtopk i f run w) :=
  workKept_ite (workKept_veBusy h _ _) (workKept_raise (workKept_regsLand (workKept_readDistinct (workKept_veBusy h _ _) _ _) _ _) _)

theorem workKept_effVwadd (h : WorkKept d w) (i : Iss) (f : VWaddF) (run : Bool) : WorkKept d (effVwadd i f run w) :=
  workKept_ite (workKept_veBusy h _ _) (workKept_ite (workKept_veBusy h _ _)
    (workKept_raise (workKept_regsLand (workKept_readList (workKept_veBusy h _ _) _ _) _ _) _))

theorem workKept_effVctl (h : WorkKept d w) (i : Iss) (f : VCtlF) (run : Bool) : WorkKept d (effVctl i f run w) :=
  workKept_ite (workKept_veBusy h _ _) (workKept_landIn (workKept_modMe (workKept_readRef (workKept_veBusy h _ _) _ _ _) fun x =>
    by exact ⟨rfl, rfl, { CoreMems.refl x with ctPending := fun hm => memOk_memWrite hm _ _ }⟩) _ _)

/-! #### Data-engine commands -/

theorem workKept_readLoc (h : WorkKept d w) (sl : BitVec 2) (adr : BitVec 18) (k : Int) (t : Nat) : WorkKept d (w.readLoc sl adr k t).2 := by
  unfold Work.readLoc
  split
  · exact workKept_ite_snd h (workKept_bound h _)
  · split
    · exact workKept_bound h _
    · exact workKept_readRef h _ _ _

theorem workKept_writeLoc (h : WorkKept d w) (dl : BitVec 2) (adr : BitVec 18) (k : Int) (data : List Byte) (n : Nat) :
    WorkKept d (w.writeLoc dl adr k data n) := by
  unfold Work.writeLoc
  refine workKept_ite (workKept_ite (workKept_landIn h _ _) (workKept_bound h _)) (workKept_ite (workKept_ite ?_ (workKept_bound h _)) ?_)
  · exact workKept_modMe h fun x => by exact ⟨rfl, rfl, { CoreMems.refl x with ib := fun hm => memOk_memWrite hm _ _ }⟩
  · split
    · exact workKept_bound h _
    · exact workKept_writeRef h _ _ _ _

theorem workKept_readSpan (h : WorkKept d w) (sl : BitVec 2) (adr : BitVec 18) (k : Int) (en : Nat → Bool) (i t n : Nat) :
    WorkKept d (w.readSpan sl adr k en i t n).2 := by
  induction n generalizing w k i with
  | zero => exact h
  | succ n ih => exact ih (workKept_ite_snd (workKept_readLoc h _ _ _ _) h) _ _

theorem workKept_writeSpan (h : WorkKept d w) (dl : BitVec 2) (adr : BitVec 18) (k : Int) (en : Nat → Bool) (i : Nat) (land : Nat → Nat)
    (data : List Byte) (n : Nat) : WorkKept d (w.writeSpan dl adr k en i land data n) := by
  induction n generalizing w k i data with
  | zero => exact h
  | succ n ih => exact ih (workKept_ite (workKept_writeLoc h _ _ _ _ _) h) _ _ _

theorem workKept_writeSlotScale (h : WorkKept d w) (s : FmtSel) (adr : BitVec 18) (k : Int) (en : Nat → Bool) (scales : List Byte) (n : Nat) :
    WorkKept d (w.writeSlotScale s adr k en scales n) :=
  workKept_foldl h (fun _ _ hv => workKept_ite (workKept_modMe hv fun x =>
    by exact ⟨rfl, rfl, { CoreMems.refl x with ibScale := fun hm => memOk_memWrite hm _ _ }⟩) hv) _

theorem workKept_moveRow (h : WorkKept d w) (j : MoveJob) (b i at_ : Nat) : WorkKept d (w.moveRow j b i at_) := by
  have hr := workKept_readLoc h j.sl j.sadr (j.soff + b * j.bss + i) at_
  unfold Work.moveRow
  dsimp only
  split
  · exact hr
  · exact workKept_writeLoc hr _ _ _ _ _

theorem workKept_moveBatch (h : WorkKept d w) (en : Nat → Bool) (j : MoveJob) (b : Nat) : WorkKept d (w.moveBatch en j b) := by
  have hrow : ∀ w i t, WorkKept d w → WorkKept d (w.moveRow j b i t) := fun w i t hv => workKept_moveRow hv j b i t
  have hmoved : ∀ t, WorkKept d ((List.range j.nrows).foldl (fun w i => if en (b * j.nrows + i) then w.moveRow j b i (t + i) else w) w) :=
    fun t => workKept_foldl h (fun _ _ hv => workKept_ite (hrow _ _ _ hv) hv) _
  exact workKept_ite h (workKept_ite (workKept_writeSlotScale (workKept_readSpan (hmoved _) _ _ _ _ _ _ _) _ _ _ _ _ _)
    (workKept_foldl (hmoved _) (fun _ _ hv => hrow _ _ _ hv) _))

theorem workKept_convBatch (h : WorkKept d w) (en : Nat → Bool) (j : MoveJob) (b : Nat) : WorkKept d (w.convBatch en j b) := by
  unfold Work.convBatch
  refine workKept_ite h (workKept_raise (workKept_ite ?_ (workKept_ite (workKept_writeSlotScale ?_ _ _ _ _ _ _)
    (workKept_writeSpan ?_ _ _ _ _ _ _ _ _))) _)
  all_goals exact workKept_writeSpan (workKept_readSpan (workKept_readSpan h _ _ _ _ _ _ _) _ _ _ _ _ _ _) _ _ _ _ _ _ _ _

theorem workKept_moveDone (h : WorkKept d w) (j : MoveJob) : WorkKept d (w.moveDone j) :=
  workKept_deEnds (workKept_ite (workKept_landIn h _ _) h) _ _

theorem workKept_runMove (h : WorkKept d w) (i : Iss) (j : MoveJob) (run : Bool) : WorkKept d (runMove i j run w) :=
  workKept_moveDone (workKept_ite h (workKept_ite (workKept_foldl h (fun _ _ hv => workKept_convBatch hv _ _ _) _)
    (workKept_foldl h (fun _ _ hv => workKept_moveBatch hv _ _ _) _))) j

theorem workKept_takeCredit (h : WorkKept d w) (ch : BitVec 3) (n : Nat) : WorkKept d (w.takeCredit ch n) :=
  workKept_modMe h fun _ => coreKept_beside rfl rfl rfl

theorem workKept_remoteFlags (h : WorkKept d w) (tgt : BitVec 3) (f : DremoteF) : WorkKept d (w.remoteFlags tgt f) :=
  workKept_landIn (workKept_deEnds h _ _) _ _

theorem workKept_remoteRows (h : WorkKept d w) (i : Iss) (f : DremoteF) (x : Chan) (n : Nat) : WorkKept d (w.remoteRows i f x n).2 := by
  induction n with
  | zero => exact h
  | succ n ih => exact workKept_ite_snd (workKept_readLoc ih _ _ _ _) ih

theorem workKept_sendRows (h : WorkKept d w) (tgt : BitVec 3) (g : BitVec 6) (l : List (Nat × Nat × List Byte)) :
    WorkKept d (w.sendRows tgt g l).2 := by
  induction l generalizing w with
  | nil => exact h
  | cons x l ih => exact ih (workKept_landIn h _ _)

theorem workKept_sendAll (h : WorkKept d w) (f : DremoteF) (tgt : BitVec 3) (l : List (Nat × Nat × List Byte)) :
    WorkKept d (w.sendAll f tgt l) := by
  have hb : WorkKept d ((l.filter (fun x => (cmRow w.d tgt x.2.1).isNone)).foldl (fun (w : Work) x => w.bound x.2.1) w) :=
    workKept_foldl h (fun _ _ hv => workKept_bound hv _) _
  unfold Work.sendAll
  dsimp only
  split
  · exact workKept_remoteFlags hb _ _
  · exact workKept_deEnds (workKept_sendRows hb _ _ _) _ _

theorem workKept_effDremote (h : WorkKept d w) (i : Iss) (f : DremoteF) (run : Bool) : WorkKept d (effDremote i f run w) :=
  workKept_ite (workKept_remoteFlags (workKept_report h _) _ _) (workKept_ite (workKept_remoteFlags (workKept_bound (workKept_takeCredit h _ _) _) _ _)
    (workKept_ite (workKept_remoteFlags (workKept_takeCredit h _ _) _ _)
      (workKept_sendAll (workKept_remoteRows (workKept_takeCredit h _ _) _ _ _ _) _ _ _)))

theorem workKept_readIndex (h : WorkKept d w) (adr : BitVec 18) (k t : Nat) : WorkKept d (w.readIndex adr k t).2 := by
  unfold Work.readIndex
  split
  · exact workKept_bound h _
  · split
    · exact h
    · exact workKept_readDev h _ _

theorem workKept_effDgather (h : WorkKept d w) (i : Iss) (f : DgatherF) (run : Bool) : WorkKept d (effDgather i f run w) :=
  workKept_deEnds (workKept_ite h (workKept_foldl h (fun _ _ hv => workKept_ite hv
    (workKept_writeLoc (workKept_readLoc (workKept_readIndex hv _ _ _) _ _ _ _) _ _ _ _ _)) _)) _ _

theorem workKept_dmemOut (h : WorkKept d w) (en : Nat → Bool) (f : DmemF) : WorkKept d (w.dmemOut en f).2 :=
  workKept_ite_snd (workKept_raise (workKept_readSpan (workKept_readSpan h _ _ _ _ _ _ _) _ _ _ _ _ _ _) _)
    (workKept_readSpan (workKept_readSpan h _ _ _ _ _ _ _) _ _ _ _ _ _ _)

theorem workKept_effDmem (h : WorkKept d w) (i : Iss) (f : DmemF) (run : Bool) : WorkKept d (effDmem i f run w) :=
  workKept_ite (workKept_deEnds h _ _) (workKept_modMe (workKept_with (dpKept_meterOffer (workKept_ite_snd (workKept_dmemOut h _ _) h) _ _ _))
    fun _ => by exact coreKept_beside rfl rfl rfl)

theorem workKept_dmemIn (h : WorkKept d w) (x : DmemXfer) (data : List Byte) : WorkKept d (w.dmemIn x data) :=
  workKept_ite (workKept_raise (workKept_ite (workKept_writeSpan h _ _ _ _ _ _ _ _)
    (workKept_writeSpan (workKept_writeSpan h _ _ _ _ _ _ _ _) _ _ _ _ _ _ _ _)) _) (workKept_writeSpan h _ _ _ _ _ _ _ _)

theorem workKept_effDmemComplete (h : WorkKept d w) (resp : BitVec 2) (data : List Byte) : WorkKept d (effDmemComplete resp data w) := by
  unfold effDmemComplete
  split
  · exact h
  · next x rest _ =>
    have ht : WorkKept d (w.modMe (fun c => { c with dmem := rest })) := workKept_modMe h fun _ => coreKept_beside rfl rfl rfl
    refine workKept_deEnds (workKept_ite (workKept_report ht _) (workKept_ite (workKept_dmemIn ht _ _) ?_)) _ _
    exact ⟨ht.cores, ht.dev, fun hm => memOk_extRows (ht.ext hm) _ _ _ _ _⟩

/-! #### Scan commands -/

theorem workKept_fetch (h : WorkKept d w) (a bits : Nat) (es : List Nat) : WorkKept d (w.fetch a bits es).2 := workKept_readDistinct h _ _

theorem workKept_fetchFmt (h : WorkKept d w) (s : FmtSel) (a n : Nat) (es : List Nat) : WorkKept d (w.fetchFmt s a n es).2 :=
  workKept_readDistinct h _ _

theorem workKept_readSpb (h : WorkKept d w) (a : BitVec 14) : WorkKept d (w.readSpb a).2 := workKept_readRef h _ _ _

theorem workKept_lamClamp (h : WorkKept d w) (n : Nat) : WorkKept d (w.lamClamp n) :=
  workKept_ite h (workKept_raise (workKept_modMe h fun _ => by exact coreKept_beside rfl rfl rfl) _)

theorem workKept_fetchSteps (h : WorkKept d w) (i : Iss) (s : Spb) (hs : List Nat) : WorkKept d (w.fetchSteps i s hs).2 := by
  refine workKept_readDistinct (workKept_ite_snd ?_ ?_) _ _
  · exact workKept_fetch (workKept_fetch h _ _ _) _ _ _
  · exact workKept_fetch h _ _ _

theorem workKept_smixHead (h : WorkKept d w) (i : Iss) (s : Spb) (m k : Nat) : WorkKept d (smixHead i s m w k) := by
  have hg : ∀ l n, WorkKept d (((w.fetchSteps i s [k]).2.readDistinct false l).2.lamClamp n) :=
    fun l n => workKept_lamClamp (workKept_readDistinct (workKept_fetchSteps h i s _) _ _) n
  exact workKept_ite (workKept_raise (workKept_writeTogether (workKept_writeTogether (workKept_readDistinct (hg _ _) _ _) _ _ _ _ _) _ _ _ _ _) _)
    (workKept_raise (workKept_writeTogether (hg _ _) _ _ _ _ _) _)

theorem workKept_effSmix (h : WorkKept d w) (i : Iss) (f : SeF) (run : Bool) : WorkKept d (effSmix i f run w) :=
  have hb := fun n b => workKept_seBusy (workKept_readSpb h f.spb) 1 n b
  workKept_ite (hb _ _) (workKept_foldl (hb _ _) (fun _ _ hv => workKept_smixHead hv _ _ _ _) _)

theorem workKept_fetchInit (h : WorkKept d w) (s : Spb) (slot : Option Nat) (es : List Nat) : WorkKept d (w.fetchInit s slot es).2 := by
  cases slot with
  | none => exact h
  | some r =>
    refine workKept_foldl_snd ?_ ?_ _
    · exact h
    · exact fun _ _ hv => workKept_readDev hv _ _

theorem workKept_fetchInits (h : WorkKept d w) (i : Iss) (s : Spb) (chs : List Nat) : WorkKept d (w.fetchInits i s chs).2 := by
  refine workKept_foldl_snd ?_ ?_ _
  · exact h
  · exact fun _ _ hv => workKept_fetchInit hv _ _ _

theorem workKept_effSout (h : WorkKept d w) (i : Iss) (f : SeF) (run : Bool) : WorkKept d (effSout i f run w) := by
  have hb := fun n b => workKept_seBusy (workKept_readSpb h f.spb) 2 n b
  unfold effSout
  refine workKept_ite (hb _ _) (workKept_raise (workKept_foldl (workKept_lamClamp (workKept_fetchInits (workKept_fetch
    (workKept_ite_snd (workKept_fetchFmt ?_ _ _ _ _) ?_) _ _ _) _ _ _) _) (fun _ _ hv => workKept_foldl hv
      (fun _ _ hu => workKept_writeTogether hu _ _ _ _ _) _) _) _)
  all_goals exact workKept_fetchFmt (workKept_fetchSteps (hb _ _) _ _ _) _ _ _ _

theorem workKept_effScarry (h : WorkKept d w) (i : Iss) (f : SeF) (run : Bool) : WorkKept d (effScarry i f run w) :=
  have hb := fun n b => workKept_seBusy (workKept_readSpb h f.spb) 3 n b
  workKept_ite (hb _ _) (workKept_raise (workKept_landIn (workKept_lamClamp (workKept_fetchInits (workKept_fetch
    (workKept_fetchFmt (workKept_fetchFmt (workKept_fetchSteps (hb _ _) _ _ _) _ _ _ _) _ _ _ _) _ _ _) _ _ _) _) _ _) _)

/-! #### Every engine command -/

theorem workKept_effFset (h : WorkKept d w) (flag : BitVec 6) (dev run : Bool) : WorkKept d (effFset flag dev run w) :=
  workKept_ite (workKept_flagWrite h _ _ _) h
theorem workKept_effFclr (h : WorkKept d w) (flag : BitVec 6) (dev run : Bool) : WorkKept d (effFclr flag dev run w) :=
  workKept_ite (workKept_flagWrite h _ _ _) h
theorem workKept_effFwait (h : WorkKept d w) (flag : BitVec 6) (dev clr run : Bool) : WorkKept d (effFwait flag dev clr run w) :=
  workKept_ite (workKept_flagWrite h _ _ _) h
theorem workKept_effKset (h : WorkKept d w) (k : BitVec 3) (v : W16) (run : Bool) : WorkKept d (effKset k v run w) :=
  workKept_ite (workKept_landIn h _ _) h
theorem workKept_effKadd (h : WorkKept d w) (k : BitVec 3) (v : W16) (run : Bool) : WorkKept d (effKadd k v run w) :=
  workKept_ite (workKept_landIn h _ _) h
theorem workKept_effCset (h : WorkKept d w) (c : BitVec 2) (k n : BitVec 3) (v : W16) (run : Bool) : WorkKept d (effCset c k n v run w) :=
  workKept_ite (workKept_landIn h _ _) h
theorem workKept_effWclaim (h : WorkKept d w) (x : BitVec 4) (n : BitVec 8) (k : BitVec 3) (c : BitVec 2) (e run : Bool) :
    WorkKept d (effWclaim x n k c e run w) := workKept_ite (workKept_landIn h _ _) h
theorem workKept_effWrst (h : WorkKept d w) (x : BitVec 4) (l : W16) (run : Bool) : WorkKept d (effWrst x l run w) :=
  workKept_ite (workKept_landIn h _ _) h
theorem workKept_effDcret (h : WorkKept d w) (i : Iss) (f : DcretF) (run : Bool) : WorkKept d (effDcret i f run w) := workKept_landIn h _ _

/-- Every engine command keeps the queues and the canonical form of the datapath. -/
theorem workKept_effectOf (h : WorkKept d w) {c : Instr} {i : Iss} {eff : Bool → Work → Work} (he : effectOf c = some (i, eff)) (run : Bool) :
    WorkKept d (eff run w) := by
  cases c <;> simp only [effectOf, Option.some.injEq, Prod.mk.injEq, reduceCtorEq] at he <;> obtain ⟨rfl, rfl⟩ := he
  case nop => exact h
  case fset => exact workKept_effFset h _ _ _
  case fclr => exact workKept_effFclr h _ _ _
  case fwait => exact workKept_effFwait h _ _ _ _
  case kset => exact workKept_effKset h _ _ _
  case kadd => exact workKept_effKadd h _ _ _
  case cset => exact workKept_effCset h _ _ _ _ _
  case wclaim => exact workKept_effWclaim h _ _ _ _ _ _
  case wrst => exact workKept_effWrst h _ _ _
  case mm => exact workKept_effMm h _ _ _
  case wfill => exact workKept_effWfill h _ _ _
  case tload => exact workKept_effTload h _ _ _
  case smix => exact workKept_effSmix h _ _ _
  case sout => exact workKept_effSout h _ _ _
  case scarry => exact workKept_effScarry h _ _ _
  case vconv => exact workKept_effVconv h _ _ _
  case vld => exact workKept_effVld h _ _ _
  case vst => exact workKept_effVst h _ _ _
  case vib => exact workKept_effVib h _ _ _
  case vft => exact workKept_effVft h _ _ _
  case vtopk => exact workKept_effVtopk h _ _ _
  case vwadd => exact workKept_effVwadd h _ _ _
  case vctl => exact workKept_effVctl h _ _ _
  case dmove => exact workKept_runMove h _ _ _
  case dmovex => exact workKept_runMove h _ _ _
  case dremote => exact workKept_effDremote h _ _ _
  case dcret => exact workKept_effDcret h _ _ _
  case dmem => exact workKept_effDmem h _ _ _
  case dgather => exact workKept_effDgather h _ _ _
  case vrsum | vrssq | vrmax => exact workKept_effReduce h _ _ _ _
  all_goals exact workKept_effLanes h _ _ _ _ _

end

end Sys2Proof.Machine
end

section
/-!
ISSUE. An engine command that falls due takes the head of its own queue and leaves every other unit alone: what the reports, the
comparators and the late writes of an issue keep.
-/
namespace Sys2Proof.Machine
-- one proof after the other: the check compiles one text, and its memory holds few threads
set_option Elab.async false
open Sys2Proof.Safety

variable {s t u : State}

/-- t keeps the queues and the memories of s, and starts no early tick's work. -/
structure QueuesKept (s t : State) : Prop where
  dp : DpKept s.dp t.dp
  early : noEarlyWork s = true → noEarlyWork t = true

theorem QueuesKept.trans (h : QueuesKept s t) (g : QueuesKept t u) : QueuesKept s u := ⟨h.dp.trans g.dp, g.early ∘ h.early⟩

theorem queuesKept_of_eq (hd : t.dp = s.dp) (hp : t.sp.early = s.sp.early) : QueuesKept s t :=
  ⟨by rw [hd]; exact .refl _, fun h => by unfold noEarlyWork at *; rwa [hp]⟩

/-- Of the early tick only whether it computes matters. -/
theorem noEarlyWork_map {f : TickRec → TickRec} (hf : ∀ r, (f r).computing = r.computing) (hp : t.sp.early = s.sp.early.map f)
    (h : noEarlyWork s = true) : noEarlyWork t = true := by
  unfold noEarlyWork at *
  rw [hp]
  cases he : s.sp.early with
  | none => rfl
  | some e => rw [he] at h; simpa [hf] using h

theorem queuesKept_mapTicks (s : State) {f : TickRec → TickRec} (hf : ∀ r, (f r).computing = r.computing) : QueuesKept s (mapTicks s f) :=
  ⟨.refl _, noEarlyWork_map hf rfl⟩

theorem rollTick_computing (q : W64) (p : StreamTick → Bool) (r : TickRec) : (rollTick q p r).computing = r.computing := by
  unfold rollTick; split <;> rfl

theorem noteCore_computing (q : W64) (c : BitVec 3) (x : BitVec 7) (p : StreamTick → Bool) (r : TickRec) :
    (noteCore q c x p r).computing = r.computing := by
  unfold noteCore; dsimp only; split <;> rfl

theorem queuesKept_recordReport (s : State) (r : Report) : QueuesKept s (recordReport s r) := queuesKept_of_eq (by simp) (by simp)

theorem queuesKept_loseStream (q : W64) (s : State) (x : W16) : QueuesKept s (loseStream q s x) := by
  unfold loseStream unrecovered
  refine QueuesKept.trans ?_ (queuesKept_recordReport _ _)
  refine QueuesKept.trans (t := modStream s x (fun y => { y with lost := true })) (queuesKept_of_eq rfl rfl) ?_
  exact queuesKept_mapTicks _ (rollTick_computing _ _)

theorem queuesKept_foldl_loseStream (q : W64) (s : State) (l : List W16) : QueuesKept s (l.foldl (loseStream q) s) := by
  induction l generalizing s with
  | nil => exact queuesKept_of_eq rfl rfl
  | cons x l ih => exact (queuesKept_loseStream q s x).trans (ih _)

theorem queuesKept_loseJournal (s : State) (n : Nat) : QueuesKept s (loseJournal s n) :=
  queuesKept_of_eq (by simp) (by simp [loseJournal, unrecovered])

theorem queuesKept_rollChain (s : State) (r : Report) (n : Nat) : QueuesKept s (rollChain s r n) := by
  unfold rollChain
  dsimp only
  split
  · exact (queuesKept_mapTicks s (rollTick_computing _ _)).trans (queuesKept_mapTicks _ (noteCore_computing _ _ _ _))
  · exact queuesKept_mapTicks s (rollTick_computing _ _)

theorem queuesKept_dropEarly (s : State) (q : W64) (n : Nat) : QueuesKept s (dropEarly s q n) := by
  unfold dropEarly
  split
  · next e he =>
    split
    · exact ⟨.refl _, noEarlyWork_map (f := discardEarly n) (fun _ => rfl) (by rw [he]; rfl)⟩
    · exact queuesKept_of_eq rfl rfl
  · exact queuesKept_of_eq rfl rfl

theorem dpKept_foldl_modCore {d e : Dp} (h : DpKept d e) {f : Core → Core} (hf : ∀ x, CoreKept x (f x)) (l : List (BitVec 3)) :
    DpKept d (l.foldl (fun (d : Dp) c => d.modCore c f) e) := by
  induction l generalizing e with
  | nil => exact h
  | cons c l ih => exact ih (dpKept_modCore h hf)

theorem queuesKept_callRestart (s : State) (n : Nat) (q : W64) (b : Bool) : QueuesKept s (callRestart s n q b) := by
  unfold callRestart
  refine QueuesKept.trans ⟨?_, ?_⟩ (queuesKept_dropEarly _ _ _)
  case refine_2 => exact fun h => h
  exact dpKept_foldl_modCore (.refl _) (fun _ => by exact coreKept_beside rfl rfl rfl) _

theorem queuesKept_takeReport (s : State) (r : Report) : QueuesKept s (takeReport s r) := by
  have hr := queuesKept_recordReport s r
  rcases takeReport_cases s r with ⟨q, l, h⟩ | ⟨n, h⟩ | h | ⟨c, h⟩ | ⟨v, c, q, b, hv, h⟩ <;> rw [h]
  · exact hr.trans (queuesKept_foldl_loseStream _ _ _)
  · exact hr.trans (queuesKept_loseJournal _ _)
  · exact hr
  · exact hr.trans (queuesKept_rollChain _ _ _)
  · have hv' : QueuesKept s v := by
      rcases hv with rfl | rfl
      · exact hr
      · exact hr.trans (queuesKept_rollChain _ _ _)
    exact hv'.trans (queuesKept_callRestart _ _ _ _)

theorem queuesKept_takeReports (s : State) (l : List Report) : QueuesKept s (takeReports s l) := by
  induction l generalizing s with
  | nil => exact queuesKept_of_eq rfl rfl
  | cons r l ih => exact (queuesKept_takeReport s r).trans (ih _)

theorem queuesKept_bpMatch (s : State) (l : List (BitVec 3)) (b : Bool) : QueuesKept s (bpMatch s l b) := queuesKept_of_eq (by simp) (by simp)

theorem queuesKept_lateWrites (s : State) (c : BitVec 3) (q : W64) (l : List Nat) : QueuesKept s (lateWrites s c q l) := by
  unfold lateWrites
  split
  · exact queuesKept_of_eq rfl rfl
  · refine ⟨.refl _, noEarlyWork_map (hp := rfl) fun r => ?_⟩
    rw [noteCore_computing]
    split <;> rfl

/-! ### The units beside the datapath -/

/-- Beside datapath, tick control, host interface, FWR, errors, debug port and stream tables, t is s. -/
structure UnitsKept (s t : State) : Prop where
  cus : t.cus = s.cus
  dus : t.dus = s.dus
  pwr : t.pwr = s.pwr
  sec : t.sec = s.sec
  twn : t.twn = s.twn
  xp : t.xp = s.xp
  pp : t.pp = s.pp
  spp : t.spp = s.spp
  cps : t.cps = s.cps
  pending : t.pending = s.pending

theorem UnitsKept.trans (h : UnitsKept s t) (g : UnitsKept t u) : UnitsKept s u :=
  ⟨g.cus.trans h.cus, g.dus.trans h.dus, g.pwr.trans h.pwr, g.sec.trans h.sec, g.twn.trans h.twn, g.xp.trans h.xp, g.pp.trans h.pp,
    g.spp.trans h.spp, g.cps.trans h.cps, g.pending.trans h.pending⟩

theorem unitsKept_takeReports (s : State) (l : List Report) : UnitsKept s (takeReports s l) :=
  ⟨by simp, by simp, by simp, by simp, by simp, by simp, by simp, by simp, by simp, by simp⟩

theorem unitsKept_bpMatch (s : State) (l : List (BitVec 3)) (b : Bool) : UnitsKept s (bpMatch s l b) :=
  ⟨by simp, by simp, by simp, by simp, by simp, by simp, by simp, by simp, by simp, by simp⟩

theorem unitsKept_lateWrites (s : State) (c : BitVec 3) (q : W64) (l : List Nat) : UnitsKept s (lateWrites s c q l) := by
  unfold lateWrites
  split <;> exact ⟨rfl, rfl, rfl, rfl, rfl, rfl, rfl, rfl, rfl, rfl⟩

/-! ### The issue -/

theorem dpKept_packetEnds {d e : Dp} (h : DpKept d e) (c : BitVec 3) (q : W64) (n k : Nat) : DpKept d (e.modCore c (fun x => x.packetEnds q n k)) :=
  dpKept_modCore h fun x => by unfold Core.packetEnds; split <;> exact coreKept_beside rfl rfl rfl

/-- An issue without an early tick at work and without a control processor that waits: its command's work on the datapath with the head of
the queue taken, then nothing that touches a queue or another unit. -/
theorem issueNow_kept {i : Iss} {q : Queue} {eff : Bool → Work → Work} (hearly : noEarlyWork s = true) (hcp : (coreOf s i.core).cpWait = [])
    (heff : WorkKept (popped s i.core q) (eff (runs s i) (workOf s i.core q false))) :
    DpKept (popped s i.core q) (issueNow s i q false eff).dp ∧ UnitsKept s (issueNow s i q false eff) := by
  unfold issueNow
  dsimp only
  have hw := workKept_dropLate heff s.dp.landings.length
  generalize Work.dropLate _ _ = w at hw ⊢
  have hd : DpKept (popped s i.core q) (if w.endsIn s.dp.landings.length = 0 then w.d else
      w.d.modCore i.core (fun x => x.packetEnds w.tick i.pkt (s.dp.cycle + w.endsIn s.dp.landings.length))) := by
    split
    · exact hw
    · exact dpKept_packetEnds hw _ _ _ _
  generalize (if w.endsIn s.dp.landings.length = 0 then w.d else _) = e at hd ⊢
  generalize hu : lateWrites { s with dp := e } i.core w.tick w.lateRows = u
  have hlate := queuesKept_lateWrites { s with dp := e } i.core w.tick w.lateRows
  have hul := unitsKept_lateWrites { s with dp := e } i.core w.tick w.lateRows
  rw [hu] at hlate hul
  have hq := (hlate.trans (queuesKept_takeReports u w.reps)).trans
    (queuesKept_bpMatch _ (bpsWhere (takeReports u w.reps) (bpIssue (takeReports u w.reps) i.core q w.idx)) (isSpec s i.core))
  have hk := (hul.trans (unitsKept_takeReports u w.reps)).trans
    (unitsKept_bpMatch _ (bpsWhere (takeReports u w.reps) (bpIssue (takeReports u w.reps) i.core q w.idx)) (isSpec s i.core))
  generalize bpMatch _ _ _ = v at hq hk ⊢
  have hwait : (coreOf v i.core).cpWait = [] := by
    rw [(hq.dp.cores i.core).cpWait, (hd.cores i.core).cpWait, popped_core]
    exact hcp
  rw [drainCp_nil v i.core hwait, startEarly_of_noEarlyWork v i.core (hq.early hearly)]
  exact ⟨hd.trans hq.dp, ⟨hk.cus, hk.dus, hk.pwr, hk.sec, hk.twn, hk.xp, hk.pp, hk.spp, hk.cps, hk.pending⟩⟩

theorem vget_popped (c k : BitVec 3) (q : Queue) :
    vget (popped s c q).cores k = if k = c then (coreOf s c).pop q else coreOf s k := by
  simp only [popped, Dp.modCore, Dp.setCore_cores, vget_vset]

theorem pop_queue (x : Core) (q : Queue) (p : BitVec 2) :
    vget (x.pop q).queues p = if p = queueIndex q then (vget x.queues (queueIndex q)).pop x.time else vget x.queues p := by
  simp only [Core.pop, vget_vset]

/-- The codes of a command that is due. -/
theorem dueNow_codes {c : Instr} {i : Iss} {q : Queue} (h : dueNow s c i q = true) : issOf c = some i ∧ queueOf c = some q := by
  simp only [dueNow, Bool.and_eq_true, decide_eq_true_eq] at h
  obtain ⟨⟨⟨⟨⟨⟨⟨hi, hq⟩, -⟩, -⟩, -⟩, -⟩, -⟩, -⟩ := h
  exact ⟨hi, hq⟩

/-- The effect of an engine command on its work: it keeps queues and memories. -/
def EffKept (eff : Bool → Work → Work) : Prop := ∀ (d : Dp) (w : Work) (run : Bool), WorkKept d w → WorkKept d (eff run w)

theorem effKept_effectOf {c : Instr} {i : Iss} {eff : Bool → Work → Work} (he : effectOf c = some (i, eff)) : EffKept eff :=
  fun _ _ run h => workKept_effectOf h he run

theorem effectOf_isSome {c : Instr} {i : Iss} (hi : issOf c = some i) : ∃ eff, effectOf c = some (i, eff) := by
  cases c <;> simp only [issOf, Option.some.injEq, reduceCtorEq] at hi <;> subst hi <;> exact ⟨_, rfl⟩

/-- An engine command runs as an issue with an effect that keeps queues and memories. VMAC stands apart: its effect takes five cycles where
a stepped one takes four. -/
theorem exec_engine {c : Instr} {i : Iss} {q : Queue} (hi : issOf c = some i) (hq : queueOf c = some q) (s : State) :
    ∃ eff, EffKept eff ∧ exec c s = issueEngine c i q eff s := by
  obtain ⟨eff, heff⟩ := effectOf_isSome hi
  have hkept := effKept_effectOf heff
  cases c <;> simp only [effectOf, Option.some.injEq, Prod.mk.injEq, reduceCtorEq] at heff <;> obtain ⟨rfl, rfl⟩ := heff <;>
    simp only [queueOf, Option.some.injEq] at hq <;> subst hq
  case vmac => exact ⟨_, fun _ _ _ h => workKept_effLanes h _ _ _ _ _, rfl⟩
  all_goals exact ⟨_, hkept, rfl⟩

/-- Settles O17: the work of every engine command, and all that an issue does beside it, keep the queues and the other units. -/
theorem issueTakesQueueHead : Obligations.IssueTakesQueueHead := by
  unfold Obligations.IssueTakesQueueHead
  intro s c i q h
  obtain ⟨hi, hq⟩ := dueNow_codes h
  obtain ⟨eff, heff, hexec⟩ := exec_engine hi hq s
  obtain ⟨hissue, hearly, hcp⟩ := issueEngine_of_dueNow h eff
  obtain ⟨hd, hu⟩ := issueNow_kept hearly hcp (heff _ (workOf s i.core q false) (runs s i) (DpKept.refl _))
  refine ⟨_, hexec.trans hissue, fun k p => ?_, ?_, hu.cus, hu.dus, hu.pwr, hu.sec, hu.twn, hu.xp, hu.pp, hu.spp, hu.cps, hu.pending⟩
  · rw [(hd.cores k).queues, vget_popped]
    by_cases hk : k = i.core
    · subst hk
      simp only [if_true, pop_queue, true_and]
      split
      · next hp => rw [hp]; rfl
      · rfl
    · simp only [hk, if_false, false_and]
  · rw [(hd.cores i.core).queues, vget_popped, if_pos rfl, pop_queue, if_pos rfl]
    rfl

end Sys2Proof.Machine
end

section
/-!
MEMORIES. Every operation on the datapath leaves canonical memories canonical.
-/
namespace Sys2Proof.Machine
-- one proof after the other: the check compiles one text, and its memory holds few threads
set_option Elab.async false
open Sys2Proof.Safety

/-! ### Cores -/

/-- Every memory of a core is canonical. -/
def CoreOk (x : Core) : Prop := ∀ m ∈ coreMems x, MemOk m

theorem CoreMems.ok {x y : Core} (h : CoreMems x y) (hx : CoreOk x) : CoreOk y := by
  intro m hm
  simp only [CoreOk, coreMems, List.forall_mem_cons, List.not_mem_nil, false_imp_iff, implies_true, and_true] at hx
  obtain ⟨h1, h2, h3, h4, h5, h6, h7, h8, h9⟩ := hx
  simp only [coreMems, List.mem_cons, List.not_mem_nil, or_false] at hm
  rcases hm with rfl | rfl | rfl | rfl | rfl | rfl | rfl | rfl | rfl
  · exact h.ib h1
  · exact h.ibScale h2
  · exact h.wh h3
  · exact h.whScale h4
  · exact h.tb h5
  · exact h.buf h6
  · exact h.regs h7
  · exact h.ctActive h8
  · exact h.ctPending h9

theorem coreOk_reset : CoreOk coreReset := coreMems_coreReset_wf

theorem coreOk_packetEnds {x : Core} (h : CoreOk x) (t : W64) (pkt e : Nat) : CoreOk (x.packetEnds t pkt e) := by
  unfold Core.packetEnds; split <;> exact h

theorem coreOk_pass {x : Core} (h : CoreOk x) (n : Nat) : CoreOk (x.pass n) := by
  unfold Core.pass
  split
  · intro m hm
    refine h m ?_
    simp only [coreMems] at hm ⊢
    split at hm <;> exact hm
  · split <;> exact h

theorem coreOk_setLane {x : Core} (h : CoreOk x) (n j c : Nat) : CoreOk (setLane x n j c) :=
  CoreMems.ok { CoreMems.refl x with regs := fun hm => memOk_memWrite hm _ _ } h

theorem coreOk_setLanes {x : Core} (h : CoreOk x) (l : List (Nat × Nat × Nat)) : CoreOk (setLanes x l) := by
  induction l generalizing x with
  | nil => exact h
  | cons y l ih => exact ih (coreOk_setLane h _ _ _)

theorem memOk_pushTile (m : Me) (t : Tile) : (pushTile m t).ib = m.ib ∧ (pushTile m t).ibScale = m.ibScale ∧ (pushTile m t).wh = m.wh ∧
    (pushTile m t).whScale = m.whScale ∧ (pushTile m t).tb = m.tb := by
  unfold pushTile; split <;> exact ⟨rfl, rfl, rfl, rfl, rfl⟩

theorem coreOk_pushTile {x : Core} (h : CoreOk x) (t : Tile) : CoreOk { x with me := pushTile x.me t } := by
  obtain ⟨h1, h2, h3, h4, h5⟩ := memOk_pushTile x.me t
  intro m hm
  refine h m ?_
  simpa only [coreMems, h1, h2, h3, h4, h5] using hm

theorem memOk_fillCurves {v : Ve} (hr : MemOk v.regs) (ha : MemOk v.ctActive) (hp : MemOk v.ctPending) (l : List (BitVec 3 × CurveSrc)) :
    MemOk (l.foldl Ve.fillCurve v).regs ∧ MemOk (l.foldl Ve.fillCurve v).ctActive ∧ MemOk (l.foldl Ve.fillCurve v).ctPending := by
  induction l generalizing v with
  | nil => exact ⟨hr, ha, hp⟩
  | cons x l ih => exact ih hr (memOk_memWrite ha _ _) hp

theorem coreOk_ungate (x : Core) : CoreOk x.ungate := by
  have h := coreOk_reset
  exact h

theorem coreOk_fill (c : Core) (x : CorePlan) : CoreOk (c.fill x) := by
  obtain ⟨h1, h2, h3⟩ := memOk_fillCurves (v := c.ungate.ve) memOk_nil memOk_nil memOk_nil x.curves
  exact CoreMems.ok (x := c.ungate) { CoreMems.refl c.ungate with regs := fun _ => h1, ctActive := fun _ => h2, ctPending := fun _ => h3 }
    (coreOk_ungate c)

theorem coreOk_endTick {x : Core} (h : CoreOk x) (t : W64) : CoreOk (x.endTick t) := by
  unfold Core.endTick
  dsimp only
  split
  · split <;> exact h
  · split <;> exact h

theorem coreOk_writeBuffer {x : Core} (h : CoreOk x) (kind gran : Nat) (v : BitVec 128) : CoreOk (writeBuffer x kind gran v) := by
  unfold writeBuffer
  dsimp only
  split
  · split
    · exact CoreMems.ok { CoreMems.refl x with ib := fun hm => memOk_memWrite hm _ _ } h
    · exact CoreMems.ok { CoreMems.refl x with ibScale := fun hm => memOk_memWrite hm _ _ } h
  · split
    · exact CoreMems.ok { CoreMems.refl x with wh := fun hm => memOk_memWrite hm _ _ } h
    · exact CoreMems.ok { CoreMems.refl x with whScale := fun hm => memOk_memWrite hm _ _ } h
  · exact h
  · exact CoreMems.ok { CoreMems.refl x with buf := fun hm => memOk_memWrite hm _ _ } h
  · exact CoreMems.ok { CoreMems.refl x with regs := fun hm => memOk_memWrite hm _ _ } h
  · exact CoreMems.ok { CoreMems.refl x with ctActive := fun hm => memOk_memWrite hm _ _ } h

/-! ### The datapath -/

/-- Every memory of a datapath is canonical. -/
structure DpOk (d : Dp) : Prop where
  cores : ∀ k, CoreOk (vget d.cores k)
  dev : MemOk d.dev
  ext : MemOk d.ext

theorem dpOk_iff (d : Dp) : DpOk d ↔ ∀ m ∈ dpMems d, memWf m := by
  rw [dpMems_wf_iff]
  constructor
  · rintro ⟨hc, hd, hx⟩
    refine ⟨hd, hx, fun c hm => ?_⟩
    obtain ⟨i, hi, rfl⟩ := Vector.mem_iff_getElem.mp (by simpa using hm : c ∈ d.cores)
    have h := hc (BitVec.ofNat 3 i)
    have hn : (BitVec.ofNat 3 i).toNat = i := Nat.mod_eq_of_lt hi
    simp only [vget, hn] at h
    exact h
  · rintro ⟨hd, hx, hc⟩
    exact ⟨fun k => hc _ (by simp [vget]), hd, hx⟩

theorem DpKept.ok {d e : Dp} (h : DpKept d e) (hd : DpOk d) : DpOk e := ⟨fun k => (h.cores k).mems.ok (hd.cores k), h.dev hd.dev, h.ext hd.ext⟩

section
variable {d : Dp}

/-- A datapath whose cores, device and host memory are those of a canonical one. -/
theorem dpOk_beside {e : Dp} (h : DpOk d) (hc : e.cores = d.cores) (hd : e.dev = d.dev) (hx : e.ext = d.ext) : DpOk e :=
  ⟨hc ▸ h.cores, hd ▸ h.dev, hx ▸ h.ext⟩

theorem dpOk_setCore (h : DpOk d) (c : BitVec 3) {x : Core} (hx : CoreOk x) : DpOk (d.setCore c x) :=
  ⟨fun k => by rw [Dp.setCore_cores, vget_vset]; split; exacts [hx, h.cores k], h.dev, h.ext⟩

theorem dpOk_modCore (h : DpOk d) (c : BitVec 3) {f : Core → Core} (hf : ∀ x, CoreOk x → CoreOk (f x)) : DpOk (d.modCore c f) :=
  dpOk_setCore h c (hf _ (h.cores c))

theorem dpOk_mapCores (h : DpOk d) {f : Core → Core} (hf : ∀ x, CoreOk x → CoreOk (f x)) : DpOk { d with cores := d.cores.map f } :=
  ⟨fun k => by rw [show vget (d.cores.map f) k = f (vget d.cores k) by simp [vget]]; exact hf _ (h.cores k), h.dev, h.ext⟩

theorem dpOk_ite {p : Prop} [Decidable p] {e : Dp} (hd : DpOk d) (he : DpOk e) : DpOk (if p then d else e) := by split <;> assumption

theorem dpOk_foldl {α : Type} {f : Dp → α → Dp} (h : DpOk d) (hf : ∀ d x, DpOk d → DpOk (f d x)) (l : List α) : DpOk (l.foldl f d) := by
  induction l generalizing d with
  | nil => exact h
  | cons x l ih => exact ih (hf d x h)

theorem dpOk_foldl_fst {α β : Type} {a : Dp × β} {f : Dp × β → α → Dp × β} (h : DpOk a.1) (hf : ∀ a x, DpOk a.1 → DpOk (f a x).1) (l : List α) :
    DpOk (l.foldl f a).1 := by
  induction l generalizing a with
  | nil => exact h
  | cons x l ih => exact ih (hf a x h)

theorem dpOk_landIn (h : DpOk d) (n : Nat) (l : Landing) : DpOk (d.landIn n l) := dpOk_beside h rfl rfl rfl
theorem dpOk_rowLands (h : DpOk d) (c : BitVec 3) (r : Nat) (l : List Byte) (n : Nat) : DpOk (d.rowLands c r l n) := dpOk_beside h rfl rfl rfl
theorem dpOk_markRead (h : DpOk d) (r : Nat) : DpOk (markRead d r) := dpOk_beside h rfl rfl rfl
theorem dpOk_rewrite (h : DpOk d) (r n : Nat) {m : Mem} (hm : MemOk m) : DpOk (d.rewrite r n m) := ⟨h.cores, hm, h.ext⟩
theorem dpOk_writeRow (h : DpOk d) (r : Nat) (l : List Byte) : DpOk (writeRow d r l) := dpOk_rewrite h _ _ (memOk_memWrite h.dev _ _)
theorem dpOk_scrubSpan (h : DpOk d) (x : Nat × Nat) : DpOk (scrubSpan d x) := dpOk_rewrite h _ _ (memOk_memZero h.dev _ _)
theorem dpOk_countEcc (h : DpOk d) (m : EccMark) : DpOk (countEcc d m) := (dpKept_countEcc (.refl d) m).ok h
theorem dpOk_setFlg (h : DpOk d) (c : BitVec 3) (f : BitVec 6) (v : Bool) : DpOk (d.setFlg c f v) := dpOk_modCore h c fun _ hx => by exact hx
theorem dpOk_cflg (h : DpOk d) (c : BitVec 3) (f : BitVec 7) : DpOk (d.cflg c f) := dpOk_ite (dpOk_setFlg h _ _ _) h
theorem dpOk_setReady (h : DpOk d) (c : BitVec 3) (b : BitVec 6) (v : Bool) : DpOk (d.setReady c b v) := dpOk_modCore h c fun _ hx => by exact hx
theorem dpOk_modMeter (h : DpOk d) (i : BitVec 4) (f : Meter → Meter) : DpOk (d.modMeter i f) := dpOk_beside h rfl rfl rfl

theorem dpOk_meterOffer (h : DpOk d) (i : BitVec 4) (n : Nat) (e : Bool) : DpOk (meterOffer d i n e).2 := (dpKept_meterOffer (.refl d) i n e).ok h

theorem dpOk_meterTry (h : DpOk d) (i : BitVec 4) (n : Nat) (e : Bool) : DpOk (meterTry d i n e).2 := by
  unfold meterTry
  dsimp only
  split
  · exact h
  · split <;> exact dpOk_beside h rfl rfl rfl

theorem dpOk_meterAsk (h : DpOk d) (i : BitVec 4) (n : Nat) (t : Option Nat) : DpOk (meterAsk d i n t).2.2 := by
  unfold meterAsk
  split
  · split <;> exact h
  · exact dpOk_meterOffer h _ _ _

theorem dpOk_meterDrop (h : DpOk d) (i : BitVec 4) (t : Option Nat) : DpOk (meterDrop d i t) := by
  unfold meterDrop
  split
  · exact dpOk_beside h rfl rfl rfl
  · exact h

theorem dpOk_meterBlock (h : DpOk d) (i : BitVec 4) (n : Nat) (e : Bool) : DpOk (meterBlock d i n e).2 := by
  have hm := dpOk_meterTry h i n e
  have hd : DpOk { d with meters := vset d.meters i { vget d.meters i with deferred := true } } := dpOk_beside h rfl rfl rfl
  unfold meterBlock
  by_cases hf : (d.metering && decide ((vget d.meters i).lim.toNat < (if e then (vget d.meters i).early else (vget d.meters i).count) + n)) = true
  · rw [if_pos hf]; exact hd
  · rw [if_neg hf]; exact hm

theorem dpOk_offerChunk (h : DpOk d) (p : Package) (l : List (BitVec 3)) (e : Bool) : DpOk (offerChunk d p l e).2 := by
  unfold offerChunk
  dsimp only
  split
  · exact h
  · split
    · exact dpOk_foldl h (fun _ _ hd => dpOk_modMeter hd _ _) _
    · exact dpOk_foldl h (fun _ _ hd => dpOk_ite hd (dpOk_modMeter hd _ _)) _

theorem dpOk_fillCore (h : DpOk d) (s : State) (p : Package) (c : BitVec 3) : DpOk (fillCore s p d c) := by
  unfold fillCore
  split
  · exact dpOk_modCore h c fun x _ => coreOk_fill x _
  · exact dpOk_ite (dpOk_modCore h c fun _ hx => by exact hx) h

theorem dpOk_lockCore (h : DpOk d) (p : Package) (c : BitVec 3) : DpOk (lockCore p d c) :=
  dpOk_ite h (dpOk_modCore h c fun _ hx => by exact hx)

/-! ### What lands -/

theorem dpOk_landClaim (h : DpOk d) (c : BitVec 3) (q : Queue) (i : BitVec 4) (n : Nat) (k : BitVec 3) (cmp : BitVec 2) (cen : Bool) :
    DpOk (landClaim d c q i n k cmp cen) :=
  dpOk_landIn (dpOk_ite (by exact dpOk_beside h rfl rfl rfl) h) _ _

theorem dpOk_landCurve (h : DpOk d) (c t : BitVec 3) (l : List Byte) : DpOk (landCurve d c t l) :=
  dpOk_modCore h c fun x hx => by exact CoreMems.ok { CoreMems.refl x with ctActive := fun hm => memOk_memWrite hm _ _ } hx

theorem dpOk_landRow (h : DpOk d) (k : BitVec 3) (r : InRow) : DpOk (landRow d k r).1 := by
  unfold landRow
  split
  · exact h
  · split
    · exact dpOk_writeRow h _ _
    · exact h

theorem dpOk_landInbound (h : DpOk d) (k : BitVec 3) : DpOk (landInbound d k).1 := by
  unfold landInbound
  split
  · exact h
  · dsimp only
    split
    · exact dpOk_landIn (dpOk_landRow (dpOk_modCore h k fun _ hx => by exact hx) k _) _ _
    · exact dpOk_landRow (dpOk_modCore h k fun _ hx => by exact hx) k _

theorem dpOk_landCredit (h : DpOk d) (p c : BitVec 3) (n : Nat) (k : BitVec 3) : DpOk (landCredit d p c n k).1 := by
  unfold landCredit
  dsimp only
  exact dpOk_modCore h p fun _ hx => by exact hx

theorem dpOk_land (h : DpOk d) (l : Landing) : DpOk (land d l).1 := by
  cases l <;> dsimp only [land]
  case flag => exact dpOk_setFlg h _ _ _
  case deDone => exact dpOk_cflg h _ _
  case kset | kadd | cmp | claimResult | inRow | narrow => exact dpOk_modCore h _ fun _ hx => by exact hx
  case ready => exact dpOk_setReady h _ _ _
  case dflag | wrst => exact dpOk_beside h rfl rfl rfl
  case claimUnit => exact dpOk_landClaim h _ _ _ _ _ _ _
  case creditReturn => exact dpOk_landCredit h _ _ _ _
  case curve => exact dpOk_landCurve h _ _ _
  case row => exact dpOk_writeRow h _ _
  case tables => exact dpOk_modCore h _ fun x hx => by exact CoreMems.ok { CoreMems.refl x with tb := fun hm => memOk_memWrite hm _ _ } hx
  case regs => exact dpOk_modCore h _ fun _ hx => coreOk_setLanes hx _
  case sbuf => exact dpOk_modCore h _ fun x hx => by exact CoreMems.ok { CoreMems.refl x with buf := fun hm => memOk_setCells hm _ } hx
  case tile => exact dpOk_modCore h _ fun _ hx => coreOk_pushTile hx _

theorem dpOk_passLandings (h : DpOk d) (n : Nat) : DpOk (d.passLandings n).1 := by
  unfold Dp.passLandings
  refine dpOk_foldl_fst (dpOk_beside h rfl rfl rfl) (fun a x ha => ?_) _
  split
  · next c q i m k cmp cen _ =>
    have hy := dpOk_landClaim (dpOk_beside (e := { a.1 with landings := [] }) ha rfl rfl rfl) c q i m k cmp cen
    dsimp only
    split
    · exact dpOk_beside hy rfl rfl rfl
    · exact dpOk_beside hy rfl rfl rfl
    · exact dpOk_beside (dpOk_foldl (dpOk_beside (e := { landClaim { a.1 with landings := [] } c q i m k cmp cen with landings := [] })
        hy rfl rfl rfl) (fun _ _ hd => dpOk_land hd _) _) rfl rfl rfl
  · exact dpOk_land ha _

theorem dpOk_pass (h : DpOk d) (n : Nat) (frozen : Bool) : DpOk (d.pass n frozen).1 := by
  have hl := dpOk_passLandings h n
  unfold Dp.pass
  dsimp only
  split
  · exact dpOk_beside hl rfl rfl rfl
  · exact dpOk_beside (dpOk_mapCores hl fun _ hx => coreOk_pass hx n) rfl rfl rfl

/-! ### Fills and plans -/

theorem dpOk_reset : DpOk dpReset := (dpOk_iff _).mpr dpMems_dpReset_wf

theorem dpOk_spWrites (h : DpOk d) (l : List (Nat × List Byte)) : DpOk (spWrites d l).1 := by
  unfold spWrites
  dsimp only
  generalize hr : List.foldl _ _ l = r
  have hok : DpOk r.1 := by
    rw [← hr]
    refine dpOk_foldl_fst (dpOk_mapCores h fun _ hx => by exact hx) (fun a x ha => ?_) _
    split
    · exact dpOk_writeRow ha _ _
    · exact dpOk_landRow ha _ _
  exact ⟨fun k m hm => hok.cores k m (by simpa [vget, coreMems] using hm), hok.dev, hok.ext⟩

theorem dpOk_fillDp {s : State} (h : DpOk s.dp) (p : Package) : DpOk (fillDp s p).1 := by
  have hplain : DpOk { s.dp with org := regionTable 32 p.orRegions, dflg := p.dflgInit, dflgInit := p.dflgInit } := dpOk_beside h rfl rfl rfl
  unfold fillDp
  generalize ({ s.dp with org := regionTable 32 p.orRegions, dflg := p.dflgInit, dflgInit := p.dflgInit } : Dp) = d at hplain ⊢
  have hfill : DpOk (allCores.foldl (fillCore s p) d) := dpOk_foldl hplain (fun _ _ hd => dpOk_fillCore hd s p _) _
  have hwrite := dpOk_spWrites hfill (fillRows p)
  dsimp only
  generalize spWrites _ _ = r at hwrite ⊢
  exact dpOk_foldl hwrite (fun _ _ hd => dpOk_lockCore hd p _) _

end

end Sys2Proof.Machine
end

section
/-!
KEEPING. What no command but OTP_PROG changes: the queue of waiting commands, the fuses, and the canonical form of every memory; the rules
by which a function of the state keeps them.
-/
namespace Sys2Proof.Machine
-- one proof after the other: the check compiles one text, and its memory holds few threads
set_option Elab.async false
open Sys2Proof.Safety

/-- The memories of the firmware processors are canonical. -/
def ProcsOk (x p s : ProcRec) (c : Vector ProcRec (2 ^ 3)) : Prop :=
  MemOk x.mem ∧ MemOk p.mem ∧ MemOk s.mem ∧ ∀ k, MemOk (vget c k).mem

/-- t keeps the waiting commands, the fuses and the canonical memories of s. -/
structure Keeps (s t : State) : Prop where
  pending : t.pending = s.pending
  otp : t.sec.otp = s.sec.otp
  dp : DpOk s.dp → DpOk t.dp
  procs : ProcsOk s.xp s.pp s.spp s.cps → ProcsOk t.xp t.pp t.spp t.cps

theorem Keeps.refl (s : State) : Keeps s s := ⟨rfl, rfl, id, id⟩

theorem Keeps.trans {s t u : State} (h : Keeps s t) (g : Keeps t u) : Keeps s u :=
  ⟨g.pending.trans h.pending, g.otp.trans h.otp, g.dp ∘ h.dp, g.procs ∘ h.procs⟩

section
variable {s t u : State}

/-- A state written from t. -/
theorem keeps_mk {d : Dp} {tkc : Tkc} {hif : Hif} {fwr : Fwr} {err : Err} {cus : Vector Cu (2 ^ 4)} {dus : Vector Cu (2 ^ 2)}
    {pwr : Pwr} {sec : Sec} {dbg : Dbg} {twn : Twn} {sp : Sp} {x p r : ProcRec} {c : Vector ProcRec (2 ^ 3)} (h : Keeps s t)
    (hd : DpOk t.dp → DpOk d := by exact fun hx => hx) (ho : sec.otp = t.sec.otp := by rfl)
    (hp : ProcsOk t.xp t.pp t.spp t.cps → ProcsOk x p r c := by exact fun hx => hx) :
    Keeps s ⟨t.pending, d, tkc, hif, fwr, err, cus, dus, pwr, sec, dbg, twn, sp, x, p, r, c⟩ :=
  ⟨h.pending, ho.trans h.otp, hd ∘ h.dp, hp ∘ h.procs⟩

/-- A state written from t with a datapath of its own. -/
theorem keeps_withDp {d : Dp} (h : Keeps s t) (hd : DpOk s.dp → DpOk d) : Keeps s { t with dp := d } := ⟨h.pending, h.otp, hd, h.procs⟩

theorem keeps_ite {p : Prop} [Decidable p] (ht : Keeps s t) (hu : Keeps s u) : Keeps s (if p then t else u) := by split <;> assumption

theorem keeps_ite_fst {α : Type} {p : Prop} [Decidable p] {a b : State × α} (ha : Keeps s a.1) (hb : Keeps s b.1) :
    Keeps s (if p then a else b).1 := by split <;> assumption

theorem keeps_ite_snd {α : Type} {p : Prop} [Decidable p] {a b : α × State} (ha : Keeps s a.2) (hb : Keeps s b.2) :
    Keeps s (if p then a else b).2 := by split <;> assumption

theorem keeps_foldl {α : Type} {f : State → α → State} (h : Keeps s t) (hf : ∀ u x, Keeps s u → Keeps s (f u x)) (l : List α) :
    Keeps s (l.foldl f t) := by
  induction l generalizing t with
  | nil => exact h
  | cons x l ih => exact ih (hf t x h)

theorem keeps_foldl_fst {α β : Type} {f : State × β → α → State × β} {a : State × β} (h : Keeps s a.1)
    (hf : ∀ a x, Keeps s a.1 → Keeps s (f a x).1) (l : List α) : Keeps s (l.foldl f a).1 := by
  induction l generalizing a with
  | nil => exact h
  | cons x l ih => exact ih (hf a x h)

theorem keeps_foldl_snd {α β : Type} {f : β × State → α → β × State} {a : β × State} (h : Keeps s a.2)
    (hf : ∀ a x, Keeps s a.2 → Keeps s (f a x).2) (l : List α) : Keeps s (l.foldl f a).2 := by
  induction l generalizing a with
  | nil => exact h
  | cons x l ih => exact ih (hf a x h)

theorem dpOk_ite_snd {α : Type} {p : Prop} [Decidable p] {a b : α × Dp} (ha : DpOk a.2) (hb : DpOk b.2) : DpOk (if p then a else b).2 := by
  split <;> assumption

/-- A datapath written from d. -/
theorem dpOk_mk {d : Dp} {dev ext : Mem} {ecc : List EccMark} {wcls : List (Nat × Nat)} {org : List Region}
    {oc : W32} {ou : W16} {ol : BitVec 23} {ow : Bool} {dflg di : W64} {wct : Vector Wct (2 ^ 4)} {l : List (Nat × Landing)}
    {ms : Vector Meter (2 ^ 4)} {mt : Bool} {tk cy fr : Nat} (h : DpOk d)
    (hd : MemOk d.dev → MemOk dev := by exact fun hm => hm) (hx : MemOk d.ext → MemOk ext := by exact fun hm => hm) :
    DpOk ⟨d.cores, dev, ecc, wcls, org, oc, ou, ol, ow, dflg, di, wct, l, ms, mt, tk, cy, fr, ext⟩ :=
  ⟨h.cores, hd h.dev, hx h.ext⟩

/-- A datapath written from d with every core changed. -/
theorem dpOk_mk_map {d : Dp} {dev ext : Mem} {ecc : List EccMark} {wcls : List (Nat × Nat)} {org : List Region}
    {oc : W32} {ou : W16} {ol : BitVec 23} {ow : Bool} {dflg di : W64} {wct : Vector Wct (2 ^ 4)} {l : List (Nat × Landing)}
    {ms : Vector Meter (2 ^ 4)} {mt : Bool} {tk cy fr : Nat} {f : Core → Core}
    (h : DpOk d) (hf : ∀ x, CoreOk x → CoreOk (f x))
    (hd : MemOk d.dev → MemOk dev := by exact fun hm => hm) (hx : MemOk d.ext → MemOk ext := by exact fun hm => hm) :
    DpOk ⟨d.cores.map f, dev, ecc, wcls, org, oc, ou, ol, ow, dflg, di, wct, l, ms, mt, tk, cy, fr, ext⟩ :=
  ⟨fun k => (dpOk_mapCores h hf).cores k, hd h.dev, hx h.ext⟩

end

end Sys2Proof.Machine
end

section
/-!
THE FUNCTIONS OF THE STATE. Each keeps the waiting commands, the fuses and the canonical form of every memory; in the order of the model.
-/
namespace Sys2Proof.Machine
-- one proof after the other: the check compiles one text, and its memory holds few threads
set_option Elab.async false
open Sys2Proof.Safety

variable {s t : State}

/-! ### Reports -/

theorem keeps_modStream (h : Keeps s t) (id : W16) (f : Stream → Stream) : Keeps s (modStream t id f) := keeps_mk h

theorem keeps_recordReport (h : Keeps s t) (r : Report) : Keeps s (recordReport t r) := by
  obtain ⟨e, f, hr⟩ := recordReport_eq t r
  rw [hr]
  exact keeps_mk h

theorem keeps_unrecovered (h : Keeps s t) (status : BitVec 7) (stream : W16) (cause : Nat) : Keeps s (unrecovered t status stream cause) :=
  keeps_recordReport h _

theorem keeps_rerunLost (h : Keeps s t) (w : Option PendWin) : Keeps s (rerunLost t w) := by
  unfold rerunLost
  split
  · exact keeps_ite (keeps_mk h) h
  · exact h

theorem keeps_mapTicks (h : Keeps s t) (f : TickRec → TickRec) : Keeps s (mapTicks t f) := keeps_mk h

theorem keeps_dropEarly (h : Keeps s t) (seq : W64) (chain : Nat) : Keeps s (dropEarly t seq chain) := by
  unfold dropEarly
  split
  · exact keeps_ite (keeps_mk h) h
  · exact h

theorem keeps_callRestart (h : Keeps s t) (chain : Nat) (seq : W64) (restore : Bool) : Keeps s (callRestart t chain seq restore) :=
  keeps_dropEarly (keeps_mk h (hd := fun hd => (dpOk_foldl hd (fun _ _ hd => (dpOk_modCore hd _ fun _ hx => by exact hx)) _))) _ _

theorem keeps_rollChain (h : Keeps s t) (r : Report) (chain : Nat) : Keeps s (rollChain t r chain) := by
  unfold rollChain
  split
  · exact keeps_mapTicks (keeps_mapTicks h _) _
  · exact keeps_mapTicks h _

theorem keeps_loseStream (h : Keeps s t) (seq : W64) (id : W16) : Keeps s (loseStream seq t id) :=
  keeps_unrecovered (keeps_mapTicks (keeps_modStream h _ _) _) _ _ _

theorem keeps_loseJournal (h : Keeps s t) (row : Nat) : Keeps s (loseJournal t row) := keeps_unrecovered (keeps_mk h) _ _ _

theorem keeps_takeReport (h : Keeps s t) (r : Report) : Keeps s (takeReport t r) := by
  unfold takeReport
  refine keeps_ite (keeps_foldl (keeps_recordReport h _) (fun _ _ h => keeps_loseStream h _ _) _) (keeps_ite (keeps_loseJournal
    (keeps_recordReport h _) _) ?_)
  · split
    · exact keeps_recordReport h _
    · exact keeps_ite (keeps_callRestart (keeps_ite (keeps_rollChain (keeps_recordReport h _) _ _) (keeps_recordReport h _)) _ _ _) (keeps_ite
        (keeps_rollChain (keeps_recordReport h _) _ _) (keeps_recordReport h _))

theorem keeps_takeReports (h : Keeps s t) (rs : List Report) : Keeps s (takeReports t rs) :=
  keeps_foldl h (fun _ _ h => keeps_takeReport h _) _

theorem keeps_moveOwn (h : Keeps s t) (r : BitVec 2) (second : Bool) (on : Bool) : Keeps s (moveOwn t r second on) := keeps_mk h

theorem keeps_leaveOwn (h : Keeps s t) (r : BitVec 2) (second : Bool) : Keeps s (leaveOwn t r second) := keeps_ite (keeps_moveOwn h _ _ _) h

theorem keeps_refuseOwn (h : Keeps s t) (r : BitVec 2) (unit : BitVec 4) : Keeps s (refuseOwn t r unit) := keeps_takeReport h _

/-! ### The clock -/

theorem keeps_hitOne (h : Keeps s t) (spec : Bool) (i : BitVec 3) : Keeps s (hitOne spec t i) := keeps_mk h

theorem keeps_bpMatch (h : Keeps s t) (hits : List (BitVec 3)) (spec : Bool) : Keeps s (bpMatch t hits spec) :=
  keeps_ite (keeps_mk (keeps_foldl h (fun _ _ h => keeps_hitOne h _ _) _)) (keeps_ite (keeps_mk (keeps_foldl h (fun _ _ h => keeps_hitOne
    h _ _) _)) (keeps_ite (keeps_mk (keeps_foldl h (fun _ _ h => keeps_hitOne h _ _) _)) (keeps_foldl h (fun _ _ h => keeps_hitOne h _ _) _)))

theorem keeps_freezeNow (h : Keeps s t) : Keeps s (freezeNow t) := keeps_mk h

theorem keeps_refreshHold (h : Keeps s t) (c : BitVec 3) : Keeps s (refreshHold t c) := by
  unfold refreshHold
  dsimp only
  split
  · exact keeps_mk h (hd := fun hd => (dpOk_setCore hd _ (by exact hd.cores _)))
  · exact h

theorem keeps_resumeVft (h : Keeps s t) (c : BitVec 3) : Keeps s (resumeVft t c) :=
  keeps_ite h (keeps_takeReports (keeps_mk h (hd := fun hd => (workKept_ftResume (w := eventWork t c .ve) (DpKept.refl _)).ok hd)) _)

theorem keeps_stopUnreleased (h : Keeps s t) (c : BitVec 3) : Keeps s (stopUnreleased t c) := by
  unfold stopUnreleased
  dsimp only
  refine keeps_ite ?_ h
  · split
    · exact keeps_mapTicks (keeps_mk h (hd := fun hd => (dpOk_modCore hd _ fun _ hx => by exact hx))) _
    · exact keeps_mk h (hd := fun hd => (dpOk_modCore hd _ fun _ hx => by exact hx))

theorem keeps_stopLate (h : Keeps s t) : Keeps s (stopLate t) := keeps_foldl h (fun _ _ h => keeps_stopUnreleased h _) _

theorem memOk_procPass {p : ProcRec} (h : MemOk p.mem) (n : Nat) : MemOk (p.pass n).mem := by unfold ProcRec.pass; split <;> exact h

theorem keeps_passFirmware (h : Keeps s t) (tu : Nat) : Keeps s (passFirmware t tu) :=
  keeps_mk h (hp := fun ⟨hx, hp, hs, hc⟩ => ⟨memOk_procPass hx _, memOk_procPass hp _, memOk_procPass hs _, fun k => by
    rw [show vget (t.cps.map (fun c => c.pass tu)) k = (vget t.cps k).pass tu by simp [vget]]
    exact memOk_procPass (hc k) _⟩)

theorem keeps_passSpan (h : Keeps s t) (n : Nat) : Keeps s (State.passSpan t n) := by
  unfold State.passSpan
  refine keeps_ite h ?_
  have hhold : Keeps s (allCores.foldl refreshHold t) := keeps_foldl h (fun _ _ h => keeps_refreshHold h _) _
  generalize allCores.foldl refreshHold t = u at hhold
  dsimp only
  generalize hv : passFirmware _ _ = v
  have hfw : Keeps s v := by
    rw [← hv]
    refine keeps_passFirmware (keeps_ite ?_ ?_) _
    all_goals exact keeps_mk hhold (hd := fun hd => dpOk_pass hd _ _)
  generalize hw : (if (flagHits u n).isEmpty = true then v else bpMatch v (flagHits u n) false) = w
  have hbp : Keeps s w := hw ▸ keeps_ite hfw (keeps_bpMatch hfw _ _)
  have hend : Keeps s (allCores.foldl resumeVft (stopLate (takeReports w (u.dp.pass n (frozen u)).2))) :=
    keeps_foldl (keeps_stopLate (keeps_takeReports hbp _)) (fun _ _ h => keeps_resumeVft h _) _
  exact keeps_ite (keeps_freezeNow hend) hend

theorem keeps_passSpans (h : Keeps s t) (k n : Nat) : Keeps s (State.passSpans t k n) := by
  induction k generalizing t n with
  | zero => exact keeps_passSpan h n
  | succ k ih =>
    unfold State.passSpans
    split
    · exact ih (keeps_passSpan h _) _
    · exact keeps_passSpan h n

theorem keeps_pass (h : Keeps s t) (n : Nat) : Keeps s (State.pass t n) := keeps_passSpans h 8 n

theorem keeps_reach (h : Keeps s t) (ofs : Nat) : Keeps s (reach t ofs) := keeps_pass h _

/-! ### Control processors -/

theorem keeps_queuePut (h : Keeps s t) {c : BitVec 3} {q : Queue} {word : CmdWord} {u : State} (hu : queuePut t c q word = some u) : Keeps s u := by
  unfold queuePut at hu
  dsimp only at hu
  split at hu
  · obtain rfl := Option.some.inj hu
    exact keeps_mk h (hd := fun hd => dpOk_setCore hd _ (by exact hd.cores c))
  · cases hu

theorem keeps_releaseBlock (h : Keeps s t) (c : BitVec 3) (q : Queue) (endIdx : BitVec 9) : Keeps s (releaseBlock t c q endIdx) := by
  unfold releaseBlock
  dsimp only
  split
  · exact h
  · exact keeps_ite h (keeps_mk h (hd := fun hd => (dpOk_setCore (dpOk_meterBlock hd _ _ _) _ (by exact hd.cores _))))

theorem keeps_setWindow (h : Keeps s t) (c : BitVec 3) (w : BitVec 2) (x : Window) : Keeps s (setWindow t c w x) :=
  keeps_mk h (hd := fun hd => (dpOk_modCore hd _ fun _ hx => by exact hx))

theorem keeps_cpDoes (h : Keeps s t) {i : Instr} {u : State} (hu : cpDoes t i = some u) : Keeps s u := by
  unfold cpDoes at hu
  split at hu
  · exact keeps_queuePut h hu
  · exact Option.some.inj hu ▸ keeps_releaseBlock h _ _ _
  · exact Option.some.inj hu ▸ keeps_setWindow h _ _ _
  · exact Option.some.inj hu ▸ h

theorem keeps_cpGoesOn (h : Keeps s t) (c : BitVec 3) (l : List Instr) : Keeps s (cpGoesOn c l t) := by
  induction l generalizing t with
  | nil => exact keeps_mk h (hd := fun hd => dpOk_modCore hd _ fun _ hx => by exact hx)
  | cons i l ih =>
    unfold cpGoesOn
    split
    · next u hu => exact ih (keeps_cpDoes h hu)
    · exact keeps_mk h (hd := fun hd => dpOk_modCore hd _ fun _ hx => by exact hx)

theorem keeps_drainCp (h : Keeps s t) (c : BitVec 3) : Keeps s (drainCp t c) := keeps_ite h (keeps_cpGoesOn h _ _)

theorem keeps_cpOperation (h : Keeps s t) (c : BitVec 3) (i : Instr) : Keeps s (cpOperation t c i) := by
  have hwait : Keeps s { t with dp := t.dp.modCore c (fun x => { x with cpWait := x.cpWait ++ [i] }) } :=
    keeps_mk h (hd := fun hd => dpOk_modCore hd _ fun _ hx => by exact hx)
  unfold cpOperation
  refine keeps_ite h (keeps_ite ?_ hwait)
  split
  · next u hu => exact keeps_cpDoes h hu
  · exact hwait

/-! ### Issue -/

theorem keeps_startEarly (h : Keeps s t) (c : BitVec 3) : Keeps s (startEarly t c) := by
  unfold startEarly
  split
  · exact keeps_ite (keeps_mk h (hd := fun hd => (dpOk_setCore hd _ (by exact hd.cores _)))) h
  · exact h

theorem keeps_lateWrites (h : Keeps s t) (c : BitVec 3) (t' : W64) (rows : List Nat) : Keeps s (lateWrites t c t' rows) :=
  keeps_ite h (keeps_mapTicks (keeps_mk h) _)

theorem keeps_issueNow (h : Keeps s t) (i : Iss) (q : Queue) (step : Bool) {eff : Bool → Work → Work} (heff : EffKept eff) :
    Keeps s (issueNow t i q step eff) := by
  have hpop : DpOk t.dp → DpOk (popped t i.core q) := fun hd => dpOk_modCore hd _ fun _ hx => by exact hx
  have hw : ∀ run n, WorkKept (popped t i.core q) ((eff run (workOf t i.core q step)).dropLate n) := fun run n =>
    workKept_dropLate (heff _ (workOf t i.core q step) run (DpKept.refl _)) n
  unfold issueNow
  refine keeps_startEarly (keeps_drainCp (keeps_bpMatch (keeps_takeReports (keeps_lateWrites (keeps_mk h (hd := fun hd => ?_)) _ _ _) _) _ _) _) _
  exact dpOk_ite ((hw _ _).ok (hpop hd)) (dpOk_modCore ((hw _ _).ok (hpop hd)) _ fun _ hx => coreOk_packetEnds hx _ _ _)

theorem keeps_setHold (h : Keeps s t) (i : Iss) (q : Queue) (hs : List (Queue × BitVec 3)) : Keeps s (setHold t i q hs) := by
  unfold setHold
  split
  · exact h
  · exact keeps_mk h (hd := fun hd => (dpOk_setCore hd _ (by exact hd.cores _)))

/-! ### The check units -/

theorem keeps_setUnit (h : Keeps s t) (u : UnitId) (x : Cu) : Keeps s (setUnit t u x) := by
  unfold setUnit
  split
  · exact keeps_mk h
  · exact keeps_mk h

theorem keeps_modUnit (h : Keeps s t) (u : UnitId) (f : Cu → Cu) : Keeps s (modUnit t u f) := by
  unfold modUnit
  split
  · exact keeps_setUnit h _ _
  · exact h

theorem keeps_formCheck (h : Keeps s t) (d : BitVec 2) (p : BitVec 2) (row : Bool) (fold : W32) (bs : List Byte) : Keeps s (formCheck t d p row
    fold bs).2 :=
  keeps_mk h

/-! ### The rings -/

theorem keeps_setRing (h : Keeps s t) (id : RingId) (r : PRing) : Keeps s (setRing t id r) := by
  unfold setRing
  split
  · exact keeps_mk h
  · exact keeps_mk h
  · exact keeps_mk h
  · exact keeps_mk h
  · exact h

theorem keeps_modRing (h : Keeps s t) (id : RingId) (f : PRing → PRing) : Keeps s (modRing t id f) := by
  unfold modRing
  split
  · exact keeps_setRing h _ _
  · exact h

theorem keeps_postRecord (h : Keeps s t) (id : RingId) (rec : RingRec) : Keeps s (postRecord t id rec) := keeps_modRing h _ _

theorem keeps_postCompletion (h : Keeps s t) (sq : BitVec 4) (bytes : List Byte) (tick : Bool) : Keeps s (postCompletion t sq bytes tick) :=
  keeps_postRecord h _ _

theorem keeps_complete (h : Keeps s t) (sq : BitVec 4) (type : Byte) (tag : W32) (seq : W64) (status : BitVec 7) (reason : Nat) (stream : W16) :
    Keeps s (complete t sq type tag seq status reason stream) :=
  keeps_postCompletion h _ _ _

theorem keeps_postEvent (h : Keeps s t) (code : Byte) (data0 : W32) (data1 : List Byte) : Keeps s (postEvent t code data0 data1) :=
  keeps_ite (keeps_postRecord h _ _) (keeps_mk h)

theorem keeps_postService (h : Keeps s t) : Keeps s (postService t) := keeps_postEvent h _ _ _

theorem keeps_ringError (h : Keeps s t) (id : RingId) (r : PRing) (resp : BitVec 2) : Keeps s (ringError t id r resp) := by
  unfold ringError
  exact keeps_takeReport (keeps_mk (keeps_setRing h _ _)) _

theorem keeps_ringWritten (h : Keeps s t) (id : RingId) (r : PRing) (x : RingRec) : Keeps s (ringWritten t id r x) := by
  have hrow : ∀ a l, Keeps s { setRing t id r.advance with dp := { (setRing t id r.advance).dp with ext := memWrite (setRing t id r.advance).dp.ext a l } } :=
    fun a l => keeps_mk (keeps_setRing h _ _) (hd := fun hd => dpOk_mk hd (hx := fun hm => memOk_memWrite hm _ _))
  unfold ringWritten
  exact keeps_ite (keeps_mk (hrow _ _)) (hrow _ _)

theorem keeps_offerRecord (h : Keeps s t) (id : RingId) (r : PRing) (x : RingRec) : Keeps s (offerRecord t id r x).1 :=
  keeps_ite_fst h (keeps_setRing (keeps_mk h (hd := fun hd => (dpOk_meterOffer hd _ _ _))) _ _)

theorem keeps_writeEntry (h : Keeps s t) (id : RingId) (resp : BitVec 2) : Keeps s (writeEntry t id resp) := by
  unfold writeEntry
  split
  · exact h
  · split
    · exact h
    · refine keeps_ite h (keeps_ite (keeps_offerRecord h _ _ _) ?_)
      · split
        · exact keeps_offerRecord h _ _ _
        · exact keeps_ite (keeps_ringError (keeps_offerRecord h _ _ _) _ _ _) (keeps_ringWritten (keeps_offerRecord h _ _ _) _ _ _)

theorem keeps_drainFifo (h : Keeps s t) : Keeps s (drainFifo t) := by
  unfold drainFifo
  dsimp only
  split
  · exact h
  · have hm : ∀ f, Keeps s { t with dp := (meterAsk t.dp 10 32 t.err.fifoTicket).2.2, err := f } := fun f =>
      keeps_mk h (hd := fun hd => dpOk_meterAsk hd _ _ _)
    exact keeps_ite h (keeps_ite (hm _) (keeps_postRecord (keeps_mk (hm { t.err with fifoTicket := (meterAsk t.dp 10 32 t.err.fifoTicket).2.1 })) _ _))

theorem keeps_doorbell (h : Keeps s t) (n : BitVec 4) (value : W32) : Keeps s (doorbell t n value) := keeps_ite (keeps_mk h) (keeps_mk h)

theorem keeps_ringConfig (h : Keeps s t) (id : RingId) (v : W32) : Keeps s (ringConfig t id v) := by
  unfold ringConfig
  split
  · exact keeps_ite (keeps_mk (keeps_mk h)) (keeps_mk h)
  · split
    · exact h
    · exact keeps_ite (keeps_mk (keeps_setRing h _ _)) (keeps_setRing h _ _)

theorem keeps_writeHead (h : Keeps s t) (id : RingId) (value : BitVec 12) : Keeps s (writeHead t id value) := keeps_modRing h _ _

theorem keeps_takeHead (h : Keeps s t) (n : BitVec 4) : Keeps s (takeHead t n) := keeps_mk h

theorem keeps_checkDesc (h : Keeps s t) (n : BitVec 4) (q : W64) (bytes : List Byte) (crc : W32) (typeOk : Bool) : Keeps s (checkDesc t n q bytes
    crc typeOk).2 :=
  keeps_ite_snd (keeps_mk (keeps_formCheck h _ _ _ _ _)) (keeps_ite_snd (keeps_formCheck h _ _ _ _ _) (keeps_formCheck h _ _ _ _ _))

/-! ### Streams -/

theorem keeps_noteRows (h : Keeps s t) (rows : List Nat) : Keeps s (noteRows t rows) :=
  keeps_ite h (keeps_takeReports (keeps_mk h (hd := fun hd => (dpOk_ite (dpOk_mk (dpOk_foldl (dpOk_foldl hd (fun _ _ hd => (dpOk_markRead hd
    _)) _) (fun _ _ hd => (dpOk_countEcc hd _)) _)) (dpOk_foldl (dpOk_foldl hd (fun _ _ hd => (dpOk_markRead hd _)) _) (fun _ _ hd =>
      (dpOk_countEcc hd _)) _)))) _)

theorem keeps_narrowRead (h : Keeps s t) (a n : Nat) : Keeps s (narrowRead t a n).2 := by
  unfold narrowRead
  split
  · exact h
  · refine keeps_ite_snd (keeps_takeReport (keeps_mk h (hd := fun hd => ?_)) _) (keeps_takeReport (keeps_mk h (hd := fun hd => ?_)) _)
    · exact dpOk_mk (dpOk_countEcc (dpOk_mk hd) _)
    · exact dpOk_countEcc (dpOk_mk hd) _

theorem keeps_noteSpan (h : Keeps s t) (b : Nat) (n : Nat) : Keeps s (noteSpan t b n) := keeps_noteRows h _

theorem keeps_writeOrchard (h : Keeps s t) (b : Nat) (data : List Byte) : Keeps s (writeOrchard t b data) :=
  keeps_mk h (hd := fun hd => dpOk_rewrite hd _ _ (memOk_memWrite hd.dev _ _))

theorem keeps_fillSlot (h : Keeps s t) (p : Package) (x : Stream) (rows : List Byte) : Keeps s (fillSlot t p x rows) := by
  unfold fillSlot
  split
  · exact h
  · split
    · exact keeps_writeOrchard h _ _
    · exact keeps_writeOrchard (keeps_writeOrchard h _ _) _ _

theorem keeps_toAbsent (h : Keeps s t) (id : W16) : Keeps s (toAbsent t id) := by
  have hrun : Keeps s ((findStream t id).elim t (fun x => rerunLost t x.pend)) := by
    cases findStream t id with
    | none => exact h
    | some x => exact keeps_rerunLost h _
  exact keeps_mk (keeps_modStream hrun _ _)

theorem keeps_finish (h : Keeps s t) (t' : ReqTicket) (status : BitVec 7) (reason : Nat) (stream : W16) : Keeps s (finish t t' status reason
    stream) :=
  keeps_ite h (keeps_complete h _ _ _ _ _ _ _)

theorem keeps_recordRefusal (h : Keeps s t) (status : BitVec 7) (reason : Nat) (id : W16) : Keeps s (recordRefusal t status reason id) :=
  keeps_mk h

theorem keeps_shareChange (h : Keeps s t) (op : Byte) (d : StateDesc) (t' : ReqTicket) : Keeps s (shareChange t op d t') := keeps_mk h

theorem keeps_registerGroup (h : Keeps s t) {g : Byte} {r : State × Bool} (hr : registerGroup t g = some r) : Keeps s r.1 := by
  unfold registerGroup at hr
  split at hr
  · exact Option.some.inj hr ▸ h
  · split at hr
    · cases hr
    · split at hr
      · exact Option.some.inj hr ▸ h
      · exact Option.some.inj hr ▸ keeps_mk (keeps_writeOrchard h _ _)

/-- What a stream-table operation answers keeps the state. -/
def KeepsAnswer (s : State) : Answer → Prop
  | .refuse _ _ => True
  | .done t => Keeps s t
  | .later t => Keeps s t

theorem keepsAnswer_ite {p : Prop} [Decidable p] {a b : Answer} (ha : KeepsAnswer s a) (hb : KeepsAnswer s b) :
    KeepsAnswer s (if p then a else b) := by split <;> assumption

theorem keepsAnswer_doRegister (h : Keeps s t) (d : StateDesc) (r : ReqTicket) : KeepsAnswer s (doRegister t d r) := by
  unfold doRegister
  refine keepsAnswer_ite trivial (keepsAnswer_ite trivial (keepsAnswer_ite trivial (keepsAnswer_ite ?_ (keeps_mk h))))
  split
  · trivial
  · trivial
  · next u hu => exact keeps_mk (keeps_registerGroup h hu)

theorem keeps_startLeaving (h : Keeps s t) (id : W16) : Keeps s (startLeaving t id) := by
  unfold startLeaving
  split
  · exact h
  · exact keeps_mk (keeps_modStream (keeps_mk h (hd := fun hd => (dpOk_meterOffer hd _ _ _))) _ _)

theorem keepsAnswer_doUnregister (h : Keeps s t) (d : StateDesc) (r : ReqTicket) : KeepsAnswer s (doUnregister t d r) := by
  unfold doUnregister
  split
  · trivial
  · refine keepsAnswer_ite trivial (keepsAnswer_ite trivial ?_)
    split
    · exact keeps_mk (keeps_finish h _ _ _ _)
    · exact keeps_mk h

theorem keepsAnswer_doSwapIn (h : Keeps s t) (d : StateDesc) (r : ReqTicket) : KeepsAnswer s (doSwapIn t d r) := by
  unfold doSwapIn
  split
  · trivial
  · refine keepsAnswer_ite trivial (keepsAnswer_ite trivial (keepsAnswer_ite trivial (keepsAnswer_ite trivial ?_)))
    split
    · trivial
    · split
      · trivial
      · refine keepsAnswer_ite (keeps_fillSlot (keeps_modStream ?_ _ _) _ _ _)
          (keeps_modStream (keeps_mk h (hd := fun hd => dpOk_meterOffer hd _ _ _)) _ _)
        split
        · exact keeps_noteSpan h _ _
        · exact h

theorem keepsAnswer_doSwapOut (h : Keeps s t) (d : StateDesc) (r : ReqTicket) : KeepsAnswer s (doSwapOut t d r) := by
  unfold doSwapOut
  split
  · trivial
  · exact keepsAnswer_ite trivial (keepsAnswer_ite trivial (keepsAnswer_ite (keeps_toAbsent (keeps_modStream h _ _) _)
      (keeps_ite (keeps_startLeaving (keeps_modStream (keeps_rerunLost h _) _ _) _) (keeps_modStream (keeps_rerunLost h _) _ _))))

theorem keepsAnswer_doBind (h : Keeps s t) (d : StateDesc) (r : ReqTicket) : KeepsAnswer s (doBind t d r) := by
  unfold doBind
  split
  · trivial
  · refine keepsAnswer_ite trivial (keepsAnswer_ite trivial ?_)
    split
    · trivial
    · exact keeps_modStream h _ _

theorem keepsAnswer_doUnbind (h : Keeps s t) (d : StateDesc) (r : ReqTicket) : KeepsAnswer s (doUnbind t d r) := by
  unfold doUnbind
  split
  · trivial
  · exact keepsAnswer_ite trivial (keeps_modStream h _ _)

theorem keepsAnswer_doWriteInit (h : Keeps s t) (d : StateDesc) (r : ReqTicket) : KeepsAnswer s (doWriteInit t d r) := by
  unfold doWriteInit
  split
  · trivial
  · refine keepsAnswer_ite trivial (keepsAnswer_ite trivial ?_)
    split
    · trivial
    · split
      · trivial
      · exact keeps_modStream (keeps_mk h (hd := fun hd => dpOk_meterOffer hd _ _ _)) _ _

theorem keepsAnswer_doClearInit (h : Keeps s t) (d : StateDesc) (r : ReqTicket) : KeepsAnswer s (doClearInit t d r) := by
  unfold doClearInit
  split
  · trivial
  · exact keepsAnswer_ite trivial (keeps_modStream h _ _)

theorem keepsAnswer_actOf (h : Keeps s t) (op : Byte) (d : StateDesc) (r : ReqTicket) : KeepsAnswer s (actOf op t d r) := by
  unfold actOf
  refine keepsAnswer_ite trivial ?_
  split
  · exact keepsAnswer_doRegister h d r
  · exact keepsAnswer_doUnregister h d r
  · exact keepsAnswer_doSwapIn h d r
  · exact keepsAnswer_doSwapOut h d r
  · exact keepsAnswer_doBind h d r
  · exact keepsAnswer_doUnbind h d r
  · exact keepsAnswer_doWriteInit h d r
  · exact keepsAnswer_doClearInit h d r
  · trivial

theorem keeps_applyChange (h : Keeps s t) (c : PendChange) : Keeps s (applyChange t c) := by
  have ha := keepsAnswer_actOf h c.op c.desc c.req
  unfold applyChange
  split
  · exact keeps_finish (keeps_recordRefusal h _ _ _) _ _ _ _
  · next u hu => exact keeps_finish (by rw [hu] at ha; exact ha) _ _ _ _
  · next u hu => rw [hu] at ha; exact ha

theorem keeps_tableToCome (h : Keeps s t) : Keeps s (tableToCome t) := keeps_ite (keeps_foldl h (fun _ _ h => keeps_applyChange h _) _) h

theorem keeps_runStateDesc (h : Keeps s t) (op : Byte) (d : StateDesc) : Keeps s (runStateDesc t op d) := by
  unfold runStateDesc
  refine keeps_ite h ?_
  have hc := keeps_checkDesc (keeps_takeHead h d.sq) d.sq (vget t.hif.sqs d.sq).seq (stateBytes op d) d.crc (d.rsv == 0)
  dsimp only
  generalize checkDesc _ _ _ _ _ _ = c at hc
  have hshare : ∀ u r, Keeps s u → Keeps s (if sharesChanges u then shareChange u op d r else u) :=
    fun u r hu => keeps_ite (keeps_shareChange hu _ _ _) hu
  split
  · exact keeps_complete (keeps_takeReport hc _) _ _ _ _ _ _ _
  · refine keeps_ite (keeps_complete hc _ _ _ _ _ _ _) ?_
    have ha := fun r => keepsAnswer_actOf (keeps_tableToCome hc) op d r
    split
    · exact keeps_complete (keeps_recordRefusal hc _ _ _) _ _ _ _ _ _ _
    · next u hu =>
      have hu' : Keeps s u := by have := ha ⟨d.tag, d.sq, (vget t.hif.sqs d.sq).seq, false⟩; rw [hu] at this; exact this
      exact keeps_ite (hshare _ _ hc) (hshare _ _ (keeps_finish hu' _ _ _ _))
    · next u hu =>
      have hu' : Keeps s u := by have := ha ⟨d.tag, d.sq, (vget t.hif.sqs d.sq).seq, false⟩; rw [hu] at this; exact this
      exact keeps_ite (hshare _ _ hc) (hshare _ _ hu')

theorem keeps_imageCrc (h : Keeps s t) (id : W16) (img : List Byte) : Keeps s (imageCrc t id img).2 := keeps_formCheck h _ _ _ _ _

theorem keeps_maskStreams (h : Keeps s t) (seq : W64) (p : StreamTick → Bool) : Keeps s (maskStreams t seq p) :=
  keeps_ite h (keeps_mk h (hd := fun hd => (dpOk_foldl hd (fun _ _ hd => (dpOk_landIn hd _ _)) _)))

theorem keeps_maskNow (h : Keeps s t) (seq : W64) (p : StreamTick → Bool) : Keeps s (maskNow t seq p) :=
  keeps_mk h (hd := fun hd => (dpOk_foldl hd (fun _ _ hd => (dpOk_land hd _)) _))

theorem keeps_resolveGate (h : Keeps s t) (seq : W64) (held : Nat) : Keeps s (resolveGate t seq held) :=
  keeps_takeReports (keeps_mapTicks (keeps_maskStreams h _ _) _) _

theorem keeps_imageFails (h : Keeps s t) (id : W16) (j : SwapJob) : Keeps s (imageFails t id j) :=
  keeps_foldl (keeps_finish (keeps_takeReport (keeps_recordRefusal (keeps_mk (keeps_toAbsent (keeps_ite (keeps_modStream h _ _) h) _)) _ _ _)
    _) _ _ _ _) (fun _ _ h => keeps_resolveGate h _ _) _

theorem keeps_imageChecked (h : Keeps s t) (id : W16) (resp : BitVec 2) (img : List Byte) : Keeps s (imageChecked t id resp img) := by
  unfold imageChecked
  split
  · split
    · exact keeps_ite h (keeps_ite (keeps_imageFails (keeps_takeReport h _) _ _) (keeps_ite (keeps_finish (keeps_fillSlot (keeps_modStream
        (keeps_imageCrc h _ _) _ _) _ _ _) _ _ _ _) (keeps_imageFails (keeps_imageCrc h _ _) _ _)))
    · exact h
  · exact h

theorem keeps_imageOf (h : Keeps s t) (p : Package) (x : Stream) : Keeps s (imageOf t p x).2 := keeps_noteRows (keeps_imageCrc h _ _) _

theorem keeps_swapOutDone (h : Keeps s t) (id : W16) (resp : BitVec 2) : Keeps s (swapOutDone t id resp) := by
  unfold swapOutDone
  split
  · split
    · have hi := fun p x => keeps_imageOf h p x
      refine keeps_ite h (keeps_ite (keeps_takeReport h _) (keeps_ite (keeps_finish (keeps_toAbsent (hi _ _) _) _ _ _ _)
        (keeps_finish (keeps_toAbsent (keeps_modStream (keeps_mk (hi _ _) (hd := fun hd => ?_)) _ _) _) _ _ _ _)))
      exact dpOk_mk hd (hx := fun hm => memOk_memWrite hm _ _)
    · exact h
  · exact h

theorem keeps_initReplaces (h : Keeps s t) (id : W16) : Keeps s (initReplaces t id) := by
  unfold initReplaces
  split
  · split
    · exact keeps_ite (keeps_finish (keeps_modStream h _ _) _ _ _ _) h
    · exact h
  · exact h

theorem keeps_initLanded (h : Keeps s t) (id : W16) (resp : BitVec 2) (data : List Byte) : Keeps s (initLanded t id resp data) := by
  unfold initLanded
  split
  · split
    · exact keeps_ite h (keeps_ite (keeps_finish (keeps_takeReport (keeps_recordRefusal (keeps_modStream h _ _) _ _ _) _) _ _ _ _)
        (keeps_initReplaces (keeps_modStream (keeps_writeOrchard h _ _) _ _) _))
    · exact h
  · exact h

theorem keeps_stmQuery (h : Keeps s t) (id : W16) : Keeps s (stmQuery t id) := keeps_mk h

/-! ### Intake -/

theorem keeps_modTick (h : Keeps s t) (seq : W64) (f : TickRec → TickRec) : Keeps s (modTick t seq f) := keeps_mapTicks h _

theorem keeps_noteShape (h : Keeps s t) (d : TickDesc) : Keeps s (noteShape t d) := by
  unfold noteShape
  split
  · exact keeps_mk h
  · exact h

theorem keeps_completeTick (h : Keeps s t) (d : TickDesc) (status : BitVec 7) (tick : Bool) : Keeps s (completeTick t d status tick) :=
  keeps_postCompletion h _ _ _

theorem keeps_bumpMismatch (h : Keeps s t) : Keeps s (bumpMismatch t) := keeps_mk h

theorem keeps_compareFields (h : Keeps s t) (seq : W64) (actual : TickCtl) : Keeps s (compareFields t seq actual) := by
  unfold compareFields
  split
  · exact h
  · exact keeps_mk (keeps_modTick (keeps_maskStreams (keeps_ite (keeps_bumpMismatch h) h) _ _) _ _)

theorem keeps_refusePredicted (h : Keeps s t) (seq : W64) (st : BitVec 7) : Keeps s (refusePredicted t seq st) :=
  keeps_mk (keeps_modTick (keeps_maskStreams h _ _) _ _)

theorem keeps_offerCtl (h : Keeps s t) (d : TickDesc) : Keeps s (offerCtl t d).2 :=
  keeps_ite_snd h (keeps_mk h (hd := fun hd => (dpOk_meterOffer hd _ _ _)))

theorem keeps_offerErr (h : Keeps s t) (d : TickDesc) : Keeps s (offerErr t d).2 :=
  keeps_ite_snd h (keeps_mk h (hd := fun hd => (dpOk_meterOffer hd _ _ _)))

theorem keeps_refuseTick (h : Keeps s t) (d : TickDesc) (q : W64) (st : BitVec 7) : Keeps s (refuseTick t d q st) := by
  unfold refuseTick
  exact keeps_takeReport (keeps_modTick (keeps_ite (keeps_noteShape h _) h) _ _) _

theorem keeps_intakeTick (h : Keeps s t) (d : TickDesc) (q : W64) (t' : TickRec) : Keeps s (intakeTick t d q t') := by
  unfold intakeTick
  refine keeps_ite (keeps_modTick h _ _) ?_
  · split
    · exact keeps_refuseTick h _ _ _
    · exact keeps_modTick (keeps_offerErr (keeps_offerCtl h _) _) _ _

theorem keeps_confirmTick (h : Keeps s t) (d : TickDesc) (q : W64) : Keeps s (confirmTick t d q) := by
  unfold confirmTick
  split
  · exact keeps_refusePredicted (keeps_refuseTick h _ _ _) _ _
  · exact keeps_ite (keeps_compareFields (keeps_modTick (keeps_mk (keeps_offerErr (keeps_offerCtl h _) _)) _ _) _ _) (keeps_modTick (keeps_mk
      (keeps_offerErr (keeps_offerCtl h _) _)) _ _)

theorem keeps_takeTick (h : Keeps s t) (d : TickDesc) : Keeps s (takeTick t d) := by
  unfold takeTick
  refine keeps_ite h ?_
  dsimp only
  have hc := keeps_checkDesc h d.sq (vget t.hif.sqs d.sq).seq (tickBytes d) d.crc (tickFormOk t d)
  generalize checkDesc _ _ _ _ _ _ = c at hc
  split
  · exact keeps_completeTick (keeps_takeReport (keeps_takeHead hc _) _) _ _ _
  · refine keeps_ite (keeps_completeTick (keeps_takeHead hc _) _ _ _)
      (keeps_ite (keeps_completeTick (keeps_takeReport (keeps_takeHead hc _) _) _ _ _) (keeps_ite h ?_))
    have ht := keeps_takeHead hc d.sq
    generalize takeHead c.2 d.sq = u at ht
    split
    · exact keeps_ite (keeps_intakeTick (keeps_mk ht) _ _ _) (keeps_ite (keeps_confirmTick (keeps_mk ht) _ _) (keeps_completeTick (keeps_mk ht) _ _ _))
    · exact keeps_completeTick (keeps_mk ht) _ _ _

theorem keeps_refuseCtl (h : Keeps s t) (t' : TickRec) (c : TickCmd) (st : BitVec 7) : Keeps s (refuseCtl t t' c st) :=
  keeps_ite (keeps_refusePredicted (keeps_takeReport (keeps_ite (keeps_mk h) h) _) _ _) (keeps_modTick (keeps_takeReport (keeps_ite (keeps_mk
    h) h) _) _ _)

theorem keeps_landCtl (h : Keeps s t) (t' : TickRec) (c : TickCmd) (data : List Byte) : Keeps s (landCtl t t' c data) :=
  keeps_ite h (keeps_ite (keeps_refuseCtl (keeps_formCheck h _ _ _ _ _) _ _ _) (keeps_ite (keeps_refuseCtl (keeps_formCheck h _ _ _ _ _) _ _
    _) (keeps_ite (keeps_compareFields (keeps_formCheck h _ _ _ _ _) _ _) (keeps_modTick (keeps_formCheck h _ _ _ _ _) _ _))))

theorem keeps_controlBlockIn (h : Keeps s t) (resp : BitVec 2) (data : List Byte) : Keeps s (controlBlockIn t resp data) := by
  unfold controlBlockIn
  split
  · exact h
  · split
    · exact h
    · exact keeps_ite h (keeps_ite (keeps_takeReport (keeps_modTick h _ _) _) (keeps_landCtl (keeps_modTick h _ _) _ _ _))

theorem keeps_acceptEntry (h : Keeps s t) (row : List Byte) : Keeps s (acceptEntry t row) := by
  unfold acceptEntry
  dsimp only
  split
  · split
    · exact h
    · exact keeps_mk (keeps_writeOrchard (keeps_noteSpan h _ _) _ _)
  · exact h

theorem keeps_refuseEntry (h : Keeps s t) (r : Nat) (id : W16) : Keeps s (refuseEntry t r id) := keeps_mk h

theorem keeps_takeEntry (r : TickRec) {a : State × List W16} (h : Keeps s a.1) (row : List Byte) : Keeps s (takeEntry r a row).1 := by
  unfold takeEntry
  dsimp only
  split
  · exact keeps_acceptEntry h _
  · exact h
  · exact keeps_refuseEntry h _ _

theorem keeps_blkFail (h : Keeps s t) (n : Nat) : Keeps s (blkFail t n) := by
  induction n generalizing t with
  | zero => exact h
  | succ n ih => exact ih (keeps_mk h)

theorem keeps_errBlockOk (h : Keeps s t) (e : ErrFetch) (data : List Byte) : Keeps s (errBlockOk t e data).2 :=
  keeps_ite_snd h (keeps_formCheck h _ _ _ _ _)

theorem keeps_errArea (h : Keeps s t) (n : Nat) (data : List Byte) : Keeps s (errArea t n data) := by
  unfold errArea
  split
  · exact keeps_writeOrchard h _ _
  · exact h

theorem keeps_errorBlockIn (h : Keeps s t) (resp : BitVec 2) (data : List Byte) : Keeps s (errorBlockIn t resp data) := by
  unfold errorBlockIn
  split
  · exact h
  · split
    · exact h
    · have htook := fun q f => keeps_modTick h q f
      refine keeps_ite h (keeps_ite (keeps_blkFail (keeps_takeReport (htook _ _) _) _) (keeps_ite (keeps_ite h ?_) ?_))
      · refine keeps_errArea (keeps_modTick (keeps_mk h (hd := fun hd => ?_)) _ _) _ _
        refine dpOk_ite_snd ?_ (dpOk_ite_snd ?_ (dpOk_meterOffer hd _ _ _))
        all_goals exact hd
      · have hd : ∀ (a b : Bool) i n c e, DpOk s.dp → DpOk (if a then (true, t.dp) else if b then (c, t.dp)
            else ((meterOffer t.dp i n e).1.isNone, (meterOffer t.dp i n e).2) : Bool × Dp).2 := fun _ _ _ _ _ _ hs =>
          dpOk_ite_snd (a := (true, t.dp)) (h.dp hs) (dpOk_ite_snd (a := (_, t.dp)) (h.dp hs) (dpOk_meterOffer (h.dp hs) _ _ _))
        refine keeps_ite (keeps_blkFail (keeps_errArea (keeps_withDp (keeps_errBlockOk (htook _ _) _ _) (hd _ _ _ _ _ _)) _ _) _)
          (keeps_foldl_fst ?_ (fun _ _ ha => keeps_takeEntry _ ha _) _)
        exact keeps_errArea (keeps_withDp (keeps_errBlockOk (htook _ _) _ _) (hd _ _ _ _ _ _)) _ _

theorem keeps_startEmbeddings (h : Keeps s t) (early : Bool) : Keeps s (startEmbeddings t early) := by
  unfold startEmbeddings
  split
  · exact h
  · exact keeps_ite h (keeps_foldl h (fun _ _ h => (keeps_ite (keeps_modStream (keeps_mk h (hd := fun hd => (dpOk_meterOffer hd _ _ _))) _ _) h)) _)

theorem keeps_embeddingIn (h : Keeps s t) (id : W16) (resp : BitVec 2) (data : List Byte) : Keeps s (embeddingIn t id resp data) := by
  unfold embeddingIn
  split
  · refine keeps_ite h (keeps_ite (keeps_takeReport (keeps_mk (keeps_modStream h _ _) (hd := fun hd => (dpOk_mk hd))) _) (keeps_modStream
      (keeps_writeOrchard ?_ _ _) _ _))
    · split
      · exact keeps_mk (keeps_modStream h _ _) (hd := fun hd => (dpOk_modCore hd _ fun _ hx => by exact hx))
      · exact keeps_modStream h _ _
  · exact h

theorem keeps_sampleIn (h : Keeps s t) (port : BitVec 2) (id : W16) (data : List Byte) (keepOk : Bool) : Keeps s (sampleIn t port id data keepOk)
    := by
  unfold sampleIn
  dsimp only
  split
  · exact keeps_mk h
  · split
    · exact keeps_modStream (keeps_ite (keeps_mk (keeps_mk h)) (keeps_writeOrchard (keeps_mk h) _ _)) _ _
    · exact keeps_mk h

/-! ### Learning -/

theorem keeps_raiseAt (h : Keeps s t) (c : BitVec 3) (q : W64) (f : W16) : Keeps s (raiseAt t c q f) :=
  keeps_mk h (hd := fun hd => dpOk_modCore hd _ fun _ hx => by split <;> exact hx)

theorem keeps_writeAdapter (h : Keeps s t) (p : Package) (seq : W64) (a : AdapterDef) (src : Nat) (dst : Nat) (ls : List LrnPlace) : Keeps s
    (writeAdapter p seq a src dst t ls) := by
  unfold writeAdapter
  split
  · exact keeps_writeOrchard h _ _
  · exact keeps_mk (keeps_raiseAt (keeps_writeOrchard h _ _) _ _ _)

theorem keeps_writeOwn (h : Keeps s t) (p : Package) (seq : W64) (y : StreamTick) : Keeps s (writeOwn p seq t y) := by
  unfold writeOwn
  split
  · exact h
  · split
    · exact h
    · exact keeps_ite h (keeps_foldl h (fun _ _ h => keeps_writeAdapter h _ _ _ _ _ _) _)

theorem keeps_writeGroup (h : Keeps s t) (p : Package) (seq : W64) (g : GroupSlot) : Keeps s (writeGroup p seq t g) := by
  unfold writeGroup
  split
  · exact keeps_writeAdapter h _ _ _ _ _ _
  · exact h

theorem keeps_writeAdapters (h : Keeps s t) (t' : TickRec) : Keeps s (writeAdapters t t') := by
  unfold writeAdapters
  split
  · exact h
  · exact keeps_foldl (keeps_foldl h (fun _ _ h => keeps_writeOwn h _ _ _) _) (fun _ _ h => keeps_writeGroup h _ _ _) _

theorem keeps_releaseUpdates (h : Keeps s t) (seq : W64) : Keeps s (releaseUpdates t seq) := keeps_mk h

/-! ### Fatal errors -/

theorem keeps_freeBytes (h : Keeps s t) (n : Nat) : Keeps s (freeBytes t n).2 := keeps_mk h (hd := fun hd => (dpOk_mk hd))

theorem keeps_savedRegs (h : Keeps s t) : Keeps s (savedRegs t).2 := by
  refine keeps_foldl_snd ?_ (fun _ _ ha => keeps_ite_snd ?_ ?_) _
  · exact h
  · exact keeps_freeBytes ha _
  · exact ha

theorem keeps_dumpBytes (h : Keeps s t) (cause procs : Nat) : Keeps s (dumpBytes t cause procs).2 := by
  have hr := keeps_savedRegs h
  unfold dumpBytes
  generalize savedRegs t = r at hr
  exact keeps_ite_snd hr (keeps_freeBytes hr _)

theorem keeps_writeExt (h : Keeps s t) (a : Nat) (l : List Byte) : Keeps s { t with dp := { t.dp with ext := memWrite t.dp.ext a l } } :=
  keeps_mk h (hd := fun hd => dpOk_mk hd (hx := fun hm => memOk_memWrite hm _ _))

theorem keeps_writeDump (h : Keeps s t) (cause procs : Nat) : Keeps s (writeDump t cause procs) := by
  have hd := keeps_dumpBytes h cause procs
  unfold writeDump
  generalize dumpBytes t cause procs = d at hd
  exact keeps_ite (keeps_postEvent (keeps_mk (keeps_writeExt hd _ _)) _ _ _) (keeps_mk h)

theorem keeps_fatalReport (h : Keeps s t) : Keeps s (fatalReport t) := keeps_unrecovered (keeps_mk h (hd := fun hd => (dpOk_mk hd))) _ _ _

theorem keeps_skipAll (h : Keeps s t) : Keeps s (skipAll t) := keeps_mapTicks (keeps_mk h) _

theorem keeps_joinFatal (h : Keeps s t) (cause procs : Nat) : Keeps s (joinFatal t cause procs) := by
  unfold joinFatal
  split
  · next f _ =>
    have hf : ∀ x, Keeps s { t with fwr := x } := fun x => keeps_mk h
    refine keeps_ite h (keeps_ite (hf _) ?_)
    have hd := fun x c p => keeps_dumpBytes (hf x) c p
    dsimp only
    generalize hx : dumpBytes _ _ _ = d
    exact keeps_writeExt (hx ▸ hd _ _ _) _ _
  · exact h

theorem keeps_fatalFault (h : Keeps s t) (cause : Nat) (procs : Nat) (xpFailed : Bool) : Keeps s (fatalFault t cause procs xpFailed) :=
  keeps_ite (keeps_ite h (keeps_joinFatal h _ _)) (keeps_ite (keeps_mk (keeps_mk (keeps_mk (keeps_skipAll (keeps_fatalReport h)))))
    (keeps_postService (keeps_writeDump (keeps_mk (keeps_mk (keeps_mk (keeps_skipAll (keeps_fatalReport h))))) _ _)))

/-! ### Trace -/

theorem keeps_drainOne (h : Keeps s t) (p : TracePkt) : Keeps s (drainOne t p) := by
  have hm : DpOk t.dp → DpOk (meterAsk t.dp 12 16 t.fwr.fw.trcTicket).2.2 := fun hd => dpOk_meterAsk hd _ _ _
  refine keeps_ite (keeps_mk h (hd := hm)) (keeps_mk h (hd := fun hd => ?_))
  exact dpOk_mk (hm hd) (hx := fun hx => memOk_memWrite hx _ _)

theorem keeps_drainTrace (h : Keeps s t) : Keeps s (drainTrace t) :=
  keeps_ite (keeps_foldl h (fun _ _ h => (keeps_ite (keeps_drainOne h _) h)) _) h

theorem keeps_addPacket (h : Keeps s t) (p : TracePkt) : Keeps s (addPacket t p) :=
  keeps_ite (keeps_mk h) (keeps_ite (keeps_mk h) (keeps_ite h (keeps_mk h)))

theorem keeps_tracePoint (h : Keeps s t) (source : BitVec 4) (point : BitVec 12) (cls : BitVec 4) (arg0 : W32) (arg1 : W32) (debug : Bool) : Keeps
    s (tracePoint t source point cls arg0 arg1 debug) :=
  keeps_ite (keeps_ite (keeps_addPacket h _) h) (keeps_ite (keeps_drainTrace (keeps_addPacket (keeps_drainTrace h) _)) h)

/-! ### Power -/

theorem keeps_ppFit (h : Keeps s t) : Keeps s (ppFit t) := by
  unfold ppFit
  dsimp only
  split
  · exact keeps_mk h
  · exact keeps_mk (keeps_mk h) (hd := fun hd => (dpOk_mk hd))

theorem keeps_writeCap (h : Keeps s t) (value : W32) (strb : BitVec 4) : Keeps s (writeCap t value strb) :=
  keeps_ite (keeps_ppFit (keeps_mk h)) (keeps_mk h)

theorem keeps_raiseFull (h : Keeps s t) : Keeps s (raiseFull t) := keeps_ite (keeps_mk h) h

theorem keeps_enterFull (h : Keeps s t) : Keeps s (enterFull t) := keeps_postService (keeps_ppFit (keeps_mk h))

theorem keeps_enterSloe (h : Keeps s t) : Keeps s (enterSloe t) := keeps_postService (keeps_ppFit (keeps_mk (keeps_mk h)))

theorem keeps_boundaryAclk (h : Keeps s t) : Keeps s (boundaryAclk t) := by
  unfold boundaryAclk
  split
  · exact keeps_enterFull h
  · exact keeps_enterSloe h
  · exact h

theorem keeps_bootKill (h : Keeps s t) : Keeps s (bootKill t) := keeps_ite (keeps_postEvent (keeps_mk h) _ _ _) h

/-- A processor's record beside its memory. -/
theorem procsOk_foldl {x p r : ProcRec} {c : Vector ProcRec (2 ^ 3)} (h : ProcsOk x p r c) {α : Type} {f : Vector ProcRec (2 ^ 3) → α → Vector ProcRec (2 ^ 3)}
    (hf : ∀ v a, (∀ k, MemOk (vget v k).mem) → ∀ k, MemOk (vget (f v a) k).mem) (l : List α) : ∀ k, MemOk (vget (l.foldl f c) k).mem := by
  obtain ⟨-, -, -, hc⟩ := h
  induction l generalizing c with
  | nil => exact hc
  | cons a l ih => exact ih (hf c a hc)

theorem memOk_vset {v : Vector ProcRec (2 ^ 3)} (h : ∀ k, MemOk (vget v k).mem) {i : BitVec 3} {p : ProcRec} (hp : MemOk p.mem) (k : BitVec 3) :
    MemOk (vget (vset v i p) k).mem := by
  rw [vget_vset]
  split
  · exact hp
  · exact h k

theorem keeps_startService (h : Keeps s t) : Keeps s (startService t) := by
  refine keeps_postService ⟨(keeps_bootKill h).pending, h.otp, fun hs => ⟨(h.dp hs).cores, memOk_nil, (h.dp hs).ext⟩, fun hp => ?_⟩
  have hk := (keeps_bootKill h).procs hp
  have ht := h.procs hp
  refine ⟨hk.1, hk.2.1, ht.2.2.1, procsOk_foldl ht (fun v a hv k => ?_) _⟩
  split
  · exact memOk_vset hv (by exact hv _) k
  · exact hv k

theorem keeps_takeGrant (h : Keeps s t) (lvl : BitVec 2) : Keeps s (takeGrant t lvl) :=
  keeps_ite h (keeps_ite (keeps_mk h) (keeps_ite (keeps_startService (keeps_mk h)) (keeps_ite (keeps_ite (keeps_enterFull (keeps_mk h))
    (keeps_mk (keeps_mk h))) (keeps_mk h))))

theorem keeps_powerFault (h : Keeps s t) (lvl : BitVec 2) : Keeps s (powerFault t lvl) := keeps_ite h (keeps_fatalFault (keeps_mk h) _ _ _)

theorem keeps_endScrub (h : Keeps s t) (failed : Option (BitVec 17)) : Keeps s (endScrub t failed) := by
  unfold endScrub
  split
  · exact keeps_mk (keeps_mk h) (hd := fun hd => (dpOk_mk hd))
  · exact keeps_raiseFull (keeps_mk h)

theorem keeps_scrubDone (h : Keeps s t) (failed : Option (BitVec 17)) : Keeps s (scrubDone t failed) :=
  keeps_ite h (keeps_ite (keeps_pass h _) (keeps_endScrub (keeps_pass h _) _))

/-! ### The twin -/

theorem keeps_flushLink (h : Keeps s t) : Keeps s (flushLink t) := keeps_ite (keeps_mk h) h

theorem keeps_sendAll (h : Keeps s t) (fs : List Frame) : Keeps s (sendAll t fs) := keeps_ite h (keeps_flushLink (keeps_mk h))

theorem keeps_receiveBeats (h : Keeps s t) (n : Nat) : Keeps s (receiveBeats t n) := keeps_mk h

theorem keeps_goodFrame (h : Keeps s t) (n : Nat) : Keeps s (goodFrame t n) := keeps_mk (keeps_receiveBeats h _)

theorem keeps_twinEvent (h : Keeps s t) : Keeps s (twinEvent t) := keeps_postEvent h _ _ _

theorem keeps_twinReport (h : Keeps s t) (stream : W16) (reason : Nat) : Keeps s (twinReport t stream reason) := keeps_takeReport h _

theorem keeps_setL3 (h : Keeps s t) (mirroring : Bool) (on : Bool) : Keeps s (setL3 t mirroring on) :=
  keeps_ppFit (keeps_ite (keeps_moveOwn h _ _ _) (keeps_leaveOwn h _ _))

theorem keeps_dropDeltaTicket (h : Keeps s t) : Keeps s (dropDeltaTicket t) :=
  keeps_mk h (hd := fun hd => (dpOk_meterDrop (dpOk_meterDrop hd _ _) _ _))

theorem keeps_unpair (h : Keeps s t) : Keeps s (unpair t) := keeps_setL3 (keeps_mk (keeps_dropDeltaTicket h)) _ _

theorem keeps_setTwn (h : Keeps s t) (st : TwnState) (reason : Byte) : Keeps s (setTwn t st reason) := keeps_twinEvent (keeps_mk h)

theorem keeps_callChange (h : Keeps s t) (c : TwnChange) : Keeps s (callChange t c) := keeps_ite h (keeps_mk h)

theorem keeps_callDetach (h : Keeps s t) (reason : Byte) : Keeps s (callDetach t reason) := keeps_ite h (keeps_callChange h _)

theorem keeps_callTakeover (h : Keeps s t) : Keeps s (callTakeover t) := keeps_ite (keeps_callChange h _) h

theorem keeps_declareDown (h : Keeps s t) : Keeps s (declareDown t) :=
  keeps_ite h (keeps_ite (keeps_mk h) (keeps_ite (keeps_callTakeover (keeps_twinReport (keeps_mk h) _ _)) (keeps_callDetach (keeps_twinReport
    (keeps_mk h) _ _) _)))

theorem keeps_abandonDelta (h : Keeps s t) : Keeps s (abandonDelta t) := by
  unfold abandonDelta
  split
  · exact h
  · exact keeps_ite h (keeps_twinReport (keeps_sendAll (keeps_mk (keeps_dropDeltaTicket h)) _) _ _)

theorem keeps_buildDelta (h : Keeps s t) (seq : W64) (ids : List (W16 × Bool)) (groups : List Byte) : Keeps s (buildDelta t seq ids groups) := by
  unfold buildDelta
  split
  · exact h
  · exact keeps_mk (keeps_noteRows h _)

theorem keeps_startSync (h : Keeps s t) : Keeps s (startSync t) := by
  unfold startSync
  split
  · exact h
  · exact keeps_mk (keeps_noteRows h _)

theorem keeps_takeChange (h : Keeps s t) : Keeps s (takeChange t) := by
  unfold takeChange
  split
  · exact h
  · refine keeps_ite h (keeps_ite (keeps_mk ?_) ?_)
    · split
      · exact keeps_setTwn (keeps_unpair (keeps_mk h)) _ _
      · exact keeps_setTwn (keeps_unpair (keeps_mk h)) _ _
      · exact keeps_setTwn (keeps_mk (keeps_mk h)) _ _
      · exact keeps_setTwn (keeps_mk (keeps_mk h)) _ _
      · exact keeps_setTwn (keeps_mk h) _ _
    · split
      · exact keeps_setTwn (keeps_unpair (keeps_mk h)) _ _
      · exact keeps_setTwn (keeps_unpair (keeps_mk h)) _ _
      · exact keeps_setTwn (keeps_mk (keeps_mk h)) _ _
      · exact keeps_setTwn (keeps_mk (keeps_mk h)) _ _
      · exact keeps_setTwn (keeps_mk h) _ _

theorem keeps_enterSync (h : Keeps s t) : Keeps s (enterSync t) :=
  keeps_ite (keeps_ite (keeps_mk (keeps_setTwn h _ _)) (keeps_setTwn h _ _)) (keeps_startSync (keeps_setTwn h _ _))

theorem keeps_endQuiet (h : Keeps s t) : Keeps s (endQuiet t) := by
  unfold endQuiet
  dsimp only
  split
  · exact keeps_raiseFull (keeps_setTwn (keeps_mk h) _ _)
  · exact keeps_setTwn (keeps_mk (keeps_mk h)) _ _
  · exact keeps_setTwn (keeps_mk (keeps_mk h)) _ _
  · exact keeps_mk h

theorem keeps_twinBoundary (h : Keeps s t) : Keeps s (twinBoundary t) := by
  have hlow : Keeps s (if t.twn.lower then { t with twn := { t.twn with lower := false }, pwr := { t.pwr with halfNext := some true } } else t) :=
    keeps_ite (keeps_mk h) h
  have hchange := keeps_takeChange hlow
  have hend : ∀ v, Keeps s v → Keeps s (match v.twn.quiet with | some u => if u.toNat ≤ v.tkc.seq.toNat then endQuiet v else v | none => v) :=
    fun v hv => by
      split
      · exact keeps_ite (keeps_endQuiet hv) hv
      · exact hv
  unfold twinBoundary
  dsimp only
  generalize takeChange _ = u at hchange
  exact hend _ (keeps_ite (keeps_enterSync hchange) hchange)

theorem keeps_twinTick (h : Keeps s t) : Keeps s (twinTick t) := keeps_ite (keeps_sendAll (keeps_mk h) _) (keeps_mk h)

/-! ### The start of a tick -/

theorem keeps_mapMeters (h : Keeps s t) (f : Meter → Meter) : Keeps s (mapMeters t f) := keeps_mk h (hd := fun hd => (dpOk_mk hd))

theorem keeps_closeCounts (h : Keeps s t) : Keeps s (closeCounts t) := keeps_mk h (hd := fun hd => (dpOk_mk_map hd fun _ hx => by exact hx))

theorem keeps_enterService (h : Keeps s t) : Keeps s (enterService t) :=
  keeps_mk h (hd := fun hd => (dpOk_foldl hd (fun _ _ hd => (dpOk_ite (dpOk_modCore hd _ fun _ hx => by exact hx) hd)) _))

theorem keeps_leaveService (h : Keeps s t) : Keeps s (leaveService t) := keeps_mk h (hd := fun hd => (dpOk_mk_map hd fun _ hx => by exact hx))

theorem keeps_finishRun (h : Keeps s t) : Keeps s (finishRun t) := keeps_ite (keeps_postEvent (keeps_leaveService (keeps_mk h)) _ _ _) h

theorem keeps_releasePins (h : Keeps s t) (seq : W64) : Keeps s (releasePins t seq) := keeps_mk h

theorem keeps_withdraw (h : Keeps s t) (seq : W64) : Keeps s (withdraw t seq) :=
  keeps_mk h (hd := fun hd => (dpOk_mk_map hd fun _ hx => by exact hx))

theorem keeps_settleFlags (h : Keeps s t) (q : W64) (merge : Bool) : Keeps s (settleFlags t q merge) :=
  keeps_mk h (hd := fun hd => dpOk_mk_map hd fun _ hx => by cases merge <;> exact hx)

theorem keeps_abandonEarly (h : Keeps s t) : Keeps s (abandonEarly t) := by
  unfold abandonEarly
  split
  · exact h
  · refine keeps_ite (keeps_mk h) ?_
    · split
      · exact keeps_postCompletion (keeps_foldl (keeps_mk (keeps_releaseUpdates (keeps_settleFlags (keeps_withdraw (keeps_releasePins h _) _) _ _)
          _)) (fun _ _ h => keeps_callRestart h _ _ _) _) _ _ _
      · exact keeps_foldl (keeps_mk (keeps_releaseUpdates (keeps_settleFlags (keeps_withdraw (keeps_releasePins h _) _) _ _) _)) (fun _ _ h =>
          (keeps_callRestart h _ _ _)) _

theorem keeps_stopRun (h : Keeps s t) : Keeps s (stopRun t) :=
  keeps_finishRun (keeps_ite (keeps_mk (keeps_drainTrace (keeps_abandonEarly (keeps_boundaryAclk (keeps_mk (keeps_mapMeters
    (keeps_closeCounts h) _) (hd := fun hd => (dpOk_mk hd))))))) (keeps_drainTrace (keeps_abandonEarly (keeps_boundaryAclk (keeps_mk
      (keeps_mapMeters (keeps_closeCounts h) _) (hd := fun hd => (dpOk_mk hd)))))))

theorem keeps_haltNow (h : Keeps s t) : Keeps s (haltNow t) :=
  keeps_mk (keeps_ite (keeps_mk (keeps_leaveService (keeps_abandonEarly h)) (hd := fun hd => (dpOk_mk_map hd fun _ hx => by exact hx)))
    (keeps_leaveService (keeps_abandonEarly h)))

theorem keeps_beginIntake (h : Keeps s t) (seq : W64) (early : Bool) : Keeps s (beginIntake t seq early) :=
  keeps_ite (keeps_ite (keeps_modTick (keeps_ite h (keeps_mk h)) _ _) (keeps_mk (keeps_modTick (keeps_ite h (keeps_mk h)) _ _)))
    (keeps_startEmbeddings (keeps_ite (keeps_modTick (keeps_ite h (keeps_mk h)) _ _) (keeps_mk (keeps_modTick (keeps_ite h (keeps_mk h)) _ _))) _)

theorem keeps_turnWindows (h : Keeps s t) (drop : Bool) : Keeps s (turnWindows t drop) := keeps_mk h

theorem keeps_startJournal (h : Keeps s t) : Keeps s (startJournal t) := keeps_ite (keeps_mk h) h

theorem keeps_tickBreak (h : Keeps s t) : Keeps s (tickBreak t) :=
  keeps_ite h (keeps_ite (keeps_freezeNow (keeps_bpMatch h _ _)) (keeps_bpMatch h _ _))

theorem keeps_startTick (h : Keeps s t) : Keeps s (startTick t) :=
  keeps_beginIntake (keeps_tickBreak (keeps_twinTick (keeps_startJournal (keeps_drainTrace (keeps_ite (keeps_writeAdapters (keeps_ite
    (keeps_enterService (keeps_mk (keeps_turnWindows (keeps_mk (keeps_ite (keeps_mapMeters h _) (keeps_mapMeters (keeps_closeCounts h) _)) (hd :=
      fun hd => (dpOk_mk hd))) _))) (keeps_mk (keeps_turnWindows (keeps_mk (keeps_ite (keeps_mapMeters h _) (keeps_mapMeters (keeps_closeCounts h)
        _)) (hd := fun hd => (dpOk_mk hd))) _))) _) (keeps_ite (keeps_enterService (keeps_mk (keeps_turnWindows (keeps_mk (keeps_ite
          (keeps_mapMeters h _) (keeps_mapMeters (keeps_closeCounts h) _)) (hd := fun hd => (dpOk_mk hd))) _))) (keeps_mk (keeps_turnWindows
            (keeps_mk (keeps_ite (keeps_mapMeters h _) (keeps_mapMeters (keeps_closeCounts h) _)) (hd := fun hd => (dpOk_mk hd))) _)))))))) _ _

theorem keeps_boundary (h : Keeps s t) : Keeps s (boundary t) :=
  keeps_ite (keeps_haltNow (keeps_mk h)) (keeps_ite (keeps_ite (keeps_stopRun (keeps_twinBoundary (keeps_mk h))) (keeps_mk
    (keeps_twinBoundary (keeps_mk h)))) (keeps_ite (keeps_mk (keeps_startTick (keeps_boundaryAclk (keeps_twinBoundary (keeps_mk h)))))
      (keeps_startTick (keeps_boundaryAclk (keeps_twinBoundary (keeps_mk h))))))

theorem keeps_tickBoundary (h : Keeps s t) : Keeps s (tickBoundary t) := by
  unfold tickBoundary
  split
  · exact h
  · exact keeps_ite h (keeps_ite (keeps_pass h _) (keeps_boundary (keeps_pass h _)))

theorem keeps_flywheel (h : Keeps s t) : Keeps s (flywheel t) :=
  keeps_ite h (keeps_ite (keeps_pass h _) (keeps_boundary (keeps_mk (keeps_pass h _))))

theorem keeps_extWait (h : Keeps s t) : Keeps s (extWait t) := keeps_ite h (keeps_ite (keeps_pass h _) (keeps_mk (keeps_pass h _)))

theorem keeps_earlyIntake (h : Keeps s t) : Keeps s (earlyIntake t) :=
  keeps_ite h (keeps_ite (keeps_reach h _) (keeps_beginIntake (keeps_mk (keeps_reach h _)) _ _))

theorem keeps_tickEdge (h : Keeps s t) : Keeps s (tickEdge t) := keeps_ite h (keeps_ite (keeps_mk h) (keeps_mk h))

/-! ### Recovery -/

theorem keeps_holdEnds (h : Keeps s t) {c : BitVec 3} {q : Queue} {g : BitVec 3} {r : State × Instr} (hr : holdEnds t c q g = some r) :
    Keeps s r.1 := by
  unfold holdEnds at hr
  split at hr
  · next x y z _ _ =>
    dsimp only at hr
    have hp := keeps_pass h (gateLimit t z - x.cycles)
    split at hr
    · cases hr
    · split at hr
      · cases hr
      · split at hr
        · split at hr
          · exact Option.some.inj hr ▸ hp
          · cases hr
        · cases hr
  · cases hr

theorem keeps_timeout (h : Keeps s t) (c : BitVec 3) (q : Queue) : Keeps s (timeout t c q) := by
  unfold timeout
  split
  · next hu => exact keeps_takeReports (keeps_holdEnds h hu) _
  · exact h

theorem keeps_tileLimit (h : Keeps s t) (c : BitVec 3) : Keeps s (tileLimit t c) := by
  unfold tileLimit
  split
  · next hu => exact keeps_takeReport (keeps_holdEnds h hu) _
  · exact h

theorem keeps_gateExpires (h : Keeps s t) (c : BitVec 3) : Keeps s (gateExpires t c) := by
  unfold gateExpires
  split
  · next hu => exact keeps_resolveGate (keeps_mk (keeps_holdEnds h hu)) _ _
  · exact h

theorem keeps_reportWait (h : Keeps s t) (chain : Nat) : Keeps s (reportWait t chain) := by
  unfold reportWait
  dsimp only
  split
  · exact h
  · exact keeps_callRestart (keeps_rollChain (keeps_recordReport (keeps_mk h) _) _ _) _ _ _

theorem keeps_waitCycle (h : Keeps s t) (chain : Nat) : Keeps s (waitCycle t chain) :=
  keeps_ite h (keeps_ite (keeps_pass h _) (keeps_reportWait (keeps_pass h _) _))

theorem keeps_chainOut (h : Keeps s t) (chain : Nat) : Keeps s (chainOut t chain) :=
  keeps_mk h (hd := fun hd => (dpOk_foldl hd (fun _ _ hd => (dpOk_modCore hd _ fun _ hx => by exact hx)) _))

theorem keeps_restoreRows (h : Keeps s t) (rows : List (Nat × List Byte)) : Keeps s (restoreRows t rows) :=
  keeps_takeReports (keeps_mk h (hd := fun hd => (dpOk_spWrites hd _))) _

theorem keeps_failRestart (h : Keeps s t) (chain : Nat) : Keeps s (failRestart t chain) := keeps_unrecovered (keeps_mk h) _ _ _

theorem keeps_reenter (h : Keeps s t) (chain : Nat) : Keeps s (reenter t chain) :=
  keeps_mk h (hd := fun hd => (dpOk_mk (dpOk_foldl hd (fun _ _ hd => (dpOk_modCore hd _ fun _ hx => by exact hx)) _)))

theorem keeps_chainRestart (h : Keeps s t) (chain : Nat) (fetchOk : Bool) (rows : List (Nat × List Byte)) : Keeps s (chainRestart t chain fetchOk
    rows) := by
  unfold chainRestart
  split
  · exact h
  · exact keeps_ite h (keeps_ite (keeps_pass h _) (keeps_ite (keeps_failRestart (keeps_chainOut (keeps_pass h _) _) _) (keeps_reenter (keeps_ite
      (keeps_restoreRows (keeps_chainOut (keeps_pass h _) _) _) (keeps_chainOut (keeps_pass h _) _)) _)))

theorem keeps_writeBack (h : Keeps s t) (g : BitVec 23) : Keeps s (writeBack t g) := keeps_mk h (hd := fun hd => (dpOk_mk hd))

/-! ### Firmware -/

theorem keeps_setProc (h : Keeps s t) (p : Proc) {r : ProcRec} (hr : ProcsOk t.xp t.pp t.spp t.cps → MemOk r.mem) : Keeps s (setProc t p r) := by
  cases p with
  | xp => exact keeps_mk h (hp := fun hp => ⟨hr hp, hp.2.1, hp.2.2.1, hp.2.2.2⟩)
  | pp => exact keeps_mk h (hp := fun hp => ⟨hp.1, hr hp, hp.2.2.1, hp.2.2.2⟩)
  | sp => exact keeps_mk h (hp := fun hp => ⟨hp.1, hp.2.1, hr hp, hp.2.2.2⟩)
  | cp k => exact keeps_mk h (hp := fun hp => ⟨hp.1, hp.2.1, hp.2.2.1, memOk_vset hp.2.2.2 (hr hp)⟩)

theorem memOk_getProc (h : ProcsOk t.xp t.pp t.spp t.cps) (p : Proc) : MemOk (getProc t p).mem := by
  obtain ⟨hx, hp, hs, hc⟩ := h
  cases p with
  | xp => exact hx
  | pp => exact hp
  | sp => exact hs
  | cp k => exact hc k

theorem keeps_cpFails (h : Keeps s t) (c : BitVec 3) (mpu : Bool) : Keeps s (cpFails t c mpu) := by
  have hr := keeps_takeReport (keeps_setProc h (.cp c) (r := { vget t.cps c with wdCount := 0, lastExp := some t.tkc.seq })
    (fun hp => hp.2.2.2 c)) (cpReport c mpu)
  exact keeps_ite (keeps_fatalFault hr _ _ _) hr

theorem keeps_procFails (h : Keeps s t) (p : Proc) (mpu : Bool) : Keeps s (procFails t p mpu) := by
  cases p with
  | xp => exact keeps_mk (keeps_fatalFault h _ _ _)
  | cp c => exact keeps_ite (keeps_ite (keeps_fatalFault h _ _ _) h) (keeps_cpFails h _ _)
  | pp => exact keeps_fatalFault h _ _ _
  | sp => exact keeps_fatalFault h _ _ _

theorem keeps_countProc (h : Keeps s t) (p : Proc) (mpu : Bool) : Keeps s (countProc t p mpu) := keeps_mk h

theorem keeps_watchdogExpires (h : Keeps s t) (p : Proc) : Keeps s (watchdogExpires t p) := by
  refine keeps_ite h (keeps_ite h (keeps_procFails (keeps_countProc (keeps_setProc (keeps_ite (keeps_pass h _) h) _ fun hp => ?_) _ _) _ _))
  exact memOk_getProc hp p

theorem keeps_holdLog (h : Keeps s t) (b : List Byte) : Keeps s (holdLog t b) :=
  keeps_ite (keeps_mk (keeps_mk h (hd := fun hd => (dpOk_mk hd)))) (keeps_mk (keeps_mk h (hd := fun hd => (dpOk_mk hd))))

theorem keeps_logEntry (h : Keeps s t) (level : BitVec 3) (source : BitVec 4) (code : W32) (args : List W32) : Keeps s (logEntry t level source
    code args) := by
  unfold logEntry
  split
  · exact h
  · exact keeps_ite (keeps_holdLog h _) h

theorem keeps_fwrAccept (h : Keeps s t) (ofs : W16) (value : W32) (strb : BitVec 4) : Keeps s (fwrAccept t ofs value strb) :=
  keeps_ite (keeps_mk h) (keeps_ite h (keeps_ite (keeps_mk h) (keeps_takeReport (keeps_mk h) _)))

theorem keeps_applyTrc (h : Keeps s t) (v : W32) : Keeps s (applyTrc t v) :=
  keeps_drainTrace (keeps_ite (keeps_mk h) (keeps_ite (keeps_moveOwn (keeps_mk (keeps_mk h)) _ _ _) (keeps_ite (keeps_moveOwn (keeps_mk
    (keeps_mk h)) _ _ _) (keeps_refuseOwn (keeps_mk h) _ _))))

theorem keeps_setFw (h : Keeps s t) (f : FwrFw) : Keeps s (setFw t f) := keeps_mk h

theorem keeps_setSpec (h : Keeps s t) (x : FwrSpec) : Keeps s (setSpec t x) := keeps_mk h

theorem keeps_applySpec (h : Keeps s t) (v : W32) : Keeps s (applySpec t v) :=
  keeps_ite (keeps_setSpec h _) (keeps_ite (keeps_setSpec h _) (keeps_setSpec h _))

theorem keeps_fwrApply (h : Keeps s t) (w : FwrWrite) : Keeps s (fwrApply t w) := by
  unfold fwrApply
  split
  · exact keeps_applyTrc h _
  · exact keeps_setFw h _
  · exact keeps_setFw h _
  · exact keeps_setFw h _
  · exact keeps_setFw h _
  · exact keeps_setFw h _
  · exact keeps_setFw h _
  · exact keeps_setFw h _
  · exact keeps_stmQuery h _
  · exact keeps_ite h (keeps_mk h)
  · exact keeps_applySpec h _
  · exact keeps_ite (keeps_setSpec h _) (keeps_setSpec h _)
  · exact keeps_mk h
  · exact h

theorem keeps_applyHead (h : Keeps s t) : Keeps s (applyHead t) := by
  unfold applyHead
  refine keeps_ite h ?_
  · split
    · exact h
    · exact keeps_fwrApply (keeps_mk h) _

theorem keeps_fwrLate (h : Keeps s t) : Keeps s (fwrLate t) := by
  unfold fwrLate
  split
  · exact h
  · exact keeps_ite h (keeps_ite h (keeps_takeReport (keeps_mk (keeps_ite (keeps_pass h _) h)) _))

/-! ### Dispatch -/

theorem keeps_applyPlaces (h : Keeps s t) : Keeps s (applyPlaces t) := keeps_mk (keeps_foldl h (fun _ _ h => keeps_rerunLost h _) _)

theorem keeps_applyDue (h : Keeps s t) (seq : W64) : Keeps s (applyDue t seq) :=
  keeps_ite h (keeps_foldl (keeps_mk h) (fun _ _ h => keeps_applyChange h _) _)

theorem keeps_writeChunk (h : Keeps s t) (p : Package) (c : Nat) (w : PendWin) : Keeps s (writeChunk t p c w) :=
  keeps_foldl h (fun _ _ h => keeps_writeOrchard h _ _) _

theorem keeps_admitOne (p : Package) (early : Bool) {a : State × List StreamTick × Nat} (h : Keeps s a.1) (x : StreamTick × PendWin) :
    Keeps s (admitOne p early a x).1 := by
  have hok : ∀ (b : Prop) [Decidable b] p l e, Keeps s { a.1 with dp := (if b then offerChunk a.1.dp p l e else (false, a.1.dp)).2 } :=
    fun _ _ _ _ _ => keeps_mk h (hd := fun hd => dpOk_ite_snd (dpOk_offerChunk hd _ _ _) hd)
  refine keeps_ite_fst (keeps_writeChunk (hok _ _ _ _) _ _ _) ?_
  refine keeps_ite (keeps_mk (keeps_modStream (keeps_rerunLost (hok _ _ _ _) _) _ _)) (keeps_mk (keeps_modStream (keeps_rerunLost (hok _ _ _ _) _) _ _))

theorem keeps_admitChunks (h : Keeps s t) (p : Package) (early : Bool) (sts : List StreamTick) : Keeps s (admitChunks t p early sts).1 := by
  refine keeps_foldl_fst ?_ (fun _ _ ha => keeps_admitOne p early ha _) _
  exact h

theorem keeps_takePins (h : Keeps s t) (p : Package) (seq : W64) (sts : List StreamTick) : Keeps s (takePins t p seq sts) :=
  keeps_foldl h (fun _ _ h => (keeps_ite (keeps_modStream h _ _) h)) _

theorem keeps_writeRecords (h : Keeps s t) (p : Package) (d : DispRec) : Keeps s (writeRecords t p d) :=
  keeps_foldl h (fun _ _ h => (keeps_mk (keeps_writeOrchard h _ _) (hd := fun hd => (dpOk_modCore hd _ fun _ hx => by exact hx)))) _

theorem keeps_modSpec (h : Keeps s t) (f : FwrSpec → FwrSpec) : Keeps s (modSpec t f) := keeps_mk h

theorem keeps_latchPred (h : Keeps s t) : Keeps s (latchPred t) := keeps_ite h (keeps_modSpec h _)

theorem keeps_settleCtl (h : Keeps s t) (r : TickRec) : Keeps s (settleCtl t r).1 := by
  unfold settleCtl
  split
  · exact keeps_mk h
  · refine keeps_ite_fst ?_ h
    dsimp only
    exact keeps_modSpec h _

theorem keeps_settleErrs (h : Keeps s t) (t' : TickRec) : Keeps s (settleErrs t t').1 := keeps_ite_fst (keeps_mk h) (keeps_blkFail h _)

theorem keeps_putTick (h : Keeps s t) (t' : TickRec) : Keeps s (putTick t t') := keeps_modTick h _ _

theorem keeps_carryFetches (h : Keeps s t) (p : Package) (early : Bool) : Keeps s (carryFetches t p early) :=
  keeps_foldl h (fun _ _ h => (keeps_ite (keeps_mk h (hd := fun hd => (dpOk_modMeter hd _ _))) h)) _

theorem keeps_dispatchTick (h : Keeps s t) (r : TickRec) (early : Bool) : Keeps s (dispatchTick t r early) := by
  unfold dispatchTick
  have hc := keeps_settleCtl (keeps_latchPred (keeps_applyPlaces (keeps_applyDue h r.seq))) r
  dsimp only
  generalize settleCtl _ _ = c at hc
  have he := keeps_settleErrs hc c.2
  generalize settleErrs _ _ = e at he
  split
  · exact keeps_putTick he _
  · next p _ =>
    have hf := keeps_carryFetches he p early
    generalize carryFetches e.1 p early = u at hf
    refine keeps_ite (keeps_putTick hf _) (keeps_putTick (keeps_mk (t := ite _ _ _) ?_) _)
    have ha := keeps_takePins (keeps_admitChunks hf p early (newStreamTicks u p { e.2 with dispatched := true } early)) p e.2.seq
    exact keeps_ite (ha _) (keeps_writeRecords (ha _) _ _)

theorem keeps_dispatchNow (h : Keeps s t) : Keeps s (dispatchNow t) := by
  unfold dispatchNow
  split
  · exact h
  · refine keeps_ite h (keeps_ite (keeps_reach h _) ?_)
    · split
      · exact keeps_reach h _
      · exact keeps_mk (keeps_dispatchTick (keeps_reach h _) _ _)

theorem keeps_earlyDispatch (h : Keeps s t) : Keeps s (earlyDispatch t) := by
  unfold earlyDispatch
  dsimp only
  split
  · exact h
  · refine keeps_ite h (keeps_ite (keeps_reach h _) (keeps_ite ?_ (keeps_modTick (keeps_modSpec (keeps_reach h _) _) _ _)))
    · split
      · exact keeps_dispatchTick (keeps_modSpec (keeps_reach h _) _) _ _
      · exact keeps_modSpec (keeps_reach h _) _

theorem keeps_offerUpdate (p : Package) (q : W64) (early : Bool) {a : State × List Nat} (h : Keeps s a.1) (u : Update) :
    Keeps s (offerUpdate p q early a u).1 := by
  unfold offerUpdate
  split
  · exact h
  · next ad _ =>
    have hm : Keeps s { a.1 with dp := (meterTry a.1.dp 13 ad.updCyc early).2 } := keeps_mk h (hd := fun hd => dpOk_meterTry hd _ _ _)
    exact keeps_ite_fst h (keeps_ite_fst hm (keeps_modTick (keeps_mk hm) _ _))

theorem keeps_offerUpdates (h : Keeps s t) (r : TickRec) (early : Bool) : Keeps s (offerUpdates t r early) := by
  unfold offerUpdates
  split
  · exact h
  · refine keeps_ite h (keeps_foldl_fst ?_ (fun _ _ ha => keeps_offerUpdate _ _ _ ha _) _)
    exact h

theorem keeps_skipWhere (h : Keeps s t) (seq : W64) (p : StreamTick → Bool) : Keeps s (skipWhere t seq p) := keeps_modTick h _ _

theorem keeps_beginCores (h : Keeps s t) (seq : W64) (early : Bool) : Keeps s (beginCores t seq early) :=
  keeps_stopLate (keeps_mk h (hd := fun hd => (dpOk_foldl hd (fun _ _ hd => (dpOk_ite (dpOk_setCore hd _ (by exact hd.cores _)) hd)) _)))

theorem keeps_computeTick (h : Keeps s t) (r : TickRec) (early : Bool) : Keeps s (computeTick t r early) := by
  have hm := keeps_modTick h r.seq (fun x => { x with computing := true })
  unfold computeTick
  dsimp only
  generalize modTick _ _ _ = u at hm
  refine keeps_ite (keeps_skipWhere hm _ _) (keeps_ite (keeps_withdraw (keeps_skipWhere hm _ _) _) ?_)
  have hs := keeps_skipWhere hm r.seq (fun y => chainRestarting u y.chain)
  generalize skipWhere _ _ _ = v at hs
  split
  · exact hs
  · next q _ =>
    have ho := keeps_offerUpdates hs q early
    generalize offerUpdates v q early = w at ho
    refine keeps_beginCores (keeps_ite ho ?_) _ _
    split
    · exact keeps_writeAdapters ho _
    · exact ho

theorem keeps_computeStart (h : Keeps s t) : Keeps s (computeStart t) := by
  have hgo : ∀ n e, Keeps s (let u := reach t n; if frozen u then u else
      match (if e then u.sp.early else u.sp.cur) with
      | none => u
      | some r => let v := computeTick u r e; if e then v else { v with tkc := { v.tkc with phase := 3 } }) := fun n e => by
    refine keeps_ite (keeps_reach h _) ?_
    split
    · exact keeps_reach h _
    · exact keeps_ite (keeps_computeTick (keeps_reach h _) _ _) (keeps_mk (keeps_computeTick (keeps_reach h _) _ _))
  unfold computeStart
  dsimp only
  split
  · exact hgo _ _
  · exact hgo _ _
  · exact h

/-! ### Outputs -/

theorem keeps_signRecs (h : Keeps s t) (p : Package) (rs : List OutRec) : Keeps s (signRecs t p rs).2 := by
  unfold signRecs
  split
  · exact h
  · exact keeps_formCheck h _ _ _ _ _

theorem keeps_outBytes (h : Keeps s t) (p : Package) (sloe : Bool) (r : OutRec) : Keeps s (outBytes t p sloe r).2 :=
  keeps_ite_snd (keeps_signRecs h _ _) h

/-! ### The pit -/

theorem keeps_updateCount (h : Keeps s t) (p : Package) (x : Stream) : Keeps s (updateCount t p x).2 := by
  unfold updateCount
  split
  · exact keeps_narrowRead h _ _
  · exact h

theorem keeps_commitOne (h : Keeps s t) (p : Package) (y : StreamTick) : Keeps s (commitOne p t y) := by
  unfold commitOne
  dsimp only
  split
  · exact h
  · next x _ =>
    have hm := fun f => keeps_modStream (keeps_updateCount h p x) y.stream f
    split
    · exact keeps_writeOrchard (hm _) _ _
    · exact hm _

theorem keeps_missOne (h : Keeps s t) (p : Package) (seq : W64) (y : StreamTick) : Keeps s (missOne p seq t y) := by
  unfold missOne
  split
  · exact h
  · exact keeps_modStream (keeps_ite (keeps_mk (keeps_ite (keeps_rerunLost h _) h)) (keeps_ite (keeps_rerunLost h _) h)) _ _

theorem keeps_dropOlder (h : Keeps s t) (y : StreamTick) : Keeps s (dropOlder t y) := by
  unfold dropOlder
  split
  · exact keeps_ite (keeps_modStream (keeps_mk (keeps_rerunLost h _)) _ _) h
  · exact h

theorem keeps_settleOne (h : Keeps s t) (p : Package) (seq : W64) (y : StreamTick) : Keeps s (settleOne p seq t y) :=
  keeps_ite (keeps_dropOlder (keeps_commitOne h _ _) _) (keeps_missOne h _ _ _)

theorem keeps_retainOne (h : Keeps s t) (p : Package) (y : StreamTick) : Keeps s (retainOne p t y) := by
  unfold retainOne
  split
  · exact h
  · exact keeps_mk h

theorem keeps_endUpdate (h : Keeps s t) (seq : W64) (mine : LrnPlace → Bool) (commit : Bool) : Keeps s (endUpdate t seq mine commit) :=
  keeps_mk h

theorem keeps_endOwn (h : Keeps s t) (seq : W64) (y : StreamTick) : Keeps s (endOwn seq t y) := by
  unfold endOwn
  split
  · exact keeps_ite (keeps_endUpdate h _ _ _) h
  · exact h

theorem keeps_endGroup (h : Keeps s t) (seq : W64) (sts : List StreamTick) (g : Byte) : Keeps s (endGroup seq sts t g) :=
  keeps_ite h (keeps_ite (keeps_mk (keeps_endUpdate h _ _ _)) (keeps_endUpdate h _ _ _))

theorem keeps_discardWhere (h : Keeps s t) (seq : W64) (p : StreamTick → Bool) : Keeps s (discardWhere t seq p) := by
  unfold discardWhere
  exact keeps_modSpec (keeps_modTick (keeps_maskNow h _ _) _ _) _

theorem keeps_confirm (h : Keeps s t) (seq : W64) : Keeps s (confirm t seq) :=
  keeps_modTick (keeps_settleFlags (keeps_discardWhere h _ _) _ _) _ _

theorem keeps_confirmOwn (h : Keeps s t) (t' : TickRec) : Keeps s (confirmOwn t t') :=
  keeps_ite h (keeps_ite (keeps_ite (keeps_settleFlags h _ _) (keeps_modSpec (keeps_settleFlags h _ _) _)) (keeps_confirm h _))

theorem keeps_confirmEarly (h : Keeps s t) (t' : TickRec) : Keeps s (confirmEarly t t') := by
  unfold confirmEarly
  split
  · exact h
  · exact keeps_ite h (keeps_ite (keeps_discardWhere (keeps_modTick h _ _) _ _) (keeps_confirm (keeps_modTick h _ _) _))

theorem keeps_endQueues (h : Keeps s t) (q : W64) : Keeps s (endQueues t q) := by
  have hw : Keeps s (withdraw ((((allCores.filter (fun c => mustRestart (vget t.dp.cores c) q)).filterMap (chainOf t)).eraseDups).foldl
      (fun s ch => callRestart s ch q false) t) q) := keeps_withdraw (keeps_foldl h (fun _ _ h => keeps_callRestart h _ _ _) _) _
  exact keeps_foldl (keeps_mk hw (hd := fun hd => dpOk_mk_map hd fun _ hx => coreOk_endTick hx q)) (fun _ _ h => keeps_drainCp h _) _

theorem keeps_afterPins (h : Keeps s t) : Keeps s (afterPins t) :=
  keeps_foldl (keeps_foldl h (fun _ _ h => keeps_startLeaving h _) _) (fun _ _ h => keeps_initReplaces h _) _

theorem keeps_countOuts (h : Keeps s t) (sts : List StreamTick) (unlisted : Nat) : Keeps s (countOuts t sts unlisted) := keeps_mk h

theorem keeps_checkVerdicts (h : Keeps s t) (t' : TickRec) : Keeps s (checkVerdicts t t') := keeps_ite h (keeps_ite (keeps_declareDown h) h)

theorem keeps_sendDelta (h : Keeps s t) (t' : TickRec) (groups : List Byte) : Keeps s (sendDelta t t' groups) :=
  keeps_ite (keeps_buildDelta (keeps_abandonDelta h) _ _ _) h

/-- What the pit settles of the streams of a tick and of their own adapters. -/
theorem keeps_settleTick (h : Keeps s t) (p : Option Package) (r : TickRec) :
    Keeps s (r.sts.foldl (endOwn r.seq) (match p with
      | none => t
      | some p => r.sts.foldl (settleOne p r.seq) (r.sts.foldl (retainOne p) t))) := by
  refine keeps_foldl ?_ (fun _ _ h => keeps_endOwn h _ _) _
  split
  · exact h
  · exact keeps_foldl (keeps_foldl h (fun _ _ h => keeps_retainOne h _ _) _) (fun _ _ h => keeps_settleOne h _ _ _) _

theorem keeps_commitTick (h : Keeps s t) (r : TickRec) : Keeps s (commitTick t r) := by
  unfold commitTick
  extract_lets v
  have hv : Keeps s v := keeps_checkVerdicts (keeps_confirmOwn h r) r
  clear_value v
  split
  · exact hv
  · extract_lets n x w was y z o groups c e a pubs tkc sp b d f dp fwr g
    have hw : Keeps s w := keeps_putTick hv x
    have hz : Keeps s z := keeps_settleTick hw (taskPkg w) x
    have ho : Keeps s o := keeps_foldl hz (fun _ _ h => keeps_endGroup h _ _ _) _
    have ha : Keeps s a := keeps_afterPins (keeps_confirmEarly (keeps_endQueues (keeps_countOuts (keeps_releasePins ho _) _ _) _) _)
    have hd : Keeps s d := keeps_sendDelta (keeps_mk ha) _ _
    clear_value d
    have hg : Keeps s g := keeps_mk hd (hd := fun hk => dpOk_mk hk)
    clear_value g
    exact keeps_mk hg

theorem keeps_pit (h : Keeps s t) : Keeps s (pit t) := by
  unfold pit
  split
  · exact h
  · refine keeps_ite h (keeps_ite (keeps_reach h _) ?_)
    · split
      · exact keeps_commitTick (keeps_reach h _) _
      · exact keeps_reach h _

/-! ### The loader -/

theorem keeps_takeDesc (h : Keeps s t) (n : BitVec 4) (type : Byte) (tag : W32) (bytes : List Byte) (crc : W32) (typeOk : Bool)
    {act : State → W64 → State} (hact : ∀ u q, Keeps s u → Keeps s (act u q)) : Keeps s (takeDesc t n type tag bytes crc typeOk act) := by
  unfold takeDesc
  refine keeps_ite h ?_
  dsimp only
  have hc := keeps_checkDesc (keeps_takeHead h n) n (vget t.hif.sqs n).seq bytes crc typeOk
  split
  · exact keeps_complete (keeps_takeReport hc _) _ _ _ _ _ _ _
  · exact hact _ _ hc

theorem keeps_scrubTask (h : Keeps s t) : Keeps s (scrubTask t) :=
  keeps_mk h (hd := fun hd => (dpOk_foldl hd (fun _ _ hd => (dpOk_scrubSpan hd _)) _))

theorem keeps_settleData (h : Keeps s t) : Keeps s (settleData t) := keeps_mk h (hd := fun hd => (dpOk_passLandings hd _))

theorem keeps_endTask (h : Keeps s t) : Keeps s (endTask t) :=
  keeps_mk (keeps_leaveOwn (keeps_leaveOwn (keeps_mk (keeps_scrubTask (keeps_settleData h)) (hd := fun hd => (dpOk_mk_map hd fun _ hx => by
    exact hx))) _ _) _ _)

theorem keeps_unloadTask (h : Keeps s t) (d : BareDesc) (q : W64) : Keeps s (unloadTask t d q) :=
  keeps_ite (keeps_complete h _ _ _ _ _ _ _) (keeps_complete (keeps_endTask h) _ _ _ _ _ _ _)

theorem keeps_setLdr (h : Keeps s t) (l : FwrLdr) : Keeps s (setLdr t l) := keeps_mk h

theorem keeps_requestLoad (h : Keeps s t) (d : LoadDesc) (q : W64) : Keeps s (requestLoad t d q) :=
  keeps_ite (keeps_complete h _ _ _ _ _ _ _) (keeps_ite (keeps_complete (keeps_setLdr h _) _ _ _ _ _ _ _) (keeps_setLdr (keeps_mk h) _))

theorem keeps_sectionsOk (h : Keeps s t) (n : Nat) (l : List (List Byte × W32)) : Keeps s (sectionsOk t n l).2 := by
  induction l generalizing t n with
  | nil => exact h
  | cons x l ih =>
    unfold sectionsOk
    exact keeps_ite_snd (ih (keeps_formCheck h _ _ _ _ _) _) (keeps_formCheck h _ _ _ _ _)

theorem keeps_checkPackage (h : Keeps s t) (p : Package) : Keeps s (checkPackage t p).2 := by
  have hs := keeps_sectionsOk h 0 p.sections
  unfold checkPackage
  generalize sectionsOk t 0 p.sections = c at hs
  refine keeps_ite_snd h (keeps_ite_snd hs (keeps_ite_snd hs (keeps_ite_snd hs (keeps_ite_snd hs ?_))))
  split
  · dsimp only
    exact keeps_takeReport hs _
  · exact hs

theorem keeps_scrubAll (h : Keeps s t) : Keeps s (scrubAll t) :=
  keeps_mk h (hd := fun hd => dpOk_mk_map hd (fun x _ => coreOk_ungate x) (hd := fun _ => memOk_nil))

theorem keeps_packageCheck (h : Keeps s t) (p : Package) : Keeps s (packageCheck t p) := by
  unfold packageCheck
  dsimp only
  split
  · exact h
  · refine keeps_ite h ?_
    · split
      · exact keeps_ite (keeps_scrubAll (keeps_mk (keeps_checkPackage h _))) (keeps_mk (keeps_checkPackage h _))
      · exact keeps_complete (keeps_setLdr (keeps_mk (keeps_checkPackage h _)) _) _ _ _ _ _ _ _

theorem keeps_fillRegs (h : Keeps s t) (j : LoadJob) (p : Package) : Keeps s (fillRegs t j p) :=
  keeps_ppFit (keeps_ite (keeps_moveOwn (keeps_ite (keeps_moveOwn (keeps_mk h) _ _ _) (keeps_mk h)) _ _ _) (keeps_ite (keeps_moveOwn
    (keeps_mk h) _ _ _) (keeps_mk h)))

theorem keeps_loaderFill (h : Keeps s t) : Keeps s (loaderFill t) := by
  unfold loaderFill
  split
  · have hp := fun n => keeps_pass h n
    exact keeps_ite h (keeps_ite h (keeps_ite (hp _) (keeps_complete (keeps_takeReports (keeps_fillRegs
      (keeps_mk (hp _) (hd := fun hd => dpOk_fillDp hd _)) _ _) _) _ _ _ _ _ _ _)))
  · exact h

/-! ### Publishing -/

theorem keeps_writeJournal (h : Keeps s t) (t' : TickRec) (outs : Nat) (comps : Nat) : Keeps s (writeJournal t t' outs comps) := by
  unfold writeJournal
  split
  · exact keeps_ite (keeps_writeOrchard h _ _) h
  · exact h

theorem keeps_postOutputs (h : Keeps s t) (p : Package) (t' : TickRec) : Keeps s (postOutputs t p t') :=
  keeps_foldl (keeps_noteRows h _) (fun _ _ h => (keeps_postRecord (keeps_outBytes h _ _ _) _ _)) _

theorem keeps_pitEvent (h : Keeps s t) (t' : TickRec) : Keeps s (pitEvent t t') := keeps_postEvent h _ _ _

theorem keeps_finishPublish (h : Keeps s t) : Keeps s (finishPublish t) := by
  unfold finishPublish
  split
  · exact keeps_ite (keeps_finishRun (keeps_pitEvent (keeps_mk h) _)) h
  · exact keeps_finishRun h

theorem keeps_queueRecords (h : Keeps s t) (t' : TickRec) : Keeps s (queueRecords t t') := by
  unfold queueRecords
  refine keeps_mk (keeps_foldl ?_ (fun _ _ h => keeps_postCompletion h _ _ _) _)
  · split
    · exact keeps_postOutputs (keeps_writeJournal h _ _ _) _ _
    · exact keeps_writeJournal h _ _ _

theorem keeps_publish (h : Keeps s t) : Keeps s (publish t) := by
  unfold publish
  refine keeps_ite h ?_
  · split
    · exact keeps_finishPublish (keeps_ite h (keeps_queueRecords h _))
    · exact keeps_finishRun h

theorem keeps_drainLog (h : Keeps s t) : Keeps s (drainLog t) := by
  unfold drainLog
  split
  · exact h
  · exact keeps_ite h (keeps_ite (keeps_mk h (hd := fun hd => (dpOk_meterAsk hd _ _ _))) (keeps_postRecord (keeps_mk h (hd := fun hd =>
      (dpOk_meterAsk hd _ _ _))) _ _))

theorem keeps_ringEntry (h : Keeps s t) (r : RingId) (resp : BitVec 2) : Keeps s (ringEntry t r resp) :=
  keeps_finishPublish (keeps_writeEntry (keeps_ite (keeps_drainLog h) h) _ _)

/-! ### A run -/

theorem keeps_acceptStart (h : Keeps s t) : Keeps s (acceptStart t) := keeps_mk h

theorem keeps_runOn (h : Keeps s t) : Keeps s (runOn t) :=
  keeps_ite h (keeps_ite (keeps_ite (keeps_mk h) (keeps_mk h)) (keeps_ite (keeps_mk h) (keeps_ite (keeps_acceptStart h) (keeps_mk h))))

theorem keeps_runOff (h : Keeps s t) : Keeps s (runOff t) := keeps_ite h (keeps_ite (keeps_mk h) (keeps_ite (keeps_mk h) (keeps_mk h)))

theorem keeps_writeSource (h : Keeps s t) (src : Bool) (fly : Bool) : Keeps s (writeSource t src fly) :=
  keeps_ite h (keeps_ite (keeps_mk h) (keeps_mk h))

theorem keeps_writeOutEn (h : Keeps s t) (on : Bool) : Keeps s (writeOutEn t on) :=
  keeps_ite h (keeps_ite (keeps_leaveOwn (keeps_mk h) _ _) (keeps_ite (keeps_moveOwn (keeps_mk (keeps_refuseOwn (keeps_moveOwn (keeps_mk h) _
    _ _) _ _)) _ _ _) (keeps_ite (keeps_moveOwn (keeps_mk h) _ _ _) (keeps_refuseOwn h _ _))))

theorem keeps_writeTkcCtrl (h : Keeps s t) (run : Bool) (src : Bool) (fly : Bool) (outEn : Bool) : Keeps s (writeTkcCtrl t run src fly outEn) :=
  keeps_ite (keeps_runOn (keeps_writeOutEn (keeps_writeSource h _ _) _)) (keeps_runOff (keeps_writeOutEn (keeps_writeSource h _ _) _))

theorem keeps_killCmd (h : Keeps s t) (x : TickCmd × W64) : Keeps s (killCmd t x) := keeps_postCompletion h _ _ _

theorem keeps_kill (h : Keeps s t) : Keeps s (kill t) :=
  keeps_ite (keeps_mk h) (keeps_postEvent (keeps_ite (keeps_postEvent (keeps_mapMeters (keeps_mk (keeps_endTask (keeps_mk (keeps_foldl h (fun
    _ _ h => (keeps_killCmd h _)) _))) (hd := fun hd => (dpOk_mk hd))) _) _ _ _) (keeps_mapMeters (keeps_mk (keeps_endTask (keeps_mk (keeps_foldl h
      (fun _ _ h => keeps_killCmd h _) _))) (hd := fun hd => (dpOk_mk hd))) _)) _ _ _)

/-! ### Boot -/

theorem keeps_startBoot (h : Keeps s t) : Keeps s (startBoot t) := keeps_mk h

theorem keeps_bootGo (h : Keeps s t) : Keeps s (bootGo t) := keeps_ite h (keeps_ite (keeps_mk h) (keeps_startBoot h))

theorem keeps_failBoot (h : Keeps s t) (reason : Byte) : Keeps s (failBoot t reason) := keeps_mk h

theorem memOk_loadSections {p : ProcRec} (h : MemOk p.mem) (img : List Byte) (l : List Section) : MemOk (p.loadSections img l).mem := by
  unfold ProcRec.loadSections
  dsimp only
  generalize p.mem = m at h
  induction l generalizing m with
  | nil => exact h
  | cons x l ih => exact ih _ (memOk_memWrite h _ _)

theorem keeps_loadImage (h : Keeps s t) (img : List Byte) : Keeps s (loadImage t img) := by
  refine keeps_mk h (hp := fun hp => ⟨memOk_loadSections hp.1 _ _, memOk_loadSections hp.2.1 _ _, memOk_loadSections hp.2.2.1 _ _,
    procsOk_foldl hp (fun v a hv k => ?_) _⟩)
  split
  · exact memOk_vset hv (memOk_loadSections (hv _) _ _) k
  · exact hv k

theorem memOk_lock {p : ProcRec} (h : MemOk p.mem) (img : List Byte) (n : Nat) : MemOk (p.lock img n).mem := h

theorem keeps_releaseBoot (h : Keeps s t) (img : List Byte) (measure : BitVec 256) : Keeps s (releaseBoot t img measure) := by
  unfold releaseBoot
  refine keeps_mk h (hp := fun hp => ⟨hp.1, hp.2.1, hp.2.2.1, procsOk_foldl hp (fun _ _ hv k => ?_) _⟩)
  exact memOk_vset hv (by exact hv _) k

theorem keeps_bootChecked (h : Keeps s t) (resp : BitVec 2) (bytes : List Byte) (sigOk : Bool) (measure : BitVec 256) : Keeps s (bootChecked t resp
    bytes sigOk measure) :=
  keeps_ite h (keeps_ite (keeps_failBoot h _) (keeps_ite (keeps_failBoot h _) (keeps_ite (keeps_failBoot h _) (keeps_ite (keeps_failBoot
    (keeps_loadImage h _) _) (keeps_ite (keeps_failBoot (keeps_loadImage h _) _) (keeps_ite (keeps_failBoot (keeps_loadImage h _) _)
      (keeps_releaseBoot (keeps_loadImage h _) _ _)))))))

theorem keeps_senseIdentity (h : Keeps s t) : Keeps s (senseIdentity t) := keeps_ite (keeps_startBoot (keeps_mk h)) (keeps_mk h)

theorem keeps_attestGo (h : Keeps s t) (att : Bool) (cert : Bool) : Keeps s (attestGo t att cert) := keeps_ite (keeps_mk h) (keeps_mk h)

theorem keeps_writeAttest (h : Keeps s t) : Keeps s (writeAttest t) := by
  refine keeps_mk h (hd := fun hd => dpOk_mk hd (hx := fun hm => ?_))
  have h1 : MemOk (if t.sec.attPend then memWrite t.dp.ext t.sec.attAddr.toNat (attestReport t) else t.dp.ext) := by
    split
    · exact memOk_memWrite hm _ _
    · exact hm
  split
  · exact memOk_memWrite h1 _ _
  · exact h1

theorem keeps_failAttest (h : Keeps s t) (code : BitVec 7) : Keeps s (failAttest t code) := keeps_mk h

theorem keeps_attestDone (h : Keeps s t) (resp : BitVec 2) : Keeps s (attestDone t resp) :=
  keeps_ite h (keeps_ite (keeps_failAttest h _) (keeps_ite (keeps_failAttest (keeps_mk h (hd := fun hd => (dpOk_mk hd))) _)
    (keeps_writeAttest h)))

theorem keeps_resetAll (h : Keeps s t) : Keeps s (resetAll t) := by
  unfold resetAll
  refine ⟨h.pending, h.otp, fun hd => dpOk_mk dpOk_reset (hx := fun _ => (h.dp hd).ext), fun _ => ⟨memOk_nil, memOk_nil, memOk_nil, fun k => ?_⟩⟩
  simp only [State.reset, vget, Vector.getElem_replicate]
  exact memOk_nil

/-! ### Debug -/

theorem keeps_capture (h : Keeps s t) (ir : BitVec 5) (dr : BitVec 256) : Keeps s (capture t ir dr) := keeps_mk h

theorem keeps_freeDigest (h : Keeps s t) : Keeps s (freeDigest t).2 := keeps_mk h (hd := fun hd => (dpOk_mk hd))

theorem keeps_challenge (h : Keeps s t) (nonce : BitVec 256) : Keeps s (challenge t nonce) :=
  keeps_ite (keeps_mk (keeps_capture (keeps_freeDigest h) _ _)) (keeps_mk (keeps_capture h _ _))

theorem keeps_unlockDecided (h : Keeps s t) (sigOk : Bool) (virell : Bool) (keyMatch : Bool) : Keeps s (unlockDecided t sigOk virell keyMatch) := by
  unfold unlockDecided
  split
  · exact h
  · exact keeps_ite h (keeps_ite (keeps_mk h) (keeps_mk h))

theorem keeps_setStatus (h : Keeps s t) (status : Nat) : Keeps s (setStatus t status) := keeps_mk h

theorem keeps_refuseCmd (h : Keeps s t) : Keeps s (refuseCmd t) := keeps_setStatus h _

theorem keeps_command (h : Keeps s t) (level : Nat) (ok : State → Bool) {act : State → State} (hact : ∀ u, Keeps s u → Keeps s (act u)) :
    Keeps s (command t level ok act) := by
  have hd : Keeps s { t with dbg := { t.dbg with ir := 0x13 } } := keeps_mk h
  exact keeps_ite hd (keeps_ite (keeps_refuseCmd hd) (hact _ hd))

theorem keeps_leaveHalt (h : Keeps s t) : Keeps s (leaveHalt t) :=
  keeps_ite (keeps_ite (keeps_enterService h) h) (keeps_ite (keeps_mk (keeps_ite (keeps_enterService h) h)) (keeps_ite (keeps_mk (keeps_ite
    (keeps_enterService h) h)) (keeps_mk (keeps_ite (keeps_enterService h) h))))

theorem keeps_stepIssue (h : Keeps s t) (k : BitVec 3) (q : Queue) (i : Iss) {eff : Bool → Work → Work} (heff : EffKept eff) :
    Keeps s (stepIssue t k q i eff) := by
  refine keeps_pass (keeps_pass (keeps_mk (keeps_issueNow (keeps_mk h (hd := fun hd => ?_)) _ _ _ heff) (hd := fun hd => ?_)) _) _
  · exact dpOk_modCore hd _ fun _ hx => by exact hx
  · exact dpOk_modCore hd _ fun _ hx => by split <;> exact hx

theorem keeps_stepCommand (h : Keeps s t) (c : DbgCmd) : Keeps s (stepCommand t c) := by
  unfold stepCommand
  split
  · exact h
  · split
    · exact h
    · next he => exact keeps_ite (keeps_stepIssue h _ _ _ (effKept_effectOf he)) (keeps_setHold h _ _ _)

theorem keeps_readBuffer (h : Keeps s t) (k : BitVec 3) (kind gran : Nat) : Keeps s (readBuffer t k kind gran).2 := by
  unfold readBuffer
  dsimp only
  split
  · exact h
  · exact h
  · exact keeps_mk h (hd := fun hd => dpOk_mk hd)
  · exact h
  · exact h
  · exact h

theorem keeps_readRowGran (h : Keeps s t) (g : Nat) : Keeps s (readRowGran t g).2 := by
  unfold readRowGran
  dsimp only
  split
  · exact h
  · exact keeps_freeDigest h

theorem keeps_readPlace (h : Keeps s t) (p : DbgPlace) : Keeps s (readPlace t p).2 := by
  cases p with
  | row g => exact keeps_readRowGran h g
  | buffer k kind g => exact keeps_readBuffer h k kind g
  | priv | otp | absent | refused => exact h

theorem keeps_writePlace (h : Keeps s t) (p : DbgPlace) : Keeps s (writePlace t p) := by
  cases p with
  | row g =>
    refine keeps_ite (keeps_refuseCmd h) (keeps_ite (keeps_refuseCmd (keeps_takeReport h _)) (keeps_setStatus (keeps_mk h (hd := fun hd => ?_)) _))
    exact dpOk_mk hd (hd := fun hm => memOk_memWrite hm _ _)
  | buffer k kind g =>
    exact keeps_ite (keeps_refuseCmd h) (keeps_setStatus (keeps_mk h (hd := fun hd => dpOk_modCore hd _ fun _ hx => coreOk_writeBuffer hx _ _ _)) _)
  | priv p g => exact keeps_setStatus (keeps_setProc h p (fun hp => memOk_memWrite (memOk_getProc hp p) _ _)) _
  | otp => exact keeps_refuseCmd h
  | absent => exact keeps_setStatus h _
  | refused => exact keeps_refuseCmd h

theorem keeps_claimTrace (h : Keeps s t) : Keeps s (claimTrace t) :=
  keeps_ite h (keeps_ite (keeps_moveOwn (keeps_mk (keeps_refuseOwn (keeps_moveOwn (keeps_mk h) _ _ _) _ _)) _ _ _) (keeps_ite (keeps_moveOwn
    (keeps_mk h) _ _ _) (keeps_refuseOwn h _ _)))

theorem keeps_claimMarker (h : Keeps s t) : Keeps s (claimMarker t) :=
  keeps_ite h (keeps_ite (keeps_moveOwn (keeps_mk h) _ _ _) (keeps_refuseOwn h _ _))

theorem keeps_releaseTrace (h : Keeps s t) : Keeps s (releaseTrace t) := keeps_leaveOwn (keeps_mk h) _ _

theorem keeps_releaseMarker (h : Keeps s t) : Keeps s (releaseMarker t) := keeps_leaveOwn (keeps_mk h) _ _

/-! ### Pairing -/

theorem keeps_refuseAttach (h : Keeps s t) : Keeps s (refuseAttach t) := keeps_twinReport (keeps_mk (keeps_ite h (keeps_refuseOwn h _ _))) _ _

theorem keeps_decideAttach (h : Keeps s t) : Keeps s (decideAttach t) := by
  unfold decideAttach
  split
  · exact keeps_ite h (keeps_ite (keeps_callChange (keeps_setL3 h _ _) _) (keeps_refuseAttach h))
  · exact h

theorem keeps_twnAttach (h : Keeps s t) : Keeps s (twnAttach t) := keeps_ite h (keeps_decideAttach (keeps_sendAll (keeps_mk h) _))

theorem keeps_twnDetach (h : Keeps s t) : Keeps s (twnDetach t) := keeps_ite h (keeps_callDetach (keeps_sendAll h _) _)

theorem keeps_callQuiet (h : Keeps s t) : Keeps s (callQuiet t) := keeps_ite h (keeps_sendAll (keeps_mk h) _)

theorem keeps_twnTakeover (h : Keeps s t) : Keeps s (twnTakeover t) := by
  unfold twnTakeover
  split
  · exact keeps_callTakeover h
  · exact keeps_callQuiet h
  · exact h

theorem keeps_hello (h : Keeps s t) (h' : HelloInfo) : Keeps s (hello t h') :=
  keeps_ite (keeps_decideAttach (keeps_mk (keeps_goodFrame h _))) (keeps_goodFrame h _)

theorem keeps_stateRequest (h : Keeps s t) (seq : W64) : Keeps s (stateRequest t seq) := by
  unfold stateRequest
  dsimp only
  split
  · exact keeps_ite (keeps_mk (keeps_goodFrame h _)) (keeps_goodFrame h _)
  · exact keeps_ite (keeps_mk (keeps_goodFrame h _)) (keeps_goodFrame h _)
  · exact keeps_goodFrame h _

theorem keeps_align (h : Keeps s t) (seq : W64) (skew : Nat) : Keeps s (align t seq skew) :=
  keeps_ite (keeps_callDetach (keeps_twinReport (keeps_mk (keeps_goodFrame h _)) _ _) _) (keeps_mk (keeps_goodFrame h _))

theorem keeps_frameDiscard (h : Keeps s t) (beats : BitVec 8) : Keeps s (frameDiscard t beats) :=
  keeps_ite (keeps_declareDown (keeps_mk (keeps_receiveBeats h _))) (keeps_mk (keeps_receiveBeats h _))

theorem keeps_freeSig (h : Keeps s t) : Keeps s (freeSig t).2 := keeps_mk h (hd := fun hd => (dpOk_mk hd))

theorem keeps_sealPlace (p : Package) (r : TickRec) {a : State × List W64 × W64} (h : Keeps s a.1) (n : Nat) : Keeps s (sealPlace p r a n).1 := by
  unfold sealPlace
  split
  · exact keeps_signRecs (keeps_noteRows h _) _ _
  · exact keeps_freeSig h

theorem keeps_sealGroup (h : Keeps s t) (p : Package) (r : TickRec) (g : Nat) : Keeps s (sealGroup p r t g) := by
  have hs : Keeps s ((((List.range (min 64 (p.places.length - 64 * g))).map (fun k => 64 * g + k)).foldl (sealPlace p r) (t, [], 0)).1) :=
    keeps_foldl_fst (a := (t, _)) h (fun _ _ ha => keeps_sealPlace p r ha _) _
  exact keeps_sendAll (keeps_mk hs) _

theorem keeps_disagree (h : Keeps s t) (place : Nat) : Keeps s (disagree t place) := by
  unfold disagree
  dsimp only
  split
  · exact keeps_twinReport (keeps_mk h) _ _
  · exact keeps_mk h

theorem keeps_takeVerdict (h : Keeps s t) (v : VerdictRec) (selftest : Bool) : Keeps s (takeVerdict t v selftest) :=
  keeps_ite (keeps_callChange (keeps_foldl (keeps_mk h) (fun _ _ h => keeps_disagree h _) _) _) (keeps_foldl (keeps_mk h) (fun _ _ h =>
    (keeps_disagree h _)) _)

theorem keeps_decideGroup (h : Keeps s t) (m : SigRec) : Keeps s (decideGroup t m) := by
  unfold decideGroup
  split
  · exact h
  · exact keeps_ite h (keeps_takeVerdict (keeps_sendAll h _) _ _)

theorem keeps_decideGroups (h : Keeps s t) : Keeps s (decideGroups t) := keeps_ite h (keeps_foldl h (fun _ _ h => keeps_decideGroup h _) _)

theorem keeps_sealNow (h : Keeps s t) : Keeps s (sealNow t) := by
  unfold sealNow
  split
  · refine keeps_ite h (keeps_ite (keeps_reach h _) ?_)
    · split
      · exact keeps_reach h _
      · exact keeps_decideGroups (keeps_modTick (keeps_foldl (keeps_reach h _) (fun _ _ h => keeps_sealGroup h _ _ _) _) _ _)
  · exact h

theorem keeps_sigFrame (h : Keeps s t) (seq : W64) (group : W16) (sigs : List W64) (bitmap : W64) : Keeps s (sigFrame t seq group sigs bitmap) :=
  keeps_ite (keeps_goodFrame h _) (keeps_decideGroups (keeps_mk (keeps_goodFrame h _)))

theorem keeps_verdictFrame (h : Keeps s t) (v : VerdictRec) (selftest : Bool) : Keeps s (verdictFrame t v selftest) :=
  keeps_ite (keeps_goodFrame h _) (keeps_takeVerdict (keeps_goodFrame h _) _ _)

theorem keeps_linkVerdict (h : Keeps s t) (seq : W64) (g : Nat) : Keeps s (linkVerdict seq t g) :=
  keeps_ite h (keeps_takeVerdict (keeps_sendAll h _) _ _)

theorem keeps_verdictDeadline (h : Keeps s t) : Keeps s (verdictDeadline t) := by
  unfold verdictDeadline
  split
  · exact keeps_ite h (keeps_ite (keeps_reach h _) (keeps_modTick (keeps_foldl (keeps_reach h _) (fun _ _ h => keeps_linkVerdict h _ _) _) _ _))
  · exact h

theorem keeps_settleTest (h : Keeps s t) : Keeps s (settleTest t) := by
  unfold settleTest
  refine keeps_ite h ?_
  · split
    · exact keeps_callChange (keeps_ite h (keeps_twinReport h _ _)) _
    · exact h

theorem keeps_testEnds (h : Keeps s t) (pass : Bool) (peerLate : Bool) : Keeps s (testEnds t pass peerLate) :=
  keeps_ite h (keeps_ite (keeps_pass h _) (keeps_settleTest (keeps_foldl (keeps_mk (keeps_sendAll (keeps_pass h _) _)) (fun _ _ h =>
    (keeps_callRestart h _ _ _)) _)))

theorem keeps_tableChange (h : Keeps s t) (seq : W64) (c : TableChange) : Keeps s (tableChange t seq c) := by
  unfold tableChange
  refine keeps_ite (keeps_goodFrame h _) ?_
  · split
    · exact keeps_applyChange (keeps_goodFrame h _) _
    · exact keeps_mk (keeps_goodFrame h _)
    · exact keeps_mk (keeps_goodFrame h _)
    · exact keeps_goodFrame h _

theorem keeps_writeInitRow (h : Keeps s t) (p : Package) (x : Stream) (k : Nat) (data : List Byte) : Keeps s (writeInitRow t p x k data) := by
  unfold writeInitRow
  split
  · exact keeps_writeOrchard (keeps_modStream h _ _) _ _
  · exact h

theorem keeps_writeDeltaRow (h : Keeps s t) (p : Package) (r : DeltaRow) (data : List Byte) : Keeps s (writeDeltaRow t p r data) := by
  unfold writeDeltaRow
  refine keeps_ite ?_ ?_
  · split
    · exact keeps_ite (keeps_writeOrchard h _ _) h
    · exact h
  · split
    · exact h
    · refine keeps_ite (keeps_ite (keeps_writeInitRow h _ _ _ _) h) ?_
      have hrow : ∀ o, Keeps s (match o with | some b => writeOrchard t (b + r.row) data | none => t) := fun o => by
        cases o with
        | none => exact h
        | some b => exact keeps_writeOrchard h _ _
      dsimp only
      split
      · exact keeps_writeOrchard (hrow _) _ _
      · exact hrow _

theorem keeps_deltaFrame (h : Keeps s t) (stream : W16) (group : Byte) (row : Nat) (data : List Byte) : Keeps s (deltaFrame t stream group row
    data) := by
  unfold deltaFrame
  dsimp only
  split
  · exact keeps_mk (keeps_foldl (keeps_goodFrame h _) (fun _ _ h => keeps_writeDeltaRow h _ _ _) _)
  · exact keeps_goodFrame h _

theorem keeps_keepRows (h : Keeps s t) (p : Package) (x : Stream) (got : List Nat) : Keeps s (keepRows t p x got) := by
  unfold keepRows
  split
  · exact keeps_foldl h (fun _ _ h => (keeps_writeOrchard (keeps_noteRows h _) _ _)) _
  · exact h

theorem keeps_flipStream (h : Keeps s t) (p : Package) (rows : List DeltaRow) (id : W16) : Keeps s (flipStream p rows t id) := by
  unfold flipStream
  split
  · exact h
  · refine keeps_ite h (keeps_modStream ?_ _ _)
    split
    · exact keeps_narrowRead (keeps_keepRows h _ _ _) _ _
    · exact keeps_keepRows h _ _ _

theorem keeps_applyDelta (h : Keeps s t) (p : Package) (seq : W64) : Keeps s (applyDelta t p seq) :=
  keeps_mk (keeps_foldl (keeps_mk (keeps_mk (keeps_foldl h (fun _ _ h => keeps_flipStream h _ _ _) _))) (fun _ _ h => keeps_applyChange h
    _) _)

theorem keeps_deltaEnds (h : Keeps s t) (seq : W64) (frames : W32) (abandon : Bool) : Keeps s (deltaEnds t seq frames abandon) := by
  unfold deltaEnds
  dsimp only
  split
  · exact keeps_ite (keeps_applyDelta (keeps_goodFrame h _) _ _) (keeps_mk (keeps_goodFrame h _))
  · exact keeps_goodFrame h _

theorem keeps_sendDeltaFrame (h : Keeps s t) (m : BitVec 4) (f : Frame) : Keeps s (sendDeltaFrame t m f).2 := by
  unfold sendDeltaFrame
  dsimp only
  split
  · exact h
  · generalize hu : (if f.type = 6 then (true, none, t.dp) else meterAsk t.dp m (frameUnits f) t.twn.deltaTicket : Bool × Option Nat × Dp) = u
    have hm : ∀ x, Keeps s { t with dp := u.2.2, twn := x } := fun x => by
      refine keeps_mk h (hd := fun hd => ?_)
      rw [← hu]
      split
      · exact hd
      · exact dpOk_meterAsk hd _ _ _
    exact keeps_ite_snd (hm _) (keeps_sendAll (keeps_mk (hm { t.twn with deltaTicket := u.2.1 })) _)

theorem keeps_sendDeltas (h : Keeps s t) (m : BitVec 4) (l : List Frame) : Keeps s (sendDeltas m t l) := by
  induction l generalizing t with
  | nil =>
    unfold sendDeltas
    split
    · exact keeps_mk h
    · exact h
  | cons f l ih => exact keeps_ite (ih (keeps_sendDeltaFrame h m f)) (keeps_sendDeltaFrame h m f)

theorem keeps_deltaSends (h : Keeps s t) : Keeps s (deltaSends t) := by
  unfold deltaSends
  refine keeps_ite h ?_
  · split
    · exact keeps_sendDeltas h _ _
    · exact h

theorem keeps_deltaAbandons (h : Keeps s t) : Keeps s (deltaAbandons t) := by
  unfold deltaAbandons
  split
  · exact keeps_ite (keeps_ite (keeps_reach h _) (keeps_abandonDelta (keeps_reach h _))) h
  · exact h

theorem keeps_syncDone (h : Keeps s t) : Keeps s (syncDone t) :=
  keeps_ite h (keeps_ite (keeps_ite (keeps_callQuiet h) h) (keeps_ite (keeps_callQuiet h) h))

/-! ### CFG -/

theorem keeps_writeHifCtl (h : Keeps s t) (m : W32) (raw : W32) : Keeps s (writeHifCtl t m raw) :=
  keeps_ite (keeps_kill (keeps_mk h)) (keeps_mk h)

theorem keeps_writeSqBase (h : Keeps s t) (n : BitVec 4) (lo : BitVec 20) (hi : Byte) : Keeps s (writeSqBase t n lo hi) :=
  keeps_ite h (keeps_ite (keeps_mk h) (keeps_mk h))

theorem keeps_writeRingBase (h : Keeps s t) (id : RingId) (lo : BitVec 20) (hi : Byte) : Keeps s (writeRingBase t id lo hi) := by
  unfold writeRingBase
  split
  · exact h
  · exact keeps_ite h (keeps_ite (keeps_mk h) (keeps_setRing h _ _))

theorem keeps_writeSq (h : Keeps s t) (n : BitVec 4) (k : Nat) (m : W32) : Keeps s (writeSq t n k m) := by
  unfold writeSq
  split
  · exact keeps_writeSqBase h _ _ _
  · exact keeps_writeSqBase h _ _ _
  · exact keeps_ringConfig h _ _
  · exact h

theorem keeps_writeRing (h : Keeps s t) (id : RingId) (k : Nat) (m : W32) : Keeps s (writeRing t id k m) := by
  unfold writeRing
  split
  · exact h
  · split
    · exact keeps_writeRingBase h _ _ _
    · exact keeps_writeRingBase h _ _ _
    · exact keeps_ringConfig h _ _
    · exact keeps_writeHead h _ _
    · exact h

theorem keeps_hifWrite (h : Keeps s t) (o : Nat) (m : W32) (raw : W32) (strb : BitVec 4) : Keeps s (hifWrite t o m raw strb) :=
  keeps_ite (keeps_ite (keeps_doorbell h _ _) h) (keeps_ite (keeps_writeHifCtl h _ _) (keeps_ite (keeps_mk h) (keeps_ite (keeps_mk h)
    (keeps_ite (keeps_writeSq h _ _ _) (keeps_ite (keeps_writeRing h _ _ _) (keeps_ite (keeps_writeRing h _ _ _) (keeps_ite (keeps_writeRing h _ _
      _) (keeps_ite (keeps_writeRing h _ _ _) h))))))))

theorem keeps_writeTiming (h : Keeps s t) (o : Nat) (v : BitVec 21) : Keeps s (writeTiming t o v) := by
  unfold writeTiming
  refine keeps_ite (keeps_mk h) ?_
  · split
    · exact keeps_mk h
    · exact keeps_mk h
    · exact keeps_mk h
    · exact keeps_mk h
    · exact keeps_mk h

theorem keeps_tkcWrite (h : Keeps s t) (o : Nat) (m : W32) (raw : W32) (strb : BitVec 4) : Keeps s (tkcWrite t o m raw strb) := by
  unfold tkcWrite
  split
  · exact keeps_ite (keeps_writeTkcCtrl h _ _ _ _) h
  · exact keeps_mk h
  · exact keeps_ite (keeps_writeTiming h _ _) h

theorem keeps_writeErrCtl (h : Keeps s t) (jrnl : Bool) (ce : Bool) : Keeps s (writeErrCtl t jrnl ce) := keeps_mk h

theorem keeps_errWrite (h : Keeps s t) (o : Nat) (m : W32) (raw : W32) : Keeps s (errWrite t o m raw) := by
  unfold errWrite
  split
  · exact keeps_writeErrCtl h _ _
  · exact keeps_mk h
  · exact keeps_mk h
  · exact keeps_mk h
  · exact h

theorem keeps_pwrWrite (h : Keeps s t) (o : Nat) (value : W32) (raw : W32) (strb : BitVec 4) : Keeps s (pwrWrite t o value raw strb) := by
  unfold pwrWrite
  split
  · exact keeps_writeCap h _ _
  · exact keeps_mk h
  · exact h

theorem keeps_bootWrite (h : Keeps s t) (o : Nat) (m : W32) (raw : W32) : Keeps s (bootWrite t o m raw) := by
  unfold bootWrite
  refine keeps_ite h ?_
  · split
    · exact keeps_mk h
    · exact keeps_mk h
    · exact keeps_mk h
    · exact keeps_ite (keeps_bootGo h) h

theorem keeps_attWrite (h : Keeps s t) (o : Nat) (m : W32) (raw : W32) : Keeps s (attWrite t o m raw) := by
  unfold attWrite
  refine keeps_ite (keeps_ite (keeps_attestGo (keeps_mk h) _ _) (keeps_mk h)) (keeps_ite (keeps_mk h) ?_)
  · split
    · exact keeps_mk h
    · exact keeps_mk h
    · exact keeps_mk h
    · exact keeps_mk h
    · exact keeps_mk h

theorem keeps_secWrite (h : Keeps s t) (o : Nat) (m : W32) (raw : W32) : Keeps s (secWrite t o m raw) :=
  keeps_ite (keeps_bootWrite h _ _ _) (keeps_ite (keeps_attWrite h _ _ _) h)

theorem keeps_twnCtrl (h : Keeps s t) (m : W32) (raw : W32) : Keeps s (twnCtrl t m raw) :=
  keeps_ite (keeps_twnTakeover (keeps_ite (keeps_twnDetach (keeps_ite (keeps_twnAttach (keeps_flushLink (keeps_mk h))) (keeps_flushLink
    (keeps_mk h)))) (keeps_ite (keeps_twnAttach (keeps_flushLink (keeps_mk h))) (keeps_flushLink (keeps_mk h))))) (keeps_ite (keeps_twnDetach
      (keeps_ite (keeps_twnAttach (keeps_flushLink (keeps_mk h))) (keeps_flushLink (keeps_mk h)))) (keeps_ite (keeps_twnAttach (keeps_flushLink
        (keeps_mk h))) (keeps_flushLink (keeps_mk h))))

theorem keeps_twnWrite (h : Keeps s t) (o : Nat) (m : W32) (raw : W32) : Keeps s (twnWrite t o m raw) := by
  unfold twnWrite
  split
  · exact keeps_twnCtrl h _ _
  · exact keeps_mk h
  · exact keeps_mk h
  · exact keeps_mk h
  · exact h

theorem keeps_coreWrite (h : Keeps s t) (c : BitVec 3) (k : Nat) (raw : W32) : Keeps s (coreWrite t c k raw) :=
  keeps_ite (keeps_mk h (hd := fun hd => (dpOk_modCore hd _ fun _ hx => by exact hx))) h

theorem keeps_writeWindow (h : Keeps s t) (c : BitVec 3) (w : BitVec 2) (hi : Bool) (m : W32) : Keeps s (writeWindow t c w hi m) :=
  keeps_ite h (keeps_mk h (hd := fun hd => (dpOk_modCore hd _ fun _ hx => by exact hx)))

theorem keeps_ownerWrite (h : Keeps s t) (o : Nat) (m : W32) (raw : W32) : Keeps s (ownerWrite t o m raw) := by
  unfold ownerWrite
  split
  · exact keeps_modUnit h _ _
  · exact keeps_ite (keeps_writeWindow h _ _ _ _) h

theorem keeps_driverWrite (h : Keeps s t) (o : Nat) (value : W32) (m : W32) (raw : W32) (strb : BitVec 4) : Keeps s (driverWrite t o value m raw
    strb) :=
  keeps_ite (keeps_hifWrite h _ _ _ _) (keeps_ite (keeps_tkcWrite h _ _ _ _) (keeps_ite (keeps_errWrite h _ _ _) (keeps_ite (keeps_pwrWrite h
    _ _ _ _) (keeps_ite (keeps_secWrite h _ _ _) (keeps_ite (keeps_twnWrite h _ _ _) (keeps_ite h (keeps_ite (keeps_coreWrite h _ _ _)
      (keeps_fwrAccept h _ _ _))))))))

theorem keeps_cfgWrite (h : Keeps s t) (ofs : W16) (value : W32) (strb : BitVec 4) (via : Via) : Keeps s (cfgWrite t ofs value strb via) := by
  unfold cfgWrite
  split
  · exact keeps_ite h (keeps_driverWrite h _ _ _ _ _)
  · exact keeps_ite h (keeps_ownerWrite h _ _ _)

end Sys2Proof.Machine
end

section
/-!
EVERY COMMAND. The settled statements on what every command and every step keeps.
-/
namespace Sys2Proof.Machine
-- one proof after the other: the check compiles one text, and its memory holds few threads
set_option Elab.async false
open Sys2Proof.Safety

variable {s t : State}

/-- A next state keeps the state before; a fault and a refusal have none. -/
def KeepsNext (s : State) : Host.Outcome State Fault Refusal → Prop
  | .next t => Keeps s t
  | _ => True

theorem keeps_inboundRowLand (h : Keeps s t) (core : BitVec 3) (row : Option OutRow) : KeepsNext s (execInboundRowLand core row t) := by
  refine keeps_takeReports (keeps_mk h (hd := fun hd => ?_)) _
  cases row with
  | none => exact dpOk_landInbound hd core
  | some o => exact dpOk_landRow hd core _

theorem workKept_dmemWork (s : State) (core : BitVec 3) : WorkKept s.dp (dmemWork s core) := by
  unfold dmemWork
  dsimp only
  split <;> exact DpKept.refl _

theorem keeps_dmemComplete (h : Keeps s t) (core : BitVec 3) (resp : BitVec 2) (data : List Byte) :
    KeepsNext s (execDmemComplete core resp data t) := by
  have hw := workKept_dropLate (workKept_effDmemComplete (workKept_dmemWork t core) resp data) t.dp.landings.length
  refine keeps_takeReports (keeps_lateWrites (keeps_mk h (hd := fun hd => ?_)) _ _ _) _
  exact dpOk_ite (hw.ok hd) (dpOk_modCore (hw.ok hd) _ fun _ hx => coreOk_packetEnds hx _ _ _)

theorem keeps_claimed (h : Keeps s t) (c : DbgCmd) : Keeps s (let on := c.arg.getLsbD 8
    let u := if c.arg.getLsbD 0 then (if on then claimTrace t else releaseTrace t) else t
    if c.arg.getLsbD 1 then (if on then claimMarker u else releaseMarker u) else u) := by
  have htrace : Keeps s (if c.arg.getLsbD 0 then (if c.arg.getLsbD 8 then claimTrace t else releaseTrace t) else t) :=
    keeps_ite (keeps_ite (keeps_claimTrace h) (keeps_releaseTrace h)) h
  exact keeps_ite (keeps_ite (keeps_claimMarker htrace) (keeps_releaseMarker htrace)) htrace

/-- Every command that is no engine command and programs no fuse keeps the waiting commands, the fuses and the canonical memories. -/
theorem keepsNext_exec_other (s : State) {c : Instr} (hi : issOf c = none) (hotp : ∀ f v, c ≠ .otpProg f v) : KeepsNext s (exec c s) := by
  have h := Keeps.refl s
  cases c <;> simp only [issOf, reduceCtorEq] at hi
  case otpProg f v => exact absurd rfl (hotp f v)
  case dmemComplete => exact keeps_dmemComplete h _ _ _
  case inboundRowLand => exact keeps_inboundRowLand h _ _
  case queueWrite | blockRelease | windowChange => exact keeps_cpOperation h _ _
  case tick => exact keeps_takeTick h _
  case controlBlock => exact keeps_controlBlockIn h _ _
  case errorBlock => exact keeps_errorBlockIn h _ _
  case register | unregister | swapIn | swapOut | bind | unbind | writeInit | clearInit => exact keeps_runStateDesc h _ _
  case load => exact keeps_takeDesc h _ _ _ _ _ _ fun _ _ h => keeps_requestLoad h _ _
  case unload => exact keeps_takeDesc h _ _ _ _ _ _ fun _ _ h => keeps_unloadTask h _ _
  case nopDescriptor => exact keeps_takeDesc h _ _ _ _ _ _ fun _ _ h => keeps_complete h _ _ _ _ _ _ _
  case packageCheck => exact keeps_packageCheck h _
  case loaderFill => exact keeps_loaderFill h
  case imageCheck => exact keeps_imageChecked h _ _ _
  case swapOutComplete => exact keeps_swapOutDone h _ _
  case initImageLanded => exact keeps_initLanded h _ _ _
  case tickBoundary => exact keeps_tickBoundary h
  case flywheelBoundary => exact keeps_flywheel h
  case tkcExtWait => exact keeps_extWait h
  case dispatch => exact keeps_dispatchNow h
  case computeStart => exact keeps_computeStart h
  case pit => exact keeps_pit h
  case publish => exact keeps_publish h
  case earlyIntake => exact keeps_earlyIntake h
  case earlyDispatch => exact keeps_earlyDispatch h
  case timeout => exact keeps_timeout h _ _
  case waitCycle => exact keeps_waitCycle h _
  case tileReadyLimit => exact keeps_tileLimit h _
  case gateResolve => exact keeps_gateExpires h _
  case chainRestart => exact keeps_chainRestart h _ _ _
  case eccWriteBack => exact keeps_writeBack h _
  case errorFifoDrain => exact keeps_drainFifo h
  case errClsClr | tkcSeqLoRead | tapReset | dbgResp => exact keeps_mk h
  case watchdogExpiry => exact keeps_watchdogExpires h _
  case watchdogKick => exact keeps_ite (keeps_setProc h _ fun hp => by exact memOk_getProc hp _) h
  case mpuFault => exact keeps_ite (keeps_procFails (keeps_countProc h _ _) _ _) h
  case logEntry => exact keeps_logEntry h _ _ _ _
  case tracePacket => exact keeps_tracePoint h _ _ _ _ _ _
  case fwrWrite => exact keeps_fwrAccept h _ _ _
  case fwrWriteApply => exact keeps_applyHead h
  case fwrLate => exact keeps_fwrLate h
  case cfgWrite => exact keeps_cfgWrite h _ _ _ _
  case tkcRunStart | tkcRunStop => exact keeps_writeTkcCtrl h _ _ _ _
  case tkcOutEn => exact keeps_writeOutEn (keeps_writeSource h _ _) _
  case hifDb => exact keeps_doorbell h _ _
  case hifKill => exact keeps_kill h
  case ringEnable => exact keeps_ringConfig h _ _
  case head => exact keeps_writeHead h _ _
  case ringEntryWritten => exact keeps_ringEntry h _ _
  case start | preset | dataB | dataH | dataW | rowFeed | runWrite => exact keeps_modUnit h _ _
  case secBootGo => exact keeps_bootGo h
  case bootRelease => exact keeps_bootChecked h _ _ _ _
  case initScrubComplete => exact keeps_scrubDone h _
  case secAttGo | secCertGo => exact keeps_attestGo h _ _
  case attestationDone => exact keeps_attestDone h _
  case pwrCap => exact keeps_writeCap h _ _
  case pwrGnt => exact keeps_takeGrant h _
  case powerFault => exact keeps_powerFault h _
  case pwrGntLate | ballastWindow => exact keeps_ite (keeps_mk h) h
  case poresetN | rstN => exact keeps_mk (keeps_resetAll h)
  case tickIn => exact keeps_tickEdge h
  case sinPacket => exact keeps_sampleIn h _ _ _ _
  case twnAttach => exact keeps_twnAttach h
  case twnDetach => exact keeps_twnDetach h
  case twnTakeover => exact keeps_twnTakeover h
  case align => exact keeps_align h _ _
  case sig => exact keeps_sigFrame h _ _ _ _
  case verdict => exact keeps_verdictFrame h _ _
  case delta => exact keeps_deltaFrame h _ _ _ _
  case deltaEnd => exact keeps_deltaEnds h _ _ _
  case hello => exact keeps_hello h _
  case ctrlDetach => exact keeps_callDetach (keeps_goodFrame h _) _
  case stateRequest => exact keeps_stateRequest h _
  case streamTableChange => exact keeps_tableChange h _ _
  case selfTestResult => exact keeps_ite (keeps_settleTest (keeps_mk (keeps_goodFrame h _))) (keeps_goodFrame h _)
  case twlTxCrd => exact keeps_flushLink (keeps_mk h)
  case twlRxUp => exact keeps_ite (keeps_flushLink (keeps_mk h)) (keeps_mk h)
  case linkDown => exact keeps_declareDown h
  case sealTick => exact keeps_sealNow h
  case verdictDeadline => exact keeps_verdictDeadline h
  case selftestEnd => exact keeps_testEnds h _ _
  case deltaSend => exact keeps_deltaSends h
  case deltaAbandon => exact keeps_deltaAbandons h
  case syncComplete => exact keeps_syncDone h
  case idcode | dbgStat | bypass => exact keeps_capture h _ _
  case dbgChal => exact keeps_challenge h _
  case unlockDecision => exact keeps_unlockDecided h _ _ _
  case dbgData => exact keeps_ite (keeps_mk h) (keeps_mk (keeps_capture h _ _))
  case freeze => exact keeps_command h _ _ fun _ h => keeps_ite (keeps_freezeNow h) h
  case halt => exact keeps_command h _ _ fun _ h => keeps_ite h (keeps_mk h)
  case resume => exact keeps_command h _ _ fun _ h => keeps_mk (keeps_ite (keeps_leaveHalt h) h)
  case stepCmd => exact keeps_command h _ _ fun _ h => keeps_stepCommand h _
  case stepTick => exact keeps_command h _ _ fun _ h => keeps_mk (keeps_leaveHalt h)
  case read => exact keeps_command h _ _ fun _ h => keeps_mk (keeps_readPlace h _)
  case write => exact keeps_command h _ _ fun _ h => keeps_writePlace h _
  case bpSet | bpClr | lock => exact keeps_command h _ _ fun _ h => keeps_mk h
  case claim => exact keeps_command h _ _ fun _ h => keeps_claimed h _
  case embeddingFetchComplete => exact keeps_embeddingIn h _ _ _
  case frameDiscard => exact keeps_frameDiscard h _
  case reservedTypeDescriptor => exact keeps_ite (keeps_runStateDesc h _ _) (keeps_ite h (keeps_takeDesc h _ _ _ _ _ _ fun _ _ h => h))

theorem keepsNext_issueEngine (s : State) (c : Instr) (i : Iss) (q : Queue) {eff : Bool → Work → Work} (heff : EffKept eff) :
    KeepsNext s (issueEngine c i q eff s) := by
  have h := Keeps.refl s
  rcases issueEngine_cases c i q eff s with ⟨f, he⟩ | ⟨-, he⟩ | ⟨n, -, ⟨-, he⟩ | ⟨hs, -, -, he⟩ | ⟨-, he⟩⟩ <;> rw [he]
  · trivial
  · exact h
  · exact keeps_pass h n
  · exact keeps_setHold (keeps_pass h n) _ _ _
  · exact keeps_issueNow (keeps_pass h n) _ _ _ heff

theorem queueOf_isSome {c : Instr} {i : Iss} (hi : issOf c = some i) : ∃ q, queueOf c = some q := by
  cases c <;> simp only [issOf, reduceCtorEq] at hi <;> exact ⟨_, rfl⟩

/-- Every command but the one that programs a fuse keeps the waiting commands, the fuses and the canonical memories. -/
theorem keepsNext_exec (s : State) {c : Instr} (hotp : ∀ f v, c ≠ .otpProg f v) : KeepsNext s (exec c s) := by
  cases hi : issOf c with
  | none => exact keepsNext_exec_other s hi hotp
  | some i =>
    obtain ⟨q, hq⟩ := queueOf_isSome hi
    obtain ⟨eff, heff, hexec⟩ := exec_engine hi hq s
    rw [hexec]
    exact keepsNext_issueEngine s c i q heff

/-- Programming a fuse changes the fuse and the debug port alone. -/
theorem programOtp_keeps (s : State) (f : OtpField) (v : Bool) :
    (programOtp s f v).pending = s.pending ∧ (canonical s → canonical (programOtp s f v)) := by
  unfold programOtp
  dsimp only
  split <;> exact ⟨rfl, id⟩

theorem canonical_iff_ok (s : State) : canonical s ↔ DpOk s.dp ∧ ProcsOk s.xp s.pp s.spp s.cps := by
  rw [canonical_iff, dpOk_iff, ProcsOk]
  refine and_congr_right fun _ => and_congr_right fun _ => and_congr_right fun _ => and_congr_right fun _ => ?_
  constructor
  · exact fun h k => h _ (by simp [vget])
  · intro h p hp
    obtain ⟨i, hi, rfl⟩ := Vector.mem_iff_getElem.mp (by simpa using hp : p ∈ s.cps)
    have hk := h (BitVec.ofNat 3 i)
    have hn : (BitVec.ofNat 3 i).toNat = i := Nat.mod_eq_of_lt hi
    simp only [vget, hn] at hk
    exact hk

theorem Keeps.canonical (h : Keeps s t) (hs : Safety.canonical s) : Safety.canonical t := by
  rw [canonical_iff_ok] at *
  exact ⟨h.dp hs.1, h.procs hs.2⟩

/-- What every command keeps: the waiting commands and the canonical memories. -/
theorem exec_keeps {c : Instr} (h : exec c s = .next t) : t.pending = s.pending ∧ (canonical s → canonical t) := by
  by_cases hotp : ∃ f v, c = .otpProg f v
  · obtain ⟨f, v, rfl⟩ := hotp
    obtain rfl : programOtp s f v = t := Host.Outcome.next.inj h
    exact programOtp_keeps s f v
  · have hk := keepsNext_exec s (c := c) (fun f v hc => hotp ⟨f, v, hc⟩)
    rw [h] at hk
    exact ⟨hk.pending, hk.canonical⟩

/-- Settles O6: every command but OTP_PROG keeps the fuses. -/
theorem onlyOtpProgChangesOtp : Obligations.OnlyOtpProgChangesOtp := by
  unfold Obligations.OnlyOtpProgChangesOtp
  intro c s t hotp h
  have hk := keepsNext_exec s hotp
  rw [h] at hk
  exact hk.otp

theorem keeps_idle (s : State) : Keeps s (idle s) := by
  unfold idle
  exact keeps_ite (keeps_senseIdentity (.refl s)) (keeps_ite (keeps_pass (.refl s) 1) (.refl s))

/-- Settles O5: a step is a command, or the idle block, and each keeps the canonical memories. -/
theorem stepKeepsMemoriesCanonical : Obligations.StepKeepsMemoriesCanonical := by
  unfold Obligations.StepKeepsMemoriesCanonical
  intro s t hs h
  cases hp : s.pending with
  | nil =>
    rw [step_nil hp] at h
    exact Host.Outcome.next.inj h ▸ (keeps_idle s).canonical hs
  | cons c l =>
    have hstep : step s = exec c { s with pending := l } := by rw [← step_cons, ← hp]
    exact (exec_keeps (s := { s with pending := l }) (hstep ▸ h)).2 hs

/-! ### Legal codes -/

theorem wf_of_other {c : Instr} (hi : issOf c = none) : c.wf = true := by
  cases c <;> simp only [issOf, reduceCtorEq] at hi <;> rfl

theorem issueEngine_wf_false {c : Instr} (h : c.wf = false) (i : Iss) (q : Queue) (eff : Bool → Work → Work) (s : State) :
    issueEngine c i q eff s = .fault (.reservedField "operand code") := by
  unfold issueEngine; simp [h]

theorem issueEngine_fmti_false {c : Instr} {i : Iss} {s : State} (h : (tableFmtis c).all (fmtiOk (coreOf s i.core)) = false) (q : Queue)
    (eff : Bool → Work → Work) : ∃ f, issueEngine c i q eff s = .fault (.reservedField f) := by
  unfold issueEngine
  split
  · exact ⟨_, rfl⟩
  · rw [if_pos (by rw [h]; rfl)]
    exact ⟨_, rfl⟩

theorem issueEngine_next {c : Instr} {i : Iss} {s : State} (hwf : c.wf = true) (h : (tableFmtis c).all (fmtiOk (coreOf s i.core)) = true) (q : Queue)
    (eff : Bool → Work → Work) : ∃ t, issueEngine c i q eff s = .next t := by
  unfold issueEngine
  rw [if_neg (by simp [hwf]), if_neg (by rw [h]; decide)]
  split
  · exact ⟨_, rfl⟩
  · dsimp only
    split
    · exact ⟨_, rfl⟩
    · split <;> exact ⟨_, rfl⟩

/-- Settles O7: what a command keeps, and the two checks at the head of every engine command. -/
theorem execLeavesQueue : Obligations.ExecLeavesQueue := by
  unfold Obligations.ExecLeavesQueue
  refine ⟨fun c s t h => (exec_keeps h).1, ?_, ?_, ?_, ?_⟩
  · intro c s hi
    cases c <;> simp only [issOf, reduceCtorEq] at hi <;> exact ⟨_, rfl⟩
  · intro c i s hi hwf hfmt
    obtain ⟨q, hq⟩ := queueOf_isSome hi
    obtain ⟨eff, -, hexec⟩ := exec_engine hi hq s
    exact hexec ▸ issueEngine_next hwf hfmt q eff
  · intro c s hwf
    cases hi : issOf c with
    | none => exact absurd (wf_of_other hi) (by rw [hwf]; decide)
    | some i =>
      obtain ⟨q, hq⟩ := queueOf_isSome hi
      obtain ⟨eff, -, hexec⟩ := exec_engine hi hq s
      exact ⟨_, hexec.trans (issueEngine_wf_false hwf i q eff s)⟩
  · intro c i s hi hfmt
    obtain ⟨q, hq⟩ := queueOf_isSome hi
    obtain ⟨eff, -, hexec⟩ := exec_engine hi hq s
    exact hexec ▸ issueEngine_fmti_false hfmt q eff

end Sys2Proof.Machine
end

section
/-!
TICK CONTROL. What a write of TKC_CTRL does (R31 to R33, R36, R37, R57, R353), the edges of TICK_IN (R34) and the early intake (R267).
-/
namespace Sys2Proof.Machine
-- one proof after the other: the check compiles one text, and its memory holds few threads
set_option Elab.async false
open Sys2Proof.Safety

/-! ### Claims of shared resources (R353) -/

/-- The recorder changes no owner of a shared resource. -/
theorem recordReport_owners (s : State) (r : Report) :
    (recordReport s r).err.ownTrc = s.err.ownTrc ∧ (recordReport s r).err.ownSin = s.err.ownSin ∧ (recordReport s r).err.ownTout = s.err.ownTout ∧
      (recordReport s r).err.ownL3 = s.err.ownL3 ∧ (recordReport s r).err.ownLast = s.err.ownLast := by
  unfold recordReport
  split
  · exact ⟨rfl, rfl, rfl, rfl, rfl⟩
  · refine ⟨?_, ?_, ?_, ?_, ?_⟩ <;> dsimp only <;> split <;> (try split) <;> (try split) <;> rfl

theorem refuseOwn_eq (s : State) (r : BitVec 2) (u : BitVec 4) :
    refuseOwn s r u = recordReport s (deviceReport 14 5 u (r.zeroExtend 32) (u.zeroExtend 32)) :=
  takeReport_plain _ _ (show (14 : BitVec 4) ≠ 1 by decide) rfl rfl

/-- A refused claim counts one more in its class. -/
theorem refuseOwn_counts (s : State) (r : BitVec 2) (u : BitVec 4) : (vget (refuseOwn s r u).err.cls 14).cnt = satInc (vget s.err.cls 14).cnt := by
  rw [refuseOwn_eq, recordReport_cls _ _ (show (14 : BitVec 4) ≠ 0 by decide)]
  rfl

@[simp] theorem refuseOwn_tkc (s : State) (r : BitVec 2) (u : BitVec 4) : (refuseOwn s r u).tkc = s.tkc := by simp [refuseOwn]
@[simp] theorem refuseOwn_dbg (s : State) (r : BitVec 2) (u : BitVec 4) : (refuseOwn s r u).dbg = s.dbg := by simp [refuseOwn]
@[simp] theorem refuseOwn_dp (s : State) (r : BitVec 2) (u : BitVec 4) : (refuseOwn s r u).dp = s.dp := by simp [refuseOwn_eq]
@[simp] theorem refuseOwn_ownTout (s : State) (r : BitVec 2) (u : BitVec 4) : (refuseOwn s r u).err.ownTout = s.err.ownTout := by
  rw [refuseOwn_eq]; exact (recordReport_owners s _).2.2.1

/-- A claim of TICK_OUT by the tick controller: taken from a marker that claimed it in this cycle, else where it is free. -/
theorem writeOutEn_on (s : State) (h : s.tkc.outEn = false) :
    writeOutEn s true =
      if s.err.ownTout = 2 ∧ vget s.err.ownLast 2 = some ⟨true, true, s.dp.cycle⟩ then
        let u := refuseOwn (moveOwn { s with dbg := { s.dbg with marker := false } } 2 true false) 2 12
        moveOwn { u with tkc := { u.tkc with outEn := true } } 2 false true
      else if s.err.ownTout = 0 ∧ vget s.err.ownLast 2 ≠ some ⟨true, false, s.dp.cycle⟩ then
        moveOwn { s with tkc := { s.tkc with outEn := true } } 2 false true
      else refuseOwn s 2 2 := by
  simp [writeOutEn, h, displaces, mayOwn, Err.own]

theorem writeOutEn_same (s : State) : writeOutEn s s.tkc.outEn = s := by simp [writeOutEn]

theorem writeSource_same (s : State) : writeSource s s.tkc.src s.tkc.fly = s := by simp [writeSource]

theorem writeTkcCtrl_same (s : State) (run : Bool) :
    writeTkcCtrl s run s.tkc.src s.tkc.fly s.tkc.outEn = if run then runOn s else runOff s := by
  unfold writeTkcCtrl
  rw [writeSource_same, writeOutEn_same]

theorem exec_tkcRunStart (s : State) : exec (.tkcRunStart s.tkc.src s.tkc.fly s.tkc.outEn) s = .next (runOn s) :=
  congrArg Host.Outcome.next (writeTkcCtrl_same s true)

theorem exec_tkcRunStop (s : State) : exec (.tkcRunStop s.tkc.src s.tkc.fly s.tkc.outEn) s = .next (runOff s) :=
  congrArg Host.Outcome.next (writeTkcCtrl_same s false)

/-! ### TKC_RUN -/

theorem runOn_off {s : State} (hr : s.tkc.run = false) (hf : s.twn.state ≠ .fenced) :
    runOn s =
      if s.tkc.active then
        (if s.tkc.ending || !s.tkc.stopAt then { s with tkc := { s.tkc with wrIgn := true } }
         else { s with tkc := { s.tkc with run := true, stopAt := false } })
      else if s.tkc.stopAt then { s with tkc := { s.tkc with run := true, stopAt := false } }
      else if tkcLegal s.tkc then acceptStart s
      else { s with tkc := { s.tkc with cfgErr := true } } := by
  simp [runOn, hr, hf]

/-- An accepted start changes TKC, whether early ticks are off, and FWR_SPEC_CFG_ERR. -/
theorem acceptStart_frame (s : State) :
    { acceptStart s with tkc := s.tkc, sp := { (acceptStart s).sp with specOff := s.sp.specOff }, fwr := { (acceptStart s).fwr with spec := { (acceptStart s).fwr.spec with cfgErr := s.fwr.spec.cfgErr } } } = s := rfl

theorem exec_tkcOutEn (s : State) (src fly : Bool) : exec (.tkcOutEn src fly) s = .next (writeOutEn (writeSource s src fly) true) := rfl

theorem writeSource_changed (s : State) {src fly : Bool} (h : (src, fly) ≠ (s.tkc.src, s.tkc.fly)) :
    writeSource s src fly = { s with tkc := if ticksOff s then { s.tkc with src := src, fly := fly } else { s.tkc with wrIgn := true } } := by
  have hne : ¬((src == s.tkc.src && fly == s.tkc.fly) = true) := by simpa [Prod.ext_iff] using h
  unfold writeSource
  dsimp only
  rw [if_neg hne]
  split <;> rfl

theorem claim_free {s : State} (hoff : s.tkc.outEn = false) (h0 : s.err.ownTout = 0) (hl : vget s.err.ownLast 2 ≠ some ⟨true, false, s.dp.cycle⟩) :
    writeOutEn s true = { s with tkc := { s.tkc with outEn := true },
                                 err := { s.err with ownTout := 1, ownLast := vset s.err.ownLast 2 (some ⟨false, true, s.dp.cycle⟩) } } := by
  rw [writeOutEn_on s hoff, if_neg (by simp [h0]), if_pos ⟨h0, hl⟩]
  simp [moveOwn, Err.move, Err.own, h0, setBit]

theorem claim_refused {s : State} (hoff : s.tkc.outEn = false)
    (h : (s.err.ownTout = 0 ∧ vget s.err.ownLast 2 = some ⟨true, false, s.dp.cycle⟩) ∨
      (s.err.ownTout ≠ 0 ∧ vget s.err.ownLast 2 ≠ some ⟨true, true, s.dp.cycle⟩)) :
    writeOutEn s true = refuseOwn s 2 2 := by
  rw [writeOutEn_on s hoff]
  rcases h with ⟨h0, hl⟩ | ⟨h0, hl⟩
  · rw [if_neg (by simp [h0]), if_neg (fun h => h.2 hl)]
  · rw [if_neg (fun h => hl h.2), if_neg (fun h => h0 h.1)]

theorem setWidth_ushiftRight_eq_extractLsb' (x : W64) : (x >>> 32).setWidth 32 = x.extractLsb' 32 32 := BitVec.eq_of_toNat_eq (by simp)

/-- Settles O43, by the cases of TKC_RUN and of the claim of TICK_OUT. -/
theorem tickControlWrites : Obligations.TickControlWrites := by
  unfold Obligations.TickControlWrites
  refine ⟨fun s hr ha hs hf hl => ⟨acceptStart s, ?_, rfl, rfl, acceptStart_frame s⟩, fun s hr ha hs hf hl => ?_, fun s hr hf hs he => ?_,
    fun s hr hf ha h => ?_, fun s h => ?_, fun s hr => ⟨fun h => ?_, fun ha h1 h2 => ?_⟩, fun s src fly ho hne => ?_,
    fun s hoff => ⟨fun h0 hl => ?_, fun h => ?_, fun h2 hl => ?_⟩, fun s => ?_⟩
  · rw [exec_tkcRunStart, runOn_off hr hf]; simp [ha, hs, hl]
  · rw [exec_tkcRunStart, runOn_off hr hf]; simp [ha, hs, hl]
  · rw [exec_tkcRunStart, runOn_off hr hf]
    cases ha : s.tkc.active <;> simp [ha, hs, he]
  · rw [exec_tkcRunStart, runOn_off hr hf]
    rcases h with h | h <;> simp [ha, h]
  · rw [exec_tkcRunStart]
    rcases h with h | h <;> simp [runOn, h]
  · rw [exec_tkcRunStop]
    rcases h with h | h | h <;> simp [runOff, hr, h]
  · rw [exec_tkcRunStop]
    simp [runOff, hr, ha, h1, h2]
  · rw [exec_tkcOutEn, writeSource_changed s hne]
    unfold writeOutEn
    split <;> simp_all
  · rw [exec_tkcOutEn, writeSource_same, claim_free hoff h0 hl]
  · rw [exec_tkcOutEn, writeSource_same, claim_refused hoff h]
    exact ⟨_, rfl, refuseOwn_tkc s 2 2, refuseOwn_ownTout s 2 2, refuseOwn_counts s 2 2⟩
  · rw [exec_tkcOutEn, writeSource_same, writeOutEn_on s hoff, if_pos ⟨h2, hl⟩]
    refine ⟨_, rfl, ?_, ?_, ?_, ?_⟩
    · simp [moveOwn]
    · simp [moveOwn, Err.move, Err.own, h2, setBit]
    · simp [moveOwn]
    · exact refuseOwn_counts _ 2 12
  · rw [← setWidth_ushiftRight_eq_extractLsb']
    rfl

/-! ### What passing cycles leave of the tick controller -/

/-- Between two states of the tick controller only its running counts differ. -/
def CountsOnly (t u : Tkc) : Prop := { u with time := t.time, startIn := t.startIn, edgeIn := t.edgeIn, pulse := t.pulse } = t

theorem CountsOnly.refl (t : Tkc) : CountsOnly t t := rfl

theorem CountsOnly.trans {t u v : Tkc} (h : CountsOnly t u) (k : CountsOnly u v) : CountsOnly t v := by
  unfold CountsOnly at *
  rw [← k] at h
  exact h

theorem stopUnreleased_tkc (s : State) (c : BitVec 3) : (stopUnreleased s c).tkc = s.tkc := by
  unfold stopUnreleased
  split
  · dsimp only
    split <;> rfl
  · rfl

theorem resumeVft_tkc (s : State) (c : BitVec 3) : (resumeVft s c).tkc = s.tkc := by
  unfold resumeVft
  split
  · rfl
  · exact takeReports_tkc _ _

theorem foldl_tkc {α : Type} {f : State → α → State} (hf : ∀ s x, (f s x).tkc = s.tkc) (l : List α) (s : State) : (l.foldl f s).tkc = s.tkc := by
  induction l generalizing s with
  | nil => rfl
  | cons x l ih => rw [List.foldl_cons, ih, hf]

theorem bpMatch_countsOnly (s : State) (l : List (BitVec 3)) (b : Bool) : CountsOnly s.tkc (bpMatch s l b).tkc := by
  obtain ⟨d, n, h⟩ := bpMatch_eq s l b
  rw [h]
  rfl

theorem refreshHold_tkc (s : State) (c : BitVec 3) : (refreshHold s c).tkc = s.tkc := by
  unfold refreshHold
  dsimp only
  split <;> rfl

theorem passSpan_countsOnly (s : State) (n : Nat) : CountsOnly s.tkc (s.passSpan n).tkc := by
  unfold State.passSpan
  split
  · rfl
  have hhold : (allCores.foldl refreshHold s).tkc = s.tkc := foldl_tkc refreshHold_tkc _ s
  generalize allCores.foldl refreshHold s = u at hhold
  dsimp only
  generalize hv : passFirmware _ _ = v
  have hfw : CountsOnly s.tkc v.tkc := by
    rw [← hv, ← hhold]
    unfold passFirmware
    split <;> rfl
  generalize hw : (if (flagHits u n).isEmpty = true then v else bpMatch v (flagHits u n) false) = w
  have hbp : CountsOnly s.tkc w.tkc := by
    rw [← hw]
    split
    · exact hfw
    · exact hfw.trans (bpMatch_countsOnly v _ false)
  have hend : (allCores.foldl resumeVft (stopLate (takeReports w (u.dp.pass n (frozen u)).2))).tkc = w.tkc := by
    rw [foldl_tkc resumeVft_tkc, stopLate, foldl_tkc stopUnreleased_tkc, takeReports_tkc]
  split
  · rw [freezeNow_tkc, hend]
    exact hbp
  · rw [hend]
    exact hbp

theorem pass_countsOnly (s : State) (n : Nat) : CountsOnly s.tkc (s.pass n).tkc := by
  unfold State.pass
  generalize 8 = k
  induction k generalizing s n with
  | zero => exact passSpan_countsOnly s n
  | succ k ih =>
    unfold State.passSpans
    split
    · exact (passSpan_countsOnly s _).trans (ih _ _)
    · exact passSpan_countsOnly s n

theorem pass_seq (s : State) (n : Nat) : (s.pass n).tkc.seq = s.tkc.seq := (congrArg Tkc.seq (pass_countsOnly s n) :)

theorem reach_seq (s : State) (ofs : Nat) : (reach s ofs).tkc.seq = s.tkc.seq := pass_seq s _

/-! ### Edges and the early intake -/

theorem exec_tickIn (s : State) : exec .tickIn s = .next (tickEdge s) := rfl

theorem exec_earlyIntake (s : State) : exec .earlyIntake s = .next (earlyIntake s) := rfl

/-- An offer of embeddings to their meters touches neither the tick controller nor the tick records. -/
theorem startEmbeddings_kept (s : State) (early : Bool) :
    (startEmbeddings s early).tkc = s.tkc ∧ (startEmbeddings s early).sp.early = s.sp.early ∧ (startEmbeddings s early).sp.cur = s.sp.cur := by
  unfold startEmbeddings
  split
  · exact ⟨rfl, rfl, rfl⟩
  · split
    · exact ⟨rfl, rfl, rfl⟩
    · refine List.foldlRecOn (motive := fun t : State => t.tkc = s.tkc ∧ t.sp.early = s.sp.early ∧ t.sp.cur = s.sp.cur) _ _ ⟨rfl, rfl, rfl⟩
        fun t h x _ => ?_
      split <;> exact h

/-- What the start of an intake adds to a tick record: the error blocks that were carried. -/
def withCarry (s : State) (seq : W64) (r : TickRec) : TickRec :=
  if r.seq = seq ∧ r.dispatched = false then { r with errs := s.sp.errCarry.toList ++ r.errs } else r

theorem beginIntake_kept (s : State) (seq : W64) (early : Bool) :
    (beginIntake s seq early).tkc = s.tkc ∧ (beginIntake s seq early).sp.early = s.sp.early.map (withCarry s seq) ∧
      (beginIntake s seq early).sp.cur = s.sp.cur.map (withCarry s seq) := by
  have hf : (fun r : TickRec => if r.seq = seq then (if r.dispatched then r else { r with errs := s.sp.errCarry.toList ++ r.errs }) else r) =
      withCarry s seq := by
    funext r
    unfold withCarry
    cases r.dispatched <;> simp
  unfold beginIntake
  extract_lets f g u v kept p w
  have hu : u.tkc = s.tkc ∧ u.sp = s.sp := by
    unfold u
    split <;> exact ⟨rfl, rfl⟩
  have hv : v.tkc = s.tkc ∧ v.sp.early = s.sp.early.map (withCarry s seq) ∧ v.sp.cur = s.sp.cur.map (withCarry s seq) := by
    unfold v modTick
    rw [hu.2, hf]
    exact ⟨hu.1, by rw [mapTicks_early, hu.2], by rw [mapTicks_cur, hu.2]⟩
  have hw : w.tkc = v.tkc ∧ w.sp.early = v.sp.early ∧ w.sp.cur = v.sp.cur := by
    unfold w
    split <;> exact ⟨rfl, rfl, rfl⟩
  split
  · rw [hw.1, hw.2.1, hw.2.2]
    exact hv
  · obtain ⟨h1, h2, h3⟩ := startEmbeddings_kept w early
    rw [h1, h2, h3, hw.1, hw.2.1, hw.2.2]
    exact hv

/-- Settles O45, by the cases of an edge and the early intake at its offset. -/
theorem edgesAndEarlyIntake : Obligations.EdgesAndEarlyIntake := by
  unfold Obligations.EdgesAndEarlyIntake
  refine ⟨fun s hf hs he => ?_, fun s hf hs he => ?_, fun s h => ?_, fun s hc he hn ha hr hf => ?_⟩
  · simp [exec_tickIn, tickEdge, hf, hs, he]
  · simp [exec_tickIn, tickEdge, hf, hs, he]
  · rcases h with h | h <;> simp [exec_tickIn, tickEdge, h]
  · rw [exec_earlyIntake]
    unfold earlyIntake
    simp only [Option.isSome_iff_ne_none.2 hc, he, hn, ha, hr, hf, Option.isNone_none, Bool.not_true, Bool.not_false, Bool.and_self, Bool.false_eq_true, if_false]
    obtain ⟨h1, h2, -⟩ := beginIntake_kept { reach s s.fwr.spec.ofs.toNat with
      sp := { (reach s s.fwr.spec.ofs.toNat).sp with early := some (freshTick ((reach s s.fwr.spec.ofs.toNat).tkc.seq + 1) true false) } }
      ((reach s s.fwr.spec.ofs.toNat).tkc.seq + 1) true
    refine ⟨_, _, rfl, h2, ?_, ?_, ?_, h1⟩
    · simp [withCarry, freshTick, reach_seq]
    · simp [withCarry, freshTick]
    · simp [withCarry, freshTick]

end Sys2Proof.Machine
end

section
/-!
BOUNDARIES. What a boundary does (R33 to R38, R56, R427, R428).
-/
namespace Sys2Proof.Machine
-- one proof after the other: the check compiles one text, and its memory holds few threads
set_option Elab.async false
open Sys2Proof.Safety

variable {s t u : State}

/-! ### What the parts of a boundary leave -/

/-- The meters wait for nothing. -/
def NoneWaits (d : Dp) : Prop := ∀ m, (vget d.meters m).queue = []

/-- t has the tick controller, the tick records and the queues of s, and meters as s does. -/
structure TickKept (s t : State) : Prop where
  tkc : t.tkc = s.tkc
  cur : t.sp.cur = s.sp.cur
  early : t.sp.early = s.sp.early
  queues : ∀ c, (coreOf t c).queues = (coreOf s c).queues
  metering : t.dp.metering = s.dp.metering
  waits : s.dp.metering = false → NoneWaits s.dp → NoneWaits t.dp

theorem TickKept.refl (s : State) : TickKept s s := ⟨rfl, rfl, rfl, fun _ => rfl, rfl, fun _ h => h⟩

/-- A further change beside the datapath, the tick controller and the tick records. -/
theorem tickKept_beside (h : TickKept s t) (ht : u.tkc = t.tkc) (hp : u.sp.cur = t.sp.cur ∧ u.sp.early = t.sp.early) (hd : u.dp = t.dp) :
    TickKept s u :=
  ⟨ht.trans h.tkc, hp.1.trans h.cur, hp.2.trans h.early, fun c => by simpa only [coreOf, hd] using h.queues c, by rw [hd, h.metering],
    fun hm hw => by rw [hd]; exact h.waits hm hw⟩

/-- A further change of the datapath that keeps queues and metering. -/
theorem tickKept_dp (h : TickKept s t) {d : Dp} (hq : ∀ c, (vget d.cores c).queues = (vget t.dp.cores c).queues) (hm : d.metering = t.dp.metering)
    (hw : t.dp.metering = false → NoneWaits t.dp → NoneWaits d) : TickKept s { t with dp := d } :=
  ⟨h.tkc, h.cur, h.early, fun c => (hq c).trans (h.queues c), hm.trans h.metering, fun hs hn => hw (h.metering.trans hs) (h.waits hs hn)⟩

theorem tickKept_ite {p : Prop} [Decidable p] (h : TickKept s t) (g : TickKept s u) : TickKept s (if p then t else u) := by
  split
  · exact h
  · exact g

theorem tickKept_foldl {α : Type} {f : State → α → State} (h : TickKept s t) (hf : ∀ u x, TickKept s u → TickKept s (f u x)) (l : List α) :
    TickKept s (l.foldl f t) :=
  List.foldlRecOn (motive := TickKept s) _ _ h fun u hu x _ => hf u x hu

theorem tickKept_postRecord (h : TickKept s t) (r : RingId) (x : RingRec) : TickKept s (postRecord t r x) := by
  unfold postRecord modRing
  split
  · exact tickKept_beside h (setRing_tkc _ _ _) (by rw [setRing_sp]; exact ⟨rfl, rfl⟩) (setRing_dp _ _ _)
  · exact h

theorem tickKept_postEvent (h : TickKept s t) (code : Byte) (d0 : W32) (d1 : List Byte) : TickKept s (postEvent t code d0 d1) :=
  tickKept_ite (tickKept_postRecord h _ _) (tickKept_beside h rfl ⟨rfl, rfl⟩ rfl)

theorem tickKept_postService (h : TickKept s t) : TickKept s (postService t) := tickKept_postEvent h _ _ _

theorem tickKept_ppFit (h : TickKept s t) : TickKept s (ppFit t) := by
  unfold ppFit
  dsimp only
  split
  · exact tickKept_beside h rfl ⟨rfl, rfl⟩ rfl
  · refine tickKept_beside (tickKept_dp h (d := { t.dp with meters := _ }) (fun _ => by exact rfl) (by exact rfl) fun _ hw => ?_) rfl ⟨rfl, rfl⟩ rfl
    refine List.foldlRecOn (motive := fun v : Vector Meter (2 ^ 4) => ∀ m, (vget v m).queue = []) _ _ hw fun v hv m _ i => ?_
    rw [vget_vset]
    split
    · exact hv _
    · exact hv i

theorem tickKept_boundaryAclk (h : TickKept s t) : TickKept s (boundaryAclk t) := by
  unfold boundaryAclk
  split
  · exact tickKept_postService (tickKept_ppFit (tickKept_beside h rfl ⟨rfl, rfl⟩ rfl))
  · exact tickKept_postService (tickKept_ppFit (tickKept_beside h rfl ⟨rfl, rfl⟩ rfl))
  · exact h

theorem tickKept_meterOffer (h : TickKept s t) (i : BitVec 4) (n : Nat) (e : Bool) : TickKept s { t with dp := (meterOffer t.dp i n e).2 } := by
  have hd := meterOffer_dp t.dp i n e
  refine tickKept_dp h (fun c => congrArg (fun v => (vget v c).queues) (congrArg Dp.cores hd :)) (congrArg Dp.metering hd :) fun hm hw => ?_
  rw [meterOffer_off _ _ _ _ hm]
  exact hw

theorem tickKept_meterAsk (h : TickKept s t) (i : BitVec 4) (n : Nat) (k : Option Nat) : TickKept s { t with dp := (meterAsk t.dp i n k).2.2 } := by
  unfold meterAsk
  split
  · split <;> exact h
  · exact tickKept_meterOffer h i n false

theorem tickKept_drainOne (h : TickKept s t) (p : TracePkt) : TickKept s (drainOne t p) := by
  have hm := tickKept_meterAsk h 12 16 t.fwr.fw.trcTicket
  unfold drainOne
  dsimp only
  generalize meterAsk t.dp 12 16 t.fwr.fw.trcTicket = m at hm ⊢
  refine tickKept_ite (tickKept_beside hm rfl ⟨rfl, rfl⟩ rfl) ?_
  exact tickKept_beside (tickKept_dp hm (d := { m.2.2 with ext := _ }) (fun _ => by exact rfl) (by exact rfl) fun _ hw => by exact hw)
    rfl ⟨rfl, rfl⟩ rfl

theorem tickKept_drainTrace (h : TickKept s t) : TickKept s (drainTrace t) :=
  tickKept_ite (tickKept_foldl h (fun _ _ hu => tickKept_ite (tickKept_drainOne hu _) hu) _) h

theorem tickKept_sendAll (h : TickKept s t) (l : List Frame) : TickKept s (sendAll t l) :=
  tickKept_ite h (tickKept_ite (tickKept_beside h rfl ⟨rfl, rfl⟩ rfl) (tickKept_beside h rfl ⟨rfl, rfl⟩ rfl))

theorem tickKept_twinTick (h : TickKept s t) : TickKept s (twinTick t) := by
  unfold twinTick
  dsimp only
  refine tickKept_ite (tickKept_sendAll ?_ _) ?_
  all_goals exact tickKept_beside h rfl ⟨rfl, rfl⟩ rfl

theorem tickKept_startJournal (h : TickKept s t) : TickKept s (startJournal t) := by
  unfold startJournal
  dsimp only
  exact tickKept_ite (tickKept_beside h rfl ⟨rfl, rfl⟩ rfl) h

/-- A datapath that meters and queues as another. -/
def MetersAs (d e : Dp) : Prop := e.metering = d.metering ∧ (NoneWaits d → NoneWaits e) ∧ ∀ c, (vget e.cores c).queues = (vget d.cores c).queues

theorem metersAs_modCore {d e : Dp} (h : MetersAs d e) (k : BitVec 3) {f : Core → Core} (hf : ∀ x, (f x).queues = x.queues) :
    MetersAs d (e.modCore k f) := by
  obtain ⟨hm, hw, hq⟩ := h
  refine ⟨hm, hw, fun c => ?_⟩
  rw [Dp.modCore_cores, vget_vset]
  split
  · next hc => rw [hc, hf]; exact hq k
  · exact hq c

theorem tickKept_enterService (h : TickKept s t) : TickKept s (enterService t) := by
  obtain ⟨hm, hw, hq⟩ : MetersAs t.dp (enterService t).dp := by
    refine List.foldlRecOn (motive := MetersAs t.dp) _ _ ⟨rfl, fun h => h, fun _ => rfl⟩ fun d hd k _ => ?_
    split
    · exact metersAs_modCore hd k fun _ => rfl
    · exact hd
  exact tickKept_dp h hq hm fun _ => hw

theorem tickKept_startEmbeddings (h : TickKept s t) (early : Bool) : TickKept s (startEmbeddings t early) := by
  unfold startEmbeddings
  split
  · exact h
  · refine tickKept_ite h (tickKept_foldl h (fun u x hu => ?_) _)
    dsimp only
    refine tickKept_ite ?_ hu
    exact tickKept_beside (tickKept_meterOffer hu (portMeter (embPort x)) _ early) rfl ⟨rfl, rfl⟩ rfl

/-! ### The start of a tick -/

/-- A comparator of a tick changes the debug port and at most starts a pulse on TICK_OUT. -/
theorem bpMatch_pulse (s : State) (l : List (BitVec 3)) (b : Bool) :
    ∃ d n, bpMatch s l b = { s with dbg := d, tkc := { s.tkc with pulse := n } } ∧ (n = s.tkc.pulse ∨ n = 16) := by
  obtain ⟨d, h⟩ := foldl_hitOne s b l
  unfold bpMatch
  dsimp only
  rw [h]
  split
  · exact ⟨_, _, rfl, .inl rfl⟩
  · split
    · exact ⟨_, _, rfl, .inl rfl⟩
    · split
      · exact ⟨_, _, rfl, .inr rfl⟩
      · exact ⟨_, _, rfl, .inl rfl⟩

theorem tickBreak_eq (s : State) : ∃ d n, tickBreak s = { s with dbg := d, tkc := { s.tkc with pulse := n } } ∧ (n = s.tkc.pulse ∨ n = 16) := by
  unfold tickBreak
  extract_lets hits v
  split
  · exact ⟨s.dbg, s.tkc.pulse, rfl, .inl rfl⟩
  · obtain ⟨d, n, h, hn⟩ := bpMatch_pulse s hits false
    rw [show v = _ from h]
    split
    · exact ⟨_, n, rfl, hn⟩
    · exact ⟨d, n, rfl, hn⟩

theorem startRecord_of_none (s : State) (seq : W64) (h : s.sp.early = none) : startRecord s seq = freshTick seq false (passiveTick s seq) := by
  simp [startRecord, h]

theorem takeChange_of_none (s : State) (h : s.twn.change = none) : takeChange s = s := by simp [takeChange, h]

/-- What a boundary leaves of a device whose twin is unpaired and asks for nothing. -/
theorem twinBoundary_unpaired (s : State) (hst : s.twn.state = .unpaired) (hc : s.twn.change = none) :
    ∃ x p, twinBoundary s = { s with twn := x, pwr := p } ∧ x.state = .unpaired := by
  have hq : ∀ u : State, u.twn.state = .unpaired → ∃ x, (match u.twn.quiet with
      | some n => if n.toNat ≤ u.tkc.seq.toNat then endQuiet u else u | none => u) = { u with twn := x } ∧ x.state = .unpaired := by
    intro u hu
    split
    · split
      · refine ⟨{ u.twn with quiet := none }, ?_, hu⟩
        unfold endQuiet
        simp [hu]
      · exact ⟨u.twn, rfl, hu⟩
    · exact ⟨u.twn, rfl, hu⟩
  unfold twinBoundary
  extract_lets a b v was w y
  obtain ⟨x, p, hv, hx, hxc⟩ : ∃ x p, v = { s with twn := x, pwr := p } ∧ x.state = .unpaired ∧ x.change = none := by
    unfold v
    split
    · exact ⟨_, _, rfl, hst, hc⟩
    · exact ⟨s.twn, s.pwr, rfl, hst, hc⟩
  have hw : w = { s with twn := x, pwr := p } := by
    unfold w
    rw [takeChange_of_none v (by rw [hv]; exact hxc), hv]
  have hy : y = { s with twn := x, pwr := p } := by
    unfold y was
    rw [hv, hw, if_neg (by rw [hx]; exact fun h => TwnState.noConfusion h.1)]
  rw [hy]
  obtain ⟨z, hz, hzs⟩ := hq { s with twn := x, pwr := p } hx
  exact ⟨z, p, hz, hzs⟩

/-- What a tick of number q that has just begun has, from the tick controller k and the queues of s. -/
structure Begun (s : State) (k : Tkc) (t : State) : Prop where
  tkc : ∃ df n, t.tkc = { k with active := true, seq := k.seq + 1, time := 0, phase := 1, extWait := false, defer := df, pulse := n } ∧
    (k.outEn = true → n = 16)
  cur : ∃ r, t.sp.cur = some r ∧ r.seq = k.seq + 1 ∧ r.dispatched = false ∧ r.sts = []
  metering : t.dp.metering = true
  queues : ∀ c, (coreOf t c).queues = (coreOf s c).queues

theorem Begun.of_tickKept {k : Tkc} (h : Begun s k t) (g : TickKept t u) : Begun s k u :=
  ⟨by rw [g.tkc]; exact h.tkc, by rw [g.cur]; exact h.cur, g.metering.trans h.metering, fun c => (g.queues c).trans (h.queues c)⟩

theorem begun_tickBreak {k : Tkc} (h : Begun s k t) : Begun s k (tickBreak t) := by
  obtain ⟨d, n, ht, hn⟩ := tickBreak_eq t
  obtain ⟨df, m, hk, hm⟩ := h.tkc
  rw [ht]
  refine ⟨⟨df, n, by simp only [hk], fun ho => ?_⟩, h.cur, h.metering, h.queues⟩
  rcases hn with hn | hn
  · rw [hn, hk]; exact hm ho
  · exact hn

/-- The start of an intake changes of the datapath only what embeddings offer to their meters. -/
theorem beginIntake_dp (s : State) (q : W64) (e : Bool) :
    (beginIntake s q e).dp = s.dp ∨ ∃ w : State, w.dp = s.dp ∧ (beginIntake s q e).dp = (startEmbeddings w e).dp := by
  unfold beginIntake
  extract_lets f g u v kept p w
  have hu : u.dp = s.dp := by unfold u; split <;> rfl
  have hw : w.dp = s.dp := by
    unfold w
    split
    · exact hu
    · exact hu
  split
  · exact .inl hw
  · exact .inr ⟨w, hw, rfl⟩

theorem begun_beginIntake {k : Tkc} (h : Begun s k t) (q : W64) (e : Bool) : Begun s k (beginIntake t q e) := by
  obtain ⟨ht, -, hc⟩ := beginIntake_kept t q e
  have hd : (beginIntake t q e).dp.metering = t.dp.metering ∧ ∀ c, (coreOf (beginIntake t q e) c).queues = (coreOf t c).queues := by
    unfold coreOf
    rcases beginIntake_dp t q e with hd | ⟨w, hw, hd⟩
    · rw [hd]; exact ⟨rfl, fun _ => rfl⟩
    · have hk := tickKept_startEmbeddings (.refl w) e
      rw [hd, ← hw]; exact ⟨hk.metering, hk.queues⟩
  refine ⟨by rw [ht]; exact h.tkc, ?_, hd.1.trans h.metering, fun c => (hd.2 c).trans (h.queues c)⟩
  obtain ⟨r, hr, h1, h2, h3⟩ := h.cur
  refine ⟨withCarry t q r, by rw [hc, hr]; rfl, ?_, ?_, ?_⟩ <;> unfold withCarry <;> split <;> assumption

/-- The start of a tick of which no early tick ran: a fresh record, the next sequence number, time 0. -/
theorem begun_startTick (s : State) (he : s.sp.early = none) : Begun s s.tkc (startTick s) := by
  have hq : ∀ c, (vget (s.dp.cores.map Core.showCounts) c).queues = (coreOf s c).queues := fun c => by simp [vget, Core.showCounts]
  unfold startTick
  extract_lets first a b m seq r v x y z j k
  obtain ⟨df, hm⟩ : ∃ df, m.tkc = { s.tkc with defer := df } := by
    unfold m a
    split
    · exact ⟨s.tkc.defer, rfl⟩
    · exact ⟨_, rfl⟩
  have hsp : m.sp = s.sp := by unfold m a; split <;> rfl
  have hmq : ∀ c, (coreOf m c).queues = (coreOf s c).queues := by
    unfold m b a
    split
    · exact fun _ => rfl
    · exact hq
  have hr : r = freshTick seq false (passiveTick m seq) := startRecord_of_none m seq (by rw [hsp, he])
  have hy : Begun s s.tkc y := by
    refine ⟨⟨df, if s.tkc.outEn then 16 else s.tkc.pulse, ?_, fun ho => if_pos ho⟩, ⟨r, rfl, ?_, ?_, ?_⟩, rfl, hmq⟩
    · show startTkc m.tkc seq r = _
      unfold startTkc
      rw [hr]
      simp only [hm, seq]
      rfl
    · rw [hr]
      simp only [freshTick, seq, hm]
    · rw [hr]; rfl
    · rw [hr]; rfl
  have hz : Begun s s.tkc z := hy.of_tickKept (tickKept_ite (tickKept_enterService (.refl y)) (.refl y))
  have hj : j = z := if_neg (by rw [hr]; exact Bool.false_ne_true)
  have hk : Begun s s.tkc k := begun_tickBreak (hz.of_tickKept (by
    rw [hj]
    exact tickKept_twinTick (tickKept_startJournal (tickKept_drainTrace (.refl z)))))
  exact begun_beginIntake hk seq false

/-- The boundary of an unpaired device at which no stop takes effect. -/
theorem begun_boundary (s : State) (hh : s.dbg.haltPend = false) (hst : s.twn.state = .unpaired) (hc : s.twn.change = none)
    (he : s.sp.early = none) (hs : s.tkc.stopAt = false) : Begun s { s.tkc with startIn := none, edgeIn := none, edgeOnly := false } (boundary s) := by
  unfold boundary
  extract_lets a u v f w d
  obtain ⟨y, p, hv, -⟩ := twinBoundary_unpaired u hst hc
  have hk : TickKept u (boundaryAclk v) := by
    rw [show v = _ from hv]
    exact tickKept_boundaryAclk (tickKept_beside (.refl u) rfl ⟨rfl, rfl⟩ rfl)
  have hw : Begun s u.tkc w := by
    have hb := begun_startTick (boundaryAclk v) (hk.early.trans he)
    rw [hk.tkc] at hb
    exact ⟨hb.tkc, hb.cur, hb.metering, fun c => (hb.queues c).trans (hk.queues c)⟩
  rw [if_neg (by rw [show u.dbg.haltPend = false from hh]; exact Bool.false_ne_true), if_neg (by rw [show v = _ from hv]; exact hs ▸ Bool.false_ne_true)]
  split
  · exact ⟨hw.tkc, hw.cur, hw.metering, hw.queues⟩
  · exact hw

/-- What a stop at its boundary leaves: the tick numbered last stays, and nothing meters. -/
structure Ended (s t : State) : Prop where
  seq : t.tkc.seq = s.tkc.seq
  stopAt : t.tkc.stopAt = false
  time : t.tkc.time = 0
  pulse : t.tkc.pulse = s.tkc.pulse
  cur : t.sp.cur = s.sp.cur
  metering : t.dp.metering = false
  waits : NoneWaits t.dp

theorem Ended.of_tickKept (h : Ended s t) (g : TickKept t u) : Ended s u :=
  ⟨by rw [g.tkc]; exact h.seq, by rw [g.tkc]; exact h.stopAt, by rw [g.tkc]; exact h.time, by rw [g.tkc]; exact h.pulse, g.cur.trans h.cur,
    g.metering.trans h.metering, g.waits h.metering h.waits⟩

theorem ended_finishRun (h : Ended s t) : Ended s (finishRun t) := by
  unfold finishRun
  split
  · refine Ended.of_tickKept (t := leaveService { t with tkc := _, err := _ }) ?_ (tickKept_postEvent (.refl _) _ _ _)
    exact ⟨h.seq, h.stopAt, h.time, h.pulse, h.cur, h.metering, h.waits⟩
  · exact h

theorem ended_stopRun (s : State) (he : s.sp.early = none) : Ended s (stopRun s) := by
  unfold stopRun
  extract_lets a b c d e
  have hd : Ended s d := ⟨rfl, rfl, rfl, rfl, rfl, rfl, fun m => by simp [d, b, a, mapMeters, meterStop, closeCounts, vget]⟩
  have hk : TickKept d (boundaryAclk d) := tickKept_boundaryAclk (.refl d)
  have hab : abandonEarly (boundaryAclk d) = boundaryAclk d := by simp [abandonEarly, hk.early.trans he]
  have he' : Ended s e := hd.of_tickKept (by
    unfold e
    rw [hab]
    exact tickKept_drainTrace hk)
  refine ended_finishRun (he'.of_tickKept (tickKept_ite ?_ (.refl e)))
  exact tickKept_beside (.refl e) rfl ⟨rfl, rfl⟩ rfl

/-- The boundary of an unpaired device at which a stop takes effect. -/
theorem boundary_stop (s : State) (hh : s.dbg.haltPend = false) (hst : s.twn.state = .unpaired) (hc : s.twn.change = none)
    (he : s.sp.early = none) (hs : s.tkc.stopAt = true) :
    (s.tkc.active = true → Ended s (boundary s)) ∧
    (s.tkc.active = false → (boundary s).tkc = { s.tkc with startIn := none, edgeIn := none, edgeOnly := false, stopAt := false } ∧
      (boundary s).sp = s.sp ∧ (boundary s).dp = s.dp) := by
  unfold boundary
  extract_lets a u v f w d
  obtain ⟨y, p, hv, -⟩ := twinBoundary_unpaired u hst hc
  replace hv : v = _ := hv
  rw [if_neg (by rw [show u.dbg.haltPend = false from hh]; exact Bool.false_ne_true), if_pos (by rw [hv]; exact hs)]
  constructor
  · intro ha
    rw [if_pos (by rw [hv]; exact ha)]
    rw [hv]
    obtain ⟨h1, h2, h3, h4, h5, h6, h7⟩ := ended_stopRun { u with twn := y, pwr := p } he
    exact ⟨h1, h2, h3, h4, h5, h6, h7⟩
  · intro ha
    rw [if_neg (by rw [hv]; exact ha ▸ Bool.false_ne_true)]
    unfold f
    rw [hv]
    exact ⟨rfl, rfl, rfl⟩

theorem exec_tickBoundary {s : State} {n : Nat} (hb : boundaryWait s = some n) (hr : mayReach s n = true) (hz : frozen (s.pass n) = false) :
    exec .tickBoundary s = .next (boundary (s.pass n)) := by
  show Host.Outcome.next (tickBoundary s) = _
  unfold tickBoundary
  rw [hb]
  simp [hr, hz]

theorem exec_flywheelBoundary {s : State} (ha : awaitsEdge s = true) (hf : s.tkc.fly = true) (hr : mayReach s (cyclesTo s (flyLimit s)) = true)
    (hz : frozen (s.pass (cyclesTo s (flyLimit s))) = false) :
    exec .flywheelBoundary s = .next (boundary { s.pass (cyclesTo s (flyLimit s)) with
      tkc := { (s.pass (cyclesTo s (flyLimit s))).tkc with miss := (s.pass (cyclesTo s (flyLimit s))).tkc.miss + 1 } }) := by
  show Host.Outcome.next (flywheel s) = _
  unfold flywheel
  simp [ha, hf, hr, hz]

theorem exec_tkcExtWait {s : State} (ha : awaitsEdge s = true) (hf : s.tkc.fly = false) (hr : mayReach s (cyclesTo s (flyLimit s)) = true)
    (hz : frozen (s.pass (cyclesTo s (flyLimit s))) = false) :
    exec .tkcExtWait s = .next { s.pass (cyclesTo s (flyLimit s)) with
      tkc := { (s.pass (cyclesTo s (flyLimit s))).tkc with extWait := true } } := by
  show Host.Outcome.next (extWait s) = _
  unfold extWait
  simp [ha, hf, hr, hz]

theorem pass_miss (s : State) (n : Nat) : (s.pass n).tkc.miss = s.tkc.miss := (congrArg Tkc.miss (pass_countsOnly s n) :)

/-- Settles O44, from what a started tick has and what a stop leaves. -/
theorem boundaryStartsTick : Obligations.BoundaryStartsTick := by
  unfold Obligations.BoundaryStartsTick
  refine ⟨fun s n hb hr => ?_, fun s ha hf hr => ?_, fun s ha hf hr => ?_⟩
  · intro u hz hh hst htw hc he
    have hx := exec_tickBoundary hb hr hz
    have hseq : u.tkc.seq = s.tkc.seq := pass_seq s n
    refine ⟨fun hs => ?_, fun hs ha => ?_, fun hs ha => ?_⟩
    · obtain ⟨⟨df, m, hk, hm⟩, ⟨r, h1, h2, h3, h4⟩, hmet, hq⟩ := begun_boundary u hh htw hc he hs
      rw [← hseq]
      refine ⟨_, r, hx, ?_, ?_, ?_, ?_, ?_, ?_, ?_, hmet, h1, h2, h3, h4, hq⟩
      all_goals rw [hk]
      exact hm
    · obtain ⟨h1, h2, h3, h4, h5, h6, h7⟩ := (boundary_stop u hh htw hc he hs).1 ha
      exact ⟨_, hx, h1.trans hseq, h2, h6, h3, h5, h4, h7⟩
    · obtain ⟨h1, h2, h3⟩ := (boundary_stop u hh htw hc he hs).2 ha
      refine ⟨_, hx, ?_, ?_, ?_, by rw [h2], h3⟩
      all_goals rw [h1]
      · exact hseq
      · exact ha
  · intro u hz hh hst htw hc he hs
    have hseq : u.tkc.seq = s.tkc.seq := pass_seq s _
    have hmiss : u.tkc.miss = s.tkc.miss := pass_miss s _
    obtain ⟨⟨df, m, hk, hm⟩, ⟨r, h1, h2, -, -⟩, -, -⟩ := begun_boundary { u with tkc := { u.tkc with miss := u.tkc.miss + 1 } } hh htw hc he hs
    rw [← hseq, ← hmiss]
    refine ⟨_, r, exec_flywheelBoundary ha hf hr hz, ?_, ?_, ?_, h1, h2⟩
    all_goals rw [hk]
  · intro u hz
    exact exec_tkcExtWait ha hf hr hz

end Sys2Proof.Machine
end

section
/-!
THE UNLOCK AND THE FUSES. The TAP instructions, challenge and response, the lockout, provisioning (R416 to R418, R388).
-/
namespace Sys2Proof.Machine
-- one proof after the other: the check compiles one text, and its memory holds few threads
set_option Elab.async false
open Sys2Proof.Safety

/-! ### The status word (Table 21-4) -/

theorem getLsbD_fieldBits {n : Nat} (i k : Nat) (v : BitVec n) : (fieldBits i v).getLsbD k = (decide (k < 32) && (decide (i ≤ k) && v.getLsbD (k - i))) := by
  unfold fieldBits
  rw [BitVec.getLsbD_shiftLeft, BitVec.getLsbD_setWidth]
  by_cases h : k < i
  · simp [h, Nat.not_le.2 h]
  · by_cases h2 : k < 32
    · simp [h, Nat.not_lt.1 h, h2, Nat.lt_of_le_of_lt (Nat.sub_le k i) h2]
    · simp [h2]

theorem getLsbD_bitAt (i k : Nat) (b : Bool) : (bitAt i b).getLsbD k = (decide (k < 32) && (decide (k = i) && b)) := by
  cases b
  · simp [bitAt]
  · simp only [bitAt, if_true, BitVec.getLsbD_shiftLeft, BitVec.getLsbD_one, Bool.and_true]
    by_cases h : k = i
    · simp [h]
    · simp [h]
      omega

theorem getLsbD_dbgStatus (s : State) (k : Nat) :
    (dbgStatus s).getLsbD k = (decide (k < 32) && (s.dbg.level.getLsbD k || (decide (k = 2) && s.dbg.virell) || (decide (k = 3) && s.dbg.lockout) ||
      (decide (4 ≤ k) && (BitVec.ofNat 2 (runCode s.dbg.runState)).getLsbD (k - 4)) || (decide (k = 6) && inUnconfirmed s) ||
      (decide (8 ≤ k) && s.dbg.fails.getLsbD (k - 8)) || (decide (k = 11) && s.dbg.marker) || (decide (k = 12) && s.dbg.trace))) := by
  simp only [dbgStatus, BitVec.getLsbD_or, getLsbD_fieldBits, getLsbD_bitAt, Bool.and_or_distrib_left, Nat.zero_le, decide_true, Bool.true_and, Nat.sub_zero]

theorem dbgStatus_fields (s : State) :
    (dbgStatus s).extractLsb' 0 2 = s.dbg.level ∧ (dbgStatus s).getLsbD 2 = s.dbg.virell ∧ (dbgStatus s).getLsbD 3 = s.dbg.lockout ∧
      ((dbgStatus s).extractLsb' 4 2).toNat = runCode s.dbg.runState ∧ (dbgStatus s).extractLsb' 8 3 = s.dbg.fails ∧
      (dbgStatus s).getLsbD 11 = s.dbg.marker ∧ (dbgStatus s).getLsbD 12 = s.dbg.trace := by
  have hhigh : ∀ k, 2 ≤ k → s.dbg.level.getLsbD k = false := fun k hk => BitVec.getLsbD_of_ge _ _ hk
  have hrun : (dbgStatus s).extractLsb' 4 2 = BitVec.ofNat 2 (runCode s.dbg.runState) := by
    apply BitVec.eq_of_getLsbD_eq
    intro i hi
    rw [BitVec.getLsbD_extractLsb', getLsbD_dbgStatus, hhigh _ (by omega)]
    obtain rfl | rfl : i = 0 ∨ i = 1 := by omega
    all_goals simp
  have hlevel : (dbgStatus s).extractLsb' 0 2 = s.dbg.level := by
    apply BitVec.eq_of_getLsbD_eq
    intro i hi
    rw [BitVec.getLsbD_extractLsb', getLsbD_dbgStatus]
    obtain rfl | rfl : i = 0 ∨ i = 1 := by omega
    all_goals simp
  have hfails : (dbgStatus s).extractLsb' 8 3 = s.dbg.fails := by
    apply BitVec.eq_of_getLsbD_eq
    intro i hi
    rw [BitVec.getLsbD_extractLsb', getLsbD_dbgStatus, hhigh _ (by omega)]
    obtain rfl | rfl | rfl : i = 0 ∨ i = 1 ∨ i = 2 := by omega
    all_goals simp
  have hcode : (BitVec.ofNat 2 (runCode s.dbg.runState)).toNat = runCode s.dbg.runState := by cases s.dbg.runState <;> rfl
  refine ⟨hlevel, ?_, ?_, by rw [hrun, hcode], hfails, ?_, ?_⟩
  all_goals rw [getLsbD_dbgStatus, hhigh _ (by omega)]; simp

/-! ### Fuses -/

/-- A field programmed joins those programmed once and takes its value. -/
theorem program_field (o : Otp) (f : OtpField) (hf : otpExists f = true) :
    otpIndex f ∈ (o.program f).done ∧
        (∀ v, f = .uid v → (o.program f).uid = v) ∧ (∀ v, f = .grade v → (o.program f).grade = v) ∧ (∀ v, f = .pcoreEn v → (o.program f).pcoreEn = v) ∧
        (∀ v, f = .certNb v → (o.program f).certNb = v) ∧ (∀ v, f = .keySeed v → (o.program f).keySeed = v) ∧
        (∀ v, f = .certSig v → (o.program f).certSig = v) ∧
        (∀ v, f = .dbgKeyHash v → (o.program f).dbgKeyHash = v ∧ (o.program f).dbgKeySet = true) ∧
        (∀ i v, f = .ownerKey i v → vget (o.program f).ownerKeys i = v ∧ (o.program f).ownerValid.getLsbD i.toNat = true) ∧
        (∀ i, f = .ownerRevoke i → (o.program f).ownerRevoked.getLsbD i.toNat = true) ∧
        (∀ b, f = .lifecycle b → (o.program f).life.toNat = max o.life.toNat (b.toNat + 1)) := by
  have hbit : ∀ (v : Byte) (i : BitVec 3), (setBit v i.toNat true).getLsbD i.toNat = true := by
    intro v i
    have hi := i.isLt
    simp [setBit, BitVec.getLsbD_shiftLeft]
    omega
  refine ⟨by cases f <;> simp [Otp.program], ?_, ?_, ?_, ?_, ?_, ?_, ?_, ?_, ?_, ?_⟩
  case refine_8 =>
    rintro i v rfl
    exact ⟨vget_vset_same _ _ _, hbit _ _⟩
  case refine_9 =>
    rintro i rfl
    exact hbit _ _
  case refine_10 =>
    rintro b rfl
    have hb : b.toNat < 3 := of_decide_eq_true hf
    simp only [Otp.program]
    split
    · rw [BitVec.toNat_add, show BitVec.toNat (1 : BitVec 2) = 1 from rfl]
      omega
    · omega
  case refine_7 =>
    rintro v rfl
    exact ⟨rfl, rfl⟩
  all_goals
    rintro v rfl
    rfl

/-! ### The commands of the unlock -/

theorem extractLsb'_append (x : BitVec 32) (y : BitVec 128) : (x ++ y).extractLsb' 0 128 = y ∧ (x ++ y).extractLsb' 128 32 = x := by
  constructor
  · apply BitVec.eq_of_getLsbD_eq
    intro i hi
    rw [BitVec.getLsbD_extractLsb', decide_eq_true hi, Nat.zero_add, Bool.true_and]
    exact (BitVec.getLsbD_append (x := x) (y := y)).trans (if_pos hi)
  · apply BitVec.eq_of_getLsbD_eq
    intro i hi
    rw [BitVec.getLsbD_extractLsb', decide_eq_true hi, Bool.true_and]
    refine (BitVec.getLsbD_append (x := x) (y := y)).trans ((if_neg (by omega)).trans ?_)
    rw [Nat.add_sub_cancel_left]

/-- Settles O59, command by command. -/
theorem unlockAndProvisioning : Obligations.UnlockAndProvisioning := by
  unfold Obligations.UnlockAndProvisioning
  refine ⟨fun s => ⟨rfl, rfl, rfl, dbgStatus s, rfl, dbgStatus_fields s⟩, fun s v => ⟨fun h => ?_, fun h => ?_⟩, fun s n => ⟨fun h hb => ?_, fun h => ?_⟩,
    fun s l k g => rfl, fun s r a b c hr hb => ?_, fun s f vpp => ⟨fun hl hv hp he hd => ?_, fun h => ?_⟩⟩
  · show Host.Outcome.next _ = _
    rw [if_pos h]
  · refine ⟨_, congrArg Host.Outcome.next (if_neg h), rfl, rfl, rfl, (extractLsb'_append _ _).1, (extractLsb'_append _ _).2⟩
  · show Host.Outcome.next (challenge s n) = _
    unfold challenge
    rw [if_neg (by rw [h, beq_false_of_ne hb]; exact Bool.false_ne_true)]
    rfl
  · refine ⟨challenge s n, rfl, ?_⟩
    have hc : (s.dbg.lockout || s.sec.bootState == 6) = true := by rcases h with h | h <;> simp [h]
    unfold challenge
    rw [if_pos hc]
    exact ⟨rfl, rfl, rfl⟩
  · show Host.Outcome.next (unlockDecided s a b c) = _
    have hn : (min 4 (s.dbg.fails.toNat + 1) == 4) = decide (3 ≤ s.dbg.fails.toNat) := by
      rw [Bool.eq_iff_iff, beq_iff_eq, decide_eq_true_iff]
      omega
    unfold unlockDecided
    rw [hr]
    dsimp only
    rw [if_neg hb, hn]
    unfold accepts
    split <;> rfl
  · obtain ⟨hdone, hrest⟩ := program_field s.sec.otp f he
    have hx : exec (.otpProg f vpp) s = .next { s with dbg := { s.dbg with ir := 0x18 }, sec := { s.sec with otp := s.sec.otp.program f } } := by
      show Host.Outcome.next (programOtp s f vpp) = _
      have hd' : s.sec.otp.done.contains (otpIndex f) = false := by simpa using hd
      unfold programOtp
      dsimp only
      rw [bne_iff_ne.2 hl, hv, hp, he, hd']
      rfl
    exact ⟨_, hx, rfl, hdone, hrest⟩
  · show Host.Outcome.next (programOtp s f vpp) = _
    rcases h with h | h | h | h | h <;> simp [programOtp, h]

end Sys2Proof.Machine
end

section
/-!
DEBUG COMMANDS. What passes while the device is frozen, and the commands of the debug port (R353, R419 to R424).
-/
namespace Sys2Proof.Machine
-- one proof after the other: the check compiles one text, and its memory holds few threads
set_option Elab.async false
open Sys2Proof.Safety

variable {s t : State} {d e : Dp}

/-! ### Passing cycles leaves every queue its commands -/

/-- Every queue of every core holds in e the commands it holds in d. -/
def CmdsStay (d e : Dp) : Prop := ∀ k q, (vget (vget e.cores k).queues q).cmds = (vget (vget d.cores k).queues q).cmds

theorem CmdsStay.refl (d : Dp) : CmdsStay d d := fun _ _ => rfl

theorem CmdsStay.trans {f : Dp} (h : CmdsStay d e) (g : CmdsStay e f) : CmdsStay d f := fun k q => (g k q).trans (h k q)

theorem DpKept.cmdsStay (h : DpKept d e) : CmdsStay d e := fun k _ => by rw [(h.cores k).queues]

theorem cmdsStay_setCore (h : CmdsStay d e) (c : BitVec 3) {x : Core} (hx : ∀ q, (vget x.queues q).cmds = (vget (vget e.cores c).queues q).cmds) :
    CmdsStay d (e.setCore c x) := by
  intro k q
  rw [Dp.setCore_cores, vget_vset]
  split
  · next hk => rw [hx, ← hk, h]
  · exact h k q

theorem cmdsStay_modCore (h : CmdsStay d e) (c : BitVec 3) {f : Core → Core} (hf : ∀ x, (f x).queues = x.queues) : CmdsStay d (e.modCore c f) :=
  cmdsStay_setCore h c fun _ => by rw [hf]

theorem cmdsStay_foldl {α : Type} {f : Dp → α → Dp} (h : CmdsStay d e) (hf : ∀ e x, CmdsStay d e → CmdsStay d (f e x)) (l : List α) :
    CmdsStay d (l.foldl f e) :=
  List.foldlRecOn (motive := CmdsStay d) _ _ h fun u hu x _ => hf u x hu

theorem setLanes_queues (x : Core) (l : List (Nat × Nat × Nat)) : (setLanes x l).queues = x.queues := by
  refine List.foldlRecOn (motive := fun y : Core => y.queues = x.queues) _ _ rfl fun y hy z _ => ?_
  exact hy

theorem cmdsStay_landRow (h : CmdsStay d e) (k : BitVec 3) (r : InRow) : CmdsStay d (landRow e k r).1 := by
  unfold landRow
  split
  · exact h
  · split <;> exact h

theorem cmdsStay_landClaim (h : CmdsStay d e) (c : BitVec 3) (q : Queue) (i : BitVec 4) (n : Nat) (k : BitVec 3) (cmp : BitVec 2) (cen : Bool) :
    CmdsStay d (landClaim e c q i n k cmp cen) := by
  unfold landClaim
  dsimp only
  split <;> exact h

theorem cmdsStay_land (h : CmdsStay d e) (l : Landing) : CmdsStay d (land e l).1 := by
  cases l <;> dsimp only [land]
  case flag | kset | kadd | cmp | claimResult | inRow | narrow | ready | creditReturn | curve | tables | sbuf | tile =>
    exact cmdsStay_modCore h _ fun _ => rfl
  case deDone =>
    unfold Dp.cflg
    split
    · exact cmdsStay_modCore h _ fun _ => rfl
    · exact h
  case regs => exact cmdsStay_modCore h _ fun _ => setLanes_queues _ _
  case claimUnit => exact cmdsStay_landClaim h _ _ _ _ _ _ _
  case dflag | wrst | row => exact h

theorem cmdsStay_passLandings (d : Dp) (n : Nat) : CmdsStay d (d.passLandings n).1 := by
  unfold Dp.passLandings
  refine List.foldlRecOn (motive := fun a : Dp × List Report => CmdsStay d a.1) _ _ (.refl d) fun a ha x _ => ?_
  split
  · next c q i m k cmp cen _ =>
    have hy := cmdsStay_landClaim (e := { a.1 with landings := [] }) ha c q i m k cmp cen
    dsimp only
    split
    · exact hy
    · exact hy
    · exact cmdsStay_foldl (e := { landClaim { a.1 with landings := [] } c q i m k cmp cen with landings := [] }) hy (fun _ _ hd => cmdsStay_land hd _) _
  · exact cmdsStay_land ha _

theorem pass_queues (x : Core) (n : Nat) : (x.pass n).queues = x.queues := by
  unfold Core.pass
  split
  · rfl
  · split <;> rfl

theorem cmdsStay_dpPass (d : Dp) (n : Nat) (fr : Bool) : CmdsStay d (d.pass n fr).1 := by
  have h := cmdsStay_passLandings d n
  unfold Dp.pass
  dsimp only
  split
  · exact h
  · intro k q
    simp only [vget, Vector.getElem_map, pass_queues]
    exact h k q

theorem cmdsStay_stopUnreleased (s : State) (c : BitVec 3) : CmdsStay s.dp (stopUnreleased s c).dp := by
  unfold stopUnreleased
  split
  · dsimp only
    split <;> exact cmdsStay_modCore (.refl _) c fun _ => rfl
  · exact .refl _

theorem cmdsStay_refreshHold (s : State) (c : BitVec 3) : CmdsStay s.dp (refreshHold s c).dp := by
  unfold refreshHold
  dsimp only
  split
  · exact cmdsStay_setCore (.refl _) c fun _ => rfl
  · exact .refl _

theorem cmdsStay_resumeVft (s : State) (c : BitVec 3) : CmdsStay s.dp (resumeVft s c).dp := by
  unfold resumeVft
  split
  · exact .refl _
  · exact (workKept_ftResume (w := eventWork s c .ve) (DpKept.refl s.dp)).cmdsStay.trans
      (queuesKept_takeReports { s with dp := _ } _).dp.cmdsStay

theorem foldl_cmdsStay {α : Type} {f : State → α → State} (hf : ∀ s x, CmdsStay s.dp (f s x).dp) (l : List α) (s : State) :
    CmdsStay s.dp (l.foldl f s).dp :=
  List.foldlRecOn (motive := fun t : State => CmdsStay s.dp t.dp) _ _ (.refl s.dp) fun u hu x _ => hu.trans (hf u x)

theorem cmdsStay_passSpan (s : State) (n : Nat) : CmdsStay s.dp (s.passSpan n).dp := by
  unfold State.passSpan
  split
  · exact .refl _
  have hhold : CmdsStay s.dp (allCores.foldl refreshHold s).dp := foldl_cmdsStay cmdsStay_refreshHold _ s
  generalize allCores.foldl refreshHold s = u at hhold
  dsimp only
  generalize hv : passFirmware _ _ = v
  have hfw : CmdsStay s.dp v.dp := by
    rw [← hv]
    unfold passFirmware
    split <;> exact hhold.trans (cmdsStay_dpPass u.dp n (frozen u))
  generalize hw : (if (flagHits u n).isEmpty = true then v else bpMatch v (flagHits u n) false) = w
  have hbp : CmdsStay s.dp w.dp := by
    rw [← hw]
    split
    · exact hfw
    · rw [bpMatch_dp]; exact hfw
  have hend : CmdsStay s.dp (allCores.foldl resumeVft (stopLate (takeReports w (u.dp.pass n (frozen u)).2))).dp :=
    ((hbp.trans (queuesKept_takeReports w _).dp.cmdsStay).trans (foldl_cmdsStay cmdsStay_stopUnreleased _ _)).trans
      (foldl_cmdsStay cmdsStay_resumeVft _ _)
  split
  · rw [freezeNow_dp]
    exact hend
  · exact hend

theorem cmdsStay_pass (s : State) (n : Nat) : CmdsStay s.dp (s.pass n).dp := by
  unfold State.pass
  generalize 8 = k
  induction k generalizing s n with
  | zero => exact cmdsStay_passSpan s n
  | succ k ih =>
    unfold State.passSpans
    split
    · exact (cmdsStay_passSpan s _).trans (ih _ _)
    · exact cmdsStay_passSpan s n

/-! ### A frozen device stays frozen while cycles pass -/

theorem bpMatch_runState (s : State) (l : List (BitVec 3)) (b : Bool) : (bpMatch s l b).dbg.runState = s.dbg.runState := by
  have h : (l.foldl (hitOne b) s).dbg.runState = s.dbg.runState :=
    List.foldlRecOn (motive := fun u : State => u.dbg.runState = s.dbg.runState) _ _ rfl fun u hu _ _ => hu
  unfold bpMatch
  dsimp only
  split
  · exact h
  · split
    · exact h
    · split <;> exact h

theorem stopUnreleased_dbg (s : State) (c : BitVec 3) : (stopUnreleased s c).dbg = s.dbg := by
  unfold stopUnreleased
  split
  · dsimp only
    split <;> rfl
  · rfl

theorem resumeVft_dbg (s : State) (c : BitVec 3) : (resumeVft s c).dbg = s.dbg := by
  unfold resumeVft
  split
  · rfl
  · exact takeReports_dbg _ _

theorem refreshHold_dbg (s : State) (c : BitVec 3) : (refreshHold s c).dbg = s.dbg := by
  unfold refreshHold
  dsimp only
  split <;> rfl

theorem foldl_dbg {α : Type} {f : State → α → State} (hf : ∀ s x, (f s x).dbg = s.dbg) (l : List α) (s : State) : (l.foldl f s).dbg = s.dbg :=
  List.foldlRecOn (motive := fun u : State => u.dbg = s.dbg) _ _ rfl fun u hu x _ => (hf u x).trans hu

theorem frozen_of_runState (h : t.dbg.runState = s.dbg.runState) : frozen t = frozen s := by
  unfold frozen
  rw [h]

theorem frozen_passSpan (h : frozen s = true) (n : Nat) : frozen (s.passSpan n) = true := by
  unfold State.passSpan
  split
  · exact h
  have hhold : (allCores.foldl refreshHold s).dbg = s.dbg := foldl_dbg refreshHold_dbg _ s
  generalize allCores.foldl refreshHold s = u at hhold
  dsimp only
  generalize hv : passFirmware _ _ = v
  have hfw : v.dbg = s.dbg := by
    rw [← hv, ← hhold]
    unfold passFirmware
    split <;> rfl
  generalize hw : (if (flagHits u n).isEmpty = true then v else bpMatch v (flagHits u n) false) = w
  have hbp : w.dbg.runState = s.dbg.runState := by
    rw [← hw, ← hfw]
    split
    · rfl
    · exact bpMatch_runState v _ false
  have hend : (allCores.foldl resumeVft (stopLate (takeReports w (u.dp.pass n (frozen u)).2))).dbg = w.dbg := by
    rw [foldl_dbg resumeVft_dbg, stopLate, foldl_dbg stopUnreleased_dbg, takeReports_dbg]
  split
  · rfl
  · rw [frozen_of_runState ((congrArg Dbg.runState hend).trans hbp), h]

theorem frozen_pass (h : frozen s = true) (n : Nat) : frozen (s.pass n) = true := by
  unfold State.pass
  generalize 8 = k
  induction k generalizing s n with
  | zero => exact frozen_passSpan h n
  | succ k ih =>
    unfold State.passSpans
    split
    · exact ih (frozen_passSpan h _) _
    · exact frozen_passSpan h n

/-! ### A step of one command (R422) -/

theorem lateWrites_dbg (s : State) (c : BitVec 3) (q : W64) (l : List Nat) : (lateWrites s c q l).dbg = s.dbg := by
  unfold lateWrites
  split <;> rfl

theorem startEarly_stays (s : State) (c : BitVec 3) : CmdsStay s.dp (startEarly s c).dp ∧ (startEarly s c).dbg = s.dbg := by
  unfold startEarly
  dsimp only
  split
  · split
    · exact ⟨cmdsStay_setCore (.refl _) c fun q => by simp [Core.begin, EngQ.start, vget], rfl⟩
    · exact ⟨.refl _, rfl⟩
  · exact ⟨.refl _, rfl⟩

/-- An issue of a core whose control processor does not wait takes the head of its queue and no other command, and does not thaw. -/
theorem issueNow_stays {i : Iss} {q : Queue} {step : Bool} {eff : Bool → Work → Work} (hcp : (coreOf s i.core).cpWait = [])
    (heff : WorkKept (popped s i.core q) (eff (runs s i) (workOf s i.core q step))) :
    CmdsStay (popped s i.core q) (issueNow s i q step eff).dp ∧ (issueNow s i q step eff).dbg.runState = s.dbg.runState := by
  unfold issueNow
  dsimp only
  have hw := workKept_dropLate heff s.dp.landings.length
  generalize Work.dropLate _ _ = w at hw ⊢
  have hd : DpKept (popped s i.core q) (if w.endsIn s.dp.landings.length = 0 then w.d else
      w.d.modCore i.core (fun x => x.packetEnds w.tick i.pkt (s.dp.cycle + w.endsIn s.dp.landings.length))) := by
    split
    · exact hw
    · exact dpKept_packetEnds hw _ _ _ _
  generalize (if w.endsIn s.dp.landings.length = 0 then w.d else _) = e at hd ⊢
  generalize hu : lateWrites { s with dp := e } i.core w.tick w.lateRows = u
  have hud : DpKept (popped s i.core q) u.dp ∧ u.dbg = s.dbg := by
    rw [← hu]
    exact ⟨hd.trans (queuesKept_lateWrites { s with dp := e } _ _ _).dp, lateWrites_dbg _ _ _ _⟩
  generalize hv : takeReports u w.reps = v
  have hvd : DpKept (popped s i.core q) v.dp ∧ v.dbg = s.dbg := by
    rw [← hv]
    exact ⟨hud.1.trans (queuesKept_takeReports u _).dp, (takeReports_dbg u _).trans hud.2⟩
  generalize hx : bpMatch v _ _ = x
  have hxd : DpKept (popped s i.core q) x.dp ∧ x.dbg.runState = s.dbg.runState := by
    rw [← hx, bpMatch_dp, bpMatch_runState, hvd.2]
    exact ⟨hvd.1, rfl⟩
  have hnil : (coreOf x i.core).cpWait = [] := by
    rw [(hxd.1.cores i.core).cpWait, vget_popped, if_pos rfl]
    exact hcp
  rw [drainCp_nil x i.core hnil]
  obtain ⟨h1, h2⟩ := startEarly_stays x i.core
  exact ⟨hxd.1.cmdsStay.trans h1, by rw [h2, hxd.2]⟩

end Sys2Proof.Machine
end

section
namespace Sys2Proof.Machine
-- one proof after the other: the check compiles one text, and its memory holds few threads
set_option Elab.async false
open Sys2Proof.Safety

variable {s t : State} {d e : Dp}

/-! ### When a command is taken (R418, R419) -/

theorem command_locked {l : Nat} {ok : State → Bool} {act : State → State} (h : s.dbg.level = 0) : command s l ok act = inCmd s := if_pos h

theorem command_below {l : Nat} {ok : State → Bool} {act : State → State} (h : s.dbg.level ≠ 0) (hl : s.dbg.level.toNat < l) :
    command s l ok act = refuseCmd (inCmd s) := by
  unfold command
  dsimp only
  rw [if_neg h, decide_eq_true hl]
  rfl

theorem command_taken {l : Nat} {ok : State → Bool} {act : State → State} (h : mayCommand s l) (hok : ok (inCmd s) = true) :
    command s l ok act = act (inCmd s) := by
  unfold command
  dsimp only
  rw [if_neg h.1, decide_eq_false (Nat.not_lt.2 h.2), show ok { s with dbg := { s.dbg with ir := 0x13 } } = true from hok]
  rfl

theorem refuseCmd_inCmd (s : State) : refuseCmd (inCmd s) = { inCmd s with dbg := { (inCmd s).dbg with data := withStatus s.dbg.data 6 } } := rfl

/-! ### What an access leaves in DBG_DATA (R423) -/

theorem foldr_leValue_lt (l : List Byte) : l.foldr (fun b a => b.toNat + 256 * a) 0 < 256 ^ l.length := by
  induction l with
  | nil => simp
  | cons b l ih =>
    have hb := b.isLt
    rw [List.foldr_cons, List.length_cons, Nat.pow_succ]
    omega

theorem granValue_toNat (l : List Byte) (h : l.length = 16) : (granValue l).toNat = l.foldr (fun b a => b.toNat + 256 * a) 0 := by
  have hl := foldr_leValue_lt l
  rw [h] at hl
  exact (BitVec.toNat_ofNat _ _).trans (Nat.mod_eq_of_lt (hl.trans_eq (by norm_num)))

/-- A granule of memory as the port returns it. -/
theorem granValue_memSlice (m : Mem) (a : Nat) : (granValue (memSlice m a 16)).toNat = memNat m a 16 := granValue_toNat _ (memSlice_length _ _ _)

theorem getLsbD_accessResult (v : BitVec 128) (chk : BitVec 17) (st : Nat) (sp : Bool) (k : Nat) :
    (accessResult v chk st sp).getLsbD k = (decide (k < 160) && (v.getLsbD k || (decide (128 ≤ k) && chk.getLsbD (k - 128)) ||
      (decide (145 ≤ k) && (BitVec.ofNat 160 (st % 8)).getLsbD (k - 145)) || (decide (148 ≤ k) && (BitVec.ofNat 160 sp.toNat).getLsbD (k - 148)))) := by
  simp only [accessResult, BitVec.getLsbD_or, BitVec.getLsbD_shiftLeft, BitVec.getLsbD_setWidth, ← decide_not, Nat.not_lt]
  by_cases h : k < 160
  · have h' : k - 128 < 160 := by omega
    simp only [h, h', decide_true, Bool.true_and]
  · simp only [h, decide_false, Bool.false_and, Bool.or_self]

theorem accessResult_data (v : BitVec 128) (chk : BitVec 17) (st : Nat) (sp : Bool) : (accessResult v chk st sp).extractLsb' 0 128 = v := by
  apply BitVec.eq_of_getLsbD_eq
  intro i hi
  rw [BitVec.getLsbD_extractLsb', getLsbD_accessResult, Nat.zero_add, decide_eq_true hi, decide_eq_true (show i < 160 by omega),
    decide_eq_false (show ¬128 ≤ i by omega), decide_eq_false (show ¬145 ≤ i by omega), decide_eq_false (show ¬148 ≤ i by omega)]
  simp

theorem accessResult_status (v : BitVec 128) (chk : BitVec 17) (st : Nat) (sp : Bool) :
    (accessResult v chk st sp).extractLsb' 145 3 = BitVec.ofNat 3 st := by
  apply BitVec.eq_of_getLsbD_eq
  intro i hi
  have hm : (st % 8).testBit i = st.testBit i := by rw [show 8 = 2 ^ 3 from rfl, Nat.testBit_mod_two_pow, decide_eq_true hi, Bool.true_and]
  rw [BitVec.getLsbD_extractLsb', getLsbD_accessResult, decide_eq_true hi, decide_eq_true (show 145 + i < 160 by omega),
    decide_eq_true (show 145 ≤ 145 + i by omega), decide_eq_false (show ¬148 ≤ 145 + i by omega),
    BitVec.getLsbD_of_ge v _ (by omega), BitVec.getLsbD_of_ge chk _ (by omega), Nat.add_sub_cancel_left, BitVec.getLsbD_ofNat, BitVec.getLsbD_ofNat, BitVec.getLsbD_ofNat,
    decide_eq_true (show i < 160 by omega), decide_eq_true hi, hm]
  simp

/-- A granule written reads as what was written, and every other byte as before. -/
theorem memNat_memWrite_gran {m : Mem} (h : memWf m) (g : Nat) (v : BitVec 128) :
    memNat (memWrite m (16 * g) (bytesOf 16 v.toNat)) (16 * g) 16 = v.toNat ∧
      ∀ a, a / 16 ≠ g → memRead (memWrite m (16 * g) (bytesOf 16 v.toNat)) a = memRead m a := by
  have hlen : (bytesOf 16 v.toNat).length = 16 := leBytes_length 16 _
  refine ⟨?_, fun a ha => ?_⟩
  · have hs := memSlice_memWrite_same h (16 * g) (bytesOf 16 v.toNat)
    rw [hlen] at hs
    unfold memNat
    rw [hs]
    refine (leValue_leBytes 16 v.toNat).trans (Nat.mod_eq_of_lt ?_)
    exact v.isLt.trans_eq (by norm_num)
  · exact memRead_memWrite_of_ne _ _ _ _ (by rw [hlen]; omega)

/-! ### Command by command -/

theorem exec_freeze (s : State) : exec .freeze s =
    .next (command s 2 soloTwin (fun s => if s.dbg.runState = .run ∨ s.dbg.runState = .stepping then freezeNow s else s)) := rfl
theorem exec_halt (s : State) : exec .halt s = .next (command s 2 soloTwin (fun s => if s.dbg.runState = .halted then s else
    { s with dbg := { s.dbg with runState := if s.dbg.runState = .frozen then RunState.run else s.dbg.runState, haltPend := true } })) := rfl
theorem exec_read (s : State) (d : DbgCmd) : exec (.read d) s = .next (command s 2 stopped (fun s =>
    { (readPlace s (Machine.placeOf s d)).2 with dbg := { (readPlace s (Machine.placeOf s d)).2.dbg with data := (readPlace s (Machine.placeOf s d)).1 } })) := rfl
theorem exec_write (s : State) (d : DbgCmd) : exec (.write d) s = .next (command s 2 stopped (fun s => writePlace s (Machine.placeOf s d))) := rfl

/-- Every command of the debug port that is below its level. -/
theorem debug_locked (s : State) (d : DbgCmd) {c : Instr}
    (hc : c ∈ [Instr.freeze, .halt, .resume, .stepTick, .stepCmd d, .read d, .write d, .bpSet d, .bpClr d, .claim d, .lock]) (h : s.dbg.level = 0) :
    exec c s = .next (inCmd s) := by
  simp only [List.mem_cons, List.not_mem_nil, or_false] at hc
  rcases hc with rfl | rfl | rfl | rfl | rfl | rfl | rfl | rfl | rfl | rfl | rfl
  all_goals exact congrArg Host.Outcome.next (command_locked h)

theorem debug_below (s : State) (d : DbgCmd) {c : Instr} (hc : c ∈ [Instr.freeze, .halt, .resume, .stepTick, .stepCmd d, .read d, .write d])
    (h : s.dbg.level = 1) : exec c s = .next { inCmd s with dbg := { (inCmd s).dbg with data := withStatus s.dbg.data 6 } } := by
  have h0 : s.dbg.level ≠ 0 := by rw [h]; decide
  have h2 : s.dbg.level.toNat < 2 := by rw [h]; decide
  rw [← refuseCmd_inCmd]
  simp only [List.mem_cons, List.not_mem_nil, or_false] at hc
  rcases hc with rfl | rfl | rfl | rfl | rfl | rfl | rfl
  all_goals exact congrArg Host.Outcome.next (command_below h0 h2)

/-- A halted device with ticks active and the internal source goes on in 64 cycles. -/
theorem leaveHalt_internal (s : State) (ha : s.tkc.active = true) (he : s.tkc.ending = false) (hs : s.tkc.src = false) :
    (leaveHalt s).tkc = { s.tkc with startIn := some 64 } ∧ (leaveHalt s).dp.dev = s.dp.dev ∧ (leaveHalt s).sp = s.sp := by
  have hk := tickKept_enterService (.refl s)
  have hdev : (enterService s).dp.dev = s.dp.dev := by
    refine List.foldlRecOn (motive := fun d : Dp => d.dev = s.dp.dev) _ _ rfl fun d hd k _ => ?_
    split
    · exact hd
    · exact hd
  unfold leaveHalt
  simp only [ha, he, hs, hk.tkc, if_true, Bool.not_false, Bool.and_self, Bool.true_or, Bool.not_true, Bool.false_eq_true, if_false]
  exact ⟨trivial, hdev, rfl⟩

theorem core_of_decodeCmd {k : BitVec 3} {n : Nat} {q : Queue} {w : CmdWord} {c : Instr} {i : Iss} (hd : decodeCmd k n q w = some c)
    (hi : issOf c = some i) : i.core = k := by
  have h := (decodedWordIsItsEncoding k n q w c hd).2.2
  rw [hi] at h
  exact congrArg Iss.core (Option.some.inj h)

theorem iss_of_effectOf {c : Instr} {i : Iss} {eff : Bool → Work → Work} (h : effectOf c = some (i, eff)) : issOf c = some i := by
  cases c <;> simp only [effectOf, Option.some.injEq, Prod.mk.injEq, reduceCtorEq] at h <;> rw [issOf, h.1]

/-- The command a step targets decodes from the head of its queue. -/
theorem stepTarget_cases {d : DbgCmd} {k : BitVec 3} {q : Queue} {i : Instr} (h : stepTarget s d = some (k, q, i)) :
    ∃ w, nextWord (coreOf s k) q = some w ∧ decodeCmd k d.arg2.toNat q w = some i := by
  unfold stepTarget at h
  split at h
  · cases h
  · next c _ =>
    dsimp only at h
    split at h
    · cases h
    · split at h
      · next j hj =>
        split at h
        · cases h
          obtain ⟨w, hw, hd⟩ := Option.bind_eq_some_iff.1 hj
          exact ⟨w, hw, hd⟩
        · cases h
      · cases h

/-- A step that issues takes the head of its queue and leaves the device frozen. -/
theorem stepIssue_stays {h : Iss} {q : Queue} {i : Instr} {eff : Bool → Work → Work} (hz : frozen s = true) (he : effectOf i = some (h, eff))
    (hcp : (coreOf s h.core).cpWait = []) :
    frozen (stepIssue s h.core q h eff) = true ∧
      (vget (coreOf (stepIssue s h.core q h eff) h.core).queues (queueIndex q)).cmds = (vget (coreOf s h.core).queues (queueIndex q)).cmds.drop 1 := by
  unfold stepIssue
  extract_lets x due now u v w y
  have hcore : coreOf u h.core = { coreOf s h.core with time := due, startIn := 0 } := vget_vset_same _ _ _
  have hcu : (coreOf u h.core).cpWait = [] := by rw [hcore]; exact hcp
  obtain ⟨hc, hr⟩ := issueNow_stays (step := true) (q := q) hcu
    (effKept_effectOf he _ _ (runs u h) (show WorkKept (popped u h.core q) (workOf u h.core q true) from .refl _))
  have hw : CmdsStay (popped u h.core q) w.dp := 
    cmdsStay_modCore hc _ (f := fun y => if y.tick = x.tick then { y with time := max now due } else y) fun z => by split <;> rfl
  have hz' : frozen w = true := (frozen_of_runState hr).trans hz
  refine ⟨frozen_pass (frozen_pass hz' _) _, ?_⟩
  have hstay := (hw.trans (cmdsStay_pass w (settleTime w.dp))).trans (cmdsStay_pass y (settleTime y.dp))
  have hhead := hstay h.core (queueIndex q)
  rw [vget_popped, if_pos rfl, pop_queue, if_pos rfl] at hhead
  rw [hhead, hcore]
  rfl

/-- A command whose gate does not pass holds its core. -/
theorem setHold_one (s : State) (h : Iss) (q : Queue) (g : BitVec 3) :
    ∃ x, (setHold s h q [(q, g)]).dp = s.dp.setCore h.core { coreOf s h.core with hold := some x } ∧ x.gate = g := by
  refine ⟨_, rfl, ?_⟩
  simp

/-! ### A granule of a memory row -/

/-- Beyond its record, a report that is no uncorrectable memory error leaves the error block. -/
theorem takeReport_err_record (s : State) {r : Report} (h1 : r.cls ≠ 1) : (takeReport s r).err = (recordReport s r).err := by
  unfold takeReport
  extract_lets u row seq hold
  have hh : hold = [] := if_neg fun x => h1 x.1
  rw [hh, if_neg (by simp), if_neg fun x => h1 x.1]
  split
  · rfl
  · have hroll : ∀ ch, (if r.rollback then rollChain u r ch else u).err = u.err := fun ch => by
      split
      · exact rollChain_err u r ch
      · rfl
    dsimp only
    split
    · rw [callRestart_err, hroll]
    · rw [hroll]

theorem takeReport_cnt (s : State) (r : Report) (h0 : r.cls ≠ 0) (h1 : r.cls ≠ 1) :
    (vget (takeReport s r).err.cls r.cls).cnt = satInc (vget s.err.cls r.cls).cnt := by
  rw [takeReport_err_record s h1, recordReport_cls s r h0, if_pos rfl]
  rfl

/-- Of the datapath a report changes only cores. -/
theorem takeReport_dp (s : State) (r : Report) : { (takeReport s r).dp with cores := s.dp.cores } = s.dp := by
  have hlose : ∀ (q : W64) (l : List W16) (u : State), (l.foldl (loseStream q) u).dp = u.dp := fun q l u =>
    List.foldlRecOn (motive := fun v : State => v.dp = u.dp) _ _ rfl fun v hv x _ => (loseStream_dp v q x).trans hv
  rcases takeReport_cases s r with ⟨q, l, h⟩ | ⟨n, h⟩ | h | ⟨c, h⟩ | ⟨v, c, q, b, hv, h⟩
  · rw [h, hlose, recordReport_dp]
  · rw [h, loseJournal_dp, recordReport_dp]
  · rw [h, recordReport_dp]
  · rw [h, rollChain_dp, recordReport_dp]
  · have hd : v.dp = s.dp := by rcases hv with rfl | rfl <;> simp
    have hc := callRestart_dp v c q b
    rw [hd] at hc
    rw [h]
    exact hc

theorem exec_resume (s : State) : exec .resume s = .next (command s 2 (fun _ => true) (fun s =>
    let s := if s.dbg.runState = .halted then leaveHalt s else s
    { s with dbg := { s.dbg with runState := .run, freezePend := false, haltPend := false, stepTick := false, bpHit := 0, bpSpec := 0 } })) := rfl
theorem exec_stepTick (s : State) : exec .stepTick s = .next (command s 2 (fun s => soloTwin s && s.dbg.runState == .halted) (fun s =>
    { leaveHalt s with dbg := { (leaveHalt s).dbg with runState := .stepping, stepTick := true } })) := rfl
theorem exec_stepCmd (s : State) (d : DbgCmd) : exec (.stepCmd d) s =
    .next (command s 2 (fun s => soloTwin s && frozen s && (stepTarget s d).isSome) (fun s => stepCommand s d)) := rfl

theorem exec_stepCmd_of {d : DbgCmd} {k : BitVec 3} {q : Queue} {i : Instr} {h : Iss} {eff : Bool → Work → Work} (hm : mayCommand s 2)
    (hs : soloTwin s = true) (hz : frozen s = true) (ht : stepTarget (inCmd s) d = some (k, q, i)) (he : effectOf i = some (h, eff)) :
    exec (.stepCmd d) s = .next (if (gateOf (inCmd s) k i).2 then stepIssue (inCmd s) k q h eff else setHold (inCmd s) h q [(q, (gateOf (inCmd s) k i).1)]) := by
  rw [exec_stepCmd, command_taken hm (by rw [show soloTwin (inCmd s) = true from hs, show frozen (inCmd s) = true from hz, ht]; rfl)]
  unfold stepCommand
  rw [ht]
  dsimp only
  rw [he]

/-- What a read of a row leaves. -/
theorem exec_read_row {d : DbgCmd} {g : Nat} (hm : mayCommand s 2) (hs : stopped s = true) (hp : Machine.placeOf (inCmd s) d = .row g) :
    exec (.read d) s = .next { (readRowGran (inCmd s) g).2 with dbg := { (readRowGran (inCmd s) g).2.dbg with data := (readRowGran (inCmd s) g).1 } } := by
  rw [exec_read, command_taken hm hs, hp]
  rfl

theorem exec_write_row {d : DbgCmd} {g : Nat} (hm : mayCommand s 2) (hs : stopped s = true) (hp : Machine.placeOf (inCmd s) d = .row g) :
    exec (.write d) s = .next (writePlace (inCmd s) (.row g)) := by
  rw [exec_write, command_taken hm hs, hp]

theorem readRowGran_clean {g : Nat} (h : s.dp.ecc.find? (fun m => m.gran == g) = none) :
    ∃ chk, readRowGran s g = (accessResult (granValue (memSlice s.dp.dev (16 * g) 16)) chk 0 (specRow s (g / 32)), s) := by
  unfold readRowGran
  rw [h]
  exact ⟨_, rfl⟩

/-- A granule whose stored bits do not check: the status says how, and a corrected one still reads. -/
theorem readRowGran_marked {g : Nat} {m : EccMark} (h : s.dp.ecc.find? (fun m => m.gran == g) = some m) :
    { (readRowGran s g).2 with dp := { (readRowGran s g).2.dp with free := s.dp.free } } = s ∧
      ((readRowGran s g).1.extractLsb' 145 3).toNat = (match m.kind with | .corrected => 1 | .uncorrectable => 2 | .mismatch => 3) ∧
      (m.unc = false → ((readRowGran s g).1.extractLsb' 0 128).toNat = memNat s.dp.dev (16 * g) 16) := by
  unfold readRowGran
  rw [h]
  refine ⟨rfl, ?_, fun hu => ?_⟩
  · dsimp only
    cases m.kind <;> dsimp only <;> rw [accessResult_status] <;> rfl
  · have hk : m.kind = .corrected := by simpa [EccMark.unc] using hu
    dsimp only
    rw [hk]
    dsimp only
    rw [accessResult_data, granValue_memSlice]

/-! ### Claims of the port (R353) -/

theorem getLsbD_setBit_zero {n : Nat} (v : BitVec n) : (setBit v 0 false).getLsbD 0 = false := by
  simp [setBit]

theorem claimTrace_free (ht : s.dbg.trace = false) (h0 : s.err.ownTrc = 0) (hl : vget s.err.ownLast 0 ≠ some ⟨true, false, s.dp.cycle⟩) :
    claimTrace s = { s with dbg := { s.dbg with trace := true },
                            err := { s.err with ownTrc := 1, ownLast := vset s.err.ownLast 0 (some ⟨false, true, s.dp.cycle⟩) } } := by
  have hd : displaces s 0 s.fwr.fw.trcSplit = false := by simp [displaces, Err.own, h0]
  have hm : mayOwn s 0 false s.fwr.fw.trcSplit = true := by
    unfold mayOwn
    split
    · simp [Err.own, h0]
    · simp only [Err.own, h0, bne_iff_ne, Bool.and_eq_true]
      exact ⟨rfl, hl⟩
  unfold claimTrace
  dsimp only
  rw [ht, hd, hm]
  simp [moveOwn, Err.move, Err.own, h0, setBit]

theorem claimMarker_free (hk : s.dbg.marker = false) (h0 : s.err.ownTout = 0) (hl : vget s.err.ownLast 2 ≠ some ⟨false, false, s.dp.cycle⟩) :
    claimMarker s = { s with dbg := { s.dbg with marker := true },
                             err := { s.err with ownTout := 2, ownLast := vset s.err.ownLast 2 (some ⟨true, true, s.dp.cycle⟩) } } := by
  have hm : mayOwn s 2 true false = true := by
    simp only [mayOwn, Err.own, h0, bne_iff_ne, Bool.and_eq_true, Bool.false_eq_true, if_false]
    exact ⟨rfl, hl⟩
  unfold claimMarker
  rw [hk, hm]
  simp [moveOwn, Err.move, Err.own, h0, setBit]

theorem claimMarker_refused (hk : s.dbg.marker = false) (h0 : s.err.ownTout ≠ 0) : claimMarker s = refuseOwn s 2 12 := by
  have hm : mayOwn s 2 true false = false := by
    unfold mayOwn
    rw [if_neg Bool.false_ne_true, show s.err.own 2 = s.err.ownTout from rfl, beq_false_of_ne h0]
    rfl
  unfold claimMarker
  rw [hk, hm]
  rfl

theorem exec_claim {d : DbgCmd} (hm : mayCommand s 1) (h0 : d.arg.getLsbD 0 = true) (h1 : d.arg.getLsbD 1 = true) :
    exec (.claim d) s = .next (if d.arg.getLsbD 8 then claimMarker (claimTrace (inCmd s)) else releaseMarker (releaseTrace (inCmd s))) := by
  refine (congrArg Host.Outcome.next (command_taken hm rfl)).trans ?_
  dsimp only
  rw [h0, h1]
  cases d.arg.getLsbD 8 <;> rfl

/-- Both resources given back. -/
theorem release_both (s : State) : (releaseMarker (releaseTrace s)).dbg.trace = false ∧ (releaseMarker (releaseTrace s)).dbg.marker = false ∧
    (releaseMarker (releaseTrace s)).err.ownTrc.getLsbD 0 = false ∧ (releaseMarker (releaseTrace s)).err.ownTout.getLsbD 1 = false := by
  have h1 : ∀ v : BitVec 2, (setBit v 1 false).getLsbD 1 = false := by decide
  have htrc : ∀ u : State, (releaseTrace u).dbg.trace = false ∧ (releaseTrace u).err.ownTrc.getLsbD 0 = false := by
    intro u
    unfold releaseTrace leaveOwn
    split
    · exact ⟨rfl, getLsbD_setBit_zero _⟩
    · next h => exact ⟨rfl, Bool.eq_false_iff.2 h⟩
  obtain ⟨ht, ho⟩ := htrc s
  unfold releaseMarker leaveOwn
  split
  · exact ⟨ht, rfl, ho, h1 _⟩
  · next h => exact ⟨ht, rfl, ho, Bool.eq_false_iff.2 h⟩

/-- Settles O60, command by command. -/
theorem debugCommands : Obligations.DebugCommands := by
  unfold Obligations.DebugCommands
  refine ⟨fun s c d hc => ⟨debug_locked s d hc, fun h h' => debug_below s d h' h⟩, fun s hm hs => ⟨fun hr => ?_, fun hr => ?_, fun hr ha he hsrc => ?_⟩,
    fun s hm => ⟨fun hr => ?_, fun hr ha he hsrc => ?_⟩, fun s d k q i h eff hm hs hz ht he hcp => ⟨fun hg => ?_, fun hg => ?_⟩,
    fun s d g hm hs hp => ⟨fun hn => ?_, fun m hn => ?_, fun ho hf => ?_, fun hw hf => ?_⟩, fun s d hm => ?_⟩
  · rw [exec_freeze, command_taken hm hs, if_pos (.inl hr)]
    rfl
  · rw [exec_halt, command_taken hm hs]
    simp [inCmd, hr]
  · obtain ⟨h1, h2, h3⟩ := leaveHalt_internal (inCmd s) ha he hsrc
    rw [exec_stepTick, command_taken hm (by rw [show soloTwin (inCmd s) = true from hs, show (inCmd s).dbg.runState = .halted from hr]; rfl)]
    exact ⟨_, rfl, rfl, rfl, h1, h2, h3⟩
  · rw [exec_resume, command_taken hm rfl]
    dsimp only
    rw [if_neg (show (inCmd s).dbg.runState ≠ .halted from hr)]
    rfl
  · obtain ⟨h1, h2, h3⟩ := leaveHalt_internal (inCmd s) ha he hsrc
    rw [exec_resume, command_taken hm rfl]
    dsimp only
    rw [if_pos (show (inCmd s).dbg.runState = .halted from hr)]
    exact ⟨_, rfl, rfl, rfl, h1, h2, h3⟩
  · obtain ⟨w, hw, hd⟩ := stepTarget_cases ht
    obtain rfl := core_of_decodeCmd hd (iss_of_effectOf he)
    obtain ⟨h1, h2⟩ := stepIssue_stays (s := inCmd s) (q := q) hz he hcp
    exact ⟨_, by rw [exec_stepCmd_of hm hs hz ht he, if_pos hg], rfl, h1, h2⟩
  · obtain ⟨w, hw, hd⟩ := stepTarget_cases ht
    obtain rfl := core_of_decodeCmd hd (iss_of_effectOf he)
    obtain ⟨x, h1, h2⟩ := setHold_one (inCmd s) h q (gateOf (inCmd s) h.core i).1
    refine ⟨_, x, by rw [exec_stepCmd_of hm hs hz ht he, if_neg (by rw [hg]; exact Bool.false_ne_true)], ?_, h2, h1⟩
    unfold coreOf
    rw [h1]
    simp
  · obtain ⟨chk, hx⟩ := readRowGran_clean (s := inCmd s) hn
    refine ⟨_, exec_read_row hm hs hp, by rw [hx]; rfl, ?_, ?_⟩
    · rw [hx, accessResult_data, granValue_memSlice]
      rfl
    · rw [hx, accessResult_status]
      rfl
  · obtain ⟨h1, h2, h3⟩ := readRowGran_marked (s := inCmd s) hn
    exact ⟨_, exec_read_row hm hs hp, congrArg (fun u : State => { u with dbg := s.dbg }) h1, h2, h3⟩
  · refine ⟨_, exec_write_row hm hs hp, ?_⟩
    unfold writePlace
    dsimp only
    split
    · next hz =>
      refine ⟨rfl, rfl, fun h => ?_⟩
      rw [show frozen (inCmd s) = false from h] at hz
      exact absurd hz Bool.false_ne_true
    · next hz =>
      have hzf : frozen s = false := by simpa [ho, inCmd, frozen] using hz
      have hadm : rowAdmitted s.dp (rowCore (g / 32)) .dbg (g / 32 % 0x4000) = false := hf.resolve_left (by rw [hzf]; exact Bool.false_ne_true)
      rw [if_pos (by rw [ho, show rowAdmitted (inCmd s).dp _ _ _ = _ from hadm]; rfl)]
      refine ⟨?_, (congrArg Dp.dev (takeReport_dp (inCmd s) _) :), fun _ => takeReport_cnt (inCmd s) _ (show (3 : BitVec 4) ≠ 0 by decide) (show (3 : BitVec 4) ≠ 1 by decide)⟩
      simp [refuseCmd, setStatus, inCmd]
  · obtain ⟨hnat, hrest⟩ := memNat_memWrite_gran hw g (s.dbg.data.extractLsb' 0 128)
    have hnz : (frozen (inCmd s) && !isOrchard (g / 32)) = false := by
      rcases hf with h | ⟨h, -⟩
      · rw [h]; exact Bool.and_false _
      · rw [show frozen (inCmd s) = false from h]; rfl
    have hna : (!isOrchard (g / 32) && !rowAdmitted (inCmd s).dp (rowCore (g / 32)) .dbg (g / 32 % 0x4000)) = false := by
      rcases hf with h | ⟨-, h⟩
      · rw [h]; rfl
      · rw [show rowAdmitted (inCmd s).dp _ _ _ = true from h]; exact Bool.and_false _
    refine ⟨_, exec_write_row hm hs hp, ?_⟩
    unfold writePlace
    dsimp only
    rw [hnz, hna]
    refine ⟨rfl, rfl, hnat, hrest, fun m => ?_⟩
    simp [setStatus, inCmd]
  · intro b i
    refine ⟨fun hb => ?_, ?_, fun hr => ?_, fun h0 h1 h8 ht hk h0' hl => ⟨fun hm0 hm2 => ?_, fun hm0 => ?_⟩, fun h0 h1 h8 => ?_⟩
    · exact congrArg Host.Outcome.next (command_taken hm hb)
    · refine ⟨_, congrArg Host.Outcome.next (command_taken hm rfl), rfl, ?_, fun k hne => ?_⟩
      · dsimp only
        rw [vget_vset_same]
        exact getLsbD_setBit_zero _
      · exact vget_vset_ne _ _ _ _ hne
    · refine congrArg Host.Outcome.next (command_taken hm ?_)
      rw [show (inCmd s).dbg.runState = .run from hr]
      rfl
    · have ht := claimTrace_free (s := inCmd s) ht h0' hl
      rw [exec_claim hm h0 h1, if_pos h8, ht]
      refine congrArg Host.Outcome.next ((claimMarker_free ?_ ?_ ?_).trans rfl)
      · exact hk
      · exact hm0
      · exact (vget_vset_ne _ 0 2 _ (by decide)).trans_ne hm2
    · have ht := claimTrace_free (s := inCmd s) ht h0' hl
      rw [exec_claim hm h0 h1, if_pos h8, ht]
      refine ⟨_, congrArg Host.Outcome.next (claimMarker_refused ?_ ?_), ?_, ?_, refuseOwn_ownTout _ 2 12, refuseOwn_counts _ 2 12⟩
      · exact hk
      · exact hm0
      · rw [refuseOwn_dbg]
      · rw [refuseOwn_dbg]
        exact hk
    · refine ⟨_, exec_claim hm h0 h1, ?_⟩
      rw [if_neg (by rw [h8]; exact Bool.false_ne_true)]
      exact release_both (inCmd s)

end Sys2Proof.Machine
end

section
/-!
RINGS AND REGISTERS. Doorbells, ring enables, heads, ring entries, and words of the register window by strobes (R291 to R295, R402).
-/
namespace Sys2Proof.Machine
-- one proof after the other: the check compiles one text, and its memory holds few threads
set_option Elab.async false
open Sys2Proof.Safety

variable {s t : State}

/-! ### Words by strobes (R402) -/

theorem getLsbD_byteMask (k i : Nat) (hi : i < 32) : (0xFF#32 <<< (8 * k)).getLsbD i = decide (i / 8 = k) := by
  have hff : ∀ j, (0xFF#32).getLsbD j = decide (j < 8) := by
    intro j
    rw [show (0xFF#32) = BitVec.ofNat 32 (2 ^ 8 - 1) from rfl, BitVec.getLsbD_ofNat, Nat.testBit_two_pow_sub_one]
    by_cases h : j < 8
    · simp [h, show j < 32 by omega]
    · simp [h]
  rw [BitVec.getLsbD_shiftLeft, hff, decide_eq_true hi, Bool.true_and, ← decide_not, ← Bool.decide_and, decide_eq_decide]
  omega

/-- A byte taken from the written value where its strobe is set. -/
theorem getLsbD_byteStep (v w : W32) (k i : Nat) (b : Bool) (hi : i < 32) :
    (if b then (v &&& ~~~(0xFF#32 <<< (8 * k))) ||| (w &&& (0xFF#32 <<< (8 * k))) else v).getLsbD i =
      if i / 8 = k ∧ b = true then w.getLsbD i else v.getLsbD i := by
  cases b
  · simp
  · simp only [if_true, BitVec.getLsbD_or, BitVec.getLsbD_and, BitVec.getLsbD_not, getLsbD_byteMask k i hi, decide_eq_true hi, Bool.true_and, and_true]
    by_cases h : i / 8 = k <;> simp [h]

/-- Of a word written only the strobed bytes change. -/
theorem getLsbD_mergeBytes (old v : W32) (strb : BitVec 4) (i : Nat) (hi : i < 32) :
    (mergeBytes old v strb).getLsbD i = if strb.getLsbD (i / 8) then v.getLsbD i else old.getLsbD i := by
  have h4 : List.range 4 = [0, 1, 2, 3] := rfl
  have hk : i / 8 = 0 ∨ i / 8 = 1 ∨ i / 8 = 2 ∨ i / 8 = 3 := by omega
  unfold mergeBytes
  rw [h4]
  simp only [List.foldl_cons, List.foldl_nil]
  rw [getLsbD_byteStep _ _ _ _ _ hi, getLsbD_byteStep _ _ _ _ _ hi, getLsbD_byteStep _ _ _ _ _ hi, getLsbD_byteStep _ _ _ _ _ hi]
  rcases hk with h | h | h | h <;> simp [h]

/-- A field of the low byte of a word written by strobes. -/
theorem extractLsb'_mergeBytes_low (old v : W32) (strb : BitVec 4) :
    (mergeBytes old v strb).extractLsb' 0 3 = if strb.getLsbD 0 then v.extractLsb' 0 3 else old.extractLsb' 0 3 := by
  apply BitVec.eq_of_getLsbD_eq
  intro i hi
  rw [BitVec.getLsbD_extractLsb', getLsbD_mergeBytes _ _ _ _ (by omega), show (0 + i) / 8 = 0 by omega]
  split <;> rw [BitVec.getLsbD_extractLsb']

theorem extractLsb'_mergeBytes_all (old v : W32) : (mergeBytes old v 15).extractLsb' 0 16 = v.extractLsb' 0 16 := by
  apply BitVec.eq_of_getLsbD_eq
  intro i hi
  have hs : (15 : BitVec 4).getLsbD ((0 + i) / 8) = true := by
    obtain h | h : (0 + i) / 8 = 0 ∨ (0 + i) / 8 = 1 := by omega
    all_goals rw [h]; rfl
  rw [BitVec.getLsbD_extractLsb', getLsbD_mergeBytes _ _ _ _ (by omega), hs, if_pos rfl, BitVec.getLsbD_extractLsb']

/-- A bit of the low byte that is written 1. -/
theorem getLsbD_mergeBytes_zero (v : W32) (strb : BitVec 4) (i : Nat) (hi : i < 8) :
    (mergeBytes 0 v strb).getLsbD i = (strb.getLsbD 0 && v.getLsbD i) := by
  rw [getLsbD_mergeBytes _ _ _ _ (by omega), show i / 8 = 0 by omega]
  cases strb.getLsbD 0 <;> simp

theorem exec_cfgWrite {ofs : W16} {strb : BitVec 4} {o : Nat} (value : W32) (hs : strb ≠ 0) (ho : ofs.toNat / 4 * 4 = o) :
    exec (.cfgWrite ofs value strb .cfg) s = .next (driverWrite s o value (mergeBytes (cfgRead s ofs) value strb) (mergeBytes 0 value strb) strb) := by
  show Host.Outcome.next (cfgWrite s ofs value strb .cfg) = _
  unfold cfgWrite
  rw [ho]
  exact congrArg Host.Outcome.next (if_neg (fun h => hs h.1))

theorem exec_cfgWrite_none {ofs : W16} (value : W32) (ho : ofs.toNat < 0x8000) : exec (.cfgWrite ofs value 0 .cfg) s = .next s := by
  show Host.Outcome.next (cfgWrite s ofs value 0 .cfg) = _
  unfold cfgWrite
  exact congrArg Host.Outcome.next (if_pos ⟨rfl, Nat.lt_of_le_of_lt (Nat.div_mul_le_self _ _) ho⟩)

theorem extractLsb'_fieldBits {n : Nat} (v : BitVec n) (hn : n ≤ 32) : (fieldBits 0 v).extractLsb' 0 n = v := by
  apply BitVec.eq_of_getLsbD_eq
  intro i hi
  rw [BitVec.getLsbD_extractLsb', getLsbD_fieldBits, decide_eq_true hi, decide_eq_true (show 0 + i < 32 by omega)]
  simp

/-- The interrupt mask, and the flags of HIF that are cleared by writing 1. -/
theorem exec_cfgWrite_irqMask (value : W32) {strb : BitVec 4} (hs : strb ≠ 0) : exec (.cfgWrite 0x48 value strb .cfg) s =
    .next { s with hif := { s.hif with irqMask := if strb.getLsbD 0 then value.extractLsb' 0 3 else s.hif.irqMask } } := by
  rw [exec_cfgWrite (o := 0x48) value hs rfl]
  have hm : (mergeBytes (cfgRead s 0x48) value strb).extractLsb' 0 3 = if strb.getLsbD 0 then value.extractLsb' 0 3 else s.hif.irqMask := by
    rw [extractLsb'_mergeBytes_low]
    split
    · rfl
    · exact extractLsb'_fieldBits s.hif.irqMask (by omega)
  rw [← hm]
  rfl

theorem exec_cfgWrite_hifFlags (value : W32) {strb : BitVec 4} (hs : strb ≠ 0) : exec (.cfgWrite 0x44 value strb .cfg) s =
    .next { s with hif := { s.hif with dbErr := s.hif.dbErr && !(strb.getLsbD 0 && value.getLsbD 0),
                                       wrIgn := s.hif.wrIgn && !(strb.getLsbD 0 && value.getLsbD 1),
                                       memErr := s.hif.memErr && !(strb.getLsbD 0 && value.getLsbD 2) } } := by
  rw [exec_cfgWrite (o := 0x44) value hs rfl, ← getLsbD_mergeBytes_zero value strb 0 (by omega), ← getLsbD_mergeBytes_zero value strb 1 (by omega),
    ← getLsbD_mergeBytes_zero value strb 2 (by omega)]
  rfl

theorem exec_cfgWrite_nflag (c : BitVec 3) (value : W32) : exec (.cfgWrite (BitVec.ofNat 16 (0x4040 + 0x800 * c.toNat)) value 15 .cfg) s =
    .next (if corePresent s c then { s with dp := s.dp.modCore c (fun x => x.clearNflag (value.extractLsb' 0 16) s.dp.cycle) } else s) := by
  have hc := c.isLt
  have ho : (BitVec.ofNat 16 (0x4040 + 0x800 * c.toNat)).toNat / 4 * 4 = 0x4040 + 0x800 * c.toNat := by
    rw [BitVec.toNat_ofNat]
    omega
  rw [exec_cfgWrite value (by decide) ho]
  unfold driverWrite
  rw [if_neg (by omega), if_neg (by omega), if_neg (by omega), if_neg (by omega), if_neg (by omega), if_neg (by omega), if_neg (by omega),
    if_pos (by omega), show (0x4040 + 0x800 * c.toNat - 0x4000) / 0x800 = c.toNat by omega, show (0x4040 + 0x800 * c.toNat) % 0x800 = 0x40 by omega,
    BitVec.ofNat_toNat, BitVec.setWidth_eq]
  unfold coreWrite
  rw [extractLsb'_mergeBytes_all]
  simp

/-! ### Rings -/

theorem getRing_setRing_same {id : RingId} {r : PRing} (hr : getRing s id = some r) (x : PRing) : getRing (setRing s id x) id = some x := by
  cases id with
  | sq n => cases hr
  | cq m => simp [getRing, setRing]
  | evt | err | log => rfl

theorem getRing_setRing_ne {id k : RingId} (h : k ≠ id) (x : PRing) : getRing (setRing s id x) k = getRing s k := by
  cases id <;> cases k <;> first | rfl | exact absurd rfl h | skip
  next m n => simp only [getRing, setRing, vget_vset_ne _ _ _ _ (fun hn => h (congrArg RingId.cq hn))]

theorem setRing_frame (s : State) (id : RingId) (x : PRing) : { setRing s id x with hif := s.hif } = s := by cases id <;> rfl

theorem setRing_self {id : RingId} {r : PRing} (hr : getRing s id = some r) : setRing s id r = s := by
  cases id with
  | sq n => cases hr
  | cq m =>
    cases hr
    show { s with hif := { s.hif with cqs := vset s.hif.cqs m (vget s.hif.cqs m) } } = s
    rw [vset_vget_self]
  | evt | err | log => cases hr; rfl

theorem setRing_setRing (s : State) (id : RingId) (x y : PRing) : setRing (setRing s id x) id y = setRing s id y := by
  cases id with
  | cq m =>
    show { s with hif := { s.hif with cqs := vset (vset s.hif.cqs m x) m y } } = { s with hif := { s.hif with cqs := vset s.hif.cqs m y } }
    rw [vset_vset_same]
  | sq | evt | err | log => rfl

theorem exec_ringEnable (id : RingId) (v : W32) : exec (.ringEnable id v) s = .next (ringConfig s id v) := rfl

theorem ringConfig_sq (s : State) (n : BitVec 4) (v : W32) : ringConfig s (.sq n) v =
    if ((vget s.hif.sqs n).configure v).2 then
      { s with hif := { s.hif with sqs := vset s.hif.sqs n ((vget s.hif.sqs n).configure v).1, wrIgn := true } }
    else { s with hif := { s.hif with sqs := vset s.hif.sqs n ((vget s.hif.sqs n).configure v).1 } } := rfl

theorem ringConfig_produced {id : RingId} {r : PRing} (hr : getRing s id = some r) (v : W32) : ∃ b x, r.configure b v = x ∧ ringConfig s id v =
    if x.2 then { setRing s id x.1 with hif := { (setRing s id x.1).hif with wrIgn := true } } else setRing s id x.1 := by
  cases id with
  | sq n => cases hr
  | cq m => cases hr; exact ⟨true, _, rfl, rfl⟩
  | evt | err | log => cases hr; exact ⟨false, _, rfl, rfl⟩

theorem configure_enables {r : PRing} {v : W32} (b : Bool) (he : r.enable = false) (hv : v.getLsbD 4 = true) (hs : sizeOk (v.extractLsb' 0 4) = true) :
    r.configure b v = ({ r with sizeLog2 := v.extractLsb' 0 4, port := v.getLsbD 5, kind := b && v.getLsbD 6, irq := v.getLsbD 7,
                                enable := true, head := 0, tail := 0, phase := true, dead := false }, false) := by
  unfold PRing.configure
  simp only [he, hv, hs, Bool.false_eq_true, if_false, Bool.not_true, if_true]

theorem exec_head {id : RingId} {r : PRing} (hr : getRing s id = some r) (v : BitVec 12) :
    exec (.head id v) s = .next (setRing s id { r with head := v }) := by
  show Host.Outcome.next (modRing s id _) = _
  unfold modRing
  rw [hr]

/-! ### A ring entry -/

/-- Nothing of a publish that is not done, or of a run that does not end, follows an entry. -/
theorem finishPublish_of (hp : ∀ p, s.sp.pubs.head? = some p → p.done = false) (he : s.tkc.ending = false) : finishPublish s = s := by
  have hrun : finishRun s = s := by
    unfold finishRun
    rw [he]
    rfl
  unfold finishPublish
  cases hq : s.sp.pubs with
  | nil => exact hrun
  | cons p l =>
    dsimp only
    rw [hp p (by rw [hq]; rfl)]
    rfl

theorem drainLog_of_waiting {x : RingRec} {xs : List RingRec} (h : s.hif.log.waiting = x :: xs) : drainLog s = s := by
  unfold drainLog
  split
  · rfl
  · rw [h]
    simp

/-- A record offered: it waits no longer for its meter. -/
theorem offerRecord_of {id : RingId} {r : PRing} {x : RingRec} {xs : List RingRec} (hr : getRing s id = some r) (hw : r.waiting = x :: xs)
    (h : (x.offered = true ∧ meterHolds s.dp 10 x.ticket = false) ∨ (x.offered = false ∧ s.dp.metering = false)) :
    ∃ y, offerRecord s id r x = (setRing s id { r with waiting := y :: xs }, true) := by
  rcases h with ⟨ho, hm⟩ | ⟨ho, hm⟩
  · refine ⟨x, ?_⟩
    rw [← hw, setRing_self hr]
    unfold offerRecord
    rw [if_pos ho, hm]
    rfl
  · refine ⟨{ x with offered := true, ticket := none }, ?_⟩
    unfold offerRecord
    rw [ho, meterOffer_off _ _ _ _ hm, hw]
    rfl

/-- The bytes of an entry are those of its record whichever the ring's waiting records are. -/
theorem recordBytes_setRing {id : RingId} {r : PRing} (hr : getRing s id = some r) (w : List RingRec) (x : RingRec) :
    recordBytes (setRing s id { r with waiting := w }) id { r with waiting := w } x = recordBytes s id r x ∧
      entryBytes (setRing s id { r with waiting := w }) id = entryBytes s id := by
  cases id with
  | sq n => cases hr
  | cq m =>
    cases hr
    refine ⟨rfl, ?_⟩
    simp [entryBytes, setRing]
  | evt | err | log => exact ⟨rfl, rfl⟩

/-- What an entry that may be written does, before what its publish or run still has to do. -/
theorem writeEntry_of {id : RingId} {r : PRing} {x : RingRec} {xs : List RingRec} (resp : BitVec 2) (hr : getRing s id = some r)
    (hw : r.waiting = x :: xs) (hm : mayWrite s id r x = true)
    (h : (x.offered = true ∧ meterHolds s.dp 10 x.ticket = false) ∨ (x.offered = false ∧ s.dp.metering = false)) :
    ∃ y, writeEntry s id resp = if 2 ≤ resp.toNat then ringError (setRing s id { r with waiting := y :: xs }) id { r with waiting := y :: xs } resp
      else ringWritten (setRing s id { r with waiting := y :: xs }) id { r with waiting := y :: xs } x := by
  obtain ⟨y, hy⟩ := offerRecord_of hr hw h
  refine ⟨y, ?_⟩
  unfold writeEntry
  rw [hr]
  dsimp only
  rw [hw]
  dsimp only
  rw [hm, hy]
  dsimp only
  rw [getRing_setRing_same hr]
  rfl

theorem exec_ringEntryWritten {id : RingId} {r : PRing} {x : RingRec} {xs : List RingRec} (resp : BitVec 2) (hr : getRing s id = some r)
    (hw : r.waiting = x :: xs) : exec (.ringEntryWritten id resp) s = .next (finishPublish (writeEntry s id resp)) := by
  show Host.Outcome.next (ringEntry s id resp) = _
  unfold ringEntry
  split
  · next h =>
    subst h
    cases hr
    rw [drainLog_of_waiting hw]
  · rfl

/-- An entry written. -/
theorem ringWritten_eq {id : RingId} {r : PRing} (hr : getRing s id = some r) (y x : RingRec) (xs : List RingRec) :
    ringWritten (setRing s id { r with waiting := y :: xs }) id { r with waiting := y :: xs } x =
      { setRing s id { r.advance with waiting := xs } with
        dp := { s.dp with ext := memWrite s.dp.ext (r.base + entryBytes s id * r.tail.toNat) (padTo (entryBytes s id) (recordBytes s id r x)) },
        err := if id = .err then { s.err with fifo := s.err.fifo.drop 1 } else s.err } := by
  obtain ⟨h1, h2⟩ := recordBytes_setRing hr (y :: xs) x
  unfold ringWritten
  rw [h1, h2, setRing_setRing]
  cases id with
  | sq n => cases hr
  | cq m | evt | err | log => rfl

theorem getRing_of_hif (h : t.hif = s.hif) (id : RingId) : getRing t id = getRing s id := by
  cases id <;> simp only [getRing, h]

theorem memRespAt_plain (s : State) (a : Nat) (resp : BitVec 2) (port : Bool) (u : Nat) :
    takeReport s (memRespAt a resp port u) = recordReport s (memRespAt a resp port u) :=
  takeReport_plain s _ (show (11 : BitVec 4) ≠ 1 by decide) rfl rfl

/-- A bad response disables its ring and is reported. -/
theorem ringError_kept {id : RingId} {r : PRing} (hr : getRing s id = some r) (q : PRing) (resp : BitVec 2) :
    (∃ y, getRing (ringError s id q resp) id = some y ∧ y.enable = false ∧ y.tail = q.tail) ∧ (ringError s id q resp).hif.memErr = true ∧
      (ringError s id q resp).dp = s.dp ∧ (vget (ringError s id q resp).err.cls 11).cnt = satInc (vget s.err.cls 11).cnt ∧
      (ringError s id q resp).sp = s.sp ∧ (ringError s id q resp).tkc = s.tkc := by
  unfold ringError
  extract_lets kept lost addr u f v
  rw [memRespAt_plain]
  have hu : u.err = s.err ∧ u.dp = s.dp ∧ u.sp = s.sp ∧ u.tkc = s.tkc := by simp [u]
  obtain ⟨h1, h2, h3, h4⟩ := hu
  refine ⟨⟨{ q with enable := false, dead := true, waiting := kept }, ?_, rfl, rfl⟩, by rw [recordReport_hif], by rw [recordReport_dp]; exact h2, ?_,
    by rw [recordReport_sp]; exact h3, by rw [recordReport_tkc]; exact h4⟩
  · rw [getRing_of_hif (recordReport_hif _ _)]
    exact getRing_setRing_same hr _
  · rw [recordReport_cls _ _ (show (11 : BitVec 4) ≠ 0 by decide)]
    show (countClass (vget u.err.cls 11) _ _).cnt = _
    rw [h1]
    rfl

/-- Settles O53, from what a ring's configuration, an entry and the bytes of a write do. -/
theorem ringsAndRegisters : Obligations.RingsAndRegisters := by
  unfold Obligations.RingsAndRegisters
  refine ⟨fun s n v => ⟨fun he hv => ?_, fun h => ?_⟩, fun s n v => ⟨fun he hv hs => ?_, fun he hs => ?_⟩,
    fun s id r v hr => ⟨fun he hv hs => ?_, fun h => ⟨_, exec_head hr h, getRing_setRing_same hr _, fun k hk => getRing_setRing_ne hk _, setRing_frame s id _⟩⟩,
    fun s id r x xs resp hwf hr hw hm ho hp he => ⟨fun hresp => ?_, fun hresp => ?_⟩,
    fun s v strb hs => ⟨exec_cfgWrite_irqMask v hs, exec_cfgWrite_hifFlags v hs⟩, fun s c v => exec_cfgWrite_nflag c v,
    fun s ofs v ho => exec_cfgWrite_none v ho⟩
  · show Host.Outcome.next (doorbell s n v) = _
    unfold doorbell
    dsimp only
    rw [he, decide_eq_true hv]
    rfl
  · show Host.Outcome.next (doorbell s n v) = _
    have hf : ((vget s.hif.sqs n).enable && decide (v.toNat % 4096 < (vget s.hif.sqs n).size)) = false := by
      rcases h with h | h
      · rw [h]; rfl
      · rw [decide_eq_false (Nat.not_lt.2 h), Bool.and_false]
    unfold doorbell
    dsimp only
    rw [hf]
    rfl
  · have hc : (vget s.hif.sqs n).configure v = ({ vget s.hif.sqs n with
        sizeLog2 := v.extractLsb' 0 4, port := v.getLsbD 5, cq := v.extractLsb' 8 4, enable := true,
        head := 0, db := 0, seq := 0 }, false) := by
      unfold SqRing.configure
      simp only [he, hv, hs, Bool.false_eq_true, if_false, Bool.not_true, if_true]
    rw [exec_ringEnable, ringConfig_sq, hc]
    rfl
  · have hc : (vget s.hif.sqs n).configure v = (vget s.hif.sqs n, true) := by
      unfold SqRing.configure
      simp only [he, if_true, bne_iff_ne.2 hs, Bool.true_or]
    refine ⟨_, by rw [exec_ringEnable, ringConfig_sq, hc], ?_⟩
    rw [vset_vget_self]
    rfl
  · obtain ⟨b, y, hy, hx⟩ := ringConfig_produced hr v
    rw [configure_enables b he hv hs] at hy
    subst hy
    refine ⟨_, _, (exec_ringEnable id v).trans (congrArg Host.Outcome.next hx), getRing_setRing_same hr _, rfl, rfl, rfl, rfl, rfl, rfl, rfl,
      fun k hk => getRing_setRing_ne hk _, setRing_frame s id _⟩
  · obtain ⟨y, hy⟩ := writeEntry_of resp hr hw hm ho
    rw [if_neg (by omega), ringWritten_eq hr] at hy
    have hfin : finishPublish (writeEntry s id resp) = writeEntry s id resp :=
      finishPublish_of (by rw [hy]; simpa using hp) (by rw [hy]; simpa using he)
    rw [exec_ringEntryWritten resp hr hw, hfin, hy]
    have hget := fun k => getRing_of_hif (s := setRing s id { r.advance with waiting := xs }) (t := { setRing s id { r.advance with waiting := xs } with
      dp := { s.dp with ext := memWrite s.dp.ext (r.base + entryBytes s id * r.tail.toNat) (padTo (entryBytes s id) (recordBytes s id r x)) },
      err := if id = .err then { s.err with fifo := s.err.fifo.drop 1 } else s.err }) rfl k
    refine ⟨_, rfl, (hget id).trans (getRing_setRing_same hr _), fun k hk => (hget k).trans (getRing_setRing_ne hk _), rfl, fun a => ?_, ?_, rfl⟩
    · refine (memRead_memWrite _ _ _ _).trans ?_
      rw [padTo_length]
      rfl
    · exact congrArg (fun u : State => { u with dp := s.dp, err := s.err }) (setRing_frame s id _)
  · obtain ⟨y, hy⟩ := writeEntry_of resp hr hw hm ho
    rw [if_pos hresp] at hy
    obtain ⟨⟨z, h1, h2, h3⟩, h4, h5, h6, h7, h8⟩ := ringError_kept (getRing_setRing_same hr { r with waiting := y :: xs }) { r with waiting := y :: xs } resp
    have hfin : finishPublish (writeEntry s id resp) = writeEntry s id resp :=
      finishPublish_of (by rw [hy, h7]; simpa using hp) (by rw [hy, h8]; simpa using he)
    rw [exec_ringEntryWritten resp hr hw, hfin, hy]
    refine ⟨_, z, rfl, h1, h2, h3, h4, ?_, ?_⟩
    · rw [h5, setRing_dp]
    · rw [h6, setRing_err]

end Sys2Proof.Machine
end

section
/-!
BOOT AND RESET. The boot, attestation and the two resets (R328, R338, R392, R397, R398).
-/
namespace Sys2Proof.Machine
-- one proof after the other: the check compiles one text, and its memory holds few threads
set_option Elab.async false
open Sys2Proof.Safety

variable {s t : State}

/-! ### Sections in a memory of a processor -/

/-- The section holds address a of its target's memory. -/
def Section.covers (x : Section) (a : Nat) : Prop := x.load ≤ a ∧ a < x.load + x.len

/-- Where every section that holds an address agrees on its byte, and one does or the memory had it, the loaded memory has that byte. -/
theorem memRead_sections (img : List Byte) (a : Nat) (v : Byte) (l : List Section) (m : Mem) (hlen : ∀ x ∈ l, x.ofs + x.len ≤ img.length)
    (hv : ∀ x ∈ l, x.covers a → byteAt img (x.ofs + (a - x.load)) = v) (h : memRead m a = v ∨ ∃ x ∈ l, x.covers a) :
    memRead (l.foldl (fun m x => memWrite m x.load ((img.drop x.ofs).take x.len)) m) a = v := by
  induction l generalizing m with
  | nil => exact h.resolve_right (by simp)
  | cons y l ih =>
    have hy : ((img.drop y.ofs).take y.len).length = y.len := by
      have := hlen y (by simp)
      simp
      omega
    rw [List.foldl_cons]
    refine ih _ (fun x hx => hlen x (by simp [hx])) (fun x hx => hv x (by simp [hx])) ?_
    rw [memRead_memWrite, hy]
    by_cases hc : y.load ≤ a ∧ a < y.load + y.len
    · left
      rw [if_pos hc, ← hv y (by simp) hc]
      simp only [byteAt, List.getD_eq_getElem?_getD, List.getElem?_take, List.getElem?_drop, if_pos (show a - y.load < y.len by omega)]
      rfl
    · rw [if_neg hc]
      rcases h with h | ⟨x, hx, hxc⟩
      · exact .inl h
      · rcases List.mem_cons.1 hx with rfl | hx
        · exact absurd hxc hc
        · exact .inr ⟨x, hx, hxc⟩

/-- What the table's checks say of its sections. -/
theorem sections_of_imgTableOk {img : List Byte} {len : Nat} (h : imgTableOk img len = true) :
    (∀ x ∈ sectionsOf img, x.ofs + x.len ≤ img.length) ∧
      ∀ (i j : Nat) (x y : Section), (sectionsOf img)[i]? = some x → (sectionsOf img)[j]? = some y → i ≠ j → sectionsAgree x y = true := by
  unfold imgTableOk at h
  simp only [Bool.and_eq_true, List.all_eq_true] at h
  obtain ⟨⟨⟨-, hok⟩, hag⟩, -⟩ := h
  constructor
  · intro x hx
    have hs := hok x hx
    simp only [sectionOk, Bool.and_eq_true, decide_eq_true_eq] at hs
    omega
  · intro i j x y hx hy hij
    have hs := hag (x, i) (List.mem_zipIdx_iff_getElem?.2 hx) (y, j) (List.mem_zipIdx_iff_getElem?.2 hy)
    simpa [hij] using hs

/-- Every section of an image whose table is in order stands in its target's memory once it is loaded. -/
theorem memRead_loadSections {img : List Byte} {p : ProcRec} {len target k : Nat} {x : Section} (ht : imgTableOk img len = true)
    (hx : x ∈ sectionsOf img) (hxt : x.target = target) (hk : k < x.len) :
    memRead (p.loadSections img ((sectionsOf img).filter (fun x => x.target == target))).mem (x.load + k) = byteAt img (x.ofs + k) := by
  obtain ⟨hlen, hag⟩ := sections_of_imgTableOk ht
  have hmem : x ∈ (sectionsOf img).filter (fun x => x.target == target) := List.mem_filter.2 ⟨hx, by simpa using hxt⟩
  refine memRead_sections img _ _ _ _ (fun y hy => hlen y (List.mem_filter.1 hy).1) (fun y hy hc => ?_)
    (.inr ⟨x, hmem, Nat.le_add_right _ _, by omega⟩)
  obtain ⟨hy, hyt⟩ := List.mem_filter.1 hy
  obtain ⟨i, hi⟩ := List.mem_iff_getElem?.1 hx
  obtain ⟨j, hj⟩ := List.mem_iff_getElem?.1 hy
  by_cases hij : i = j
  · subst hij
    rw [hi] at hj
    obtain rfl := Option.some.inj hj
    rw [Nat.add_sub_cancel_left]
  · exfalso
    have hs := hag i j x y hi hj hij
    have hty : x.target = y.target := hxt.trans (beq_iff_eq.1 hyt).symm
    simp only [sectionsAgree, hty, bne_self_eq_false, Bool.false_or, Bool.and_eq_true, spansApart, Bool.or_eq_true, decide_eq_true_eq] at hs
    obtain ⟨h1, h2⟩ := hc
    omega

/-! ### The boot's checks -/

theorem exec_bootRelease (resp : BitVec 2) (bytes : List Byte) (sigOk : Bool) (measure : BitVec 256) :
    exec (.bootRelease resp bytes sigOk measure) s = .next (bootChecked s resp bytes sigOk measure) := rfl

/-- An image that passes the checks of its header and its table. -/
theorem bootChecked_tableOk {resp : BitVec 2} {bytes : List Byte} {sigOk : Bool} {measure : BitVec 256} (hs : s.sec.bootState = 1)
    (hr : resp.toNat < 2) (hm : fieldAt (padTo s.sec.bootLen.toNat bytes) 0 4 = 0x54524657) (hv : fieldAt (padTo s.sec.bootLen.toNat bytes) 4 2 = 1)
    (ht : imgTableOk (padTo s.sec.bootLen.toNat bytes) s.sec.bootLen.toNat = true) :
    bootChecked s resp bytes sigOk measure =
      if !sigOk then failBoot (loadImage s (padTo s.sec.bootLen.toNat bytes)) 3
      else if fieldAt (padTo s.sec.bootLen.toNat bytes) 0x10 1 ≠ deviceGen.toNat then failBoot (loadImage s (padTo s.sec.bootLen.toNat bytes)) 4
      else if !imgMpuOk (padTo s.sec.bootLen.toNat bytes) then failBoot (loadImage s (padTo s.sec.bootLen.toNat bytes)) 6
      else releaseBoot (loadImage s (padTo s.sec.bootLen.toNat bytes)) (padTo s.sec.bootLen.toNat bytes) measure := by
  unfold bootChecked
  dsimp only
  rw [if_neg (fun h => h hs), if_neg (by omega), if_neg (by rw [hm, hv]; simp), ht]
  rfl

/-- The MPUs of the cores below n are locked, those above stay. -/
theorem locked_foldl (img : List Byte) (v : Vector ProcRec (2 ^ 3)) (n : Nat) (hn : n ≤ 8) (k : BitVec 3) :
    vget ((List.range n).foldl (fun (v : Vector ProcRec (2 ^ 3)) k => vset v (BitVec.ofNat 3 k) ((vget v (BitVec.ofNat 3 k)).lock img 3)) v) k =
      if k.toNat < n then (vget v k).lock img 3 else vget v k := by
  induction n with
  | zero => rfl
  | succ n ih =>
    rw [List.range_succ, List.foldl_append, List.foldl_cons, List.foldl_nil, vget_vset]
    by_cases hk : k = BitVec.ofNat 3 n
    · have hkn : k.toNat = n := by rw [hk, BitVec.toNat_ofNat]; omega
      rw [if_pos hk, if_pos (by omega), ← hk, ih (by omega), if_neg (by omega)]
    · have hkn : k.toNat ≠ n := fun h => hk (by rw [← h, BitVec.ofNat_toNat, BitVec.setWidth_eq])
      rw [if_neg hk, ih (by omega)]
      by_cases h : k.toNat < n
      · rw [if_pos h, if_pos (by omega)]
      · rw [if_neg h, if_neg (by omega)]

/-! ### The boot's ends -/

/-- Loading an image touches the processors' memories only. -/
theorem loadImage_frame (s : State) (img : List Byte) :
    { loadImage s img with xp := s.xp, pp := s.pp, spp := s.spp, cps := s.cps } = s := rfl

/-- Loading an image leaves every core's MPU as it is. -/
theorem loadImage_cps_locked (s : State) (img : List Byte) (k : BitVec 3) :
    (vget (loadImage s img).cps k).mpuLocked = (vget s.cps k).mpuLocked := by
  refine List.foldlRecOn (motive := fun (v : Vector ProcRec (2 ^ 3)) => (vget v k).mpuLocked = (vget s.cps k).mpuLocked) _ _ rfl (fun v hv i _ => ?_)
  dsimp only
  split
  · rw [vget_vset]
    split
    · next hk => exact hk ▸ hv
    · exact hv
  · exact hv

/-- The k-th word of a digest. -/
theorem vget_digestWords (d : BitVec 256) (k : BitVec 3) : vget (digestWords d) k = d.extractLsb' (32 * k.toNat) 32 := by
  have h : ∀ n ≤ 8, ∀ v : Vector W32 (2 ^ 3),
      vget ((List.range n).foldl (fun (v : Vector W32 (2 ^ 3)) k => vset v (BitVec.ofNat 3 k) (d.extractLsb' (32 * k) 32)) v) k =
        if k.toNat < n then d.extractLsb' (32 * k.toNat) 32 else vget v k := by
    intro n hn v
    induction n with
    | zero => rfl
    | succ n ih =>
      rw [List.range_succ, List.foldl_append, List.foldl_cons, List.foldl_nil, vget_vset, ih (by omega)]
      by_cases hk : k = BitVec.ofNat 3 n
      · have hkn : k.toNat = n := by rw [hk, BitVec.toNat_ofNat]; omega
        rw [if_pos hk, if_pos (by omega), hkn]
      · have hkn : k.toNat ≠ n := fun h => hk (by rw [← h, BitVec.ofNat_toNat, BitVec.setWidth_eq])
        rw [if_neg hk]
        by_cases h : k.toNat < n
        · rw [if_pos h, if_pos (by omega)]
        · rw [if_neg h, if_neg (by omega)]
  exact (h 8 (Nat.le_refl 8) _).trans (if_pos k.isLt)

/-- At the release the MPUs of the cores that are present are locked. -/
theorem releaseBoot_cps (s : State) (img : List Byte) (measure : BitVec 256) (h : activeCores s ≤ 8) (k : BitVec 3) :
    vget (releaseBoot s img measure).cps k = if k.toNat < activeCores s then (vget s.cps k).lock img 3 else vget s.cps k :=
  locked_foldl img s.cps (activeCores s) h k

/-- At the release of a device with any number of cores, a core that is present has its MPU locked. -/
theorem releaseBoot_cps_locked (s : State) (img : List Byte) (measure : BitVec 256) (k : BitVec 3) (h : k.toNat < activeCores s) :
    (vget (releaseBoot s img measure).cps k).mpuLocked = true := by
  have hl : ∀ (l : List Nat) (v : Vector ProcRec (2 ^ 3)), k.toNat ∈ l ∨ (vget v k).mpuLocked = true →
      (vget (l.foldl (fun (v : Vector ProcRec (2 ^ 3)) k => vset v (BitVec.ofNat 3 k) ((vget v (BitVec.ofNat 3 k)).lock img 3)) v) k).mpuLocked = true := by
    intro l
    induction l with
    | nil => exact fun v hv => hv.resolve_left (by simp)
    | cons i l ih =>
      intro v hv
      refine ih _ ?_
      rw [vget_vset]
      by_cases hk : k = BitVec.ofNat 3 i
      · rw [if_pos hk]
        exact .inr rfl
      · rw [if_neg hk]
        exact hv.imp_left (fun hm => (List.mem_cons.1 hm).resolve_left (fun e => hk (by rw [← e, BitVec.ofNat_toNat, BitVec.setWidth_eq])))
  exact hl _ _ (.inl (List.mem_range.2 h))

/-! ### The report -/

/-- A little-endian field that stands behind its offset's bytes reads as the number it holds. -/
theorem fieldAt_append {l pre post : List Byte} {a n v : Nat} (h : l = pre ++ (bytesOf n v ++ post)) (ha : pre.length = a) (hv : v < 256 ^ n) :
    fieldAt l a n = v := by
  have hn : (bytesOf n v).length = n := leBytes_length n v
  rw [fieldAt, h, List.drop_append_of_le_length ha.ge, ← ha, List.drop_length, List.nil_append, List.take_append_of_le_length hn.ge,
    List.take_of_length_le hn.le, bytesOf, leValue_leBytes, Nat.mod_eq_of_lt hv]

/-- A vector's bytes, four a word, around its k-th word. -/
theorem vecBytes_split (v : Vector W32 (2 ^ 3)) (k : BitVec 3) : ∃ pre post : List Byte, pre.length = 4 * k.toNat ∧
    v.toList.flatMap (fun w => bytesOf 4 w.toNat) = pre ++ (bytesOf 4 (vget v k).toNat ++ post) := by
  have hk : k.toNat < v.toList.length := by rw [Vector.length_toList]; exact k.isLt
  refine ⟨(v.toList.take k.toNat).flatMap (fun w => bytesOf 4 w.toNat), (v.toList.drop (k.toNat + 1)).flatMap (fun w => bytesOf 4 w.toNat), ?_, ?_⟩
  · rw [List.length_flatMap, List.map_congr_left (fun w _ => (leBytes_length 4 w.toNat : (bytesOf 4 w.toNat).length = 4)), List.map_const',
      List.sum_replicate, List.length_take, Nat.min_eq_left hk.le, smul_eq_mul, Nat.mul_comm]
  · have hs : v.toList = v.toList.take k.toNat ++ vget v k :: v.toList.drop (k.toNat + 1) := by
      conv_lhs => rw [← List.take_append_drop k.toNat v.toList, List.drop_eq_getElem_cons hk]
      rfl
    conv_lhs => rw [hs, List.flatMap_append, List.flatMap_cons]

@[simp] theorem vecBytes_length (v : Vector W32 (2 ^ 3)) : (v.toList.flatMap (fun w => bytesOf 4 w.toNat)).length = 32 := by
  simp [List.length_flatMap, bytesOf]

theorem attestReport_length (s : State) : (attestReport s).length = 256 := by
  simp [attestReport, reportBody, bytesOf, List.length_flatMap]

/-- Which fields of the report stand where. -/
theorem attestReport_fields (s : State) : fieldAt (attestReport s) 0 4 = 0x54415454 ∧ fieldAt (attestReport s) 24 8 = s.tkc.seq.toNat ∧
    fieldAt (attestReport s) 8 16 = s.sec.sensed.uid.toNat ∧
    ∀ k : BitVec 3, fieldAt (attestReport s) (32 + 4 * k.toNat) 4 = (vget s.sec.nonce k).toNat := by
  refine ⟨?_, ?_, ?_, fun k => ?_⟩
  · exact fieldAt_append (pre := []) (by simp only [attestReport, reportBody, List.append_assoc, List.nil_append]; rfl) rfl (by norm_num)
  · refine fieldAt_append (pre := bytesOf 4 0x54415454 ++ bytesOf 2 1 ++ [s.sec.sensed.life.zeroExtend 8, s.sec.pkgOwner] ++
      bytesOf 16 s.sec.sensed.uid.toNat) (by simp only [attestReport, reportBody, List.append_assoc]; rfl) (by simp [bytesOf]) s.tkc.seq.isLt
  · refine fieldAt_append (pre := bytesOf 4 0x54415454 ++ bytesOf 2 1 ++ [s.sec.sensed.life.zeroExtend 8, s.sec.pkgOwner])
      (by simp only [attestReport, reportBody, List.append_assoc]; rfl) (by simp [bytesOf]) s.sec.sensed.uid.isLt
  · obtain ⟨pre, post, hpre, hs⟩ := vecBytes_split s.sec.nonce k
    refine fieldAt_append (pre := bytesOf 4 0x54415454 ++ bytesOf 2 1 ++ [s.sec.sensed.life.zeroExtend 8, s.sec.pkgOwner] ++
      bytesOf 16 s.sec.sensed.uid.toNat ++ bytesOf 8 s.tkc.seq.toNat ++ pre)
      (by simp only [attestReport, reportBody, List.append_assoc, hs]; rfl) (by simp [bytesOf, hpre]; omega) (vget s.sec.nonce k).isLt

/-! ### The obligation -/

theorem exec_secBootGo (s : State) :
    (s.sec.bootState = 0 ∨ s.sec.bootState = 5 →
      (s.sec.idShown = true → exec .secBootGo s = .next { s with sec := { s.sec with bootState := 1, goHeld := false } }) ∧
      (s.sec.idShown = false → exec .secBootGo s = .next { s with sec := { s.sec with goHeld := true } })) ∧
    (s.sec.bootState ≠ 0 → s.sec.bootState ≠ 5 → exec .secBootGo s = .next s) := by
  have he : exec .secBootGo s = .next (bootGo s) := rfl
  rw [he, bootGo]
  refine ⟨fun hb => ?_, fun h0 h5 => by rw [if_pos ⟨h0, h5⟩]⟩
  rw [if_neg (fun h => hb.elim h.1 h.2)]
  exact ⟨fun hi => by rw [hi]; rfl, fun hi => by rw [hi]; rfl⟩

/-- What a boot that passes every check leaves. -/
theorem exec_bootRelease_ok {resp : BitVec 2} {bytes : List Byte} {measure : BitVec 256} (hs : s.sec.bootState = 1)
    (hr : resp.toNat < 2) (hm : fieldAt (padTo s.sec.bootLen.toNat bytes) 0 4 = 0x54524657) (hv : fieldAt (padTo s.sec.bootLen.toNat bytes) 4 2 = 1)
    (ht : imgTableOk (padTo s.sec.bootLen.toNat bytes) s.sec.bootLen.toNat = true)
    (hg : fieldAt (padTo s.sec.bootLen.toNat bytes) 0x10 1 = deviceGen.toNat) (hp : imgMpuOk (padTo s.sec.bootLen.toNat bytes) = true) :
    exec (.bootRelease resp bytes true measure) s =
      .next (releaseBoot (loadImage s (padTo s.sec.bootLen.toNat bytes)) (padTo s.sec.bootLen.toNat bytes) measure) := by
  rw [exec_bootRelease, bootChecked_tableOk hs hr hm hv ht, if_neg (by simp), if_neg (fun h => h hg), hp]
  rfl

theorem exec_attestGo (s : State) (cert : Bool) :
    (s.sec.attState ≠ 1 → exec (.secAttGo cert) s = .next { s with sec := { s.sec with attState := 1, attPend := true, certPend := cert } } ∧
      exec .secCertGo s = .next { s with sec := { s.sec with attState := 1, attPend := false, certPend := true } }) ∧
    (s.sec.attState = 1 → exec (.secAttGo cert) s = .next { s with sec := { s.sec with wrIgn := true } } ∧
      exec .secCertGo s = .next { s with sec := { s.sec with wrIgn := true } }) := by
  have ha : exec (.secAttGo cert) s = .next (attestGo s true cert) := rfl
  have hc : exec .secCertGo s = .next (attestGo s false true) := rfl
  rw [ha, hc, attestGo, attestGo]
  exact ⟨fun h => by rw [if_neg h, if_neg h]; exact ⟨rfl, rfl⟩, fun h => by rw [if_pos h, if_pos h]; exact ⟨rfl, rfl⟩⟩

/-- The end of an attestation: an error response, or the report written at its address. -/
theorem exec_attestationDone {resp : BitVec 2} (ha : s.sec.attState = 1) (hb : s.sec.bootState ≠ 6) (hp : s.sec.attPend = true)
    (hc : s.sec.certPend = false) (hk : s.sec.keyReady = true) :
    exec (.attestationDone resp) s = .next (if 2 ≤ resp.toNat then failAttest s 8 else
      { s with dp := { s.dp with ext := memWrite s.dp.ext s.sec.attAddr.toNat (attestReport s) },
               sec := { s.sec with attState := 2, attPend := false } }) := by
  have he : exec (.attestationDone resp) s = .next (attestDone s resp) := rfl
  rw [he, attestDone, if_neg (fun h => h.elim (fun h => h ha) hb)]
  split
  · rfl
  · rw [if_neg (by rw [hk]; simp), writeAttest, hp, hc, if_pos rfl, if_neg Bool.false_ne_true, if_neg Bool.false_ne_true]
    congr 3
    rw [← hc]

/-- Settles O55: the checks come in their order, the sections of an image whose table is in order overlap nowhere in one target. -/
theorem bootAndReset : Obligations.BootAndReset := by
  refine ⟨exec_secBootGo, fun s resp bytes sigOk measure hs => ⟨fun hr => ?_, fun hr hm hv ht => ⟨fun hsig => ?_, fun hsig hg hp _ _ => ?_⟩⟩,
    exec_attestGo, fun s resp ha hb hp hc hk => ⟨fun hr => ?_, fun hr _ => ?_⟩, fun s => ⟨rfl, rfl⟩⟩
  · rw [exec_bootRelease, bootChecked, if_neg (fun h => h hs), if_pos hr]
    rfl
  · refine ⟨failBoot (loadImage s (padTo s.sec.bootLen.toNat bytes)) 3, ?_, rfl, rfl, rfl, rfl, rfl⟩
    rw [exec_bootRelease, bootChecked_tableOk hs hr hm hv ht, hsig]
    rfl
  · subst hsig
    refine ⟨_, exec_bootRelease_ok hs hr hm hv ht hg hp, rfl, rfl, rfl, rfl, rfl, fun k hk => releaseBoot_cps_locked _ _ _ k hk, fun h8 k hk => ?_,
      rfl, vget_digestWords measure, rfl, rfl, fun x hx hxt k hk => memRead_loadSections ht hx hxt hk,
      fun x hx hxt k hk => memRead_loadSections ht hx hxt hk, rfl, rfl, rfl, rfl, rfl, rfl, rfl⟩
    have hcps := releaseBoot_cps (loadImage s (padTo s.sec.bootLen.toNat bytes)) (padTo s.sec.bootLen.toNat bytes) measure h8 k
    rw [hcps]
    exact (congrArg ProcRec.mpuLocked (if_neg (Nat.not_lt.2 hk))).trans (loadImage_cps_locked s _ k)
  · rw [exec_attestationDone ha hb hp hc hk, if_pos hr]
    rfl
  · obtain ⟨h0, h24, h8, hn⟩ := attestReport_fields s
    rw [exec_attestationDone ha hb hp hc hk, if_neg (by omega)]
    refine ⟨_, rfl, rfl, attestReport_length s, h0, h24, h8, hn, fun a => ?_⟩
    rw [memRead_memWrite_byteAt, attestReport_length]

end Sys2Proof.Machine
end

section
/-!
THE PAIR AND THE LINK. Pairing requests, HELLO, ALIGN, credits and discarded frames (R357 to R363, R369, R374).
-/
namespace Sys2Proof.Machine
-- one proof after the other: the check compiles one text, and its memory holds few threads
set_option Elab.async false
open Sys2Proof.Safety

variable {s : State}

/-! ### Frames that go at once -/

theorem rank_lt (f : Frame) : f.rank < 5 := by
  unfold Frame.rank
  split <;> decide

/-- A frame alone is the next one. -/
theorem nextFrame_single (f : Frame) : nextFrame [f] = some 0 := by
  have hr := rank_lt f
  have hf : nextFrame [f] = (List.range 5).findSome? (fun r => if f.rank = r then some 0 else none) := by
    unfold nextFrame
    congr 1
    funext r
    by_cases h : f.rank = r <;> simp [List.findIdx?_cons, h]
  rw [hf]
  generalize f.rank = r at hr ⊢
  interval_cases r <;> rfl

/-- One frame that the link takes leaves at once. -/
theorem sendAll_single {f : Frame} (h : linkTakes s [f]) : sendAll s [f] = { s with twn := sent s.twn [f] } := by
  obtain ⟨htx, hup, hnil, hcr⟩ := h
  have hst : s.twn.state ≠ .fenced := fun e => by simp [txUp, e] at htx
  have hup' : (txUp { s with twn := { s.twn with tx := s.twn.tx ++ [f] } } && linkUp { s.twn with tx := s.twn.tx ++ [f] }) = true :=
    Bool.and_eq_true_iff.2 ⟨htx, hup⟩
  simp only [List.map_cons, List.map_nil, List.sum_cons, List.sum_nil, Nat.add_zero] at hcr
  unfold sendAll flushLink
  rw [if_neg hst, if_pos hup', hnil]
  simp only [List.nil_append, List.length_singleton, sendFrames, nextFrame_single, List.getElem?_cons_zero, if_pos hcr, List.eraseIdx_cons_zero,
    sent, List.map_cons, List.map_nil, List.sum_cons, List.sum_nil, Nat.add_zero]
  rw [← hnil]

/-- With nothing waiting there is nothing to send. -/
theorem flushLink_nil (h : s.twn.tx = []) : flushLink s = s := by
  unfold flushLink
  split
  · rw [h]
    rfl
  · rfl

/-! ### Changes that are called for -/

theorem callChange_of_none {c : TwnChange} (h : s.twn.change = none) : callChange s c = { s with twn := { s.twn with change := some c } } := by
  rw [callChange, h]
  rfl

/-- A pair detaches: its change of state waits 4,000 TU. -/
theorem callDetach_of_none {reason : Byte} (hu : s.twn.state ≠ .unpaired) (hf : s.twn.state ≠ .fenced) (h : s.twn.change = none) :
    callDetach s reason = { s with twn := { s.twn with change := some ⟨4000, .unpaired, reason, s.twn.state == .standby⟩ } } := by
  rw [callDetach, if_neg (not_or.2 ⟨hu, hf⟩), callChange_of_none h]

theorem twinReport_eq (stream : W16) (reason : Nat) :
    twinReport s stream reason = recordReport s (deviceReport 13 0xE 13 (stream.zeroExtend 32) (BitVec.ofNat 32 reason)) :=
  takeReport_plain _ _ (show (13 : BitVec 4) ≠ 1 by decide) rfl rfl

@[simp] theorem twinReport_twn (stream : W16) (reason : Nat) : (twinReport s stream reason).twn = s.twn := by rw [twinReport_eq, recordReport_twn]
@[simp] theorem twinReport_dp (stream : W16) (reason : Nat) : (twinReport s stream reason).dp = s.dp := by rw [twinReport_eq, recordReport_dp]
@[simp] theorem twinReport_sp (stream : W16) (reason : Nat) : (twinReport s stream reason).sp = s.sp := by rw [twinReport_eq, recordReport_sp]

/-- A TWIN report counts in its class. -/
theorem twinReport_cnt (stream : W16) (reason : Nat) :
    (vget (twinReport s stream reason).err.cls 13).cnt = satInc (vget s.err.cls 13).cnt := by
  rw [twinReport_eq, recordReport_cls _ _ (show (13 : BitVec 4) ≠ 0 by decide)]
  rfl

/-- A twin that asks for a quiet tick names the next one. -/
theorem callQuiet_of_none (hq : s.twn.quiet = none) (hl : linkTakes s [ctrlFrame (s.tkc.seq + 1) 3 []]) :
    callQuiet s = { s with twn := sent { s.twn with quiet := some (s.tkc.seq + 1) } [ctrlFrame (s.tkc.seq + 1) 3 []] } := by
  rw [callQuiet, hq, if_neg (by simp)]
  exact sendAll_single hl

/-! ### LINK_DOWN -/

theorem declareDown_of_paired (hd : s.twn.down = false) (hu : s.twn.state ≠ .unpaired) (hf : s.twn.state ≠ .fenced) :
    declareDown s = if s.twn.state = .standby ∧ s.twn.auto then callTakeover (twinReport { s with twn := { s.twn with down := true } } 0xFFFF 5)
      else callDetach (twinReport { s with twn := { s.twn with down := true } } 0xFFFF 5) 5 := by
  unfold declareDown
  rw [hd, if_neg Bool.false_ne_true]
  dsimp only
  rw [if_neg (not_or.2 ⟨hu, hf⟩), twinReport_twn]

/-- LINK_DOWN leaves the datapath and the streams, and declares the link down. -/
theorem declareDown_kept (s : State) : (declareDown s).twn.down = true ∧ (declareDown s).dp = s.dp ∧ (declareDown s).sp = s.sp ∧
    (declareDown s).twn.fcrc = s.twn.fcrc ∧ (declareDown s).twn.badFrames = s.twn.badFrames ∧ (declareDown s).twn.crdOut = s.twn.crdOut := by
  have hc : ∀ (u : State) (c : TwnChange), (callChange u c).twn.down = u.twn.down ∧ (callChange u c).dp = u.dp ∧ (callChange u c).sp = u.sp ∧
      (callChange u c).twn.fcrc = u.twn.fcrc ∧ (callChange u c).twn.badFrames = u.twn.badFrames ∧ (callChange u c).twn.crdOut = u.twn.crdOut := by
    intro u c
    unfold callChange
    split <;> exact ⟨rfl, rfl, rfl, rfl, rfl, rfl⟩
  have hr : ∀ u : State, u = twinReport { s with twn := { s.twn with down := true } } 0xFFFF 5 → u.twn.down = true ∧ u.dp = s.dp ∧ u.sp = s.sp ∧
      u.twn.fcrc = s.twn.fcrc ∧ u.twn.badFrames = s.twn.badFrames ∧ u.twn.crdOut = s.twn.crdOut := by
    rintro u rfl
    rw [twinReport_twn, twinReport_dp, twinReport_sp]
    exact ⟨rfl, rfl, rfl, rfl, rfl, rfl⟩
  unfold declareDown
  split
  · next hd => exact ⟨hd, rfl, rfl, rfl, rfl, rfl⟩
  · dsimp only
    split
    · exact ⟨rfl, rfl, rfl, rfl, rfl, rfl⟩
    · generalize hu : twinReport { s with twn := { s.twn with down := true } } 0xFFFF 5 = u
      have := hr u hu.symm
      have hk := fun c => hc u c
      split
      · unfold callTakeover
        split
        · obtain ⟨h1, h2, h3, h4, h5, h6⟩ := hk ⟨4000, .unpaired, 0xC, false⟩
          rwa [h1, h2, h3, h4, h5, h6]
        · exact this
      · unfold callDetach
        split
        · exact this
        · obtain ⟨h1, h2, h3, h4, h5, h6⟩ := hk ⟨4000, .unpaired, 5, u.twn.state == .standby⟩
          rwa [h1, h2, h3, h4, h5, h6]

/-! ### The obligation's parts -/

theorem exec_twnAttach (hu : s.twn.state = .unpaired) (ha : s.twn.attach = false) (hp : s.twn.peer = none)
    (hl : linkTakes s [helloFrame (ownHello s)]) :
    exec .twnAttach s = .next { s with twn := sent { s.twn with attach := true, reason := 1 } [helloFrame (ownHello s)] } := by
  have he : exec .twnAttach s = .next (twnAttach s) := rfl
  rw [he, twnAttach, if_neg (by simp [hu, ha])]
  have hs := sendAll_single (s := { s with twn := { s.twn with attach := true, reason := 1 } }) (f := helloFrame (ownHello s)) hl
  rw [hs]
  unfold decideAttach
  dsimp only [sent]
  rw [hp]

section paired
variable (hu : s.twn.state ≠ .unpaired) (hf : s.twn.state ≠ .fenced) (hc : s.twn.change = none)
include hu hf hc

theorem exec_twnDetach (hl : linkTakes s [ctrlFrame s.tkc.seq 2 []]) : exec .twnDetach s =
    .next { s with twn := { sent s.twn [ctrlFrame s.tkc.seq 2 []] with change := some (TwnChange.mk 4000 .unpaired 4 (s.twn.state == .standby)) } } := by
  have he : exec .twnDetach s = .next (twnDetach s) := rfl
  rw [he, twnDetach, if_neg (not_or.2 ⟨hu, hf⟩), sendAll_single hl]
  exact congrArg _ (callDetach_of_none (s := { s with twn := sent s.twn [ctrlFrame s.tkc.seq 2 []] }) hu hf hc)

theorem exec_ctrlDetach (n : W64) : exec (.ctrlDetach n) s =
    .next { s with twn := { received s.twn 1 with change := some (TwnChange.mk 4000 .unpaired 4 (s.twn.state == .standby)) } } :=
  congrArg _ (callDetach_of_none (s := goodFrame s 1) hu hf hc)

theorem exec_align_inStep (n : W64) (k : Nat) (hn : n = s.tkc.seq) (hk : k ≤ s.twn.skewMax.toNat) :
    ∃ t, exec (.align n k) s = .next t ∧ { t with twn := s.twn } = s ∧ t.twn.skew = some k ∧ t.twn.down = false ∧ t.twn.change = none ∧
      t.twn.rxBytes = s.twn.rxBytes + 32 := by
  have he : exec (.align n k) s = .next (align s n k) := rfl
  rw [he, align]
  dsimp only
  have hno : (n != s.tkc.seq || decide (s.twn.skewMax.toNat < k)) = false := by simp [hn, hk]
  rw [if_neg (by intro h; exact Bool.false_ne_true (hno.symm.trans (Bool.and_eq_true_iff.1 h).2))]
  exact ⟨_, rfl, rfl, rfl, rfl, hc, rfl⟩

theorem exec_align_skewed (n : W64) (k : Nat) (hn : n ≠ s.tkc.seq ∨ s.twn.skewMax.toNat < k) :
    ∃ t, exec (.align n k) s = .next t ∧ t.twn.change = some (TwnChange.mk 4000 .unpaired 6 (s.twn.state == .standby)) ∧ t.dp = s.dp ∧
      (vget t.err.cls 13).cnt = satInc (vget s.err.cls 13).cnt := by
  have he : exec (.align n k) s = .next (align s n k) := rfl
  rw [he, align]
  dsimp only
  have hyes : (n != s.tkc.seq || decide (s.twn.skewMax.toNat < k)) = true := by simpa using hn
  rw [if_pos (by exact Bool.and_eq_true_iff.2 ⟨by simp [alignChecked, goodFrame, receiveBeats, hu, hf], hyes⟩)]
  rw [callDetach_of_none (by rw [twinReport_twn]; exact hu) (by rw [twinReport_twn]; exact hf) (by rw [twinReport_twn]; exact hc)]
  refine ⟨_, rfl, by rw [twinReport_twn]; rfl, twinReport_dp _ _, ?_⟩
  exact twinReport_cnt _ _

theorem exec_linkDown_detaches (hd : s.twn.down = false) (hs : ¬(s.twn.state = .standby ∧ s.twn.auto = true)) :
    ∃ t, exec .linkDown s = .next t ∧ t.twn.down = true ∧ t.twn.change = some (TwnChange.mk 4000 .unpaired 5 (s.twn.state == .standby)) ∧ t.dp = s.dp ∧
      (vget t.err.cls 13).cnt = satInc (vget s.err.cls 13).cnt := by
  have he : exec .linkDown s = .next (declareDown s) := rfl
  rw [he, declareDown_of_paired hd hu hf, if_neg hs]
  rw [callDetach_of_none (by rw [twinReport_twn]; exact hu) (by rw [twinReport_twn]; exact hf) (by rw [twinReport_twn]; exact hc)]
  refine ⟨_, rfl, by rw [twinReport_twn], by rw [twinReport_twn], twinReport_dp _ _, ?_⟩
  exact twinReport_cnt _ _

end paired

theorem exec_standby (hs : s.twn.state = .standby) (hc : s.twn.change = none) :
    exec .twnTakeover s = .next { s with twn := { s.twn with change := some ⟨4000, .unpaired, 0xC, false⟩ } } ∧
    (s.twn.auto = true → s.twn.down = false →
      ∃ t, exec .linkDown s = .next t ∧ t.twn.down = true ∧ t.twn.change = some ⟨4000, .unpaired, 0xC, false⟩) := by
  have he : exec .twnTakeover s = .next (twnTakeover s) := rfl
  have hd : exec .linkDown s = .next (declareDown s) := rfl
  refine ⟨?_, fun ha hdown => ?_⟩
  · rw [he, twnTakeover, hs]
    dsimp only
    rw [callTakeover, if_pos hs, callChange_of_none hc]
  · rw [hd, declareDown_of_paired hdown (by simp [hs]) (by simp [hs]), if_pos ⟨hs, ha⟩, callTakeover, if_pos (by rw [twinReport_twn]; exact hs),
      callChange_of_none (by rw [twinReport_twn]; exact hc)]
    exact ⟨_, rfl, by rw [twinReport_twn], by rw [twinReport_twn]⟩

theorem exec_quiet (hq : s.twn.quiet = none) (hl : linkTakes s [ctrlFrame (s.tkc.seq + 1) 3 []]) :
    (s.twn.state = .active →
      exec .twnTakeover s = .next { s with twn := sent { s.twn with quiet := some (s.tkc.seq + 1) } [ctrlFrame (s.tkc.seq + 1) 3 []] }) ∧
    (s.twn.state = .syncing → s.twn.role = true → s.twn.copied = true →
      exec .syncComplete s = .next { s with twn := sent { s.twn with quiet := some (s.tkc.seq + 1) } [ctrlFrame (s.tkc.seq + 1) 3 []] }) := by
  have he : exec .twnTakeover s = .next (twnTakeover s) := rfl
  have hd : exec .syncComplete s = .next (syncDone s) := rfl
  refine ⟨fun ha => ?_, fun hs hr hcp => ?_⟩
  · rw [he, twnTakeover, ha]
    dsimp only
    rw [callQuiet_of_none hq hl]
  · rw [hd, syncDone, if_neg (fun h => h hs), if_pos hr, if_pos hcp, callQuiet_of_none hq hl]

theorem ppFit_frame (s : State) : (ppFit s).twn = s.twn ∧ (ppFit s).err = s.err ∧ (ppFit s).dp.dev = s.dp.dev := by
  unfold ppFit
  dsimp only
  split <;> exact ⟨rfl, rfl, rfl⟩

theorem ownL3_move (e : Err) (now : Nat) : (e.move 3 true true now).ownL3.getLsbD 1 = true := by
  unfold Err.move
  simp [setBit]

theorem hello_unpaired (h : HelloInfo) (hu : s.twn.state = .unpaired) :
    hello s h = decideAttach { s with twn := { received s.twn (helloFrame h).beats with peer := some h } } := by
  unfold hello
  generalize (helloFrame h).beats = n
  exact if_pos hu

theorem decideAttach_alone (ha : s.twn.attach = false) : decideAttach s = s := by
  unfold decideAttach
  rw [ha]

theorem decideAttach_agreed {h : HelloInfo} (ha : s.twn.attach = true) (hp : s.twn.peer = some h) (hc : s.twn.change = none)
    (hok : attachOk s h = true) : decideAttach s = callChange (setL3 s true true) ⟨0, .attaching, 1, false⟩ := by
  unfold decideAttach
  rw [ha, hp]
  dsimp only
  rw [hc, if_neg (by simp), if_pos hok]

theorem exec_hello_waiting (h : HelloInfo) (hu : s.twn.state = .unpaired) (ha : s.twn.attach = false) :
    exec (.hello h) s = .next { s with twn := { received s.twn (helloFrame h).beats with peer := some h } } := by
  have he : exec (.hello h) s = .next (hello s h) := rfl
  rw [he, hello_unpaired h hu]
  generalize (helloFrame h).beats = n
  exact congrArg _ (decideAttach_alone ha)

/-- Two HELLOs that agree call for ATTACHING, and mirroring takes the level-3 meter. -/
theorem exec_hello_agreed (h : HelloInfo) (hu : s.twn.state = .unpaired) (ha : s.twn.attach = true) (hc : s.twn.change = none)
    (hok : attachOk s h = true) :
    ∃ t, exec (.hello h) s = .next t ∧ t.twn.state = .unpaired ∧ t.twn.change = some ⟨0, .attaching, 1, false⟩ ∧ t.twn.peer = some h ∧
      t.err.ownL3.getLsbD 1 = true ∧ t.dp.dev = s.dp.dev := by
  have he : exec (.hello h) s = .next (hello s h) := rfl
  rw [he, hello_unpaired h hu]
  generalize (helloFrame h).beats = n
  rw [decideAttach_agreed (s := { s with twn := { received s.twn n with peer := some h } }) ha rfl hc hok, setL3, if_pos rfl]
  obtain ⟨ht, hee, hdv⟩ := ppFit_frame (moveOwn { s with twn := { received s.twn n with peer := some h } } 3 true true)
  rw [callChange_of_none (by rw [ht]; exact hc)]
  refine ⟨_, rfl, ?_, rfl, ?_, ?_, hdv⟩
  · exact (congrArg Twn.state ht).trans hu
  · exact congrArg Twn.peer ht
  · exact (congrArg (fun e : Err => e.ownL3.getLsbD 1) hee).trans (ownL3_move _ _)

theorem exec_stateRequest (n : W64) (hs : s.twn.state = .syncing ∨ s.twn.state = .standby) (hn : s.tkc.seq.toNat < n.toNat)
    (hq : s.twn.quiet = none) : exec (.stateRequest n) s = .next { s with twn := { received s.twn 1 with quiet := some n } } := by
  have he : exec (.stateRequest n) s = .next (stateRequest s n) := rfl
  have hnamed : (decide (s.tkc.seq.toNat < n.toNat) && s.twn.quiet.isNone) = true := by simp [hn, hq]
  rw [he]
  unfold stateRequest
  dsimp only [goodFrame, receiveBeats]
  rw [hnamed]
  split
  · rfl
  · rfl
  · next h1 h2 => exact absurd hs (not_or.2 ⟨h1, h2⟩)

theorem exec_linkSignals (hn : s.twn.tx = []) :
    exec .twlTxCrd s = .next { s with twn := { s.twn with credit := min 256 (s.twn.credit + 1) } } ∧
    (s.twn.rxUp = false → exec (.twlRxUp true) s = .next { s with twn := { s.twn with rxUp := true, down := false, credit := 256 } }) ∧
    exec (.twlRxUp false) s = .next { s with twn := { s.twn with rxUp := false } } := by
  refine ⟨congrArg Host.Outcome.next (flushLink_nil (s := { s with twn := { s.twn with credit := min 256 (s.twn.credit + 1) } }) hn), fun hr => ?_, rfl⟩
  refine congrArg _ ((if_pos (by rw [hr]; rfl)).trans (flushLink_nil ?_))
  exact hn

/-- The state once a discarded frame is counted. -/
def discarded (s : State) (beats : Byte) : State :=
  { s with twn := { s.twn with rxBytes := s.twn.rxBytes + 32 * (1 + beats.toNat), crdOut := s.twn.crdOut + (1 + beats.toNat),
                               fcrc := s.twn.fcrc + 1, badFrames := s.twn.badFrames + 1 } }

theorem frameDiscard_eq (s : State) (beats : Byte) :
    frameDiscard s beats = if s.twn.badFrames + 1 = 8 then declareDown (discarded s beats) else discarded s beats := rfl

/-- A discarded frame counts; the eighth in a row declares the link down. -/
theorem exec_frameDiscard (s : State) (beats : Byte) : ∃ t, exec (.frameDiscard beats) s = .next t ∧ t.twn.fcrc = s.twn.fcrc + 1 ∧
    t.twn.badFrames = s.twn.badFrames + 1 ∧ t.twn.crdOut = s.twn.crdOut + 1 + beats.toNat ∧ t.dp = s.dp ∧ t.sp.streams = s.sp.streams ∧
    t.twn.down = (s.twn.down || s.twn.badFrames == 7) ∧ (s.twn.badFrames ≠ 7 → t.err = s.err ∧ t.twn.change = s.twn.change) := by
  have he : exec (.frameDiscard beats) s = .next (frameDiscard s beats) := rfl
  rw [he, frameDiscard_eq]
  by_cases hb : s.twn.badFrames = 7
  · obtain ⟨hdn, hdp, hsp, hfc, hbf, hco⟩ := declareDown_kept (discarded s beats)
    rw [if_pos (congrArg (· + 1) hb)]
    refine ⟨_, rfl, hfc, hbf, hco.trans (Nat.add_assoc _ _ _).symm, hdp, congrArg _ hsp, ?_, fun h => absurd hb h⟩
    rw [hdn, hb, beq_self_eq_true, Bool.or_true]
  · rw [if_neg (by omega)]
    refine ⟨_, rfl, rfl, rfl, (Nat.add_assoc _ _ _).symm, rfl, rfl, ?_, fun _ => ⟨rfl, rfl⟩⟩
    rw [beq_false_of_ne hb, Bool.or_false]
    rfl

theorem exec_streamTableChange (n : W64) (c : TableChange) (hr : s.twn.role = true) (hs : s.twn.state = .mirror ∨ s.twn.state = .standby) :
    exec (.streamTableChange n c) s = .next { s with twn := { received s.twn 2 with changes := s.twn.changes ++ [remoteChange n c] } } := by
  have he : exec (.streamTableChange n c) s = .next (tableChange s n c) := rfl
  rw [he]
  unfold tableChange
  dsimp only [goodFrame, receiveBeats]
  rw [if_neg (by rw [hr]; exact Bool.false_ne_true)]
  split
  · next h => rw [h] at hs; exact absurd hs (by decide)
  · rfl
  · rfl
  · next h1 h2 => exact absurd hs (not_or.2 ⟨h1, h2⟩)

/-- Settles O57: every request and every link event either calls for the one change of state or leaves it. -/
theorem pairingAndLink : Obligations.PairingAndLink := by
  refine ⟨fun s => exec_twnAttach, fun s hu hf hc => ⟨exec_twnDetach hu hf hc, exec_ctrlDetach hu hf hc, exec_align_inStep hu hf hc,
    exec_align_skewed hu hf hc, exec_linkDown_detaches hu hf hc⟩, fun s => exec_standby, fun s ha hq hl => (exec_quiet hq hl).1 ha,
    fun s hs hr hcp hq hl => (exec_quiet hq hl).2 hs hr hcp, fun s h hu => ⟨exec_hello_waiting h hu, exec_hello_agreed h hu⟩,
    fun s n hs hn hq => exec_stateRequest n hs hn hq, fun s => exec_linkSignals, exec_frameDiscard,
    fun s n c hr hs => exec_streamTableChange n c hr hs⟩

end Sys2Proof.Machine
end

section
/-!
CHAIN FAULTS. What a report that rolls its chain back and calls for its restart leaves (R345, R347).
-/
namespace Sys2Proof.Machine
-- one proof after the other: the check compiles one text, and its memory holds few threads
set_option Elab.async false
open Sys2Proof.Safety

variable {s u : State}

/-! ### The cores of a chain -/

/-- What a call for a restart does to a core of the chain. -/
def Core.halted (seq : W64) (x : Core) : Core :=
  { x with restart := true, hold := none, run := if x.run = .computing ∧ seq.toNat ≤ x.tick.toNat then .stopped else x.run }

theorem halted_halted (seq : W64) (x : Core) : (x.halted seq).halted seq = x.halted seq := by
  unfold Core.halted
  by_cases h : x.run = .computing ∧ seq.toNat ≤ x.tick.toNat
  · simp only [if_pos h]
    simp
  · simp only [if_neg h]

/-- A function that does nothing the second time, applied to the cores of a list, duplicates among them. -/
theorem foldl_modCore_idem {f : Core → Core} (hf : ∀ x, f (f x) = f x) (l : List (BitVec 3)) (d : Dp) (k : BitVec 3) :
    vget (l.foldl (fun (d : Dp) c => d.modCore c f) d).cores k = if k ∈ l then f (vget d.cores k) else vget d.cores k := by
  induction l generalizing d with
  | nil => rfl
  | cons c l ih =>
    have hm : vget (d.modCore c f).cores k = if k = c then f (vget d.cores c) else vget d.cores k := vget_vset _ _ _ _
    rw [List.foldl_cons, ih, hm]
    by_cases hkc : k = c
    · subst hkc
      rw [if_pos rfl, if_pos (show k ∈ k :: l by simp), hf, ite_self]
    · rw [if_neg hkc]
      simp only [List.mem_cons, hkc, false_or]

theorem dropEarly_cur (q : W64) (n : Nat) : (dropEarly s q n).sp.cur = s.sp.cur ∧ (dropEarly s q n).sp.restarts = s.sp.restarts ∧
    (dropEarly s q n).sp.streams = s.sp.streams := by
  unfold dropEarly
  split
  · split <;> exact ⟨rfl, rfl, rfl⟩
  · exact ⟨rfl, rfl, rfl⟩

/-- A call for a restart stops the cores of the chain and no others. -/
theorem callRestart_core (ch : Nat) (q : W64) (b : Bool) (k : BitVec 3) :
    coreOf (callRestart s ch q b) k = if k ∈ chainCores s ch then (coreOf s k).halted q else coreOf s k := by
  have h : (callRestart s ch q b).dp = (chainCores s ch).foldl (fun (d : Dp) c => d.modCore c (Core.halted q)) s.dp := by
    unfold callRestart
    rw [dropEarly_dp]
    rfl
  unfold coreOf
  rw [h]
  exact foldl_modCore_idem (halted_halted q) _ _ _

/-- A call for a restart leaves the running tick, and the restart stands in the list. -/
theorem callRestart_sp (ch : Nat) (q : W64) (b : Bool) :
    (callRestart s ch q b).sp.cur = s.sp.cur ∧ ∃ r ∈ (callRestart s ch q b).sp.restarts, r.chain = ch := by
  unfold callRestart
  dsimp only
  obtain ⟨hc, hr, -⟩ := dropEarly_cur (s := { s with
    dp := (chainCores s ch).foldl (fun (d : Dp) c => d.modCore c (Core.halted q)) s.dp,
    sp := { s.sp with restarts := if s.sp.restarts.any (fun r => r.chain = ch) then
      s.sp.restarts.map (fun r => if r.chain = ch then { r with restore := r.restore || b } else r) else s.sp.restarts ++ [⟨ch, b, false⟩] } }) q ch
  refine ⟨hc, ?_⟩
  have hx : ∃ x ∈ (if s.sp.restarts.any (fun r => r.chain = ch) then
      s.sp.restarts.map (fun r => if r.chain = ch then { r with restore := r.restore || b } else r) else s.sp.restarts ++ [⟨ch, b, false⟩]), x.chain = ch := by
    split
    · next ha =>
      obtain ⟨x, hx, hxc⟩ := List.any_eq_true.1 ha
      have hxc : x.chain = ch := by simpa using hxc
      exact ⟨_, List.mem_map_of_mem hx, by rw [if_pos hxc]; exact hxc⟩
    · exact ⟨_, List.mem_append_right _ (List.mem_singleton.2 rfl), rfl⟩
  obtain ⟨x, hx, hxc⟩ := hx
  exact ⟨x, (congrArg (x ∈ ·) hr).mpr hx, hxc⟩

/-! ### The stream-ticks of a chain -/

/-- What a rollback of a chain leaves of the stream-ticks of the tick it is in. -/
theorem rollChain_cur {r : Report} {ch : Nat} {t : TickRec} (hcur : s.sp.cur = some t) (ht : t.seq = tickOfReport s r) :
    ∃ q, (rollChain s r ch).sp.cur = some q ∧ q.seq = t.seq ∧ q.sts.map (fun y => (y.stream, y.out)) = t.sts.map (fun y => (y.stream,
      if y.chain = ch ∧ y.out = .running ∧ sealedPlace s (tickOfReport s r) y.place = false then .rolledBack else y.out)) := by
  have hn : ∀ (q : W64) (c : BitVec 3) (st : BitVec 7) (p : StreamTick → Bool) (t : TickRec),
      (noteCore q c st p t).seq = t.seq ∧ (noteCore q c st p t).sts = t.sts := by
    intro q c st p t
    unfold noteCore
    dsimp only
    split <;> exact ⟨rfl, rfl⟩
  have hs : ∀ p : StreamTick → Bool, (rollTick (tickOfReport s r) p t).seq = t.seq ∧
      (rollTick (tickOfReport s r) p t).sts = t.sts.map (fun x => if p x then x.roll else x) := by
    intro p
    unfold rollTick
    rw [if_pos ht]
    exact ⟨rfl, rfl⟩
  have hm : (t.sts.map (fun x => if (x.chain == ch && !sealedPlace s (tickOfReport s r) x.place) = true then x.roll else x)).map
      (fun y => (y.stream, y.out)) = t.sts.map (fun y => (y.stream,
        if y.chain = ch ∧ y.out = .running ∧ sealedPlace s (tickOfReport s r) y.place = false then .rolledBack else y.out)) := by
    rw [List.map_map]
    refine List.map_congr_left (fun y _ => ?_)
    by_cases hch : y.chain = ch <;> by_cases hse : sealedPlace s (tickOfReport s r) y.place = true <;> by_cases ho : y.out = .running <;>
      simp [hch, hse, ho, StreamTick.roll]
  obtain ⟨h1, h2⟩ := hs (fun x => x.chain == ch && !sealedPlace s (tickOfReport s r) x.place)
  unfold rollChain
  dsimp only
  split
  · next c hc =>
    obtain ⟨h3, h4⟩ := hn (tickOfReport s r) c r.status (fun x => x.chain == ch && !sealedPlace s (tickOfReport s r) x.place)
      (rollTick (tickOfReport s r) (fun x => x.chain == ch && !sealedPlace s (tickOfReport s r) x.place) t)
    refine ⟨_, by simp only [mapTicks, hcur, Option.map_some], h3.trans h1, ?_⟩
    rw [h4, h2]
    exact hm
  · refine ⟨_, by simp only [mapTicks, hcur, Option.map_some], h1, ?_⟩
    rw [h2]
    exact hm

/-- A rollback leaves the restarts called for and the loaded task. -/
theorem rollChain_restarts (r : Report) (ch : Nat) : (rollChain s r ch).sp.restarts = s.sp.restarts ∧ (rollChain s r ch).sp.task = s.sp.task := by
  unfold rollChain
  dsimp only
  split <;> exact ⟨rfl, rfl⟩

/-! ### The report -/

/-- What a report of a core does that rolls the chain back and calls for its restart. -/
theorem takeReport_chain {r : Report} {c : BitVec 3} {ch : Nat} (hcls : r.cls ≠ 1) (hcore : r.core = some c) (hrb : r.rollback = true)
    (hrs : r.restart = true) (hch : chainOf s c = some ch) :
    takeReport s r = callRestart (rollChain (recordReport s r) r ch) ch (tickOfReport (recordReport s r) r) r.restore := by
  have hf : faultChain (recordReport s r) r = some ch := by
    unfold faultChain
    rw [if_neg (fun h => hcls h.1), hcore]
    dsimp only
    unfold chainOf taskChains taskPkg at hch ⊢
    rw [recordReport_sp]
    exact hch
  unfold takeReport
  extract_lets a row seq hold
  have hh : hold = [] := if_neg (fun h => hcls h.1)
  rw [hh, if_neg (by simp), if_neg (fun h => hcls h.1)]
  simp only [a, hf, hrb, hrs, if_true]
  rfl

/-- A chain rolled back and called to restart for a fault of core c, in a state with the same cores, tables and seals. -/
theorem chainFails_rolled {v : State} {r : Report} {c : BitVec 3} {ch : Nat} {b : Bool} (hvd : v.dp = s.dp) (hvs : v.sp = s.sp) (hvt : v.twn = s.twn)
    (hseq : tickOfReport v r = (coreOf s c).tick) :
    Safety.chainFails s (callRestart (rollChain v r ch) ch (coreOf s c).tick b) ch c := by
  have hcores : chainCores (rollChain v r ch) ch = chainCores s ch := by
    unfold chainCores taskChains taskPkg
    rw [(rollChain_restarts r ch).2, hvs]
  have hc : ∀ k, coreOf (rollChain v r ch) k = coreOf s k := by
    intro k
    unfold coreOf
    rw [rollChain_dp, hvd]
  have hcore' : ∀ k, coreOf (callRestart (rollChain v r ch) ch (coreOf s c).tick b) k =
      if k ∈ chainCores s ch then (coreOf s k).halted (coreOf s c).tick else coreOf s k := by
    intro k
    rw [callRestart_core, hcores, hc]
  have hdp := callRestart_dp (s := rollChain v r ch) ch (coreOf s c).tick b
  rw [rollChain_dp, hvd] at hdp
  obtain ⟨hcur, hrest⟩ := callRestart_sp (s := rollChain v r ch) ch (coreOf s c).tick b
  refine ⟨fun k hk => ?_, fun k hk => ?_, hrest, fun t ht htseq => ?_, (congrArg Dp.dev hdp :), (congrArg Dp.ecc hdp :)⟩
  · rw [hcore', if_pos hk]
    exact ⟨rfl, rfl, rfl, rfl⟩
  · rw [hcore', if_neg hk]
  · rw [hcur]
    obtain ⟨q, hq, hqs, hqm⟩ := rollChain_cur (s := v) (r := r) (ch := ch) (t := t) (by rw [hvs]; exact ht) (by rw [hseq]; exact htseq)
    refine ⟨q, hq, hqs, ?_⟩
    rw [hqm, hseq]
    refine List.map_congr_left (fun y _ => ?_)
    unfold sealedPlace
    rw [hvt]

/-- A report of a core whose fault rolls its chain back and calls for its restart. -/
theorem chainFails_takeReport {r : Report} {c : BitVec 3} {ch : Nat} (hcls : r.cls ≠ 1) (hcore : r.core = some c) (htick : r.tick = none)
    (hrb : r.rollback = true) (hrs : r.restart = true) (hch : chainOf s c = some ch) : Safety.chainFails s (takeReport s r) ch c := by
  have hseq : tickOfReport (recordReport s r) r = (coreOf s c).tick := by
    unfold tickOfReport
    rw [htick, hcore, recordReport_dp]
  rw [takeReport_chain hcls hcore hrb hrs hch, hseq]
  exact chainFails_rolled (recordReport_dp _ _) (recordReport_sp _ _) (recordReport_twn _ _) hseq

/-- A call for a restart touches of FWR the count of discarded early stream-ticks only. -/
theorem callRestart_fwr (ch : Nat) (q : W64) (b : Bool) : { (callRestart s ch q b).fwr with spec := s.fwr.spec } = s.fwr := by
  have hd : ∀ (v : State) q n, { (dropEarly v q n).fwr with spec := v.fwr.spec } = v.fwr := by
    intro v q n
    unfold dropEarly
    split
    · split <;> rfl
    · rfl
  exact hd _ _ _

/-- Such a report counts once in its class. -/
theorem takeReport_chain_err {r : Report} {c : BitVec 3} {ch : Nat} (hcls : r.cls ≠ 1) (hcore : r.core = some c)
    (hrb : r.rollback = true) (hrs : r.restart = true) (hch : chainOf s c = some ch) :
    (takeReport s r).err = (recordReport s r).err ∧ (takeReport s r).fwr.fw = (recordReport s r).fwr.fw := by
  rw [takeReport_chain hcls hcore hrb hrs hch]
  refine ⟨by rw [callRestart_err, rollChain_err], (congrArg Fwr.fw (callRestart_fwr _ _ _) :).trans ?_⟩
  exact congrArg Fwr.fw (rollChain_fwr _ r ch)

/-- The recorder leaves the firmware's block but for the count of timeouts. -/
theorem recordReport_fw (r : Report) : (recordReport s r).fwr.fw = s.fwr.fw := by
  obtain ⟨e, f, h⟩ := recordReport_eq s r
  rw [h]

/-- A recorded report counts in its class. -/
theorem recordReport_cnt (r : Report) (h : r.cls ≠ 0) :
    (vget (recordReport s r).err.cls r.cls).cnt = satInc (vget s.err.cls r.cls).cnt := by
  rw [recordReport_cls _ _ h, if_pos rfl]
  rfl

end Sys2Proof.Machine
end

section
/-!
FIRMWARE EVENTS. Watchdogs, MPU faults, log entries, trace packets and FWR writes (R310, R311, R332, R333, R335, R336, R402).
-/
namespace Sys2Proof.Machine
-- one proof after the other: the check compiles one text, and its memory holds few threads
set_option Elab.async false
open Sys2Proof.Safety

variable {s t u : State}

/-! ### The queue of FWR writes over time -/

theorem recordReport_queue (s : State) (r : Report) : (recordReport s r).fwr.queue = s.fwr.queue := by
  obtain ⟨e, f, h⟩ := recordReport_eq s r
  rw [h]

theorem dropEarly_queue (s : State) (q : W64) (n : Nat) : (dropEarly s q n).fwr.queue = s.fwr.queue := by
  unfold dropEarly
  split
  · split <;> rfl
  · rfl

theorem foldl_queue {α : Type} {f : State → α → State} (hf : ∀ s x, (f s x).fwr.queue = s.fwr.queue) (l : List α) (s : State) :
    (l.foldl f s).fwr.queue = s.fwr.queue := by
  induction l generalizing s with
  | nil => rfl
  | cons x l ih => rw [List.foldl_cons, ih, hf]

theorem loseStream_queue (q : W64) (s : State) (x : W16) : (loseStream q s x).fwr.queue = s.fwr.queue :=
  (recordReport_queue _ _).trans rfl

theorem takeReport_queue (s : State) (r : Report) : (takeReport s r).fwr.queue = s.fwr.queue := by
  have hc : ∀ v c q b, (callRestart v c q b).fwr.queue = v.fwr.queue := fun v c q b => dropEarly_queue _ _ _
  have hr : ∀ c, (rollChain (recordReport s r) r c).fwr.queue = s.fwr.queue := fun c => by rw [rollChain_fwr, recordReport_queue]
  rcases takeReport_cases s r with ⟨q, l, h⟩ | ⟨n, h⟩ | h | ⟨c, h⟩ | ⟨v, c, q, b, rfl | rfl, h⟩ <;> rw [h]
  · rw [foldl_queue (loseStream_queue q), recordReport_queue]
  · exact (recordReport_queue _ _).trans (recordReport_queue s r)
  · exact recordReport_queue s r
  · exact hr c
  · rw [hc, recordReport_queue]
  · rw [hc, hr]

theorem takeReports_queue (s : State) (l : List Report) : (takeReports s l).fwr.queue = s.fwr.queue := foldl_queue takeReport_queue l s

/-- A queued write but for the time it has left. -/
def FwrWrite.what (w : FwrWrite) : W16 × W32 × Bool := (w.ofs, w.value, w.late)

theorem refreshHold_fwr (s : State) (c : BitVec 3) : (refreshHold s c).fwr.queue = s.fwr.queue := by
  unfold refreshHold
  dsimp only
  split <;> rfl

theorem stopUnreleased_queue (s : State) (c : BitVec 3) : (stopUnreleased s c).fwr.queue = s.fwr.queue := by
  unfold stopUnreleased
  split
  · dsimp only
    split <;> rfl
  · rfl

theorem resumeVft_queue (s : State) (c : BitVec 3) : (resumeVft s c).fwr.queue = s.fwr.queue := by
  unfold resumeVft
  split
  · rfl
  · exact takeReports_queue _ _

theorem passSpan_what (s : State) (n : Nat) : (s.passSpan n).fwr.queue.map FwrWrite.what = s.fwr.queue.map FwrWrite.what := by
  unfold State.passSpan
  split
  · rfl
  have hhold : (allCores.foldl refreshHold s).fwr.queue = s.fwr.queue := foldl_queue refreshHold_fwr _ s
  generalize allCores.foldl refreshHold s = u at hhold
  dsimp only
  generalize hv : passFirmware _ _ = v
  have hfw : v.fwr.queue.map FwrWrite.what = s.fwr.queue.map FwrWrite.what := by
    have hmap : ∀ (x : State) (tu : Nat), (passFirmware x tu).fwr.queue.map FwrWrite.what = x.fwr.queue.map FwrWrite.what := by
      intro x tu
      unfold passFirmware
      dsimp only
      rw [List.map_map]
      rfl
    rw [← hv, hmap, ← hhold]
    exact congrArg (List.map FwrWrite.what) (by split <;> rfl)
  generalize hw : (if (flagHits u n).isEmpty = true then v else bpMatch v (flagHits u n) false) = w
  have hbp : w.fwr.queue = v.fwr.queue := by
    rw [← hw]
    split
    · rfl
    · obtain ⟨d, m, h⟩ := bpMatch_eq v (flagHits u n) false
      rw [h]
  have hend : (allCores.foldl resumeVft (stopLate (takeReports w (u.dp.pass n (frozen u)).2))).fwr.queue = v.fwr.queue := by
    rw [foldl_queue resumeVft_queue, stopLate, foldl_queue stopUnreleased_queue, takeReports_queue, hbp]
  have hfreeze : ∀ x : State, (freezeNow x).fwr.queue = x.fwr.queue := fun _ => rfl
  split
  · rw [hfreeze, hend, hfw]
  · rw [hend, hfw]

/-- Time leaves every queued write where it is. -/
theorem pass_what (s : State) (n : Nat) : (s.pass n).fwr.queue.map FwrWrite.what = s.fwr.queue.map FwrWrite.what := by
  unfold State.pass
  generalize 8 = k
  induction k generalizing s n with
  | zero => exact passSpan_what s n
  | succ k ih =>
    unfold State.passSpans
    split
    · exact (ih _ _).trans (passSpan_what s _)
    · exact passSpan_what s n

/-! ### Processors -/

theorem clockRuns_of_mayReach {n : Nat} (h : mayReach s n = true) : clockRuns s = true := by
  unfold mayReach at h
  simp only [Bool.and_eq_true] at h
  exact h.1.1

theorem getProc_setProc_same (s : State) (p : Proc) (r : ProcRec) : getProc (setProc s p r) p = r := by
  cases p <;> first | rfl | exact vget_vset_same _ _ _

theorem getProc_setProc_ne (s : State) {p q : Proc} (r : ProcRec) (h : q ≠ p) : getProc (setProc s p r) q = getProc s q := by
  cases p <;> cases q <;> first | rfl | exact absurd rfl h | exact vget_vset_ne _ _ _ _ (fun e => h (congrArg Proc.cp e))

/-- A processor's record leaves everything but the processors. -/
theorem setProc_frame (s : State) (p : Proc) (r : ProcRec) :
    { setProc s p r with xp := s.xp, pp := s.pp, spp := s.spp, cps := s.cps } = s := by cases p <;> rfl

theorem skipAll_cur (s : State) : ∀ r, (skipAll s).sp.cur = some r → ∀ y ∈ r.sts, y.out = .skipped := by
  intro r hr y hy
  unfold skipAll at hr
  simp only [mapTicks, Option.map_eq_some_iff] at hr
  obtain ⟨q, -, rfl⟩ := hr
  obtain ⟨x, -, rfl⟩ := List.mem_map.1 hy
  rfl

/-- Dumps and events leave the running tick, the chip's memory and the firmware's level and counts. -/
def Fatal (s t : State) : Prop :=
  t.sp.cur = s.sp.cur ∧ t.dp.dev = s.dp.dev ∧ t.fwr.fw.level = s.fwr.fw.level ∧ t.fwr.fw.wdtExp = s.fwr.fw.wdtExp ∧
    t.fwr.fw.mpuFault = s.fwr.fw.mpuFault

/-- A step that leaves what `Fatal` names. -/
theorem fatal_beside (h : Fatal s t) (hc : u.sp.cur = t.sp.cur) (hd : u.dp.dev = t.dp.dev) (hf : u.fwr.fw.level = t.fwr.fw.level ∧
    u.fwr.fw.wdtExp = t.fwr.fw.wdtExp ∧ u.fwr.fw.mpuFault = t.fwr.fw.mpuFault) : Fatal s u := by
  obtain ⟨h1, h2, h3, h4, h5⟩ := h
  obtain ⟨hf1, hf2, hf3⟩ := hf
  exact ⟨hc.trans h1, hd.trans h2, hf1.trans h3, hf2.trans h4, hf3.trans h5⟩

theorem fatal_postEvent (h : Fatal s t) (code : Byte) (d0 : W32) (d1 : List Byte) : Fatal s (postEvent t code d0 d1) := by
  unfold postEvent
  split
  · unfold postRecord modRing
    split
    · exact fatal_beside h (by rw [setRing_sp]) (by rw [setRing_dp]) (by rw [setRing_fwr]; exact ⟨rfl, rfl, rfl⟩)
    · exact h
  · exact fatal_beside h rfl rfl ⟨rfl, rfl, rfl⟩

/-- Of the datapath only the count of free words drawn differs. -/
def DrawsOnly (s t : State) : Prop := ∃ n, t = { s with dp := { s.dp with free := n } }

theorem drawsOnly_freeBytes (h : DrawsOnly s t) (n : Nat) : DrawsOnly s (freeBytes t n).2 := by
  obtain ⟨m, rfl⟩ := h
  exact ⟨m + n, rfl⟩

theorem drawsOnly_savedRegs (s : State) : DrawsOnly s (savedRegs s).2 := by
  unfold savedRegs
  refine List.foldlRecOn (motive := fun (acc : List Byte × State) => DrawsOnly s acc.2) _ _ ⟨s.dp.free, rfl⟩ (fun acc h p _ => ?_)
  split
  · exact drawsOnly_freeBytes h 256
  · exact h

/-- A dump draws free words only. -/
theorem drawsOnly_dumpBytes (s : State) (cause procs : Nat) : DrawsOnly s (dumpBytes s cause procs).2 := by
  have hr := drawsOnly_savedRegs s
  unfold dumpBytes
  generalize savedRegs s = r at hr
  dsimp only
  split
  · exact hr
  · exact drawsOnly_freeBytes hr 64

theorem fatal_writeDump (h : Fatal s t) (cause procs : Nat) : Fatal s (writeDump t cause procs) := by
  unfold writeDump
  dsimp only
  split
  · obtain ⟨n, hn⟩ := drawsOnly_dumpBytes t cause procs
    refine fatal_postEvent (fatal_beside h ?_ ?_ ?_) _ _ _ <;> dsimp only <;> rw [hn]
    exact ⟨rfl, rfl, rfl⟩
  · exact fatal_beside h rfl rfl ⟨rfl, rfl, rfl⟩

/-- What a fatal fault leaves on a device that is not yet in FAULT. -/
theorem fatalFault_of (hl : s.fwr.fw.level ≠ 3) (cause procs : Nat) (xpFailed : Bool) :
    (fatalFault s cause procs xpFailed).fwr.fw.level = 3 ∧ (fatalFault s cause procs xpFailed).dp.dev = s.dp.dev ∧
      (fatalFault s cause procs xpFailed).fwr.fw.wdtExp = s.fwr.fw.wdtExp ∧
      (fatalFault s cause procs xpFailed).fwr.fw.mpuFault = s.fwr.fw.mpuFault ∧
      ∀ r, (fatalFault s cause procs xpFailed).sp.cur = some r → ∀ y ∈ r.sts, y.out = .skipped := by
  have hrep : (fatalReport s).dp.dev = s.dp.dev ∧ (fatalReport s).fwr.fw = s.fwr.fw := by
    unfold fatalReport
    dsimp only
    exact ⟨by rw [unrecovered_dp], recordReport_fw _⟩
  have hskip : (skipAll (fatalReport s)).dp.dev = s.dp.dev ∧ (skipAll (fatalReport s)).fwr.fw = s.fwr.fw := hrep
  have hcur := skipAll_cur (fatalReport s)
  generalize hv : skipAll (fatalReport s) = v at hskip hcur
  obtain ⟨hd, hf⟩ := hskip
  unfold fatalFault
  rw [if_neg hl, hv]
  dsimp only
  split
  · exact ⟨rfl, hd, (congrArg FwrFw.wdtExp hf :), (congrArg FwrFw.mpuFault hf :), hcur⟩
  · generalize hw : writeDump _ cause procs = w
    have hwf : Fatal { v with fwr := { v.fwr with fw := { v.fwr.fw with level := 3 } } } w := by
      rw [← hw]
      exact fatal_writeDump (by exact ⟨rfl, rfl, rfl, rfl, rfl⟩) cause procs
    obtain ⟨h1, h2, h3, h4, h5⟩ := fatal_postEvent hwf 4 (w.fwr.fw.level.zeroExtend 32) []
    refine ⟨h3, h2.trans hd, h4.trans ((congrArg FwrFw.wdtExp hf :)), h5.trans ((congrArg FwrFw.mpuFault hf :)), fun r hr => hcur r ?_⟩
    rw [← hr]
    exact h1.symm

/-- A failure of the XP, the PP or the SP is fatal. -/
theorem procFails_fatal {p : Proc} (hp : ∀ k, p ≠ .cp k) (hl : s.fwr.fw.level ≠ 3) (mpu : Bool) :
    (procFails s p mpu).fwr.fw.level = 3 ∧ (procFails s p mpu).dp.dev = s.dp.dev ∧ (procFails s p mpu).fwr.fw.wdtExp = s.fwr.fw.wdtExp ∧
      (procFails s p mpu).fwr.fw.mpuFault = s.fwr.fw.mpuFault ∧ (∀ r, (procFails s p mpu).sp.cur = some r → ∀ y ∈ r.sts, y.out = .skipped) ∧
      (p = .xp → (procFails s p mpu).sec.bootState = 6) := by
  obtain ⟨h1, h2, h3, h4, h5⟩ := fatalFault_of hl (if mpu then 2 else 1) (2 ^ sourceCode p) false
  obtain ⟨x1, x2, x3, x4, x5⟩ := fatalFault_of hl (if mpu then 2 else 1) 1 true
  cases p with
  | xp => exact ⟨x1, x2, x3, x4, x5, fun _ => rfl⟩
  | pp => exact ⟨h1, h2, h3, h4, h5, fun h => by cases h⟩
  | sp => exact ⟨h1, h2, h3, h4, h5, fun h => by cases h⟩
  | cp k => exact absurd rfl (hp k)

/-- The first failure of a CP in 1,000 ticks rolls its chain back. -/
theorem procFails_cp {k : BitVec 3} {ch : Nat} (hl : s.fwr.fw.level ≠ 3) (he : (vget s.cps k).lastExp = none) (hch : chainOf s k = some ch) (mpu : Bool) :
    Safety.chainFails s (procFails s (.cp k) mpu) ch k ∧ (vget (procFails s (.cp k) mpu).cps k).wdCount = 0 ∧
      (vget (procFails s (.cp k) mpu).cps k).lastExp = some s.tkc.seq ∧ (procFails s (.cp k) mpu).fwr.fw = s.fwr.fw ∧
      (vget (procFails s (.cp k) mpu).err.cls 7).cnt = satInc (vget s.err.cls 7).cnt := by
  have hnot : cpFailedBefore s k = false := by
    unfold cpFailedBefore
    rw [he]
  have hp : procFails s (.cp k) mpu =
      takeReport { s with cps := vset s.cps k { vget s.cps k with wdCount := 0, lastExp := some s.tkc.seq } } (cpReport k mpu) := by
    unfold procFails
    dsimp only
    rw [if_neg hl]
    unfold cpFails
    dsimp only
    rw [hnot, if_neg Bool.false_ne_true]
  have hcls : (cpReport k mpu).cls ≠ 1 := show (7 : BitVec 4) ≠ 1 by decide
  rw [hp]
  generalize hv : ({ s with cps := vset s.cps k { vget s.cps k with wdCount := 0, lastExp := some s.tkc.seq } } : State) = v
  have hchv : chainOf v k = some ch := by rw [← hv]; exact hch
  have hfail := chainFails_takeReport (r := cpReport k mpu) (c := k) hcls rfl rfl rfl rfl hchv
  obtain ⟨herr, hfw⟩ := takeReport_chain_err (r := cpReport k mpu) (c := k) hcls rfl rfl rfl hchv
  have hcps : (takeReport v (cpReport k mpu)).cps = v.cps := by simp
  refine ⟨?_, ?_, ?_, ?_, ?_⟩
  · rw [← hv] at hfail ⊢
    exact hfail
  · rw [hcps, ← hv, vget_vset_same]
  · rw [hcps, ← hv, vget_vset_same]
  · rw [hfw, recordReport_fw, ← hv]
  · rw [herr]
    refine (recordReport_cnt _ (show (7 : BitVec 4) ≠ 0 by decide)).trans ?_
    rw [← hv]
    rfl

/-! ### The obligation's processors -/

theorem countProc_frame (s : State) (p : Proc) (mpu : Bool) :
    { countProc s p mpu with fwr := { s.fwr with fw := s.fwr.fw } } = s := by
  unfold countProc
  cases mpu <;> rfl

theorem procFails_counted {p : Proc} (hp : ∀ k, p ≠ .cp k) (hl : s.fwr.fw.level ≠ 3) (mpu : Bool) :
    (procFails (countProc s p mpu) p mpu).fwr.fw.level = 3 ∧ (procFails (countProc s p mpu) p mpu).dp.dev = s.dp.dev ∧
      (procFails (countProc s p mpu) p mpu).fwr.fw.wdtExp = (if mpu then s.fwr.fw.wdtExp else satInc s.fwr.fw.wdtExp) ∧
      (procFails (countProc s p mpu) p mpu).fwr.fw.mpuFault = (if mpu then satInc s.fwr.fw.mpuFault else s.fwr.fw.mpuFault) ∧
      (∀ r, (procFails (countProc s p mpu) p mpu).sp.cur = some r → ∀ y ∈ r.sts, y.out = .skipped) ∧
      (p = .xp → (procFails (countProc s p mpu) p mpu).sec.bootState = 6) := by
  have hc : (countProc s p mpu).fwr.fw.level ≠ 3 := by
    unfold countProc
    cases mpu <;> exact hl
  obtain ⟨h1, h2, h3, h4, h5, h6⟩ := procFails_fatal (s := countProc s p mpu) hp hc mpu
  refine ⟨h1, h2, h3.trans ?_, h4.trans ?_, h5, h6⟩ <;> unfold countProc <;> cases mpu <;> rfl

section expiry
variable {p : Proc} (hr : procRuns s p = true) (hw : (getProc s p).wdPeriod ≠ 0)
  (hm : mayReach s ((watchdogLeft (getProc s p) + tuStep s - 1) / tuStep s) = true)
  (hu : s.pass ((watchdogLeft (getProc s p) + tuStep s - 1) / tuStep s) = u)
include hr hw hm hu

/-- A watchdog that runs out: its time passes, its count starts anew, and the processor fails. -/
theorem exec_watchdogExpiry :
    exec (.watchdogExpiry p) s = .next (procFails (countProc (setProc u p { getProc u p with wdCount := 0 }) p false) p false) := by
  have he : exec (.watchdogExpiry p) s = .next (watchdogExpires s p) := rfl
  have hclk := clockRuns_of_mayReach hm
  have hb : (!procRuns s p || (getProc s p).wdPeriod == 0) = false := by rw [hr, beq_false_of_ne hw]; rfl
  rw [he, watchdogExpires]
  dsimp only
  rw [hb, hclk, hm, hu, if_neg Bool.false_ne_true, if_neg (by simp), if_pos rfl]

theorem exec_watchdogExpiry_cp {k : BitVec 3} {ch : Nat} (hp : p = .cp k) (hl : u.fwr.fw.level ≠ 3) (he : (vget u.cps k).lastExp = none)
    (hch : chainOf u k = some ch) :
    ∃ t, exec (.watchdogExpiry p) s = .next t ∧ Safety.chainFails u t ch k ∧ (vget t.cps k).wdCount = 0 ∧ (vget t.cps k).lastExp = some u.tkc.seq ∧
      t.fwr.fw = { u.fwr.fw with wdtExp := satInc u.fwr.fw.wdtExp, wdtLast := BitVec.ofNat 4 (3 + k.toNat) } ∧
      (vget t.err.cls 7).cnt = satInc (vget u.err.cls 7).cnt := by
  rw [exec_watchdogExpiry hr hw hm hu]
  subst hp
  have hne : (vget (countProc (setProc u (.cp k) { getProc u (.cp k) with wdCount := 0 }) (.cp k) false).cps k).lastExp = none := by
    unfold countProc setProc
    dsimp only
    rw [vget_vset_same]
    exact he
  obtain ⟨h1, h2, h3, h4, h5⟩ := procFails_cp (s := countProc (setProc u (.cp k) { getProc u (.cp k) with wdCount := 0 }) (.cp k) false)
    hl hne hch false
  exact ⟨_, rfl, h1, h2, h3, h4, h5⟩

theorem exec_watchdogExpiry_fatal (hp : ∀ k, p ≠ .cp k) (hl : u.fwr.fw.level ≠ 3) :
    ∃ t, exec (.watchdogExpiry p) s = .next t ∧ t.fwr.fw.level = 3 ∧ t.fwr.fw.wdtExp = satInc u.fwr.fw.wdtExp ∧
      (∀ r, t.sp.cur = some r → ∀ y ∈ r.sts, y.out = .skipped) ∧ t.dp.dev = u.dp.dev ∧ (p = .xp → t.sec.bootState = 6) := by
  rw [exec_watchdogExpiry hr hw hm hu]
  have hset : (setProc u p { getProc u p with wdCount := 0 }).fwr = u.fwr ∧ (setProc u p { getProc u p with wdCount := 0 }).dp = u.dp := by
    cases p <;> exact ⟨rfl, rfl⟩
  obtain ⟨h1, h2, h3, -, h5, h6⟩ := procFails_counted (s := setProc u p { getProc u p with wdCount := 0 }) hp (by rw [hset.1]; exact hl) false
  exact ⟨_, rfl, h1, by rw [h3, hset.1]; rfl, h5, by rw [h2, hset.2], h6⟩

end expiry

theorem exec_mpuFault {p : Proc} (hr : procRuns s p = true) : exec (.mpuFault p) s = .next (procFails (countProc s p true) p true) := by
  have he : exec (.mpuFault p) s = .next (if procRuns s p then procFails (countProc s p true) p true else s) := rfl
  rw [he, if_pos hr]

theorem exec_mpuFault_cp (s : State) (k : BitVec 3) (ch : Nat) (hr : procRuns s (.cp k) = true) (hl : s.fwr.fw.level ≠ 3)
    (he : (vget s.cps k).lastExp = none) (hch : chainOf s k = some ch) :
    ∃ t, exec (.mpuFault (.cp k)) s = .next t ∧ Safety.chainFails s t ch k ∧
      t.fwr.fw = { s.fwr.fw with mpuFault := satInc s.fwr.fw.mpuFault, mpuLast := BitVec.ofNat 4 (3 + k.toNat) } ∧
      (vget t.err.cls 7).cnt = satInc (vget s.err.cls 7).cnt := by
  obtain ⟨h1, -, -, h4, h5⟩ := procFails_cp (s := countProc s (.cp k) true) hl he hch true
  exact ⟨_, exec_mpuFault hr, h1, h4, h5⟩

theorem exec_mpuFault_fatal (s : State) (p : Proc) (hp : ∀ k, p ≠ .cp k) (hr : procRuns s p = true) (hl : s.fwr.fw.level ≠ 3) :
    ∃ t, exec (.mpuFault p) s = .next t ∧ t.fwr.fw.level = 3 ∧ t.fwr.fw.mpuFault = satInc s.fwr.fw.mpuFault ∧
      (∀ r, t.sp.cur = some r → ∀ y ∈ r.sts, y.out = .skipped) ∧ t.dp.dev = s.dp.dev ∧ (p = .xp → t.sec.bootState = 6) := by
  obtain ⟨h1, h2, -, h4, h5, h6⟩ := procFails_counted (s := s) hp hl true
  exact ⟨_, exec_mpuFault hr, h1, h4, h5, h2, h6⟩

theorem exec_watchdogKick (s : State) (p : Proc) (hr : procRuns s p = true) :
    ∃ t, exec (.watchdogKick p) s = .next t ∧ getProc t p = { getProc s p with wdCount := 0 } ∧ (∀ r, r ≠ p → getProc t r = getProc s r) ∧
      { t with xp := s.xp, pp := s.pp, spp := s.spp, cps := s.cps } = s := by
  have he : exec (.watchdogKick p) s = .next (if procRuns s p then setProc s p { getProc s p with wdCount := 0 } else s) := rfl
  rw [he, if_pos hr]
  exact ⟨_, rfl, getProc_setProc_same _ _ _, fun r hne => getProc_setProc_ne _ _ hne, setProc_frame _ _ _⟩

/-! ### Log entries and trace packets -/

theorem logBytes_length (s : State) (level : BitVec 3) (source : BitVec 4) (code : W32) (args : List W32) :
    (logBytes s level source code args).length = 64 := by simp [logBytes, bytesOf]

theorem logBytes_fields (s : State) (level : BitVec 3) (source : BitVec 4) (code : W32) (args : List W32) :
    fieldAt (logBytes s level source code args) 1 1 = level.toNat ∧ fieldAt (logBytes s level source code args) 2 1 = source.toNat ∧
      fieldAt (logBytes s level source code args) 4 4 = code.toNat ∧ fieldAt (logBytes s level source code args) 8 8 = s.tkc.seq.toNat := by
  have hl : (BitVec.zeroExtend 8 level : Byte).toNat = level.toNat := by simp; omega
  have hs : (BitVec.zeroExtend 8 source : Byte).toNat = source.toNat := by simp; omega
  refine ⟨hl, hs, ?_, ?_⟩
  · exact fieldAt_append (pre := [0, level.zeroExtend 8, source.zeroExtend 8, 0]) (by simp only [logBytes, List.append_assoc]; rfl) rfl code.isLt
  · exact fieldAt_append (pre := [0, level.zeroExtend 8, source.zeroExtend 8, 0] ++ bytesOf 4 code.toNat)
      (by simp only [logBytes, List.append_assoc]; rfl) (by simp [bytesOf]) s.tkc.seq.isLt

theorem exec_logEntry {level : BitVec 3} {source : BitVec 4} {code : W32} {args : List W32} {p : Proc} (hp : procOfSource source.toNat = some p)
    (hr : procRuns s p = true) (hs : s.spp.released = true) (hl : level.toNat ≤ 4) : exec (.logEntry level source code args) s =
      .next (if level.toNat ≤ s.fwr.fw.logLevel.toNat then holdLog s (logBytes s level source code args) else s) := by
  have he : exec (.logEntry level source code args) s = .next (logEntry s level source code args) := rfl
  rw [he, logEntry, hp]
  dsimp only
  rw [hr, hs, decide_eq_true hl]
  simp only [Bool.and_self, Bool.true_and, decide_eq_true_eq]

/-- An entry that there is room for is held. -/
theorem holdLog_room {b : List Byte} (h : s.fwr.fw.logs.length < 64) : ∃ recent, holdLog s b =
    { s with dp := { s.dp with free := s.dp.free + 2 }, fwr := { s.fwr with fw := { s.fwr.fw with logs := s.fwr.fw.logs ++ [⟨b⟩], recent := recent } } } :=
  ⟨_, if_pos h⟩

theorem drainTrace_off (h : s.fwr.fw.drainEn = false) : drainTrace s = s := by
  unfold drainTrace
  rw [h]
  rfl

theorem addPacket_room {p : TracePkt} (h : (tracePart s.fwr.fw p.debug).length < traceCap s.fwr.fw) :
    addPacket s p = { s with fwr := { s.fwr with fw := { s.fwr.fw with trace := s.fwr.fw.trace ++ [p] } } } := by
  unfold addPacket
  exact if_pos h

theorem addPacket_full {p : TracePkt} (h : traceCap s.fwr.fw ≤ (tracePart s.fwr.fw p.debug).length) (hw : s.fwr.fw.trcWrap = false) (hd : p.debug = false) :
    addPacket s p = { s with fwr := { s.fwr with fw := { s.fwr.fw with trcDrop := s.fwr.fw.trcDrop + 1 } } } := by
  unfold addPacket
  dsimp only
  rw [if_neg (Nat.not_lt.2 h), hw, hd]
  rfl

/-- A trace point of an enabled class adds its packet. -/
theorem exec_tracePacket {source : BitVec 4} {point : BitVec 12} {cls : BitVec 4} {a0 a1 : W32} {debug : Bool} (hd : s.fwr.fw.drainEn = false)
    (hen : if debug then s.dbg.trace = true else s.fwr.fw.trcEn = true ∧ s.fwr.fw.trcMask.getLsbD cls.toNat = true) :
    exec (.tracePacket source point cls a0 a1 debug) s = .next (if debug then addPacket s ⟨debug, packetWords s source point a0 a1⟩ else
      drainTrace (addPacket s ⟨debug, packetWords s source point a0 a1⟩)) := by
  have he : exec (.tracePacket source point cls a0 a1 debug) s = .next (tracePoint s source point cls a0 a1 debug) := rfl
  rw [he, tracePoint]
  cases debug
  · rw [if_neg Bool.false_ne_true] at hen
    rw [if_neg Bool.false_ne_true, hen.1, hen.2, drainTrace_off hd]
    rfl
  · rw [if_pos rfl] at hen
    rw [if_pos rfl, if_pos hen]
    rfl

/-! ### FWR writes -/

theorem and_word_of_aligned {ofs : W16} (h : ofs &&& 3 = 0) : ofs &&& 0xFFFC = ofs := by
  have hs : ofs = (ofs &&& 3) ||| (ofs &&& 0xFFFC) := by
    rw [← BitVec.and_or_distrib_left, show (3 : W16) ||| 0xFFFC = BitVec.allOnes 16 by decide, BitVec.and_allOnes]
  rw [h] at hs
  exact (hs.trans BitVec.zero_or).symm

/-- A report of no class but TIMEOUT touches the error block only. -/
theorem recordReport_err_only {r : Report} (h : r.cls ≠ 6) : { recordReport s r with err := s.err } = s := by
  have hf : (recordReport s r).fwr = s.fwr := by
    unfold recordReport
    simp only [if_neg h]
    split
    · rfl
    · split
      · rfl
      · split <;> rfl
  obtain ⟨e, f, he⟩ := recordReport_eq s r
  have hs : { recordReport s r with err := s.err } = { s with fwr := (recordReport s r).fwr } := by rw [he]
  rw [hs, hf]

theorem exec_fwrWrite {ofs : W16} {value : W32} {strb : BitVec 4} (ha : ofs &&& 3 = 0) (hc : ofs ≠ 0x8000) (hd : fwrDefined ofs.toNat = true) :
    exec (.fwrWrite ofs value strb) s = .next (if s.fwr.queue.length < 16 then { s with fwr := { s.fwr with
      queue := s.fwr.queue ++ [⟨ofs, mergeBytes (fwrShadow s ofs.toNat) value strb, 4000, !s.fwr.fell⟩], pending := true } }
      else recordReport { s with fwr := { s.fwr with ovr := true } } (firmwareReport ofs 2)) := by
  have he : exec (.fwrWrite ofs value strb) s = .next (fwrAccept s (ofs &&& 0xFFFC) value strb) := rfl
  rw [he, and_word_of_aligned ha, fwrAccept, if_neg hc, hd, if_neg (by simp), takeReport_plain _ _ (show (12 : BitVec 4) ≠ 1 by decide) rfl rfl]

/-- The plain offsets of FWR, whose words read as they were written. -/
def plainWords : List Nat := [0x8240, 0x8244, 0x8248, 0x8250, 0x8254, 0x8258, 0x825C, 0x8410, 0x8E00]

/-- A field from bit 0 on, written under its mask, holds what was written. -/
theorem fieldBits_laid {n : Nat} (x : BitVec n) {val m : W32} (hm : ∀ i < 32, m.getLsbD i = decide (i < n)) :
    fieldBits 0 (((fieldBits 0 x &&& ~~~m) ||| (val &&& m)).extractLsb' 0 n) = (fieldBits 0 x &&& ~~~m) ||| (val &&& m) := by
  apply BitVec.eq_of_getLsbD_eq
  intro i hi
  have h := hm i hi
  rw [getLsbD_fieldBits, BitVec.getLsbD_extractLsb', BitVec.getLsbD_or, BitVec.getLsbD_and, BitVec.getLsbD_and, BitVec.getLsbD_not, Nat.sub_zero,
    Nat.zero_add, BitVec.getLsbD_or, BitVec.getLsbD_and, BitVec.getLsbD_and, BitVec.getLsbD_not, getLsbD_fieldBits, h]
  by_cases hn : i < n
  · simp [hn, hi]
  · simp [hn, hi, BitVec.getLsbD_of_ge x i (Nat.not_lt.1 hn)]

/-- One bit is a field of width 1. -/
theorem bitAt_zero (b : Bool) : bitAt 0 b = fieldBits 0 (BitVec.ofBool b) := by cases b <;> rfl

/-- A bit of the word is its field of width 1. -/
theorem ofBool_getLsbD_zero (v : W32) : BitVec.ofBool (v.getLsbD 0) = v.extractLsb' 0 1 := by
  apply BitVec.eq_of_getLsbD_eq
  intro i hi
  obtain rfl : i = 0 := by omega
  rw [BitVec.getLsbD_extractLsb', Nat.zero_add]
  cases v.getLsbD 0 <;> rfl

/-- Two fields side by side are one. -/
theorem fieldBits_pair (a : BitVec 4) (b : BitVec 8) : fieldBits 0 b ||| fieldBits 8 a = fieldBits 0 (a ++ b) := by
  apply BitVec.eq_of_getLsbD_eq
  intro i hi
  rw [BitVec.getLsbD_or, getLsbD_fieldBits, getLsbD_fieldBits, getLsbD_fieldBits, (BitVec.getLsbD_append (x := a) (y := b))]
  by_cases h8 : i < 8
  · simp [h8, hi]
  · simp [h8, hi, BitVec.getLsbD_of_ge b i (Nat.not_lt.1 h8), Nat.not_lt.1 h8]

theorem extractLsb'_pair (v : W32) : v.extractLsb' 8 4 ++ v.extractLsb' 0 8 = v.extractLsb' 0 12 := by
  apply BitVec.eq_of_getLsbD_eq
  intro i hi
  refine (BitVec.getLsbD_append (x := v.extractLsb' 8 4) (y := v.extractLsb' 0 8)).trans ?_
  rw [BitVec.getLsbD_extractLsb', BitVec.getLsbD_extractLsb', BitVec.getLsbD_extractLsb']
  by_cases h8 : i < 8
  · simp [h8, hi]
  · have : i - 8 < 4 := by omega
    simp [h8, hi, this, show 8 + (i - 8) = i by omega]

/-- A word that is kept whole. -/
theorem laid_whole (x val : W32) : (x &&& ~~~(0xFFFFFFFF : W32)) ||| (val &&& 0xFFFFFFFF) = val := by
  rw [show (0xFFFFFFFF : W32) = BitVec.allOnes 32 by decide, BitVec.not_allOnes, BitVec.and_allOnes]
  simp

/-- An applied write to a plain word leaves everything but FWR, and what waits in it. -/
theorem fwrApply_frame {w : FwrWrite} (hw : w.ofs.toNat ∈ plainWords) : { fwrApply s w with fwr := s.fwr } = s ∧
    (fwrApply s w).fwr.queue = s.fwr.queue ∧ (fwrApply s w).fwr.pending = s.fwr.pending := by
  unfold fwrApply
  generalize hv : w.laid _ = v
  generalize w.ofs.toNat = o at hw
  simp only [plainWords, List.mem_cons, List.not_mem_nil, or_false] at hw
  rcases hw with rfl | rfl | rfl | rfl | rfl | rfl | rfl | rfl | rfl <;> exact ⟨rfl, rfl, rfl⟩

/-- A bit, written under its mask, holds what was written. -/
theorem bitAt_laid (b : Bool) (val : W32) :
    bitAt 0 (((bitAt 0 b &&& ~~~(1 : W32)) ||| (val &&& 1)).getLsbD 0) = (bitAt 0 b &&& ~~~(1 : W32)) ||| (val &&& 1) := by
  rw [bitAt_zero, bitAt_zero, ofBool_getLsbD_zero]
  exact fieldBits_laid _ (by decide)

/-- Two fields side by side, written under their mask, hold what was written. -/
theorem fieldBits_pair_laid (a : BitVec 4) (b : BitVec 8) (val : W32) :
    fieldBits 0 ((((fieldBits 0 b ||| fieldBits 8 a) &&& ~~~(0xFFF : W32)) ||| (val &&& 0xFFF)).extractLsb' 0 8) |||
      fieldBits 8 ((((fieldBits 0 b ||| fieldBits 8 a) &&& ~~~(0xFFF : W32)) ||| (val &&& 0xFFF)).extractLsb' 8 4) =
        ((fieldBits 0 b ||| fieldBits 8 a) &&& ~~~(0xFFF : W32)) ||| (val &&& 0xFFF) := by
  rw [fieldBits_pair, fieldBits_pair, extractLsb'_pair]
  exact fieldBits_laid _ (by decide)

theorem addr_low (a : BitVec 8) (v : W32) : (a ++ v).setWidth 32 = v := by
  rw [BitVec.setWidth_append]
  rfl

theorem addr_high (a : BitVec 8) (b : W32) : (a ++ b).extractLsb' 32 8 = a := BitVec.extractLsb'_append_eq_left

/-- The address's high byte, written under its mask, holds what was written. -/
theorem addr_high_laid (x : BitVec 8) (b val : W32) :
    fieldBits 0 ((((fieldBits 0 x &&& ~~~(0xFF : W32)) ||| (val &&& 0xFF)).extractLsb' 0 8 ++ b).extractLsb' 32 8) =
      (fieldBits 0 x &&& ~~~(0xFF : W32)) ||| (val &&& 0xFF) := by
  rw [addr_high]
  exact fieldBits_laid _ (by decide)

/-- What a plain word reads after a write to it. -/
theorem fwrForce_fwrApply_same {w : FwrWrite} (hw : w.ofs.toNat ∈ plainWords) :
    fwrForce (fwrApply s w) w.ofs.toNat = w.laid (fwrForce s w.ofs.toNat) := by
  unfold fwrApply FwrWrite.laid
  generalize w.ofs.toNat = o at hw
  simp only [plainWords, List.mem_cons, List.not_mem_nil, or_false] at hw
  rcases hw with rfl | rfl | rfl | rfl | rfl | rfl | rfl | rfl | rfl
  · rfl
  · exact fieldBits_pair_laid _ _ _
  · exact fieldBits_laid _ (by decide)
  · exact addr_low _ _
  · exact addr_high_laid _ _ _
  · rfl
  · exact bitAt_laid _ _
  · exact fieldBits_laid _ (by decide)
  · exact bitAt_laid _ _

/-- The other plain words read as before. -/
theorem fwrForce_fwrApply_ne {w : FwrWrite} (hw : w.ofs.toNat ∈ plainWords) {o : Nat} (ho : o ∈ plainWords) (hne : o ≠ w.ofs.toNat) :
    fwrForce (fwrApply s w) o = fwrForce s o := by
  unfold fwrApply
  generalize w.laid _ = v
  generalize w.ofs.toNat = m at hw hne
  simp only [plainWords, List.mem_cons, List.not_mem_nil, or_false] at hw ho
  have low (a : BitVec 8) (b : BitVec 40) : (a ++ b.extractLsb' 0 32).setWidth 32 = b.setWidth 32 := by
    rw [addr_low]
    rfl
  rcases hw with rfl | rfl | rfl | rfl | rfl | rfl | rfl | rfl | rfl <;>
    rcases ho with rfl | rfl | rfl | rfl | rfl | rfl | rfl | rfl | rfl
  case inr.inr.inr.inl.inr.inr.inr.inr.inl => exact congrArg (fieldBits 0) (addr_high _ _)
  case inr.inr.inr.inr.inl.inr.inr.inr.inl => exact low _ _
  any_goals exact absurd rfl hne
  all_goals rfl

/-! ### The rest of the obligation -/

/-- One write applied to a plain word. -/
theorem exec_fwrWriteApply {w : FwrWrite} {ws : List FwrWrite} (hs : spServes s = true) (hr : s.spp.released = true) (hq : s.fwr.queue = w :: ws)
    (hw : w.ofs.toNat ∈ plainWords) : ∃ t, exec .fwrWriteApply s = .next t ∧ { t with fwr := s.fwr } = s ∧ t.fwr.queue = ws ∧ t.fwr.pending = !ws.isEmpty ∧
      (∀ o ∈ plainWords, fwrForce t o = if o = w.ofs.toNat then (fwrForce s o &&& ~~~(fwrMask o)) ||| (w.value &&& fwrMask o) else fwrForce s o) := by
  have he : exec .fwrWriteApply s = .next (applyHead s) := rfl
  rw [he, applyHead, hs, hr, if_neg (by simp), hq]
  generalize hv : ({ s with fwr := { s.fwr with queue := ws, pending := !ws.isEmpty, fell := s.fwr.fell || ws.isEmpty } } : State) = v
  have hforce : ∀ o, fwrForce v o = fwrForce s o := by
    intro o
    rw [← hv]
    rfl
  obtain ⟨h1, h2, h3⟩ := fwrApply_frame (s := v) hw
  refine ⟨fwrApply v w, by rw [← hv], ?_, ?_, ?_, fun o ho => ?_⟩
  · have h := congrArg (fun x : State => { x with fwr := s.fwr }) h1
    exact h.trans (by rw [← hv])
  · rw [h2, ← hv]
  · rw [h3, ← hv]
  · by_cases ho' : o = w.ofs.toNat
    · rw [if_pos ho', ho', fwrForce_fwrApply_same hw, hforce]
      rfl
    · rw [if_neg ho', fwrForce_fwrApply_ne hw ho ho', hforce]

/-- The first write still in time counts as late. -/
theorem markLate_what (l : List FwrWrite) :
    (markLate l).map (fun x => (x.ofs, x.value)) = l.map (fun x => (x.ofs, x.value)) ∧
      ((∃ w ∈ l, w.late = false) → ((markLate l).filter (fun x => !x.late)).length + 1 = (l.filter (fun x => !x.late)).length) := by
  induction l with
  | nil => exact ⟨rfl, fun ⟨w, hw, _⟩ => absurd hw List.not_mem_nil⟩
  | cons w l ih =>
    obtain ⟨ih1, ih2⟩ := ih
    unfold markLate
    cases hl : w.late
    · rw [if_neg Bool.false_ne_true]
      exact ⟨rfl, fun _ => by simp [hl]⟩
    · rw [if_pos rfl, List.map_cons, ih1, List.map_cons]
      refine ⟨rfl, fun ⟨x, hx, hxl⟩ => ?_⟩
      rcases List.mem_cons.1 hx with rfl | hx
      · rw [hl] at hxl
        exact absurd hxl (by decide)
      · rw [List.filter_cons_of_neg (by simp [hl]), List.filter_cons_of_neg (by simp [hl])]
        exact ih2 ⟨x, hx, hxl⟩

/-- A write still queued at its limit is counted late and stays. -/
theorem exec_fwrLate {w : FwrWrite} (hf : s.fwr.queue.find? (fun x => !x.late) = some w) (hm : mayReach s ((w.left + tuStep s - 1) / tuStep s) = true)
    (hu : s.pass ((w.left + tuStep s - 1) / tuStep s) = u) :
    ∃ t, exec .fwrLate s = .next t ∧ t.fwr.late = true ∧ t.fwr.lateCnt = u.fwr.lateCnt + 1 ∧
      t.fwr.queue.map (fun x => (x.ofs, x.value)) = s.fwr.queue.map (fun x => (x.ofs, x.value)) ∧
      (t.fwr.queue.filter (fun x => !x.late)).length + 1 = (s.fwr.queue.filter (fun x => !x.late)).length ∧
      (vget t.err.cls 12).cnt = satInc (vget u.err.cls 12).cnt ∧ t.dp.dev = u.dp.dev := by
  have he : exec .fwrLate s = .next (fwrLate s) := rfl
  have hclk := clockRuns_of_mayReach hm
  have hwhat : u.fwr.queue.map FwrWrite.what = s.fwr.queue.map FwrWrite.what := by rw [← hu]; exact pass_what s _
  have hsel : u.fwr.queue.map (fun x => (x.ofs, x.value)) = s.fwr.queue.map (fun x => (x.ofs, x.value)) := by
    have h := congrArg (List.map (fun y : W16 × W32 × Bool => (y.1, y.2.1))) hwhat
    rwa [List.map_map, List.map_map] at h
  have hlate : u.fwr.queue.map FwrWrite.late = s.fwr.queue.map FwrWrite.late := by
    have h := congrArg (List.map (fun y : W16 × W32 × Bool => y.2.2)) hwhat
    rwa [List.map_map, List.map_map] at h
  have hcount : (u.fwr.queue.filter (fun x => !x.late)).length = (s.fwr.queue.filter (fun x => !x.late)).length := by
    have h : ∀ l : List FwrWrite, (l.filter (fun x => !x.late)).length = ((l.map FwrWrite.late).filter (fun b => !b)).length := by
      intro l
      rw [List.filter_map, List.length_map]
      rfl
    rw [h, h, hlate]
  have hex : ∃ x ∈ u.fwr.queue, x.late = false := by
    have hw : false ∈ s.fwr.queue.map FwrWrite.late :=
      List.mem_map.2 ⟨w, List.mem_of_find?_eq_some hf, by simpa using List.find?_some hf⟩
    rw [← hlate] at hw
    exact List.mem_map.1 hw
  obtain ⟨hl1, hl2⟩ := markLate_what u.fwr.queue
  rw [he, fwrLate, hf]
  dsimp only
  rw [hclk, hm, hu, if_neg (by simp), if_neg (by simp), if_pos rfl, takeReport_plain _ _ (show (12 : BitVec 4) ≠ 1 by decide) rfl rfl]
  have hr := recordReport_err_only (s := { u with fwr := { u.fwr with queue := markLate u.fwr.queue, late := true, lateCnt := u.fwr.lateCnt + 1 } })
    (r := firmwareReport w.ofs 1) (show (12 : BitVec 4) ≠ 6 by decide)
  have hfwr := congrArg State.fwr hr
  refine ⟨_, rfl, (congrArg Fwr.late hfwr :), (congrArg Fwr.lateCnt hfwr :), ?_, ?_, ?_, (congrArg (fun x : State => x.dp.dev) hr :)⟩
  · exact (congrArg (fun f : Fwr => f.queue.map (fun x => (x.ofs, x.value))) hfwr).trans (hl1.trans hsel)
  · rw [show _ = markLate u.fwr.queue from congrArg Fwr.queue hfwr, hl2 hex, hcount]
  · exact recordReport_cnt _ (show (12 : BitVec 4) ≠ 0 by decide)

/-- Settles O52: each event goes to one field, and a fault of a CP to its chain. -/
theorem firmwareEvents : Obligations.FirmwareEvents := by
  refine ⟨fun s k ch hr hw => ?_, fun s p hp hr hw => ?_, exec_mpuFault_cp, exec_mpuFault_fatal, exec_watchdogKick,
    fun s level source code args p hp hr hs hl => ⟨fun hle hroom => ?_, fun hgt => ?_⟩, fun s source point cls a0 a1 debug hd hen => ⟨fun hroom => ?_, fun hfull hwr hdb => ?_⟩,
    fun s ofs value strb ha hc hdef => ⟨fun hroom => ?_, fun hfull => ?_⟩, fun s w ws hs hr hq hw => exec_fwrWriteApply hs hr hq hw,
    fun s w _ hf hm => exec_fwrLate hf hm rfl⟩
  · exact fun hm hl he hch => exec_watchdogExpiry_cp (p := .cp k) hr hw hm rfl rfl hl he hch
  · exact fun hm hl => exec_watchdogExpiry_fatal hr hw hm rfl hp hl
  · rw [exec_logEntry hp hr hs hl, if_pos hle]
    obtain ⟨recent, hh⟩ := holdLog_room (b := logBytes s level source code args) hroom
    obtain ⟨h1, h2, h3, h4⟩ := logBytes_fields s level source code args
    rw [hh]
    exact ⟨_, _, rfl, rfl, logBytes_length s level source code args, h1, h2, h3, h4, rfl, rfl⟩
  · rw [exec_logEntry hp hr hs hl, if_neg (Nat.not_le.2 hgt)]
  · have hadd := addPacket_room (s := s) (p := ⟨debug, packetWords s source point a0 a1⟩) hroom
    rw [exec_tracePacket hd hen, hadd]
    split
    · rfl
    · exact congrArg _ (drainTrace_off hd)
  · have hadd := addPacket_full (s := s) (p := ⟨debug, packetWords s source point a0 a1⟩) hfull hwr hdb
    rw [exec_tracePacket hd hen, hadd, if_neg (by rw [hdb]; exact Bool.false_ne_true)]
    exact congrArg _ (drainTrace_off hd)
  · rw [exec_fwrWrite ha hc hdef, if_pos hroom]
  · rw [exec_fwrWrite ha hc hdef, if_neg (Nat.not_lt.2 hfull)]
    refine ⟨_, rfl, recordReport_err_only (s := { s with fwr := { s.fwr with ovr := true } }) (show (12 : BitVec 4) ≠ 6 by decide), ?_⟩
    exact recordReport_cnt _ (show (12 : BitVec 4) ≠ 0 by decide)

end Sys2Proof.Machine
end

section
/-!
FAULTS AND RECOVERY. Gates held to their limit, chains without progress, and chain restarts (R163, R208, R238, R239, R243, R343, R347, R348).
-/
namespace Sys2Proof.Machine
-- one proof after the other: the check compiles one text, and its memory holds few threads
set_option Elab.async false
open Sys2Proof.Safety

variable {s t u : State}

/-! ### Reports that stop chains, one after another -/

/-- A report whose fault rolls back and restarts the chain of a core. -/
def StopsChain (r : Report) (c : BitVec 3) : Prop :=
  r.cls ≠ 0 ∧ r.cls ≠ 1 ∧ r.core = some c ∧ r.tick = none ∧ r.rollback = true ∧ r.restart = true

theorem stopsChain_coreReport {c : BitVec 3} {q : Queue} {cls : BitVec 4} {status : BitVec 7} {i0 i1 : Nat} (h0 : cls ≠ 0) (h1 : cls ≠ 1) :
    StopsChain (coreReport c q cls status i0 i1) c := ⟨h0, h1, rfl, rfl, rfl, rfl⟩

/-- Without a chain of its core such a report is only recorded. -/
theorem takeReport_noChain {r : Report} {c : BitVec 3} (hr : StopsChain r c) (hch : chainOf s c = none) : takeReport s r = recordReport s r := by
  obtain ⟨-, hcls, hcore, -, -, -⟩ := hr
  have hf : faultChain (recordReport s r) r = none := by
    unfold faultChain
    rw [if_neg (fun h => hcls h.1), hcore]
    dsimp only
    unfold chainOf taskChains taskPkg at hch ⊢
    rw [recordReport_sp]
    exact hch
  unfold takeReport
  extract_lets a row seq hold
  have hh : hold = [] := if_neg (fun h => hcls h.1)
  rw [hh, if_neg (by simp), if_neg (fun h => hcls h.1)]
  simp only [a, hf]

/-- A core whose chain is to restart, and that issues nothing. -/
def Stopped (s : State) (k : BitVec 3) : Prop := (coreOf s k).restart = true ∧ (coreOf s k).hold = none

/-- What a report that stops a chain leaves and what it counts. -/
structure FaultStep (s t : State) (r : Report) (c : BitVec 3) : Prop where
  dev : t.dp.dev = s.dp.dev
  task : t.sp.task = s.sp.task
  cnt : (vget t.err.cls r.cls).cnt = satInc (vget s.err.cls r.cls).cnt
  toCnt : t.fwr.toCnt = if r.cls = 6 then satInc s.fwr.toCnt else s.fwr.toCnt
  keeps : ∀ k, Stopped s k → Stopped t k
  stops : ∀ ch, chainOf s c = some ch → ∀ k ∈ chainCores s ch, Stopped t k

theorem recordReport_toCnt (s : State) (r : Report) (h : r.cls ≠ 0) :
    (recordReport s r).fwr.toCnt = if r.cls = 6 then satInc s.fwr.toCnt else s.fwr.toCnt := by
  unfold recordReport
  rw [if_neg (fun x => h x.1)]
  by_cases h6 : r.cls = 6
  · simp only [h6, if_true]
    split
    · rfl
    · split <;> rfl
  · simp only [if_neg h6]
    split
    · rfl
    · split <;> rfl

theorem callRestart_task (ch : Nat) (q : W64) (b : Bool) : (callRestart s ch q b).sp.task = s.sp.task := by
  unfold callRestart dropEarly
  dsimp only
  split
  · split <;> rfl
  · rfl

theorem faultStep_takeReport {r : Report} {c : BitVec 3} (hr : StopsChain r c) : FaultStep s (takeReport s r) r c := by
  obtain ⟨h0, h1, hcore, htick, hrb, hrs⟩ := id hr
  have hcnt := recordReport_cnt (s := s) r h0
  have hto := recordReport_toCnt s r h0
  cases hch : chainOf s c with
  | none =>
    rw [takeReport_noChain hr hch]
    refine ⟨by rw [recordReport_dp], by rw [recordReport_sp], hcnt, hto, fun k hk => ?_, fun ch h => ?_⟩
    · unfold Stopped coreOf at hk ⊢
      rw [recordReport_dp]
      exact hk
    · rw [hch] at h
      cases h
  | some ch =>
    obtain ⟨hstop, hother, -, -, hdev, -⟩ := chainFails_takeReport h1 hcore htick hrb hrs hch
    obtain ⟨herr, -⟩ := takeReport_chain_err (s := s) h1 hcore hrb hrs hch
    refine ⟨hdev, ?_, by rw [herr]; exact hcnt, ?_, fun k hk => ?_, fun ch' h => ?_⟩
    · rw [takeReport_chain h1 hcore hrb hrs hch, callRestart_task, (rollChain_restarts r ch).2, recordReport_sp]
    · rw [takeReport_chain h1 hcore hrb hrs hch]
      refine (congrArg Fwr.toCnt (callRestart_fwr _ _ _) :).trans ?_
      rw [rollChain_fwr]
      exact hto
    · by_cases hm : k ∈ chainCores s ch
      · obtain ⟨hre, hho, -⟩ := hstop k hm
        exact ⟨hre, hho⟩
      · unfold Stopped
        rw [hother k hm]
        exact hk
    · rw [hch] at h
      obtain rfl := Option.some.inj h
      intro k hk
      obtain ⟨hre, hho, -⟩ := hstop k hk
      exact ⟨hre, hho⟩

theorem chainOf_of_task (h : t.sp.task = s.sp.task) : (∀ c, chainOf t c = chainOf s c) ∧ ∀ ch, chainCores t ch = chainCores s ch := by
  have hc : taskChains t = taskChains s := by
    unfold taskChains taskPkg
    rw [h]
  exact ⟨fun c => by unfold chainOf; rw [hc], fun ch => by unfold chainCores; rw [hc]⟩

/-- A list of reports of TIMEOUT, each of a core. -/
theorem takeReports_timeouts (l : List Report) (hl : ∀ r ∈ l, r.cls = 6 ∧ ∃ c, StopsChain r c) (s : State) :
    (takeReports s l).dp.dev = s.dp.dev ∧ (takeReports s l).sp.task = s.sp.task ∧
      (vget (takeReports s l).err.cls 6).cnt = satInc^[l.length] (vget s.err.cls 6).cnt ∧
      (takeReports s l).fwr.toCnt = satInc^[l.length] s.fwr.toCnt ∧ (∀ k, Stopped s k → Stopped (takeReports s l) k) ∧
      (∀ r ∈ l, ∀ c, r.core = some c → ∀ ch, chainOf s c = some ch → ∀ k ∈ chainCores s ch, Stopped (takeReports s l) k) := by
  induction l generalizing s with
  | nil => exact ⟨rfl, rfl, rfl, rfl, fun _ h => h, fun r hr => absurd hr List.not_mem_nil⟩
  | cons r l ih =>
    obtain ⟨h6, c, hr⟩ := hl r (by simp)
    obtain ⟨hdev, htask, hcnt, hto, hkeep, hstop⟩ := faultStep_takeReport (s := s) hr
    obtain ⟨i1, i2, i3, i4, i5, i6⟩ := ih (fun r hr => hl r (by simp [hr])) (takeReport s r)
    obtain ⟨hchain, hcores⟩ := chainOf_of_task htask
    rw [h6] at hcnt
    rw [if_pos h6] at hto
    refine ⟨i1.trans hdev, i2.trans htask, ?_, ?_, fun k hk => i5 k (hkeep k hk), fun x hx c' hc' ch hch k hk => ?_⟩
    · rw [List.length_cons, Function.iterate_succ_apply, ← hcnt]
      exact i3
    · rw [List.length_cons, Function.iterate_succ_apply, ← hto]
      exact i4
    · rcases List.mem_cons.1 hx with rfl | hx
      · obtain ⟨-, -, hcore, -⟩ := hr
        obtain rfl := Option.some.inj (hcore.symm.trans hc')
        exact i5 k (hstop ch hch k hk)
      · exact i6 x hx c' hc' ch (by rw [hchain]; exact hch) k (by rw [hcores]; exact hk)

/-! ### Waits that time out -/

/-- What the end of a hold says of the state it ends in. -/
theorem holdEnds_some {c : BitVec 3} {q : Queue} {g : BitVec 3} {i : Instr} (h : holdEnds s c q g = some (u, i)) : heldHead u c q = some (g, i) := by
  unfold holdEnds at h
  split at h
  · dsimp only at h
    split at h
    · cases h
    · split at h
      · cases h
      · split at h
        · next g' i' hh =>
          split at h
          · next hg =>
            cases h
            rw [hh, beq_iff_eq.1 hg]
          · cases h
        · cases h
  · cases h

theorem mem_allCores (c : BitVec 3) : c ∈ allCores := by
  revert c
  decide

theorem mem_allQueues (q : Queue) : q ∈ allQueues := by cases q <;> decide

theorem mem_failedWaits {c : BitVec 3} {q : Queue} {i : Instr} {h : Hold} (hh : heldHead s c q = some (2, i)) (ho : (coreOf s c).hold = some h)
    (hlim : gateLimit s i ≤ h.cycles) : (c, q, i) ∈ failedWaits s := by
  refine List.mem_flatMap.2 ⟨c, mem_allCores c, List.mem_filterMap.2 ⟨q, mem_allQueues q, ?_⟩⟩
  have ho' : (vget s.dp.cores c).hold = some h := ho
  rw [ho', hh]
  dsimp only
  rw [if_pos (by simp [hlim])]

/-- The report of a wait that failed. -/
def waitReport (s : State) (x : BitVec 3 × Queue × Instr) : Report :=
  coreReport x.1 x.2.1 6 0xC (waitFlag x.2.2).toNat (vget s.dp.cores x.1).time

theorem exec_timeout {c : BitVec 3} {q : Queue} {i : Instr} (h : holdEnds s c q 2 = some (u, i)) :
    exec (.timeout c q) s = .next (takeReports u ((failedWaits u).map (waitReport u))) := by
  have he : exec (.timeout c q) s = .next (timeout s c q) := rfl
  rw [he, timeout, h]
  rfl

theorem foldl_range_satInc {n k : Nat} (v : BitVec n) : (List.range k).foldl (fun n _ => satInc n) v = satInc^[k] v := by
  rw [List.foldl_const, List.length_range]

theorem timeout_faults {c : BitVec 3} {q : Queue} {i : Instr} (h : holdEnds s c q 2 = some (u, i)) :
    ∃ t, exec (.timeout c q) s = .next t ∧ t.dp.dev = u.dp.dev ∧
      (vget t.err.cls 6).cnt = (List.range (failedWaits u).length).foldl (fun n _ => satInc n) (vget u.err.cls 6).cnt ∧
      t.fwr.toCnt = (List.range (failedWaits u).length).foldl (fun n _ => satInc n) u.fwr.toCnt ∧
      (∀ h, (coreOf u c).hold = some h → gateLimit u i ≤ h.cycles → (c, q, i) ∈ failedWaits u) ∧
      (∀ x ∈ failedWaits u, ∀ ch, chainOf u x.1 = some ch → ∀ k ∈ chainCores u ch, (coreOf t k).restart = true ∧ (coreOf t k).hold = none) ∧
      (∀ ch, chainOf u c = some ch → failedWaits u = [(c, q, i)] → Safety.chainFails u t ch c) := by
  have hrep : ∀ x, StopsChain (waitReport u x) x.1 := fun x => stopsChain_coreReport (by decide) (by decide)
  obtain ⟨h1, -, h3, h4, -, h6⟩ := takeReports_timeouts ((failedWaits u).map (waitReport u)) (fun r hr => by
    obtain ⟨x, -, rfl⟩ := List.mem_map.1 hr
    exact ⟨rfl, x.1, hrep x⟩) u
  rw [List.length_map] at h3 h4
  refine ⟨_, exec_timeout h, h1, by rw [foldl_range_satInc, h3], by rw [foldl_range_satInc, h4],
    fun _ ho hlim => mem_failedWaits (holdEnds_some h) ho hlim, fun x hx ch hch k hk => h6 _ (List.mem_map_of_mem hx) x.1 rfl ch hch k hk,
    fun ch hch hone => ?_⟩
  rw [hone]
  obtain ⟨-, hcls, hcore, htick, hrb, hrs⟩ := hrep (c, q, i)
  exact chainFails_takeReport hcls hcore htick hrb hrs hch

/-! ### The tile-ready gate and a chain without progress -/

theorem tileReadyLimit_faults {c : BitVec 3} {i : Instr} {ch : Nat} (h : holdEnds s c .me 1 = some (u, i)) (hch : chainOf u c = some ch) :
    ∃ t, exec (.tileReadyLimit c) s = .next t ∧ Safety.chainFails u t ch c ∧ (vget t.err.cls 7).cnt = satInc (vget u.err.cls 7).cnt := by
  have he : exec (.tileReadyLimit c) s = .next (tileLimit s c) := rfl
  have hr : StopsChain (coreReport c .me 7 7 1 (headIndex u c .me)) c := stopsChain_coreReport (by decide) (by decide)
  rw [he, tileLimit, h]
  have hcnt := (faultStep_takeReport (s := u) hr).cnt
  obtain ⟨-, hcls, hcore, htick, hrb, hrs⟩ := hr
  exact ⟨_, rfl, chainFails_takeReport hcls hcore htick hrb hrs hch, hcnt⟩

/-- The report of a chain without progress. -/
def waitCycleReport (cs : List (BitVec 3)) (time : Nat) : Report := deviceReport 5 0xB 2 ((coreBits cs).zeroExtend 32) (BitVec.ofNat 32 time)

/-- The state that counts a chain without progress. -/
def npdCounted (s : State) (cs : List (BitVec 3)) (k : BitVec 3) : State :=
  { s with fwr := { s.fwr with npdCnt := satInc s.fwr.npdCnt, npdCores := coreBits cs, npdSeq := (coreOf s k).tick.setWidth 32 } }

theorem reportWait_eq {chain : Nat} {k : BitVec 3} (h : (chainCores s chain).find? (fun c => heldByWait (coreOf s c)) = some k) :
    reportWait s chain = callRestart (rollChain (recordReport (npdCounted s (chainCores s chain) k)
      { waitCycleReport (chainCores s chain) (coreOf s k).time with rollback := true, restart := true })
      { waitCycleReport (chainCores s chain) (coreOf s k).time with core := some k } chain) chain (coreOf s k).tick false := by
  have h' : (chainCores s chain).find? (fun c => heldByWait (vget s.dp.cores c)) = some k := h
  unfold reportWait
  dsimp only
  rw [h']
  rfl

theorem exec_waitCycle {chain : Nat} (hn : noProgress s chain = true) (hm : mayReach s (npdLimit - s.sp.npd.getD chain 0) = true)
    (hu : s.pass (npdLimit - s.sp.npd.getD chain 0) = u) (hf : frozen u = false) (hl : npdLimit ≤ u.sp.npd.getD chain 0) :
    exec (.waitCycle chain) s = .next (reportWait u chain) := by
  have he : exec (.waitCycle chain) s = .next (waitCycle s chain) := rfl
  rw [he, waitCycle]
  dsimp only
  rw [hn, hm, hu, if_neg (by simp), if_neg (by rw [hf, decide_eq_false (Nat.not_lt.2 hl)]; exact Bool.false_ne_true)]

theorem waitCycle_faults {chain : Nat} {k : BitVec 3} (hn : noProgress s chain = true) (hm : mayReach s (npdLimit - s.sp.npd.getD chain 0) = true)
    (hu : s.pass (npdLimit - s.sp.npd.getD chain 0) = u) (hf : frozen u = false) (hl : npdLimit ≤ u.sp.npd.getD chain 0)
    (hk : (chainCores u chain).find? (fun c => heldByWait (coreOf u c)) = some k) :
    ∃ t, exec (.waitCycle chain) s = .next t ∧ Safety.chainFails u t chain k ∧ (vget t.err.cls 5).cnt = satInc (vget u.err.cls 5).cnt ∧
      t.fwr.npdCnt = satInc u.fwr.npdCnt ∧ t.fwr.npdCores = coreBits (chainCores u chain) ∧ t.fwr.npdSeq = (coreOf u k).tick.setWidth 32 := by
  rw [exec_waitCycle hn hm hu hf hl, reportWait_eq hk]
  have hrec := recordReport_err_only (s := npdCounted u (chainCores u chain) k)
    (r := { waitCycleReport (chainCores u chain) (coreOf u k).time with rollback := true, restart := true }) (show (5 : BitVec 4) ≠ 6 by decide)
  have hcnt := recordReport_cnt (s := npdCounted u (chainCores u chain) k)
    { waitCycleReport (chainCores u chain) (coreOf u k).time with rollback := true, restart := true } (show (5 : BitVec 4) ≠ 0 by decide)
  generalize recordReport (npdCounted u (chainCores u chain) k) _ = v at hrec hcnt
  have hvd : v.dp = u.dp := (congrArg State.dp hrec :)
  have hvs : v.sp = u.sp := (congrArg State.sp hrec :)
  have hvt : v.twn = u.twn := (congrArg State.twn hrec :)
  have hvf : v.fwr = (npdCounted u (chainCores u chain) k).fwr := (congrArg State.fwr hrec :)
  have hseq : tickOfReport v { waitCycleReport (chainCores u chain) (coreOf u k).time with core := some k } = (coreOf u k).tick := by
    unfold tickOfReport
    dsimp only [waitCycleReport, deviceReport]
    rw [hvd]
  have hfwr := callRestart_fwr (s := rollChain v { waitCycleReport (chainCores u chain) (coreOf u k).time with core := some k } chain) chain
    (coreOf u k).tick false
  rw [rollChain_fwr, hvf] at hfwr
  refine ⟨_, rfl, chainFails_rolled hvd hvs hvt hseq, ?_, (congrArg Fwr.npdCnt hfwr :), (congrArg Fwr.npdCores hfwr :), (congrArg Fwr.npdSeq hfwr :)⟩
  rw [callRestart_err, rollChain_err]
  exact hcnt

/-! ### The residency gate -/

/-- The stream-ticks of a tick whose streams are not resident when the gate's limit comes. -/
def goneTick (s : State) (y : StreamTick) : Bool := y.out == .running && !isResident s y.stream

theorem maskStreams_eq (s : State) (seq : W64) (p : StreamTick → Bool) : ∃ l, maskStreams s seq p = { s with dp := { s.dp with landings := l } } := by
  unfold maskStreams
  dsimp only
  split
  · exact ⟨s.dp.landings, rfl⟩
  · have h : ∀ (cs : List (BitVec 3)) (d : Dp), ∃ l, cs.foldl (fun (d : Dp) c => d.landIn 1 (.narrow c seq (rowsOfSts s seq p))) d = { d with landings := l } := by
      intro cs
      induction cs with
      | nil => exact fun d => ⟨d.landings, rfl⟩
      | cons c cs ih =>
        intro d
        obtain ⟨l, hl⟩ := ih (d.landIn 1 (.narrow c seq (rowsOfSts s seq p)))
        exact ⟨l, by rw [List.foldl_cons, hl]; rfl⟩
    obtain ⟨l, hl⟩ := h allCores s.dp
    exact ⟨l, by rw [hl]⟩

/-- A list of device-level reports of one class, none of which stops a chain. -/
theorem takeReports_plain (l : List Report) (cls : BitVec 4) (h0 : cls ≠ 0) (hl : ∀ r ∈ l, r.cls = cls ∧ r.cls ≠ 1 ∧ r.cls ≠ 6 ∧ r.rollback = false ∧ r.restart = false)
    (s : State) : { takeReports s l with err := s.err } = s ∧ (vget (takeReports s l).err.cls cls).cnt = satInc^[l.length] (vget s.err.cls cls).cnt := by
  induction l generalizing s with
  | nil => exact ⟨rfl, rfl⟩
  | cons r l ih =>
    obtain ⟨hc, h1, h6, hrb, hrs⟩ := hl r (by simp)
    obtain ⟨i1, i2⟩ := ih (fun r hr => hl r (by simp [hr])) (takeReport s r)
    have htr : takeReport s r = recordReport s r := takeReport_plain _ _ h1 hrb hrs
    have hframe := recordReport_err_only (s := s) h6
    have hcnt := recordReport_cnt (s := s) r (by rw [hc]; exact h0)
    rw [htr] at i1 i2
    have ht : takeReports s (r :: l) = takeReports (recordReport s r) l := by rw [← htr]; rfl
    rw [ht]
    constructor
    · exact (congrArg (fun x : State => { x with err := s.err }) i1 :).trans hframe
    · rw [i2, List.length_cons, Function.iterate_succ_apply, ← hc, hcnt]

/-- What the expiry of the gate does in a tick that is neither early nor another's. -/
theorem resolveGate_of {seq : W64} {r : TickRec} (held : Nat) (he : s.sp.early = none) (hc : s.sp.cur = some r) (hs : r.seq = seq) :
    ∃ q, (resolveGate s seq held).sp.cur = some q ∧ q.seq = r.seq ∧
      q.sts.map (fun y => (y.stream, y.out)) = r.sts.map (fun y => (y.stream, if goneTick s y then .skipped else y.out)) ∧
      (resolveGate s seq held).dp.dev = s.dp.dev ∧ (resolveGate s seq held).fwr = s.fwr ∧
      (vget (resolveGate s seq held).err.cls 8).cnt = satInc^[(r.sts.filter (goneTick s)).length] (vget s.err.cls 8).cnt := by
  have hsts : tickSts s seq = r.sts := by
    unfold tickSts
    rw [hc, he]
    dsimp only
    rw [if_pos hs, List.append_nil]
  unfold resolveGate
  extract_lets ids v w
  have hids : ids = (r.sts.filter (goneTick s)).map (fun x => x.stream) := by
    show ((tickSts s seq).filter _).map _ = _
    rw [hsts]
    rfl
  obtain ⟨l, hm⟩ := maskStreams_eq s seq (fun x => ids.any (fun y => y == x.stream))
  have hw : w.err = s.err ∧ w.fwr = s.fwr ∧ w.dp.dev = s.dp.dev ∧ w.sp.cur = some { r with
      sts := r.sts.map (fun x => if ids.any (fun y => y == x.stream) && x.out == .running then { x with out := .skipped } else x) } := by
    have hv : v = { s with dp := { s.dp with landings := l } } := hm
    refine ⟨?_, ?_, ?_, ?_⟩
    · show v.err = _; rw [hv]
    · show v.fwr = _; rw [hv]
    · show v.dp.dev = _; rw [hv]
    · show v.sp.cur.map _ = _
      rw [hv, hc, Option.map_some, if_pos hs]
  obtain ⟨hwe, hwf, hwd, hwc⟩ := hw
  obtain ⟨hfr, hcnt⟩ := takeReports_plain (ids.map (fun id => deviceReport 8 1 2 (id.zeroExtend 32) (BitVec.ofNat 32 held))) 8 (by decide)
    (fun x hx => by
      obtain ⟨id, -, rfl⟩ := List.mem_map.1 hx
      exact ⟨rfl, show (8 : BitVec 4) ≠ 1 by decide, show (8 : BitVec 4) ≠ 6 by decide, rfl, rfl⟩) w
  refine ⟨_, (congrArg (fun x : State => x.sp.cur) hfr :).trans hwc, rfl, ?_, (congrArg (fun x : State => x.dp.dev) hfr :).trans hwd,
    (congrArg State.fwr hfr :).trans hwf, ?_⟩
  · dsimp only
    rw [List.map_map]
    refine List.map_congr_left (fun y hy => ?_)
    have hany : (ids.any (fun z => z == y.stream) && y.out == .running) = goneTick s y := by
      rw [hids, Bool.eq_iff_iff]
      unfold goneTick
      simp only [Bool.and_eq_true, List.any_eq_true, List.mem_map, List.mem_filter, beq_iff_eq, Bool.not_eq_true']
      constructor
      · rintro ⟨⟨z, ⟨x, ⟨-, -, hx⟩, rfl⟩, hz⟩, ho⟩
        exact ⟨ho, by rw [← hz]; exact hx⟩
      · rintro ⟨ho, hres⟩
        exact ⟨⟨_, ⟨y, ⟨hy, ho, hres⟩, rfl⟩, rfl⟩, ho⟩
    simp only [Function.comp_apply, hany]
    split <;> rfl
  · rw [hcnt, hwe, List.length_map, hids, List.length_map]

theorem gateResolve_expires {c : BitVec 3} {i : Instr} {r : TickRec} (h : holdEnds s c .de 4 = some (u, i)) (he : u.sp.early = none)
    (hc : u.sp.cur = some r) (hs : r.seq = (coreOf u c).tick) :
    ∃ t q, exec (.gateResolve c) s = .next t ∧ t.fwr.stm.gateExp = satInc u.fwr.stm.gateExp ∧ t.dp.dev = u.dp.dev ∧ t.sp.cur = some q ∧ q.seq = r.seq ∧
      q.sts.map (fun y => (y.stream, y.out)) = r.sts.map (fun y => (y.stream, if goneTick u y then .skipped else y.out)) ∧
      (vget t.err.cls 8).cnt = (List.range (r.sts.filter (goneTick u)).length).foldl (fun n _ => satInc n) (vget u.err.cls 8).cnt := by
  have hx : exec (.gateResolve c) s = .next (gateExpires s c) := rfl
  rw [hx, gateExpires, h]
  dsimp only
  obtain ⟨q, h1, h2, h3, h4, h5, h6⟩ := resolveGate_of (s := { u with fwr := { u.fwr with stm := { u.fwr.stm with gateExp := satInc u.fwr.stm.gateExp } } })
      (seq := (vget u.dp.cores c).tick) ((vget u.dp.cores c).hold.elim 0 (fun h => h.cycles + 1)) he hc hs
  exact ⟨_, q, rfl, (congrArg (fun f : Fwr => f.stm.gateExp) h5 :), h4, h1, h2, h3, h6.trans (foldl_range_satInc _).symm⟩

/-! ### Rows that the SP writes -/

/-- Rows written one after another. -/
def writeRows (d : Dp) (l : List (Nat × List Byte)) : Dp := l.foldl (fun d x => writeRow d x.1 x.2) d

theorem writeRows_frame (d : Dp) (l : List (Nat × List Byte)) : { writeRows d l with dev := d.dev, ecc := d.ecc, wcls := d.wcls } = d := by
  unfold writeRows
  induction l generalizing d with
  | nil => rfl
  | cons x l ih => exact (congrArg (fun y : Dp => { y with dev := d.dev, ecc := d.ecc, wcls := d.wcls }) (ih (writeRow d x.1 x.2)) :)

theorem memRead_writeRows (d : Dp) (l : List (Nat × List Byte)) (a : Nat) (h : ∀ x ∈ l, a / 512 ≠ x.1) :
    memRead (writeRows d l).dev a = memRead d.dev a := by
  unfold writeRows
  induction l generalizing d with
  | nil => rfl
  | cons x l ih =>
    rw [List.foldl_cons, ih _ (fun y hy => h y (by simp [hy])), memRead_writeRow _ _ _ _ (h x (by simp))]

/-- Each of different rows holds what was written to it. -/
theorem rowData_writeRows {d : Dp} (h : memWf d.dev) (l : List (Nat × List Byte)) (hl : (l.map (fun x => x.1)).Nodup) :
    ∀ x ∈ l, rowData (writeRows d l) x.1 = padTo 512 x.2 := by
  have keep : ∀ (l : List (Nat × List Byte)) (d : Dp), memWf d.dev → ∀ k, (∀ x ∈ l, k ≠ x.1) → rowData (writeRows d l) k = rowData d k := by
    intro l
    induction l with
    | nil => exact fun _ _ _ _ => rfl
    | cons y l ih =>
      intro d hd k hk
      exact (ih _ (memWf_writeRow hd _ _) k (fun x hx => hk x (by simp [hx]))).trans (rowData_writeRow_ne hd _ _ _ (hk y (by simp)))
  induction l generalizing d with
  | nil => exact fun x hx => absurd hx List.not_mem_nil
  | cons y l ih =>
    rw [List.map_cons, List.nodup_cons] at hl
    obtain ⟨hy, hl⟩ := hl
    intro x hx
    rcases List.mem_cons.1 hx with rfl | hx
    · refine (keep l _ (memWf_writeRow h _ _) x.1 (fun z hz e => hy ?_)).trans (rowData_writeRow h _ _)
      rw [e]
      exact List.mem_map_of_mem hz
    · exact ih (memWf_writeRow h _ _) hl x hx

/-- The datapath with window 0 of every core memory open to the SP over all its rows. -/
def spOpened (d : Dp) : Dp :=
  { d with cores := d.cores.map (fun c =>
      { c with cm := { c.cm with windows := vset c.cm.windows 0 ⟨0, BitVec.ofNat 14 coreMemRows, 0, true, false, false, true⟩ } }) }

/-- A row that the SP may write with the windows open: an Orchard row, or one of a core memory that is out of service. -/
def spReaches (d : Dp) (row : Nat) : Prop :=
  row < 0x20000 ∨ (0x20000 ≤ row ∧ row < 0x40000 ∧ row % 0x4000 < 12288 ∧ (vget d.cores (rowCore row)).cm.inService = false)

theorem rowAdmitted_opened {d e : Dp} {k : BitVec 3} {row : Nat} (he : e.cores = (spOpened d).cores) (hs : (vget d.cores k).cm.inService = false)
    (hr : row < 12288) : rowAdmitted e k .sp row = true := by
  have hc : vget e.cores k = { vget d.cores k with cm := { (vget d.cores k).cm with
      windows := vset (vget d.cores k).cm.windows 0 ⟨0, BitVec.ofNat 14 coreMemRows, 0, true, false, false, true⟩ } } := by
    rw [he]
    exact Vector.getElem_map _ _
  unfold rowAdmitted windowAdmits
  dsimp only
  rw [hc]
  dsimp only
  rw [hs, if_neg Bool.false_ne_true, decide_eq_true (show row < coreMemRows from hr), Bool.true_and, List.any_eq_true]
  refine ⟨vget (vset (vget d.cores k).cm.windows 0 ⟨0, BitVec.ofNat 14 coreMemRows, 0, true, false, false, true⟩) 0, Vector.mem_toList_iff.2 (Vector.getElem_mem _), ?_⟩
  rw [vget_vset_same]
  simp [coreMemRows, hr]

theorem coreRow_rowCore {row : Nat} (h1 : 0x20000 ≤ row) (h2 : row < 0x40000) : coreRow (rowCore row) (row % 0x4000) = row := by
  unfold coreRow rowCore
  rw [BitVec.toNat_ofNat]
  omega

/-- The SP writes rows that it reaches one after another, with no report. -/
theorem spWrites_reached {d : Dp} {l : List (Nat × List Byte)} (hl : ∀ x ∈ l, spReaches d x.1) :
    (spWrites d l).2 = [] ∧ { (spWrites d l).1 with cores := d.cores } = { writeRows (spOpened d) l with cores := d.cores } ∧
      ∀ k, vget (spWrites d l).1.cores k = vget d.cores k := by
  have hfold : ∀ (l : List (Nat × List Byte)) (e : Dp), e.cores = (spOpened d).cores → (∀ x ∈ l, spReaches d x.1) →
      l.foldl (fun (a : Dp × List Report) x => if isOrchard x.1 then (writeRow a.1 x.1 x.2, a.2)
        else
          let y := landRow a.1 (rowCore x.1) ⟨.sp, some (x.1 % 0x4000), x.2, none⟩
          (y.1, a.2 ++ y.2)) (e, []) = (writeRows e l, []) := by
    intro l
    induction l with
    | nil => exact fun _ _ _ => rfl
    | cons x l ih =>
      intro e he hx
      have hstep : (if isOrchard x.1 then (writeRow e x.1 x.2, ([] : List Report))
          else
            let y := landRow e (rowCore x.1) ⟨.sp, some (x.1 % 0x4000), x.2, none⟩
            (y.1, [] ++ y.2)) = (writeRow e x.1 x.2, []) := by
        by_cases ho : x.1 < 0x20000
        · rw [if_pos (show isOrchard x.1 = true from decide_eq_true ho)]
        · obtain ⟨h1, h2, h3, h4⟩ := (hx x (by simp)).resolve_left ho
          rw [if_neg (by rw [isOrchard, decide_eq_false ho]; exact Bool.false_ne_true)]
          dsimp only [landRow]
          rw [if_pos (rowAdmitted_opened he h4 h3), coreRow_rowCore h1 h2]
          rfl
      rw [List.foldl_cons, hstep]
      exact ih (writeRow e x.1 x.2) he (fun y hy => hx y (by simp [hy]))
  have h := hfold l (spOpened d) rfl hl
  have hw : (writeRows (spOpened d) l).cores = (spOpened d).cores := (congrArg Dp.cores (writeRows_frame (spOpened d) l) :)
  unfold spWrites
  dsimp only
  generalize hr : List.foldl _ _ l = r
  obtain rfl : r = (writeRows (spOpened d) l, []) := hr.symm.trans h
  refine ⟨rfl, rfl, fun k => ?_⟩
  dsimp only
  rw [hw]
  unfold vget spOpened
  simp

/-! ### The restart of a chain -/

/-- A core whose memory is out of service. -/
def Core.outOfService (x : Core) : Core := { x with cm := { x.cm with inService := false } }

theorem chainOut_core (s : State) (chain : Nat) (k : BitVec 3) :
    coreOf (chainOut s chain) k = if k ∈ chainCores s chain then (coreOf s k).outOfService else coreOf s k :=
  foldl_modCore_idem (f := Core.outOfService) (fun _ => rfl) _ _ _

theorem chainOut_dp (s : State) (chain : Nat) : { (chainOut s chain).dp with cores := s.dp.cores } = s.dp := foldl_modCore_frame _ _ _

theorem reload_reload (b : Bool) (x : Core) : (x.reload b).reload b = x.reload b := by
  unfold Core.reload
  cases b
  · rfl
  · simp [Cmem.enter, Function.comp_def]

/-- The cores of a chain that enters again take their initial values, and no other core changes. -/
theorem reenter_core (s : State) (chain : Nat) (k : BitVec 3) : coreOf (reenter s chain) k =
    if k ∈ chainCores s chain then (coreOf s k).reload (s.tkc.active && s.dbg.runState != .halted) else coreOf s k :=
  foldl_modCore_idem (reload_reload _) _ _ _

theorem reload_inService (b : Bool) (x : Core) : (x.reload b).cm.inService = b := by cases b <;> rfl

/-- The rows that a restart with a restore writes: W-class rows that fail to check. -/
def restored (s : State) (rows : List (Nat × List Byte)) : List (Nat × List Byte) :=
  rows.filter (fun x => (rowMarks s.dp x.1).any (fun m => m.unc && m.w))

section restart
variable {chain : Nat} {rows : List (Nat × List Byte)}

/-- The restart's writes reach their rows once the chain's memories are out of service. -/
theorem spReaches_chainOut (hb : ∀ x ∈ restored u rows, x.1 < 0x20000 ∨ (x.1 < 0x40000 ∧ x.1 % 0x4000 < 12288 ∧ rowCore x.1 ∈ chainCores u chain)) :
    ∀ x ∈ restored u rows, spReaches (chainOut u chain).dp x.1 := by
  intro x hx
  by_cases ho : x.1 < 0x20000
  · exact .inl ho
  · obtain ⟨h1, h2, h3⟩ := (hb x hx).resolve_left ho
    refine .inr ⟨Nat.not_lt.1 ho, h1, h2, ?_⟩
    have hc := chainOut_core u chain (rowCore x.1)
    rw [if_pos h3] at hc
    exact congrArg (fun c : Core => c.cm.inService) hc

theorem restoreRows_chainOut (hb : ∀ x ∈ restored u rows, x.1 < 0x20000 ∨ (x.1 < 0x40000 ∧ x.1 % 0x4000 < 12288 ∧ rowCore x.1 ∈ chainCores u chain)) :
    restoreRows (chainOut u chain) rows = { u with dp := (spWrites (chainOut u chain).dp (restored u rows)).1 } := by
  have hecc : (chainOut u chain).dp.ecc = u.dp.ecc := (congrArg Dp.ecc (chainOut_dp u chain) :)
  have hl : restored (chainOut u chain) rows = restored u rows := by
    unfold restored rowMarks
    rw [hecc]
  obtain ⟨hrep, -, -⟩ := spWrites_reached (spReaches_chainOut hb)
  have h : restoreRows (chainOut u chain) rows = takeReports { chainOut u chain with dp := (spWrites (chainOut u chain).dp (restored (chainOut u chain) rows)).1 }
      (spWrites (chainOut u chain).dp (restored (chainOut u chain) rows)).2 := rfl
  rw [h, hl, hrep]
  rfl

/-- The state in which the chain enters again: the chain's cores out of service, the rows written back where the restart asks for it. -/
theorem restored_state (restore : Bool) (hwf : memWf u.dp.dev) (hn : (rows.map (fun x => x.1)).Nodup)
    (hb : ∀ x ∈ restored u rows, x.1 < 0x20000 ∨ (x.1 < 0x40000 ∧ x.1 % 0x4000 < 12288 ∧ rowCore x.1 ∈ chainCores u chain)) :
    ∃ d, (if restore then restoreRows (chainOut u chain) rows else chainOut u chain) = { u with dp := d } ∧
      { d with cores := u.dp.cores, dev := u.dp.dev, ecc := u.dp.ecc, wcls := u.dp.wcls } = u.dp ∧
      (∀ k, vget d.cores k = if k ∈ chainCores u chain then (coreOf u k).outOfService else coreOf u k) ∧
      (restore = true → ∀ x ∈ restored u rows, rowData d x.1 = padTo 512 x.2) ∧
      ∀ a, (∀ r ∈ (if restore then (restored u rows).map (fun x => x.1) else []), a / 512 ≠ r) → memRead d.dev a = memRead u.dp.dev a := by
  have hout := chainOut_dp u chain
  have hdev : (chainOut u chain).dp.dev = u.dp.dev := (congrArg Dp.dev hout :)
  cases restore with
  | false =>
    refine ⟨(chainOut u chain).dp, rfl, ?_, chainOut_core u chain, fun h => absurd h (by decide), fun a _ => by rw [hdev]⟩
    exact (congrArg (fun d : Dp => { d with dev := u.dp.dev, ecc := u.dp.ecc, wcls := u.dp.wcls }) hout :)
  | true =>
    obtain ⟨-, hw, hcores⟩ := spWrites_reached (spReaches_chainOut hb)
    have hfr := writeRows_frame (spOpened (chainOut u chain).dp) (restored u rows)
    have hwd : (spWrites (chainOut u chain).dp (restored u rows)).1.dev = (writeRows (spOpened (chainOut u chain).dp) (restored u rows)).dev :=
      (congrArg Dp.dev hw :)
    have hodev : (spOpened (chainOut u chain).dp).dev = u.dp.dev := hdev
    refine ⟨_, (if_pos rfl).trans (restoreRows_chainOut hb), ?_, fun k => (hcores k).trans (chainOut_core u chain k), fun _ x hx => ?_, fun a ha => ?_⟩
    · have h1 := congrArg (fun d : Dp => { d with cores := u.dp.cores, dev := u.dp.dev, ecc := u.dp.ecc, wcls := u.dp.wcls }) hw
      have h2 := congrArg (fun d : Dp => { d with cores := u.dp.cores, dev := u.dp.dev, ecc := u.dp.ecc, wcls := u.dp.wcls }) hfr
      have h3 := congrArg (fun d : Dp => { d with dev := u.dp.dev, ecc := u.dp.ecc, wcls := u.dp.wcls }) hout
      exact h1.trans (h2.trans h3)
    · have h := rowData_writeRows (d := spOpened (chainOut u chain).dp) (by rw [hodev]; exact hwf) (restored u rows)
        (List.Nodup.sublist ((List.filter_sublist (l := rows)).map (fun x : Nat × List Byte => x.1)) hn) x hx
      unfold rowData at h ⊢
      rw [hwd]
      exact h
    · rw [hwd, memRead_writeRows _ _ _ (fun x hx => ha x.1 ?_), hodev]
      rw [if_pos rfl]
      exact List.mem_map_of_mem hx

section drained
variable {r : Restart} {ok : Bool} (hr : s.sp.restarts.find? (fun x => x.chain == chain) = some r) (hnf : r.failed = false) (hl : s.fwr.fw.level ≠ 3)
  (hm : mayReach s (landingsEnd s) = true) (hu : s.pass (landingsEnd s) = u) (hf : frozen u = false) (hd : chainDrained u chain = true)
include hr hnf hl hm hu hf hd

theorem exec_chainRestart : exec (.chainRestart chain ok rows) s = .next (if r.restore && !ok then failRestart (chainOut u chain) chain
    else reenter (if r.restore then restoreRows (chainOut u chain) rows else chainOut u chain) chain) := by
  have he : exec (.chainRestart chain ok rows) s = .next (chainRestart s chain ok rows) := rfl
  rw [he, chainRestart, hr]
  dsimp only
  rw [hnf, hm, hu, hf, hd, beq_false_of_ne hl]
  rfl

theorem chainRestart_reenters (hwf : memWf u.dp.dev) (hn : (rows.map (fun x => x.1)).Nodup)
    (hb : ∀ x ∈ restored u rows, x.1 < 0x20000 ∨ (x.1 < 0x40000 ∧ x.1 % 0x4000 < 12288 ∧ rowCore x.1 ∈ chainCores u chain))
    (hok : r.restore = true → ok = true) : ∃ t, exec (.chainRestart chain ok rows) s = .next t ∧
      (∀ k ∈ chainCores u chain, (coreOf t k).flg = (coreOf u k).flgInit ∧ (coreOf t k).k = (coreOf u k).kInit ∧ (coreOf t k).cmp = (coreOf u k).cmpInit ∧
        (coreOf t k).restart = false ∧ (coreOf t k).run = .idle ∧ (coreOf t k).hold = none ∧ (coreOf t k).me.ftq = [] ∧ (coreOf t k).me.outq = [] ∧
        (coreOf t k).me.ibReady = 0 ∧ (coreOf t k).me.whReady = 0 ∧ (coreOf t k).ve.ftPend = none ∧
        (coreOf t k).cm.inService = (u.tkc.active && u.dbg.runState != .halted)) ∧
      (∀ k, k ∉ chainCores u chain → coreOf t k = coreOf u k) ∧
      t.dp.dflg = (u.dp.dflg &&& ~~~(chainDflags u chain)) ||| (u.dp.dflgInit &&& chainDflags u chain) ∧
      t.sp = { u.sp with restarts := u.sp.restarts.filter (fun x => x.chain != chain) } ∧
      t.err = { u.err with restartCnt := satInc u.err.restartCnt, restartCores := coreBits (chainCores u chain) } ∧
      (r.restore = true → ∀ x ∈ restored u rows, rowData t.dp x.1 = padTo 512 x.2) ∧
      otherRowsKept u t (if r.restore then (restored u rows).map (fun x => x.1) else []) := by
  have hno : (r.restore && !ok) = false := by
    cases h : r.restore
    · rfl
    · rw [hok h]
      rfl
  obtain ⟨d, hw, hfr, hcores, hrows, hother⟩ := restored_state (chain := chain) r.restore hwf hn hb
  rw [exec_chainRestart hr hnf hl hm hu hf hd, hno, if_neg Bool.false_ne_true, hw]
  have hcore := reenter_core { u with dp := d } chain
  have hdp : { (reenter { u with dp := d } chain).dp with cores := d.cores, dflg := d.dflg } = d :=
    (congrArg (fun x : Dp => { x with dflg := d.dflg }) (foldl_modCore_frame (chainCores u chain) (fun x : Core => x.reload (u.tkc.active && u.dbg.runState != .halted)) d) :)
  have hdflg : (reenter { u with dp := d } chain).dp.dflg = (d.dflg &&& ~~~(chainDflags u chain)) ||| (d.dflgInit &&& chainDflags u chain) := by
    have hfold := foldl_modCore_frame (chainCores u chain) (fun x : Core => x.reload (u.tkc.active && u.dbg.runState != .halted)) d
    have h1 := congrArg Dp.dflg hfold
    have h2 := congrArg Dp.dflgInit hfold
    exact congrArg₂ (fun a b => (a &&& ~~~(chainDflags u chain)) ||| (b &&& chainDflags u chain)) h1 h2
  have hdev : (reenter { u with dp := d } chain).dp.dev = d.dev := (congrArg Dp.dev hdp :)
  refine ⟨_, rfl, fun k hk => ?_, fun k hk => ?_, ?_, rfl, rfl, fun h x hx => ?_, fun a ha => ?_⟩
  · have h1 := hcore k
    rw [if_pos (show k ∈ chainCores { u with dp := d } chain from hk), show coreOf { u with dp := d } k = (coreOf u k).outOfService from
      (hcores k).trans (if_pos hk)] at h1
    rw [h1]
    exact ⟨rfl, rfl, rfl, rfl, rfl, rfl, rfl, rfl, rfl, rfl, rfl, reload_inService _ _⟩
  · rw [hcore k, if_neg (show k ∉ chainCores { u with dp := d } chain from hk)]
    exact (hcores k).trans (if_neg hk)
  · rw [hdflg, show d.dflg = u.dp.dflg from (congrArg Dp.dflg hfr :), show d.dflgInit = u.dp.dflgInit from (congrArg Dp.dflgInit hfr :)]
  · unfold rowData
    rw [hdev]
    exact hrows h x hx
  · rw [hdev]
    exact hother a ha

theorem chainRestart_fails (hre : r.restore = true) (hno : ok = false) : ∃ t, exec (.chainRestart chain ok rows) s = .next t ∧
    { t.dp with cores := u.dp.cores } = u.dp ∧
    (∀ k, coreOf t k = if k ∈ chainCores u chain then { coreOf u k with cm := { (coreOf u k).cm with inService := false } } else coreOf u k) ∧
    (∀ x ∈ t.sp.restarts, x.chain = chain → x.failed = true) ∧ (vget t.err.cls 15).cnt = satInc (vget u.err.cls 15).cnt := by
  rw [exec_chainRestart hr hnf hl hm hu hf hd, hre, hno, if_pos (by decide)]
  refine ⟨_, rfl, ?_, fun k => ?_, fun x hx hxc => ?_, ?_⟩
  · unfold failRestart
    dsimp only
    rw [unrecovered_dp]
    exact chainOut_dp u chain
  · unfold failRestart coreOf
    dsimp only
    rw [unrecovered_dp]
    exact chainOut_core u chain k
  · unfold failRestart at hx
    dsimp only at hx
    rw [show ∀ v : State, (unrecovered v 0xD 0xFFFF 2).sp = v.sp from fun v => recordReport_sp _ _] at hx
    obtain ⟨y, -, rfl⟩ := List.mem_map.1 hx
    split at hxc
    · next h => rw [if_pos h]
    · next h => exact absurd (beq_iff_eq.2 hxc) h
  · exact recordReport_cnt _ (show (15 : BitVec 4) ≠ 0 by decide)

end drained
end restart

/-! ### Write-backs, the error FIFO and the class counters -/

theorem eccWriteBack_marks (s : State) (g : BitVec 23) : ∃ t, exec (.eccWriteBack g) s = .next t ∧ { t with dp := { t.dp with ecc := s.dp.ecc } } = s ∧
    ∀ m, m ∈ t.dp.ecc ↔ m ∈ s.dp.ecc ∧ ¬(m.gran = g.toNat ∧ m.wb = true ∧ m.unc = false) := by
  refine ⟨writeBack s g, rfl, rfl, fun m => ?_⟩
  refine List.mem_filter.trans (and_congr_right fun _ => ?_)
  cases m.wb <;> cases m.unc <;> simp

/-- A meter that does not hold the ticket lets its bearer pass, and so does one that counts nothing. -/
theorem meterAsk_pass {d : Dp} {i : BitVec 4} {size : Nat} {k : Option Nat} (h1 : k = none → d.metering = false) (h2 : meterHolds d i k = false) :
    meterAsk d i size k = (true, none, d) := by
  cases k with
  | none =>
    unfold meterAsk meterOffer
    dsimp only
    rw [h1 rfl]
    rfl
  | some k =>
    unfold meterAsk
    dsimp only
    rw [h2]
    rfl

theorem exec_errorFifoDrain {e : ErrEntry} (he : s.err.fifo[s.hif.err.waiting.length]? = some e) (hr : s.hif.err.room = true)
    (hm : s.err.fifoTicket = none → s.dp.metering = false) (hh : meterHolds s.dp 10 s.err.fifoTicket = false) :
    exec .errorFifoDrain s = .next { s with
      hif := { s.hif with err := { s.hif.err with waiting := s.hif.err.waiting ++ [⟨errBytes e, 3, true, none, false⟩] } },
      err := { s.err with fifo := s.err.fifo.set s.hif.err.waiting.length { e with opened := false, charged := true }, fifoTicket := none } } := by
  have hx : exec .errorFifoDrain s = .next (drainFifo s) := rfl
  rw [hx, drainFifo]
  dsimp only
  rw [he]
  dsimp only
  rw [hr, meterAsk_pass hm hh]
  rfl

theorem clearClasses_cls (e : Err) (mask : W16) (k : BitVec 4) :
    vget (clearClasses e mask).cls k = if mask.getLsbD k.toNat then ⟨0, 0, 0, 0xFF, 0xFF⟩ else vget e.cls k := by
  have h : ∀ n ≤ 16, vget ((List.range n).foldl (fun (v : Vector ClsRec (2 ^ 4)) k =>
      if mask.getLsbD k then vset v (BitVec.ofNat 4 k) ⟨0, 0, 0, 0xFF, 0xFF⟩ else v) e.cls) k =
      if k.toNat < n ∧ mask.getLsbD k.toNat = true then ⟨0, 0, 0, 0xFF, 0xFF⟩ else vget e.cls k := by
    intro n hn
    induction n with
    | zero => rfl
    | succ n ih =>
      rw [List.range_succ, List.foldl_append, List.foldl_cons, List.foldl_nil]
      by_cases hk : k.toNat = n
      · subst hk
        by_cases hb : mask.getLsbD k.toNat = true
        · rw [if_pos hb, BitVec.ofNat_toNat, BitVec.setWidth_eq, vget_vset_same, if_pos ⟨by omega, hb⟩]
        · rw [if_neg hb, ih (by omega), if_neg (fun h => hb h.2), if_neg (fun h => hb h.2)]
      · have hne : k ≠ BitVec.ofNat 4 n := fun h => hk (by rw [h, BitVec.toNat_ofNat]; omega)
        have hiff : k.toNat < n + 1 ↔ k.toNat < n := by omega
        split
        · rw [vget_vset_ne _ _ _ _ hne, ih (by omega)]
          simp only [hiff]
        · rw [ih (by omega)]
          simp only [hiff]
  refine (h 16 (Nat.le_refl _)).trans ?_
  simp only [k.isLt, true_and]

/-- Settles O51: each gate's end goes to its chain by one report, and a restart reloads the chain's cores. -/
theorem faultsAndRecovery : Obligations.FaultsAndRecovery := by
  refine ⟨fun s u c q i => timeout_faults, fun s u c i ch h hch => tileReadyLimit_faults h hch, fun s u c i r h he hc hs => gateResolve_expires h he hc hs,
    fun s chain k hn hm hf hl hk => waitCycle_faults hn hm rfl hf hl hk, fun s chain ok rows r hr hnf hl hm => ?_, eccWriteBack_marks,
    fun s e he hr hm hh => exec_errorFifoDrain he hr hm hh, fun s mask => ⟨_, rfl, rfl, clearClasses_cls s.err mask⟩⟩
  exact fun hf hd hwf hn hb => ⟨chainRestart_reenters hr hnf hl hm rfl hf hd hwf hn hb, chainRestart_fails hr hnf hl hm rfl hf hd⟩

end Sys2Proof.Machine
end

section
/-!
CONTROL PROCESSORS AND INBOUND ROWS. Queue writes, block releases and windows (R17, R19, R48, R215, R224, R225, log 40), and the rows of
the inbound buffer (R27, R200, R213, R215, R216).
-/
namespace Sys2Proof.Machine
-- one proof after the other: the check compiles one text, and its memory holds few threads
set_option Elab.async false
open Sys2Proof.Safety

variable {s t u : State}

/-! ### Cores written back -/

theorem modCore_self {d : Dp} {c : BitVec 3} {f : Core → Core} (h : f (vget d.cores c) = vget d.cores c) : d.modCore c f = d := by
  unfold Dp.modCore Dp.setCore
  rw [h, vset_vget_self]

theorem modCore_modCore (d : Dp) (c : BitVec 3) (f g : Core → Core) : (d.modCore c f).modCore c g = d.modCore c (fun x => g (f x)) := by
  unfold Dp.modCore Dp.setCore
  dsimp only
  rw [vget_vset_same, vset_vset_same]

/-! ### Operations of a control processor -/

/-- A processor whose queue has no waiting operation does the next one at once. -/
theorem cpOperation_free {c : BitVec 3} {i : Instr} (hr : cpRuns s c = true) (hw : (coreOf s c).cpWait = []) : cpOperation s c i =
    (cpDoes s i).getD { s with dp := s.dp.modCore c (fun x => { x with cpWait := [i] }) } := by
  have hw' : (vget s.dp.cores c).cpWait = [] := hw
  unfold cpOperation
  dsimp only
  rw [hr, if_neg (by decide), hw', if_pos List.isEmpty_nil]
  cases cpDoes s i with
  | some v => rfl
  | none =>
    refine congrArg (fun d => { s with dp := d }) ?_
    unfold Dp.modCore
    dsimp only
    rw [hw', List.nil_append]

/-- Behind one that waits, every operation waits. -/
theorem cpOperation_waits {c : BitVec 3} {i : Instr} (hr : cpRuns s c = true) (hw : (coreOf s c).cpWait ≠ []) : cpOperation s c i =
    { s with dp := s.dp.modCore c (fun x => { x with cpWait := x.cpWait ++ [i] }) } := by
  have hw' : (vget s.dp.cores c).cpWait.isEmpty = false := by
    rw [List.isEmpty_eq_false_iff]
    exact hw
  unfold cpOperation
  dsimp only
  rw [hr, if_neg (by decide), hw', if_neg Bool.false_ne_true]

theorem cpOperation_off {c : BitVec 3} {i : Instr} (hr : cpRuns s c = false) : cpOperation s c i = s := by
  unfold cpOperation
  rw [hr]
  rfl

/-- A queue of a core. -/
abbrev cpQueue (s : State) (c : BitVec 3) (q : Queue) : EngQ := vget (coreOf s c).queues (queueIndex q)

/-- A core whose queue q is e. -/
def Core.withQueue (x : Core) (q : Queue) (e : EngQ) : Core := { x with queues := vset x.queues (queueIndex q) e }

/-- A queue with a word behind the others. -/
def EngQ.put (e : EngQ) (word : CmdWord) : EngQ := { e with cmds := e.cmds ++ [word] }

/-- A word joins its queue where there is room. -/
theorem queuePut_eq (s : State) (c : BitVec 3) (q : Queue) (word : CmdWord) :
    queuePut s c q word = if (cpQueue s c q).cmds.length < 512 then
      some { s with dp := s.dp.modCore c (fun x => x.withQueue q ((cpQueue s c q).put word)) } else none := rfl

theorem exec_queueWrite {c : BitVec 3} {q : Queue} {word : CmdWord} (hr : cpRuns s c = true) (hw : (coreOf s c).cpWait = []) :
    exec (.queueWrite c q word) s = .next { s with dp := s.dp.modCore c (fun x => if (cpQueue s c q).cmds.length < 512
      then x.withQueue q ((cpQueue s c q).put word) else { x with cpWait := [.queueWrite c q word] }) } := by
  have he : exec (.queueWrite c q word) s = .next (cpOperation s c (.queueWrite c q word)) := rfl
  have hd : cpDoes s (.queueWrite c q word) = queuePut s c q word := rfl
  rw [he, cpOperation_free hr hw, hd, queuePut_eq]
  by_cases h : (cpQueue s c q).cmds.length < 512
  · simp only [if_pos h]
    rfl
  · simp only [if_neg h]
    rfl

theorem drainCp_queueWrite {c : BitVec 3} {q : Queue} {word : CmdWord} (hw : (coreOf s c).cpWait = [.queueWrite c q word]) :
    drainCp s c = if (cpQueue s c q).cmds.length < 512 then
      { s with dp := s.dp.modCore c (fun x => { x.withQueue q ((cpQueue s c q).put word) with cpWait := [] }) } else s := by
  have hw' : (vget s.dp.cores c).cpWait = [.queueWrite c q word] := hw
  have hd : cpDoes s (.queueWrite c q word) = queuePut s c q word := rfl
  unfold drainCp
  rw [hw', if_neg (by simp), cpGoesOn, hd, queuePut_eq]
  by_cases h : (cpQueue s c q).cmds.length < 512
  · rw [if_pos h, if_pos h]
    dsimp only [cpGoesOn]
    rw [modCore_modCore]
  · rw [if_neg h, if_neg h]
    dsimp only
    rw [modCore_self]
    rw [← hw']

/-! ### Block releases -/

theorem blockSize_eq (e : EngQ) (end_ : BitVec 9) : e.blockSize end_ =
    if end_ = e.rel ∧ (e.blocks.map (fun b => b.2)).sum = 0 ∧ e.cmds.length = 512 then 512 else (end_ - e.rel).toNat := by
  have h0 : (end_ - e.rel).toNat = 0 ↔ end_ = e.rel := by
    constructor
    · intro h
      have h : end_ - e.rel = 0#9 := BitVec.eq_of_toNat_eq h
      exact BitVec.sub_eq_iff_eq_add.1 h |>.trans (by simp)
    · rintro rfl
      simp
  unfold EngQ.blockSize
  simp only [h0]
  rfl

theorem exec_blockRelease {c : BitVec 3} {q : Queue} {end_ : BitVec 9} (hr : cpRuns s c = true) (hw : (coreOf s c).cpWait = []) :
    exec (.blockRelease c q end_) s = .next (releaseBlock s c q end_) := by
  have he : exec (.blockRelease c q end_) s = .next (cpOperation s c (.blockRelease c q end_)) := rfl
  rw [he, cpOperation_free hr hw]
  rfl

/-- The block's tick is the one the core works on. -/
def lateBlock (x : Core) (t : W64) : Bool := x.run == .computing && x.tick == t

/-- The queue once its block of a tick is released. -/
def EngQ.withBlock (e : EngQ) (x : Core) (t : W64) (n : Nat) (end_ : BitVec 9) : EngQ :=
  { e with blocks := e.blocks ++ (if lateBlock x t && n == 0 then [] else [(t, n)]), rel := end_, got := e.got || lateBlock x t }

/-- The block is of a tick that has none yet, and is complete in its queue. -/
def Releasable (e : EngQ) (t : W64) (end_ : BitVec 9) : Prop :=
  (∀ b ∈ e.blocks, b.1 ≠ t) ∧ e.releasedCount + e.blockSize end_ ≤ e.cmds.length

theorem releaseBlock_some {c : BitVec 3} {q : Queue} {end_ : BitVec 9} {t : W64} (hr : cpRuns s c = true)
    (ht : releaseTick (coreOf s c) (cpQueue s c q) = some t) (h : Releasable (cpQueue s c q) t end_) :
    releaseBlock s c q end_ = { s with
      dp := (meterBlock s.dp (c.zeroExtend 4) (plannedCycles s c q) (isEarlySeq s t)).2.setCore c ((coreOf s c).withQueue q (if (meterBlock s.dp (c.zeroExtend 4) (plannedCycles s c q) (isEarlySeq s t)).1
        then (cpQueue s c q).withBlock (coreOf s c) t ((cpQueue s c q).blockSize end_) end_ else cpQueue s c q)) } := by
  obtain ⟨hnew, hroom⟩ := h
  have hany : (cpQueue s c q).blocks.any (fun b => b.1 == t) = false := by
    rw [List.any_eq_false]
    intro b hb
    simpa using hnew b hb
  have hlt : decide ((cpQueue s c q).cmds.length < (cpQueue s c q).releasedCount + (cpQueue s c q).blockSize end_) = false :=
    decide_eq_false (Nat.not_lt.2 hroom)
  unfold releaseBlock
  dsimp only
  rw [ht]
  dsimp only
  rw [hr, hany, hlt, if_neg (by decide)]
  rfl

/-- Without a tick to be for, or with a second or an incomplete block, nothing is released. -/
theorem releaseBlock_none {c : BitVec 3} {q : Queue} {end_ : BitVec 9} (h : releaseTick (coreOf s c) (cpQueue s c q) = none ∨
    ∃ t, releaseTick (coreOf s c) (cpQueue s c q) = some t ∧ ((∃ b ∈ (cpQueue s c q).blocks, b.1 = t) ∨
      (cpQueue s c q).cmds.length < (cpQueue s c q).releasedCount + (cpQueue s c q).blockSize end_)) :
    releaseBlock s c q end_ = s := by
  unfold releaseBlock
  dsimp only
  rcases h with h | ⟨t, ht, h⟩
  · rw [h]
  · rw [ht]
    refine if_pos ?_
    rcases h with ⟨b, hb, hbt⟩ | h
    · rw [Bool.or_eq_true, Bool.or_eq_true]
      exact .inl (.inr (List.any_eq_true.2 ⟨b, hb, by simpa using hbt⟩))
    · rw [Bool.or_eq_true]
      exact .inr (decide_eq_true h)

/-- A block released on a datapath with the same cores. -/
theorem setCore_withQueue {d : Dp} {c : BitVec 3} {q : Queue} {e : EngQ} (h : d.cores = s.dp.cores) :
    d.setCore c ((coreOf s c).withQueue q e) = d.modCore c (fun x => x.withQueue q e) := by
  unfold Dp.modCore coreOf
  rw [h]

theorem blockRelease_effect {c : BitVec 3} {q : Queue} {end_ : BitVec 9} {t : W64} (hr : cpRuns s c = true) (hw : (coreOf s c).cpWait = [])
    (ht : releaseTick (coreOf s c) (cpQueue s c q) = some t) (h : Releasable (cpQueue s c q) t end_) {b : Bool} {d : Dp}
    (hm : meterBlock s.dp (c.zeroExtend 4) (plannedCycles s c q) (isEarlySeq s t) = (b, d)) (hd : d.cores = s.dp.cores) :
    exec (.blockRelease c q end_) s = .next (if b then { s with dp := d.modCore c (fun x =>
      x.withQueue q ((cpQueue s c q).withBlock (coreOf s c) t ((cpQueue s c q).blockSize end_) end_)) } else { s with dp := d }) := by
  rw [exec_blockRelease hr hw, releaseBlock_some hr ht h, hm]
  dsimp only
  rw [setCore_withQueue hd]
  cases b
  · rw [if_neg Bool.false_ne_true, if_neg Bool.false_ne_true, modCore_self]
    unfold Core.withQueue cpQueue coreOf
    rw [hd, vset_vget_self]
  · rw [if_pos rfl, if_pos rfl]

/-- The compute meter takes a block that fits. -/
theorem meterBlock_fits {d : Dp} {i : BitVec 4} {size : Nat} {early : Bool} (hm : d.metering = true) (hq : (vget d.meters i).queue = [])
    (hf : (if early then (vget d.meters i).early else (vget d.meters i).count) + size ≤ (vget d.meters i).lim.toNat) :
    meterBlock d i size early = (true, { d with meters := vset d.meters i (if early
      then { vget d.meters i with early := (vget d.meters i).early + size } else { vget d.meters i with count := (vget d.meters i).count + size }) }) := by
  have hfit : meterFits (vget d.meters i) size early = true := by
    unfold meterFits fitsCount
    rw [decide_eq_true hf, Bool.true_or]
  have hunder : ¬(d.metering && decide ((vget d.meters i).lim.toNat < (if early then (vget d.meters i).early else (vget d.meters i).count) + size)) = true := by
    rw [decide_eq_false (Nat.not_lt.2 hf), Bool.and_false]
    exact Bool.false_ne_true
  have hon : ¬(!d.metering) = true := by
    rw [hm]
    decide
  have hempty : ((vget d.meters i).queue.isEmpty && meterFits (vget d.meters i) size early) = true := by
    rw [hq, hfit]
    rfl
  unfold meterBlock meterTry
  dsimp only
  rw [if_neg hunder, if_neg hon, if_pos hempty]
  unfold meterAdd addCount
  cases early
  · simp only [Bool.false_eq_true, if_false] at hf ⊢
    rw [if_neg (Nat.not_lt.2 hf)]
  · simp only [if_true] at hf ⊢
    rw [if_neg (Nat.not_lt.2 hf)]

/-- A block that does not fit is deferred. -/
theorem meterBlock_over {d : Dp} {i : BitVec 4} {size : Nat} {early : Bool} (hm : d.metering = true)
    (hf : (vget d.meters i).lim.toNat < (if early then (vget d.meters i).early else (vget d.meters i).count) + size) :
    meterBlock d i size early = (false, { d with meters := vset d.meters i { vget d.meters i with deferred := true } }) := by
  unfold meterBlock
  dsimp only
  rw [hm, decide_eq_true hf, if_pos (by decide)]

theorem meterBlock_off {d : Dp} {i : BitVec 4} {size : Nat} {early : Bool} (hm : d.metering = false) : meterBlock d i size early = (true, d) := by
  unfold meterBlock meterTry
  dsimp only
  rw [hm]
  rfl

/-- The queue with its block as the obligation writes it. -/
theorem withBlock_eq (e : EngQ) (x : Core) (t : W64) (n : Nat) (end_ : BitVec 9) : e.withBlock x t n end_ =
    { e with blocks := e.blocks ++ (if (decide (x.run = .computing) && decide (x.tick = t)) = true ∧ n = 0 then [] else [(t, n)]),
             rel := end_, got := e.got || (decide (x.run = .computing) && decide (x.tick = t)) } := by
  have hlate : lateBlock x t = (decide (x.run = .computing) && decide (x.tick = t)) := rfl
  unfold EngQ.withBlock
  rw [hlate]
  generalize (decide (x.run = .computing) && decide (x.tick = t)) = b
  simp only [Bool.and_eq_true, beq_iff_eq]

theorem blockRelease_cases {c : BitVec 3} {q : Queue} {end_ : BitVec 9} (hr : cpRuns s c = true) (hw : (coreOf s c).cpWait = []) :
    let x := coreOf s c
    let e := vget x.queues (queueIndex q)
    let n := if end_ = e.rel ∧ (e.blocks.map (fun b => b.2)).sum = 0 ∧ e.cmds.length = 512 then 512 else (end_ - e.rel).toNat
    (∀ t, releaseTick x e = some t → (∀ b ∈ e.blocks, b.1 ≠ t) → (e.blocks.map (fun b => b.2)).sum + n ≤ e.cmds.length →
      let m := vget s.dp.meters (c.zeroExtend 4)
      let size := plannedCycles s c q
      let early := isEarlySeq s t
      let late := decide (x.run = .computing) && decide (x.tick = t)
      let e' : EngQ := { e with blocks := e.blocks ++ (if late = true ∧ n = 0 then [] else [(t, n)]), rel := end_, got := e.got || late }
      let release := fun (d : Dp) => ({ s with dp := d.modCore c (fun x => { x with queues := vset x.queues (queueIndex q) e' }) } : State)
      (s.dp.metering = false → exec (.blockRelease c q end_) s = .next (release s.dp)) ∧
      let charged := if early then { m with early := m.early + size } else { m with count := m.count + size }
      (s.dp.metering = true → m.queue = [] → (if early then m.early else m.count) + size ≤ m.lim.toNat →
        exec (.blockRelease c q end_) s = .next (release { s.dp with meters := vset s.dp.meters (c.zeroExtend 4) charged })) ∧
      (s.dp.metering = true → m.lim.toNat < (if early then m.early else m.count) + size → exec (.blockRelease c q end_) s =
        .next { s with dp := { s.dp with meters := vset s.dp.meters (c.zeroExtend 4) { m with deferred := true } } })) ∧
    ((releaseTick x e = none ∨ (∃ t, releaseTick x e = some t ∧ ((∃ b ∈ e.blocks, b.1 = t) ∨
        e.cmds.length < (e.blocks.map (fun b => b.2)).sum + n))) → exec (.blockRelease c q end_) s = .next s) := by
  intro x e n
  have hn : e.blockSize end_ = n := blockSize_eq e end_
  refine ⟨fun t ht hnew hroom => ?_, fun h => ?_⟩
  · intro m size early late e' release
    have hrel : Releasable e t end_ := ⟨hnew, by rw [hn]; exact hroom⟩
    have he' : e.withBlock x t (e.blockSize end_) end_ = e' := by rw [hn]; exact withBlock_eq e x t n end_
    have hex : ∀ {b : Bool} {d : Dp}, meterBlock s.dp (c.zeroExtend 4) size early = (b, d) → d.cores = s.dp.cores →
        exec (.blockRelease c q end_) s = .next (if b then release d else { s with dp := d }) := by
      intro b d hm hd
      rw [blockRelease_effect hr hw ht hrel hm hd]
      have hq : (cpQueue s c q).withBlock (coreOf s c) t ((cpQueue s c q).blockSize end_) end_ = e' := he'
      rw [hq]
      rfl
    refine ⟨fun hm => ?_, fun hm hq hf => ?_, fun hm hf => ?_⟩
    · rw [hex (meterBlock_off hm) rfl, if_pos rfl]
    · rw [hex (meterBlock_fits hm hq hf) rfl, if_pos rfl]
    · rw [hex (meterBlock_over hm hf) rfl, if_neg Bool.false_ne_true]
  · rw [exec_blockRelease hr hw, releaseBlock_none]
    have hn' : (cpQueue s c q).blockSize end_ = n := hn
    rw [hn']
    exact h

/-- Settles O38: what waits keeps its order, and a block is released once it is complete and fits. -/
theorem controlProcessorCommands : Obligations.ControlProcessorCommands := by
  refine ⟨fun s c q word => exec_queueWrite, fun s c hr hw => ⟨fun q w => congrArg _ (cpOperation_waits hr hw), fun q e => congrArg _ (cpOperation_waits hr hw),
    fun w b r src sp xp dbg o => congrArg _ (cpOperation_waits hr hw)⟩, fun s c q word => drainCp_queueWrite, fun s c q end_ => blockRelease_cases,
    fun s c w base rows src sp xp dbg opn hr hw => congrArg _ (cpOperation_free hr hw), fun s c hr => ⟨fun q w => congrArg _ (cpOperation_off hr),
    fun q e => congrArg _ (cpOperation_off hr), fun w b r src sp xp dbg o => congrArg _ (cpOperation_off hr)⟩⟩

/-! ### Inbound rows -/

/-- A report that neither restarts a chain nor loses a row changes nothing of the datapath. -/
theorem takeReport_dp_same {r : Report} (h1 : r.cls ≠ 1) (hrs : r.restart = false) : (takeReport s r).dp = s.dp := by
  unfold takeReport
  extract_lets u row seq hold
  have hu : u.dp = s.dp := recordReport_dp s r
  have hh : hold = [] := if_neg (fun x => h1 x.1)
  rw [hh, if_neg (by simp), if_neg (fun x => h1 x.1)]
  split
  · exact hu
  · dsimp only
    rw [hrs, if_neg Bool.false_ne_true]
    split
    · rw [rollChain_dp, hu]
    · exact hu

/-- What a row that is admitted does, and one that is not. -/
theorem landRow_admitted {d : Dp} {k : BitVec 3} {r : InRow} {row : Nat} (hr : r.row = some row) (ha : rowAdmitted d k r.src row = true) :
    landRow d k r = (writeRow d (coreRow k row) r.data, []) := by
  unfold landRow
  rw [hr]
  exact if_pos ha

theorem landRow_discarded {d : Dp} {k : BitVec 3} {r : InRow} {row : Nat} (hr : r.row = some row) (ha : rowAdmitted d k r.src row = false) :
    landRow d k r = (d, [windowReport d k r.src row]) := by
  unfold landRow
  rw [hr]
  exact if_neg (by rw [ha]; exact Bool.false_ne_true)

/-- A core whose first inbound row has left, with one that waited in the fabric behind the others. -/
def Core.inboundTaken (x : Core) (rs : List InRow) : Core :=
  { x with cm := { x.cm with inbound := rs ++ x.cm.fabric.take 1, fabric := x.cm.fabric.drop 1 } }

/-- The flag that lands behind a row. -/
def flagBehind (c : BitVec 3) (f : Option (BitVec 6)) : List (Nat × Landing) :=
  match f with | some f => [(2, .flag c f true)] | none => []

theorem landIn_flag (d : Dp) (c : BitVec 3) (f : Option (BitVec 6)) :
    (match f with | some f => d.landIn 2 (.flag c f true) | none => d) = { d with landings := d.landings ++ flagBehind c f } := by
  cases f with
  | none => exact congrArg (fun l => { d with landings := l }) (List.append_nil d.landings).symm
  | some f => rfl

/-- The first row of the inbound buffer lands. -/
theorem landInbound_cons {d : Dp} {c : BitVec 3} {r : InRow} {rs : List InRow} (h : (vget d.cores c).cm.inbound = r :: rs) :
    landInbound d c = ({ (landRow (d.modCore c (fun x => x.inboundTaken rs)) c r).1 with
        landings := (landRow (d.modCore c (fun x => x.inboundTaken rs)) c r).1.landings ++ flagBehind c r.flag },
      (landRow (d.modCore c (fun x => x.inboundTaken rs)) c r).2) := by
  unfold landInbound
  rw [h]
  dsimp only
  rw [← landIn_flag]
  rfl

/-- The head leaving changes no window and no service. -/
theorem rowAdmitted_taken (d : Dp) (c : BitVec 3) (rs : List InRow) (src : RowSrc) (row : Nat) :
    rowAdmitted (d.modCore c (fun x => x.inboundTaken rs)) c src row = rowAdmitted d c src row := by
  have hc : vget (d.modCore c (fun x => x.inboundTaken rs)).cores c = (vget d.cores c).inboundTaken rs := vget_vset_same _ _ _
  unfold rowAdmitted
  dsimp only
  rw [hc]
  rfl

theorem exec_inboundRowLand (s : State) (c : BitVec 3) :
    exec (.inboundRowLand c none) s = .next (takeReports { s with dp := (landInbound s.dp c).1 } (landInbound s.dp c).2) := rfl

theorem exec_inboundRowLand_outside (s : State) (c : BitVec 3) (o : OutRow) : exec (.inboundRowLand c (some o)) s =
    .next (takeReports { s with dp := (landRow s.dp c { src := o.src, row := some o.row.toNat, data := o.data, flag := none }).1 }
      (landRow s.dp c { src := o.src, row := some o.row.toNat, data := o.data, flag := none }).2) := rfl

/-- A discarded row is reported in class 3, and the datapath stays. -/
theorem windowReport_taken (s : State) (d : Dp) (k : BitVec 3) (src : RowSrc) (row : Nat) :
    (takeReports s [windowReport d k src row]).dp = s.dp ∧
      (vget (takeReports s [windowReport d k src row]).err.cls 3).cnt = satInc (vget s.err.cls 3).cnt :=
  ⟨takeReport_dp_same (s := s) (r := windowReport d k src row) (show (3 : BitVec 4) ≠ 1 by decide) rfl,
    takeReport_cnt s (windowReport d k src row) (show (3 : BitVec 4) ≠ 0 by decide) (show (3 : BitVec 4) ≠ 1 by decide)⟩

/-- Settles O31: a row is written where its source is admitted, and is discarded with a report where it is not. -/
theorem inboundRowLands : Obligations.InboundRowLands := by
  refine ⟨fun s c r rs row hwf hin hr ha => ?_, fun s c o hwf ha => ?_, fun s c o ha => ?_, fun s c r rs row hin hr ha => ?_, fun s c hin => ?_, ?_⟩
  · have hl := landRow_admitted (d := s.dp.modCore c (fun x => x.inboundTaken rs)) hr (by rw [rowAdmitted_taken]; exact ha)
    rw [exec_inboundRowLand, landInbound_cons hin, hl]
    refine ⟨_, rfl, rfl, rfl, rowData_writeRow (d := s.dp.modCore c (fun x => x.inboundTaken rs)) hwf _ _, fun a h => ?_, rfl, rfl⟩
    exact memRead_writeRow (s.dp.modCore c (fun x => x.inboundTaken rs)) _ _ a (h _ (by simp))
  · rw [exec_inboundRowLand_outside, landRow_admitted rfl ha]
    exact ⟨_, rfl, rfl, rfl, rowData_writeRow hwf _ _, fun a h => memRead_writeRow _ _ _ a (h _ (by simp))⟩
  · rw [exec_inboundRowLand_outside, landRow_discarded rfl ha]
    obtain ⟨hd, hc⟩ := windowReport_taken s s.dp c o.src o.row.toNat
    exact ⟨_, rfl, hd, hc⟩
  · have hl := landRow_discarded (d := s.dp.modCore c (fun x => x.inboundTaken rs)) hr (by rw [rowAdmitted_taken]; exact ha)
    rw [exec_inboundRowLand, landInbound_cons hin, hl]
    obtain ⟨hd, hc⟩ := windowReport_taken { s with dp := { s.dp.modCore c (fun x => x.inboundTaken rs) with
      landings := (s.dp.modCore c (fun x => x.inboundTaken rs)).landings ++ flagBehind c r.flag } } (s.dp.modCore c (fun x => x.inboundTaken rs)) c r.src row
    refine ⟨_, rfl, (congrArg Dp.dev hd :), ?_, hc⟩
    have h := congrArg (fun d : Dp => (vget d.cores c).cm.inbound) hd
    exact h.trans (congrArg (fun x : Core => x.cm.inbound) (vget_vset_same _ _ _))
  · have hin' : (vget s.dp.cores c).cm.inbound = [] := hin
    have hl : landInbound s.dp c = (s.dp, []) := by
      unfold landInbound
      rw [hin']
    rw [exec_inboundRowLand, hl]
    rfl
  · intro d c src row
    unfold rowAdmitted windowAdmits
    rfl

end Sys2Proof.Machine
end

section
/-!
ORCHARD ROWS AND THE STREAM TABLE. Rows as the device-level DE reads and writes them (R208), descriptors taken from their rings (R296,
R297, R304), and the descriptors that change one stream at once (R151, R152, R155 to R157).
-/
namespace Sys2Proof.Machine
-- one proof after the other: the check compiles one text, and its memory holds few threads
set_option Elab.async false
open Sys2Proof.Safety

variable {s t u : State}

/-! ### Reading rows that check -/

/-- A row without marks is delivered as it stands. -/
theorem eccBytes_clean {d : Dp} {row : Nat} (h : rowMarks d row = []) (data : List Byte) : eccBytes d row data = data := by
  unfold eccBytes
  rw [h]
  simp only [List.filter_nil, List.any_nil, Bool.false_eq_true, if_false]
  exact List.zipIdx_map_fst 0 data

/-- Rows without marks, read in order. -/
theorem devRows_clean {rows : List Nat} (h : ∀ r ∈ rows, rowMarks s.dp r = []) : devRows s rows = rows.flatMap (rowData s.dp) := by
  have hz : ∀ (l : List Nat) (n : Nat), (∀ r ∈ l, rowMarks s.dp r = []) →
      (l.zipIdx n).flatMap (fun x => eccBytes { s.dp with free := s.dp.free + rowBytes * x.2 } x.1 (rowData s.dp x.1)) = l.flatMap (rowData s.dp) := by
    intro l
    induction l with
    | nil => exact fun _ _ => rfl
    | cons r l ih =>
      intro n hl
      rw [List.zipIdx_cons, List.flatMap_cons, List.flatMap_cons, ih _ (fun x hx => hl x (by simp [hx]))]
      congr 1
      exact eccBytes_clean (d := { s.dp with free := s.dp.free + rowBytes * n }) (hl r (by simp)) _
  exact hz rows 0 h

/-- Consecutive slices make one slice. -/
theorem flatMap_memSlice {m : Mem} (h : memWf m) (a k n : Nat) :
    (List.range n).flatMap (fun i => memSlice m (a + k * i) k) = memSlice m a (k * n) := by
  induction n with
  | zero => rw [Nat.mul_zero, memSlice_eq h]; rfl
  | succ n ih =>
    rw [List.range_succ, List.flatMap_append, ih, List.flatMap_cons, List.flatMap_nil, List.append_nil, memSlice_eq h, memSlice_eq h, memSlice_eq h,
      Nat.mul_succ, List.range_add, List.map_append, List.map_map]
    congr 1
    refine List.map_congr_left (fun i _ => ?_)
    rw [Function.comp_apply, Nat.add_assoc]

/-- Consecutive rows without marks are one span of the memory. -/
theorem orchardRows_clean {b n : Nat} (hwf : memWf s.dp.dev) (h : ∀ k < n, rowMarks s.dp (b + k) = []) :
    orchardRows s b n = memSlice s.dp.dev (512 * b) (512 * n) := by
  unfold orchardRows
  rw [devRows_clean (fun r hr => by
    obtain ⟨k, hk, rfl⟩ := List.mem_map.1 hr
    exact h k (List.mem_range.1 hk)), List.flatMap_map, ← flatMap_memSlice hwf]
  refine List.flatMap_congr (fun k _ => ?_)
  unfold rowData rowBytes
  rw [show (b + k) * 512 = 512 * b + 512 * k by omega]

/-! ### Writing rows -/

/-- A write of rows changes the device memory, its marks and the classes of its granules only. -/
theorem writeOrchard_frame (s : State) (b : Nat) (data : List Byte) : { writeOrchard s b data with
    dp := { (writeOrchard s b data).dp with dev := s.dp.dev, ecc := s.dp.ecc, wcls := s.dp.wcls } } = s := rfl

theorem memWf_writeOrchard (h : memWf s.dp.dev) (b : Nat) (data : List Byte) : memWf (writeOrchard s b data).dp.dev := memWf_memWrite h _ _

/-- Rows written have no marks; the others keep theirs. -/
theorem rowMarks_writeOrchard {b n : Nat} {data : List Byte} (hl : data.length = 512 * n) (row : Nat) :
    rowMarks (writeOrchard s b data).dp row = if b ≤ row ∧ row < b + n then [] else rowMarks s.dp row := by
  have hn : (data.length + rowBytes - 1) / rowBytes = n := by
    rw [hl]
    unfold rowBytes
    omega
  unfold writeOrchard rowMarks Dp.rewrite
  dsimp only
  rw [hn, List.filter_filter]
  split
  · next h =>
    rw [List.filter_eq_nil_iff]
    intro m _ hm
    simp only [Bool.and_eq_true, beq_iff_eq, Bool.not_eq_true', Bool.and_eq_false_iff, decide_eq_false_iff_not] at hm
    omega
  · next h =>
    refine List.filter_congr (fun m _ => ?_)
    rw [Bool.eq_iff_iff]
    simp only [Bool.and_eq_true, beq_iff_eq, Bool.not_eq_true', Bool.and_eq_false_iff, decide_eq_false_iff_not]
    omega

/-- What a span reads after rows are written: the data on the rows written, the old bytes apart from them. -/
theorem memSlice_writeOrchard_same (h : memWf s.dp.dev) {b n : Nat} {data : List Byte} (hl : data.length = 512 * n) :
    memSlice (writeOrchard s b data).dp.dev (512 * b) (512 * n) = data := by
  have hs := memSlice_memWrite_same h (512 * b) data
  rw [hl] at hs
  exact hs

theorem memSlice_writeOrchard_apart (h : memWf s.dp.dev) {b n c k : Nat} {data : List Byte} (hl : data.length = 512 * n) (hd : c + k ≤ b ∨ b + n ≤ c) :
    memSlice (writeOrchard s b data).dp.dev (512 * c) (512 * k) = memSlice s.dp.dev (512 * c) (512 * k) :=
  memSlice_memWrite_apart h _ _ _ _ (by rw [hl]; unfold rowBytes; omega)

theorem memRead_writeOrchard {b n : Nat} {data : List Byte} (hl : data.length = 512 * n) {a : Nat} (ha : ∀ k < n, a / 512 ≠ b + k) :
    memRead (writeOrchard s b data).dp.dev a = memRead s.dp.dev a := by
  refine memRead_memWrite_of_ne _ _ _ _ ?_
  rw [hl]
  unfold rowBytes
  intro ⟨h1, h2⟩
  exact ha (a / 512 - b) (by omega) (by omega)

/-- Rows written read back. -/
theorem orchardRows_writeOrchard (h : memWf s.dp.dev) {b n : Nat} {data : List Byte} (hl : data.length = 512 * n) :
    orchardRows (writeOrchard s b data) b n = data := by
  rw [orchardRows_clean (memWf_writeOrchard h _ _) (fun k hk => by rw [rowMarks_writeOrchard hl, if_pos (by omega)]), memSlice_writeOrchard_same h hl]

/-- Other rows keep their bytes. -/
theorem otherRowsKept_writeOrchard {b n : Nat} {data : List Byte} (hl : data.length = 512 * n) (v : State) (hv : v.dp.dev = s.dp.dev) :
    otherRowsKept v (writeOrchard s b data) ((List.range n).map (b + ·)) := by
  intro a ha
  rw [memRead_writeOrchard hl (fun k hk => ha _ (List.mem_map_of_mem (List.mem_range.2 hk))), hv]

/-! ### Descriptors -/

/-- A record posted on the completion ring of ring n. -/
theorem postCompletion_eq (s : State) (n : BitVec 4) (bytes : List Byte) :
    postCompletion s n bytes false = { s with hif := recorded s.hif n bytes false } := rfl

theorem complete_eq (s : State) (n : BitVec 4) (type : Byte) (tag : W32) (seq : W64) (status : BitVec 7) (reason : Nat) (stream : W16) :
    complete s n type tag seq status reason stream =
      { s with hif := recorded s.hif n (completionBytes (status.zeroExtend 8) type 0 true n tag seq (reasonBits reason stream) 0) false } := rfl

/-- A descriptor whose CRC is right is refused for its type only. -/
theorem checkDesc_ready {n : BitVec 4} {bytes : List Byte} {crc : W32} (h : descReady s n bytes crc) (typeOk : Bool) :
    ∃ x, checkDesc (takeHead s n) n (vget s.hif.sqs n).seq bytes crc typeOk =
      (if typeOk then none else some 8, { s with hif := takenHif s.hif n, dus := x }) := by
  obtain ⟨-, hcrc⟩ := h
  refine ⟨(formCheck s 0 1 false (descFold n (vget s.hif.sqs n).seq) bytes).2.dus, ?_⟩
  have hc : formCheck (takeHead s n) 0 1 false (descFold n (vget s.hif.sqs n).seq) bytes =
      ((formCheck s 0 1 false (descFold n (vget s.hif.sqs n).seq) bytes).1,
        { s with hif := takenHif s.hif n, dus := (formCheck s 0 1 false (descFold n (vget s.hif.sqs n).seq) bytes).2.dus }) := rfl
  unfold checkDesc
  dsimp only
  rw [hc, if_neg (fun h => h hcrc.symm)]
  cases typeOk <;> rfl

/-- What an answer leaves of the descriptor it answers. -/
def settled (d : StateDesc) (q : W64) (v : State) : Answer → State
  | .refuse st r => complete (recordRefusal v st r d.stream) d.sq 2 d.tag q st r d.stream
  | .done w => complete w d.sq 2 d.tag q 0 0 d.stream
  | .later w => w

/-- An answer that leaves the device unpaired. -/
def Answer.Unpaired : Answer → Prop
  | .refuse _ _ => True
  | .done w => w.twn.state = .unpaired
  | .later w => w.twn.state = .unpaired

/-- The state in which a descriptor of ring n is acted on: taken, with its bytes through check unit 0. -/
def takenState (s : State) (n : BitVec 4) (x : Vector Cu (2 ^ 2)) : State := { s with hif := takenHif s.hif n, dus := x }

/-- The request of a descriptor. -/
def requestOf (s : State) (d : StateDesc) : ReqTicket := ⟨d.tag, d.sq, (vget s.hif.sqs d.sq).seq, false⟩

theorem sharesChanges_unpaired (h : s.twn.state = .unpaired) : sharesChanges s = false := by
  unfold sharesChanges
  rw [h]

/-- A state-management descriptor on an unpaired device, whose first checks hold: its operation's answer is settled. -/
theorem runStateDesc_ready {op : Byte} {d : StateDesc} {A : Vector Cu (2 ^ 2) → Answer} (h : descReady s d.sq (stateBytes op d) d.crc)
    (hr : d.rsv = 0) (hu : s.twn.state = .unpaired) (hA : ∀ x, actOf op (takenState s d.sq x) d (requestOf s d) = A x) (hw : ∀ x, (A x).Unpaired) :
    ∃ x, runStateDesc s op d = settled d (vget s.hif.sqs d.sq).seq (takenState s d.sq x) (A x) := by
  obtain ⟨x, hx⟩ := checkDesc_ready h true
  refine ⟨x, ?_⟩
  have hbusy : stateBusy (takenState s d.sq x) = false := by
    unfold stateBusy takenState
    dsimp only
    rw [hu]
  have hmir : (takenState s d.sq x).twn.state ≠ .mirror := by
    unfold takenState
    dsimp only
    rw [hu]
    decide
  have hcome : tableToCome (takenState s d.sq x) = takenState s d.sq x := by
    unfold tableToCome
    rw [if_neg hmir]
  have hx' : checkDesc (takeHead s d.sq) d.sq (vget s.hif.sqs d.sq).seq (stateBytes op d) d.crc true = (none, takenState s d.sq x) := hx
  have hact := hA x
  have hun := hw x
  unfold requestOf at hact
  unfold runStateDesc
  dsimp only
  rw [h.1, if_neg (by decide), beq_iff_eq.2 hr, hx']
  dsimp only
  rw [hbusy, if_neg Bool.false_ne_true, hcome, hact]
  cases hAx : A x with
  | refuse st r => rfl
  | done w =>
    rw [hAx] at hun
    dsimp only
    rw [if_neg hmir, if_neg (by rw [sharesChanges_unpaired (by exact hun)]; exact Bool.false_ne_true)]
    rfl
  | later w =>
    rw [hAx] at hun
    dsimp only
    rw [if_neg hmir, if_neg (by rw [sharesChanges_unpaired hun]; exact Bool.false_ne_true)]
    rfl

/-- What `stateReady` gives an operation's proof: the descriptor is settled by its operation's answer. -/
theorem stateReady_settled {op : Byte} {d : StateDesc} {A : Vector Cu (2 ^ 2) → Answer} {act : State → StateDesc → ReqTicket → Answer}
    (h : stateReady s op d) (hop : ∀ v t, actOf op v d t = if d.stream = 0xFFFF ∨ stateReserved d then .refuse 8 0xC else act v d t)
    (hA : ∀ x, act (takenState s d.sq x) d (requestOf s d) = A x) (hw : ∀ x, (A x).Unpaired) :
    ∃ x, runStateDesc s op d = settled d (vget s.hif.sqs d.sq).seq (takenState s d.sq x) (A x) := by
  obtain ⟨hd, hr, hu, hs, hres⟩ := h
  refine runStateDesc_ready hd hr hu (fun x => ?_) hw
  rw [hop, if_neg (not_or.2 ⟨hs, by rw [hres]; exact Bool.false_ne_true⟩)]
  exact hA x

/-- The rings once the descriptor is taken and completed. -/
theorem served_eq (s : State) (d : StateDesc) (status : BitVec 7) (reason : Nat) :
    recorded (takenHif s.hif d.sq) d.sq (completionBytes (status.zeroExtend 8) 2 0 true d.sq d.tag (vget s.hif.sqs d.sq).seq (reasonBits reason d.stream) 0) false =
      served s.hif d.sq 2 d.tag status reason d.stream := rfl

/-! ### The operations -/

section operations
variable {d : StateDesc} {r : ReqTicket} {x : Stream}

theorem doRegister_plain (hf : findStream s d.stream = none) (hl : s.sp.streams.length < 4096)
    (ha : d.adapt.toNat < 2 ∨ (d.adapt = 2 ∧ ∃ g ∈ s.sp.groups, g.group = d.group)) :
    doRegister s d r = .done { s with sp := { s.sp with
      streams := s.sp.streams ++ [newStream d.stream (d.flags.getLsbD 3) (d.adapt.setWidth 2) d.group] } } := by
  have hle : ¬2 < d.adapt.toNat := by
    rcases ha with ha | ⟨ha, -⟩
    · omega
    · rw [ha]
      decide
  unfold doRegister
  rw [hf, if_neg (by simp), if_neg (Nat.not_le.2 hl), if_neg hle]
  dsimp only
  rcases ha with ha | ⟨ha, g, hg, hgg⟩
  · rw [if_neg (fun e => by rw [e] at ha; exact absurd ha (by decide))]
  · rw [if_pos ha]
    unfold registerGroup
    rw [if_pos (List.any_eq_true.2 ⟨g, hg, by simpa using hgg⟩)]

theorem doRegister_group {p : Package} {a : AdapterDef} {b : Nat} (hf : findStream s d.stream = none) (hl : s.sp.streams.length < 4096) (ha : d.adapt = 2)
    (hg : ∀ g ∈ s.sp.groups, g.group ≠ d.group) (hp : taskPkg s = some p) (hga : groupAdapter p d.group = some a)
    (hb : allocRows s (2 * adapterRows a) = some b) :
    doRegister s d r = .done { writeOrchard s b (initialRows a) with sp := { s.sp with
      groups := s.sp.groups ++ [⟨d.group, b, false⟩],
      streams := s.sp.streams ++ [newStream d.stream (d.flags.getLsbD 3) 2 d.group] } } := by
  have hany : s.sp.groups.any (fun x => x.group == d.group) = false := by
    rw [List.any_eq_false]
    intro g hgm
    simpa using hg g hgm
  unfold doRegister
  rw [hf, if_neg (by simp), if_neg (Nat.not_le.2 hl), ha, if_neg (by decide)]
  dsimp only
  rw [if_pos rfl]
  unfold registerGroup
  rw [hany, if_neg Bool.false_ne_true, hp, Option.bind_some, hga]
  dsimp only
  rw [hb]
  rfl

theorem doUnregister_absent (hf : findStream s d.stream = some x) (hl : x.life = .absent) (hp : x.placeNext = none) (hj : x.initJob = none) :
    doUnregister s d r = .done { s with sp := { s.sp with
      streams := s.sp.streams.filter (fun y => y.id != d.stream), retain := s.sp.retain.filter (fun r => r.stream != d.stream),
      lrn := s.sp.lrn.filter (fun l => l.stream != d.stream),
      groups := if x.adapt == 2 && !(s.sp.streams.filter (fun y => y.id != d.stream)).any (fun y => y.adapt == 2 && y.group == x.group)
        then s.sp.groups.filter (fun g => g.group != x.group) else s.sp.groups } } := by
  unfold doUnregister
  rw [hf]
  dsimp only
  rw [if_neg (fun h => h hl), hp, if_neg (by simp), hj]

theorem doBind_free {i : W16} (hf : findStream s d.stream = some x) (h1 : x.life ≠ .draining) (h2 : x.life ≠ .leaving) (hp : x.placeNext = none)
    (hi : freePlace s d.place = some i) : doBind s d r = .done (modStream s d.stream (fun x => { x with placeNext := some i })) := by
  unfold doBind
  rw [hf]
  dsimp only
  rw [if_neg (not_or.2 ⟨h1, h2⟩), hp, if_neg (by simp), hi]

theorem doUnbind_bound (hf : findStream s d.stream = some x) (hp : x.placeNext ≠ none) :
    doUnbind s d r = .done (modStream s d.stream (fun x => { x with placeNext := none })) := by
  unfold doUnbind
  rw [hf]
  dsimp only
  rw [if_neg (by simpa using hp)]

theorem doClearInit_unpinned (hf : findStream s d.stream = some x) (hp : pinsOf x = 0) :
    doClearInit s d r = .done (modStream s d.stream (fun x => { x with init := none })) := by
  unfold doClearInit
  rw [hf]
  dsimp only
  rw [if_neg (fun h => h hp)]

end operations

/-! ### The obligation -/

/-- A descriptor that changes only the stream table: taken, completed with OK, everything else as it was. -/
theorem table_done {op : Byte} {d : StateDesc} {act : State → StateDesc → ReqTicket → Answer} {c : Instr} {sp : Sp} (h : stateReady s op d)
    (hc : exec c s = .next (runStateDesc s op d)) (hop : ∀ v t, actOf op v d t = if d.stream = 0xFFFF ∨ stateReserved d then .refuse 8 0xC else act v d t)
    (hact : ∀ x, act (takenState s d.sq x) d (requestOf s d) = .done { takenState s d.sq x with sp := sp }) :
    ∃ t, exec c s = .next t ∧ besideDesc s t ∧ t.hif = served s.hif d.sq 2 d.tag 0 0 d.stream ∧ t.sp = sp := by
  obtain ⟨x, hx⟩ := stateReady_settled h hop hact (fun _ => h.2.2.1)
  rw [hc, hx]
  exact ⟨_, rfl, rfl, rfl, rfl⟩

theorem initialRows_length (a : AdapterDef) : (initialRows a).length = 512 * adapterRows a := padTo_length _ _

/-- A descriptor refused because its stream is not registered. -/
theorem table_unregistered {op : Byte} {c : Instr} {d : StateDesc} (hm : (op, c) ∈ [(2, Instr.unregister d), (3, .swapIn d), (4, .swapOut d), (5, .bind d),
      (6, .unbind d), (7, .writeInit d), (8, .clearInit d)]) (h : stateReady s op d) (hf : findStream s d.stream = none) :
    ∃ t, exec c s = .next t ∧ t.hif = served s.hif d.sq 2 d.tag 8 1 d.stream ∧ t.sp = s.sp ∧ t.dp = s.dp ∧
      t.fwr.stm = { s.fwr.stm with refStatus := 8, refReason := 1, refId := d.stream } := by
  have key : ∀ {act : State → StateDesc → ReqTicket → Answer}, exec c s = .next (runStateDesc s op d) → (∀ v t, actOf op v d t = if d.stream = 0xFFFF ∨ stateReserved d then .refuse 8 0xC else act v d t) →
      (∀ v t, findStream v d.stream = none → act v d t = .refuse 8 1) → ∃ t, exec c s = .next t ∧ t.hif = served s.hif d.sq 2 d.tag 8 1 d.stream ∧
        t.sp = s.sp ∧ t.dp = s.dp ∧ t.fwr.stm = { s.fwr.stm with refStatus := 8, refReason := 1, refId := d.stream } := by
    intro act hc hop hact
    obtain ⟨x, hx⟩ := stateReady_settled h hop (fun x => hact (takenState s d.sq x) _ hf) (fun _ => trivial)
    rw [hc, hx]
    exact ⟨_, rfl, rfl, rfl, rfl, rfl⟩
  simp only [List.mem_cons, Prod.mk.injEq, List.not_mem_nil, or_false] at hm
  rcases hm with ⟨rfl, rfl⟩ | ⟨rfl, rfl⟩ | ⟨rfl, rfl⟩ | ⟨rfl, rfl⟩ | ⟨rfl, rfl⟩ | ⟨rfl, rfl⟩ | ⟨rfl, rfl⟩
  · exact key (act := doUnregister) rfl (fun _ _ => rfl) (fun v t hv => by unfold doUnregister; rw [hv])
  · exact key (act := doSwapIn) rfl (fun _ _ => rfl) (fun v t hv => by unfold doSwapIn; rw [hv])
  · exact key (act := doSwapOut) rfl (fun _ _ => rfl) (fun v t hv => by unfold doSwapOut; rw [hv])
  · exact key (act := doBind) rfl (fun _ _ => rfl) (fun v t hv => by unfold doBind; rw [hv])
  · exact key (act := doUnbind) rfl (fun _ _ => rfl) (fun v t hv => by unfold doUnbind; rw [hv])
  · exact key (act := doWriteInit) rfl (fun _ _ => rfl) (fun v t hv => by unfold doWriteInit; rw [hv])
  · exact key (act := doClearInit) rfl (fun _ _ => rfl) (fun v t hv => by unfold doClearInit; rw [hv])

/-- The first stream of an adapter group: the group's slot pair takes the initial weights. -/
theorem exec_register_group {d : StateDesc} {p : Package} {a : AdapterDef} {b : Nat} (h : stateReady s 1 d) (hwf : memWf s.dp.dev)
    (hf : findStream s d.stream = none) (hl : s.sp.streams.length < 4096) (ha : d.adapt = 2) (hg : ∀ g ∈ s.sp.groups, g.group ≠ d.group)
    (hp : taskPkg s = some p) (hga : groupAdapter p d.group = some a) (hb : allocRows s (2 * adapterRows a) = some b) :
    ∃ t, exec (.register d) s = .next t ∧ besideDesc { s with dp := t.dp } t ∧ t.hif = served s.hif d.sq 2 d.tag 0 0 d.stream ∧
      t.sp = { s.sp with groups := s.sp.groups ++ [⟨d.group, b, false⟩],
                         streams := s.sp.streams ++ [newStream d.stream (d.flags.getLsbD 3) 2 d.group] } ∧
      { t.dp with dev := s.dp.dev, ecc := s.dp.ecc, wcls := s.dp.wcls } = s.dp ∧
      orchardRows t b (adapterRows a) = padTo (512 * adapterRows a) a.initRows ∧
      otherRowsKept s t ((List.range (adapterRows a)).map (b + ·)) := by
  obtain ⟨x, hx⟩ := stateReady_settled (act := doRegister) h (fun _ _ => rfl)
    (fun x => doRegister_group (s := takenState s d.sq x) hf hl ha hg hp hga hb) (fun _ => h.2.2.1)
  refine ⟨_, (show exec (.register d) s = .next (runStateDesc s 1 d) from rfl).trans (congrArg Host.Outcome.next hx), rfl, rfl, rfl, rfl, ?_, ?_⟩
  · exact orchardRows_writeOrchard hwf (initialRows_length a)
  · exact otherRowsKept_writeOrchard (initialRows_length a) s rfl

/-- Settles O39: the descriptor is taken, its operation's answer is computed on the state that the descriptor finds, and completed. -/
theorem streamTableDescriptors : Obligations.StreamTableDescriptors := by
  unfold Obligations.StreamTableDescriptors
  refine ⟨?_, ?_, ?_, ?_, ?_, ?_, ?_⟩
  · intro s d h hf hl ha
    exact table_done (act := doRegister) h rfl (fun _ _ => rfl) (fun x => doRegister_plain (s := takenState s d.sq x) hf hl ha)
  · intro s d p a b h hwf hf hl ha hg hp hga hb
    exact exec_register_group h hwf hf hl ha hg hp hga hb
  · intro s d x h hf hl hp hj left
    have hlast : (if x.adapt = 2 ∧ (∀ y ∈ left, y.adapt = 2 → y.group ≠ x.group) then s.sp.groups.filter (fun g => g.group != x.group) else s.sp.groups) =
        if x.adapt == 2 && !left.any (fun y => y.adapt == 2 && y.group == x.group) then s.sp.groups.filter (fun g => g.group != x.group)
        else s.sp.groups := by
      refine if_congr ?_ rfl rfl
      simp
    rw [hlast]
    exact table_done (act := doUnregister) h rfl (fun _ _ => rfl) (fun y => doUnregister_absent (s := takenState s d.sq y) hf hl hp hj)
  · intro s d x i h hf h1 h2 hp hi
    exact table_done (act := doBind) h rfl (fun _ _ => rfl) (fun y => doBind_free (s := takenState s d.sq y) hf h1 h2 hp hi)
  · intro s d x h hf hp
    exact table_done (act := doUnbind) h rfl (fun _ _ => rfl) (fun y => doUnbind_bound (s := takenState s d.sq y) hf hp)
  · intro s d x h hf hp
    exact table_done (act := doClearInit) h rfl (fun _ _ => rfl) (fun y => doClearInit_unpinned (s := takenState s d.sq y) hf hp)
  · intro s op c d hm h hf
    exact table_unregistered hm h hf

end Sys2Proof.Machine
end

section
/-!
SWAPS AND INIT WRITES (R155, R157, R159, R164 to R168, R272, R349): a slot filled with its Bloom rows, a stream's life and its record, and
the descriptors that begin a transfer.
-/
namespace Sys2Proof.Machine
-- one proof after the other: the check compiles one text, and its memory holds few threads
set_option Elab.async false
open Sys2Proof.Safety

variable {s t u : State}

/-! ### One stream of the table -/

theorem findStream_id {id : W16} {x : Stream} (h : findStream s id = some x) : x.id = id := by
  have hp := List.find?_some h
  simpa using hp

/-- A stream found after the records of its ID change is the changed one. -/
theorem findStream_modStream {id : W16} {x : Stream} {f : Stream → Stream} (hf : ∀ y, (f y).id = y.id) (h : findStream s id = some x) :
    findStream (modStream s id f) id = some (f x) := by
  have hid := findStream_id h
  unfold findStream modStream
  dsimp only
  rw [List.find?_map]
  have hp : ((fun y : Stream => y.id == id) ∘ fun y => if (y.id == id) = true then f y else y) = fun y => y.id == id := by
    funext y
    rw [Function.comp_apply]
    split
    · rw [hf]
    · rfl
  unfold findStream at h
  rw [hp, h, Option.map_some, if_pos (beq_iff_eq.2 hid)]

/-- Two changes of one stream's record are one. -/
theorem streamsWith_modStream {id : W16} {f : Stream → Stream} (g : Stream → Stream) (hf : ∀ y, (f y).id = y.id) :
    streamsWith (modStream s id f) id g = streamsWith s id (fun y => g (f y)) := by
  unfold modStream streamsWith
  dsimp only
  rw [List.map_map]
  refine List.map_congr_left (fun y _ => ?_)
  rw [Function.comp_apply]
  split
  · next h => rw [if_pos (by rw [hf]; exact h)]
  · rfl

theorem setLife_id (x : Stream) (n : Nat) (l : Life) : (x.setLife n l).id = x.id := by
  unfold Stream.setLife
  split <;> rfl

theorem setLife_swap (x : Stream) (n : Nat) (l : Life) : (x.setLife n l).swap = x.swap := by
  unfold Stream.setLife
  split <;> rfl

/-- A stream's life changes apart from its place, transfer and pending window. -/
theorem setLife_unbound (x : Stream) (n : Nat) (l : Life) (i : Option W16) (j : Option SwapJob) (w : Option PendWin) :
    ({ x with placeNext := i, swap := j, pend := w } : Stream).setLife n l = { x.setLife n l with placeNext := i, swap := j, pend := w } := by
  unfold Stream.setLife Stream.resNow
  dsimp only
  split <;> rfl

/-- A stream's life changes apart from its place and windows. -/
theorem setLife_unplaced (x : Stream) (n : Nat) (l : Life) (i : Option W16) (w v : List (List Byte)) :
    ({ x with placeNext := i, window := w, nextWindow := v } : Stream).setLife n l = { x.setLife n l with placeNext := i, window := w, nextWindow := v } := by
  unfold Stream.setLife Stream.resNow
  dsimp only
  split <;> rfl

/-- A stream's life changes apart from the number its next image must carry. -/
theorem setLife_expSeq (x : Stream) (n : Nat) (l : Life) (q : Option W64) :
    ({ x with expSeq := q } : Stream).setLife n l = { x.setLife n l with expSeq := q } := by
  unfold Stream.setLife Stream.resNow
  dsimp only
  split <;> rfl

/-- A rerun that is lost is counted, nothing else. -/
theorem rerunLost_eq (s : State) (w : Option PendWin) : rerunLost s w = { s with tkc := (rerunLost s w).tkc } := by
  unfold rerunLost
  split
  · split <;> rfl
  · rfl

/-- What a lost rerun counts depends on the tick control alone. -/
theorem rerunLost_congr (h : t.tkc = s.tkc) (w : Option PendWin) : (rerunLost t w).tkc = (rerunLost s w).tkc := by
  unfold rerunLost
  split
  · split
    · rw [h]
    · exact h
  · exact h

/-- Rows without marks report nothing. -/
theorem noteRows_clean {rows : List Nat} (h : ∀ r ∈ rows, rowMarks s.dp r = []) : noteRows s rows = s := by
  unfold noteRows
  rw [List.flatMap_eq_nil_iff.2 h]
  rfl

/-! ### A slot with its Bloom rows -/

/-- The rows of Bloom slot 0 of a stream. -/
def bloomList (p : Package) : Option Nat → List Nat
  | some b => (List.range (bloomRows p)).map (b + ·)
  | none => []

/-- The Bloom layers' rows out of a slot's bytes. -/
def bloomBytes (p : Package) (data : List Byte) : List Byte := p.bloomMap.flatMap (fun k => padTo 512 ((data.drop (512 * k)).take 512))

theorem bloomBytes_length (p : Package) (data : List Byte) : (bloomBytes p data).length = 512 * bloomRows p := by
  unfold bloomBytes bloomRows
  induction p.bloomMap with
  | nil => rfl
  | cons k l ih => rw [List.flatMap_cons, List.length_append, padTo_length, ih, List.length_cons, Nat.mul_succ, Nat.add_comm]

/-- What a filled slot leaves: its rows, its Bloom rows, and everything else as it was. -/
structure SlotFilled (s v : State) (p : Package) (b : Nat) (bl : Option Nat) (rows bloom : List Byte) : Prop where
  frame : { v with dp := s.dp } = s
  mem : { v.dp with dev := s.dp.dev, ecc := s.dp.ecc, wcls := s.dp.wcls } = s.dp
  slot : orchardRows v b (slotRows p) = rows
  bloom : devRows v (bloomList p bl) = if bloomList p bl = [] then [] else bloom
  rest : ∀ a, (∀ r ∈ (List.range (slotRows p)).map (b + ·) ++ bloomList p bl, a / 512 ≠ r) → memRead v.dp.dev a = memRead s.dp.dev a

/-- R272: a slot's rows go to slot 0, its Bloom layers to Bloom slot 0. -/
theorem fillSlot_filled (h : memWf s.dp.dev) {p : Package} {x : Stream} {b : Nat} (rows : List Byte) (hb : x.slot = some b)
    (hd : ∀ c, x.bloom = some c → b + slotRows p ≤ c ∨ c + bloomRows p ≤ b) :
    SlotFilled s (fillSlot s p x rows) p b x.bloom (padTo (512 * slotRows p) rows) (bloomBytes p rows) := by
  have hl : (padTo (512 * slotRows p) rows).length = 512 * slotRows p := padTo_length _ _
  have hlb := bloomBytes_length p rows
  cases hbl : x.bloom with
  | none =>
    have hf : fillSlot s p x rows = writeOrchard s b (padTo (512 * slotRows p) rows) := by
      unfold fillSlot
      rw [hb, hbl]
      rfl
    rw [hf]
    refine ⟨rfl, rfl, orchardRows_writeOrchard h hl, rfl, fun a ha => ?_⟩
    refine otherRowsKept_writeOrchard hl s rfl a (fun r hr => ha r ?_)
    simpa [bloomList] using hr
  | some c =>
    have hf : fillSlot s p x rows = writeOrchard (writeOrchard s b (padTo (512 * slotRows p) rows)) c (bloomBytes p rows) := by
      unfold fillSlot
      rw [hb, hbl]
      rfl
    have hw := memWf_writeOrchard h b (padTo (512 * slotRows p) rows)
    have hap := hd c hbl
    rw [hf]
    refine ⟨rfl, rfl, ?_, ?_, fun a ha => ?_⟩
    · rw [orchardRows_clean (memWf_writeOrchard hw _ _) (fun k hk => by
        rw [rowMarks_writeOrchard hlb, if_neg (by omega), rowMarks_writeOrchard hl, if_pos (by omega)]),
        memSlice_writeOrchard_apart hw hlb (by omega), memSlice_writeOrchard_same h hl]
    · have hr : devRows (writeOrchard (writeOrchard s b (padTo (512 * slotRows p) rows)) c (bloomBytes p rows)) (bloomList p (some c)) = bloomBytes p rows :=
        orchardRows_writeOrchard hw hlb
      rw [hr]
      split
      · next he =>
        have h0 : bloomRows p = 0 := by simpa [bloomList] using he
        rw [h0] at hlb
        exact List.length_eq_zero_iff.1 hlb
      · rfl
    · rw [memRead_writeOrchard hlb (fun k hk => ha _ (List.mem_append_right _ (List.mem_map_of_mem (List.mem_range.2 hk)))),
        memRead_writeOrchard hl (fun k hk => ha _ (List.mem_append_left _ (List.mem_map_of_mem (List.mem_range.2 hk))))]

/-! ### The descriptors -/

section operations
variable {d : StateDesc} {r : ReqTicket} {x : Stream} {p : Package} {b : Nat}

/-- What a SWAP_IN asks of the stream, the table and the rows (Table 7-4). -/
structure SwapFits (s : State) (d : StateDesc) (x : Stream) (p : Package) (b : Nat) : Prop where
  found : findStream s d.stream = some x
  absent : x.life = .absent
  place : d.flags.getLsbD 2 = true → x.placeNext = none ∧ freePlace s d.place ≠ none
  count : residentCount s < 512
  pkg : taskPkg s = some p
  rows : allocRows s (2 * slotRows p) = some b

/-- The place a SWAP_IN leaves its stream with. -/
def swapPlace (s : State) (d : StateDesc) (x : Stream) : Option W16 := if d.flags.getLsbD 2 then freePlace s d.place else x.placeNext

/-- The stream RESIDENT with its init state. -/
def freshStream (s : State) (d : StateDesc) (x : Stream) (p : Package) (b : Nat) : Stream :=
  { x.setLife s.dp.cycle .resident with slot := some b, bloom := allocBloom s p, bc := 0, cur := false, seq := 0, placeNext := swapPlace s d x }

theorem doSwapIn_of (h : SwapFits s d x p b) : doSwapIn s d r = if d.addr = 0 then
      .done (fillSlot (modStream (match x.init with | some i => noteSpan s i p.slotState | none => s) d.stream (fun _ => freshStream s d x p b)) p
        (freshStream s d x p b) (initSlotRows s p x))
    else .later (modStream { s with dp := (meterOffer s.dp 11 (imageBytes p) false).2 } d.stream (fun y => { y.setLife s.dp.cycle .arriving with
      slot := some b, bloom := allocBloom s p, bc := 0, cur := false, placeNext := swapPlace s d x,
      swap := some { req := r, addr := d.addr.setWidth 40, anySeq := d.flags.getLsbD 1, ticket := (meterOffer s.dp 11 (imageBytes p) false).1,
                     bound := d.flags.getLsbD 2, drained := false } })) := by
  obtain ⟨hf, hl, hpl, hc, hp, hb⟩ := h
  unfold doSwapIn
  rw [hf, hp]
  dsimp only
  rw [if_neg (fun h => h hl)]
  have h1 : (d.flags.getLsbD 2 && x.placeNext.isSome) = false := by
    cases hb2 : d.flags.getLsbD 2 with
    | false => rfl
    | true => rw [(hpl hb2).1]; rfl
  have h2 : (d.flags.getLsbD 2 && (freePlace s d.place).isNone) = false := by
    cases hb2 : d.flags.getLsbD 2 with
    | false => rfl
    | true => simpa [← Option.isSome_iff_ne_none] using (hpl hb2).2
  rw [h1, if_neg Bool.false_ne_true, h2, if_neg Bool.false_ne_true, if_neg (Nat.not_le.2 hc), hb]
  rfl

/-- The request of a SWAP_OUT. -/
def leaveJob (d : StateDesc) (r : ReqTicket) (k : Option Nat) (drained : Bool) : SwapJob :=
  { req := r, addr := d.addr.setWidth 40, anySeq := false, ticket := k, bound := false, drained := drained }

/-- R157, R159: a stream that leaves offers its image to meter 11 and loses its adapters' learning. -/
theorem startLeaving_of {id : W16} (hp : taskPkg s = some p) : startLeaving s id = { s with
    dp := (meterOffer s.dp 11 (imageBytes p) false).2
    sp := { s.sp with
      lrn := s.sp.lrn.filter (fun l => l.stream != id)
      streams := streamsWith s id (fun y => { y.setLife s.dp.cycle .leaving with
        swap := y.swap.map (fun j => { j with ticket := (meterOffer s.dp 11 (imageBytes p) false).1 }), pend := none }) } } := by
  unfold startLeaving
  rw [hp]
  rfl

theorem doSwapOut_of (hf : findStream s d.stream = some x) (hl : x.life = .resident) (hlost : x.lost = false) (hpin : pinsOf x = 0 ∨ d.flags.getLsbD 0 = false) :
    doSwapOut s d r = .later (if pinsOf x = 0 then startLeaving (modStream (rerunLost s x.pend) d.stream (fun y => { y.setLife s.dp.cycle .draining with
        placeNext := none, swap := some (leaveJob d r none (pinsOf x != 0)), pend := none })) d.stream
      else modStream (rerunLost s x.pend) d.stream (fun y => { y.setLife s.dp.cycle .draining with
        placeNext := none, swap := some (leaveJob d r none (pinsOf x != 0)), pend := none })) := by
  have hc : ((d.flags.getLsbD 0 || x.lost) && pinsOf x != 0) = false := by
    rw [hlost]
    rcases hpin with h | h
    · rw [h]; simp
    · rw [h]; rfl
  have hdp : (rerunLost s x.pend).dp = s.dp := by rw [rerunLost_eq]
  unfold doSwapOut
  rw [hf]
  dsimp only
  rw [if_neg (fun h => h hl), hc, if_neg Bool.false_ne_true, hlost, if_neg Bool.false_ne_true, hdp]
  rfl

theorem doSwapOut_leaving (hf : findStream s d.stream = some x) (hl : x.life = .resident) (hlost : x.lost = false) (hp : taskPkg s = some p) (hpin : pinsOf x = 0) :
    doSwapOut s d r = .later { s with
      dp := (meterOffer s.dp 11 (imageBytes p) false).2
      tkc := (rerunLost s x.pend).tkc
      sp := { s.sp with
        lrn := s.sp.lrn.filter (fun l => l.stream != d.stream)
        streams := streamsWith s d.stream (fun y => { (y.setLife s.dp.cycle .draining).setLife s.dp.cycle .leaving with
          placeNext := none, pend := none, swap := some (leaveJob d r (meterOffer s.dp 11 (imageBytes p) false).1 false) }) } } := by
  rw [doSwapOut_of hf hl hlost (Or.inl hpin), if_pos hpin, startLeaving_of (show taskPkg (modStream _ _ _) = some p by rw [rerunLost_eq]; exact hp),
    streamsWith_modStream, rerunLost_eq]
  · simp only [setLife_unbound, hpin]
    rfl
  · exact fun y => setLife_id y _ _

theorem doSwapOut_pinned (hf : findStream s d.stream = some x) (hl : x.life = .resident) (hpin : pinsOf x ≠ 0) (h : d.flags.getLsbD 0 = true ∨ x.lost = true) :
    doSwapOut s d r = .refuse 4 0xA := by
  unfold doSwapOut
  rw [hf]
  dsimp only
  rw [if_neg (fun h => h hl), if_pos]
  simpa using ⟨h, hpin⟩

theorem doSwapOut_lost (hf : findStream s d.stream = some x) (hl : x.life = .resident) (hpin : pinsOf x = 0) (h : x.lost = true) :
    doSwapOut s d r = .done (toAbsent (modStream s d.stream (fun x => { x with placeNext := none, window := [], nextWindow := [] })) d.stream) := by
  unfold doSwapOut
  rw [hf]
  dsimp only
  rw [if_neg (fun h => h hl), hpin, if_neg (by simp), if_pos h]

/-- The record of a stream that is left ABSENT (R155). -/
def leftAbsent (n : Nat) (y : Stream) : Stream :=
  { y.setLife n .absent with slot := none, bloom := none, bc := 0, cur := false, swap := none, lost := false, pend := none }

/-- R155: a stream left ABSENT loses its rows, its transfer, a pending window and its adapters' learning. -/
theorem toAbsent_of {id : W16} (hf : findStream s id = some x) : toAbsent s id = { s with
    tkc := (rerunLost s x.pend).tkc
    sp := { s.sp with lrn := s.sp.lrn.filter (fun l => l.stream != id), streams := streamsWith s id (leftAbsent s.dp.cycle) } } := by
  unfold toAbsent
  rw [hf]
  dsimp only [Option.elim]
  rw [rerunLost_eq]
  rfl

theorem doWriteInit_of (hf : findStream s d.stream = some x) (hpin : pinsOf x = 0) (hj : x.initJob = none) (hp : taskPkg s = some p)
    (hb : allocRows s p.slotState = some b) :
    doWriteInit s d r = .later (modStream { s with dp := (meterOffer s.dp 11 (512 * p.slotState) false).2 } d.stream (fun x => { x with
      initJob := some { slot := b, addr := d.addr.setWidth 40, landed := false, ticket := (meterOffer s.dp 11 (512 * p.slotState) false).1, req := r } })) := by
  unfold doWriteInit
  rw [hf, hp]
  dsimp only
  rw [if_neg (fun h => h hpin), hj, if_neg (by simp), hb]
  rfl

end operations

/-! ### The obligation -/

/-- R155: SWAP_IN with address 0. -/
theorem exec_swapIn_init {d : StateDesc} {x : Stream} {p : Package} {b : Nat} (h : stateReady s 3 d) (hwf : memWf s.dp.dev) (hfit : SwapFits s d x p b)
    (ha : d.addr = 0) (hm : ∀ i, x.init = some i → ∀ k < p.slotState, rowMarks s.dp (i + k) = [])
    (hd : ∀ c, allocBloom s p = some c → b + slotRows p ≤ c ∨ c + bloomRows p ≤ b) :
    ∃ t, exec (.swapIn d) s = .next t ∧ besideDesc { s with dp := t.dp } t ∧ t.hif = served s.hif d.sq 2 d.tag 0 0 d.stream ∧
      t.sp = { s.sp with streams := streamsWith s d.stream (fun _ => freshStream s d x p b) } ∧
      { t.dp with dev := s.dp.dev, ecc := s.dp.ecc, wcls := s.dp.wcls } = s.dp ∧
      orchardRows t b (slotRows p) = padTo (512 * slotRows p) (initSlotRows s p x) ∧
      devRows t (bloomList p (allocBloom s p)) = (if bloomList p (allocBloom s p) = [] then [] else bloomBytes p (initSlotRows s p x)) ∧
      otherRowsKept s t ((List.range (slotRows p)).map (b + ·) ++ bloomList p (allocBloom s p)) := by
  have hnote : ∀ v : State, v.dp = s.dp → (match x.init with | some i => noteSpan v i p.slotState | none => v) = v := by
    intro v hv
    cases hi : x.init with
    | none => rfl
    | some i =>
      refine noteRows_clean (fun r hr => ?_)
      obtain ⟨k, hk, rfl⟩ := List.mem_map.1 hr
      rw [hv]
      exact hm i hi k (List.mem_range.1 hk)
  have hfill : ∀ y, SlotFilled (modStream (takenState s d.sq y) d.stream (fun _ => freshStream s d x p b))
      (fillSlot (modStream (takenState s d.sq y) d.stream (fun _ => freshStream s d x p b)) p (freshStream s d x p b) (initSlotRows s p x)) p b
      (allocBloom s p) (padTo (512 * slotRows p) (initSlotRows s p x)) (bloomBytes p (initSlotRows s p x)) :=
    fun y => fillSlot_filled (s := modStream (takenState s d.sq y) d.stream (fun _ => freshStream s d x p b)) hwf (initSlotRows s p x) rfl hd
  obtain ⟨y, hy⟩ := stateReady_settled (act := doSwapIn) (A := fun y => .done (fillSlot (modStream (takenState s d.sq y) d.stream
      (fun _ => freshStream s d x p b)) p (freshStream s d x p b) (initSlotRows s p x))) h (fun _ _ => rfl) (fun y => by
      have hfit' : SwapFits (takenState s d.sq y) d x p b := ⟨hfit.found, hfit.absent, hfit.place, hfit.count, hfit.pkg, hfit.rows⟩
      rw [doSwapIn_of hfit', if_pos ha, hnote (takenState s d.sq y) rfl]
      rfl) (fun y => by
      have hfr := (congrArg (fun v => v.twn.state) (hfill y).frame :)
      exact Eq.trans hfr h.2.2.1)
  obtain ⟨hfr, hmem, hslot, hbloom, hrest⟩ := hfill y
  refine ⟨_, (show exec (.swapIn d) s = .next (runStateDesc s 3 d) from rfl).trans (congrArg Host.Outcome.next hy), ?_⟩
  generalize fillSlot (modStream (takenState s d.sq y) d.stream (fun _ => freshStream s d x p b)) p (freshStream s d x p b) (initSlotRows s p x) = v at *
  have hv : v = { modStream (takenState s d.sq y) d.stream (fun _ => freshStream s d x p b) with dp := v.dp } := by
    rw [← hfr]
  refine ⟨?_, ?_, ?_, hmem, hslot, hbloom, hrest⟩
  · rw [hv]
    rfl
  · rw [hv]
    rfl
  · rw [hv]
    rfl

/-- An operation whose answer comes later, as a state. -/
theorem table_later {op : Byte} {d : StateDesc} {act : State → StateDesc → ReqTicket → Answer} {c : Instr} {dp : Dp} {tkc : Tkc} {sp : Sp}
    (h : stateReady s op d) (hc : exec c s = .next (runStateDesc s op d))
    (hop : ∀ v t, actOf op v d t = if d.stream = 0xFFFF ∨ stateReserved d then .refuse 8 0xC else act v d t)
    (hact : ∀ x, act (takenState s d.sq x) d (requestOf s d) = .later { takenState s d.sq x with dp := dp, tkc := tkc, sp := sp }) :
    ∃ t, exec c s = .next t ∧ besideDesc { s with dp := dp, tkc := tkc } t ∧ t.hif = takenHif s.hif d.sq ∧ t.sp = sp := by
  obtain ⟨x, hx⟩ := stateReady_settled h hop hact (fun _ => h.2.2.1)
  rw [hc, hx]
  exact ⟨_, rfl, rfl, rfl, rfl⟩

/-- R157, R159: SWAP_OUT of a pinned stream. -/
theorem doSwapOut_draining {d : StateDesc} {r : ReqTicket} {x : Stream} (hf : findStream s d.stream = some x) (hl : x.life = .resident) (hlost : x.lost = false)
    (hpin : pinsOf x ≠ 0) (h0 : d.flags.getLsbD 0 = false) :
    doSwapOut s d r = .later { s with
      dp := s.dp
      tkc := (rerunLost s x.pend).tkc
      sp := { s.sp with streams := streamsWith s d.stream (fun y => { y.setLife s.dp.cycle .draining with
        placeNext := none, pend := none, swap := some (leaveJob d r none true) }) } } := by
  have hb : (pinsOf x != 0) = true := by simpa using hpin
  rw [doSwapOut_of hf hl hlost (Or.inr h0), if_neg hpin, hb, rerunLost_eq]
  rfl

/-- R155: SWAP_OUT of a stream whose state is lost. -/
theorem doSwapOut_gone {d : StateDesc} {r : ReqTicket} {x : Stream} (hf : findStream s d.stream = some x) (hl : x.life = .resident)
    (hpin : pinsOf x = 0) (h : x.lost = true) :
    doSwapOut s d r = .done { s with
      tkc := (rerunLost s x.pend).tkc
      sp := { s.sp with
        lrn := s.sp.lrn.filter (fun l => l.stream != d.stream)
        streams := streamsWith s d.stream (fun y => { leftAbsent s.dp.cycle y with placeNext := none, window := [], nextWindow := [] }) } } := by
  have hx := findStream_modStream (f := fun y => { y with placeNext := none, window := [], nextWindow := [] }) (fun _ => rfl) hf
  rw [doSwapOut_lost hf hl hpin h, toAbsent_of hx, streamsWith_modStream]
  · rw [rerunLost_congr (s := s) (modStream_tkc _ _ _)]
    simp only [leftAbsent, setLife_unplaced]
    rfl
  · exact fun _ => rfl

/-- Settles O40: each descriptor is taken, its operation computed on the state it finds, and answered at once or later. -/
theorem swapDescriptorsStart : Obligations.SwapDescriptorsStart := by
  unfold Obligations.SwapDescriptorsStart
  refine ⟨?_, ?_, ?_, ?_⟩
  · intro s d x p b h hwf hf hl hpl hc hp hb place
    have hfit : SwapFits s d x p b := ⟨hf, hl, hpl, hc, hp, hb⟩
    constructor
    · intro ha hm hd rows bloom
      have hbl : bloom = bloomList p (allocBloom s p) := by
        cases hab : allocBloom s p with
        | none => simp only [bloom, hab, bloomList]
        | some c => simp only [bloom, hab, bloomList]
      rw [hbl]
      exact exec_swapIn_init h hwf hfit ha hm hd
    · intro ha m job f
      exact table_later (act := doSwapIn) h rfl (fun _ _ => rfl) (fun y => by
        have hfit' : SwapFits (takenState s d.sq y) d x p b := ⟨hf, hl, hpl, hc, hp, hb⟩
        rw [doSwapIn_of hfit', if_neg ha]
        rfl)
  · intro s d x p h hf hl hlost hp m job drain
    refine ⟨fun hpin => ?_, fun hpin h0 => ?_⟩
    · exact table_later (act := doSwapOut) h rfl (fun _ _ => rfl) (fun y => by
        rw [doSwapOut_leaving (s := takenState s d.sq y) hf hl hlost hp hpin, rerunLost_congr (s := s) (t := takenState s d.sq y) rfl]
        rfl)
    · exact table_later (act := doSwapOut) h rfl (fun _ _ => rfl) (fun y => by
        rw [doSwapOut_draining (s := takenState s d.sq y) hf hl hlost hpin h0, rerunLost_congr (s := s) (t := takenState s d.sq y) rfl]
        rfl)
  · intro s d x h hf hl
    refine ⟨fun hpin h1 => ?_, fun hpin h1 => ?_⟩
    · obtain ⟨y, hy⟩ := stateReady_settled (act := doSwapOut) h (fun _ _ => rfl)
        (fun y => doSwapOut_pinned (s := takenState s d.sq y) hf hl hpin h1) (fun _ => trivial)
      exact ⟨_, (show exec (.swapOut d) s = .next (runStateDesc s 4 d) from rfl).trans (congrArg Host.Outcome.next hy), rfl, rfl, rfl⟩
    · obtain ⟨y, hy⟩ := stateReady_settled (act := doSwapOut) h (fun _ _ => rfl)
        (fun y => doSwapOut_gone (s := takenState s d.sq y) hf hl hpin h1) (fun _ => h.2.2.1)
      refine ⟨_, (show exec (.swapOut d) s = .next (runStateDesc s 4 d) from rfl).trans (congrArg Host.Outcome.next hy), ?_, rfl, rfl⟩
      rw [rerunLost_congr (s := s) (t := takenState s d.sq y) rfl]
      rfl
  · intro s d x p b h hf hpin hj hp hb m job f
    exact table_later (act := doWriteInit) h rfl (fun _ _ => rfl) (fun y => doWriteInit_of (s := takenState s d.sq y) hf hpin hj hp hb)

end Sys2Proof.Machine
end

section
/-!
IMAGES AND THEIR COMPLETION (R155, R164 to R167, R272): an image that lands, an image that leaves, and a landed init image.
-/
namespace Sys2Proof.Machine
-- one proof after the other: the check compiles one text, and its memory holds few threads
set_option Elab.async false
open Sys2Proof.Safety

variable {s t u : State}

/-- A finished request posts its record. -/
theorem finish_eq {r : ReqTicket} (h : r.silent = false) (status : BitVec 7) (reason : Nat) (id : W16) :
    finish s r status reason id = { s with hif := answered s r status reason id } := by
  unfold finish
  rw [if_neg (by rw [h]; exact Bool.false_ne_true)]
  rfl

/-- A CHECK is computed in check unit 1 of images, from the bytes around it. -/
theorem imageCrc_eq (s : State) (id : W16) (img : List Byte) : ∃ x, imageCrc s id img = ((imageCrc s id img).1, { s with dus := x }) := ⟨_, rfl⟩

theorem foldl_bits_lt (v : Nat) (l : List Nat) : l.foldl (fun a i => 2 * a + (v / 2 ^ i) % 2) 0 < 2 ^ l.length := by
  induction l using List.reverseRecOn with
  | nil => exact Nat.zero_lt_one
  | append_singleton l i ih =>
    rw [List.foldl_append, List.foldl_cons, List.foldl_nil, List.length_append, List.length_singleton, Nat.pow_succ]
    omega

theorem reflectBits_lt (n v : Nat) : reflectBits n v < 2 ^ n := by
  have h := foldl_bits_lt v (List.range n)
  rwa [List.length_range] at h

/-- A CHECK is a number of 32 bits. -/
theorem imageCrc_lt (s : State) (id : W16) (img : List Byte) : (imageCrc s id img).1 < 2 ^ 32 := by
  have hc : ∀ v, crcResult 32 true true v < 2 ^ 32 := fun v => Nat.xor_lt_two_pow (reflectBits_lt 32 v) (by decide)
  unfold imageCrc formCheck
  exact Nat.lt_of_le_of_lt ((BitVec.toNat_ofNat _ _).le.trans (Nat.mod_le _ _)) (hc _)

/-- An image that passes. -/
theorem imageChecked_of {id : W16} {x : Stream} {p : Package} {j : SwapJob} {img : List Byte} (hf : findStream s id = some x) (hl : x.life = .arriving)
    (hj : x.swap = some j) (hm : meterHolds s.dp 11 j.ticket = false) (hp : taskPkg s = some p) (hok : imageMatches p x j img = true)
    (hc : (imageCrc s id img).1 = fieldAt img 508 4) (hlen : img.length = 512 * (1 + slotRows p)) (y : Stream)
    (hy : y = { x.setLife s.dp.cycle .resident with swap := none, bc := 0, cur := false, seq := BitVec.ofNat 64 (fieldAt img 0x10 8) }) :
    imageChecked s id 0 img = finish (fillSlot (modStream (imageCrc s id img).2 id (fun _ => y)) p y (img.drop 512)) j.req 0 0 id := by
  unfold imageChecked
  rw [hf, hp]
  dsimp only
  rw [hl, hj]
  dsimp only
  rw [hm, if_neg Bool.false_ne_true, if_neg (by decide), hok, if_pos]
  · rw [hy]
    rfl
  · rw [Bool.true_and, Bool.and_eq_true]
    exact ⟨decide_eq_true hc, beq_iff_eq.2 hlen⟩

/-- R164, R272: an image that passes makes its stream RESIDENT in slot 0. -/
theorem exec_imageCheck {id : W16} {x : Stream} {p : Package} {j : SwapJob} {img : List Byte} {b : Nat} (hwf : memWf s.dp.dev)
    (hf : findStream s id = some x) (hl : x.life = .arriving) (hj : x.swap = some j) (hs : j.req.silent = false)
    (hm : meterHolds s.dp 11 j.ticket = false) (hp : taskPkg s = some p) (hb : x.slot = some b)
    (hd : ∀ c, x.bloom = some c → b + slotRows p ≤ c ∨ c + bloomRows p ≤ b) (hok : imageMatches p x j img = true)
    (hc : (imageCrc s id img).1 = fieldAt img 508 4) (hlen : img.length = 512 * (1 + slotRows p)) (y : Stream)
    (hy : y = { x.setLife s.dp.cycle .resident with swap := none, bc := 0, cur := false, seq := BitVec.ofNat 64 (fieldAt img 0x10 8) }) :
    ∃ t, exec (.imageCheck id 0 img) s = .next t ∧ besideDesc { s with dp := t.dp } t ∧ t.hif = answered s j.req 0 0 id ∧
      t.sp = { s.sp with streams := streamsWith s id (fun _ => y) } ∧
      { t.dp with dev := s.dp.dev, ecc := s.dp.ecc, wcls := s.dp.wcls } = s.dp ∧ orchardRows t b (slotRows p) = img.drop 512 ∧
      devRows t (bloomList p x.bloom) = (if bloomList p x.bloom = [] then [] else bloomBytes p (img.drop 512)) ∧
      otherRowsKept s t ((List.range (slotRows p)).map (b + ·) ++ bloomList p x.bloom) := by
  obtain ⟨v, hv⟩ := imageCrc_eq s id img
  have hslot : y.slot = some b ∧ y.bloom = x.bloom := by
    rw [hy]
    unfold Stream.setLife
    split <;> exact ⟨hb, rfl⟩
  have hfill := fillSlot_filled (s := modStream { s with dus := v } id (fun _ => y)) (x := y) (p := p) hwf (img.drop 512) hslot.1
    (fun c h => hd c (hslot.2 ▸ h))
  have hpad : padTo (512 * slotRows p) (img.drop 512) = img.drop 512 := padTo_of_length (by rw [List.length_drop, hlen]; omega)
  rw [hslot.2, hpad] at hfill
  obtain ⟨hfr, hmem, hsl, hbl, hrest⟩ := hfill
  have he := imageChecked_of hf hl hj hm hp hok hc hlen y hy
  rw [(congrArg Prod.snd hv :), finish_eq hs] at he
  refine ⟨_, (show exec (.imageCheck id 0 img) s = .next (imageChecked s id 0 img) from rfl).trans (congrArg Host.Outcome.next he), ?_⟩
  generalize fillSlot (modStream { s with dus := v } id (fun _ => y)) p y (img.drop 512) = w at *
  have hw : w = { modStream { s with dus := v } id (fun _ => y) with dp := w.dp } := by rw [← hfr]
  refine ⟨?_, ?_, ?_, hmem, hsl, hbl, hrest⟩
  · rw [hw]
    rfl
  · rw [hw]
    rfl
  · rw [hw]
    rfl

/-- An image's bytes: the header, the CHECK, the committed rows. -/
def checkedImage (s : State) (p : Package) (x : Stream) : List Byte :=
  imageHeader p x ++ bytesOf 4 (imageCrc s x.id (imageHeader p x ++ [0, 0, 0, 0] ++ committedRows s p x)).1 ++ committedRows s p x

theorem imageHeader_length (p : Package) (x : Stream) : (imageHeader p x).length = 508 := padTo_length _ _

theorem imageOf_eq (s : State) (p : Package) (x : Stream) : (imageOf s p x).1 = checkedImage s p x := rfl

/-- The rows of an image of a slot without marks are read without a report. -/
theorem imageOf_clean {p : Package} {x : Stream} (h : ∀ r ∈ committedList p x, rowMarks s.dp r = []) :
    ∃ v, (imageOf s p x).2 = { s with dus := v } := by
  obtain ⟨v, hv⟩ := imageCrc_eq s x.id (imageHeader p x ++ [0, 0, 0, 0] ++ committedRows s p x)
  refine ⟨v, ?_⟩
  unfold imageOf
  dsimp only
  rw [hv]
  exact noteRows_clean h

/-- The parts of an image around its CHECK. -/
theorem checkedImage_parts (p : Package) (x : Stream) (c : List Byte) (hc : c.length = 4) (body : List Byte) :
    (imageHeader p x ++ c ++ body).take 508 = imageHeader p x ∧ (imageHeader p x ++ c ++ body).drop 512 = body := by
  have hl := imageHeader_length p x
  have hlc : (imageHeader p x ++ c).length = 512 := by rw [List.length_append, hl, hc]
  exact ⟨by rw [List.append_assoc, ← hl, List.take_left], by rw [← hlc, List.drop_left]⟩

/-- The bytes of the CHECK do not enter it. -/
theorem imageCrc_checked (s : State) (p : Package) (x : Stream) (c e body : List Byte) (hc : c.length = 4) (he : e.length = 4) :
    (imageCrc s x.id (imageHeader p x ++ c ++ body)).1 = (imageCrc s x.id (imageHeader p x ++ e ++ body)).1 := by
  have hl := imageHeader_length p x
  have hf : ∀ c, fieldAt (imageHeader p x ++ c ++ body) 0x10 8 = fieldAt (imageHeader p x) 0x10 8 := by
    intro c
    unfold fieldAt
    rw [List.append_assoc, List.drop_append_of_le_length (by omega), List.take_append_of_le_length (by rw [List.length_drop]; omega)]
  unfold imageCrc
  rw [hf, hf, (checkedImage_parts p x c hc body).1, (checkedImage_parts p x c hc body).2, (checkedImage_parts p x e he body).1,
    (checkedImage_parts p x e he body).2]

/-- R155: what an image holds. -/
theorem checkedImage_holds (s : State) (p : Package) (x : Stream) : (checkedImage s p x).take 508 = imageHeader p x ∧
    (checkedImage s p x).drop 512 = committedRows s p x ∧ fieldAt (checkedImage s p x) 508 4 = (imageCrc s x.id (checkedImage s p x)).1 := by
  obtain ⟨h1, h2⟩ := checkedImage_parts p x (bytesOf 4 (imageCrc s x.id (imageHeader p x ++ [0, 0, 0, 0] ++ committedRows s p x)).1)
    (leBytes_length _ _) (committedRows s p x)
  refine ⟨h1, h2, ?_⟩
  have hcrc := imageCrc_checked s p x (bytesOf 4 (imageCrc s x.id (imageHeader p x ++ [0, 0, 0, 0] ++ committedRows s p x)).1) [0, 0, 0, 0]
    (committedRows s p x) (leBytes_length _ _) rfl
  refine (fieldAt_append (pre := imageHeader p x) (post := committedRows s p x) ?_ (imageHeader_length p x) (imageCrc_lt _ _ _)).trans hcrc.symm
  unfold checkedImage
  rw [List.append_assoc]

/-- The record of a stream whose image has left (R155). -/
def imageLeft (n : Nat) (y : Stream) : Stream :=
  { y.setLife n .absent with expSeq := some y.seq, slot := none, bloom := none, bc := 0, cur := false, swap := none, lost := false, pend := none }

/-- R155, R165: the acknowledged last write of a swap-out. -/
theorem swapOutDone_of {id : W16} {x : Stream} {p : Package} {j : SwapJob} (hf : findStream s id = some x) (hl : x.life = .leaving) (hj : x.swap = some j)
    (hs : j.req.silent = false) (hlost : x.lost = false) (hm : meterHolds s.dp 11 j.ticket = false) (hp : taskPkg s = some p)
    (hr : ∀ r ∈ committedList p x, rowMarks s.dp r = []) :
    ∃ v, swapOutDone s id 0 = { s with
      dp := { s.dp with ext := memWrite s.dp.ext j.addr.toNat (imageOf s p x).1 }
      dus := v
      hif := answered s j.req 0 0 id
      tkc := (rerunLost s x.pend).tkc
      sp := { s.sp with lrn := s.sp.lrn.filter (fun l => l.stream != id), streams := streamsWith s id (imageLeft s.dp.cycle) } } := by
  obtain ⟨v, hv⟩ := imageOf_clean hr
  refine ⟨v, ?_⟩
  have hf' : findStream { s with dus := v } id = some x := hf
  unfold swapOutDone
  rw [hf, hp]
  dsimp only
  rw [hl, hj]
  dsimp only
  rw [hm, if_neg Bool.false_ne_true, if_neg (by decide), hv, hf', if_neg (by rw [Option.elim, hlost]; exact Bool.false_ne_true), finish_eq hs]
  have hx := findStream_modStream (s := { s with dus := v, dp := { s.dp with ext := memWrite s.dp.ext j.addr.toNat (imageOf s p x).1 } })
    (f := fun y => { y with expSeq := some y.seq }) (fun _ => rfl) hf
  rw [toAbsent_of hx, streamsWith_modStream]
  · have ht : ∀ f, (rerunLost (modStream { s with dus := v, dp := { s.dp with ext := memWrite s.dp.ext j.addr.toNat (imageOf s p x).1 } } id f) x.pend).tkc =
        (rerunLost s x.pend).tkc := fun f => by
      apply rerunLost_congr
      rfl
    simp only [ht, leftAbsent, setLife_expSeq]
    rfl
  · exact fun _ => rfl

/-- An init image whose stream holds a pin waits; else it takes its place. -/
theorem initReplaces_of {id : W16} {x : Stream} {j : InitJob} (hf : findStream s id = some x) (hj : x.initJob = some j) (hl : j.landed = true)
    (hs : j.req.silent = false) : initReplaces s id = if pinsOf x = 0 then { s with
      hif := answered s j.req 0 0 id
      sp := { s.sp with streams := streamsWith s id (fun y => { y with init := some j.slot, initJob := none }) } } else s := by
  unfold initReplaces
  rw [hf]
  dsimp only
  rw [hj]
  dsimp only
  rw [hl, Bool.true_and, beq_eq_decide, finish_eq hs]
  by_cases h : pinsOf x = 0
  · rw [if_pos h, if_pos (decide_eq_true h)]
    rfl
  · rw [if_neg h, if_neg (by simpa using h)]

theorem initLanded_of {id : W16} {x : Stream} {j : InitJob} {p : Package} (data : List Byte) (hf : findStream s id = some x) (hj : x.initJob = some j)
    (hl : j.landed = false) (hm : meterHolds s.dp 11 j.ticket = false) (hp : taskPkg s = some p) :
    initLanded s id 0 data = initReplaces (modStream (writeOrchard s j.slot (padTo (512 * p.slotState) data)) id
      (fun y => { y with initJob := some { j with landed := true } })) id := by
  unfold initLanded
  rw [hf, hp]
  dsimp only
  rw [hj]
  dsimp only
  rw [hl, hm, if_neg (by decide), if_neg (by decide)]
  rfl

/-- R166: an init image that has landed. -/
theorem exec_initImageLanded {id : W16} {x : Stream} {p : Package} {j : InitJob} (data : List Byte) (hwf : memWf s.dp.dev) (hf : findStream s id = some x)
    (hj : x.initJob = some j) (hl : j.landed = false) (hs : j.req.silent = false) (hm : meterHolds s.dp 11 j.ticket = false) (hp : taskPkg s = some p) :
    ∃ t, exec (.initImageLanded id 0 data) s = .next t ∧ besideDesc { s with dp := t.dp } t ∧
      t.hif = (if pinsOf x = 0 then answered s j.req 0 0 id else s.hif) ∧
      { t.dp with dev := s.dp.dev, ecc := s.dp.ecc, wcls := s.dp.wcls } = s.dp ∧
      orchardRows t j.slot p.slotState = padTo (512 * p.slotState) data ∧
      otherRowsKept s t ((List.range p.slotState).map (j.slot + ·)) ∧
      t.sp = { s.sp with streams := streamsWith s id (fun y => if pinsOf x = 0 then { y with init := some j.slot, initJob := none }
        else { y with initJob := some { j with landed := true } }) } := by
  have hlen : (padTo (512 * p.slotState) data).length = 512 * p.slotState := padTo_length _ _
  have hx := findStream_modStream (s := writeOrchard s j.slot (padTo (512 * p.slotState) data))
    (f := fun y => { y with initJob := some { j with landed := true } }) (fun _ => rfl) hf
  have he := (initLanded_of data hf hj hl hm hp).trans (initReplaces_of (j := { j with landed := true }) hx rfl rfl hs)
  refine ⟨_, (show exec (.initImageLanded id 0 data) s = .next (initLanded s id 0 data) from rfl).trans (congrArg Host.Outcome.next he), ?_⟩
  have hpins : pinsOf { x with initJob := some { j with landed := true } } = pinsOf x := rfl
  rw [hpins, streamsWith_modStream _ (fun _ => by rfl)]
  by_cases h : pinsOf x = 0
  · simp only [if_pos h]
    exact ⟨rfl, rfl, rfl, orchardRows_writeOrchard hwf hlen, otherRowsKept_writeOrchard hlen s rfl, rfl⟩
  · simp only [if_neg h]
    exact ⟨rfl, rfl, rfl, orchardRows_writeOrchard hwf hlen, otherRowsKept_writeOrchard hlen s rfl, rfl⟩

/-- Settles O41: an image's CHECK is computed with its own bytes left out, and the rows it moves are those of the slot. -/
theorem imagesComplete : Obligations.ImagesComplete := by
  unfold Obligations.ImagesComplete
  refine ⟨?_, ?_, ?_⟩
  · intro s id x p j img b hwf hf _ hl hj hs hm hp hb hd hok hc hlen y bloom
    have hbl : bloom = bloomList p x.bloom := by
      cases hab : x.bloom with
      | none => simp only [bloom, hab, bloomList]
      | some c => simp only [bloom, hab, bloomList]
    have hby : bloomBytes p (img.drop 512) = p.bloomMap.flatMap (fun k => padTo 512 ((img.drop (512 * (k + 1))).take 512)) := by
      unfold bloomBytes
      refine List.flatMap_congr (fun k _ => ?_)
      rw [List.drop_drop, Nat.mul_succ, Nat.add_comm 512]
    rw [hbl, ← hby]
    exact exec_imageCheck hwf hf hl hj hs hm hp hb hd hok hc hlen y rfl
  · intro s id x p j hwf hf hid hl hj hs hlost hm hp hr img f
    obtain ⟨v, hv⟩ := swapOutDone_of hf hl hj hs hlost hm hp hr
    obtain ⟨h1, h2, h3⟩ := checkedImage_holds s p x
    rw [hid] at h3
    exact ⟨_, (show exec (.swapOutComplete id 0) s = .next (swapOutDone s id 0) from rfl).trans (congrArg Host.Outcome.next hv), rfl, rfl, rfl,
      fun a => memRead_memWrite_byteAt _ _ _ _, h1, h2, h3, rfl⟩
  · intro s id x p j data hwf hf _ hj hl hs hm hp
    exact exec_initImageLanded data hwf hf hj hl hs hm hp

end Sys2Proof.Machine
end

section
/-!
THE LOADER'S COMMANDS (R169, R219, R220, R262, R263, R297, R298): a descriptor taken from its ring, the package's checks, the fill, and
the end of a task.
-/
namespace Sys2Proof.Machine
-- one proof after the other: the check compiles one text, and its memory holds few threads
set_option Elab.async false
open Sys2Proof.Safety

variable {s t u : State}

/-! ### Descriptors of every type -/

/-- A descriptor that passes its first checks is acted on in the state in which it is taken. -/
theorem takeDesc_passes {n : BitVec 4} {type : Byte} {tag : W32} {bytes : List Byte} {crc : W32} (h : descReady s n bytes crc) {ok : Bool} (hok : ok = true)
    (act : State → W64 → State) : ∃ x, takeDesc s n type tag bytes crc ok act = act (takenState s n x) (vget s.hif.sqs n).seq := by
  subst hok
  obtain ⟨x, hx⟩ := checkDesc_ready h true
  refine ⟨x, ?_⟩
  unfold takeDesc
  dsimp only
  rw [h.1, hx]
  rfl

/-- A device report of no chain is recorded, nothing else. -/
theorem takeReport_device {cls : BitVec 4} (h1 : cls ≠ 1) (status : BitVec 7) (unit : BitVec 4) (a b : W32) :
    takeReport s (deviceReport cls status unit a b) = recordReport s (deviceReport cls status unit a b) := takeReport_plain _ _ h1 rfl rfl

/-- A descriptor of a type that is refused completes with BOUND_VIOLATION and is reported. -/
theorem takeDesc_refused {n : BitVec 4} {type : Byte} {tag : W32} {bytes : List Byte} {crc : W32} (h : descReady s n bytes crc) (act : State → W64 → State) :
    ∃ x e, takeDesc s n type tag bytes crc false act = { s with hif := served s.hif n type tag 8 0 0xFFFF, dus := x, err := e } ∧
      (vget e.cls 10).cnt = satInc (vget s.err.cls 10).cnt := by
  obtain ⟨x, hx⟩ := checkDesc_ready h false
  have hr : { recordReport (takenState s n x) (descReport 8 tag n (vget s.hif.sqs n).seq) with err := s.err } = takenState s n x :=
    recordReport_err_only (r := descReport 8 tag n (vget s.hif.sqs n).seq) (show (10 : BitVec 4) ≠ 6 by decide)
  have hcnt := recordReport_cnt (s := takenState s n x) (descReport 8 tag n (vget s.hif.sqs n).seq) (show (10 : BitVec 4) ≠ 0 by decide)
  have hrep : takeReport (takenState s n x) (descReport 8 tag n (vget s.hif.sqs n).seq) = recordReport (takenState s n x) (descReport 8 tag n (vget s.hif.sqs n).seq) :=
    takeReport_device (show (10 : BitVec 4) ≠ 1 by decide) _ _ _ _
  refine ⟨x, (recordReport (takenState s n x) (descReport 8 tag n (vget s.hif.sqs n).seq)).err, ?_, hcnt⟩
  have hx' : checkDesc (takeHead s n) n (vget s.hif.sqs n).seq bytes crc false = (some 8, takenState s n x) := hx
  unfold takeDesc
  dsimp only
  rw [h.1, hx']
  dsimp only
  rw [hrep]
  generalize recordReport (takenState s n x) (descReport 8 tag n (vget s.hif.sqs n).seq) = v at *
  have hv : v = { takenState s n x with err := v.err } := by rw [← hr]
  rw [hv]
  rfl

theorem requestLoad_free {d : LoadDesc} {q : W64} (h1 : s.twn.state = .unpaired) (h2 : s.sp.task = none) (h3 : s.sp.load = none) (h4 : s.tkc.run = false) :
    requestLoad s d q = setLdr { s with sp := { s.sp with load := some { tag := d.tag, sq := d.sq, seq := q, addr := d.addr.setWidth 40, len := d.len, passed := none } } }
      { s.fwr.ldr with busy := true } := by
  unfold requestLoad pairBusy
  rw [h1, h2, h3, h4, if_neg (by decide), if_neg (by decide)]

/-! ### The package's checks -/

/-- Of the state, the checks of a package leave all but the check units and the error block. -/
structure ChecksOnly (s v : State) : Prop where
  sp : v.sp = s.sp
  hif : v.hif = s.hif
  dp : v.dp = s.dp
  fwr : v.fwr = s.fwr

theorem sectionsOk_keeps (l : List (List Byte × W32)) (s : State) (i : Nat) : ChecksOnly s (sectionsOk s i l).2 := by
  induction l generalizing s i with
  | nil => exact ⟨rfl, rfl, rfl, rfl⟩
  | cons x l ih =>
    unfold sectionsOk
    dsimp only
    split
    · obtain ⟨h1, h2, h3, h4⟩ := ih (formCheck s 3 1 false (BitVec.ofNat 32 i) x.1).2 (i + 1)
      exact ⟨h1, h2, h3, h4⟩
    · exact ⟨rfl, rfl, rfl, rfl⟩

theorem checkPackage_keeps (s : State) (p : Package) : ChecksOnly s (checkPackage s p).2 := by
  have hs := sectionsOk_keeps p.sections s 0
  unfold checkPackage
  split
  · exact ⟨rfl, rfl, rfl, rfl⟩
  dsimp only
  generalize (sectionsOk s 0 p.sections).2 = v at *
  split
  · exact hs
  split
  · exact hs
  split
  · exact hs
  split
  · exact hs
  split
  · next r _ =>
    have hrec := recordReport_err_only (s := v) (r := deviceReport 14 5 2 (BitVec.ofNat 32 r) 2) (show (14 : BitVec 4) ≠ 6 by decide)
    dsimp only
    rw [takeReport_device (show (14 : BitVec 4) ≠ 1 by decide)]
    obtain ⟨h1, h2, h3, h4⟩ := hs
    exact ⟨(congrArg State.sp hrec :).trans h1, (congrArg State.hif hrec :).trans h2, (congrArg State.dp hrec :).trans h3, (congrArg State.fwr hrec :).trans h4⟩
  · exact hs

theorem failed_status (l : FwrLdr) (f : LoadFail) : (l.failed f).status = f.status.zeroExtend 8 ∧ (l.failed f).reason = BitVec.ofNat 8 f.reason ∧ (l.failed f).busy = false := by
  unfold FwrLdr.failed
  dsimp only
  split <;> exact ⟨rfl, rfl, rfl⟩

/-- R220: everything scrubbed, and no engine holds anything. -/
theorem scrubAll_core (s : State) (c : BitVec 3) : coreOf (scrubAll s) c = (coreOf s c).ungate := Vector.getElem_map _ _

theorem packageCheck_of {p : Package} {j : LoadJob} (hl : s.sp.load = some j) (hp : j.passed = none) (hs : spServes s = true) :
    packageCheck s p = match (checkPackage s p).1 with
      | none => if ownerChanges (checkPackage s p).2 (ownerOf p)
        then scrubAll { (checkPackage s p).2 with sp := { (checkPackage s p).2.sp with load := some { j with passed := some p } } }
        else { (checkPackage s p).2 with sp := { (checkPackage s p).2.sp with load := some { j with passed := some p } } }
      | some f => complete (setLdr { (checkPackage s p).2 with sp := { (checkPackage s p).2.sp with load := none } }
          { (checkPackage s p).2.fwr.ldr.failed f with pkgId := p.pkgId, cores := BitVec.ofNat 4 p.cores }) j.sq 3 j.tag j.seq f.status f.reason 0xFFFF := by
  unfold packageCheck
  rw [hl]
  dsimp only
  rw [hp, hs, if_neg (by decide)]
  rfl

/-- R262: the checks of a package. -/
theorem exec_packageCheck {p : Package} {j : LoadJob} (hl : s.sp.load = some j) (hp : j.passed = none) (hs : spServes s = true) :
    ∃ t, exec (.packageCheck p) s = .next t ∧ t.sp.task = s.sp.task ∧
      ((checkPackage s p).1 = none → t.sp.load = some { j with passed := some p } ∧ t.hif = s.hif ∧ t.fwr = s.fwr ∧
        (ownerChanges s (ownerOf p) = false → t.dp = s.dp) ∧
        (ownerChanges s (ownerOf p) = true → t.dp.dev = [] ∧ t.dp.ecc = [] ∧ t.sp.scrub = 0x20000 ∧
          (∀ c, (coreOf t c).ve.regs = [] ∧ (coreOf t c).se.buf = [] ∧ (coreOf t c).me.ib = [] ∧ (coreOf t c).me.wh = [] ∧ (coreOf t c).me.tb = [])) ) ∧
      (∀ f, (checkPackage s p).1 = some f → t.sp.load = none ∧ t.dp.dev = s.dp.dev ∧
        t.fwr.ldr = { s.fwr.ldr.failed f with pkgId := p.pkgId, cores := BitVec.ofNat 4 p.cores } ∧
        t.fwr.ldr.status = f.status.zeroExtend 8 ∧ t.fwr.ldr.reason = BitVec.ofNat 8 f.reason ∧ t.fwr.ldr.busy = false ∧
        t.hif = recorded s.hif j.sq (completionBytes (f.status.zeroExtend 8) 3 0 true j.sq j.tag j.seq (reasonBits f.reason 0xFFFF) 0) false) := by
  refine ⟨packageCheck s p, rfl, ?_⟩
  obtain ⟨h1, h2, h3, h4⟩ := checkPackage_keeps s p
  rw [packageCheck_of hl hp hs]
  generalize (checkPackage s p).2 = v at *
  have how : ownerChanges v (ownerOf p) = ownerChanges s (ownerOf p) := by
    unfold ownerChanges
    rw [h1]
  cases hc : (checkPackage s p).1 with
  | none =>
    dsimp only
    rw [how]
    cases ho : ownerChanges s (ownerOf p) with
    | false =>
      rw [if_neg Bool.false_ne_true]
      exact ⟨(congrArg Sp.task h1 :), fun _ => ⟨rfl, h2, h4, fun _ => h3, fun h => absurd h Bool.false_ne_true⟩, fun f h => absurd h (by simp)⟩
    | true =>
      rw [if_pos rfl]
      refine ⟨(congrArg Sp.task h1 :), fun _ => ⟨rfl, h2, h4, fun h => absurd h (by simp), fun _ => ⟨rfl, rfl, rfl, fun c => ?_⟩⟩, fun f h => absurd h (by simp)⟩
      rw [scrubAll_core]
      exact ⟨rfl, rfl, rfl, rfl, rfl⟩
  | some f =>
    dsimp only
    refine ⟨(congrArg Sp.task h1 :), fun h => absurd h (by simp), fun g hg => ?_⟩
    obtain rfl : f = g := Option.some.inj hg
    obtain ⟨g1, g2, g3⟩ := failed_status v.fwr.ldr f
    rw [h4] at g1 g2 g3
    refine ⟨rfl, (congrArg Dp.dev h3 :), ?_, ?_, ?_, ?_, ?_⟩
    · rw [← h4]
      rfl
    · rw [← g1, ← h4]
      rfl
    · rw [← g2, ← h4]
      rfl
    · rw [← g3, ← h4]
      rfl
    · rw [← h2]
      rfl

/-! ### The fill -/

/-- A fold that changes one core after another. -/
theorem foldl_eachCore {g : Dp → BitVec 3 → Dp} {F : BitVec 3 → Core → Core}
    (hg : ∀ d c k, vget (g d c).cores k = if k = c then F c (vget d.cores c) else vget d.cores k) (l : List (BitVec 3)) (hl : l.Nodup) (d : Dp) (k : BitVec 3) :
    vget (l.foldl g d).cores k = if k ∈ l then F k (vget d.cores k) else vget d.cores k := by
  induction l generalizing d with
  | nil => rfl
  | cons c l ih =>
    rw [List.nodup_cons] at hl
    obtain ⟨hc, hl⟩ := hl
    rw [List.foldl_cons, ih hl, hg]
    by_cases hk : k = c
    · subst hk
      rw [if_neg hc, if_pos rfl, if_pos (by simp)]
    · rw [if_neg hk]
      exact if_congr (by simp [hk]) rfl rfl

theorem vget_table8 {α : Type} (d : α) (l : List α) (k : BitVec 3) : vget (table8 d l) k = l.getD k.toNat d := by
  have hf : ∀ (r : List Nat) (v : Vector α (2 ^ 3)), (∀ i ∈ r, i < 8) → vget (r.foldl (fun v i => vset v (BitVec.ofNat 3 i) (l.getD i d)) v) k =
      if k.toNat ∈ r then l.getD k.toNat d else vget v k := by
    intro r
    induction r with
    | nil => exact fun _ _ => rfl
    | cons i r ih =>
      intro v hi
      rw [List.foldl_cons, ih _ (fun j hj => hi j (by simp [hj])), vget_vset]
      have hi8 := hi i (by simp)
      by_cases hk : k = BitVec.ofNat 3 i
      · have hki : k.toNat = i := by
          rw [hk, BitVec.toNat_ofNat]
          omega
        rw [if_pos hk, hki]
        simp
      · have hki : k.toNat ≠ i := fun e => hk (by rw [← e]; simp)
        rw [if_neg hk]
        exact if_congr (by simp [hki]) rfl rfl
  unfold table8
  rw [hf _ _ (fun i hi => List.mem_range.1 hi), if_pos (List.mem_range.2 k.isLt)]

/-- A core's change by the loader: filled from its plan, or left unused. -/
def fillWith (s : State) (p : Package) (c : BitVec 3) (y : Core) : Core :=
  match p.plans[c.toNat]? with
  | some x => y.fill x
  | none => if corePresent s c then { y with cm := y.cm.unused } else y

theorem fillCore_core (s : State) (p : Package) (d : Dp) (c k : BitVec 3) :
    vget (fillCore s p d c).cores k = if k = c then fillWith s p c (vget d.cores c) else vget d.cores k := by
  unfold fillCore fillWith
  cases hp : p.plans[c.toNat]? with
  | some x =>
    simp only [hp]
    exact vget_vset _ _ _ _
  | none =>
    simp only [hp]
    by_cases hc : corePresent s c = true
    · simp only [if_pos hc]
      exact vget_vset _ _ _ _
    · simp only [if_neg hc]
      split
      · next h => rw [h]
      · rfl

theorem fillCores_dp (s : State) (p : Package) (l : List (BitVec 3)) (d : Dp) : { l.foldl (fillCore s p) d with cores := d.cores } = d := by
  induction l generalizing d with
  | nil => rfl
  | cons c l ih =>
    have hc : { fillCore s p d c with cores := d.cores } = d := by
      unfold fillCore
      split
      · rfl
      · split <;> rfl
    exact (congrArg (fun e : Dp => { e with cores := d.cores }) (ih (fillCore s p d c)) :).trans hc

/-- Of a core, locking rows into its cache leaves all but the lines. -/
theorem lockCore_core (p : Package) (d : Dp) (c k : BitVec 3) :
    ∃ f, vget (lockCore p d c).cores k = { vget d.cores k with cm := { (vget d.cores k).cm with locked := f } } := by
  unfold lockCore
  split
  · exact ⟨_, rfl⟩
  · have hv : vget (d.modCore c (fun y => { y with cm := { y.cm with locked := (lockRows p).map (fun r => (r, rowData d r)) } })).cores k =
        if k = c then _ else _ := vget_vset _ _ _ _
    rw [hv]
    split
    · next h =>
      rw [h]
      exact ⟨_, rfl⟩
    · exact ⟨_, rfl⟩

theorem lockCores_core (p : Package) (l : List (BitVec 3)) (d : Dp) (k : BitVec 3) :
    ∃ f, vget (l.foldl (lockCore p) d).cores k = { vget d.cores k with cm := { (vget d.cores k).cm with locked := f } } := by
  induction l generalizing d with
  | nil => exact ⟨_, rfl⟩
  | cons c l ih =>
    obtain ⟨f, hf⟩ := ih (lockCore p d c)
    obtain ⟨e, he⟩ := lockCore_core p d c k
    rw [List.foldl_cons, hf, he]
    exact ⟨f, rfl⟩

theorem lockCores_dp (p : Package) (l : List (BitVec 3)) (d : Dp) : { l.foldl (lockCore p) d with cores := d.cores } = d := by
  induction l generalizing d with
  | nil => rfl
  | cons c l ih =>
    have hc : { lockCore p d c with cores := d.cores } = d := by
      unfold lockCore
      split <;> rfl
    exact (congrArg (fun e : Dp => { e with cores := d.cores }) (ih (lockCore p d c)) :).trans hc

/-- The device row that the SP writes for a row of a list. -/
def landedRow (row : Nat) : Nat := if isOrchard row then row else coreRow (rowCore row) (row % 0x4000)

theorem landedRow_of_lt {row : Nat} (h : row < 0x40000) : landedRow row = row := by
  unfold landedRow isOrchard
  split
  · rfl
  · next ho => exact coreRow_rowCore (by simpa using ho) h

/-- Rows that the SP writes with no report all land. -/
theorem spWrites_landed {d : Dp} {l : List (Nat × List Byte)} (h : (spWrites d l).2 = []) :
    { (spWrites d l).1 with cores := d.cores } = { writeRows (spOpened d) (l.map (fun x => (landedRow x.1, x.2))) with cores := d.cores } ∧
      ∀ k, vget (spWrites d l).1.cores k = vget d.cores k := by
  have hfold : ∀ (l : List (Nat × List Byte)) (e : Dp) (a : List Report),
      (l.foldl (fun (a : Dp × List Report) x => if isOrchard x.1 then (writeRow a.1 x.1 x.2, a.2)
        else
          let y := landRow a.1 (rowCore x.1) ⟨.sp, some (x.1 % 0x4000), x.2, none⟩
          (y.1, a.2 ++ y.2)) (e, a)).2 = [] → a = [] ∧ l.foldl (fun (a : Dp × List Report) x => if isOrchard x.1 then (writeRow a.1 x.1 x.2, a.2)
        else
          let y := landRow a.1 (rowCore x.1) ⟨.sp, some (x.1 % 0x4000), x.2, none⟩
          (y.1, a.2 ++ y.2)) (e, a) = (writeRows e (l.map (fun x => (landedRow x.1, x.2))), []) := by
    intro l
    induction l with
    | nil => exact fun e a h => ⟨h, by rw [List.foldl_nil, show a = [] from h]; rfl⟩
    | cons x l ih =>
      intro e a h
      rw [List.foldl_cons] at h ⊢
      by_cases ho : isOrchard x.1 = true
      · rw [if_pos ho] at h ⊢
        obtain ⟨ha, hr⟩ := ih _ _ h
        refine ⟨ha, hr.trans ?_⟩
        rw [List.map_cons, show landedRow x.1 = x.1 from if_pos ho]
        rfl
      · rw [if_neg ho] at h ⊢
        obtain ⟨ha, hr⟩ := ih _ _ h
        obtain ⟨ha, hy⟩ := List.append_eq_nil_iff.1 ha
        refine ⟨ha, hr.trans ?_⟩
        rw [List.map_cons, show landedRow x.1 = coreRow (rowCore x.1) (x.1 % 0x4000) from if_neg ho]
        cases had : rowAdmitted e (rowCore x.1) .sp (x.1 % 0x4000) with
        | true =>
          dsimp only
          rw [landRow_admitted rfl had]
          rfl
        | false =>
          rw [landRow_discarded rfl had] at hy
          exact absurd hy (List.cons_ne_nil _ _)
  have hw : (writeRows (spOpened d) (l.map (fun x => (landedRow x.1, x.2)))).cores = (spOpened d).cores :=
    (congrArg Dp.cores (writeRows_frame (spOpened d) (l.map (fun x => (landedRow x.1, x.2)))) :)
  unfold spWrites at h ⊢
  dsimp only at h ⊢
  have hf := (hfold l (spOpened d) [] h).2
  generalize hr : List.foldl _ _ l = r
  obtain rfl := hr.symm.trans hf
  refine ⟨rfl, fun k => ?_⟩
  dsimp only
  rw [hw]
  unfold vget spOpened
  simp

/-- A row written more than once with the same data holds it. -/
theorem rowData_writeRows_agree {d : Dp} (h : memWf d.dev) (l : List (Nat × List Byte)) (x : Nat × List Byte) (hx : x ∈ l)
    (ha : ∀ y ∈ l, y.1 = x.1 → y.2 = x.2) : rowData (writeRows d l) x.1 = padTo 512 x.2 := by
  have hwf : ∀ (l : List (Nat × List Byte)) (d : Dp), memWf d.dev → memWf (writeRows d l).dev := by
    intro l
    induction l with
    | nil => exact fun _ hd => hd
    | cons y l ih => exact fun d hd => ih _ (memWf_writeRow hd _ _)
  induction l using List.reverseRecOn with
  | nil => exact absurd hx List.not_mem_nil
  | append_singleton l y ih =>
    have hs : writeRows d (l ++ [y]) = writeRow (writeRows d l) y.1 y.2 := by
      unfold writeRows
      rw [List.foldl_append]
      rfl
    rw [hs]
    by_cases hy : y.1 = x.1
    · rw [← hy, ← ha y (by simp) hy]
      exact rowData_writeRow (hwf l d h) _ _
    · rw [rowData_writeRow_ne (hwf l d h) _ _ _ (Ne.symm hy)]
      refine ih ((List.mem_append.1 hx).resolve_right (fun h1 => hy ?_)) (fun z hz => ha z (by simp [hz]))
      rw [List.mem_singleton.1 h1]

/-- The tables of the Orchard and of the device's flags before the cores are filled. -/
def tabledDp (d : Dp) (p : Package) : Dp := { d with org := regionTable 32 p.orRegions, dflg := p.dflgInit, dflgInit := p.dflgInit }

/-- The rows the fill writes, as they land. -/
def landedRows (p : Package) : List (Nat × List Byte) := (fillRows p).map (fun x => (landedRow x.1, x.2))

/-- What a fill with no report leaves of the datapath. -/
structure Filled (s : State) (p : Package) (d : Dp) : Prop where
  frame : { d with cores := s.dp.cores, dev := s.dp.dev, ecc := s.dp.ecc, wcls := s.dp.wcls } = tabledDp s.dp p
  dev : ∃ e : Dp, e.dev = s.dp.dev ∧ d.dev = (writeRows e (landedRows p)).dev
  core : ∀ k, ∃ f, vget d.cores k = { fillWith s p k (vget s.dp.cores k) with cm := { (fillWith s p k (vget s.dp.cores k)).cm with locked := f } }

theorem fillDp_filled {p : Package} (h : (fillDp s p).2 = []) : Filled s p (fillDp s p).1 := by
  have h1 := fillCores_dp s p allCores (tabledDp s.dp p)
  have hc1 := foldl_eachCore (fillCore_core s p) allCores (by decide) (tabledDp s.dp p)
  have hd : fillDp s p = (allCores.foldl (lockCore p) (spWrites (allCores.foldl (fillCore s p) (tabledDp s.dp p)) (fillRows p)).1,
    (spWrites (allCores.foldl (fillCore s p) (tabledDp s.dp p)) (fillRows p)).2) := rfl
  rw [hd] at h ⊢
  generalize allCores.foldl (fillCore s p) (tabledDp s.dp p) = e at *
  have hrep : (spWrites e (fillRows p)).2 = [] := h
  obtain ⟨h2, hc2⟩ := spWrites_landed hrep
  have hw := writeRows_frame (spOpened e) ((fillRows p).map (fun x => (landedRow x.1, x.2)))
  have h3 := lockCores_dp p allCores (spWrites e (fillRows p)).1
  have hc3 := lockCores_core p allCores (spWrites e (fillRows p)).1
  dsimp only
  generalize (spWrites e (fillRows p)).1 = v at *
  generalize List.foldl (lockCore p) v allCores = w at *
  refine ⟨?_, ⟨spOpened e, ?_, ?_⟩, fun k => ?_⟩
  · have e1 : { w with cores := s.dp.cores, dev := s.dp.dev, ecc := s.dp.ecc, wcls := s.dp.wcls } =
        { v with cores := s.dp.cores, dev := s.dp.dev, ecc := s.dp.ecc, wcls := s.dp.wcls } :=
      (congrArg (fun d : Dp => { d with cores := s.dp.cores, dev := s.dp.dev, ecc := s.dp.ecc, wcls := s.dp.wcls }) h3 :)
    have e2 : { v with cores := s.dp.cores, dev := s.dp.dev, ecc := s.dp.ecc, wcls := s.dp.wcls } =
        { writeRows (spOpened e) ((fillRows p).map (fun x => (landedRow x.1, x.2))) with
          cores := s.dp.cores, dev := s.dp.dev, ecc := s.dp.ecc, wcls := s.dp.wcls } :=
      (congrArg (fun d : Dp => { d with cores := s.dp.cores, dev := s.dp.dev, ecc := s.dp.ecc, wcls := s.dp.wcls }) h2 :)
    have e3 : { writeRows (spOpened e) ((fillRows p).map (fun x => (landedRow x.1, x.2))) with
          cores := s.dp.cores, dev := s.dp.dev, ecc := s.dp.ecc, wcls := s.dp.wcls } =
        { e with cores := s.dp.cores, dev := s.dp.dev, ecc := s.dp.ecc, wcls := s.dp.wcls } :=
      (congrArg (fun d : Dp => { d with cores := s.dp.cores, dev := s.dp.dev, ecc := s.dp.ecc, wcls := s.dp.wcls }) hw :)
    have e4 : { e with cores := s.dp.cores, dev := s.dp.dev, ecc := s.dp.ecc, wcls := s.dp.wcls } = tabledDp s.dp p :=
      (congrArg (fun d : Dp => { d with cores := s.dp.cores, dev := s.dp.dev, ecc := s.dp.ecc, wcls := s.dp.wcls }) h1 :)
    exact e1.trans (e2.trans (e3.trans e4))
  · exact (congrArg Dp.dev h1 :)
  · exact (congrArg Dp.dev h3 :).trans (congrArg Dp.dev h2 :)
  · obtain ⟨f, hf⟩ := hc3 k
    rw [hc2, hc1, if_pos (mem_allCores k)] at hf
    exact ⟨f, hf⟩

/-- What a core takes from its plan. -/
theorem fill_core (y : Core) (x : CorePlan) (f : List (Nat × List Byte)) : ({ y.fill x with cm := { (y.fill x).cm with locked := f } } : Core).flg = x.flgInit ∧
    (y.fill x).cmp = x.cmpInit ∧ (∀ k, vget (y.fill x).k k = x.kInit.getD k.toNat 0) ∧ (y.fill x).fmts = x.fmts ∧
    (y.fill x).masks = x.masks.map (fun e => (e.1, maskOfBytes e.2)) ∧ (y.fill x).cm.base = x.cmBase.toNat ∧ (y.fill x).cm.rows = x.cmRows.toNat ∧
    (y.fill x).queues = y.queues := ⟨rfl, rfl, fun k => vget_table8 _ _ k, rfl, rfl, rfl, rfl, rfl⟩

/-- The resources that a package claims change the error block only. -/
theorem moveOwn_if (b : Bool) (s : State) (r : BitVec 2) : ∃ e, (if b then moveOwn s r false true else s) = { s with err := e } := by
  cases b
  · exact ⟨s.err, rfl⟩
  · exact ⟨_, rfl⟩

/-- The power plan's fit changes the meters and the power block, not its gating. -/
theorem ppFit_meters (s : State) : ∃ m w, ppFit s = { s with dp := { s.dp with meters := m }, pwr := w } ∧ w.corePg = s.pwr.corePg := by
  unfold ppFit
  dsimp only
  split
  · exact ⟨s.dp.meters, _, rfl, rfl⟩
  · exact ⟨_, _, rfl, rfl⟩

/-- The task's registers as the loader leaves them. -/
def filledRegs (s : State) (j : LoadJob) (p : Package) : State := { s with
  sp := { s.sp with task := some { pkg := runPackage s p, addr := j.addr, owner := ownerOf p, journal := s.err.jrnlEn }, load := none, lastOwner := some (ownerOf p) }
  tkc := { s.tkc with cuReserve := p.cuReserve }
  hif := { s.hif with outRecsz := BitVec.ofNat 12 (recordSize p) }
  fwr := { s.fwr with
    ldr := s.fwr.ldr.loaded p
    spec := { s.fwr.spec with bloomRows := BitVec.ofNat 16 (bloomRows (runPackage s p)), bloomLayers := BitVec.ofNat 8 (runPackage s p).bloomLayers }
    smpSz := BitVec.ofNat 10 p.smpBytes }
  pwr := { s.pwr with corePg := gatedCores p, ecomp := p.eComp }
  sec := { s.sec with pkgMeas := p.measure, pkgOwner := ownerOf p } }

theorem fillRegs_of (s : State) (j : LoadJob) (p : Package) : ∃ e m w, fillRegs s j p =
    { filledRegs s j p with err := e, dp := { s.dp with meters := m }, pwr := w } ∧ w.corePg = gatedCores p := by
  obtain ⟨e1, h1⟩ := moveOwn_if (claimsSin p) (filledRegs s j p) 1
  obtain ⟨e2, h2⟩ := moveOwn_if (claimsL3 p) { filledRegs s j p with err := e1 } 3
  obtain ⟨m, w, h3, h4⟩ := ppFit_meters { filledRegs s j p with err := e2 }
  refine ⟨e2, m, w, ?_, h4⟩
  have hf : fillRegs s j p = ppFit (if claimsL3 p then moveOwn (if claimsSin p then moveOwn (filledRegs s j p) 1 false true else filledRegs s j p) 3 false true
    else (if claimsSin p then moveOwn (filledRegs s j p) 1 false true else filledRegs s j p)) := rfl
  rw [hf, h1, h2]
  exact h3

theorem frozen_of_clock (h : clockRuns s = true) : frozen s = false := by
  unfold clockRuns at h
  simpa using (Bool.and_eq_true_iff.1 h).2

theorem loaderFill_of {j : LoadJob} {p : Package} (hl : s.sp.load = some { j with passed := some p }) (hr : s.tkc.run = false) (ha : s.tkc.active = false)
    (hs : spServes s = true) (hsc : s.sp.scrub = 0) (hcm : s.sp.cmScrub = 0) (hw : scrubWait s sloeRows = 0) (hc : clockRuns s = true)
    (hf : (fillDp s p).2 = []) :
    loaderFill s = complete (fillRegs { s with dp := (fillDp s p).1 } { j with passed := some p } p) j.sq 3 j.tag j.seq 0 0 0xFFFF := by
  have hreach : mayReach s 0 = true := by
    unfold mayReach mayPass
    rw [hc, Bool.true_and, Bool.and_eq_true]
    constructor
    · split <;> simp
    · split <;> simp
  unfold loaderFill
  rw [hl]
  dsimp only
  rw [hr, ha, hs, if_neg (by decide), hsc, hcm, hw, if_neg (by simpa using hreach)]
  simp only [Nat.zero_add, Nat.reduceDiv, Nat.max_self, pass_zero]
  rw [frozen_of_clock hc, if_neg Bool.false_ne_true, hf]
  rfl

/-- What the loader leaves of a core that its package plans. -/
def TakesPlan (x : CorePlan) (o y : Core) : Prop := y.flg = x.flgInit ∧ y.cmp = x.cmpInit ∧ (∀ k, vget y.k k = x.kInit.getD k.toNat 0) ∧ y.fmts = x.fmts ∧
  y.masks = x.masks.map (fun e => (e.1, maskOfBytes e.2)) ∧ y.cm.base = x.cmBase.toNat ∧ y.cm.rows = x.cmRows.toNat ∧ y.queues = o.queues

theorem takesPlan_locked {x : CorePlan} {o y : Core} (h : TakesPlan x o y) (f : List (Nat × List Byte)) :
    TakesPlan x o { y with cm := { y.cm with locked := f } } := h

/-- R263: the fill of a package that has passed, with no scrub to wait for. -/
theorem exec_loaderFill {j : LoadJob} {p : Package} (hl : s.sp.load = some { j with passed := some p }) (hr : s.tkc.run = false) (ha : s.tkc.active = false)
    (hs : spServes s = true) (hsc : s.sp.scrub = 0) (hcm : s.sp.cmScrub = 0) (hw : scrubWait s sloeRows = 0) (hc : clockRuns s = true)
    (hf : (fillDp s p).2 = []) :
    ∃ t, exec .loaderFill s = .next t ∧ t.sp.task = some { pkg := runPackage s p, addr := j.addr, owner := ownerOf p, journal := s.err.jrnlEn } ∧
      t.sp.load = none ∧ t.sp.lastOwner = some (ownerOf p) ∧ t.fwr.ldr.status = 0 ∧ t.fwr.ldr.busy = false ∧
      t.fwr.ldr.pkgId = p.pkgId ∧ t.pwr.corePg = gatedCores p ∧ t.sec.pkgMeas = p.measure ∧ t.dp.dflg = p.dflgInit ∧ t.dp.org = regionTable 32 p.orRegions ∧
      t.hif.cqs = (recorded s.hif j.sq (completionBytes 0 3 0 true j.sq j.tag j.seq (reasonBits 0 0xFFFF) 0) false).cqs ∧
      (∀ (c : BitVec 3) (x : CorePlan), p.plans[c.toNat]? = some x → TakesPlan x (coreOf s c) (coreOf t c)) ∧
      (memWf s.dp.dev → (∀ y ∈ fillRows p, y.1 < 0x40000) → otherRowsKept s t ((fillRows p).map (fun y => y.1)) ∧
        ∀ x ∈ fillRows p, (∀ y ∈ fillRows p, y.1 = x.1 → y.2 = x.2) → memSlice t.dp.dev (512 * x.1) 512 = padTo 512 x.2) := by
  have he := loaderFill_of hl hr ha hs hsc hcm hw hc hf
  obtain ⟨e, m, w, hregs, hpg⟩ := fillRegs_of { s with dp := (fillDp s p).1 } { j with passed := some p } p
  rw [hregs] at he
  obtain ⟨hframe, ⟨d, hd, hdev⟩, hcore⟩ := fillDp_filled hf
  generalize (fillDp s p).1 = v at *
  refine ⟨_, (show exec .loaderFill s = .next (loaderFill s) from rfl).trans (congrArg Host.Outcome.next he), rfl, rfl, rfl, rfl, rfl, rfl, hpg, rfl,
    (congrArg Dp.dflg hframe :), (congrArg Dp.org hframe :), rfl, fun c x hx => ?_, fun hwf hlt => ?_⟩
  · obtain ⟨f, hcf⟩ := hcore c
    have hfill : fillWith s p c (vget s.dp.cores c) = (vget s.dp.cores c).fill x := by
      unfold fillWith
      rw [hx]
    have ht : TakesPlan x (coreOf s c) (vget v.cores c) := by
      rw [hcf, hfill]
      exact takesPlan_locked ⟨rfl, rfl, fun k => vget_table8 _ _ k, rfl, rfl, rfl, rfl, rfl⟩ f
    exact ht
  · have hrows : landedRows p = fillRows p := by
      unfold landedRows
      rw [List.map_congr_left (g := id) (fun x hx => by rw [landedRow_of_lt (hlt x hx)]; rfl), List.map_id]
    rw [hrows] at hdev
    constructor
    · intro a ha
      refine (congrArg (fun m => memRead m a) hdev :).trans ?_
      rw [memRead_writeRows _ _ _ (fun x hx => ha _ (List.mem_map_of_mem hx)), hd]
    · intro x hx hag
      have hrd := rowData_writeRows_agree (d := d) (by rw [hd]; exact hwf) (fillRows p) x hx hag
      refine (congrArg (fun m => memSlice m (512 * x.1) 512) hdev :).trans ?_
      unfold rowData rowBytes at hrd
      rw [Nat.mul_comm 512]
      exact hrd

/-! ### The end of a task -/

theorem leaveOwn_eq (s : State) (r : BitVec 2) (b : Bool) : leaveOwn s r b = { s with err := (leaveOwn s r b).err } := by
  unfold leaveOwn
  split <;> rfl

/-- What spans of rows read once they are scrubbed. -/
theorem memRead_scrubbed (l : List (Nat × Nat)) (d : Dp) (a : Nat) : memRead (l.foldl scrubSpan d).dev a =
    if ∃ x ∈ l, inRows (a / 512) x.1 x.2 = true then 0 else memRead d.dev a := by
  induction l generalizing d with
  | nil => simp
  | cons x l ih =>
    have hx : memRead (scrubSpan d x).dev a = if inRows (a / 512) x.1 x.2 = true then 0 else memRead d.dev a := by
      refine (memRead_memZero _ _ _ _).trans (if_congr ?_ rfl rfl)
      unfold inRows rowBytes
      rw [Bool.and_eq_true, decide_eq_true_iff, decide_eq_true_iff]
      omega
    rw [List.foldl_cons, ih, hx]
    by_cases h : ∃ y ∈ l, inRows (a / 512) y.1 y.2 = true
    · obtain ⟨y, hy, hin⟩ := h
      rw [if_pos ⟨y, hy, hin⟩, if_pos ⟨y, by simp [hy], hin⟩]
    · rw [if_neg h]
      refine if_congr ⟨fun hin => ⟨x, by simp, hin⟩, ?_⟩ rfl rfl
      rintro ⟨y, hy, hin⟩
      rcases List.mem_cons.1 hy with rfl | hy
      · exact hin
      · exact absurd ⟨y, hy, hin⟩ h

/-- The spans that the end of a task scrubs. -/
def taskSpans (s : State) : List (Nat × Nat) :=
  orchScrubRows s.dp ++ (allCores.filter (taskCore s)).flatMap (fun c => coreScrubRows (coreOf s c).cm c)

theorem taskSpans_eq (s : State) : orchScrubRows s.dp ++ allCores.flatMap (fun c => if taskCore s c then coreScrubRows (vget s.dp.cores c).cm c else []) = taskSpans s := by
  unfold taskSpans
  congr 1
  induction allCores with
  | nil => rfl
  | cons c l ih =>
    rw [List.flatMap_cons, ih, List.filter_cons]
    by_cases h : taskCore s c = true
    · rw [if_pos h, if_pos h, List.flatMap_cons]
    · rw [if_neg h, if_neg h]
      rfl

theorem scrubTask_dp (s : State) : (scrubTask s).dp = (taskSpans s).foldl scrubSpan s.dp := by
  rw [← taskSpans_eq]
  rfl

/-- R219, R298: what the end of a task leaves. -/
structure TaskEnded (s v : State) : Prop where
  task : v.sp.task = none
  streams : v.sp.streams = []
  groups : v.sp.groups = []
  gated : v.pwr.corePg = 0xFF
  owner : v.sec.pkgOwner = 0xFF
  hif : v.hif = s.hif
  cores : ∀ c, (coreOf v c).run = .idle ∧ ∀ q, (vget (coreOf v c).queues q).cmds = []
  scrub : v.sp.scrub = s.sp.scrub + ((orchScrubRows (settleData s).dp).map (fun x => x.2)).sum
  mem : ∀ a, memRead v.dp.dev a = if ∃ x ∈ taskSpans (settleData s), inRows (a / 512) x.1 x.2 = true then 0 else memRead (settleData s).dp.dev a

theorem endTask_ended (s : State) : TaskEnded s (endTask s) := by
  have hdp := scrubTask_dp (settleData s)
  have hmem := memRead_scrubbed (taskSpans (settleData s)) (settleData s).dp
  have hsp : (scrubTask (settleData s)).sp.scrub = s.sp.scrub + ((orchScrubRows (settleData s).dp).map (fun x => x.2)).sum := rfl
  have hh : (scrubTask (settleData s)).hif = s.hif := rfl
  rw [← hdp] at hmem
  unfold endTask
  dsimp only
  generalize scrubTask (settleData s) = v at *
  rw [leaveOwn_eq, leaveOwn_eq]
  refine ⟨rfl, rfl, rfl, rfl, rfl, hh, fun c => ?_, hsp, hmem⟩
  have hc : vget (v.dp.cores.map Core.clearTask) c = (vget v.dp.cores c).clearTask := Vector.getElem_map _ _
  refine ⟨(congrArg Core.run hc :), fun q => ?_⟩
  have hq : vget ((vget v.dp.cores c).queues.map EngQ.empty) q = (vget (vget v.dp.cores c).queues q).empty := Vector.getElem_map _ _
  exact ((congrArg (fun y : Core => (vget y.queues q).cmds) hc :)).trans (congrArg EngQ.cmds hq :)

theorem unloadTask_of {d : BareDesc} {q : W64} (h1 : s.twn.state = .unpaired) (h2 : s.sp.task ≠ none) (h3 : s.tkc.run = false) (h4 : s.tkc.active = false) :
    unloadTask s d q = complete (endTask s) d.sq 4 d.tag q 0 0 0xFFFF := by
  unfold unloadTask pairBusy
  rw [h1, h3, h4, if_neg]
  simpa using h2

/-- R219, R298: UNLOAD. -/
theorem exec_unload {d : BareDesc} (h : descReady s d.sq (bodyBytes 4 d.rsv d.tag d.body) d.crc) (hok : bareOk d = true) (h1 : s.twn.state = .unpaired)
    (h2 : s.sp.task ≠ none) (h3 : s.tkc.run = false) (h4 : s.tkc.active = false) :
    ∃ v x, exec (.unload d) s = .next { v with hif := served s.hif d.sq 4 d.tag 0 0 0xFFFF } ∧ TaskEnded (takenState s d.sq x) v := by
  obtain ⟨x, hx⟩ := takeDesc_passes (type := 4) (tag := d.tag) h hok (fun s q => unloadTask s d q)
  rw [unloadTask_of (s := takenState s d.sq x) h1 h2 h3 h4] at hx
  have hend := endTask_ended (takenState s d.sq x)
  refine ⟨endTask (takenState s d.sq x), x, (congrArg Host.Outcome.next hx).trans ?_, hend⟩
  rw [complete_eq, hend.hif]
  rfl

/-- A reserved operation of TYPE 2 is refused. -/
theorem exec_reservedOp {d : BareDesc} (hop : ¬(1 ≤ (stateOfBody d).1.toNat ∧ (stateOfBody d).1.toNat ≤ 8))
    (h : descReady s d.sq (stateBytes (stateOfBody d).1 (stateOfBody d).2) d.crc) (hr : d.rsv = 0) (hu : s.twn.state = .unpaired) :
    ∃ t, exec (.reservedTypeDescriptor 2 d) s = .next t ∧ t.sp = s.sp ∧ t.dp = s.dp ∧ t.hif = served s.hif d.sq 2 d.tag 8 0xC (stateOfBody d).2.stream ∧
      t.fwr.stm = { s.fwr.stm with refStatus := 8, refReason := 0xC, refId := (stateOfBody d).2.stream } := by
  have hx : exec (.reservedTypeDescriptor 2 d) s = .next (runStateDesc s (stateOfBody d).1 (stateOfBody d).2) :=
    congrArg Host.Outcome.next (if_pos ⟨rfl, hop⟩)
  have hact : ∀ v t, actOf (stateOfBody d).1 v (stateOfBody d).2 t = .refuse 8 0xC := by
    intro v t
    unfold actOf
    split
    · rfl
    · split
      all_goals first | rfl | exact absurd ⟨by omega, by omega⟩ hop
  obtain ⟨x, hy⟩ := runStateDesc_ready (d := (stateOfBody d).2) h hr hu (fun x => hact _ _) (fun _ => trivial)
  exact ⟨_, hx.trans (congrArg Host.Outcome.next hy), rfl, rfl, rfl, rfl⟩

/-- Settles O42: each command is computed on the state in which its descriptor is taken. -/
theorem loadCommands : Obligations.LoadCommands := by
  unfold Obligations.LoadCommands
  refine ⟨?_, ?_, ?_, ?_, ?_, ?_, ?_⟩
  · intro s d h hok h1 h2 h3 h4
    obtain ⟨x, hx⟩ := takeDesc_passes (type := 3) (tag := d.tag) h hok (fun s q => requestLoad s d q)
    rw [requestLoad_free (s := takenState s d.sq x) h1 h2 h3 h4] at hx
    exact ⟨_, congrArg Host.Outcome.next hx, rfl, rfl, rfl⟩
  · intro s p j hl hp hs
    exact exec_packageCheck hl hp hs
  · intro s j p hl hr ha hs hsc hcm hw hc hf
    exact exec_loaderFill hl hr ha hs hsc hcm hw hc hf
  · intro s d h hok h1 h2 h3 h4 u scrubs
    obtain ⟨v, x, hx, hend⟩ := exec_unload h hok h1 h2 h3 h4
    refine ⟨_, hx, hend.task, hend.streams, hend.groups, hend.gated, hend.owner, rfl, hend.cores, hend.scrub, fun a ha => ?_, fun _ a ha => ?_⟩
    · refine (hend.mem a).trans (if_neg ?_)
      rintro ⟨y, hy, hin⟩
      exact absurd hin (by rw [ha y hy]; exact Bool.false_ne_true)
    · exact (hend.mem a).trans (if_pos ha)
  · intro s d h hok
    obtain ⟨x, hx⟩ := takeDesc_passes (type := 5) (tag := d.tag) h hok (fun s q => complete s d.sq 5 d.tag q 0 0 0xFFFF)
    exact ⟨_, congrArg Host.Outcome.next hx, rfl, rfl, rfl⟩
  · intro s type d ht h
    obtain ⟨x, e, hx, hcnt⟩ := takeDesc_refused (type := type) (tag := d.tag) h (fun s _ => s)
    have he : exec (.reservedTypeDescriptor type d) s =
        .next (takeDesc s d.sq type d.tag (bodyBytes type d.rsv d.tag d.body) d.crc false (fun s _ => s)) := by
      have h2 : type ≠ 2 := fun e => ht (by rw [e]; decide)
      exact congrArg Host.Outcome.next ((if_neg (fun h => h2 h.1)).trans (if_neg ht))
    exact ⟨_, he.trans (congrArg Host.Outcome.next hx), rfl, rfl, rfl, hcnt⟩
  · intro s d b hop h hr hu
    exact exec_reservedOp hop h hr hu

end Sys2Proof.Machine
end

section
/-!
THE PIT (R22 to R26, R50 to R54, R154, R271): what a tick's stream-ticks become, and which slot and sequence number every stream keeps.
-/
namespace Sys2Proof.Machine
-- one proof after the other: the check compiles one text, and its memory holds few threads
set_option Elab.async false
open Sys2Proof.Safety

variable {s t u : State}

/-! ### What the pit's steps keep -/

/-- Of a stream: its ID, its slots and the current one, its sequence number, its pins. -/
structure SlotKey where
  id : W16
  cur : Bool
  seq : W64
  slot : Option Nat
  pins : List (W64 × Nat)

def Stream.key (x : Stream) : SlotKey := ⟨x.id, x.cur, x.seq, x.slot, x.pins⟩

/-- Every stream's slots, numbers and pins. -/
def slotKeys (s : State) : List SlotKey := s.sp.streams.map Stream.key

/-- The tick at its pit, the ticks to publish, no early tick, the pairing and every stream's slots stay. -/
structure PitKept (s t : State) : Prop where
  cur : t.sp.cur = s.sp.cur
  pubs : t.sp.pubs = s.sp.pubs
  early : t.sp.early = s.sp.early
  twn : t.twn = s.twn
  keys : slotKeys t = slotKeys s

theorem PitKept.refl (s : State) : PitKept s s := ⟨rfl, rfl, rfl, rfl, rfl⟩

theorem PitKept.trans {s t u : State} (h : PitKept s t) (g : PitKept t u) : PitKept s u :=
  ⟨g.cur.trans h.cur, g.pubs.trans h.pubs, g.early.trans h.early, g.twn.trans h.twn, g.keys.trans h.keys⟩

theorem pitKept_foldl {α : Type} {f : State → α → State} (hf : ∀ s a, PitKept s (f s a)) (l : List α) (s : State) : PitKept s (l.foldl f s) := by
  induction l generalizing s with
  | nil => exact .refl s
  | cons a l ih => exact (hf s a).trans (ih _)

theorem slotKeys_modStream {id : W16} {f : Stream → Stream} (hf : ∀ x, (f x).key = x.key) : slotKeys (modStream s id f) = slotKeys s := by
  unfold slotKeys modStream
  dsimp only
  rw [List.map_map]
  refine List.map_congr_left (fun x _ => ?_)
  rw [Function.comp_apply]
  split
  · exact hf x
  · rfl

theorem pitKept_modStream (id : W16) {f : Stream → Stream} (hf : ∀ x, (f x).key = x.key) : PitKept s (modStream s id f) :=
  ⟨rfl, rfl, rfl, rfl, slotKeys_modStream hf⟩

theorem setLife_key (x : Stream) (n : Nat) (l : Life) : (x.setLife n l).key = x.key := by
  unfold Stream.setLife
  split <;> rfl

theorem pitKept_rerunLost (s : State) (w : Option PendWin) : PitKept s (rerunLost s w) := by
  rw [rerunLost_eq]
  exact ⟨rfl, rfl, rfl, rfl, rfl⟩

theorem pitKept_retainOne (p : Package) (s : State) (y : StreamTick) : PitKept s (retainOne p s y) := by
  unfold retainOne
  split
  · exact .refl s
  · exact ⟨rfl, rfl, rfl, rfl, rfl⟩

theorem pitKept_endOwn (q : W64) (s : State) (y : StreamTick) : PitKept s (endOwn q s y) := by
  unfold endOwn
  split
  · split
    · exact ⟨rfl, rfl, rfl, rfl, rfl⟩
    · exact .refl s
  · exact .refl s

theorem pitKept_endGroup (q : W64) (l : List StreamTick) (s : State) (g : Byte) : PitKept s (endGroup q l s g) := by
  unfold endGroup
  split
  · exact .refl s
  · dsimp only
    split <;> exact ⟨rfl, rfl, rfl, rfl, rfl⟩

theorem pitKept_callRestart (he : s.sp.early = none) (n : Nat) (q : W64) (b : Bool) : PitKept s (callRestart s n q b) := by
  unfold callRestart dropEarly
  dsimp only
  rw [he]
  exact ⟨rfl, rfl, he.symm, rfl, rfl⟩

theorem pitKept_callRestarts (q : W64) (l : List Nat) (s : State) (he : s.sp.early = none) : PitKept s (l.foldl (fun s n => callRestart s n q false) s) := by
  induction l generalizing s with
  | nil => exact .refl s
  | cons n l ih =>
    have hk := pitKept_callRestart he n q false
    exact hk.trans (ih _ (hk.early.trans he))

theorem pitKept_of_dp (h : { t with dp := s.dp } = s) : PitKept s t :=
  ⟨(congrArg (fun v => v.sp.cur) h :), (congrArg (fun v => v.sp.pubs) h :), (congrArg (fun v => v.sp.early) h :), (congrArg State.twn h :),
    (congrArg slotKeys h :)⟩

/-- What a control processor does is the datapath's. -/
theorem cpDoes_dp {i : Instr} (h : cpDoes s i = some t) : { t with dp := s.dp } = s := by
  unfold cpDoes at h
  split at h
  · unfold queuePut at h
    dsimp only at h
    split at h
    · obtain rfl := Option.some.inj h
      rfl
    · exact absurd h (by simp)
  · obtain rfl := Option.some.inj h
    unfold releaseBlock
    dsimp only
    split
    · rfl
    · split <;> rfl
  · obtain rfl := Option.some.inj h
    rfl
  · obtain rfl := Option.some.inj h
    rfl

theorem cpGoesOn_dp (c : BitVec 3) (l : List Instr) (s : State) : { cpGoesOn c l s with dp := s.dp } = s := by
  induction l generalizing s with
  | nil => rfl
  | cons i l ih =>
    unfold cpGoesOn
    split
    · next t ht =>
      have h := cpDoes_dp ht
      exact (congrArg (fun v : State => { v with dp := s.dp }) (ih t) :).trans h
    · rfl

theorem pitKept_drainCp (s : State) (c : BitVec 3) : PitKept s (drainCp s c) := by
  unfold drainCp
  split
  · exact .refl s
  · exact pitKept_of_dp (cpGoesOn_dp _ _ _)

theorem pitKept_endQueues (he : s.sp.early = none) (q : W64) : PitKept s (endQueues s q) := by
  unfold endQueues
  dsimp only
  refine PitKept.trans ?_ (pitKept_foldl pitKept_drainCp _ _)
  generalize (List.filterMap (chainOf s) (allCores.filter (fun c => mustRestart (vget s.dp.cores c) q))).eraseDups = l
  exact (pitKept_callRestarts q l s he).trans ⟨rfl, rfl, rfl, rfl, rfl⟩

theorem pitKept_startLeaving (s : State) (id : W16) : PitKept s (startLeaving s id) := by
  cases hp : taskPkg s with
  | none =>
    unfold startLeaving
    rw [hp]
    exact .refl s
  | some p =>
    rw [startLeaving_of hp]
    exact ⟨rfl, rfl, rfl, rfl, slotKeys_modStream (s := s) (fun x => setLife_key x _ _)⟩

theorem pitKept_finish (s : State) (r : ReqTicket) (st : BitVec 7) (n : Nat) (id : W16) : PitKept s (finish s r st n id) := by
  unfold finish
  split
  · exact .refl s
  · exact ⟨rfl, rfl, rfl, rfl, rfl⟩

theorem pitKept_initReplaces (s : State) (id : W16) : PitKept s (initReplaces s id) := by
  unfold initReplaces
  split
  · split
    · split
      · refine PitKept.trans ?_ (pitKept_finish _ _ _ _ _)
        exact pitKept_modStream id (fun _ => rfl)
      · exact .refl s
    · exact .refl s
  · exact .refl s

theorem pitKept_afterPins (s : State) : PitKept s (afterPins s) := by
  unfold afterPins
  dsimp only
  exact (pitKept_foldl pitKept_startLeaving _ _).trans (pitKept_foldl pitKept_initReplaces _ _)

/-! ### A stream-tick that is settled -/

/-- What a settled stream-tick makes of a stream's slot and number (R24, R154). -/
def settleKey (y : StreamTick) (k : SlotKey) : SlotKey :=
  if k.id = y.stream ∧ y.out = .committed then { k with cur := !k.cur, seq := y.seqs.getLastD k.seq } else k

theorem settleKey_id (y : StreamTick) (k : SlotKey) : (settleKey y k).id = k.id := by
  unfold settleKey
  split <;> rfl

/-- All but the streams of the pit's state stay, and the streams' slots are those given. -/
structure PitSettles (s t : State) (keys : List SlotKey) : Prop where
  cur : t.sp.cur = s.sp.cur
  pubs : t.sp.pubs = s.sp.pubs
  early : t.sp.early = s.sp.early
  twn : t.twn = s.twn
  keys : slotKeys t = keys

theorem PitKept.settles (h : PitKept s t) : PitSettles s t (slotKeys s) := ⟨h.cur, h.pubs, h.early, h.twn, h.keys⟩

/-- No error is marked in the record row of the current slot of the streams with these IDs. -/
def RecordsClean (p : Package) (s : State) (ids : List W16) : Prop :=
  ∀ x ∈ s.sp.streams, x.id ∈ ids → ∀ b, curSlot p x = some b → ∀ m ∈ s.dp.ecc, m.gran ≠ 32 * (b + slotRows p - 1)

/-- A record row without marks is read and nothing changes. -/
theorem updateCount_clean {p : Package} {x : Stream} (h : ∀ b, curSlot p x = some b → ∀ m ∈ s.dp.ecc, m.gran ≠ 32 * (b + slotRows p - 1)) :
    (updateCount s p x).2 = s := by
  unfold updateCount
  split
  · next b hb =>
    unfold narrowRead
    have hn : s.dp.ecc.find? (fun m => m.gran == (rowBytes * (b + slotRows p - 1) + 8) / 16) = none := by
      rw [List.find?_eq_none]
      intro m hm he
      refine h b hb m hm ?_
      have he' : m.gran = (rowBytes * (b + slotRows p - 1) + 8) / 16 := by simpa using he
      rw [he']
      unfold rowBytes
      omega
    rw [hn]
  · rfl

/-- A stream of the table that a table without double IDs finds. -/
theorem findStream_mem {x : Stream} (hn : (s.sp.streams.map (fun x => x.id)).Nodup) (hx : x ∈ s.sp.streams) : findStream s x.id = some x := by
  cases hf : findStream s x.id with
  | none =>
    have := List.find?_eq_none.1 hf x hx
    simp at this
  | some z =>
    have hz : z ∈ s.sp.streams := List.mem_of_find?_eq_some hf
    rw [List.inj_on_of_nodup_map hn hz hx (findStream_id hf)]

/-- One change of the record of a stream's slot and number. -/
theorem slotKeys_changed {id : W16} {f : Stream → Stream} {g : SlotKey → SlotKey} (hf : ∀ x ∈ s.sp.streams, x.id = id → (f x).key = g x.key)
    (hg : ∀ k, k.id ≠ id → g k = k) : slotKeys (modStream s id f) = (slotKeys s).map g := by
  unfold slotKeys modStream
  dsimp only
  rw [List.map_map, List.map_map]
  refine List.map_congr_left (fun x hx => ?_)
  rw [Function.comp_apply, Function.comp_apply]
  split
  · next h => exact hf x hx (by simpa using h)
  · next h => exact (hg _ (show ¬x.id = id by simpa using h)).symm

/-- What the commit of one stream-tick does: the records of its stream flip, and only marks may go. -/
theorem commitOne_settles {p : Package} {y : StreamTick} (hn : (s.sp.streams.map (fun x => x.id)).Nodup) (hc : RecordsClean p s [y.stream]) (ho : y.out = .committed) :
    PitSettles s (commitOne p s y) ((slotKeys s).map (settleKey y)) ∧ ∀ m ∈ (commitOne p s y).dp.ecc, m ∈ s.dp.ecc := by
  unfold commitOne
  cases hf : findStream s y.stream with
  | none =>
    refine ⟨⟨rfl, rfl, rfl, rfl, ?_⟩, fun m hm => hm⟩
    have hno : ∀ k ∈ slotKeys s, settleKey y k = k := by
      intro k hk
      obtain ⟨x, hx, rfl⟩ := List.mem_map.1 hk
      refine if_neg (fun h => ?_)
      have := List.find?_eq_none.1 hf x hx
      exact this (beq_iff_eq.2 h.1)
    exact ((List.map_congr_left (g := id) hno).trans (List.map_id _)).symm
  | some x =>
    have hid := findStream_id hf
    have hx : x ∈ s.sp.streams := List.mem_of_find?_eq_some hf
    have hu := updateCount_clean (s := s) (hc x hx (by rw [hid]; exact List.mem_singleton.2 rfl))
    dsimp only
    rw [hu]
    have hk : ∀ z ∈ s.sp.streams, z.id = y.stream → ({ z with
        cur := !z.cur, seq := y.seqs.getLastD x.seq, bc := if z.bloom.isSome then y.dstBloom else z.bc,
        pend := if y.kind.isSome then none else z.pend } : Stream).key = settleKey y z.key := by
      intro z hz hzi
      have hzx := findStream_mem hn hz
      rw [hzi, hf] at hzx
      obtain rfl : x = z := Option.some.inj hzx
      exact (if_pos ⟨hzi, ho⟩).symm
    have hkeys := slotKeys_changed (g := settleKey y) hk (fun k h => if_neg (fun e => h e.1))
    split
    · exact ⟨⟨rfl, rfl, rfl, rfl, hkeys⟩, fun m hm => List.mem_of_mem_filter hm⟩
    · exact ⟨⟨rfl, rfl, rfl, rfl, hkeys⟩, fun m hm => hm⟩

theorem dropOlder_kept (s : State) (y : StreamTick) : PitKept s (dropOlder s y) ∧ (dropOlder s y).dp = s.dp := by
  unfold dropOlder
  split
  · split
    · rw [rerunLost_eq]
      exact ⟨⟨rfl, rfl, rfl, rfl, slotKeys_modStream (s := s) (fun _ => rfl)⟩, rfl⟩
    · exact ⟨.refl s, rfl⟩
  · exact ⟨.refl s, rfl⟩

theorem missOne_kept (p : Package) (q : W64) (s : State) (y : StreamTick) : PitKept s (missOne p q s y) ∧ (missOne p q s y).dp = s.dp := by
  have hr : ∀ (b : Prop) [Decidable b] (w : Option PendWin), ∃ k, (if b then rerunLost s w else s) = { s with tkc := k } := by
    intro b _ w
    split
    · exact ⟨_, rerunLost_eq s w⟩
    · exact ⟨s.tkc, rfl⟩
  unfold missOne
  split
  · exact ⟨.refl s, rfl⟩
  · next x _ =>
    dsimp only
    obtain ⟨k, hk⟩ := hr (y.kind.isNone = true) x.pend
    rw [hk]
    split <;> exact ⟨⟨rfl, rfl, rfl, rfl, slotKeys_modStream (s := s) (fun _ => rfl)⟩, rfl⟩

/-- What one stream-tick's settling does. -/
theorem settleOne_settles {p : Package} {q : W64} {y : StreamTick} (hn : (s.sp.streams.map (fun x => x.id)).Nodup) (hc : RecordsClean p s [y.stream]) :
    PitSettles s (settleOne p q s y) ((slotKeys s).map (settleKey y)) ∧ ∀ m ∈ (settleOne p q s y).dp.ecc, m ∈ s.dp.ecc := by
  unfold settleOne
  split
  · next ho =>
    obtain ⟨h, he⟩ := commitOne_settles hn hc ho
    obtain ⟨hk, hd⟩ := dropOlder_kept (commitOne p s y) y
    exact ⟨⟨hk.cur.trans h.cur, hk.pubs.trans h.pubs, hk.early.trans h.early, hk.twn.trans h.twn, hk.keys.trans h.keys⟩, fun m hm => he m (by rw [← hd]; exact hm)⟩
  · next ho =>
    obtain ⟨hk, hd⟩ := missOne_kept p q s y
    refine ⟨⟨hk.cur, hk.pubs, hk.early, hk.twn, hk.keys.trans ?_⟩, fun m hm => by rw [← hd]; exact hm⟩
    exact ((List.map_congr_left (g := id) (fun k _ => if_neg (fun h => ho h.2))).trans (List.map_id _)).symm

/-- Streams' IDs as their slots list them. -/
theorem ids_of_keys (s : State) : s.sp.streams.map (fun x => x.id) = (slotKeys s).map SlotKey.id := by
  unfold slotKeys
  rw [List.map_map]
  rfl

/-- The settling of a tick's stream-ticks, each of a stream of its own. -/
theorem settleAll_settles {p : Package} {q : W64} (l : List StreamTick) (s : State) (hn : (s.sp.streams.map (fun x => x.id)).Nodup)
    (hl : (l.map (fun y => y.stream)).Nodup) (hc : RecordsClean p s (l.map (fun y => y.stream))) :
    PitSettles s (l.foldl (settleOne p q) s) ((slotKeys s).map (fun k => l.foldl (fun k y => settleKey y k) k)) := by
  induction l generalizing s with
  | nil => exact ⟨rfl, rfl, rfl, rfl, (List.map_id _).symm⟩
  | cons y l ih =>
    rw [List.map_cons, List.nodup_cons] at hl
    obtain ⟨hy, hl⟩ := hl
    obtain ⟨h1, he⟩ := settleOne_settles (p := p) (q := q) (y := y) hn (fun x hx hi => hc x hx (by rw [List.mem_singleton.1 hi]; simp))
    have hn' : ((settleOne p q s y).sp.streams.map (fun x => x.id)).Nodup := by
      have hi : (slotKeys s).map (SlotKey.id ∘ settleKey y) = (slotKeys s).map SlotKey.id := List.map_congr_left (fun k _ => settleKey_id y k)
      rw [ids_of_keys, h1.keys, List.map_map, hi, ← ids_of_keys]
      exact hn
    have hc' : RecordsClean p (settleOne p q s y) (l.map (fun y => y.stream)) := by
      intro z hz hzi b hb m hm
      have hkz : z.key ∈ slotKeys (settleOne p q s y) := List.mem_map_of_mem hz
      rw [h1.keys] at hkz
      obtain ⟨k, hk, hke⟩ := List.mem_map.1 hkz
      obtain ⟨x, hx, rfl⟩ := List.mem_map.1 hk
      have hxi : x.id = z.id := (settleKey_id y x.key).symm.trans (congrArg SlotKey.id hke)
      have hsame : x.key = z.key := by
        rw [← hke]
        exact (if_neg (fun h => hy (by rw [← show x.id = y.stream from h.1, hxi]; exact hzi))).symm
      have hcur : curSlot p x = curSlot p z := by
        unfold curSlot
        rw [show x.slot = z.slot from congrArg SlotKey.slot hsame, show x.cur = z.cur from congrArg SlotKey.cur hsame]
      exact hc x hx (by rw [hxi]; exact List.mem_cons_of_mem _ hzi) b (hcur.trans hb) m (he m hm)
    have h2 := ih (settleOne p q s y) hn' hl hc'
    refine ⟨h2.cur.trans h1.cur, h2.pubs.trans h1.pubs, h2.early.trans h1.early, h2.twn.trans h1.twn, h2.keys.trans ?_⟩
    rw [h1.keys, List.map_map]
    rfl

theorem foldl_settleKey_id (l : List StreamTick) (k : SlotKey) : (l.foldl (fun k y => settleKey y k) k).id = k.id := by
  induction l generalizing k with
  | nil => rfl
  | cons y l ih => exact (ih _).trans (settleKey_id y k)

/-- A stream that no committed stream-tick names keeps its slot and number. -/
theorem foldl_settleKey_none (l : List StreamTick) (k : SlotKey) (h : ∀ y ∈ l, y.stream = k.id → y.out ≠ .committed) :
    l.foldl (fun k y => settleKey y k) k = k := by
  induction l with
  | nil => rfl
  | cons y l ih =>
    have hy : settleKey y k = k := if_neg (fun e => h y (by simp) e.1.symm e.2)
    rw [List.foldl_cons, hy]
    exact ih (fun z hz => h z (by simp [hz]))

/-- A stream that one committed stream-tick names takes the other slot and the stream-tick's number. -/
theorem foldl_settleKey_one (l : List StreamTick) (k : SlotKey) (hl : (l.map (fun y => y.stream)).Nodup) (y : StreamTick) (hy : y ∈ l) (hs : y.stream = k.id)
    (ho : y.out = .committed) : l.foldl (fun k y => settleKey y k) k = { k with cur := !k.cur, seq := y.seqs.getLastD k.seq } := by
  induction l with
  | nil => exact absurd hy List.not_mem_nil
  | cons z l ih =>
    rw [List.map_cons, List.nodup_cons] at hl
    obtain ⟨hz, hl⟩ := hl
    rw [List.foldl_cons]
    rcases List.mem_cons.1 hy with rfl | hy
    · rw [show settleKey y k = { k with cur := !k.cur, seq := y.seqs.getLastD k.seq } from if_pos ⟨hs.symm, ho⟩]
      exact foldl_settleKey_none l _ (fun w hw e => absurd (List.mem_map_of_mem (f := fun y => y.stream) hw) (by
        rw [show w.stream = y.stream from e.trans hs.symm]
        exact hz))
    · have hne : settleKey z k = k := if_neg (fun e => hz (by
        rw [← show k.id = z.stream from e.1, ← hs]
        exact List.mem_map_of_mem hy))
      rw [hne]
      exact ih hl hy

/-! ### The end of the pit -/

/-- The counts, the pins and the queues once every stream-tick is settled. -/
def pitQueues (s : State) (t : TickRec) : State :=
  afterPins (confirmEarly (endQueues (countOuts (releasePins s t.seq) t.sts t.unlisted) t.seq) t)

/-- The tick goes to publish. -/
def toPublish (s : State) : State :=
  { s with sp := { s.sp with cur := none, pubs := match s.sp.cur with | some r => s.sp.pubs ++ [r] | none => s.sp.pubs }, tkc := { s.tkc with phase := 4 } }

/-- The words of FWR that the pit shows. -/
def showPit (s : State) : State :=
  let s := { s with fwr := { s.fwr with fw := { s.fwr.fw with uptime := Config.freeWord s.dp.free } }, dp := { s.dp with free := s.dp.free + 1 } }
  { s with fwr := { s.fwr with shown := pitWords s } }

/-- The pit once every stream-tick is settled. -/
def pitClosed (s : State) (t : TickRec) (groups : List Byte) : State := showPit (sendDelta (toPublish (pitQueues s t)) t groups)

/-- A stream without the pins of a tick. -/
def unpinned (q : W64) (k : SlotKey) : SlotKey := { k with pins := k.pins.filter (fun p => p.1 != q) }

/-- What the end of the pit leaves, on an unpaired device with no early tick. -/
structure PitClosed (s t : State) (r : TickRec) (q : W64) : Prop where
  cur : t.sp.cur = none
  phase : t.tkc.phase = 4
  pubs : t.sp.pubs = s.sp.pubs ++ [r]
  keys : slotKeys t = (slotKeys s).map (unpinned q)

theorem confirmEarly_none (h : s.sp.early = none) (t : TickRec) : confirmEarly s t = s := by
  unfold confirmEarly
  rw [h]

theorem sendDelta_unpaired (h : s.twn.state = .unpaired) (t : TickRec) (g : List Byte) : sendDelta s t g = s := by
  unfold sendDelta
  rw [h, if_neg (by simp)]

theorem pitClosed_closes {r t : TickRec} (hc : s.sp.cur = some r) (he : s.sp.early = none) (hu : s.twn.state = .unpaired) (g : List Byte) :
    PitClosed s (pitClosed s t g) r t.seq := by
  have h0 : slotKeys (countOuts (releasePins s t.seq) t.sts t.unlisted) = (slotKeys s).map (unpinned t.seq) := by
    show ((s.sp.streams.map _).map Stream.key) = (s.sp.streams.map Stream.key).map _
    rw [List.map_map, List.map_map]
    rfl
  have h1 := pitKept_endQueues (s := countOuts (releasePins s t.seq) t.sts t.unlisted) he t.seq
  have hc0 : (countOuts (releasePins s t.seq) t.sts t.unlisted).sp.cur = some r := hc
  have hp0 : (countOuts (releasePins s t.seq) t.sts t.unlisted).sp.pubs = s.sp.pubs := rfl
  have hu0 : (countOuts (releasePins s t.seq) t.sts t.unlisted).twn = s.twn := rfl
  have he0 : (countOuts (releasePins s t.seq) t.sts t.unlisted).sp.early = none := he
  unfold pitClosed pitQueues
  generalize countOuts (releasePins s t.seq) t.sts t.unlisted = a at *
  rw [confirmEarly_none (h1.early.trans he0)]
  have h2 := h1.trans (pitKept_afterPins (endQueues a t.seq))
  generalize afterPins (endQueues a t.seq) = b at *
  rw [sendDelta_unpaired (s := toPublish b) ((congrArg Twn.state (h2.twn.trans hu0)).trans hu)]
  refine ⟨rfl, rfl, ?_, h2.keys.trans h0⟩
  show (match b.sp.cur with | some r => b.sp.pubs ++ [r] | none => b.sp.pubs) = s.sp.pubs ++ [r]
  rw [h2.cur, hc0]
  exact congrArg (· ++ [r]) (h2.pubs.trans hp0)

/-- The tick with what its stream-ticks become. -/
def judgedTick (s : State) (r : TickRec) : TickRec :=
  { noteCores s r with sts := r.sts.map (fun y => { y with out := settleOut s (judge s r y) }), sloe := s.fwr.fw.level == 1 }

/-- The state once the stream-ticks of a tick are settled. -/
def pitSettled (o : Option Package) (s : State) (t : TickRec) : State :=
  let s := putTick s t
  let s := match o with
    | none => s
    | some p => (t.sts.foldl (settleOne p t.seq) (t.sts.foldl (retainOne p) s))
  let s := t.sts.foldl (endOwn t.seq) s
  (s.sp.groups.map (fun g => g.group)).foldl (endGroup t.seq t.sts) s

theorem commitTick_of {r : TickRec} {p : Package} (hc : s.sp.cur = some r) (hs : r.isSpec = false) (hm : s.twn.state ≠ .mirror) (hp : taskPkg s = some p) :
    commitTick s r = pitClosed (pitSettled (some p) s (judgedTick s r)) (judgedTick s r)
      (flippedGroups (pitSettled (some p) s (judgedTick s r)) (putTick s (judgedTick s r))) := by
  have h1 : confirmOwn s r = s := by
    unfold confirmOwn
    rw [hs]
    rfl
  have h2 : checkVerdicts s r = s := if_pos hm
  have hp' : ∀ t, taskPkg (putTick s t) = some p := fun _ => hp
  unfold commitTick
  rw [h1, h2]
  extract_lets v
  split
  · next hn => exact absurd (hn.symm.trans hc) (by simp)
  · next t ht =>
    obtain rfl : t = r := Option.some.inj (ht.symm.trans hc)
    extract_lets n j put was settled own groups flipped counted early queued pubs sp tkc published sent
    have hj : judgedTick s t = j := rfl
    rw [hj]
    clear_value j
    have hsettled : settled = j.sts.foldl (settleOne p j.seq) (j.sts.foldl (retainOne p) put) := by
      unfold settled
      rw [show taskPkg put = some p from hp]
    have hg : groups = pitSettled (some p) s j := by
      unfold groups own
      rw [hsettled]
      rfl
    have hq : queued = pitQueues groups j := rfl
    unfold pitClosed
    rw [← hg, ← hq]
    have hf : flipped = flippedGroups groups (putTick s j) := rfl
    rw [← hf]
    clear_value queued flipped
    have hpub : published = toPublish queued := rfl
    rw [← hpub]
    clear_value published
    have hsent : sent = sendDelta published j flipped := rfl
    rw [← hsent]
    clear_value sent
    rfl

theorem noteCores_seq (s : State) (r : TickRec) : (noteCores s r).seq = r.seq := by
  have hn : ∀ (q : W64) (c : BitVec 3) (st : BitVec 7) (p : StreamTick → Bool) (t : TickRec), (noteCore q c st p t).seq = t.seq := by
    intro q c st p t
    unfold noteCore
    dsimp only
    split <;> rfl
  have hf : ∀ (l : List (BitVec 3)) (t : TickRec), (l.foldl (fun t c => noteCore r.seq c 1 (fun y => (unfinishedCores s r y).any (fun k => k == c)) t) t).seq = t.seq := by
    intro l
    induction l with
    | nil => exact fun _ => rfl
    | cons c l ih => exact fun t => (ih _).trans (hn _ _ _ _ _)
  unfold noteCores
  split
  · exact hf _ _
  · rfl

theorem judgedTick_seq (s : State) (r : TickRec) : (judgedTick s r).seq = r.seq := noteCores_seq s r

/-- R24, R26: the verdict on a stream-tick of an ordinary tick. -/
theorem judge_unpaired {r : TickRec} (hu : s.twn.state = .unpaired) (hp : r.predicted = false) (y : StreamTick) : judge s r y =
    if y.out ≠ .running then y.out else if y.mism = true ∨ y.srcBad = true then .discarded
    else if y.late = true ∨ stFinished s r.seq y = false then .skipped else .committed := by
  unfold judge
  rw [hp, hu, Bool.false_and, if_neg Bool.false_ne_true, if_neg (show TwnState.unpaired ≠ .mirror by decide)]
  refine if_congr Iff.rfl rfl (if_congr (by simp) rfl (if_congr (by simp) rfl rfl))

/-- R24, R26, R276: what becomes of each stream-tick. -/
theorem judgedTick_outs {r : TickRec} (hu : s.twn.state = .unpaired) (hp : r.predicted = false) :
    (judgedTick s r).sts.map (fun y => (y.stream, y.out)) = r.sts.map (fun y => (y.stream,
      if y.out ≠ .running then (if y.out = .discarded ∧ s.tkc.cuReserve = 0 then .skipped else y.out)
      else if y.mism ∨ y.srcBad then (if s.tkc.cuReserve = 0 then .skipped else .discarded)
      else if y.late = true ∨ stFinished s r.seq y = false then .skipped else .committed)) := by
  unfold judgedTick
  dsimp only
  rw [List.map_map]
  refine List.map_congr_left (fun y _ => ?_)
  rw [Function.comp_apply, Prod.mk.injEq]
  refine ⟨rfl, ?_⟩
  dsimp only
  rw [judge_unpaired hu hp]
  unfold settleOut
  by_cases h1 : y.out ≠ .running
  · rw [if_pos h1, if_pos h1]
  · rw [if_neg h1, if_neg h1]
    by_cases h2 : y.mism = true ∨ y.srcBad = true
    · rw [if_pos h2, if_pos h2]
      exact if_congr (by simp) rfl rfl
    · rw [if_neg h2, if_neg h2]
      refine if_neg (fun h => ?_)
      split at h <;> exact absurd h.1 (by decide)

theorem pitSettled_settles {p : Package} {r t : TickRec} (hc : s.sp.cur = some r) (ht : t.seq = r.seq) (he : s.sp.early = none)
    (hn : (s.sp.streams.map (fun x => x.id)).Nodup) (hl : (t.sts.map (fun y => y.stream)).Nodup)
    (hr : ∀ x ∈ s.sp.streams, ∀ b, curSlot p x = some b → ∀ m ∈ s.dp.ecc, m.gran ≠ 32 * (b + slotRows p - 1)) :
    (pitSettled (some p) s t).sp.cur = some t ∧ (pitSettled (some p) s t).sp.pubs = s.sp.pubs ∧ (pitSettled (some p) s t).sp.early = none ∧ (pitSettled (some p) s t).twn = s.twn ∧
      slotKeys (pitSettled (some p) s t) = (slotKeys s).map (fun k => t.sts.foldl (fun k y => settleKey y k) k) := by
  have hret : ∀ (l : List StreamTick) (v : State), { l.foldl (retainOne p) v with sp := { (l.foldl (retainOne p) v).sp with retain := v.sp.retain } } = v := by
    intro l
    induction l with
    | nil => exact fun _ => rfl
    | cons y l ih =>
      intro v
      have hy : { retainOne p v y with sp := { (retainOne p v y).sp with retain := v.sp.retain } } = v := by
        unfold retainOne
        split <;> rfl
      exact (congrArg (fun w : State => { w with sp := { w.sp with retain := v.sp.retain } }) (ih (retainOne p v y)) :).trans hy
  have hput : (putTick s t).sp.cur = some t := by
    unfold putTick modTick mapTicks
    dsimp only
    rw [hc, Option.map_some, if_pos ht.symm]
  have hput' : (putTick s t).sp.early = none := by
    unfold putTick modTick mapTicks
    dsimp only
    rw [he]
    rfl
  have h0 := hret t.sts (putTick s t)
  unfold pitSettled
  dsimp only
  generalize List.foldl (retainOne p) (putTick s t) t.sts = v at *
  have hstr : v.sp.streams = s.sp.streams := (congrArg (fun w => w.sp.streams) h0 :)
  have hecc : v.dp = s.dp := (congrArg State.dp h0 :)
  have h1 := settleAll_settles (p := p) (q := t.seq) t.sts v (by rw [hstr]; exact hn) hl (fun x hx _ b hb m hm =>
    hr x (by rw [← hstr]; exact hx) b hb m (by rw [← hecc]; exact hm))
  generalize List.foldl (settleOne p t.seq) v t.sts = w at *
  have h2 := (pitKept_foldl (pitKept_endOwn t.seq) t.sts w)
  generalize List.foldl (endOwn t.seq) w t.sts = x at *
  have h3 := h2.trans (pitKept_foldl (pitKept_endGroup t.seq t.sts) (x.sp.groups.map (fun g => g.group)) x)
  refine ⟨?_, ?_, ?_, ?_, ?_⟩
  · rw [h3.cur, h1.cur, (congrArg (fun w => w.sp.cur) h0 :)]
    exact hput
  · rw [h3.pubs, h1.pubs]
    exact (congrArg (fun w => w.sp.pubs) h0 :)
  · rw [h3.early, h1.early, (congrArg (fun w => w.sp.early) h0 :)]
    exact hput'
  · rw [h3.twn, h1.twn]
    exact (congrArg State.twn h0 :)
  · rw [h3.keys, h1.keys]
    exact congrArg (List.map _) (congrArg slotKeys h0 :)

/-- Settles O47: what each stream-tick becomes, then which slot and number its stream keeps. -/
theorem pitCommitsWhatFinished : Obligations.PitCommitsWhatFinished := by
  unfold Obligations.PitCommitsWhatFinished
  intro s r p hcur hcomp hreach _ u hu hfr htw hearly hpred hp he hn hl hr
  have hx : exec .pit s = .next (commitTick u r) := by
    refine congrArg Host.Outcome.next ?_
    unfold pit
    rw [hcur]
    dsimp only
    rw [hcomp, hreach, if_neg (by decide), show reach s s.tkc.deadOfs.toNat = u from rfl, hfr, if_neg Bool.false_ne_true, hu]
  have hspec : r.isSpec = false := by
    unfold TickRec.isSpec
    rw [hearly, hpred]
    rfl
  have houts := judgedTick_outs (s := u) htw hpred
  have hsts : ((judgedTick u r).sts.map (fun y => y.stream)).Nodup := by
    have hm := congrArg (List.map Prod.fst) houts
    rw [List.map_map, List.map_map] at hm
    exact (congrArg List.Nodup hm).mpr hl
  have hseq := judgedTick_seq u r
  rw [commitTick_of hu hspec (by rw [htw]; decide) hp] at hx
  obtain ⟨g1, g2, g3, g4, g5⟩ := pitSettled_settles (t := judgedTick u r) hu hseq he hn hsts hr
  obtain ⟨c1, c2, c3, c4⟩ := pitClosed_closes (t := judgedTick u r) g1 g3 (by rw [g4]; exact htw)
    (flippedGroups (pitSettled (some p) u (judgedTick u r)) (putTick u (judgedTick u r)))
  rw [g2] at c3
  rw [g5, hseq, List.map_map] at c4
  refine ⟨_, judgedTick u r, hx, c1, c2, c3, hseq, houts, fun x hxm => ?_⟩
  have hk : unpinned r.seq ((judgedTick u r).sts.foldl (fun k y => settleKey y k) x.key) ∈ slotKeys (pitClosed (pitSettled (some p) u (judgedTick u r)) (judgedTick u r)
      (flippedGroups (pitSettled (some p) u (judgedTick u r)) (putTick u (judgedTick u r)))) := by
    rw [c4]
    exact List.mem_map_of_mem (List.mem_map_of_mem hxm)
  obtain ⟨z, hz, hzk⟩ := List.mem_map.1 hk
  have hzid : z.id = ((judgedTick u r).sts.foldl (fun k y => settleKey y k) x.key).id := congrArg SlotKey.id hzk
  have hzcur : z.cur = ((judgedTick u r).sts.foldl (fun k y => settleKey y k) x.key).cur := congrArg SlotKey.cur hzk
  have hzseq : z.seq = ((judgedTick u r).sts.foldl (fun k y => settleKey y k) x.key).seq := congrArg SlotKey.seq hzk
  have hzpins : z.pins = ((judgedTick u r).sts.foldl (fun k y => settleKey y k) x.key).pins.filter (fun p => p.1 != r.seq) := congrArg SlotKey.pins hzk
  refine ⟨z, hz, ?_, ?_, ?_, ?_⟩
  · exact hzid.trans (foldl_settleKey_id _ _)
  · intro k hkp
    rw [hzpins] at hkp
    simpa using (List.mem_filter.1 hkp).2
  · intro y hy hys ho
    rw [foldl_settleKey_one _ x.key hsts y hy hys ho] at hzcur hzseq
    exact ⟨hzcur, hzseq⟩
  · intro hno
    rw [foldl_settleKey_none _ x.key hno] at hzcur hzseq
    exact ⟨hzcur, hzseq⟩

end Sys2Proof.Machine
end

section
/-!
INTAKE (02_the_tick; 13_adapter_learning, error blocks; 14_host_rings, TICK descriptors; 20_integration, SIN ports): what a descriptor of
a tick, a control block, an error block, an embedding and a sample leave.
-/
namespace Sys2Proof.Machine
-- one proof after the other: the check compiles one text, and its memory holds few threads
set_option Elab.async false
open Sys2Proof.Safety

variable {s t u : State}

/-! ### The tick at intake -/

/-- A change of the only open tick. -/
theorem modTick_cur {r : TickRec} (hc : s.sp.cur = some r) (he : s.sp.early = none) (f : TickRec → TickRec) :
    modTick s r.seq f = { s with sp := { s.sp with cur := some (f r) } } := by
  unfold modTick mapTicks
  rw [hc, he]
  dsimp only [Option.map]
  rw [if_pos rfl, ← he]

theorem openTicks_cur {r : TickRec} (hc : s.sp.cur = some r) (he : s.sp.early = none) : openTicks s = [r] := by
  unfold openTicks
  rw [hc, he]
  rfl

/-! ### TICK descriptors (R297, R300) -/

/-- A TICK descriptor whose CRC is right passes its first checks. -/
theorem checkDesc_tick {d : TickDesc} (h : descReady s d.sq (tickBytes d) d.crc) (hok : tickFormOk s d = true) :
    ∃ x, checkDesc s d.sq (vget s.hif.sqs d.sq).seq (tickBytes d) d.crc (tickFormOk s d) = (none, { s with dus := x }) := by
  obtain ⟨-, hcrc⟩ := h
  refine ⟨(formCheck s 0 1 false (descFold d.sq (vget s.hif.sqs d.sq).seq) (tickBytes d)).2.dus, ?_⟩
  unfold checkDesc
  dsimp only
  rw [if_neg (fun h => h hcrc.symm), hok]
  rfl

/-- A TICK descriptor of a tick that is open, as it is acted on. -/
def takenTick (s : State) (d : TickDesc) (x : Vector Cu (2 ^ 2)) : State :=
  { takenState s d.sq x with sp := { s.sp with taken := s.sp.taken ++ [d.tickSeq] } }

/-- What a TICK descriptor of the tick at intake does. -/
theorem takeTick_of {d : TickDesc} {r : TickRec} (h : descReady s d.sq (tickBytes d) d.crc) (hok : tickFormOk s d = true) (hf : s.twn.state ≠ .fenced)
    (hq : d.sq = s.hif.tickRing) (h0 : d.tickSeq ≠ 0) (ht : s.sp.taken.any (fun x => x == d.tickSeq) = false) (he : s.sp.early = none) (hc : s.sp.cur = some r) :
    ∃ x, takeTick s d = if s.tkc.seq < d.tickSeq then s else if r.seq = d.tickSeq then
        (if !r.dispatched then intakeTick (takenTick s d x) d (vget s.hif.sqs d.sq).seq r
          else if r.predicted && r.cmd.isNone then confirmTick (takenTick s d x) d (vget s.hif.sqs d.sq).seq else completeTick (takenTick s d x) d 1 false)
      else completeTick (takenTick s d x) d 1 false := by
  obtain ⟨x, hx⟩ := checkDesc_tick h hok
  refine ⟨x, ?_⟩
  have hnew : newestIntake s = s.tkc.seq := by
    unfold newestIntake
    rw [he]
  have hopen : openTicks (takenTick s d x) = [r] := openTicks_cur hc he
  have htk : { takeHead { s with dus := x } d.sq with sp := { (takeHead { s with dus := x } d.sq).sp with taken := (takeHead { s with dus := x } d.sq).sp.taken ++ [d.tickSeq] } } =
      takenTick s d x := rfl
  unfold takeTick
  dsimp only
  rw [h.1, hx, if_neg (by decide)]
  dsimp only
  rw [if_neg hf, ht, if_neg (not_or.2 ⟨fun h => h hq, not_or.2 ⟨h0, Bool.false_ne_true⟩⟩), hnew]
  refine if_congr Iff.rfl rfl ?_
  rw [htk, hopen, List.find?_cons]
  by_cases hs : r.seq = d.tickSeq
  · rw [beq_iff_eq.2 hs, if_pos hs]
  · rw [beq_eq_false_iff_ne.2 hs, if_neg hs]
    rfl

/-- A descriptor without blocks gives the tick its fields. -/
theorem intakeTick_plain {d : TickDesc} {r : TickRec} {q : W64} (hc : s.sp.cur = some r) (he : s.sp.early = none) (hs : r.seq = d.tickSeq) (hp : r.passive = false)
    (href : tickRefusal s d = none) (h1 : d.ctlAddr = 0) (h2 : d.errAddr = 0) :
    intakeTick s d q r = { s with sp := { s.sp with cur := some { r with cmd := some (tickCmdOf d q (tickPort s) none), ctl := some ⟨d.vdim, []⟩ } } } := by
  unfold intakeTick
  rw [hp, if_neg Bool.false_ne_true, href]
  dsimp only
  rw [show offerCtl s d = (none, s) from if_pos h1]
  dsimp only
  rw [show offerErr s d = (none, s) from if_pos h2, ← hs, modTick_cur hc he, if_pos h1]
  simp [hp]

/-! ### Control blocks -/

/-- A control block whose check holds and whose entries are legal, of a tick that is not dispatched. -/
theorem landCtl_passes {r : TickRec} {c : TickCmd} {data : List Byte} (hd : r.dispatched = false)
    (hcrc : (formCheck s 0 1 true (r.seq.setWidth 32) (padTo (rowBytes * c.ctlRows.toNat) data)).1 = c.ctlCrc.toNat)
    (hok : (List.range (placeCount s)).all (ctlEntryOk data) = true) :
    ∃ x, landCtl s r c data = modTick { s with dus := x } r.seq (fun t => { t with ctl := some (ctlOf s c data) }) := by
  refine ⟨(formCheck s 0 1 true (r.seq.setWidth 32) (padTo (rowBytes * c.ctlRows.toNat) data)).2.dus, ?_⟩
  have hok' : (List.range (placeCount (formCheck s 0 1 true (r.seq.setWidth 32) (padTo (rowBytes * c.ctlRows.toNat) data)).2)).all (ctlEntryOk data) = true := hok
  unfold landCtl
  rw [hd, Bool.false_and, if_neg Bool.false_ne_true]
  dsimp only
  rw [if_neg (fun h => h hcrc), hok', if_neg (by decide), if_neg Bool.false_ne_true]
  rfl

theorem controlBlockIn_of {r : TickRec} {c : TickCmd} {resp : BitVec 2} {data : List Byte} (hc : s.sp.cur = some r) (he : s.sp.early = none)
    (hcmd : r.cmd = some c) (hw : c.ctlWait = true) (hd : r.dispatched = false) (hm : meterHolds s.dp (portMeter c.port) c.ctlTicket = false)
    (hr : resp.toNat < 2)
    (hcrc : (formCheck s 0 1 true (r.seq.setWidth 32) (padTo (rowBytes * c.ctlRows.toNat) data)).1 = c.ctlCrc.toNat)
    (hok : (List.range (placeCount s)).all (ctlEntryOk data) = true) :
    ∃ x, controlBlockIn s resp data = { s with
      dus := x
      sp := { s.sp with cur := some { r with cmd := some { c with ctlWait := false }, ctl := some (ctlOf s c data) } } } := by
  obtain ⟨x, hx⟩ := landCtl_passes (s := { s with sp := { s.sp with cur := some { r with cmd := some { c with ctlWait := false } } } }) (r := r) hd hcrc hok
  refine ⟨x, ?_⟩
  unfold controlBlockIn
  rw [openTicks_cur hc he, List.find?_cons]
  simp only [hcmd, hw]
  rw [hm, if_neg Bool.false_ne_true, if_neg (by omega), modTick_cur hc he, hx]
  exact modTick_cur (s := { s with
    dus := x
    sp := { s.sp with cur := some { r with cmd := some { c with ctlWait := false } } } }) (r := { r with cmd := some { c with ctlWait := false } }) rfl he _

/-! ### Error blocks (R281 to R283) -/

/-- Reading a row apart from those written. -/
theorem rowData_writeOrchard_apart (h : memWf s.dp.dev) {b n c : Nat} {data : List Byte} (hl : data.length = 512 * n) (hc : ∀ k < n, c ≠ b + k) :
    rowData (writeOrchard s b data).dp c = rowData s.dp c := by
  have hk := memSlice_writeOrchard_apart h (b := b) (c := c) (k := 1) hl (by
    by_contra hno
    exact hc (c - b) (by omega) (by omega))
  unfold rowData rowBytes
  rw [Nat.mul_comm]
  exact hk

theorem orchardRows_writeOrchard_apart (h : memWf s.dp.dev) {b n c k : Nat} {data : List Byte} (hl : data.length = 512 * n)
    (hc : ∀ i < k, ∀ j < n, c + i ≠ b + j) (hm : ∀ i < k, rowMarks s.dp (c + i) = []) :
    orchardRows (writeOrchard s b data) c k = orchardRows s c k ∧ ∀ i < k, rowMarks (writeOrchard s b data).dp (c + i) = [] := by
  have hmk : ∀ i < k, rowMarks (writeOrchard s b data).dp (c + i) = [] := by
    intro i hi
    rw [rowMarks_writeOrchard hl, if_neg (fun hin => hc i hi (c + i - b) (by omega) (by omega))]
    exact hm i hi
  refine ⟨?_, hmk⟩
  unfold orchardRows
  rw [devRows_clean (fun r hr => by
    obtain ⟨i, hi, rfl⟩ := List.mem_map.1 hr
    exact hmk i (List.mem_range.1 hi)), devRows_clean (fun r hr => by
    obtain ⟨i, hi, rfl⟩ := List.mem_map.1 hr
    exact hm i (List.mem_range.1 hi))]
  refine List.flatMap_congr (fun r hr => ?_)
  obtain ⟨i, hi, rfl⟩ := List.mem_map.1 hr
  exact rowData_writeOrchard_apart h hl (fun j hj => hc i (List.mem_range.1 hi) j hj)

theorem orchardRows_length {b n : Nat} (hwf : memWf s.dp.dev) (h : ∀ k < n, rowMarks s.dp (b + k) = []) : (orchardRows s b n).length = 512 * n := by
  rw [orchardRows_clean hwf h, memSlice_eq hwf, List.length_map, List.length_range]

/-- The state in which the entries of an error block are taken. -/
def errTaken (s : State) (r : TickRec) (es : List ErrFetch) (x : Vector Cu (2 ^ 2)) (p : Package) (data : List Byte) : State :=
  writeOrchard { s with dus := x, sp := { s.sp with cur := some { r with errs := es } } } p.errBase data

/-- An error block of one entry whose check holds. -/
theorem errorBlockIn_of {r : TickRec} {e : ErrFetch} {es : List ErrFetch} {resp : BitVec 2} {data : List Byte} {p : Package}
    (hc : s.sp.cur = some r) (he : s.sp.early = none) (hd : r.dispatched = false) (hctl : r.ctl.isSome = true) (herrs : r.errs = e :: es)
    (hm : meterHolds s.dp (portMeter e.port) e.ticket = false) (hmore : meterHolds s.dp (portMeter e.port) e.more = false)
    (hoff : e.more = none → s.dp.metering = false) (hr : resp.toNat < 2) (hlen : data.length = 1024) (hok : (errBlockOk s e data).1 = true)
    (hn : fieldAt data 8 2 = 1) (hp : taskPkg s = some p) :
    ∃ x, errorBlockIn s resp data = (takeEntry r (errTaken s r es x p data, []) (data.drop 512)).1 := by
  have hseq : fieldAt data 0 8 = e.seq.toNat := by
    by_contra hne
    unfold errBlockOk at hok
    dsimp only at hok
    rw [if_pos (Or.inr hne)] at hok
    exact absurd hok Bool.false_ne_true
  have hbad : ¬(512 < fieldAt data 8 2 ∨ fieldAt data 0 8 ≠ e.seq.toNat) := by
    rw [hn]
    exact fun h => h.elim (by decide) (fun h => h hseq)
  obtain ⟨v, hv⟩ : ∃ v, v = { s with sp := { s.sp with cur := some { r with errs := es } } } := ⟨_, rfl⟩
  have hk : ∃ x, errBlockOk v e data = (true, { v with dus := x }) := by
    have h1 := hok
    unfold errBlockOk at h1 ⊢
    dsimp only at h1 ⊢
    rw [if_neg hbad] at h1 ⊢
    rw [hv]
    exact ⟨_, Prod.ext h1 rfl⟩
  obtain ⟨x, hk⟩ := hk
  refine ⟨x, ?_⟩
  have hmeter : (if e.more.isSome = true then (!meterHolds s.dp (portMeter e.port) e.more, s.dp)
      else ((meterOffer s.dp (portMeter e.port) (rowBytes * 1) (isEarlyTick s r.seq)).1.isNone,
        (meterOffer s.dp (portMeter e.port) (rowBytes * 1) (isEarlyTick s r.seq)).2)) = (true, s.dp) := by
    cases hem : e.more with
    | none =>
      rw [if_neg (by simp), meterOffer_off _ _ _ _ (hoff hem)]
      rfl
    | some k =>
      rw [if_pos (by rfl), ← hem, hmore]
      rfl
  have hchunk : chunks rowBytes 1 (padTo (rowBytes * 1) (data.drop rowBytes)) = [data.drop 512] := by
    have hl : (data.drop 512).length = 512 := by rw [List.length_drop, hlen]
    unfold rowBytes
    rw [padTo_of_length hl]
    unfold chunks
    rw [if_neg (by rw [List.isEmpty_iff]; exact fun h => by rw [h] at hl; exact absurd hl (by decide)), List.take_of_length_le hl.le]
    rfl
  unfold errorBlockIn
  rw [openTicks_cur hc he, List.find?_cons]
  simp only [hd, hctl, herrs, Bool.not_false, Bool.true_and, List.isEmpty_cons]
  rw [hm, if_neg Bool.false_ne_true, if_neg (by omega), modTick_cur hc he, ← hv, hk, decide_eq_false hbad, hn]
  rw [if_neg Bool.false_ne_true, hmeter]
  dsimp only
  rw [if_neg (by decide), if_neg (by decide), if_neg (by decide), hchunk]
  have harea : errArea { v with dus := x, dp := s.dp } 1 data = errTaken s r es x p data := by
    unfold errArea
    rw [show taskPkg { v with dus := x, dp := s.dp } = some p by rw [hv]; exact hp]
    dsimp only
    rw [show rowBytes * (1 + 1) = 1024 from rfl, padTo_of_length hlen, hv]
    rfl
  rw [List.foldl_cons, List.foldl_nil, ← harea]

/-- The place of an accepted entry (R283). -/
def entryPlace (s : State) (x : Stream) (k : Nat) (row : List Byte) : LrnPlace :=
  { slot := freeLrnSlot s, adapter := k, finite := true, stream := BitVec.ofNat 16 (fieldAt row 0 2), group := if x.adapt = 2 then some x.group else none,
    tgtSeq := BitVec.ofNat 64 (fieldAt row 8 8), lrsh := BitVec.ofNat 4 (fieldAt row 2 1), inUse := false, runTick := 0 }

/-- An entry that nothing refuses is copied with its retention rows. -/
theorem acceptEntry_of {x : Stream} {p : Package} {k : Nat} {a : AdapterDef} {row : List Byte}
    (hf : findStream s (BitVec.ofNat 16 (fieldAt row 0 2)) = some x) (hp : taskPkg s = some p) (ha : streamAdapter p x = some (k, a)) (hl : row.length = 512)
    (hm : ∀ n < retRows a + 1, rowMarks s.dp (retRow a (x.place.getD 0) (BitVec.ofNat 64 (fieldAt row 8 8)) + n) = []) :
    acceptEntry s row = { writeOrchard s (p.lrnBase + freeLrnSlot s * lrnRows p)
        (row ++ orchardRows s (retRow a (x.place.getD 0) (BitVec.ofNat 64 (fieldAt row 8 8))) (retRows a + 1)) with
      sp := { s.sp with lrn := s.sp.lrn ++ [entryPlace s x k row] }
      fwr := { s.fwr with lrn := { s.fwr.lrn with accept := s.fwr.lrn.accept + 1 } } } := by
  unfold acceptEntry
  dsimp only
  rw [hf, hp]
  dsimp only
  rw [ha]
  dsimp only
  have hn : noteSpan s (retRow a (x.place.getD 0) (BitVec.ofNat 64 (fieldAt row 8 8))) (retRows a + 1) = s := by
    refine noteRows_clean (fun r hr => ?_)
    obtain ⟨n, hn, rfl⟩ := List.mem_map.1 hr
    exact hm n (List.mem_range.1 hn)
  rw [hn, show padTo rowBytes row = row from padTo_of_length hl]
  rfl

/-- R283: the entry of an error block in its place, with its retention rows. -/
theorem errorBlock_accepted {r : TickRec} {es : List ErrFetch} {data : List Byte} {p : Package} {x : Stream} {k : Nat} {a : AdapterDef}
    {v : Vector Cu (2 ^ 2)} (hwf : memWf s.dp.dev) (hlen : data.length = 1024) (hp : taskPkg s = some p)
    (hf : findStream s (BitVec.ofNat 16 (fieldAt (data.drop 512) 0 2)) = some x) (href : entryRefusal s r [] (data.drop 512) = none)
    (ha : streamAdapter p x = some (k, a))
    (hr : ∀ n < retRows a + 1, retRow a (x.place.getD 0) (BitVec.ofNat 64 (fieldAt (data.drop 512) 8 8)) + n ∉ [p.errBase, p.errBase + 1])
    (hb : ∀ n < retRows a + 2, p.lrnBase + freeLrnSlot s * lrnRows p + n ∉ [p.errBase, p.errBase + 1])
    (hm : ∀ n < retRows a + 1, rowMarks s.dp (retRow a (x.place.getD 0) (BitVec.ofNat 64 (fieldAt (data.drop 512) 8 8)) + n) = []) :
    ∃ t, (takeEntry r (errTaken s r es v p data, []) (data.drop 512)).1 = t ∧ { t.dp with dev := s.dp.dev, ecc := s.dp.ecc, wcls := s.dp.wcls } = s.dp ∧
      orchardRows t (p.lrnBase + freeLrnSlot s * lrnRows p) (retRows a + 2) =
        data.drop 512 ++ orchardRows s (retRow a (x.place.getD 0) (BitVec.ofNat 64 (fieldAt (data.drop 512) 8 8))) (retRows a + 1) ∧
      orchardRows t p.errBase 2 = data ∧
      otherRowsKept s t ([p.errBase, p.errBase + 1] ++ (List.range (retRows a + 2)).map (p.lrnBase + freeLrnSlot s * lrnRows p + ·)) ∧
      t.sp = { s.sp with cur := some { r with errs := es }, lrn := s.sp.lrn ++ [entryPlace s x k (data.drop 512)] } ∧
      t.fwr = { s.fwr with lrn := { s.fwr.lrn with accept := s.fwr.lrn.accept + 1 } } := by
  have hrow : (data.drop 512).length = 512 := by rw [List.length_drop, hlen]
  have hdata : data.length = 512 * 2 := hlen
  have hap : ∀ c n, (∀ i < n, c + i ∉ [p.errBase, p.errBase + 1]) → ∀ i < n, ∀ j < 2, c + i ≠ p.errBase + j := by
    intro c n h i hi j hj he
    have := h i hi
    simp only [List.mem_cons, List.not_mem_nil, or_false, not_or] at this
    omega
  obtain ⟨hret, hmk⟩ := orchardRows_writeOrchard_apart hwf hdata (hap _ _ hr) hm
  have htaken : takeEntry r (errTaken s r es v p data, []) (data.drop 512) =
      (acceptEntry (errTaken s r es v p data) (data.drop 512), [BitVec.ofNat 16 (fieldAt (data.drop 512) 0 2)]) := by
    unfold takeEntry
    dsimp only
    rw [show entryRefusal (errTaken s r es v p data) r [] (data.drop 512) = none from href]
    rfl
  have hacc := acceptEntry_of (s := errTaken s r es v p data) (row := data.drop 512) hf hp ha hrow hmk
  have hret' : orchardRows (errTaken s r es v p data) (retRow a (x.place.getD 0) (BitVec.ofNat 64 (fieldAt (data.drop 512) 8 8))) (retRows a + 1) =
      orchardRows s (retRow a (x.place.getD 0) (BitVec.ofNat 64 (fieldAt (data.drop 512) 8 8))) (retRows a + 1) := hret
  have hlen2 : (data.drop 512 ++ orchardRows s (retRow a (x.place.getD 0) (BitVec.ofNat 64 (fieldAt (data.drop 512) 8 8))) (retRows a + 1)).length =
      512 * (retRows a + 2) := by
    rw [List.length_append, hrow, orchardRows_length hwf hm]
    omega
  have hwf2 : memWf (errTaken s r es v p data).dp.dev := memWf_writeOrchard hwf _ _
  rw [hret'] at hacc
  rw [htaken, hacc]
  refine ⟨_, rfl, rfl, orchardRows_writeOrchard hwf2 hlen2, ?_, ?_, rfl, rfl⟩
  · have hap2 := orchardRows_writeOrchard_apart (s := errTaken s r es v p data) (c := p.errBase) (k := 2) hwf2 hlen2
      (fun i hi j hj he => hap _ _ hb j hj i hi he.symm)
      (fun i hi => by
        have := rowMarks_writeOrchard (s := s) (b := p.errBase) hdata (p.errBase + i)
        rw [if_pos (by omega)] at this
        exact this)
    exact hap2.1.trans (orchardRows_writeOrchard hwf hdata)
  · intro c hc
    refine (memRead_writeOrchard (s := errTaken s r es v p data) hlen2 (fun i hi => hc _ ?_)).trans ?_
    · exact List.mem_append_right _ (List.mem_map_of_mem (List.mem_range.2 hi))
    · refine memRead_writeOrchard (s := s) hdata (fun i hi => hc _ (List.mem_append_left _ ?_))
      have : i = 0 ∨ i = 1 := by omega
      rcases this with rfl | rfl <;> simp

/-- R282: an entry that is refused counts with its reason. -/
theorem errorBlock_refused {r : TickRec} {es : List ErrFetch} {data : List Byte} {p : Package} {n : Nat} {v : Vector Cu (2 ^ 2)} (hwf : memWf s.dp.dev)
    (hlen : data.length = 1024) (href : entryRefusal s r [] (data.drop 512) = some (n + 1)) :
    ∃ t, (takeEntry r (errTaken s r es v p data, []) (data.drop 512)).1 = t ∧ { t.dp with dev := s.dp.dev, ecc := s.dp.ecc, wcls := s.dp.wcls } = s.dp ∧
      orchardRows t p.errBase 2 = data ∧ otherRowsKept s t [p.errBase, p.errBase + 1] ∧ t.sp = { s.sp with cur := some { r with errs := es } } ∧
      t.fwr = { s.fwr with lrn := { s.fwr.lrn with
        refuse := s.fwr.lrn.refuse + 1, refReason := BitVec.ofNat 8 (n + 1), refId := BitVec.ofNat 16 (fieldAt (data.drop 512) 0 2) } } := by
  have hdata : data.length = 512 * 2 := hlen
  have htaken : takeEntry r (errTaken s r es v p data, []) (data.drop 512) =
      (refuseEntry (errTaken s r es v p data) (n + 1) (BitVec.ofNat 16 (fieldAt (data.drop 512) 0 2)), [BitVec.ofNat 16 (fieldAt (data.drop 512) 0 2)]) := by
    unfold takeEntry
    dsimp only
    rw [show entryRefusal (errTaken s r es v p data) r [] (data.drop 512) = some (n + 1) from href]
    rfl
  rw [htaken]
  exact ⟨_, rfl, rfl, orchardRows_writeOrchard hwf hdata, otherRowsKept_writeOrchard hdata s rfl, rfl, rfl⟩

/-! ### Embeddings and samples -/

theorem modCore_vget (d : Dp) (c k : BitVec 3) (f : Core → Core) : vget (d.modCore c f).cores k = if c = k then f (vget d.cores k) else vget d.cores k := by
  refine (vget_vset _ _ _ _).trans ?_
  by_cases h : k = c
  · rw [if_pos h, if_pos h.symm, h]
  · rw [if_neg h, if_neg (Ne.symm h)]

/-- R42: an embedding that has landed. -/
theorem exec_embedding {id : W16} {x : Stream} {p : Package} {resp : BitVec 2} {data : List Byte} (hf : findStream s id = some x) (hp : taskPkg s = some p)
    (hfly : x.embFly = true) (hm : meterHolds s.dp (portMeter (embPort x)) x.embTicket = false) (hr : resp.toNat < 2) :
    ∃ t, exec (.embeddingFetchComplete id resp data) s = .next t ∧ besideDesc { s with dp := t.dp } t ∧
      { t.dp with dev := s.dp.dev, ecc := s.dp.ecc, wcls := s.dp.wcls, cores := s.dp.cores } = s.dp ∧
      (∀ c, coreOf t c = if embCore s p x = some c then (coreOf s c).setNflag (nflagBits .de (embBytes p data).2) s.dp.cycle else coreOf s c) ∧
      t.dp.dev = memWrite s.dp.dev (512 * (p.embBase + (x.placeNext.getD 0).toNat * rowsFor (embBytes p data).1.length)) (embBytes p data).1 ∧
      t.sp = { s.sp with streams := streamsWith s id (fun y => { y with embFly := false, embTicket := none, emb := true }) } := by
  have hx : ∃ d, { d with cores := s.dp.cores } = s.dp ∧ (∀ c, vget d.cores c =
        if embCore s p x = some c then (coreOf s c).setNflag (nflagBits .de (embBytes p data).2) s.dp.cycle else coreOf s c) ∧
      embeddingIn s id resp data = modStream (writeOrchard { modStream s id (fun y => { y with embFly := false, embTicket := none }) with dp := d }
        (p.embBase + (x.placeNext.getD 0).toNat * rowsFor (embBytes p data).1.length) (embBytes p data).1) id (fun y => { y with emb := true }) := by
    unfold embeddingIn
    rw [hf, hp]
    dsimp only
    rw [hfly, hm, if_neg (by decide), if_neg (by omega), show embCore (modStream s id (fun y => { y with embFly := false, embTicket := none })) p x = embCore s p x from rfl]
    cases hc : embCore s p x with
    | none => exact ⟨s.dp, rfl, fun c => (if_neg (by simp)).symm, rfl⟩
    | some k =>
      refine ⟨s.dp.modCore k (fun y => y.setNflag (nflagBits .de (embBytes p data).2) s.dp.cycle), rfl, fun c => ?_, rfl⟩
      rw [modCore_vget]
      exact if_congr (by simp) rfl rfl
  obtain ⟨d, hd, hcore, he⟩ := hx
  have hdev : d.dev = s.dp.dev := (congrArg Dp.dev hd :)
  refine ⟨_, congrArg Host.Outcome.next he, rfl, ?_, hcore, ?_, ?_⟩
  · exact (congrArg (fun e : Dp => { e with dev := s.dp.dev, ecc := s.dp.ecc, wcls := s.dp.wcls }) hd :)
  · rw [← hdev]
    rfl
  · have hs := streamsWith_modStream (s := s) (id := id) (f := fun y => { y with embFly := false, embTicket := none }) (fun y => { y with emb := true }) (fun _ => rfl)
    exact (congrArg (fun l => { s.sp with streams := l }) hs :)

theorem sampleTick_ordinary (he : s.sp.early = none) : sampleTick s = (s.tkc.seq + 1, false) := by
  unfold sampleTick
  rw [he]

/-- R40: a sample that is taken. -/
theorem sampleIn_taken {port : BitVec 2} {id : W16} {data : List Byte} {keepOk : Bool} {x : Stream} {p : Package}
    (hr : sinReason s port id data keepOk = none) (he : s.sp.early = none) (hf : findStream s id = some x) (hp : taskPkg s = some p) :
    sampleIn s port id data keepOk = { writeOrchard s
        (intakeRow p (s.tkc.seq + 1) (x.placeNext.getD (x.place.getD 0)) x.nextWindow.length) (padTo 512 data) with
      fwr := { s.fwr with sin := vset s.fwr.sin port { vget s.fwr.sin port with accept := (vget s.fwr.sin port).accept + 1 } }
      sp := { s.sp with streams := streamsWith s id (fun y => { y with nextWindow := y.nextWindow ++ [data] }) } } := by
  unfold sampleIn
  rw [hr]
  dsimp only
  rw [show findStream { s with fwr := { s.fwr with sin := vset s.fwr.sin port { vget s.fwr.sin port with accept := (vget s.fwr.sin port).accept + 1 } } } id = some x from hf,
    show taskPkg { s with fwr := { s.fwr with sin := vset s.fwr.sin port { vget s.fwr.sin port with accept := (vget s.fwr.sin port).accept + 1 } } } = some p from hp]
  dsimp only
  rw [sampleTick_ordinary
    (s := { s with fwr := { s.fwr with sin := vset s.fwr.sin port { vget s.fwr.sin port with accept := (vget s.fwr.sin port).accept + 1 } } }) he]
  cases x.placeNext <;> rfl

/-- Settles O50: each arrival is computed on the state it finds. -/
theorem intakeTakesWhatArrives : Obligations.IntakeTakesWhatArrives := by
  unfold Obligations.IntakeTakesWhatArrives
  refine ⟨?_, ?_, ?_, ?_, ?_⟩
  · intro s d r h hok hf hq h0 ht he hc
    obtain ⟨x, hx⟩ := takeTick_of h hok hf hq h0 ht he hc
    refine ⟨fun hlt => ?_, fun hlt hs hd hp href h1 h2 => ?_, fun hlt hs hd hp => ?_⟩
    · rw [if_pos hlt] at hx
      exact congrArg Host.Outcome.next hx
    · rw [if_neg hlt, if_pos hs, hd, if_pos (by rfl), intakeTick_plain (s := takenTick s d x) hc he hs hp href h1 h2] at hx
      refine ⟨_, congrArg Host.Outcome.next hx, rfl, rfl, ?_⟩
      have hport : tickPort (takenTick s d x) = tickPort s := by
        unfold tickPort takenTick takenState takenHif
        dsimp only
        rw [← hq, vget_vset_same]
        rfl
      rw [hport]
      rfl
    · rw [if_neg hlt, if_pos hs, hd, hp, if_neg (by decide), Bool.false_and, if_neg Bool.false_ne_true] at hx
      exact ⟨_, congrArg Host.Outcome.next hx, rfl, rfl, rfl⟩
  · intro s r c resp data hc he hcmd hw hd hm hr hcrc hok
    obtain ⟨x, hx⟩ := controlBlockIn_of hc he hcmd hw hd hm hr hcrc hok
    exact ⟨_, congrArg Host.Outcome.next hx, rfl, rfl⟩
  · intro s r e es resp data x p hc he hd hctl herrs hm hmore hoff hr hlen hok hn row id tgt b area hp hf hwf
    obtain ⟨v, hv⟩ := errorBlockIn_of hc he hd hctl herrs hm hmore hoff hr hlen hok hn hp
    refine ⟨fun k a href ha hra hba hmk => ?_, fun n href => ?_⟩
    · obtain ⟨t, ht, h⟩ := errorBlock_accepted (v := v) (es := es) hwf hlen hp hf href ha hra hba hmk
      exact ⟨t, congrArg Host.Outcome.next (hv.trans ht), h⟩
    · obtain ⟨t, ht, h⟩ := errorBlock_refused (v := v) (es := es) (p := p) hwf hlen href
      exact ⟨t, congrArg Host.Outcome.next (hv.trans ht), h⟩
  · intro s id x p resp data _ hf hp hfly hm hr b a₀
    obtain ⟨t, h1, h2, h3, h4, h5, h6⟩ := exec_embedding (data := data) hf hp hfly hm hr
    refine ⟨t, h1, h2, h3, h4, fun a => ?_, h6⟩
    rw [h5]
    exact memRead_memWrite_byteAt _ _ _ _
  · intro s port id data keepOk f
    constructor
    · intro n hn
      refine congrArg Host.Outcome.next ?_
      unfold sampleIn
      rw [hn]
    · intro x p hr hwf he hf hp row
      have hl : (padTo 512 data).length = 512 * 1 := padTo_length _ _
      refine ⟨_, congrArg Host.Outcome.next (sampleIn_taken hr he hf hp), rfl, orchardRows_writeOrchard hwf hl, ?_, rfl, rfl, rfl⟩
      exact otherRowsKept_writeOrchard hl s rfl

end Sys2Proof.Machine
end

section
/-!
MIRROR MODE AND THE SELF-TEST (R364 to R368): seals, signatures, verdicts, and the outcome of the two tests.
-/
namespace Sys2Proof.Machine
-- one proof after the other: the check compiles one text, and its memory holds few threads
set_option Elab.async false
open Sys2Proof.Safety

variable {s t u : State}

/-! ### Frames to send -/

/-- Of the pair's state, sending frames changes what waits, what has gone, the credits and the count of bytes. -/
def LinkOnly (t u : Twn) : Prop := { u with tx := t.tx, wire := t.wire, credit := t.credit, txBytes := t.txBytes } = t

theorem sendFrames_linkOnly (n : Nat) (t : Twn) : LinkOnly t (sendFrames n t) := by
  induction n generalizing t with
  | zero => rfl
  | succ n ih =>
    unfold sendFrames
    split
    · rfl
    · next i _ =>
      split
      · rfl
      · next f _ =>
        split
        · exact (congrArg (fun w : Twn => { w with tx := t.tx, wire := t.wire, credit := t.credit, txBytes := t.txBytes })
          (ih { t with tx := t.tx.eraseIdx i, wire := t.wire ++ [f], credit := t.credit - f.beats, txBytes := t.txBytes + 32 * f.beats }) :)
        · rfl

theorem sendAll_link (s : State) (fs : List Frame) : ∃ w, sendAll s fs = { s with twn := w } ∧ LinkOnly s.twn w := by
  unfold sendAll flushLink
  split
  · exact ⟨s.twn, rfl, rfl⟩
  · split
    · exact ⟨_, rfl, (congrArg (fun w : Twn => { w with tx := s.twn.tx, wire := s.twn.wire, credit := s.twn.credit, txBytes := s.twn.txBytes })
        (sendFrames_linkOnly (s.twn.tx ++ fs).length { s.twn with tx := s.twn.tx ++ fs }) :)⟩
    · exact ⟨_, rfl, rfl⟩

/-! ### Verdicts (R365 to R367) -/

theorem disagree_kept (s : State) (k : Nat) : (disagree s k).dp = s.dp ∧ (disagree s k).sp = s.sp ∧ ∃ m, (disagree s k).twn = { s.twn with mismatch := m } := by
  unfold disagree
  dsimp only
  split
  · rw [twinReport_dp, twinReport_sp, twinReport_twn]
    exact ⟨rfl, rfl, _, rfl⟩
  · exact ⟨rfl, rfl, _, rfl⟩

theorem disagrees_kept (l : List Nat) (s : State) : (l.foldl disagree s).dp = s.dp ∧ (l.foldl disagree s).sp = s.sp ∧
    ∃ m, (l.foldl disagree s).twn = { s.twn with mismatch := m } := by
  induction l generalizing s with
  | nil => exact ⟨rfl, rfl, s.twn.mismatch, rfl⟩
  | cons k l ih =>
    obtain ⟨h1, h2, m, h3⟩ := disagree_kept s k
    obtain ⟨g1, g2, n, g3⟩ := ih (disagree s k)
    refine ⟨g1.trans h1, g2.trans h2, n, ?_⟩
    rw [List.foldl_cons, g3, h3]

theorem callChange_kept (s : State) (c : TwnChange) : ∃ x, callChange s c = { s with twn := { s.twn with change := x } } := by
  unfold callChange
  split
  · exact ⟨s.twn.change, rfl⟩
  · exact ⟨_, rfl⟩

/-- A verdict that stands is the last one; only mismatches are counted and a change may be called for. -/
theorem takeVerdict_kept (s : State) (v : VerdictRec) (b : Bool) : (takeVerdict s v b).dp = s.dp ∧ (takeVerdict s v b).sp = s.sp ∧
    ∃ m c, (takeVerdict s v b).twn = { s.twn with verdicts := s.twn.verdicts ++ [v], mismatch := m, change := c } := by
  obtain ⟨h1, h2, m, h3⟩ := disagrees_kept (placesIn v.group v.mismatch) { s with twn := { s.twn with verdicts := s.twn.verdicts ++ [v] } }
  unfold takeVerdict
  dsimp only
  split
  · obtain ⟨x, hx⟩ := callChange_kept ((placesIn v.group v.mismatch).foldl disagree { s with twn := { s.twn with verdicts := s.twn.verdicts ++ [v] } }) ⟨0, .selftest, 8, false⟩
    rw [hx]
    dsimp only
    rw [h3]
    exact ⟨h1, h2, m, x, rfl⟩
  · exact ⟨h1, h2, m, s.twn.change, h3⟩

theorem getLsbD_setBit {n : Nat} (v : BitVec n) {i : Nat} (hi : i < n) (b : Bool) (j : Nat) : (setBit v i b).getLsbD j = if j = i then b else v.getLsbD j := by
  unfold setBit
  cases b
  · simp only [Bool.false_eq_true, if_false, BitVec.getLsbD_and, BitVec.getLsbD_not, BitVec.getLsbD_shiftLeft]
    by_cases hj : j = i
    · subst hj
      simp only [hi, decide_true, Nat.lt_irrefl, decide_false, Nat.sub_self, if_true]
      simp [Nat.zero_lt_of_lt hi]
    · rw [if_neg hj]
      by_cases hjn : j < n
      · by_cases hlt : j < i
        · simp [hjn, hlt]
        · have h0 : j - i ≠ 0 := by omega
          simp [hjn, hlt, h0]
      · rw [BitVec.getLsbD_of_ge v j (by omega), Bool.false_and]
  · simp only [if_true, BitVec.getLsbD_or, BitVec.getLsbD_shiftLeft]
    by_cases hj : j = i
    · subst hj
      simp only [hi, decide_true, Nat.lt_irrefl, decide_false, Nat.sub_self, if_true]
      simp [Nat.zero_lt_of_lt hi]
    · rw [if_neg hj]
      by_cases hlt : j < i
      · simp [hlt]
      · have h0 : j - i ≠ 0 := by omega
        simp [h0]

/-- A vector of bits set one after another. -/
theorem getLsbD_foldl_setBit {n : Nat} (f : Nat → Bool) (l : List Nat) (hl : ∀ i ∈ l, i < n) (v : BitVec n) (j : Nat) :
    (l.foldl (fun (b : BitVec n) i => setBit b i (f i)) v).getLsbD j = if j ∈ l then f j else v.getLsbD j := by
  induction l generalizing v with
  | nil => simp
  | cons i l ih =>
    rw [List.foldl_cons, ih (fun k hk => hl k (by simp [hk])), getLsbD_setBit v (hl i (by simp))]
    by_cases hj : j ∈ l
    · rw [if_pos hj, if_pos (by simp [hj])]
    · rw [if_neg hj]
      by_cases hi : j = i
      · rw [if_pos hi, if_pos (by simp [hi]), hi]
      · rw [if_neg hi, if_neg (by simp [hi, hj])]

/-- What role 0 decides of a group that both twins have sealed (R365). -/
def decidedVerdict (m x : SigRec) : VerdictRec :=
  let both := m.bitmap &&& x.bitmap
  let eq := (List.range 64).foldl (fun (b : W64) i => setBit b i (m.sigs.getD i 0 == x.sigs.getD i 0)) 0
  { seq := m.seq, group := m.group, link := false, commit := both &&& eq, mismatch := both &&& ~~~eq }

theorem decidedVerdict_bits (m x : SigRec) {i : Nat} (hi : i < 64) :
    (decidedVerdict m x).commit.getLsbD i = (m.bitmap.getLsbD i && x.bitmap.getLsbD i && m.sigs.getD i 0 == x.sigs.getD i 0) ∧
      (decidedVerdict m x).mismatch.getLsbD i = (m.bitmap.getLsbD i && x.bitmap.getLsbD i && m.sigs.getD i 0 != x.sigs.getD i 0) := by
  have he := getLsbD_foldl_setBit (n := 64) (fun i => m.sigs.getD i 0 == x.sigs.getD i 0) (List.range 64) (fun i hi => List.mem_range.1 hi) 0 i
  rw [if_pos (List.mem_range.2 hi)] at he
  unfold decidedVerdict
  dsimp only
  rw [BitVec.getLsbD_and, BitVec.getLsbD_and, BitVec.getLsbD_and, BitVec.getLsbD_and, BitVec.getLsbD_not, he, decide_eq_true hi, Bool.true_and]
  exact ⟨rfl, rfl⟩

/-- What the decision on groups leaves: verdicts stay, signatures and data too. -/
structure VerdictsGrow (s t : State) : Prop where
  dp : t.dp = s.dp
  sigs : t.twn.sigs = s.twn.sigs
  sub : ∀ v ∈ s.twn.verdicts, v ∈ t.twn.verdicts

theorem decideGroup_cases (s : State) (m : SigRec) : decideGroup s m = s ∨ ∃ x, s.twn.sigs.find? (fun x => x.seq == m.seq && x.group == m.group) = some x ∧
    hasVerdict s m.seq m.group = false ∧ (decideGroup s m).dp = s.dp ∧ (decideGroup s m).twn.sigs = s.twn.sigs ∧
    (decideGroup s m).twn.verdicts = s.twn.verdicts ++ [decidedVerdict m x] := by
  cases hx : s.twn.sigs.find? (fun x => x.seq == m.seq && x.group == m.group) with
  | none =>
    left
    unfold decideGroup
    rw [hx]
  | some x =>
    cases hv : hasVerdict s m.seq m.group with
    | true =>
      left
      unfold decideGroup
      rw [hx]
      dsimp only
      rw [hv, if_pos rfl]
    | false =>
      right
      have he : ∃ b, decideGroup s m = takeVerdict (sendAll s (verdictFrames (decidedVerdict m x) b)) (decidedVerdict m x) b := by
        unfold decideGroup
        rw [hx]
        dsimp only
        rw [hv, if_neg Bool.false_ne_true]
        exact ⟨_, rfl⟩
      obtain ⟨b, he⟩ := he
      obtain ⟨w, hw, hl⟩ := sendAll_link s (verdictFrames (decidedVerdict m x) b)
      obtain ⟨h1, -, m', c, h3⟩ := takeVerdict_kept (sendAll s (verdictFrames (decidedVerdict m x) b)) (decidedVerdict m x) b
      rw [hw] at h1 h3
      rw [he, hw]
      refine ⟨x, rfl, rfl, h1, ?_, ?_⟩
      · rw [h3]
        exact (congrArg Twn.sigs hl :)
      · rw [h3]
        exact (congrArg (fun t : Twn => t.verdicts ++ [decidedVerdict m x]) hl :)

theorem decideGroup_grows (s : State) (m : SigRec) : VerdictsGrow s (decideGroup s m) := by
  rcases decideGroup_cases s m with h | ⟨x, -, -, h1, h2, h3⟩
  · rw [h]
    exact ⟨rfl, rfl, fun v hv => hv⟩
  · exact ⟨h1, h2, fun v hv => by rw [h3]; exact List.mem_append_left _ hv⟩

theorem decideGroups_grow (l : List SigRec) (s : State) : VerdictsGrow s (l.foldl decideGroup s) := by
  induction l generalizing s with
  | nil => exact ⟨rfl, rfl, fun v hv => hv⟩
  | cons m l ih =>
    have h := decideGroup_grows s m
    have g := ih (decideGroup s m)
    exact ⟨g.dp.trans h.dp, g.sigs.trans h.sigs, fun v hv => g.sub v (h.sub v hv)⟩

/-- Of seals of one group the first decides. -/
theorem decideGroups_decides (l : List SigRec) {s : State} {m x : SigRec} (hm : l.find? (fun y => y.seq == m.seq && y.group == m.group) = some m)
    (hx : s.twn.sigs.find? (fun y => y.seq == m.seq && y.group == m.group) = some x) (hv : hasVerdict s m.seq m.group = false) :
    decidedVerdict m x ∈ (l.foldl decideGroup s).twn.verdicts := by
  induction l generalizing s with
  | nil => exact absurd hm (by simp)
  | cons y l ih =>
    rw [List.foldl_cons]
    rw [List.find?_cons] at hm
    cases hy : (y.seq == m.seq && y.group == m.group) with
    | true =>
      rw [hy] at hm
      obtain rfl : y = m := Option.some.inj hm
      rcases decideGroup_cases s y with h | ⟨z, hz, -, -, -, h3⟩
      · exfalso
        have he : ∃ b, decideGroup s y = takeVerdict (sendAll s (verdictFrames (decidedVerdict y x) b)) (decidedVerdict y x) b := by
          unfold decideGroup
          rw [hx]
          dsimp only
          rw [hv, if_neg Bool.false_ne_true]
          exact ⟨_, rfl⟩
        obtain ⟨b, he⟩ := he
        obtain ⟨w, hw, hl⟩ := sendAll_link s (verdictFrames (decidedVerdict y x) b)
        obtain ⟨-, -, m', c, h3⟩ := takeVerdict_kept (sendAll s (verdictFrames (decidedVerdict y x) b)) (decidedVerdict y x) b
        have hlen := congrArg (fun t : Twn => t.verdicts.length) h3
        rw [← he, h, hw] at hlen
        have hvl := (congrArg (fun t : Twn => t.verdicts.length) hl :)
        simp only [List.length_append, List.length_singleton] at hlen hvl
        omega
      · rw [hz] at hx
        obtain rfl := Option.some.inj hx
        exact (decideGroups_grow l _).sub _ (by rw [h3]; simp)
    | false =>
      rw [hy] at hm
      have hk := decideGroup_grows s y
      refine ih hm (by rw [hk.sigs]; exact hx) ?_
      rcases decideGroup_cases s y with h | ⟨z, -, -, -, -, h3⟩
      · rw [h]
        exact hv
      · unfold hasVerdict at hv ⊢
        rw [h3, List.any_append, hv, Bool.false_or, List.any_cons, List.any_nil, Bool.or_false]
        exact hy

/-! ### Frames received -/

/-- R365: role 0 decides a group once both seals are there. -/
theorem exec_sig {m : SigRec} {sigs : List W64} {bits : W64} (hs : s.twn.state = .mirror) (hr : s.twn.role = false) (hq : m.seq = s.tkc.seq)
    (hc : s.sp.cur.isSome = true) (hm : s.twn.mine.find? (fun x => x.seq == m.seq && x.group == m.group) = some m)
    (hv : hasVerdict s m.seq m.group = false) (hn : s.twn.sigs.any (fun x => x.seq == m.seq && x.group == m.group) = false) :
    ∃ t, exec (.sig m.seq m.group sigs bits) s = .next t ∧ decidedVerdict m ⟨m.seq, m.group, sigs, bits⟩ ∈ t.twn.verdicts ∧ t.dp.dev = s.dp.dev := by
  obtain ⟨v, hvd⟩ : ∃ v : State, v = { s with twn := { (goodFrame s (1 + (8 * sigs.length + 39) / 32)).twn with
      sigs := s.twn.sigs ++ [⟨m.seq, m.group, sigs, bits⟩] } } := ⟨_, rfl⟩
  have hx : exec (.sig m.seq m.group sigs bits) s = .next ((s.twn.mine.filter (fun m => m.seq == s.tkc.seq)).foldl decideGroup v) := by
    refine congrArg Host.Outcome.next ?_
    unfold sigFrame
    dsimp only
    refine (if_neg ?_).trans ?_
    · rw [Bool.not_eq_true, Bool.or_eq_false_iff, Bool.or_eq_false_iff, Bool.or_eq_false_iff, Bool.or_eq_false_iff]
      exact ⟨⟨⟨⟨hr, by rw [show (goodFrame s _).twn.state = .mirror from hs]; rfl⟩, hn⟩, by rw [show (goodFrame s _).tkc.seq = s.tkc.seq from rfl, hq]; simp⟩,
        by rw [show (goodFrame s _).sp.cur = s.sp.cur from rfl]; simpa using hc⟩
    · unfold decideGroups
      refine (if_neg ?_).trans ?_
      · rw [Bool.not_eq_true, Bool.or_eq_false_iff]
        exact ⟨hr, by dsimp only; rw [show (goodFrame s _).twn.state = .mirror from hs]; rfl⟩
      · rw [hvd]
        rfl
  have hsig : v.twn.sigs = s.twn.sigs ++ [⟨m.seq, m.group, sigs, bits⟩] := by rw [hvd]
  refine ⟨_, hx, decideGroups_decides _ ?_ ?_ ?_, ?_⟩
  · rw [List.find?_filter]
    refine Eq.trans ?_ hm
    refine List.find?_congr (fun y _ => ?_)
    rw [hq]
    cases y.seq == s.tkc.seq
    · rfl
    · simp [beq_eq_decide]
  · rw [hsig, List.find?_append, List.find?_eq_none.2 (by simpa using hn)]
    simp
  · rw [hvd]
    exact hv
  · rw [(decideGroups_grow _ v).dp, hvd]

/-- R367: role 1 takes the first VERDICT of a group. -/
theorem exec_verdict {g : W16} {link selftest : Bool} {commit mism : W64} (hs : s.twn.state = .mirror) (hr : s.twn.role = true)
    (hc : s.sp.cur.isSome = true) (hv : hasVerdict s s.tkc.seq g = false) (hch : s.twn.change = none) :
    ∃ t, exec (.verdict s.tkc.seq g link selftest commit mism) s = .next t ∧ t.twn.verdicts = s.twn.verdicts ++ [⟨s.tkc.seq, g, link, commit, mism⟩] ∧
      t.twn.change = (if selftest then some ⟨0, .selftest, 8, false⟩ else none) ∧ (mism = 0 → t.twn.mismatch = s.twn.mismatch ∧ t.err = s.err) ∧ t.dp = s.dp := by
  obtain ⟨v, hvd⟩ : ∃ v : VerdictRec, v = ⟨s.tkc.seq, g, link, commit, mism⟩ := ⟨_, rfl⟩
  obtain ⟨u, hu⟩ : ∃ u : State, u = { goodFrame s 2 with twn := { (goodFrame s 2).twn with verdicts := s.twn.verdicts ++ [v] } } := ⟨_, rfl⟩
  have hx : exec (.verdict s.tkc.seq g link selftest commit mism) s = .next (if selftest then callChange ((placesIn g mism).foldl disagree u) ⟨0, .selftest, 8, false⟩
      else (placesIn g mism).foldl disagree u) := by
    refine congrArg Host.Outcome.next ?_
    unfold verdictFrame
    dsimp only
    refine (if_neg ?_).trans ?_
    · rw [Bool.not_eq_true, Bool.or_eq_false_iff, Bool.or_eq_false_iff, Bool.or_eq_false_iff, Bool.or_eq_false_iff]
      refine ⟨⟨⟨⟨?_, ?_⟩, ?_⟩, ?_⟩, hv⟩
      · rw [show (goodFrame s 2).twn.role = true from hr]
        rfl
      · rw [show (goodFrame s 2).twn.state = .mirror from hs]
        rfl
      · rw [show (goodFrame s 2).tkc.seq = s.tkc.seq from rfl]
        simp
      · rw [show (goodFrame s 2).sp.cur = s.sp.cur from rfl]
        simpa using hc
    · rw [hu, hvd]
      rfl
  obtain ⟨h1, h2, m, h3⟩ := disagrees_kept (placesIn g mism) u
  have hchange : ((placesIn g mism).foldl disagree u).twn.change = none := by
    rw [h3, hu]
    exact hch
  have hverd : ((placesIn g mism).foldl disagree u).twn.verdicts = s.twn.verdicts ++ [v] := by rw [h3, hu]
  have hdp : ((placesIn g mism).foldl disagree u).dp = s.dp := by
    rw [h1, hu]
    rfl
  have hzero : mism = 0 → ((placesIn g mism).foldl disagree u).twn.mismatch = s.twn.mismatch ∧ ((placesIn g mism).foldl disagree u).err = s.err := by
    rintro rfl
    have hp : placesIn g 0 = [] := by
      unfold placesIn
      rw [List.filter_eq_nil_iff.2 (fun i _ => by simp)]
      rfl
    rw [hp, hu]
    exact ⟨rfl, rfl⟩
  rw [← hvd]
  refine ⟨_, hx, ?_⟩
  cases selftest
  · exact ⟨hverd, hchange, hzero, hdp⟩
  · rw [if_pos rfl, callChange_of_none hchange]
    exact ⟨hverd, rfl, hzero, hdp⟩

/-! ### The deadline of the verdicts (R366) -/

/-- The verdict of a group that has none at the deadline. -/
def linkRec (q : W64) (g : Nat) : VerdictRec := { seq := q, group := BitVec.ofNat 16 g, link := true, commit := 0, mismatch := 0 }

theorem linkVerdict_cases (q : W64) (s : State) (g : Nat) :
    (linkVerdict q s g = s ∧ hasVerdict s q (BitVec.ofNat 16 g) = true) ∨ (linkVerdict q s g).twn.verdicts = s.twn.verdicts ++ [linkRec q g] := by
  unfold linkVerdict
  dsimp only
  cases hv : hasVerdict s q (BitVec.ofNat 16 g) with
  | true => exact Or.inl ⟨if_pos rfl, rfl⟩
  | false =>
    right
    rw [if_neg Bool.false_ne_true]
    obtain ⟨w, hw, hl⟩ := sendAll_link s (verdictFrames (linkRec q g) false)
    obtain ⟨-, -, m', c, h3⟩ := takeVerdict_kept (sendAll s (verdictFrames (linkRec q g) false)) (linkRec q g) false
    rw [hw] at h3
    rw [show sendAll s (verdictFrames { seq := q, group := BitVec.ofNat 16 g, link := true, commit := 0, mismatch := 0 } false) = { s with twn := w } from hw]
    refine (congrArg Twn.verdicts h3 :).trans ?_
    exact (congrArg (fun t : Twn => t.verdicts ++ [linkRec q g]) hl :)

theorem hasVerdict_of_mem {v : VerdictRec} (h : v ∈ s.twn.verdicts) : hasVerdict s v.seq v.group = true := by
  unfold hasVerdict
  rw [List.any_eq_true]
  exact ⟨v, h, by simp⟩

/-- Every group has its verdict after the deadline, and the new ones have LINK set. -/
theorem linkVerdicts_all (q : W64) (l : List Nat) (s : State) : (∀ v ∈ s.twn.verdicts, v ∈ (l.foldl (linkVerdict q) s).twn.verdicts) ∧
    (∀ g ∈ l, hasVerdict (l.foldl (linkVerdict q) s) q (BitVec.ofNat 16 g) = true) ∧
    ∀ v ∈ (l.foldl (linkVerdict q) s).twn.verdicts, v ∈ s.twn.verdicts ∨ (v.seq = q ∧ v.link = true ∧ v.commit = 0 ∧ v.mismatch = 0) := by
  induction l generalizing s with
  | nil => exact ⟨fun v hv => hv, fun g hg => absurd hg List.not_mem_nil, fun v hv => Or.inl hv⟩
  | cons g l ih =>
    obtain ⟨h1, h2, h3⟩ := ih (linkVerdict q s g)
    rw [List.foldl_cons]
    rcases linkVerdict_cases q s g with ⟨he, hv⟩ | hv
    · rw [he] at h1 h2 h3 ⊢
      refine ⟨h1, fun k hk => ?_, h3⟩
      rcases List.mem_cons.1 hk with rfl | hk
      · obtain ⟨v, hvm, hve⟩ := List.any_eq_true.1 hv
        obtain ⟨hq, hg⟩ := Bool.and_eq_true_iff.1 hve
        have := hasVerdict_of_mem (h1 v hvm)
        rwa [beq_iff_eq.1 hq, beq_iff_eq.1 hg] at this
      · exact h2 k hk
    · rw [hv] at h1 h3
      refine ⟨fun v hvm => h1 v (List.mem_append_left _ hvm), fun k hk => ?_, fun v hvm => ?_⟩
      · rcases List.mem_cons.1 hk with rfl | hk
        · exact hasVerdict_of_mem (v := linkRec q k) (h1 _ (by simp))
        · exact h2 k hk
      · rcases h3 v hvm with h | h
        · rcases List.mem_append.1 h with h | h
          · exact Or.inl h
          · rw [List.mem_singleton.1 h]
            exact Or.inr ⟨rfl, rfl, rfl, rfl⟩
        · exact Or.inr h

/-- R366: the deadline. -/
theorem exec_verdictDeadline {r : TickRec} (hc : s.sp.cur = some r) (hs : s.twn.state = .mirror) (hr : s.twn.role = false) (hd : r.vdDone = false)
    (hreach : canReach s (s.tkc.deadOfs.toNat - 1000) = true) (hf : frozen (reach s (s.tkc.deadOfs.toNat - 1000)) = false) :
    exec .verdictDeadline s = .next (modTick ((List.range ((placeCount (reach s (s.tkc.deadOfs.toNat - 1000)) + 63) / 64)).foldl (linkVerdict r.seq)
      (reach s (s.tkc.deadOfs.toNat - 1000))) r.seq (fun r => { r with vdDone := true })) := by
  refine congrArg Host.Outcome.next ?_
  unfold verdictDeadline
  rw [hc]
  dsimp only
  rw [if_neg (by rw [hs, hr, hd, hreach]; decide), hf, if_neg Bool.false_ne_true]

/-! ### The self-test (R368) -/

theorem foldl_twn {α : Type} {f : State → α → State} (hf : ∀ s x, (f s x).twn = s.twn) (l : List α) (s : State) : (l.foldl f s).twn = s.twn := by
  induction l generalizing s with
  | nil => rfl
  | cons x l ih => rw [List.foldl_cons, ih, hf]

theorem refreshHold_twn (s : State) (c : BitVec 3) : (refreshHold s c).twn = s.twn := by
  unfold refreshHold
  dsimp only
  split <;> rfl

theorem stopUnreleased_twn (s : State) (c : BitVec 3) : (stopUnreleased s c).twn = s.twn := by
  unfold stopUnreleased
  split
  · dsimp only
    split <;> rfl
  · rfl

theorem resumeVft_twn (s : State) (c : BitVec 3) : (resumeVft s c).twn = s.twn := by
  unfold resumeVft
  split
  · rfl
  · exact takeReports_twn _ _

theorem passFirmware_twn (s : State) (n : Nat) : (passFirmware s n).twn = s.twn := rfl

/-- Time counts the waits of the pair and changes nothing else of it. -/
def PairWaits (t u : Twn) : Prop := { u with change := t.change, testLeft := t.testLeft } = t

theorem PairWaits.trans {t u v : Twn} (h : PairWaits t u) (g : PairWaits u v) : PairWaits t v :=
  (congrArg (fun w : Twn => { w with change := t.change, testLeft := t.testLeft }) g :).trans h

theorem passSpan_pairWaits (s : State) (n : Nat) : PairWaits s.twn (s.passSpan n).twn := by
  unfold State.passSpan
  split
  · rfl
  have hhold : (allCores.foldl refreshHold s).twn = s.twn := foldl_twn refreshHold_twn _ s
  generalize allCores.foldl refreshHold s = u at hhold
  dsimp only
  generalize hv : passFirmware _ _ = v
  have hfw : PairWaits s.twn v.twn := by
    rw [← hv, passFirmware_twn, ← hhold]
    split <;> rfl
  generalize hw : (if (flagHits u n).isEmpty = true then v else bpMatch v (flagHits u n) false) = w
  have hbp : w.twn = v.twn := by
    rw [← hw]
    split
    · rfl
    · exact bpMatch_twn _ _ _
  have hend : (allCores.foldl resumeVft (stopLate (takeReports w (u.dp.pass n (frozen u)).2))).twn = w.twn := by
    rw [foldl_twn resumeVft_twn, stopLate, foldl_twn stopUnreleased_twn, takeReports_twn]
  split
  · rw [freezeNow_twn, hend, hbp]
    exact hfw
  · rw [hend, hbp]
    exact hfw

theorem pass_pairWaits (s : State) (n : Nat) : PairWaits s.twn (s.pass n).twn := by
  unfold State.pass
  generalize 8 = k
  induction k generalizing s n with
  | zero => exact passSpan_pairWaits s n
  | succ k ih =>
    unfold State.passSpans
    split
    · exact (passSpan_pairWaits s _).trans (ih _ _)
    · exact passSpan_pairWaits s n

theorem pass_twnState (s : State) (n : Nat) : (s.pass n).twn.state = s.twn.state := (congrArg Twn.state (pass_pairWaits s n) :)

/-- The change of state that two results call for (Table 18-4). -/
def testOutcome (own other : Bool) : TwnChange :=
  if own = false then ⟨4000, .fenced, 0xA, true⟩ else if other = true then ⟨4000, .unpaired, 9, false⟩ else ⟨4000, .unpaired, 0xB, false⟩

theorem settleTest_both {a b : Bool} (hs : s.twn.state = .selftest) (ha : s.twn.own = some a) (hb : s.twn.other = some b) (hc : s.twn.change = none) :
    (settleTest s).twn = { s.twn with change := some (testOutcome a b) } ∧ (settleTest s).dp = s.dp ∧ (settleTest s).sp = s.sp := by
  have hx : settleTest s = callChange (if a then s else twinReport s 0xFFFF 0xA) (testOutcome a b) := by
    unfold settleTest
    rw [if_neg (fun h => h hs), ha, hb]
    cases a <;> cases b <;> rfl
  have hch : (if a then s else twinReport s 0xFFFF 0xA).twn = s.twn ∧ (if a then s else twinReport s 0xFFFF 0xA).dp = s.dp ∧
      (if a then s else twinReport s 0xFFFF 0xA).sp = s.sp := by
    cases a
    · exact ⟨twinReport_twn _ _, twinReport_dp _ _, twinReport_sp _ _⟩
    · exact ⟨rfl, rfl, rfl⟩
  obtain ⟨h1, h2, h3⟩ := hch
  rw [hx, callChange_of_none (by rw [h1]; exact hc)]
  refine ⟨?_, h2, h3⟩
  dsimp only
  rw [h1]

/-- A restart called for stays in the list while others are called for. -/
theorem callRestart_keeps {r : Restart} (n : Nat) (q : W64) (h : r ∈ s.sp.restarts) : ∃ x ∈ (callRestart s n q false).sp.restarts, x.chain = r.chain := by
  have hd : (callRestart s n q false).sp.restarts = if s.sp.restarts.any (fun r => r.chain = n) then
      s.sp.restarts.map (fun r => if r.chain = n then { r with restore := r.restore || false } else r) else s.sp.restarts ++ [⟨n, false, false⟩] := by
    unfold callRestart dropEarly
    dsimp only
    split
    · split <;> rfl
    · rfl
  rw [hd]
  split
  · refine ⟨_, List.mem_map_of_mem h, ?_⟩
    split <;> rfl
  · exact ⟨r, List.mem_append_left _ h, rfl⟩

theorem callRestarts_all (l : List Nat) (s : State) : (∀ ch, (ch ∈ l ∨ ∃ x ∈ s.sp.restarts, x.chain = ch) →
      ∃ x ∈ (l.foldl (fun s ch => callRestart s ch s.tkc.seq false) s).sp.restarts, x.chain = ch) ∧
    (l.foldl (fun s ch => callRestart s ch s.tkc.seq false) s).twn = s.twn ∧ (l.foldl (fun s ch => callRestart s ch s.tkc.seq false) s).dp.dev = s.dp.dev := by
  induction l generalizing s with
  | nil => exact ⟨fun ch h => h.resolve_left List.not_mem_nil, rfl, rfl⟩
  | cons n l ih =>
    obtain ⟨h1, h2, h3⟩ := ih (callRestart s n s.tkc.seq false)
    refine ⟨fun ch h => h1 ch ?_, h2.trans (callRestart_twn _ _ _ _), h3.trans (congrArg Dp.dev (callRestart_dp s n s.tkc.seq false) :)⟩
    rcases h with h | ⟨x, hx, rfl⟩
    · rcases List.mem_cons.1 h with rfl | h
      · exact Or.inr (callRestart_sp ch s.tkc.seq false).2
      · exact Or.inl h
    · exact Or.inr (callRestart_keeps n s.tkc.seq hx)

/-- R368: the tests of this twin end, the peer's result known. -/
theorem exec_selftestEnd {pass other : Bool} (hs : s.twn.state = .selftest) (ho : s.twn.own = none) (hr : mayReach s s.twn.testLeft = true)
    (hf : frozen (s.pass s.twn.testLeft) = false) (hother : (s.pass s.twn.testLeft).twn.other = some other) (hc : (s.pass s.twn.testLeft).twn.change = none) :
    ∃ t, exec (.selftestEnd pass false) s = .next t ∧ t.twn.own = some pass ∧ t.twn.state = .selftest ∧ t.dp.dev = (s.pass s.twn.testLeft).dp.dev ∧
      (∀ ch < (taskChains (s.pass s.twn.testLeft)).length, ∃ x ∈ t.sp.restarts, x.chain = ch) ∧ t.twn.change = some (testOutcome pass other) := by
  have hstate := (pass_twnState s s.twn.testLeft).trans hs
  have hx : exec (.selftestEnd pass false) s = .next (testEnds s pass false) := rfl
  unfold testEnds at hx
  rw [if_neg (by rw [hs, ho, hr]; decide)] at hx
  generalize s.pass s.twn.testLeft = u at *
  obtain ⟨w, hw, hl⟩ := sendAll_link u [ctrlFrame u.tkc.seq 5 [BitVec.ofNat 8 pass.toNat]]
  have hwo : w.other = some other := ((congrArg Twn.other hl :)).trans hother
  have hwc : w.change = none := ((congrArg Twn.change hl :)).trans hc
  have hws : w.state = .selftest := ((congrArg Twn.state hl :)).trans hstate
  dsimp only at hx
  rw [hf, if_neg Bool.false_ne_true, hw] at hx
  dsimp only at hx
  rw [hwo, if_neg (by simp)] at hx
  obtain ⟨h1, h2, h3⟩ := callRestarts_all (List.range (taskChains u).length) { u with twn := { w with own := some pass, other := some other } }
  have hx' : exec (.selftestEnd pass false) s = .next (settleTest ((List.range (taskChains u).length).foldl (fun s ch => callRestart s ch s.tkc.seq false)
      { u with twn := { w with own := some pass, other := some other } })) := hx
  generalize List.foldl (fun (s : State) ch => callRestart s ch s.tkc.seq false) { u with twn := { w with own := some pass, other := some other } }
    (List.range (taskChains u).length) = v at *
  obtain ⟨g1, g2, g3⟩ := settleTest_both (s := v) (a := pass) (b := other) (by rw [h2]; exact hws) (by rw [h2]) (by rw [h2]) (by rw [h2]; exact hwc)
  refine ⟨_, hx', ?_, ?_, ?_, fun ch hch => ?_, ?_⟩
  · rw [g1, h2]
  · rw [g1, h2]
    exact hws
  · rw [g2]
    exact h3
  · rw [g3]
    exact h1 ch (Or.inl (List.mem_range.2 hch))
  · rw [g1]

/-! ### The seal (R364) -/

/-- Streams, memory and pairing stay; bytes the spec leaves open are drawn and check units run. -/
structure SealKept (s t : State) : Prop where
  sp : t.sp = s.sp
  dp : { t.dp with free := s.dp.free } = s.dp
  twn : t.twn = s.twn

theorem SealKept.trans {s t u : State} (h : SealKept s t) (g : SealKept t u) : SealKept s u :=
  ⟨g.sp.trans h.sp, (congrArg (fun d : Dp => { d with free := s.dp.free }) g.dp :).trans h.dp, g.twn.trans h.twn⟩

theorem isSealed_congr (hsp : t.sp = s.sp) (hdp : { t.dp with free := s.dp.free } = s.dp) (r : TickRec) (y : StreamTick) : isSealed t r y = isSealed s r y := by
  have hcores : t.dp.cores = s.dp.cores := (congrArg Dp.cores hdp :)
  have hcyc : t.dp.cycle = s.dp.cycle := (congrArg Dp.cycle hdp :)
  have hpkg : taskPkg t = taskPkg s := by
    unfold taskPkg
    rw [hsp]
  unfold isSealed stFinished coreFinished packetsOf chainCores taskChains
  rw [hpkg, hcores, hcyc]

theorem signRecs_kept (s : State) (p : Package) (l : List OutRec) : SealKept s (signRecs s p l).2 := by
  unfold signRecs
  split <;> exact ⟨rfl, rfl, rfl⟩

/-- A place's stream-tick is sealed. -/
def placeSealed (s : State) (r : TickRec) (k : Nat) : Bool := r.sts.any (fun y => y.place.toNat == k && isSealed s r y)

/-- The rows of a tick's outputs are without marks. -/
def OutputsClean (s : State) (p : Package) (r : TickRec) : Prop := ∀ y ∈ r.sts, ∀ k ∈ outReads p r.seq y, rowMarks s.dp k = []

theorem sealPlace_step {p : Package} {r : TickRec} {a : State × List W64 × W64} (hc : OutputsClean a.1 p r) (k : Nat) :
    SealKept a.1 (sealPlace p r a k).1 ∧ (sealPlace p r a k).2.2 = if placeSealed a.1 r k then setBit a.2.2 (k % 64) true else a.2.2 := by
  unfold sealPlace placeSealed
  cases hf : r.sts.find? (fun y => y.place.toNat == k && isSealed a.1 r y) with
  | none =>
    have hno : r.sts.any (fun y => y.place.toNat == k && isSealed a.1 r y) = false := by
      rw [List.any_eq_false]
      exact List.find?_eq_none.1 hf
    rw [hno]
    exact ⟨⟨rfl, rfl, rfl⟩, rfl⟩
  | some y =>
    have hy := List.mem_of_find?_eq_some hf
    have hyes : r.sts.any (fun y => y.place.toNat == k && isSealed a.1 r y) = true := 
      List.any_eq_true.2 ⟨y, hy, List.find?_some (p := fun y => y.place.toNat == k && isSealed a.1 r y) hf⟩
    rw [hyes]
    dsimp only
    rw [noteRows_clean (hc y hy)]
    exact ⟨signRecs_kept _ _ _, rfl⟩

/-- The bits of a group's places. -/
theorem sealPlaces_bits {p : Package} {r : TickRec} (hc : OutputsClean s p r) (l : List Nat) (a : State × List W64 × W64) (ha : SealKept s a.1) :
    SealKept s (l.foldl (sealPlace p r) a).1 ∧ ∀ i < 64, (l.foldl (sealPlace p r) a).2.2.getLsbD i =
      (a.2.2.getLsbD i || l.any (fun k => k % 64 == i && placeSealed s r k)) := by
  induction l generalizing a with
  | nil => exact ⟨ha, fun i _ => by simp⟩
  | cons k l ih =>
    have hmk : ∀ row, rowMarks a.1.dp row = rowMarks s.dp row := by
      intro row
      unfold rowMarks
      rw [show a.1.dp.ecc = s.dp.ecc from (congrArg Dp.ecc ha.dp :)]
    obtain ⟨h1, h2⟩ := sealPlace_step (a := a) (fun y hy k hk => by rw [hmk]; exact hc y hy k hk) k
    obtain ⟨g1, g2⟩ := ih (sealPlace p r a k) (ha.trans h1)
    refine ⟨g1, fun i hi => (g2 i hi).trans ?_⟩
    have hps : placeSealed a.1 r k = placeSealed s r k := by
      unfold placeSealed
      congr 1
      funext y
      rw [isSealed_congr ha.sp ha.dp]
    rw [h2, hps, List.any_cons]
    cases hk : placeSealed s r k
    · simp
    · rw [if_pos rfl, getLsbD_setBit _ (Nat.mod_lt k (by decide))]
      by_cases he : i = k % 64
      · rw [if_pos he, he]
        simp
      · rw [if_neg he, Bool.and_true, beq_eq_false_iff_ne.2 (Ne.symm he), Bool.false_or]

/-- What sealing groups keeps. -/
structure GroupsSealed (s t : State) : Prop where
  sp : t.sp = s.sp
  dp : { t.dp with free := s.dp.free } = s.dp
  role : t.twn.role = s.twn.role
  mine : ∀ m ∈ s.twn.mine, m ∈ t.twn.mine

/-- The seal of a group of n places: its bits. -/
def SealsGroup (s : State) (p : Package) (r : TickRec) (g : Nat) (m : SigRec) : Prop := m.seq = r.seq ∧ m.group = BitVec.ofNat 16 g ∧
  ∀ i < 64, m.bitmap.getLsbD i = (decide (64 * g + i < p.places.length) && r.sts.any (fun y => y.place.toNat == 64 * g + i && isSealed s r y))

theorem sealGroup_seals {p : Package} {r : TickRec} {v : State} (hc : OutputsClean s p r) (hv : GroupsSealed s v) (g : Nat) :
    GroupsSealed s (sealGroup p r v g) ∧ (∀ m ∈ v.twn.mine, m ∈ (sealGroup p r v g).twn.mine) ∧ ∃ m ∈ (sealGroup p r v g).twn.mine, SealsGroup s p r g m := by
  have hmk : ∀ row, rowMarks v.dp row = rowMarks s.dp row := by
    intro row
    unfold rowMarks
    rw [show v.dp.ecc = s.dp.ecc from (congrArg Dp.ecc hv.dp :)]
  have hps : ∀ k, placeSealed v r k = placeSealed s r k := by
    intro k
    unfold placeSealed
    congr 1
    funext y
    rw [isSealed_congr hv.sp hv.dp]
  obtain ⟨h1, h2⟩ := sealPlaces_bits (s := v) (p := p) (r := r) (fun y hy k hk => by rw [hmk]; exact hc y hy k hk)
    ((List.range (min 64 (p.places.length - 64 * g))).map (fun k => 64 * g + k)) (v, [], 0) ⟨rfl, rfl, rfl⟩
  unfold sealGroup
  dsimp only
  generalize List.foldl (sealPlace p r) (v, [], 0) ((List.range (min 64 (p.places.length - 64 * g))).map (fun k => 64 * g + k)) = a at *
  obtain ⟨w, hw, hl⟩ := sendAll_link { a.1 with twn := { a.1.twn with mine := a.1.twn.mine ++ [{ seq := r.seq, group := BitVec.ofNat 16 g, sigs := a.2.1, bitmap := a.2.2 }] } }
    [mkFrame 2 0 r.seq (bytesOf 2 g ++ bytesOf 2 (min 64 (p.places.length - 64 * g))) (a.2.1.flatMap (fun w => bytesOf 8 w.toNat) ++ bytesOf 8 a.2.2.toNat),
      mkFrame 2 1 r.seq (bytesOf 2 g ++ bytesOf 2 (min 64 (p.places.length - 64 * g))) (a.2.1.flatMap (fun w => bytesOf 8 w.toNat) ++ bytesOf 8 a.2.2.toNat)]
  rw [hw]
  have hmine : w.mine = v.twn.mine ++ [{ seq := r.seq, group := BitVec.ofNat 16 g, sigs := a.2.1, bitmap := a.2.2 }] := by
    rw [← h1.twn]
    exact (congrArg Twn.mine hl :)
  have hrole : w.role = v.twn.role := by
    rw [← h1.twn]
    exact (congrArg Twn.role hl :)
  have hsub : ∀ m ∈ v.twn.mine, m ∈ w.mine := fun m hm => by
    rw [hmine]
    exact List.mem_append_left _ hm
  refine ⟨⟨h1.sp.trans hv.sp, (congrArg (fun d : Dp => { d with free := s.dp.free }) h1.dp :).trans hv.dp, hrole.trans hv.role, fun m hm => hsub m (hv.mine m hm)⟩,
    hsub, ⟨{ seq := r.seq, group := BitVec.ofNat 16 g, sigs := a.2.1, bitmap := a.2.2 }, ?_, rfl, rfl, fun i hi => ?_⟩⟩
  · show _ ∈ w.mine
    rw [hmine]
    simp
  · rw [h2 i hi, show ((v, [], 0) : State × List W64 × W64).2.2.getLsbD i = false by simp, Bool.false_or]
    rw [Bool.eq_iff_iff, List.any_map, List.any_eq_true, Bool.and_eq_true, decide_eq_true_iff]
    simp only [List.mem_range, Function.comp_apply, Bool.and_eq_true, beq_iff_eq, hps]
    constructor
    · rintro ⟨k, hk, hm, hs⟩
      obtain rfl : k = i := by omega
      exact ⟨by omega, hs⟩
    · rintro ⟨hlt, hs⟩
      exact ⟨i, by omega, by omega, hs⟩

theorem sealGroups_seal {p : Package} {r : TickRec} (hc : OutputsClean s p r) (l : List Nat) (v : State) (hv : GroupsSealed s v) :
    GroupsSealed s (l.foldl (sealGroup p r) v) ∧ (∀ m ∈ v.twn.mine, m ∈ (l.foldl (sealGroup p r) v).twn.mine) ∧
      ∀ g ∈ l, ∃ m ∈ (l.foldl (sealGroup p r) v).twn.mine, SealsGroup s p r g m := by
  induction l generalizing v with
  | nil => exact ⟨hv, fun m hm => hm, fun g hg => absurd hg List.not_mem_nil⟩
  | cons g l ih =>
    obtain ⟨h1, h2, m, hm, hs⟩ := sealGroup_seals hc hv g
    obtain ⟨g1, g2, g3⟩ := ih _ h1
    refine ⟨g1, fun m hm => g2 m (h2 m hm), fun k hk => ?_⟩
    rcases List.mem_cons.1 hk with rfl | hk
    · exact ⟨m, g2 m hm, hs⟩
    · exact g3 k hk

/-- R364: the seal of role 1. -/
theorem exec_sealTick {r : TickRec} {p : Package} (hc : s.sp.cur = some r) (hp : taskPkg s = some p) (hs : s.twn.state = .mirror) (hr : s.twn.role = true)
    (hse : r.sealed = false) (hreach : canReach s s.twn.sigOfs.toNat = true) (hu : (reach s s.twn.sigOfs.toNat).sp.cur = some r)
    (hf : frozen (reach s s.twn.sigOfs.toNat) = false) (hcl : OutputsClean (reach s s.twn.sigOfs.toNat) p r) :
    ∃ t, exec .sealTick s = .next t ∧ t.sp.cur = some { r with sealed := true } ∧ t.dp.cores = (reach s s.twn.sigOfs.toNat).dp.cores ∧
      t.dp.dev = (reach s s.twn.sigOfs.toNat).dp.dev ∧ (∀ m ∈ (reach s s.twn.sigOfs.toNat).twn.mine, m ∈ t.twn.mine) ∧
      ∀ g < (p.places.length + 63) / 64, ∃ m ∈ t.twn.mine, SealsGroup (reach s s.twn.sigOfs.toNat) p r g m := by
  have hrole : (reach s s.twn.sigOfs.toNat).twn.role = true := (congrArg Twn.role (pass_pairWaits s (cyclesTo s s.twn.sigOfs.toNat)) :).trans hr
  have hx : exec .sealTick s = .next (sealNow s) := rfl
  unfold sealNow at hx
  rw [hc, hp] at hx
  dsimp only at hx
  rw [if_neg (by rw [hs, hse, hreach]; decide)] at hx
  generalize reach s s.twn.sigOfs.toNat = u at *
  rw [hf, if_neg Bool.false_ne_true, hu] at hx
  dsimp only at hx
  obtain ⟨⟨h1, h2, h3, h4⟩, -, h6⟩ := sealGroups_seal hcl (List.range ((p.places.length + 63) / 64)) u ⟨rfl, rfl, rfl, fun m hm => hm⟩
  generalize (List.range ((p.places.length + 63) / 64)).foldl (sealGroup p r) u = v at *
  have hd : ∀ f, decideGroups (modTick v r.seq f) = modTick v r.seq f := by
    intro f
    unfold decideGroups
    rw [modTick_twn, h3, hrole]
    rfl
  rw [hd] at hx
  refine ⟨_, hx, ?_, (congrArg Dp.cores h2 :), (congrArg Dp.dev h2 :), h4, fun g hg => h6 g (List.mem_range.2 hg)⟩
  unfold modTick mapTicks
  dsimp only
  rw [h1, hu, Option.map_some, if_pos rfl]

end Sys2Proof.Machine
end

section
/-!
THE DELTAS OF A PAIR (R363, R369 to R372): rows that reach the standby, the end that makes them current, and what the active twin sends or abandons.
-/
namespace Sys2Proof.Machine
-- one proof after the other: the check compiles one text, and its memory holds few threads
set_option Elab.async false
open Sys2Proof.Safety

variable {s t u : State}

/-! ### The peer's result (R368) -/

theorem exec_selfTestResult {pass : Bool} (hs : s.twn.state = .selftest) (ho : s.twn.own = none) (hn : s.twn.other = none) :
    exec (.selfTestResult pass) s = .next { s with twn := { received s.twn 2 with other := some pass } } := by
  have hx : exec (.selfTestResult pass) s = .next (if (goodFrame s 2).twn.state = .selftest ∧ (goodFrame s 2).twn.other.isNone then
    settleTest { goodFrame s 2 with twn := { (goodFrame s 2).twn with other := some pass } } else goodFrame s 2) := rfl
  rw [hx, if_pos ⟨hs, congrArg Option.isNone hn⟩]
  refine congrArg Host.Outcome.next ?_
  unfold settleTest
  split
  · rfl
  · split
    · next h1 _ => exact absurd ((ho.symm.trans h1 :)) (by simp)
    · rfl

/-! ### Rows of a delta (R370) -/

/-- A row of a stream's slot with no Bloom row of its own goes to the slot that is not current. -/
theorem writeDeltaRow_slot {p : Package} {x : Stream} {b row : Nat} {data : List Byte} (hx : findStream s x.id = some x) (hid : x.id ≠ 0xFFFF)
    (hb : nextSlot p x = some b) (hrow : row < slotRows p) (hm : p.bloomMap = []) :
    writeDeltaRow s p ⟨x.id, 0, row⟩ data = writeOrchard s (b + row) data := by
  unfold writeDeltaRow
  dsimp only
  rw [if_neg hid, hx]
  dsimp only
  rw [if_neg (by omega), hb, hm]
  dsimp only
  split
  · next h => exact absurd h (by simp)
  · rfl

theorem exec_delta {n : W64} {x : Stream} {p : Package} {b row : Nat} {data : List Byte} (hs : isStandby s = true) (hp : taskPkg s = some p)
    (hx : findStream s x.id = some x) (hid : x.id ≠ 0xFFFF) (hb : nextSlot p x = some b) (hrow : row < slotRows p) (hm : p.bloomMap = [])
    (hl : data.length = 512) :
    exec (.delta n x.id 0 row data) s = .next { writeOrchard s (b + row) data with
      twn := { received s.twn 17 with rows := s.twn.rows ++ [⟨x.id, 0, row⟩], rxFrames := s.twn.rxFrames + 1 } } := by
  refine congrArg Host.Outcome.next ?_
  unfold deltaFrame
  dsimp only
  rw [show isStandby (goodFrame s (1 + (data.length + 31) / 32)) = true from hs, show taskPkg (goodFrame s (1 + (data.length + 31) / 32)) = some p from hp, hl]
  dsimp only
  rw [show (512 : Nat) / rowBytes = 1 from rfl, show List.range 1 = [0] from rfl, List.map_cons, List.map_nil, List.foldl_cons, List.foldl_nil,
    show row + 0 = row from rfl, Nat.sub_self, Nat.mul_zero, List.drop_zero, show rowBytes = 512 from rfl, ← hl, List.take_length]
  rw [writeDeltaRow_slot (s := goodFrame s (1 + (data.length + 31) / 32)) hx hid hb hrow hm, hl]
  rfl

/-! ### The end of a delta (R371) -/

theorem nodup_eraseDups {α : Type} [BEq α] [LawfulBEq α] : (l : List α) → l.eraseDups.Nodup
  | [] => List.nodup_nil
  | a :: l => by
    have : (l.filter fun b => !b == a).length < l.length + 1 := Nat.lt_succ_of_le (List.length_filter_le _ _)
    rw [List.eraseDups_cons, List.nodup_cons]
    exact ⟨by simp, nodup_eraseDups _⟩
termination_by l => l.length

/-- Neither tables nor the pairing change, and no memory error is made. -/
structure RowsOnly (s t : State) : Prop where
  sp : t.sp = s.sp
  twn : t.twn = s.twn
  ecc : t.dp.ecc = []

theorem keepRow_rowsOnly {v : State} (h : RowsOnly s v) (a b : Nat) : RowsOnly s (writeOrchard (noteRows v [a]) b (orchardRows v a 1)) := by
  obtain ⟨hsp, htwn, hecc⟩ := h
  rw [noteRows_clean (fun r _ => by unfold rowMarks; rw [hecc]; rfl)]
  refine ⟨hsp, htwn, ?_⟩
  unfold writeOrchard Dp.rewrite
  dsimp only
  rw [hecc]
  rfl

theorem keepRows_rowsOnly (h : s.dp.ecc = []) (p : Package) (x : Stream) (got : List Nat) : RowsOnly s (keepRows s p x got) := by
  have hrefl : RowsOnly s s := ⟨rfl, rfl, h⟩
  unfold keepRows
  split
  · next a b _ _ =>
    generalize List.filter (fun k => !got.contains k) (List.range (slotRows p)) = l
    suffices ∀ v, RowsOnly s v → RowsOnly s (l.foldl (fun s k => writeOrchard (noteRows s [a + k]) (b + k) (orchardRows s (a + k) 1)) v) from this s hrefl
    induction l with
    | nil => exact fun v hv => hv
    | cons k l ih => exact fun v hv => ih _ (keepRow_rowsOnly hv _ _)
  · exact hrefl

/-- A row of this stream's slot has arrived. -/
def RowArrived (p : Package) (rows : List DeltaRow) (id : W16) : Prop := ∃ d ∈ rows, d.stream = id ∧ d.row < slotRows p

open Classical in
/-- The IDs of the streams with their current slots, those of a list changed that a row of the delta has reached. -/
noncomputable def slotsFlipped (p : Package) (rows : List DeltaRow) (ids : List W16) (x : W16 × Bool) : W16 × Bool :=
  (x.1, if x.1 ∈ ids ∧ RowArrived p rows x.1 then !x.2 else x.2)

open Classical in
theorem slotsFlipped_eq {p : Package} {rows : List DeltaRow} {ids : List W16} {x : W16 × Bool} {c : Prop} [Decidable c]
    (h : (x.1 ∈ ids ∧ RowArrived p rows x.1) ↔ c) : slotsFlipped p rows ids x = (x.1, if c then !x.2 else x.2) :=
  Prod.ext rfl (if_congr h rfl rfl)

/-- The pairing and the adapter groups stay, and the streams' current slots are those given. -/
structure Flipped (s t : State) (l : List (W16 × Bool)) : Prop where
  twn : t.twn = s.twn
  ecc : t.dp.ecc = []
  groups : t.sp.groups = s.sp.groups
  slots : t.sp.streams.map (fun x => (x.id, x.cur)) = l

theorem got_all_iff {p : Package} {rows : List DeltaRow} {id : W16} :
    (((rows.filter (fun r => r.stream == id)).map (fun r => r.row)).all (fun k => decide (slotRows p ≤ k)) = true) ↔ ¬ RowArrived p rows id := by
  unfold RowArrived
  simp only [List.all_eq_true, List.mem_map, List.mem_filter, decide_eq_true_eq, beq_iff_eq, not_exists, not_and, Nat.not_lt]
  exact ⟨fun h d hd he => h d.row ⟨d, ⟨hd, he⟩, rfl⟩, fun h k ⟨d, ⟨hd, he⟩, hk⟩ => hk ▸ h d hd he⟩

/-- A slot flips where a row of it has arrived, and no other stream's does. -/
theorem flipStream_flipped (he : s.dp.ecc = []) (p : Package) (rows : List DeltaRow) (id : W16) : Flipped s (flipStream p rows s id)
    ((s.sp.streams.map (fun x => (x.id, x.cur))).map (slotsFlipped p rows [id])) := by
  have hstay : ∀ l : List Stream, (∀ y ∈ l, y.id = id → ¬ RowArrived p rows id) →
      l.map (fun x => (x.id, x.cur)) = (l.map (fun x => (x.id, x.cur))).map (slotsFlipped p rows [id]) := by
    intro l hl
    rw [List.map_map]
    refine List.map_congr_left (fun y hy => ?_)
    unfold slotsFlipped
    dsimp only [Function.comp]
    rw [if_neg]
    rintro ⟨h1, h2⟩
    have hyi := List.mem_singleton.1 h1
    exact hl y hy hyi (hyi ▸ h2)
  unfold flipStream
  split
  · next hx =>
    refine ⟨rfl, he, rfl, hstay _ (fun y hy hyi => ?_)⟩
    have := List.find?_eq_none.1 hx y hy
    exact absurd (beq_iff_eq.2 hyi) this
  · next x hx =>
    dsimp only
    split
    · next hall => exact ⟨rfl, he, rfl, hstay _ (fun y _ _ => got_all_iff.1 hall)⟩
    · next hall =>
      have harr : RowArrived p rows id := Classical.not_not.1 (fun h => hall (got_all_iff.2 h))
      obtain ⟨hsp, htwn, hecc⟩ := keepRows_rowsOnly he p x ((rows.filter (fun r => r.stream == id)).map (fun r => r.row))
      generalize keepRows s p x ((rows.filter (fun r => r.stream == id)).map (fun r => r.row)) = v at *
      have hread : ∀ a n, (narrowRead v a n).2 = v := by
        intro a n
        unfold narrowRead
        rw [hecc]
        rfl
      have hflip : ∀ f : Stream → Stream, (∀ y, (f y).id = y.id ∧ (f y).cur = !y.cur) → Flipped s (modStream v id f)
          ((s.sp.streams.map (fun x => (x.id, x.cur))).map (slotsFlipped p rows [id])) := by
        intro f hf
        refine ⟨htwn, hecc, (congrArg Sp.groups hsp :), ?_⟩
        unfold modStream
        dsimp only
        rw [hsp, List.map_map, List.map_map]
        refine List.map_congr_left (fun y _ => ?_)
        unfold slotsFlipped
        dsimp only [Function.comp]
        by_cases hy : y.id = id
        · rw [if_pos (beq_iff_eq.2 hy), if_pos ⟨List.mem_singleton.2 hy, hy ▸ harr⟩, (hf y).1, (hf y).2]
        · rw [if_neg (fun h => hy (beq_iff_eq.1 h)), if_neg (fun h => hy (List.mem_singleton.1 h.1))]
      cases nextSlot p x with
      | none => exact hflip _ (fun y => ⟨rfl, rfl⟩)
      | some b =>
        dsimp only
        rw [hread]
        exact hflip _ (fun y => ⟨rfl, rfl⟩)

theorem flipStreams_flipped (p : Package) (rows : List DeltaRow) (ids : List W16) (hn : ids.Nodup) (s : State) (he : s.dp.ecc = []) :
    Flipped s (ids.foldl (flipStream p rows) s) ((s.sp.streams.map (fun x => (x.id, x.cur))).map (slotsFlipped p rows ids)) := by
  induction ids generalizing s with
  | nil =>
    refine ⟨rfl, he, rfl, ?_⟩
    rw [List.map_map]
    exact List.map_congr_left (fun y _ => by simp [slotsFlipped])
  | cons id ids ih =>
    obtain ⟨hid, hn⟩ := List.nodup_cons.1 hn
    obtain ⟨h1, h2, h3, h4⟩ := flipStream_flipped he p rows id
    obtain ⟨g1, g2, g3, g4⟩ := ih hn _ h2
    refine ⟨g1.trans h1, g2, g3.trans h3, ?_⟩
    rw [List.foldl_cons, g4, h4, List.map_map]
    refine List.map_congr_left (fun ⟨i, c⟩ _ => ?_)
    unfold slotsFlipped
    dsimp only [Function.comp]
    by_cases hi : i = id
    · subst hi
      rw [if_neg (fun h : i ∈ ids ∧ _ => hid h.1)]
      by_cases ha : RowArrived p rows i
      · rw [if_pos ⟨List.mem_singleton.2 rfl, ha⟩, if_pos ⟨List.mem_cons_self, ha⟩]
      · rw [if_neg (fun h => ha h.2), if_neg (fun h => ha h.2)]
    · rw [if_neg (fun h : i ∈ [id] ∧ _ => hi (List.mem_singleton.1 h.1))]
      by_cases ha : i ∈ ids ∧ RowArrived p rows i
      · rw [if_pos ha, if_pos ⟨List.mem_cons_of_mem _ ha.1, ha.2⟩]
      · rw [if_neg ha, if_neg (fun h => ha ⟨(List.mem_cons.1 h.1).resolve_left hi, h.2⟩)]

theorem exec_deltaEnd_dropped {n : W64} {frames : W32} {k : W16} {abandon : Bool} {p : Package} (hs : isStandby s = true) (hp : taskPkg s = some p)
    (h : abandon = true ∨ s.twn.rxFrames ≠ frames.toNat) :
    exec (.deltaEnd n frames k abandon) s = .next { s with twn := { received s.twn 1 with rows := [], rxFrames := 0 } } := by
  refine congrArg Host.Outcome.next ?_
  unfold deltaEnds
  dsimp only
  rw [show isStandby (goodFrame s 1) = true from hs, show taskPkg (goodFrame s 1) = some p from hp]
  dsimp only
  refine (if_neg ?_).trans rfl
  rw [show (goodFrame s 1).twn.rxFrames = s.twn.rxFrames from rfl]
  rcases h with rfl | h
  · simp
  · simp [h]

/-- R371: a whole delta flips what its rows have reached. -/
theorem exec_deltaEnd_applied {n : W64} {frames : W32} {k : W16} {p : Package} (hs : isStandby s = true) (hp : taskPkg s = some p)
    (h : s.twn.rxFrames = frames.toNat) (hc : s.twn.changes = []) (he : s.dp.ecc = []) :
    ∃ t, exec (.deltaEnd n frames k false) s = .next t ∧ t.twn = { received s.twn 1 with rows := [], rxFrames := 0, lastSeq := n, copied := true } ∧
      t.sp.streams.map (fun x => (x.id, x.cur)) =
        (s.sp.streams.map (fun x => (x.id, x.cur))).map (slotsFlipped p s.twn.rows ((s.twn.rows.filter (fun r => r.stream != 0xFFFF)).map (fun r => r.stream)).eraseDups) ∧
      t.sp.groups = s.sp.groups.map (fun (g : GroupSlot) =>
        if (((s.twn.rows.filter (fun r => r.stream == 0xFFFF)).map (fun r => r.group)).eraseDups).contains g.group then { g with cur := !g.cur } else g) := by
  have hx : exec (.deltaEnd n frames k false) s = .next (deltaEnds s n frames false) := rfl
  unfold deltaEnds at hx
  dsimp only at hx
  rw [show isStandby (goodFrame s 1) = true from hs, show taskPkg (goodFrame s 1) = some p from hp] at hx
  dsimp only at hx
  rw [if_pos (by rw [show (goodFrame s 1).twn.rxFrames = s.twn.rxFrames from rfl, h]; simp)] at hx
  unfold applyDelta at hx
  dsimp only at hx
  obtain ⟨h1, h2, h3, h4⟩ := flipStreams_flipped p s.twn.rows _ (nodup_eraseDups ((s.twn.rows.filter (fun r => r.stream != 0xFFFF)).map (fun r => r.stream)))
    (goodFrame s 1) he
  rw [show (goodFrame s 1).twn.rows = s.twn.rows from rfl] at hx
  generalize hv : List.foldl (flipStream p s.twn.rows) (goodFrame s 1) _ = v at *
  rw [h1, show (goodFrame s 1).twn.changes = [] from hc, List.foldl_nil, h3] at hx
  refine ⟨_, hx, ?_, h4, rfl⟩
  have hchg : ({ s.twn with changes := [] } : Twn) = s.twn := by rw [← hc]
  exact (congrArg (fun w : Twn => { received w 1 with rows := [], rxFrames := 0, lastSeq := n, copied := true }) hchg :)

/-! ### What the active twin sends (R370, R372) -/

/-- A frame leaves the waiting part of the delta and is counted. -/
def frameGone (w : Twn) (f : Frame) : Twn :=
  { w with deltaLeft := w.deltaLeft.drop 1, deltaSent := w.deltaSent + (if f.type = 4 then 1 else 0) }

/-- A frame of a delta goes out: the link takes it and no meter holds it. -/
theorem sendDeltaFrame_takes {m : BitVec 4} {f : Frame} (hm : s.dp.metering = false) (ht : s.twn.deltaTicket = none) (hl : linkTakes s [f]) :
    sendDeltaFrame s m f = (true, { s with twn := sent (frameGone s.twn f) [f] }) := by
  have hl' := hl
  obtain ⟨htx, hup, hnil, hcr⟩ := hl
  have hask : (if f.type = 6 then (true, none, s.dp) else meterAsk s.dp m (frameUnits f) s.twn.deltaTicket) = (true, none, s.dp) := by
    split
    · rfl
    · exact meterAsk_pass (fun _ => hm) (by rw [ht]; rfl)
  unfold sendDeltaFrame
  rw [if_neg (by simp [htx, hup, hnil]; simpa using hcr)]
  dsimp only
  rw [hask]
  dsimp only
  rw [if_neg (by simp), ← ht]
  exact congrArg _ (sendAll_single (s := { s with twn := frameGone s.twn f }) hl')

theorem sent_sent (w : Twn) (f : Frame) (fs : List Frame) : (sent (sent w [f]) fs).credit = (sent w (f :: fs)).credit := by
  simp only [sent, List.map_cons, List.map_nil, List.sum_cons, List.sum_nil, Nat.add_zero]
  omega

/-- A delta the link takes whole is sent whole. -/
theorem sendDeltas_whole {m : BitVec 4} {n : W64} (fs : List Frame) (s : State) (hm : s.dp.metering = false) (ht : s.twn.deltaTicket = none)
    (ho : s.twn.deltaOf = some n) (hf : s.twn.deltaLeft = fs) (hl : linkTakes s fs) :
    { sendDeltas m s fs with twn := s.twn } = s ∧ (sendDeltas m s fs).twn.wire = s.twn.wire ++ fs ∧ (sendDeltas m s fs).twn.deltaLeft = [] ∧
      (sendDeltas m s fs).twn.deltaOf = none ∧ (sendDeltas m s fs).twn.lastSeq = n ∧ (sendDeltas m s fs).twn.credit = (sent s.twn fs).credit := by
  induction fs generalizing s with
  | nil =>
    rw [sendDeltas, ho]
    exact ⟨rfl, (List.append_nil _).symm, hf, rfl, rfl, rfl⟩
  | cons f fs ih =>
    obtain ⟨htx, hup, hnil, hcr⟩ := hl
    rw [List.map_cons, List.sum_cons] at hcr
    rw [sendDeltas, sendDeltaFrame_takes hm ht ⟨htx, hup, hnil, by simp; omega⟩]
    dsimp only
    rw [if_pos rfl]
    obtain ⟨v, hv⟩ : ∃ v, v = { s with twn := sent (frameGone s.twn f) [f] } := ⟨_, rfl⟩
    rw [← hv]
    obtain ⟨h1, h2, h3, h4, h5, h6⟩ := ih v (by rw [hv]; exact hm) (by rw [hv]; exact ht) (by rw [hv]; exact ho) (by rw [hv]; exact congrArg (List.drop 1) hf)
      (by rw [hv]; exact ⟨htx, hup, hnil, by simp [sent, frameGone]; omega⟩)
    refine ⟨?_, ?_, h3, h4, h5, ?_⟩
    · have := congrArg (fun w : State => { w with twn := s.twn }) h1
      refine Eq.trans ?_ (this.trans ?_)
      · rfl
      · rw [hv]
    · rw [h2, hv]
      simp [sent, frameGone]
    · rw [h6, hv, ← sent_sent]
      rfl

theorem exec_deltaSend {n : W64} (hs : s.twn.state = .active) (ho : s.err.ownL3.getLsbD 1 = true) (hm : s.dp.metering = false) (hd : s.twn.deltaOf = some n)
    (ht : s.twn.deltaTicket = none) (hl : linkTakes s s.twn.deltaLeft) :
    ∃ t, exec .deltaSend s = .next t ∧ { t with twn := s.twn } = s ∧ t.twn.wire = s.twn.wire ++ s.twn.deltaLeft ∧ t.twn.deltaLeft = [] ∧ t.twn.deltaOf = none ∧
      t.twn.lastSeq = n ∧ t.twn.credit = (sent s.twn s.twn.deltaLeft).credit := by
  have hx : exec .deltaSend s = .next (deltaSends s) := rfl
  have hmeter : mirrorMeter s = some (if s.err.splitL3 then 14 else 13) := by
    unfold mirrorMeter
    rw [ho]
    rfl
  unfold deltaSends at hx
  rw [if_neg (by simp [hs]), hmeter] at hx
  exact ⟨_, hx, sendDeltas_whole s.twn.deltaLeft s hm ht hd rfl hl⟩

theorem exec_deltaAbandon {r : TickRec} {n : W64} (hc : s.sp.cur = some r) (hd : s.twn.deltaOf = some n) (hn : n.toNat < r.seq.toNat)
    (hreach : canReach s (s.tkc.deadOfs.toNat - tuStep s) = true) (hf : frozen (reach s (s.tkc.deadOfs.toNat - tuStep s)) = false)
    (hs : (reach s (s.tkc.deadOfs.toNat - tuStep s)).twn.state = .active) (ho : (reach s (s.tkc.deadOfs.toNat - tuStep s)).twn.deltaOf = some n)
    (hl : (reach s (s.tkc.deadOfs.toNat - tuStep s)).twn.deltaLeft ≠ []) :
    ∃ t, exec .deltaAbandon s = .next t ∧ t.twn.deltaOf = none ∧ t.twn.abandon = (reach s (s.tkc.deadOfs.toNat - tuStep s)).twn.abandon + 1 ∧
      t.twn.carry = (reach s (s.tkc.deadOfs.toNat - tuStep s)).twn.deltaIds ∧ t.twn.lastSeq = (reach s (s.tkc.deadOfs.toNat - tuStep s)).twn.lastSeq ∧
      (∀ f ∈ t.twn.deltaLeft, f.type = 6) ∧ t.twn.deltaTicket = none ∧
      t.dp = meterDrop (meterDrop (reach s (s.tkc.deadOfs.toNat - tuStep s)).dp 13 (reach s (s.tkc.deadOfs.toNat - tuStep s)).twn.deltaTicket) 14
        (reach s (s.tkc.deadOfs.toNat - tuStep s)).twn.deltaTicket ∧
      (vget t.err.cls 13).cnt = satInc (vget (reach s (s.tkc.deadOfs.toNat - tuStep s)).err.cls 13).cnt := by
  have hx : exec .deltaAbandon s = .next (deltaAbandons s) := rfl
  unfold deltaAbandons at hx
  rw [hc, hd] at hx
  dsimp only at hx
  rw [if_pos ⟨hn, hreach⟩] at hx
  generalize reach s (s.tkc.deadOfs.toNat - tuStep s) = u at *
  rw [hf, if_neg Bool.false_ne_true] at hx
  unfold abandonDelta at hx
  rw [ho] at hx
  dsimp only at hx
  rw [if_neg (by simp [hs, hl])] at hx
  obtain ⟨v, hv⟩ : ∃ v, v = { dropDeltaTicket u with twn := { (dropDeltaTicket u).twn with
      deltaOf := none, deltaLeft := (dropDeltaTicket u).twn.deltaLeft.filter (fun f => f.type == 6), carry := (dropDeltaTicket u).twn.deltaIds,
      deltaIds := [], abandon := (dropDeltaTicket u).twn.abandon + 1 } } := ⟨_, rfl⟩
  rw [← hv] at hx
  generalize [deltaEnd n (dropDeltaTicket u).twn.deltaSent (dropDeltaTicket u).twn.deltaIds.length true] = fs at hx
  obtain ⟨w, hw, hlink⟩ := sendAll_link v fs
  rw [hw] at hx
  refine ⟨_, hx, ?_⟩
  rw [twinReport_twn, twinReport_dp, twinReport_cnt]
  rw [hv] at hlink ⊢
  refine ⟨(congrArg Twn.deltaOf hlink :), (congrArg Twn.abandon hlink :), (congrArg Twn.carry hlink :), (congrArg Twn.lastSeq hlink :), ?_,
    (congrArg Twn.deltaTicket hlink :), rfl, rfl⟩
  intro f hfm
  rw [show w.deltaLeft = u.twn.deltaLeft.filter (fun f => f.type == 6) from (congrArg Twn.deltaLeft hlink :)] at hfm
  exact beq_iff_eq.1 (List.mem_filter.1 hfm).2

/-- Settles O58, one theorem for each event of the mirror, the self-test and the deltas. -/
theorem mirrorAndDeltas : Obligations.MirrorAndDeltas := by
  unfold Obligations.MirrorAndDeltas
  refine ⟨?sealing, ?sig, ?verdict, ?deadline, ?selftest, ?result, ?delta, ?deltaEnd, ?send, ?abandon⟩
  case sealing =>
    intro s r p hc hp hs hr hse hreach u hu hf hcl
    exact exec_sealTick hc hp hs hr hse hreach hu hf hcl
  case sig =>
    intro s m sigs bits hs hr hq hc hm hv hn
    obtain ⟨t, hx, h1, h2⟩ := exec_sig hs hr hq hc hm hv hn
    exact ⟨t, decidedVerdict m ⟨m.seq, m.group, sigs, bits⟩, hx, h1, rfl, rfl, rfl, fun i hi => decidedVerdict_bits m _ hi, h2⟩
  case verdict =>
    intro s g link selftest commit mism hs hr hc hv hch
    exact exec_verdict hs hr hc hv hch
  case deadline =>
    intro s r hc hs hr hd hreach u hf
    obtain ⟨h1, h2, h3⟩ := linkVerdicts_all r.seq (List.range ((placeCount u + 63) / 64)) u
    exact ⟨_, exec_verdictDeadline hc hs hr hd hreach hf, h1, fun g hg => h2 g (List.mem_range.2 hg), h3⟩
  case selftest =>
    intro s pass other hs ho hr u hf hother hc
    exact exec_selftestEnd hs ho hr hf hother hc
  case result =>
    intro s pass hs ho hn
    exact exec_selfTestResult hs ho hn
  case delta =>
    intro s n x p b row data hs hp hx hid hb hrow hm hl hwf
    exact ⟨_, exec_delta hs hp hx hid hb hrow hm hl, orchardRows_writeOrchard hwf hl, otherRowsKept_writeOrchard (n := 1) hl s rfl, rfl, rfl⟩
  case deltaEnd =>
    intro s n frames k abandon p hs hp
    refine ⟨exec_deltaEnd_dropped hs hp, ?_⟩
    rintro rfl hrx hc - he
    obtain ⟨t, hx, h1, h2, h3⟩ := exec_deltaEnd_applied (n := n) (k := k) hs hp hrx hc he
    refine ⟨t, hx, h1, ?_, ?_⟩
    · rw [h2, List.map_map]
      refine List.map_congr_left (fun y _ => slotsFlipped_eq (x := (y.id, y.cur)) ?_)
      rw [List.mem_eraseDups]
      simp only [List.mem_map, List.mem_filter, bne_iff_ne]
      exact ⟨fun ⟨⟨d, ⟨_, hd⟩, he⟩, ha⟩ => ⟨he ▸ hd, ha⟩, fun ⟨hy, d, hd, he, hlt⟩ => ⟨⟨d, ⟨hd, he ▸ hy⟩, he⟩, d, hd, he, hlt⟩⟩
    · rw [h3, List.map_map]
      refine List.map_congr_left (fun g _ => ?_)
      have hiff : (((s.twn.rows.filter (fun r => r.stream == 0xFFFF)).map (fun r => r.group)).eraseDups).contains g.group = true ↔
          ∃ d ∈ s.twn.rows, d.stream = 0xFFFF ∧ d.group = g.group := by
        rw [List.contains_iff_mem, List.mem_eraseDups]
        simp only [List.mem_map, List.mem_filter, beq_iff_eq, and_assoc]
      by_cases hg : ∃ d ∈ s.twn.rows, d.stream = 0xFFFF ∧ d.group = g.group
      · dsimp only [Function.comp]
        rw [if_pos (hiff.2 hg), if_pos hg]
      · dsimp only [Function.comp]
        rw [if_neg (fun h => hg (hiff.1 h)), if_neg hg]
  case send =>
    intro s n hs ho hm hd ht hl
    exact exec_deltaSend hs ho hm hd ht hl
  case abandon =>
    intro s r n hc hd hn hreach u hf hs ho hl
    exact exec_deltaAbandon hc hd hn hreach hf hs ho hl

end Sys2Proof.Machine
end

section
/-!
THE LANE-WISE COMMANDS (R172, R173, Table 8-2): one exact result in each enabled lane, stored once.
-/
namespace Sys2Proof.Machine
-- one proof after the other: the check compiles one text, and its memory holds few threads
set_option Elab.async false
open Sys2Proof.Safety

variable {s : State} {c : Instr} {i : Iss} {f : VArithF}

/-! ### Decoded operands -/

/-- A decoded lane is a number or NAN. -/
theorem laneDec_cls (x : Core) (sym : Bool) (n j : Nat) (q : Int) : (laneDec x sym n j q).cls = .nan ∨ (laneDec x sym n j q).cls = .finite := by
  rw [laneDec_eq_intDec]
  unfold intDec
  split
  · exact Or.inl rfl
  · exact Or.inr rfl

theorem nanOr_one {a d e : Dec} (h : a.cls ≠ .nan → d = e) : nanOr [a] d = if a.cls = .nan then .nan else e := by
  by_cases ha : a.cls = .nan
  · simp [nanOr, ha]
  · simp [nanOr, ha, h ha]

theorem nanOr_two (a b d : Dec) : nanOr [a, b] d = if a.cls = .nan ∨ b.cls = .nan then .nan else d := by
  simp [nanOr]

theorem nanOr_three (a b c d : Dec) : nanOr [a, b, c] d = if a.cls = .nan ∨ b.cls = .nan ∨ c.cls = .nan then .nan else d := by
  simp [nanOr]

/-! ### A lane-wise command -/

/-- What a lane stores: its code and its flags. -/
def laneResult (x : Core) (ins : Instr) (f : VArithF) (j : Nat) : Nat × NFlags := (laneCodeOf x ins f j, laneFlagsOf x ins f j)

theorem effLanes_eq_veWork {fn : LaneFn} {lat : Nat} (hfn : ∀ j, fn (veOccupied s i.core 1 lat) f j = laneResult (coreOf s i.core) c f j) (run : Bool) :
    effLanes fn lat i f run (workOf s i.core .ve false) = veWork (workOf s i.core .ve false) 1 lat run (1 + lat)
      (((List.range 64).filter (fun j => laneOn (coreOf s i.core) i.hdr.mask i.pkt 0 j)).map (fun j => (f.vd.toNat, j, laneCodeOf (coreOf s i.core) c f j)))
      (flagsAll (((List.range 64).filter (fun j => laneOn (coreOf s i.core) i.hdr.mask i.pkt 0 j)).map (laneFlagsOf (coreOf s i.core) c f))) := by
  have hme : ((workOf s i.core .ve false).veBusy 1 lat).me = veOccupied s i.core 1 lat := by
    rw [Work.me, veBusy_workOf_d]
    exact vget_vset_same ..
  have hon : laneOn (veOccupied s i.core 1 lat) = laneOn (coreOf s i.core) := rfl
  cases run with
  | false => rfl
  | true =>
    unfold effLanes veWork
    rw [if_neg (by decide), if_pos rfl, hme]
    simp only [hfn, hon, List.map_map]
    rfl

theorem exec_lanes {fn : LaneFn} {lat : Nat} (hexec : exec c s = issueEngine c i .ve (effLanes fn lat i f) s) (hlat : laneLat c = lat)
    (hfn : ∀ j, fn (veOccupied s i.core 1 lat) f j = laneResult (coreOf s i.core) c f j) (hdue : dueNow s c i .ve = true) :
    ∃ t, exec c s = .next t ∧ sameBeside s t ∧
      onlyCore s t i.core .ve keepVe (if runs s i then [(1 + laneLat c, .regs i.core
        (((List.range 64).filter (fun j => laneOn (coreOf s i.core) i.hdr.mask i.pkt 0 j)).map (fun j => (f.vd.toNat, j, laneCodeOf (coreOf s i.core) c f j))))] else []) ∧
      (coreOf t i.core).ve = veBusyWith (coreOf s i.core).ve s.dp.cycle 1 (laneLat c) ∧
      flagsRaised s t i.core .ve (if runs s i then flagsAll (((List.range 64).filter
        (fun j => laneOn (coreOf s i.core) i.hdr.mask i.pkt 0 j)).map (laneFlagsOf (coreOf s i.core) c f)) else .none) := by
  obtain ⟨hissue, hearly, hcp⟩ := issueEngine_of_dueNow hdue (effLanes fn lat i f)
  rw [hlat]
  exact ⟨_, hexec.trans hissue, issueNow_veWork hearly hcp (effLanes_eq_veWork hfn (runs s i))⟩

/-! ### The results of the thirteen commands -/

section results
variable (lat j : Nat)

theorem laneVmov_eq : laneVmov (veOccupied s i.core 1 lat) f j = laneResult (coreOf s i.core) (.vmov i f) f j := by
  change laneVmov (coreOf s i.core) f j = _
  unfold laneVmov laneResult laneCodeOf laneFlagsOf laneExact
  by_cases hr : f.raw = 1
  · simp only [if_pos hr]
  · simp only [if_neg hr]
    rfl

theorem laneVadd_eq : laneVadd (veOccupied s i.core 1 lat) f j = laneResult (coreOf s i.core) (.vadd i f) f j := by
  change laneVadd (coreOf s i.core) f j = _
  unfold laneVadd
  rw [nanOr_two]
  rfl

theorem laneVsub_eq : laneVsub (veOccupied s i.core 1 lat) f j = laneResult (coreOf s i.core) (.vsub i f) f j := by
  change laneVsub (coreOf s i.core) f j = _
  unfold laneVsub
  rw [nanOr_two]
  rfl

theorem laneVmul_eq : laneVmul (veOccupied s i.core 1 lat) f j = laneResult (coreOf s i.core) (.vmul i f) f j := by
  change laneVmul (coreOf s i.core) f j = _
  unfold laneVmul
  rw [nanOr_two]
  rfl

theorem laneVmac_eq : laneVmac (veOccupied s i.core 1 lat) f j = laneResult (coreOf s i.core) (.vmac i f) f j := by
  change laneVmac (coreOf s i.core) f j = _
  unfold laneVmac
  rw [nanOr_three]
  rfl

theorem laneVmax_eq : laneVmax (veOccupied s i.core 1 lat) f j = laneResult (coreOf s i.core) (.vmax i f) f j := by
  change laneVmax (coreOf s i.core) f j = _
  unfold laneVmax
  rw [nanOr_two]
  rfl

theorem laneVmin_eq : laneVmin (veOccupied s i.core 1 lat) f j = laneResult (coreOf s i.core) (.vmin i f) f j := by
  change laneVmin (coreOf s i.core) f j = _
  unfold laneVmin
  rw [nanOr_two]
  rfl

theorem laneVabs_eq : laneVabs (veOccupied s i.core 1 lat) f j = laneResult (coreOf s i.core) (.vabs i f) f j := by
  change laneVabs (coreOf s i.core) f j = _
  unfold laneVabs
  rw [nanOr_one (e := .fin (opA (coreOf s i.core) f j).sig.natAbs (opA (coreOf s i.core) f j).exp)]
  · rfl
  · intro hn
    have hfin : (opA (coreOf s i.core) f j).cls = .finite := (laneDec_cls ..).resolve_left hn
    simp [absDec, Dec.fin, hfin]

theorem laneVneg_eq : laneVneg (veOccupied s i.core 1 lat) f j = laneResult (coreOf s i.core) (.vneg i f) f j := by
  change laneVneg (coreOf s i.core) f j = _
  unfold laneVneg
  rw [nanOr_one (e := .fin (-(opA (coreOf s i.core) f j).sig) (opA (coreOf s i.core) f j).exp)]
  · rfl
  · intro hn
    have hfin : (opA (coreOf s i.core) f j).cls = .finite := (laneDec_cls ..).resolve_left hn
    simp [negDec, Dec.neg, Dec.fin, hfin]

theorem laneVclp_eq : laneVclp (veOccupied s i.core 1 lat) f j = laneResult (coreOf s i.core) (.vclp i f) f j := by
  change laneVclp (coreOf s i.core) f j = _
  unfold laneVclp
  rw [nanOr_three]
  rfl

theorem laneVcmp_eq : laneVcmp (veOccupied s i.core 1 lat) f j = laneResult (coreOf s i.core) (.vcmp i f) f j := by
  change laneVcmp (coreOf s i.core) f j = _
  unfold laneVcmp laneResult laneCodeOf laneFlagsOf laneExact
  refine Prod.ext ?_ rfl
  by_cases hn : (opA (coreOf s i.core) f j).cls = .nan ∨ (opB (coreOf s i.core) f j).cls = .nan
  · have hc : f.cond.toNat = 1 ↔ f.cond = 1 := by bv_omega
    simp [hn, hc]
  · simp [hn]

theorem laneVsel_eq : laneVsel (veOccupied s i.core 1 lat) f j = laneResult (coreOf s i.core) (.vsel i f) f j := rfl

theorem laneVcrv_eq : laneVcrv (veOccupied s i.core 1 lat) f j = laneResult (coreOf s i.core) (.vcrv i f) f j := by
  change laneVcrv (coreOf s i.core) f j = _
  unfold laneVcrv
  dsimp only
  rw [nanOr_two]
  rfl

end results

/-- Settles O23: one result for each of the thirteen commands. -/
theorem laneCommandsRoundOnce : Obligations.LaneCommandsRoundOnce := by
  unfold Obligations.LaneCommandsRoundOnce
  intro s c i f hc hdue
  cases c with
  | vmov =>
    cases Option.some.inj hc
    exact exec_lanes rfl rfl (laneVmov_eq 4) hdue
  | vadd =>
    cases Option.some.inj hc
    exact exec_lanes rfl rfl (laneVadd_eq 4) hdue
  | vsub =>
    cases Option.some.inj hc
    exact exec_lanes rfl rfl (laneVsub_eq 4) hdue
  | vmul =>
    cases Option.some.inj hc
    exact exec_lanes rfl rfl (laneVmul_eq 4) hdue
  | vmac =>
    cases Option.some.inj hc
    exact exec_lanes rfl rfl (laneVmac_eq 5) hdue
  | vmax =>
    cases Option.some.inj hc
    exact exec_lanes rfl rfl (laneVmax_eq 4) hdue
  | vmin =>
    cases Option.some.inj hc
    exact exec_lanes rfl rfl (laneVmin_eq 4) hdue
  | vabs =>
    cases Option.some.inj hc
    exact exec_lanes rfl rfl (laneVabs_eq 4) hdue
  | vneg =>
    cases Option.some.inj hc
    exact exec_lanes rfl rfl (laneVneg_eq 4) hdue
  | vclp =>
    cases Option.some.inj hc
    exact exec_lanes rfl rfl (laneVclp_eq 4) hdue
  | vcmp =>
    cases Option.some.inj hc
    exact exec_lanes rfl rfl (laneVcmp_eq 4) hdue
  | vsel =>
    cases Option.some.inj hc
    exact exec_lanes rfl rfl (laneVsel_eq 4) hdue
  | vcrv =>
    cases Option.some.inj hc
    exact exec_lanes rfl rfl (laneVcrv_eq 6) hdue
  | _ => exact absurd hc (by simp [laneBody])

end Sys2Proof.Machine
end

section
/-!
ENGINE COMMANDS AT WORK. What a command has done so far: its core's record, the effects on their way, its flags; what its reads find; and
what its issue leaves.
-/
namespace Sys2Proof.Machine
-- one proof after the other: the check compiles one text, and its memory holds few threads
set_option Elab.async false
open Sys2Proof.Safety

variable {s t : State} {c : BitVec 3} {q : Queue} {y : Core} {l : List (Nat × Landing)} {w : Work}

/-- A command of core c's queue q at work: the core's record is y and the effects l are on their way. -/
structure Doing (s : State) (c : BitVec 3) (q : Queue) (y : Core) (l : List (Nat × Landing)) (w : Work) : Prop where
  d : w.d = { s.dp.setCore c y with landings := s.dp.landings ++ l }
  core : w.core = c
  queue : w.queue = q
  tick : w.tick = (coreOf s c).tick
  spec : w.spec = isSpec s c
  pit : w.pitIn = pitInOf s c
  areas : w.areas = areasOf s
  late : w.lateRows = []
  reps : w.reps = []

theorem doing_start (s : State) (c : BitVec 3) (q : Queue) : Doing s c q ((coreOf s c).pop q) [] (workOf s c q false) := by
  refine ⟨?_, rfl, rfl, rfl, rfl, rfl, rfl, rfl, rfl⟩
  rw [List.append_nil]
  rfl

namespace Doing

theorem me (h : Doing s c q y l w) : w.me = y := by
  rw [Work.me, h.core, h.d]
  exact vget_vset_same ..

theorem modMe (h : Doing s c q y l w) (f : Core → Core) : Doing s c q (f y) l (w.modMe f) := by
  have hme : vget w.d.cores w.core = y := h.me
  refine ⟨?_, h.core, h.queue, h.tick, h.spec, h.pit, h.areas, h.late, h.reps⟩
  unfold Work.modMe Dp.modCore
  dsimp only
  rw [hme, h.core, h.d]
  simp [Dp.setCore]

theorem cycle (h : Doing s c q y l w) : w.d.cycle = s.dp.cycle := by
  rw [h.d]
  rfl

theorem veBusy (h : Doing s c q y l w) (o lat : Nat) : Doing s c q { y with ve := veBusyWith y.ve s.dp.cycle o lat } l (w.veBusy o lat) := by
  have := h.modMe (fun c => { c with ve := { c.ve with busyCyc := c.ve.busyCyc + BitVec.ofNat 32 o, idle := max c.ve.idle (w.d.cycle + o + lat) } })
  rw [h.cycle] at this
  unfold Work.veBusy
  rw [h.cycle]
  exact this

theorem landIn (h : Doing s c q y l w) (n : Nat) (x : Landing) : Doing s c q y (l ++ [(n, x)]) { w with d := w.d.landIn n x } := by
  refine ⟨?_, h.core, h.queue, h.tick, h.spec, h.pit, h.areas, h.late, h.reps⟩
  rw [Dp.landIn, h.d, ← List.append_assoc]

theorem regsLand (h : Doing s c q y l w) (n : Nat) (x : List (Nat × Nat × Nat)) : Doing s c q y (l ++ [(n, .regs c x)]) (w.regsLand n x) := by
  unfold Work.regsLand
  rw [show Landing.regs w.core x = .regs c x from congrArg (Landing.regs · x) h.core]
  exact h.landIn n (.regs c x)

theorem raise (h : Doing s c q y l w) (fl : NFlags) : Doing s c q (withFlags s c q fl y) l (w.raise fl) := by
  unfold Work.raise
  rw [h.spec, h.tick, h.queue, h.cycle]
  exact h.modMe _

end Doing

/-! ### Flags -/

/-- A core's record with flags raised where b holds. -/
def flagged (s : State) (c : BitVec 3) (q : Queue) (b : Bool) (fl : NFlags) (y : Core) : Core := if b then withFlags s c q fl y else y

theorem flagged_keep (s : State) (c : BitVec 3) (q : Queue) (b : Bool) (fl : NFlags) (y : Core) :
    flagged s c q b fl y = { y with nflag := (flagged s c q b fl y).nflag, nflagNew := (flagged s c q b fl y).nflagNew,
                                    nflagCyc := (flagged s c q b fl y).nflagCyc, nflagHeld := (flagged s c q b fl y).nflagHeld } := by
  unfold flagged withFlags
  split_ifs <;> rfl

theorem nflagBits_none (q : Queue) : nflagBits q .none = 0 := by cases q <;> decide

theorem flagsRaised_flagged {b : Bool} {fl : NFlags} {p : List (W64 × Nat × Nat)} (ht : coreOf t c = { flagged s c q b fl y with pktEnds := p })
    (hn : y.nflag = (coreOf s c).nflag) (hh : y.nflagHeld = (coreOf s c).nflagHeld) : flagsRaised s t c q (if b then fl else .none) := by
  unfold flagsRaised flagsOfTick
  rw [ht]
  cases b
  case true =>
    rw [if_pos rfl]
    split_ifs with hspec <;> simp [flagged, withFlags, isSpec, hspec, Core.setNflag, hn, hh]
  case false => simp [flagged, holdFlags, nflagBits_none, hn, hh]

/-! ### The issue -/

/-- What the issue of a command leaves: what it has done, and where its packet's writes end. -/
theorem exec_doing {ins : Instr} {i : Iss} {eff : Bool → Work → Work} {keep : Core → Core → Core} (hexec : exec ins s = issueEngine ins i q eff s)
    (hdue : dueNow s ins i q = true) (hw : Doing s i.core q y l (eff (runs s i) (workOf s i.core q false)))
    (hy : y.cpWait = (coreOf s i.core).cpWait) (hkeep : ∀ p, keep { y with pktEnds := p } ((coreOf s i.core).pop q) = { y with pktEnds := p }) :
    ∃ t p, exec ins s = .next t ∧ sameBeside s t ∧ onlyCore s t i.core q keep l ∧ coreOf t i.core = { y with pktEnds := p } := by
  obtain ⟨hissue, hearly, hcp⟩ := issueEngine_of_dueNow hdue eff
  have hme : vget (eff (runs s i) (workOf s i.core q false)).d.cores i.core = y := by
    have := hw.me
    rwa [Work.me, hw.core] at this
  obtain ⟨hside, hdp⟩ := issueNow_plain s i q false eff hearly _ rfl hw.late hw.reps (by rw [hme, hy, hcp])
  obtain ⟨p, hp⟩ := exists_pktEnds (eff (runs s i) (workOf s i.core q false)).d i.core ((eff (runs s i) (workOf s i.core q false)).endsIn s.dp.landings.length)
    (eff (runs s i) (workOf s i.core q false)).tick i.pkt
    (s.dp.cycle + (eff (runs s i) (workOf s i.core q false)).endsIn s.dp.landings.length)
  rw [hp, hw.d] at hdp
  obtain ⟨honly, hcore⟩ := onlyCore_of_dp (s := s) (y := { y with pktEnds := p }) (by simpa [Dp.modCore, Dp.setCore] using hdp) (hkeep p)
  exact ⟨_, p, hexec.trans hissue, hside, honly, hcore⟩

/-! ### What reads find -/

/-- The bounds and regions of a core's memory are those of x. -/
def SameBounds (y x : Core) : Prop := { y.cm with chans := x.cm.chans } = x.cm

theorem refRow_setCore {d : Dp} (h : SameBounds y (vget d.cores c)) (k : BitVec 3) (orch : Bool) (o : Nat) :
    refRow (d.setCore c y) k orch o = refRow d k orch o := by
  have hcm : SameBounds (vget (d.setCore c y).cores k) (vget d.cores k) := by
    by_cases hk : k = c
    · subst hk
      rw [show vget (d.setCore k y).cores k = y from vget_vset_same ..]
      exact h
    · rw [show vget (d.setCore c y).cores k = vget d.cores k from vget_vset_ne _ _ _ _ hk]
      rfl
  have hrows := (congrArg Cmem.rows hcm :)
  have hregions := (congrArg Cmem.regions hcm :)
  have hbase := (congrArg Cmem.base hcm :)
  have horRows := (congrArg Cmem.orRows hcm :)
  have horBase := (congrArg Cmem.orBase hcm :)
  unfold refRow orRow cmRow
  dsimp only at hrows hregions hbase horRows horBase ⊢
  rw [hrows, hregions, hbase, horRows, horBase]
  rfl

namespace Doing

theorem refRow (h : Doing s c q y l w) (hcm : SameBounds y (coreOf s c)) (k : BitVec 3) (orch : Bool) (o : Nat) :
    Machine.refRow w.d k orch o = Machine.refRow s.dp k orch o := by
  rw [h.d]
  exact refRow_setCore hcm k orch o

/-- While the command has sent nothing, a row is found as before its issue. -/
theorem rowSeen (h : Doing s c q y [] w) (k : BitVec 3) (row n : Nat) :
    Safety.rowSeen w.d k row n = Safety.rowSeen s.dp k row n ∧ rowChecks w.d k row n = rowChecks s.dp k row n := by
  rw [h.d, List.append_nil]
  exact ⟨rfl, rfl⟩

theorem rowAt (h : Doing s c q y [] w) (hcm : SameBounds y (coreOf s c)) (k : BitVec 3) (orch : Bool) (o n : Nat) :
    Safety.rowAt w.d k orch o n = Safety.rowAt s.dp k orch o n := by
  unfold Safety.rowAt
  rw [h.refRow hcm]
  cases Machine.refRow s.dp k orch o with
  | none => rfl
  | some row => exact (h.rowSeen k row n).1

theorem cleanRow (h : Doing s c q y [] w) (hcm : SameBounds y (coreOf s c)) (k : BitVec 3) (orch : Bool) (o n : Nat) :
    Safety.cleanRow w.d k orch o n = Safety.cleanRow s.dp k orch o n := by
  unfold Safety.cleanRow
  rw [h.refRow hcm]
  cases Machine.refRow s.dp k orch o with
  | none => rfl
  | some row => exact (h.rowSeen k row n).2

/-- Rows that check are read as they stand, and reading them changes nothing. -/
theorem readRef (h : Doing s c q y [] w) (hcm : SameBounds y (coreOf s c)) {orch : Bool} {o k : Nat} (hcl : Safety.cleanRow s.dp c orch o k = true) :
    w.readRef orch o k = (Safety.rowAt s.dp c orch o k, w) := by
  rw [readRef_clean w orch o k (by rw [h.cleanRow hcm, h.core]; exact hcl), h.rowAt hcm, h.core]

theorem readList (h : Doing s c q y [] w) (hcm : SameBounds y (coreOf s c)) {orch : Bool} (os : List (Nat × Nat))
    (hcl : ∀ o ∈ os, Safety.cleanRow s.dp c orch o.1 o.2 = true) :
    w.readList orch os = (os.map (fun o => Safety.rowAt s.dp c orch o.1 o.2), w) := by
  induction os with
  | nil => rfl
  | cons o os ih =>
    unfold Work.readList
    rw [h.readRef hcm (hcl o List.mem_cons_self)]
    dsimp only
    rw [ih (fun x hx => hcl x (List.mem_cons_of_mem _ hx))]
    rfl

theorem readDistinct (h : Doing s c q y [] w) (hcm : SameBounds y (coreOf s c)) {orch : Bool} (os : List (Nat × Nat))
    (hcl : ∀ o ∈ os, Safety.cleanRow s.dp c orch o.1 o.2 = true) :
    w.readDistinct orch os = (os.map (fun o => (o.1, Safety.rowAt s.dp c orch o.1 o.2)), w) := by
  unfold Work.readDistinct
  rw [h.readList hcm os hcl]
  dsimp only
  rw [List.zip_map']

end Doing

/-! ### Two read ports -/

theorem find?_zipIdx_fst {l : List Nat} {r : Nat} (h : r ∈ l) (k : Nat) : (l.zipIdx k).find? (fun x => x.1 == r) = some (r, k + l.idxOf r) := by
  induction l generalizing k with
  | nil => exact absurd h List.not_mem_nil
  | cons x l ih =>
    rw [List.zipIdx_cons]
    by_cases hx : x = r
    · subst hx
      rw [List.find?_cons_of_pos (by simp), List.idxOf_cons_self]
      rfl
    · rw [List.find?_cons_of_neg (by simpa using hx), ih ((List.mem_cons.1 h).resolve_left (Ne.symm hx)), List.idxOf_cons_ne _ hx]
      congr 2
      omega

theorem mem_zipIdx_idxOf {l : List Nat} (hn : l.Nodup) {x : Nat × Nat} {k : Nat} (h : x ∈ l.zipIdx k) : x.1 ∈ l ∧ x.2 = k + l.idxOf x.1 := by
  obtain ⟨hk, hi, he⟩ := List.mem_zipIdx h
  have hlt : x.2 - k < l.length := by omega
  have he' : x.1 = l[x.2 - k] := he
  refine ⟨he' ▸ List.getElem_mem hlt, ?_⟩
  rw [he', List.Nodup.idxOf_getElem hn]
  omega

theorem mem_distinct {l : List Nat} {x : Nat} : x ∈ distinct l ↔ x ∈ l := by
  induction l with
  | nil => rfl
  | cons a l ih =>
    unfold distinct
    rw [List.mem_cons, List.mem_cons, List.mem_filter, ih]
    by_cases hx : x = a <;> simp [hx]

theorem nodup_distinct (l : List Nat) : (distinct l).Nodup := by
  induction l with
  | nil => exact List.nodup_nil
  | cons a l ih =>
    unfold distinct
    exact List.nodup_cons.2 ⟨by simp, ih.filter _⟩

/-- The rows a command needs, each read in its port's cycle. -/
theorem mem_neededOf {planned need : List Nat} (hn : planned.Nodup) {n : Nat} {x : Nat × Nat} (h : x ∈ neededOf (twoPorts 0 n planned) need) :
    x.1 ∈ need ∧ x.2 = portCycle planned n x.1 := by
  obtain ⟨hx, hneed⟩ := List.mem_filter.1 h
  obtain ⟨z, hz, rfl⟩ := List.mem_map.1 hx
  obtain ⟨-, hz2⟩ := mem_zipIdx_idxOf hn hz
  refine ⟨List.contains_iff_mem.1 hneed, ?_⟩
  dsimp only
  rw [hz2, Nat.zero_add, Nat.zero_add]
  rfl

/-- A row that is needed is found among those read. -/
theorem rowOf_neededOf {planned need : List Nat} {n r : Nat} (g : Nat × Nat → List Byte) (hp : r ∈ planned) (hr : r ∈ need) :
    rowOf ((neededOf (twoPorts 0 n planned) need).map (fun o => (o.1, g o))) r = g (r, portCycle planned n r) := by
  have hfind : ((neededOf (twoPorts 0 n planned) need).map (fun o => (o.1, g o))).find? (fun x => x.1 == r) =
      some (r, g (r, portCycle planned n r)) := by
    rw [List.find?_map, neededOf, List.find?_filter, twoPorts, List.find?_map]
    have hpred : (planned.zipIdx.find? ((fun a : Nat × Nat => decide (need.contains a.1 = true ∧
        ((fun x : Nat × List Byte => x.1 == r) ∘ fun o => (o.1, g o)) a = true)) ∘ fun x => (x.1, 0 + (n + x.2) / 2))) =
        planned.zipIdx.find? (fun x => x.1 == r) := by
      refine congrArg (List.find? · _) (funext fun x => ?_)
      by_cases hx : x.1 = r
      · simp [hx, hr]
      · simp [hx]
    rw [hpred, find?_zipIdx_fst hp]
    simp [portCycle]
  unfold rowOf
  rw [hfind]

end Sys2Proof.Machine
end

section
/-!
VLD and VST (R174, R177, R178, R180, R181, Table 8-2).
-/
namespace Sys2Proof.Machine
-- one proof after the other: the check compiles one text, and its memory holds few threads
set_option Elab.async false
open Sys2Proof.Safety

variable {s : State} {i : Iss}

/-! ### Flags of many results -/

/-- INV raised beside the flags of a store joins that of all stores. -/
theorem flagsAll_inv {α : Type} (l : List α) (g : α → NFlags) (b : α → Bool) :
    { flagsAll (l.map g) with inv := (flagsAll (l.map g)).inv || l.any b } = flagsAll (l.map (fun x => { g x with inv := (g x).inv || b x })) := by
  induction l with
  | nil => rfl
  | cons x l ih =>
    rw [List.map_cons, List.map_cons, flagsAll_cons, flagsAll_cons, ← ih, List.any_cons]
    simp only [NFlags.or, NFlags.mk.injEq, true_and]
    cases (g x).inv <;> cases b x <;> simp

/-! ### Elements of a span -/

section span
variable {c : BitVec 3} {q : Queue} {y : Core} {w : Work} {sel : FmtSel} {o so : Nat} {es need : List Nat} {orch sorch : Bool}

theorem row_mem_spanRows {e : Nat} (h : e ∈ es) : o + e / sel.op.fmt.perRow ∈ (spanRows sel o so es).1 :=
  mem_distinct.2 (List.mem_map_of_mem h)

theorem scaleRow_mem_spanRows {e : Nat} (h : e ∈ es) (hb : sel.op.blk ≠ 0) :
    so + e / max 1 (sel.op.block sel.op.fmt.perRow) / rowBytes ∈ (spanRows sel o so es).2 := by
  unfold spanRows
  dsimp only
  rw [if_neg hb]
  exact mem_distinct.2 (List.mem_map_of_mem h)

theorem spanRows_nodup : (spanRows sel o so es).1.Nodup ∧ (spanRows sel o so es).2.Nodup := by
  refine ⟨nodup_distinct _, ?_⟩
  unfold spanRows
  dsimp only
  split
  · exact List.nodup_nil
  · exact nodup_distinct _

/-- The rows read for some elements of a span hold those elements. -/
theorem spanElem_read {d : Dp} {e : Nat} (hsub : ∀ x ∈ need, x ∈ es) (he : e ∈ need) (q : Int) :
    spanElem sel ((neededOf (twoPorts 0 0 (spanRows sel o so es).1) (spanRows sel o so need).1).map (fun x => (x.1, rowAt d c orch x.1 x.2)))
      ((neededOf (twoPorts 0 (spanRows sel o so es).1.length (spanRows sel o so es).2) (spanRows sel o so need).2).map
        (fun x => (x.1, rowAt d c sorch x.1 x.2))) o so e q =
      elemSeen d c sel orch o (portCycle (spanRows sel o so es).1 0) sorch so (portCycle (spanRows sel o so es).2 (spanRows sel o so es).1.length) e q := by
  unfold spanElem elemSeen
  dsimp only
  rw [rowOf_neededOf (fun x => rowAt d c orch x.1 x.2) (row_mem_spanRows (hsub e he)) (row_mem_spanRows he)]
  by_cases hb : sel.op.blk = 0
  · rw [if_pos hb, if_pos hb]
  · rw [if_neg hb, if_neg hb, rowOf_neededOf (fun x => rowAt d c sorch x.1 x.2) (scaleRow_mem_spanRows (hsub e he) hb) (scaleRow_mem_spanRows he hb)]
    rfl

/-- Where the elements' rows check, so do all rows read for them. -/
theorem span_clean {d : Dp} (hsub : ∀ x ∈ need, x ∈ es) (h : ∀ e ∈ need, cleanElem d c sel orch o (portCycle (spanRows sel o so es).1 0) sorch so
      (portCycle (spanRows sel o so es).2 (spanRows sel o so es).1.length) e = true) :
    (∀ x ∈ neededOf (twoPorts 0 0 (spanRows sel o so es).1) (spanRows sel o so need).1, cleanRow d c orch x.1 x.2 = true) ∧
      ∀ x ∈ neededOf (twoPorts 0 (spanRows sel o so es).1.length (spanRows sel o so es).2) (spanRows sel o so need).2,
        cleanRow d c sorch x.1 x.2 = true := by
  refine ⟨fun x hx => ?_, fun x hx => ?_⟩
  · obtain ⟨hneed, hcyc⟩ := mem_neededOf spanRows_nodup.1 hx
    obtain ⟨e, he, hex⟩ := List.mem_map.1 (mem_distinct.1 hneed)
    obtain ⟨hrow, -⟩ := Bool.and_eq_true_iff.1 (h e he)
    rw [hcyc, ← hex]
    exact hrow
  · obtain ⟨hneed, hcyc⟩ := mem_neededOf spanRows_nodup.2 hx
    unfold spanRows at hneed
    dsimp only at hneed
    by_cases hb : sel.op.blk = 0
    · rw [if_pos hb] at hneed
      exact absurd hneed List.not_mem_nil
    · rw [if_neg hb] at hneed
      obtain ⟨e, he, hex⟩ := List.mem_map.1 (mem_distinct.1 hneed)
      obtain ⟨-, hrow⟩ := Bool.and_eq_true_iff.1 (h e he)
      rw [hcyc, ← hex]
      exact (Bool.or_eq_true_iff.1 hrow).resolve_left (by simpa using hb)

end span

/-! ### VLD -/

section vld
variable (s i) (f : VMemF)

/-- The element that lane y of VLD's operand takes. -/
def vldElem (y : Nat × Nat) : Dec × Bool :=
  elemSeen s.dp i.core (fmtGet (coreOf s i.core) f.fmti) (adrOrch f.addr) (adrOff f.addr) (portCycle (vldRows (coreOf s i.core) f).1 0)
    (adrOrch f.saddr) (adrOff f.saddr) (portCycle (vldRows (coreOf s i.core) f).2 (vldRows (coreOf s i.core) f).1.length) (memElem f y) f.qa.toInt

/-- The lanes VLD fills. -/
def vldOn : List (Nat × Nat) := (spanLanes (f.cnt1.toNat + 1)).filter (fun y => laneOn (coreOf s i.core) i.hdr.mask i.pkt y.1 y.2)

/-- What lane y stores. -/
def vldStore (y : Nat × Nat) : Nat × NFlags := storeElem .i32 (f.sym == 1) (vldElem s i f y).1 f.qd.toInt

/-- The flags of all lanes. -/
def vldFlags : NFlags := flagsAll ((vldOn s i f).map (fun y => { (vldStore s i f y).2 with inv := (vldStore s i f y).2.inv || (vldElem s i f y).2 }))

/-- The rows a lane's element lies in check. -/
def vldClean (y : Nat × Nat) : Bool :=
  cleanElem s.dp i.core (fmtGet (coreOf s i.core) f.fmti) (adrOrch f.addr) (adrOff f.addr) (portCycle (vldRows (coreOf s i.core) f).1 0)
    (adrOrch f.saddr) (adrOff f.saddr) (portCycle (vldRows (coreOf s i.core) f).2 (vldRows (coreOf s i.core) f).1.length) (memElem f y)

/-- Lanes on their way where VLD runs. -/
def vldLands : List (Nat × Landing) :=
  [(vldOcc (coreOf s i.core) f + (if adrOrch f.addr then 15 else 7),
    .regs i.core ((vldOn s i f).map (fun y => (f.vr.toNat + y.1, y.2, (vldStore s i f y).1))))]

variable {s i f}

/-- What VLD does where it runs: its lanes are on their way and their flags raised. -/
theorem effVld_run (hcl : ∀ y ∈ vldOn s i f, vldClean s i f y = true) : effVld i f true (workOf s i.core .ve false) =
    (((workOf s i.core .ve false).veBusy (vldOcc (coreOf s i.core) f) (if adrOrch f.addr then 15 else 7)).regsLand
      (vldOcc (coreOf s i.core) f + (if adrOrch f.addr then 15 else 7)) ((vldOn s i f).map (fun y => (f.vr.toNat + y.1, y.2, (vldStore s i f y).1)))).raise
      (vldFlags s i f) := by
  have h0 := doing_start s i.core .ve
  have h1 := h0.veBusy (vldOcc (coreOf s i.core) f) (if adrOrch f.addr then 15 else 7)
  have hsub : ∀ x ∈ (vldOn s i f).map (memElem f), x ∈ (spanLanes (f.cnt1.toNat + 1)).map (memElem f) := by
    intro x hx
    obtain ⟨z, hz, rfl⟩ := List.mem_map.1 hx
    exact List.mem_map_of_mem (List.mem_filter.1 hz).1
  obtain ⟨hclean, hsclean⟩ := span_clean hsub (fun e he => by
    obtain ⟨z, hz, rfl⟩ := List.mem_map.1 he
    exact hcl z hz)
  have hon : laneOn ((coreOf s i.core).pop .ve) = laneOn (coreOf s i.core) := rfl
  have hfmt : fmtGet ((coreOf s i.core).pop .ve) f.fmti = fmtGet (coreOf s i.core) f.fmti := rfl
  have hrows : vldRows ((coreOf s i.core).pop .ve) f = vldRows (coreOf s i.core) f := rfl
  have hocc : vldOcc ((coreOf s i.core).pop .ve) f = vldOcc (coreOf s i.core) f := rfl
  have hres : ∀ y ∈ vldOn s i f, _ := fun y hy => spanElem_read (d := s.dp) (c := i.core) (orch := adrOrch f.addr) (sorch := adrOrch f.saddr)
    (sel := fmtGet (coreOf s i.core) f.fmti) (o := adrOff f.addr) (so := adrOff f.saddr) hsub (List.mem_map_of_mem (f := memElem f) hy) f.qa.toInt
  unfold effVld
  dsimp only
  rw [h0.me, hon, hfmt, hrows, hocc]
  generalize (if adrOrch f.addr = true then 15 else 7) = lat at *
  generalize (workOf s i.core .ve false).veBusy (vldOcc (coreOf s i.core) f) lat = w at *
  rw [if_neg (by decide), show (spanLanes (f.cnt1.toNat + 1)).filter (fun x => laneOn (coreOf s i.core) i.hdr.mask i.pkt x.1 x.2) = vldOn s i f from rfl,
    vldRows, h1.readDistinct rfl _ hclean]
  dsimp only
  rw [h1.readDistinct rfl _ hsclean]
  dsimp only
  rw [List.map_congr_left (l := vldOn s i f) (g := fun y => (y, vldStore s i f y, (vldElem s i f y).2)), List.map_map, List.map_map, List.any_map]
  · exact congrArg (Work.raise _) (flagsAll_inv (vldOn s i f) (fun y => (vldStore s i f y).2) (fun y => (vldElem s i f y).2))
  · intro y hy
    rw [hres y hy]
    rfl

theorem effVld_doing (hcl : runs s i = true → ∀ y ∈ vldOn s i f, vldClean s i f y = true) :
    Doing s i.core .ve (flagged s i.core .ve (runs s i) (vldFlags s i f)
        { (coreOf s i.core).pop .ve with ve := veBusyWith (coreOf s i.core).ve s.dp.cycle (vldOcc (coreOf s i.core) f) (if adrOrch f.addr then 15 else 7) })
      (if runs s i then vldLands s i f else []) (effVld i f (runs s i) (workOf s i.core .ve false)) := by
  have h1 := (doing_start s i.core .ve).veBusy (vldOcc (coreOf s i.core) f) (if adrOrch f.addr then 15 else 7)
  cases hr : runs s i with
  | false =>
    unfold effVld
    dsimp only
    rw [(doing_start s i.core .ve).me]
    exact h1
  | true =>
    rw [effVld_run (hcl hr)]
    exact (h1.regsLand _ _).raise _

end vld

/-- Settles O25. -/
theorem vldLoadsElements : Obligations.VldLoadsElements := by
  unfold Obligations.VldLoadsElements
  intro s i f hdue x sel rows e on el st lat occ hcl
  obtain ⟨t, p, hx, hside, honly, hcore⟩ := exec_doing (keep := keepVe) (rfl : exec (.vld i f) s = issueEngine (.vld i f) i .ve (effVld i f) s) hdue
    (effVld_doing hcl) (by rw [flagged_keep]; rfl) (fun p => by rw [flagged_keep]; rfl)
  refine ⟨t, hx, hside, honly, ?_, flagsRaised_flagged hcore rfl rfl⟩
  rw [hcore, flagged_keep]
  rfl

end Sys2Proof.Machine
end

section
/-!
VST (R174, R177, R178, R181, R204), with the lanes that commands read and the rows they write.
-/
namespace Sys2Proof.Machine
-- one proof after the other: the check compiles one text, and its memory holds few threads
set_option Elab.async false
open Sys2Proof.Safety

variable {s : State} {c : BitVec 3} {q : Queue} {y : Core} {l : List (Nat × Landing)} {w : Work} {i : Iss}

/-! ### Lanes read -/

namespace Doing

/-- A command that has sent nothing finds the registers as reads of its cycles do. -/
theorem meAt_regs (h : Doing s c q y [] w) (hr : y.ve.regs = (coreOf s c).ve.regs) (k : Nat) : (w.meAt k).ve.regs = (seenAt s c k).ve.regs := by
  unfold Work.meAt seenAt
  rw [h.me, h.core, h.d, List.append_nil]
  exact setLanes_regs_congr hr _

theorem meAt_laneDec (h : Doing s c q y [] w) (hr : y.ve.regs = (coreOf s c).ve.regs) (k : Nat) : laneDec (w.meAt k) = laneDec (seenAt s c k) := by
  funext sym n j e
  unfold laneDec laneCode
  rw [h.meAt_regs hr]

theorem meAt_laneOn (h : Doing s c q y l w) (hy : laneOn y = laneOn (coreOf s c)) (k : Nat) : laneOn (w.meAt k) = laneOn (coreOf s c) := by
  rw [Work.meAt, laneOn_setLanes, h.me, hy]

theorem storeLanes (h : Doing s i.core q y [] w) (hr : y.ve.regs = (coreOf s i.core).ve.regs) (hy : laneOn y = laneOn (coreOf s i.core))
    (va cnt : Nat) (sym : Bool) (qa : Int) : Machine.storeLanes w.meAt i va cnt sym qa = Machine.storeLanes (seenAt s i.core) i va cnt sym qa := by
  unfold Machine.storeLanes
  simp only [h.meAt_laneDec hr, h.meAt_laneOn hy]
  rw [show laneOn (seenAt s i.core 0) = laneOn (coreOf s i.core) from laneOn_setLanes ..]

end Doing

/-! ### Rows written -/

/-- The first of n + 1 rows lands, then the others. -/
theorem rowsLanding_succ {d : Dp} {orch : Bool} {o row : Nat} (h : refRow d c orch o = some row) (n : Nat) (b : List Byte) (land : Nat → Nat) :
    rowsLanding d c orch o (n + 1) b land =
      (accessAt d c row (land 0) + 1, .row row (b.take 512)) :: rowsLanding d c orch (o + 1) n (b.drop 512) (fun j => land (j + 1)) := by
  unfold rowsLanding
  rw [List.range_succ_eq_map, List.filterMap_cons, Nat.add_zero, h, List.filterMap_map]
  dsimp only [Option.map_some]
  refine congrArg₂ _ rfl (List.filterMap_congr (fun j _ => ?_))
  dsimp only [Function.comp]
  rw [Nat.add_right_comm o 1 j, List.drop_drop, show 512 * (j + 1) = 512 + 512 * j by ring]
  rfl

theorem rowsThere_succ {d : Dp} {orch : Bool} {o n : Nat} (h : rowsThere d c orch o (n + 1) = true) :
    (∃ row, refRow d c orch o = some row) ∧ rowsThere d c orch (o + 1) n = true := by
  unfold rowsThere rowList at h ⊢
  rw [List.range_succ_eq_map, List.map_cons, List.all_cons, Bool.and_eq_true, List.map_map] at h
  refine ⟨Option.isSome_iff_exists.1 h.1, ?_⟩
  rw [← h.2]
  refine congrArg (List.all · _) (List.map_congr_left (fun j _ => ?_))
  dsimp only [Function.comp]
  rw [Nat.add_right_comm o 1 j]
  rfl

namespace Doing

theorem accessAt (h : Doing s c q y l w) (k : BitVec 3) (row n : Nat) : Machine.accessAt w.d k row n = Machine.accessAt s.dp k row n := by
  rw [h.d]
  rfl

/-- A row of an engine other than the DE is on its way. -/
theorem writeRef (h : Doing s c q y l w) (hq : q ≠ .de) (hcm : SameBounds y (coreOf s c)) {orch : Bool} {o row : Nat}
    (hrow : Machine.refRow s.dp c orch o = some row) (data : List Byte) (land : Nat) :
    Doing s c q y (l ++ [(Machine.accessAt s.dp c row land + 1, .row row data)]) (w.writeRef orch o data land) := by
  have hrow' : Machine.refRow w.d w.core orch o = some row := by rw [h.core, h.refRow hcm, hrow]
  unfold Work.writeRef
  rw [hrow']
  dsimp only
  rw [if_neg (by rw [h.queue]; simp [hq])]
  refine ⟨?_, h.core, h.queue, h.tick, h.spec, h.pit, h.areas, h.late, h.reps⟩
  dsimp only [Dp.rowLands]
  rw [h.accessAt, h.core, h.d, ← List.append_assoc]

/-- Rows of an engine other than the DE are on their way, one a cycle. -/
theorem writeRows (h : Doing s c q y l w) (hq : q ≠ .de) (hcm : SameBounds y (coreOf s c)) {orch : Bool} (n : Nat) {o : Nat} (data : List Byte) (first : Nat)
    (hth : rowsThere s.dp c orch o n = true) :
    Doing s c q y (l ++ rowsLanding s.dp c orch o n data (fun j => first + j)) (w.writeRows orch o data first n) := by
  induction n generalizing o l w data first with
  | zero =>
    rw [show rowsLanding s.dp c orch o 0 data (fun j => first + j) = [] from rfl, List.append_nil]
    exact h
  | succ n ih =>
    obtain ⟨⟨row, hrow⟩, hth⟩ := rowsThere_succ hth
    have := ih (h.writeRef hq hcm hrow (data.take rowBytes) first) (data.drop rowBytes) (first + 1) hth
    rw [List.append_assoc] at this
    rw [rowsLanding_succ hrow]
    unfold Work.writeRows
    have hland : (fun j => first + (j + 1)) = fun j => first + 1 + j := funext fun j => by omega
    rw [hland]
    exact this

end Doing

/-! ### VST -/

section vst
variable (s i) (f : VMemF)

/-- The lanes VST stores, and whether any is enabled. -/
def vstLanes : List Dec × Bool := Machine.storeLanes (seenAt s i.core) i f.vr.toNat (f.cnt1.toNat + 1) (f.sym == 1) f.qa.toInt

/-- Their bytes, their scales and their flags. -/
def vstStore : List Byte × List Byte × NFlags :=
  storeElems (fmtGet (coreOf s i.core) f.fmti).op (fmtGet (coreOf s i.core) f.fmti).fixs ((fmtGet (coreOf s i.core) f.fmti).fq + f.qd.toInt)
    ((fmtGet (coreOf s i.core) f.fmti).op.block (fmtGet (coreOf s i.core) f.fmti).op.fmt.perRow) (vstLanes s i f).1

/-- The cycle of VST's first row. -/
def vstFirst : Nat := vstOcc (coreOf s i.core) f - ((vstRows (coreOf s i.core) f).1 + (vstRows (coreOf s i.core) f).2) + 6

variable {s i f}

theorem effVst_doing (hth : (runs s i && (vstLanes s i f).2) = true →
      rowsThere s.dp i.core (adrOrch f.addr) (adrOff f.addr) (vstRows (coreOf s i.core) f).1 = true ∧
      rowsThere s.dp i.core (adrOrch f.saddr) (adrOff f.saddr) (vstRows (coreOf s i.core) f).2 = true) :
    Doing s i.core .ve (flagged s i.core .ve (runs s i && (vstLanes s i f).2) (vstStore s i f).2.2
        { (coreOf s i.core).pop .ve with ve := veBusyWith (coreOf s i.core).ve s.dp.cycle (vstOcc (coreOf s i.core) f) (if adrOrch f.addr then 14 else 6) })
      (if runs s i && (vstLanes s i f).2 then
        rowsLanding s.dp i.core (adrOrch f.addr) (adrOff f.addr) (vstRows (coreOf s i.core) f).1 (vstStore s i f).1 (fun j => vstFirst s i f + j) ++
          rowsLanding s.dp i.core (adrOrch f.saddr) (adrOff f.saddr) (vstRows (coreOf s i.core) f).2 (vstStore s i f).2.1
            (fun j => vstFirst s i f + (vstRows (coreOf s i.core) f).1 + j) else [])
      (effVst i f (runs s i) (workOf s i.core .ve false)) := by
  have h0 := doing_start s i.core .ve
  have h1 := h0.veBusy (vstOcc (coreOf s i.core) f) (if adrOrch f.addr then 14 else 6)
  have hlanes := h1.storeLanes rfl rfl f.vr.toNat (f.cnt1.toNat + 1) (f.sym == 1) f.qa.toInt
  have hfmt : fmtGet ((coreOf s i.core).pop .ve) f.fmti = fmtGet (coreOf s i.core) f.fmti := rfl
  have hrows : vstRows ((coreOf s i.core).pop .ve) f = vstRows (coreOf s i.core) f := rfl
  have hocc : vstOcc ((coreOf s i.core).pop .ve) f = vstOcc (coreOf s i.core) f := rfl
  unfold effVst
  dsimp only
  rw [h0.me, hfmt, hrows, hocc]
  generalize (if adrOrch f.addr = true then 14 else 6) = lat at *
  generalize (workOf s i.core .ve false).veBusy (vstOcc (coreOf s i.core) f) lat = w at *
  rw [hlanes, show Machine.storeLanes (seenAt s i.core) i f.vr.toNat (f.cnt1.toNat + 1) (f.sym == 1) f.qa.toInt = vstLanes s i f from rfl]
  cases hst : runs s i && (vstLanes s i f).2 with
  | false =>
    rw [if_pos (show (!runs s i || !(vstLanes s i f).2) = true by rw [← Bool.not_and, hst]; rfl)]
    exact h1
  | true =>
    obtain ⟨ht1, ht2⟩ := hth hst
    rw [if_neg (show ¬(!runs s i || !(vstLanes s i f).2) = true by rw [← Bool.not_and, hst]; decide), if_pos rfl]
    exact ((h1.writeRows (by decide) rfl _ _ _ ht1).writeRows (by decide) rfl _ _ _ ht2).raise _

end vst

/-- Settles O26. -/
theorem vstStoresRows : Obligations.VstStoresRows := by
  unfold Obligations.VstStoresRows
  intro s i f hdue x sel l r n m occ first stored hth
  obtain ⟨t, p, hx, hside, honly, hcore⟩ := exec_doing (keep := keepVe) (rfl : exec (.vst i f) s = issueEngine (.vst i f) i .ve (effVst i f) s) hdue
    (effVst_doing hth) (by rw [flagged_keep]; rfl) (fun p => by rw [flagged_keep]; rfl)
  refine ⟨t, hx, hside, honly, ?_, flagsRaised_flagged hcore rfl rfl⟩
  rw [hcore, flagged_keep]
  rfl

end Sys2Proof.Machine
end

section
/-!
VTOPK (R193, R194): the order of the candidates, the selection among them, and the command.
-/
namespace Sys2Proof.Machine
-- one proof after the other: the check compiles one text, and its memory holds few threads
set_option Elab.async false
open Sys2Proof.Safety

/-! ### The order of candidates (R193) -/

/-- A value that has a place in the order: a number or an infinity. -/
def Ranked (d : Dec) : Prop := d.cls ≠ .nan ∧ d.cls ≠ .satPos ∧ d.cls ≠ .satNeg

/-- The side of infinities, then the number; the other way round where the largest come first. -/
def decKey (small : Bool) (d : Dec) : ℤ ×ₗ ℚ :=
  match d.cls with
  | .negInf => toLex (if small then -1 else 1, 0)
  | .posInf => toLex (if small then 1 else -1, 0)
  | _ => toLex (0, if small then (d.sig : ℚ) * 2 ^ d.exp else -((d.sig : ℚ) * 2 ^ d.exp))

theorem lex_lt_iff (m n : ℤ) (u v : ℚ) : toLex (m, u) < toLex (n, v) ↔ m < n ∨ m = n ∧ u < v := Prod.Lex.toLex_lt_toLex

theorem ltDec_iff {a b : Dec} (ha : Ranked a) (hb : Ranked b) :
    (ltDec a b = true ↔ decKey true a < decKey true b) ∧ (ltDec b a = true ↔ decKey false a < decKey false b) := by
  obtain ⟨a1, a2, a3⟩ := ha
  obtain ⟨b1, b2, b3⟩ := hb
  cases hca : a.cls <;> cases hcb : b.cls <;> simp only [hca, hcb, ne_eq, not_true_eq_false] at a1 a2 a3 b1 b2 b3
  case finite.finite =>
    rw [ltDec_of_holds ⟨hca, rfl⟩ ⟨hcb, rfl⟩, ltDec_of_holds ⟨hcb, rfl⟩ ⟨hca, rfl⟩]
    simp [decKey, hca, hcb, lex_lt_iff]
  all_goals simp [decKey, ltDec, hca, hcb, lex_lt_iff]

/-- The place of a candidate in the selection. -/
def candKey (small : Bool) (x : Cand) : (ℤ ×ₗ ℚ) ×ₗ ℕ := toLex (decKey small x.1, x.2)

theorem candBefore_iff {small : Bool} {x y : Cand} (hx : Ranked x.1) (hy : Ranked y.1) : candBefore small x y = true ↔ candKey small x < candKey small y := by
  have hlt : ∀ {a b : Cand}, Ranked a.1 → Ranked b.1 → ((if small then ltDec a.1 b.1 else ltDec b.1 a.1) = true ↔ decKey small a.1 < decKey small b.1) := by
    intro a b ha hb
    cases small
    · exact (ltDec_iff ha hb).2
    · exact (ltDec_iff ha hb).1
  have hgt := hlt hy hx
  unfold candBefore candKey
  rw [Prod.Lex.toLex_lt_toLex]
  dsimp only
  rw [Bool.or_eq_true, Bool.and_eq_true, decide_eq_true_eq, hlt hx hy, Bool.not_eq_true', ← Bool.not_eq_true, hgt]
  constructor
  · rintro (h | ⟨h, hp⟩)
    · exact Or.inl h
    · rcases lt_or_eq_of_le (not_lt.1 h) with h | h
      · exact Or.inl h
      · exact Or.inr ⟨h, hp⟩
  · rintro (h | ⟨h, hp⟩)
    · exact Or.inl h
    · exact Or.inr ⟨by rw [h]; exact lt_irrefl _, hp⟩

theorem candBefore_false_iff {small : Bool} {x y : Cand} (hx : Ranked x.1) (hy : Ranked y.1) :
    candBefore small y x = false ↔ candKey small x ≤ candKey small y := by
  rw [← not_lt, ← candBefore_iff hy hx, Bool.not_eq_true]

/-! ### A candidate put in its rank -/

section insert
variable {small : Bool} {x : Cand} {l : List Cand}

theorem insertCand_perm (small : Bool) (x : Cand) (l : List Cand) : (insertCand small x l).Perm (x :: l) := by
  induction l with
  | nil => exact List.Perm.refl _
  | cons y l ih =>
    unfold insertCand
    split
    · exact List.Perm.refl _
    · exact (ih.cons y).trans (List.Perm.swap x y l)

theorem insertCand_sorted (hx : Ranked x.1) (hl : ∀ y ∈ l, Ranked y.1) (hs : l.Pairwise (fun a b => candKey small a ≤ candKey small b)) :
    (insertCand small x l).Pairwise (fun a b => candKey small a ≤ candKey small b) := by
  induction l with
  | nil => exact List.pairwise_singleton _ _
  | cons y l ih =>
    obtain ⟨hy, hs⟩ := List.pairwise_cons.1 hs
    have hyr := hl y List.mem_cons_self
    unfold insertCand
    split
    · next hb =>
      have hxy := le_of_lt ((candBefore_iff hx hyr).1 hb)
      refine List.pairwise_cons.2 ⟨fun z hz => ?_, List.pairwise_cons.2 ⟨hy, hs⟩⟩
      rcases List.mem_cons.1 hz with rfl | hz
      · exact hxy
      · exact hxy.trans (hy z hz)
    · next hb =>
      have hyx := (candBefore_false_iff hyr hx).1 (Bool.eq_false_iff.2 hb)
      refine List.pairwise_cons.2 ⟨fun z hz => ?_, ih (fun z hz => hl z (List.mem_cons_of_mem _ hz)) hs⟩
      rcases List.mem_cons.1 ((insertCand_perm small x l).mem_iff.1 hz) with rfl | hz
      · exact hyx
      · exact hy z hz

/-- The last in rank is put at the end. -/
theorem insertCand_last (hx : Ranked x.1) (hl : ∀ y ∈ l, Ranked y.1 ∧ candKey small y ≤ candKey small x) : insertCand small x l = l ++ [x] := by
  induction l with
  | nil => rfl
  | cons y l ih =>
    obtain ⟨hy, hle⟩ := hl y List.mem_cons_self
    unfold insertCand
    rw [(candBefore_false_iff hy hx).2 hle, if_neg Bool.false_ne_true, ih (fun z hz => hl z (List.mem_cons_of_mem _ hz))]
    rfl

end insert

/-! ### The selection (R193) -/

/-- The first k of the candidates that are numbers or infinities are `top`, in order; the others are `rest`. -/
structure Selected (small : Bool) (k : Nat) (l top rest : List Cand) : Prop where
  perm : (top ++ rest).Perm (l.filter (fun y => y.1.cls != .nan))
  length : top.length = min k (l.filter (fun y => y.1.cls != .nan)).length
  sorted : top.Pairwise (fun a b => candKey small a ≤ candKey small b)
  first : ∀ a ∈ top, ∀ b ∈ rest, candKey small a ≤ candKey small b

/-- No candidate is a saturated value. -/
def NoSat (l : List Cand) : Prop := ∀ y ∈ l, y.1.cls ≠ .satPos ∧ y.1.cls ≠ .satNeg

theorem Selected.ranked {small : Bool} {k : Nat} {l top rest : List Cand} (h : Selected small k l top rest) (hl : NoSat l) :
    (∀ a ∈ top, Ranked a.1) ∧ ∀ b ∈ rest, Ranked b.1 := by
  have hall : ∀ a ∈ top ++ rest, Ranked a.1 := by
    intro a ha
    obtain ⟨hm, hn⟩ := List.mem_filter.1 (h.perm.mem_iff.1 ha)
    exact ⟨bne_iff_ne.1 hn, hl a hm⟩
  exact ⟨fun a ha => hall a (List.mem_append_left _ ha), fun b hb => hall b (List.mem_append_right _ hb)⟩

/-- One more candidate. -/
theorem Selected.insert {small : Bool} {k : Nat} {l top rest : List Cand} (h : Selected small k l top rest) (hl : NoSat l) {x : Cand} (hx : Ranked x.1) :
    Selected small k (l ++ [x]) ((insertCand small x top).take k) ((insertCand small x top).drop k ++ rest) := by
  obtain ⟨htr, -⟩ := h.ranked hl
  have hfil : (l ++ [x]).filter (fun y => y.1.cls != .nan) = l.filter (fun y => y.1.cls != .nan) ++ [x] := by
    rw [List.filter_append, List.filter_cons_of_pos (by simpa using hx.1), List.filter_nil]
  have hperm := insertCand_perm small x top
  have hlen : (insertCand small x top).length = top.length + 1 := hperm.length_eq
  have hsort := insertCand_sorted hx htr h.sorted
  have htot : top.length + rest.length = (l.filter (fun y => y.1.cls != .nan)).length := by
    rw [← List.length_append, h.perm.length_eq]
  have hcut : ∀ a ∈ (insertCand small x top).take k, ∀ b ∈ (insertCand small x top).drop k, candKey small a ≤ candKey small b := by
    rw [← List.take_append_drop k (insertCand small x top), List.pairwise_append] at hsort
    exact hsort.2.2
  refine ⟨?_, ?_, hsort.sublist (List.take_sublist _ _), ?_⟩
  · rw [← List.append_assoc, List.take_append_drop, hfil]
    exact (hperm.append_right rest).trans ((h.perm.cons x).trans (List.perm_append_singleton x _).symm)
  · rw [List.length_take, hlen, hfil, List.length_append, List.length_singleton, h.length]
    omega
  · intro a ha b hb
    rcases List.mem_append.1 hb with hbd | hbr
    · exact hcut a ha b hbd
    · rcases List.mem_cons.1 (hperm.mem_iff.1 (List.mem_of_mem_take ha)) with rfl | hat
      · have hk : top.length = k := by
          have := List.length_pos_of_mem hbr
          have := h.length
          omega
        obtain ⟨z, hz⟩ : ∃ z, (insertCand small a top).drop k = [z] := List.length_eq_one_iff.1 (by rw [List.length_drop, hlen]; omega)
        have haz := hcut a ha z (by rw [hz]; exact List.mem_singleton_self z)
        have hzi : z ∈ insertCand small a top := List.mem_of_mem_drop (by rw [hz]; exact List.mem_singleton_self z)
        rcases List.mem_cons.1 (hperm.mem_iff.1 hzi) with rfl | hzt
        · have hp : ((insertCand small z top).take k).Perm top := by
            have := hperm
            rw [← List.take_append_drop k (insertCand small z top), hz] at this
            exact (List.perm_cons z).1 ((List.perm_append_singleton z _).symm.trans this)
          exact h.first z (hp.mem_iff.1 ha) b hbr
        · exact haz.trans (h.first z hzt b hbr)
      · exact h.first a hat b hbr

theorem Selected.skip {small : Bool} {k : Nat} {l top rest : List Cand} (h : Selected small k l top rest) {x : Cand} (hx : x.1.cls = .nan) :
    Selected small k (l ++ [x]) top rest := by
  have hfil : (l ++ [x]).filter (fun y => y.1.cls != .nan) = l.filter (fun y => y.1.cls != .nan) := by
    rw [List.filter_append, List.filter_cons_of_neg (by simp [hx]), List.filter_nil, List.append_nil]
  obtain ⟨h1, h2, h3, h4⟩ := h
  exact ⟨hfil ▸ h1, hfil ▸ h2, h3, h4⟩

/-- R193: the first k in order. -/
theorem topCands_selected (small : Bool) (k : Nat) (l : List Cand) (hl : NoSat l) : ∃ rest, Selected small k l (topCands small k l) rest := by
  induction l using List.reverseRecOn with
  | nil => exact ⟨[], List.Perm.refl _, by simp [topCands], List.Pairwise.nil, fun a ha => absurd ha List.not_mem_nil⟩
  | append_singleton l x ih =>
    have hl' : NoSat l := fun y hy => hl y (List.mem_append_left _ hy)
    obtain ⟨rest, h⟩ := ih hl'
    have hstep : topCands small k (l ++ [x]) = if x.1.cls == .nan then topCands small k l else (insertCand small x (topCands small k l)).take k := by
      rw [topCands, List.foldl_append]
      rfl
    rw [hstep]
    split
    · next hn => exact ⟨rest, h.skip (beq_iff_eq.1 hn)⟩
    · next hn => exact ⟨_, h.insert hl' ⟨fun e => hn (beq_iff_eq.2 e), hl x (by simp)⟩⟩

/-- Candidates in order, no more than k, are their own selection. -/
theorem topCands_sorted {small : Bool} {k : Nat} {l : List Cand} (hr : ∀ y ∈ l, Ranked y.1) (hs : l.Pairwise (fun a b => candKey small a ≤ candKey small b))
    (hk : l.length ≤ k) : topCands small k l = l := by
  induction l using List.reverseRecOn with
  | nil => rfl
  | append_singleton l x ih =>
    rw [List.length_append, List.length_singleton] at hk
    obtain ⟨hs, -, hlast⟩ := List.pairwise_append.1 hs
    have ih := ih (fun y hy => hr y (List.mem_append_left _ hy)) hs (by omega)
    have hx := hr x (by simp)
    have hstep : topCands small k (l ++ [x]) = if x.1.cls == .nan then topCands small k l else (insertCand small x (topCands small k l)).take k := by
      rw [topCands, List.foldl_append]
      rfl
    rw [hstep, if_neg (by simpa using hx.1), ih, insertCand_last hx (fun y hy => ⟨hr y (List.mem_append_left _ hy), hlast y hy x (List.mem_singleton_self x)⟩),
      List.take_of_length_le (by simpa using hk)]

/-- R194: a selection merged with more candidates is that of all of them. -/
theorem topCands_merge (small : Bool) (k : Nat) (a b : List Cand) (ha : NoSat a) : topCands small k (topCands small k a ++ b) = topCands small k (a ++ b) := by
  obtain ⟨rest, h⟩ := topCands_selected small k a ha
  have hself : topCands small k (topCands small k a) = topCands small k a :=
    topCands_sorted (h.ranked ha).1 h.sorted (by rw [h.length]; exact Nat.min_le_left _ _)
  have happ : ∀ c, topCands small k (c ++ b) = b.foldl (fun acc x => if x.1.cls == .nan then acc else (insertCand small x acc).take k) (topCands small k c) :=
    fun c => List.foldl_append
  rw [happ, happ, hself]

/-! ### Decoded candidates -/

/-- No element decodes as a saturated value. -/
theorem decodeElem_noSat (f : Fmt) (sym : Bool) (code : Nat) (q : Int) :
    (decodeElem f sym code q).cls ≠ .satPos ∧ (decodeElem f sym code q).cls ≠ .satNeg := by
  have hspecial : ∀ x, specialOf f code = some x → x ≠ .satPos ∧ x ≠ .satNeg := by
    intro x hx
    unfold specialOf at hx
    split at hx <;> (try split_ifs at hx) <;> cases hx <;> decide
  unfold decodeElem
  split
  · split <;> exact ⟨by simp [Dec.nan, Dec.fin], by simp [Dec.nan, Dec.fin]⟩
  · split
    · next x hx => exact hspecial x hx
    · exact ⟨by simp [Dec.fin], by simp [Dec.fin]⟩

theorem laneDec_noSat (x : Core) (sym : Bool) (n j : Nat) (q : Int) : (laneDec x sym n j q).cls ≠ .satPos ∧ (laneDec x sym n j q).cls ≠ .satNeg :=
  decodeElem_noSat ..

theorem heldCands_noSat (x : Core) (f : VTopkF) (k : Nat) : NoSat (heldCands x f k) := by
  intro y hy
  obtain ⟨r, -, hr⟩ := List.mem_filterMap.1 hy
  dsimp only at hr
  split at hr
  · exact absurd hr (by simp)
  · cases hr
    exact laneDec_noSat ..

theorem filter_range_lt {m n : Nat} (h : m ≤ n) (p : Nat → Bool) : (List.range n).filter (fun e => decide (e < m) && p e) = (List.range m).filter p := by
  obtain ⟨k, rfl⟩ := Nat.exists_eq_add_of_le h
  rw [List.range_add, List.filter_append]
  refine (congrArg₂ (· ++ ·) (List.filter_congr (fun e he => ?_)) (List.filter_eq_nil_iff.2 (fun e he => ?_))).trans (List.append_nil _)
  · rw [decide_eq_true (List.mem_range.1 he), Bool.true_and]
  · obtain ⟨j, -, rfl⟩ := List.mem_map.1 he
    simp

/-! ### VTOPK -/

section vtopk
variable (s : State) (i : Iss) (f : VTopkF)

/-- Element e is a candidate. -/
def vtopkOn (e : Nat) : Bool :=
  if f.msrc = 1 then decide (e ≤ f.m1.toNat) && colDimOn (coreOf s i.core) i.hdr.mask e
  else decide (e < 64) && laneOn (coreOf s i.core) i.hdr.mask i.pkt 0 e

/-- The row that element e lies in. -/
def vtopkRow (e : Nat) : Nat := adrOff f.addr + e / (fmtGet (coreOf s i.core) f.fmti).op.fmt.perRow

/-- Its value. -/
def vtopkVal (e : Nat) : Dec :=
  if f.msrc = 1 then
    decodeElem (fmtGet (coreOf s i.core) f.fmti).op.fmt (fmtGet (coreOf s i.core) f.fmti).op.sym
      (codeAt (fmtGet (coreOf s i.core) f.fmti).op.fmt (rowAt s.dp i.core (adrOrch f.addr) (vtopkRow s i f e)
        (portCycle (vtopkRows (coreOf s i.core) f) 0 (vtopkRow s i f e))) (e % (fmtGet (coreOf s i.core) f.fmti).op.fmt.perRow))
      ((fmtGet (coreOf s i.core) f.fmti).fq + f.qa.toInt)
  else laneDec (coreOf s i.core) (f.sym == 1) f.va.toNat e f.qa.toInt

/-- All candidates, those kept first. -/
def vtopkCands : List Cand :=
  (if f.acc = 1 then heldCands (coreOf s i.core) f (f.k1.toNat + 1) else []) ++
    ((List.range 4096).filter (vtopkOn s i f)).map (fun e => (vtopkVal s i f e, f.pos0.toNat + e))

/-- The code and the flags of rank r. -/
def topCode (f : VTopkF) (top : List Cand) (r : Nat) : Nat × NFlags :=
  match top[r]? with | some y => storeElem .i32 (f.sym == 1) y.1 f.qd.toInt | none => (0, .none)

/-- The position of rank r. -/
def topPos (top : List Cand) (r : Nat) : Nat := match top[r]? with | some y => y.2 | none => 0xFFFFFFFF

variable {s i f}

theorem vtopkCands_noSat : NoSat (vtopkCands s i f) := by
  intro y hy
  rcases List.mem_append.1 hy with hy | hy
  · split at hy
    · exact heldCands_noSat _ _ _ y hy
    · exact absurd hy List.not_mem_nil
  · obtain ⟨e, -, rfl⟩ := List.mem_map.1 hy
    unfold vtopkVal
    dsimp only
    split
    · exact decodeElem_noSat ..
    · exact laneDec_noSat ..

/-- The candidates as the command lists them. -/
theorem vtopkOn_filter : (List.range 4096).filter (vtopkOn s i f) =
    if f.msrc = 1 then (List.range (vtopkCount f)).filter (colDimOn (coreOf s i.core) i.hdr.mask)
    else (List.range 64).filter (fun j => laneOn (coreOf s i.core) i.hdr.mask i.pkt 0 j) := by
  unfold vtopkOn vtopkCount
  by_cases hm : f.msrc = 1
  · have hlt : f.m1.toNat < 4096 := f.m1.isLt
    simp only [if_pos hm]
    simp only [← Nat.lt_succ_iff]
    exact filter_range_lt (by omega) _
  · simp only [if_neg hm]
    exact filter_range_lt (by decide) _

/-- What the ranks write. -/
def vtopkLanes (f : VTopkF) (top : List Cand) : List (Nat × Nat × Nat) :=
  (List.range (f.k1.toNat + 1)).flatMap (fun r => [(f.vd.toNat, r, (topCode f top r).1), (f.vd.toNat + 1, r, topPos top r)])

/-- The selection of the command. -/
def vtopkTop (s : State) (i : Iss) (f : VTopkF) : List Cand := topCands (f.dir == 1) (f.k1.toNat + 1) (vtopkCands s i f)

/-- The flags of the ranks. -/
def vtopkFlags (f : VTopkF) (top : List Cand) : NFlags := flagsAll ((List.range (f.k1.toNat + 1)).map (fun r => (topCode f top r).2))

theorem vtopkRows_nodup (x : Core) (f : VTopkF) : (vtopkRows x f).Nodup := by
  unfold vtopkRows
  split
  · exact nodup_distinct _
  · exact List.nodup_nil

/-- The elements of memory that are candidates. -/
def vtopkNeed (s : State) (i : Iss) (f : VTopkF) : List Nat :=
  if f.msrc = 1 then distinct (((List.range 4096).filter (vtopkOn s i f)).map (vtopkRow s i f)) else []

theorem mem_vtopkNeed (hm : f.msrc = 1) {e : Nat} (he : e ∈ (List.range 4096).filter (vtopkOn s i f)) :
    vtopkRow s i f e ∈ vtopkNeed s i f ∧ vtopkRow s i f e ∈ vtopkRows (coreOf s i.core) f := by
  unfold vtopkNeed vtopkRows
  rw [if_pos hm, if_pos hm]
  refine ⟨mem_distinct.2 (List.mem_map_of_mem he), mem_distinct.2 (List.mem_map_of_mem (f := vtopkRow s i f) ?_)⟩
  rw [vtopkOn_filter, if_pos hm] at he
  exact List.mem_of_mem_filter he

/-- Where VTOPK runs, its ranks are on their way. -/
theorem effVtopk_run (hcl : f.msrc = 1 → ∀ e ∈ (List.range 4096).filter (vtopkOn s i f), cleanRow s.dp i.core (adrOrch f.addr) (vtopkRow s i f e)
      (portCycle (vtopkRows (coreOf s i.core) f) 0 (vtopkRow s i f e)) = true) :
    effVtopk i f true (workOf s i.core .ve false) =
      (((workOf s i.core .ve false).veBusy (vtopkOcc f) 8).regsLand (vtopkOcc f + 8) (vtopkLanes f (vtopkTop s i f))).raise (vtopkFlags f (vtopkTop s i f)) := by
  have h0 := doing_start s i.core .ve
  have h1 := h0.veBusy (vtopkOcc f) 8
  have hread := h1.readDistinct rfl (orch := adrOrch f.addr) (neededOf (twoPorts 0 0 (vtopkRows (coreOf s i.core) f)) (vtopkNeed s i f)) (by
    intro x hx
    obtain ⟨hneed, hcyc⟩ := mem_neededOf (vtopkRows_nodup _ _) hx
    unfold vtopkNeed at hneed
    split at hneed
    · next hm =>
      obtain ⟨e, he, hex⟩ := List.mem_map.1 (mem_distinct.1 hneed)
      rw [hcyc, ← hex]
      exact hcl hm e he
    · exact absurd hneed List.not_mem_nil)
  have hon : laneOn ((coreOf s i.core).pop .ve) = laneOn (coreOf s i.core) := rfl
  have hcol : colDimOn ((coreOf s i.core).pop .ve) = colDimOn (coreOf s i.core) := rfl
  have hfmt : fmtGet ((coreOf s i.core).pop .ve) f.fmti = fmtGet (coreOf s i.core) f.fmti := rfl
  have hrows : vtopkRows ((coreOf s i.core).pop .ve) f = vtopkRows (coreOf s i.core) f := rfl
  have hdec : laneDec ((coreOf s i.core).pop .ve) = laneDec (coreOf s i.core) := rfl
  have hheld : heldCands ((coreOf s i.core).pop .ve) = heldCands (coreOf s i.core) := rfl
  unfold effVtopk
  dsimp only
  rw [h0.me, hon, hcol, hfmt, hrows, hdec, hheld, ← vtopkOn_filter]
  generalize (workOf s i.core .ve false).veBusy (vtopkOcc f) 8 = w at *
  rw [if_neg (by decide)]
  rw [show (if f.msrc = 1 then distinct (((List.range 4096).filter (vtopkOn s i f)).map
    (fun e => adrOff f.addr + e / (fmtGet (coreOf s i.core) f.fmti).op.fmt.perRow)) else []) = vtopkNeed s i f from rfl, hread]
  dsimp only
  rw [List.map_congr_left (l := (List.range 4096).filter (vtopkOn s i f)) (g := fun e => (vtopkVal s i f e, f.pos0.toNat + e))]
  · have htop : topCands (f.dir == 1) (f.k1.toNat + 1) ((if f.acc = 1 then heldCands (coreOf s i.core) f (f.k1.toNat + 1) else []) ++
        ((List.range 4096).filter (vtopkOn s i f)).map (fun e => (vtopkVal s i f e, f.pos0.toNat + e))) = vtopkTop s i f := rfl
    rw [htop]
    rw [List.map_congr_left (l := List.range (f.k1.toNat + 1))
      (g := fun r => ((r, (topCode f (vtopkTop s i f) r).1, topPos (vtopkTop s i f) r), (topCode f (vtopkTop s i f) r).2)), List.flatMap_map, List.map_map]
    · rfl
    · intro r _
      unfold topCode topPos
      cases (vtopkTop s i f)[r]? <;> rfl
  · intro e he
    unfold vtopkVal
    by_cases hm : f.msrc = 1
    · obtain ⟨hneed, hplan⟩ := mem_vtopkNeed hm he
      rw [if_pos hm, if_pos hm, ← vtopkRow, rowOf_neededOf (fun x => rowAt s.dp i.core (adrOrch f.addr) x.1 x.2) hplan hneed]
    · rw [if_neg hm, if_neg hm]

theorem effVtopk_doing (hcl : runs s i = true → f.msrc = 1 → ∀ e ∈ (List.range 4096).filter (vtopkOn s i f), cleanRow s.dp i.core (adrOrch f.addr)
      (vtopkRow s i f e) (portCycle (vtopkRows (coreOf s i.core) f) 0 (vtopkRow s i f e)) = true) :
    Doing s i.core .ve (flagged s i.core .ve (runs s i) (vtopkFlags f (vtopkTop s i f))
        { (coreOf s i.core).pop .ve with ve := veBusyWith (coreOf s i.core).ve s.dp.cycle (vtopkOcc f) 8 })
      (if runs s i then [(vtopkOcc f + 8, .regs i.core (vtopkLanes f (vtopkTop s i f)))] else []) (effVtopk i f (runs s i) (workOf s i.core .ve false)) := by
  have h1 := (doing_start s i.core .ve).veBusy (vtopkOcc f) 8
  cases hr : runs s i with
  | false => exact h1
  | true =>
    rw [effVtopk_run (hcl hr)]
    exact (h1.regsLand _ _).raise _

end vtopk

/-- Settles O34. -/
theorem vtopkSelectsInOrder : Obligations.VtopkSelectsInOrder := by
  unfold Obligations.VtopkSelectsInOrder
  refine ⟨?_, topCands_merge⟩
  intro s i f hdue x sel k occ on row cyc val cands hcl
  obtain ⟨t, p, hx, hside, honly, hcore⟩ := exec_doing (keep := keepVe) (rfl : exec (.vtopk i f) s = issueEngine (.vtopk i f) i .ve (effVtopk i f) s) hdue
    (effVtopk_doing (fun hr hm e he => hcl e (List.mem_range.1 (List.mem_filter.1 he).1) hr hm (List.mem_filter.1 he).2)) (by rw [flagged_keep]; rfl)
    (fun p => by rw [flagged_keep]; rfl)
  obtain ⟨rest, hsel⟩ := topCands_selected (f.dir == 1) (f.k1.toNat + 1) (vtopkCands s i f) vtopkCands_noSat
  obtain ⟨htop, hrest⟩ := hsel.ranked vtopkCands_noSat
  refine ⟨t, vtopkTop s i f, rest, hx, hside, honly, ?_, hsel.perm, hsel.length, ?_, fun a ha b hb =>
    (candBefore_false_iff (htop a ha) (hrest b hb)).2 (hsel.first a ha b hb), flagsRaised_flagged hcore rfl rfl⟩
  · rw [hcore, flagged_keep]
    rfl
  · exact hsel.sorted.imp_of_mem (fun ha hb h => (candBefore_false_iff (htop _ ha) (htop _ hb)).2 h)

end Sys2Proof.Machine
end

section
/-!
VWADD (R195): the triples it adds, from registers and from memory planes, and what each lane takes.
-/
namespace Sys2Proof.Machine
-- one proof after the other: the check compiles one text, and its memory holds few threads
set_option Elab.async false
open Sys2Proof.Safety

/-! ### Three rows for each triple -/

/-- n triples, in order. -/
def triples {α : Type} (n : Nat) (g : Nat → Nat → α) : List α := (List.range n).flatMap (fun m => (List.range 3).map (g m))

section triples
variable {α β : Type} (n : Nat) (g : Nat → Nat → α)

theorem triples_succ : triples (n + 1) g = triples n g ++ [g n 0, g n 1, g n 2] := by
  unfold triples
  rw [List.range_succ (n := n), List.flatMap_append]
  rfl

theorem length_triples : (triples n g).length = 3 * n := by
  induction n with
  | zero => rfl
  | succ n ih =>
    rw [triples_succ, List.length_append, ih]
    simp
    omega

theorem map_triples (f : α → β) : (triples n g).map f = triples n (fun m p => f (g m p)) := by
  unfold triples
  rw [List.map_flatMap]
  exact List.flatMap_congr (fun m _ => List.map_map)

theorem zipIdx_triples : (triples n g).zipIdx = triples n (fun m p => (g m p, 3 * m + p)) := by
  induction n with
  | zero => rfl
  | succ n ih =>
    rw [triples_succ, triples_succ, List.zipIdx_append, ih, length_triples]
    simp [List.zipIdx_cons]

theorem getD_triples {m p : Nat} (hm : m < n) (hp : p < 3) (d : α) : (triples n g).getD (3 * m + p) d = g m p := by
  induction n with
  | zero => exact absurd hm (Nat.not_lt_zero m)
  | succ n ih =>
    rw [triples_succ]
    rcases Nat.lt_succ_iff_lt_or_eq.1 hm with hm | rfl
    · rw [List.getD_append _ _ _ _ (by rw [length_triples]; omega), ih hm]
    · rw [List.getD_append_right _ _ _ _ (by rw [length_triples]; omega), length_triples, Nat.add_sub_cancel_left]
      interval_cases p <;> rfl

end triples

/-! ### VWADD -/

section vwadd
variable (s : State) (i : Iss) (f : VWaddF)

/-- The row of plane p of the m-th triple in memory, and the cycle of its read. -/
def vwaddRow (m p : Nat) : Nat := adrOff f.addr + m * f.ostr.toNat + p * f.pstr.toNat
def vwaddCycle (m p : Nat) : Nat := vwaddRegs f + (3 * m + p) / 2

/-- The code of a lane in a plane, and in a register of the operand. -/
def vwaddPlane (m p j : Nat) : Nat := codeAt .i32 (rowAt s.dp i.core (adrOrch f.addr) (vwaddRow f m p) (vwaddCycle f m p)) (64 * f.e0.toNat + j)
def vwaddReg (n j : Nat) : Nat := laneCode (seenAt s i.core n) (f.va.toNat + n) j

/-- The triples of lane j. -/
def vwaddOps (j : Nat) : List (A88 × Bool) :=
  (List.range (f.nw2.toNat + 2)).map (fun n =>
    if n < vwaddRegs f then A88.ofWords (vwaddReg s i f (3 * n) j) (vwaddReg s i f (3 * n + 1) j) (vwaddReg s i f (3 * n + 2) j)
    else A88.ofWords (vwaddPlane s i f (n - vwaddRegs f) 0 j) (vwaddPlane s i f (n - vwaddRegs f) 1 j) (vwaddPlane s i f (n - vwaddRegs f) 2 j))

/-- The sum of a lane, and the flags it raises so far. -/
def vwaddTotal (j : Nat) : A88 × NFlags := wideAdd ((vwaddOps s i f j).map (fun y => y.1))
def vwaddBase (j : Nat) : NFlags := { (vwaddTotal s i f j).2 with inv := (vwaddTotal s i f j).2.inv || (vwaddOps s i f j).any (fun y => y.2) }

/-- Its store at QD, and that of the residual at QL. -/
def vwaddHi (j : Nat) : Nat × NFlags := storeElem .i32 false ((vwaddTotal s i f j).1.toDec 0) f.qd.toInt
def vwaddLo (j : Nat) : Nat × NFlags :=
  match pairResidual ((vwaddTotal s i f j).1.toDec 0) .i32 false (vwaddHi s i f j) f.qd.toInt with
  | some d => storeElem .i32 false d f.ql.toInt
  | none => (0, .none)

/-- What lane j writes, and its flags. -/
def vwaddLanes (j : Nat) : List (Nat × Nat × Nat) :=
  if f.dstw = 0 then (List.range 3).map (fun k => (f.vd.toNat + k, j, (vwaddTotal s i f j).1.words.getD k 0))
  else if f.dstw = 1 then [(f.vd.toNat, j, (vwaddHi s i f j).1)] else [(f.vd.toNat, j, (vwaddHi s i f j).1), (f.vd.toNat + 1, j, (vwaddLo s i f j).1)]
def vwaddFlags (j : Nat) : NFlags :=
  if f.dstw = 0 then vwaddBase s i f j else if f.dstw = 1 then (vwaddBase s i f j).or (vwaddHi s i f j).2
  else ((vwaddBase s i f j).or (pairHiFlags (vwaddHi s i f j).2)).or (vwaddLo s i f j).2

/-- The enabled lanes. -/
def vwaddOn : List Nat := (List.range 64).filter (fun j => laneOn (coreOf s i.core) i.hdr.mask i.pkt 0 j)

variable {s i f}

theorem vwaddRegs_eq : vwaddRegs f = if f.src = 0 then f.nw2.toNat + 2 else if f.src = 1 then 0 else 1 := by
  unfold vwaddRegs
  have h0 : f.src.toNat = 0 ↔ f.src = 0 := by bv_omega
  have h1 : f.src.toNat = 1 ↔ f.src = 1 := by bv_omega
  split
  · next h => rw [if_pos (h0.1 h)]
  · next h => rw [if_neg (fun e => by rw [h0.2 e] at h; omega), if_pos (h1.1 h)]
  · next ha hb => rw [if_neg (fun e => ha (h0.2 e)), if_neg (fun e => hb (h1.2 e))]

theorem vwaddRegs_le : vwaddRegs f ≤ f.nw2.toNat + 2 := by
  unfold vwaddRegs
  split <;> omega

theorem vwaddReads_eq : twoPorts (vwaddRegs f) 0 (vwaddRows f) = triples (vwaddMems f) (fun m p => (vwaddRow f m p, vwaddCycle f m p)) := by
  have hrows : vwaddRows f = triples (vwaddMems f) (vwaddRow f) := rfl
  unfold twoPorts
  rw [hrows, zipIdx_triples, map_triples]
  simp only [Nat.zero_add]
  rfl

/-- A list of n elements, the first k given by one rule and the others by another. -/
theorem map_range_split {α : Type} {k n : Nat} (h : k ≤ n) (a b : Nat → α) :
    (List.range n).map (fun j => if j < k then a j else b (j - k)) = (List.range k).map a ++ (List.range (n - k)).map b := by
  obtain ⟨m, rfl⟩ := Nat.exists_eq_add_of_le h
  rw [List.range_add, List.map_append, Nat.add_sub_cancel_left, List.map_map]
  refine congrArg₂ _ (List.map_congr_left (fun j hj => if_pos (List.mem_range.1 hj))) (List.map_congr_left (fun j _ => ?_))
  dsimp only [Function.comp]
  rw [if_neg (by omega), Nat.add_sub_cancel_left]

/-- The operands as the command lists them. -/
theorem vwaddOps_eq (v : Nat → Core) (hv : ∀ n, (v n).ve.regs = (seenAt s i.core n).ve.regs) (a : List (List Byte))
    (ha : ∀ m p, m < vwaddMems f → p < 3 → a.getD (3 * m + p) [] = rowAt s.dp i.core (adrOrch f.addr) (vwaddRow f m p) (vwaddCycle f m p)) (j : Nat) :
    (List.range (vwaddRegs f)).map (fun r => tripleAt v f.va.toNat (3 * r) j) ++
      (List.range (vwaddMems f)).map (fun m => A88.ofWords (codeAt .i32 (a.getD (3 * m + 0) []) (64 * f.e0.toNat + j))
        (codeAt .i32 (a.getD (3 * m + 1) []) (64 * f.e0.toNat + j)) (codeAt .i32 (a.getD (3 * m + 2) []) (64 * f.e0.toNat + j))) = vwaddOps s i f j := by
  unfold vwaddOps
  rw [map_range_split vwaddRegs_le (fun n => A88.ofWords (vwaddReg s i f (3 * n) j) (vwaddReg s i f (3 * n + 1) j) (vwaddReg s i f (3 * n + 2) j))
    (fun m => A88.ofWords (vwaddPlane s i f m 0 j) (vwaddPlane s i f m 1 j) (vwaddPlane s i f m 2 j))]
  refine congrArg₂ _ (List.map_congr_left (fun n _ => ?_)) (List.map_congr_left (fun m hm => ?_))
  · unfold tripleAt vwaddReg laneCode
    rw [hv, hv, hv]
  · have hm := List.mem_range.1 hm
    rw [ha m 0 hm (by decide), ha m 1 hm (by decide), ha m 2 hm (by decide)]
    rfl

/-- The words of a sum, one for each register. -/
theorem words_zipIdx (x : A88) (vd j : Nat) : x.words.zipIdx.map (fun (y : Nat × Nat) => (vd + y.2, j, y.1)) =
    (List.range 3).map (fun k => (vd + k, j, x.words.getD k 0)) := by
  obtain ⟨a, b, c, h⟩ : ∃ a b c, x.words = [a, b, c] := ⟨_, _, _, rfl⟩
  rw [h]
  rfl

/-- Where VWADD works, its lanes are on their way. -/
theorem effVwadd_run (hon : (vwaddOn s i).isEmpty = false)
    (hcl : ∀ m < vwaddMems f, ∀ p < 3, cleanRow s.dp i.core (adrOrch f.addr) (vwaddRow f m p) (vwaddCycle f m p) = true) :
    effVwadd i f true (workOf s i.core .ve false) =
      (((workOf s i.core .ve false).veBusy (vwaddOcc f) 6).regsLand (vwaddOcc f + 6) ((vwaddOn s i).flatMap (vwaddLanes s i f))).raise
        (flagsAll ((vwaddOn s i).map (vwaddFlags s i f))) := by
  have h1 := (doing_start s i.core .ve).veBusy (vwaddOcc f) 6
  have hread := h1.readList rfl (orch := adrOrch f.addr) (triples (vwaddMems f) (fun m p => (vwaddRow f m p, vwaddCycle f m p))) (by
    intro x hx
    obtain ⟨m, hm, hx⟩ := List.mem_flatMap.1 hx
    obtain ⟨p, hp, rfl⟩ := List.mem_map.1 hx
    exact hcl m (List.mem_range.1 hm) p (List.mem_range.1 hp))
  rw [map_triples] at hread
  have hops := vwaddOps_eq (f := f) ((workOf s i.core .ve false).veBusy (vwaddOcc f) 6).meAt (h1.meAt_regs rfl) _
    (fun m p hm hp => getD_triples (vwaddMems f) (fun m p => rowAt s.dp i.core (adrOrch f.addr) (vwaddRow f m p) (vwaddCycle f m p)) hm hp [])
  have hlane : laneOn ((workOf s i.core .ve false).veBusy (vwaddOcc f) 6).me = laneOn (coreOf s i.core) := by
    rw [h1.me]
    rfl
  unfold effVwadd
  dsimp only
  rw [if_neg (by decide)]
  generalize (workOf s i.core .ve false).veBusy (vwaddOcc f) 6 = w at *
  rw [hlane, vwaddReads_eq, hread]
  rw [show (List.range 64).filter (fun j => laneOn (coreOf s i.core) i.hdr.mask i.pkt 0 j) = vwaddOn s i from rfl, hon, if_neg Bool.false_ne_true]
  dsimp only
  simp only [hops]
  rw [List.map_congr_left (l := vwaddOn s i) (g := fun j => (vwaddLanes s i f j, vwaddFlags s i f j)), List.flatMap_map, List.map_map]
  · rfl
  · intro j _
    unfold vwaddLanes vwaddFlags
    by_cases h0 : f.dstw = 0
    · simp only [h0, if_true]
      exact congrArg₂ Prod.mk (words_zipIdx ..) rfl
    · by_cases h1 : f.dstw = 1
      · simp only [h1]
        rfl
      · rw [if_neg h0, if_neg h1, if_neg h0, if_neg h1]
        split
        · next h => exact absurd (BitVec.eq_of_toNat_eq h) h0
        · next h => exact absurd (BitVec.eq_of_toNat_eq h) h1
        · have hhi : storeElem .i32 false ((wideAdd ((vwaddOps s i f j).map (fun y => y.1))).1.toDec 0) f.qd.toInt = vwaddHi s i f j := rfl
          rw [hhi, show wideAdd ((vwaddOps s i f j).map (fun y => y.1)) = vwaddTotal s i f j from rfl]
          unfold vwaddLo
          cases pairResidual ((vwaddTotal s i f j).1.toDec 0) .i32 false (vwaddHi s i f j) f.qd.toInt with
          | none => exact congrArg₂ Prod.mk rfl (NFlags.or_none _).symm
          | some d => rfl

theorem effVwadd_doing (hcl : (runs s i && !(vwaddOn s i).isEmpty) = true →
      ∀ m < vwaddMems f, ∀ p < 3, cleanRow s.dp i.core (adrOrch f.addr) (vwaddRow f m p) (vwaddCycle f m p) = true) :
    Doing s i.core .ve (flagged s i.core .ve (runs s i && !(vwaddOn s i).isEmpty) (flagsAll ((vwaddOn s i).map (vwaddFlags s i f)))
        { (coreOf s i.core).pop .ve with ve := veBusyWith (coreOf s i.core).ve s.dp.cycle (vwaddOcc f) 6 })
      (if runs s i && !(vwaddOn s i).isEmpty then [(vwaddOcc f + 6, .regs i.core ((vwaddOn s i).flatMap (vwaddLanes s i f)))] else [])
      (effVwadd i f (runs s i) (workOf s i.core .ve false)) := by
  have h1 := (doing_start s i.core .ve).veBusy (vwaddOcc f) 6
  cases hr : runs s i with
  | false => exact h1
  | true =>
    cases hon : (vwaddOn s i).isEmpty with
    | false =>
      rw [effVwadd_run hon (hcl (by rw [hr, hon]; rfl))]
      exact (h1.regsLand _ _).raise _
    | true =>
      have hlane : laneOn ((workOf s i.core .ve false).veBusy (vwaddOcc f) 6).me = laneOn (coreOf s i.core) := by
        rw [h1.me]
        rfl
      unfold effVwadd
      dsimp only
      rw [if_neg (by decide), hlane, show (List.range 64).filter (fun j => laneOn (coreOf s i.core) i.hdr.mask i.pkt 0 j) = vwaddOn s i from rfl, hon, if_pos rfl]
      exact h1

end vwadd

/-- Settles O35. -/
theorem vwaddIsTheWideAdd : Obligations.VwaddIsTheWideAdd := by
  unfold Obligations.VwaddIsTheWideAdd
  intro s i f hdue x nreg nmem occ on off cyc plane reg ops total base hi lo lanes flags works hcl
  have hregs : nreg = vwaddRegs f := vwaddRegs_eq.symm
  have hmems : nmem = vwaddMems f := by rw [vwaddMems, ← hregs]
  have hocc : occ = vwaddOcc f := by rw [vwaddOcc, ← hregs, ← hmems]
  obtain ⟨t, p, hx, hside, honly, hcore⟩ := exec_doing (keep := keepVe) (rfl : exec (.vwadd i f) s = issueEngine (.vwadd i f) i .ve (effVwadd i f) s) hdue
    (effVwadd_doing (fun hw m hm p hp => by
      have := hcl m (hmems ▸ hm) p hp hw
      rwa [show cyc m p = vwaddCycle f m p from by rw [vwaddCycle, ← hregs]] at this)) (by rw [flagged_keep]; rfl) (fun p => by rw [flagged_keep]; rfl)
  have hops : ops = vwaddOps s i f := by
    funext j
    unfold vwaddOps vwaddPlane vwaddCycle
    rw [← hregs]
    rfl
  have hlanes : lanes = vwaddLanes s i f ∧ flags = vwaddFlags s i f := by
    refine ⟨funext fun j => ?_, funext fun j => ?_⟩
    · unfold vwaddLanes vwaddLo vwaddHi vwaddTotal
      rw [← hops] <;> rfl
    · unfold vwaddFlags vwaddLo vwaddHi vwaddBase vwaddTotal
      rw [← hops] <;> rfl
  refine ⟨t, hx, hside, ?_, ?_, ?_⟩
  · rw [hlanes.1, hocc]
    exact honly
  · rw [hocc, hcore, flagged_keep]
  · rw [hlanes.2]
    exact flagsRaised_flagged hcore rfl rfl

end Sys2Proof.Machine
end

section
/-!
WFILL and TLOAD (R109, R110, R111, R115, R230): rows copied into the weight half and the tables.
-/
namespace Sys2Proof.Machine
-- one proof after the other: the check compiles one text, and its memory holds few threads
set_option Elab.async false
open Sys2Proof.Safety

variable {s t : State} {c : BitVec 3} {q : Queue} {y : Core} {l : List (Nat × Landing)} {w : Work} {i : Iss}

/-! ### Rows read as one string -/

theorem rowSeen_length (d : Dp) (c : BitVec 3) (row k : Nat) : (rowSeen d c row k).length = 512 := by
  unfold rowSeen
  split
  · exact padTo_length ..
  · exact memSlice_length ..

theorem rowAt_length (d : Dp) (c : BitVec 3) (orch : Bool) (o k : Nat) : (rowAt d c orch o k).length = 512 := by
  unfold rowAt
  split
  · exact rowSeen_length ..
  · exact List.length_replicate

/-- n rows from offset o, one a cycle from I + k on. -/
def rowsAt (d : Dp) (c : BitVec 3) (orch : Bool) (o k n : Nat) : List Byte := (List.range n).flatMap (fun j => rowAt d c orch (o + j) (k + j))

theorem Doing.readRows (h : Doing s c q y [] w) (hcm : SameBounds y (coreOf s c)) {orch : Bool} (n : Nat) {o k : Nat}
    (hcl : ∀ j < n, Safety.cleanRow s.dp c orch (o + j) (k + j) = true) : w.readRows orch o k n = (rowsAt s.dp c orch o k n, w) := by
  induction n generalizing o k with
  | zero => rfl
  | succ n ih =>
    unfold Work.readRows
    rw [h.readRef hcm (show Safety.cleanRow s.dp c orch o k = true by simpa using hcl 0 (Nat.succ_pos n))]
    dsimp only
    rw [ih (fun j hj => by
      have := hcl (j + 1) (by omega)
      rwa [show o + (j + 1) = o + 1 + j by omega, show k + (j + 1) = k + 1 + j by omega] at this)]
    unfold rowsAt
    rw [List.range_succ_eq_map, List.flatMap_cons, List.flatMap_map]
    simp only [Nat.succ_eq_add_one, Nat.add_zero, Nat.add_assoc, Nat.add_comm 1]

/-- Byte x of strings of 512 bytes one behind the other. -/
theorem byteAt_flatMap {f : Nat → List Byte} (hf : ∀ j, (f j).length = 512) (n x : Nat) (hx : x < 512 * n) :
    byteAt ((List.range n).flatMap f) x = byteAt (f (x / 512)) (x % 512) := by
  induction n with
  | zero => omega
  | succ n ih =>
    have hlen : ∀ m, ((List.range m).flatMap f).length = 512 * m := by
      intro m
      rw [List.length_flatMap, List.map_congr_left (fun j _ => hf j), List.map_const', List.sum_replicate, List.length_range, smul_eq_mul, Nat.mul_comm]
    rw [List.range_succ, List.flatMap_append, List.flatMap_singleton]
    unfold byteAt at ih ⊢
    by_cases hlt : x < 512 * n
    · rw [List.getD_append _ _ _ _ (by rw [hlen]; exact hlt), ih hlt]
    · rw [List.getD_append_right _ _ _ _ (by rw [hlen]; omega), hlen, show x / 512 = n by omega, show x - 512 * n = x % 512 by omega]

theorem rowsAt_length (d : Dp) (c : BitVec 3) (orch : Bool) (o k n : Nat) : (rowsAt d c orch o k n).length = 512 * n := by
  unfold rowsAt
  rw [List.length_flatMap, List.map_congr_left (fun j _ => rowAt_length ..), List.map_const', List.sum_replicate, List.length_range, smul_eq_mul, Nat.mul_comm]

theorem byteAt_rowsAt (d : Dp) (c : BitVec 3) (orch : Bool) (o k : Nat) {n x : Nat} (hx : x < 512 * n) :
    byteAt (rowsAt d c orch o k n) x = byteAt (rowAt d c orch (o + x / 512) (k + x / 512)) (x % 512) :=
  byteAt_flatMap (fun j => rowAt_length ..) n x hx

/-! ### WFILL -/

section fill
variable (s i) (f : WfillF)

/-- The row WFILL begins at. -/
def wfillRow : Nat := f.addr.toNat + xkValue (coreOf s i.core) f.xk

/-- The rows of its weights and of its scales. -/
def wfillData : List Byte := rowsAt s.dp i.core false (wfillRow s i f) 0 (f.nrows1.toNat + 1)
def wfillScales : List Byte := rowsAt s.dp i.core false (wfillRow s i f + (f.nrows1.toNat + 1)) (f.nrows1.toNat + 1) f.srows.toNat

/-- The ME with the fill unit occupied, and with the rows in place where the fill runs. -/
def wfillMe (run : Bool) : Me :=
  let x := { (coreOf s i.core).me with
    fillIdle := max (coreOf s i.core).me.fillIdle (s.dp.cycle + (f.nrows1.toNat + 1 + f.srows.toNat + 6)) }
  if run then { x with wh := memWrite x.wh (65536 * f.wh.toNat + 512 * f.wrow.toNat) (wfillData s i f),
                       whScale := memWrite x.whScale (16384 * f.wh.toNat + 512 * f.swrow.toNat) (wfillScales s i f) } else x

variable {s i f}

theorem Doing.fillBusy (h : Doing s c q y l w) (o : Nat) :
    Doing s c q { y with me := { y.me with fillIdle := max y.me.fillIdle (s.dp.cycle + o) } } l (w.fillBusy o) := by
  have := h.modMe (fun c => { c with me := { c.me with fillIdle := max c.me.fillIdle (w.d.cycle + o) } })
  rw [h.cycle] at this
  unfold Work.fillBusy
  rw [h.cycle]
  exact this

theorem Doing.halfReady (h : Doing s c q y l w) (b n : Nat) :
    Doing s c q y (l ++ [(n + 6, .ready c (1#6 <<< (4 + b)) true)]) (w.halfReady b n) := by
  unfold Work.halfReady
  rw [show Landing.ready w.core (1#6 <<< (4 + b)) true = .ready c (1#6 <<< (4 + b)) true from congrArg (Landing.ready · _ _) h.core]
  exact h.landIn _ _

theorem effWfill_doing (hcl : runs s i = true → ∀ k < f.nrows1.toNat + 1 + f.srows.toNat, cleanRow s.dp i.core false (wfillRow s i f + k) k = true) :
    Doing s i.core .me { (coreOf s i.core).pop .me with me := wfillMe s i f (runs s i) }
      [(f.nrows1.toNat + 1 + f.srows.toNat + 6, .ready i.core (1#6 <<< (4 + f.wh.toNat)) true)] (effWfill i f (runs s i) (workOf s i.core .me false)) := by
  have h1 := (doing_start s i.core .me).fillBusy (f.nrows1.toNat + 1 + f.srows.toNat + 6)
  have hk : xkValue ((workOf s i.core .me false).fillBusy (f.nrows1.toNat + 1 + f.srows.toNat + 6)).me f.xk = xkValue (coreOf s i.core) f.xk := by
    rw [h1.me]
    rfl
  unfold effWfill
  dsimp only
  cases hr : runs s i with
  | false => exact h1.halfReady _ _
  | true =>
    rw [if_neg (by decide), hk]
    generalize (workOf s i.core .me false).fillBusy (f.nrows1.toNat + 1 + f.srows.toNat + 6) = w at *
    rw [show f.addr.toNat + xkValue (coreOf s i.core) f.xk = wfillRow s i f from rfl, h1.readRows rfl (f.nrows1.toNat + 1) (fun j hj => by
      have := hcl hr j (by omega)
      rwa [Nat.zero_add])]
    dsimp only
    rw [h1.readRows rfl f.srows.toNat (fun j hj => by
      have := hcl hr (f.nrows1.toNat + 1 + j) (by omega)
      rwa [← Nat.add_assoc] at this)]
    exact (h1.modMe (fun c => { c with me := { c.me with
      wh := memWrite c.me.wh (65536 * f.wh.toNat + 512 * f.wrow.toNat) (wfillData s i f),
      whScale := memWrite c.me.whScale (16384 * f.wh.toNat + 512 * f.swrow.toNat) (wfillScales s i f) } })).halfReady _ _

/-- A memory with rows written, byte by byte. -/
theorem memRead_memWrite_rowsAt (m : Mem) (b : Nat) (d : Dp) (c : BitVec 3) (orch : Bool) (o k n x : Nat) :
    memRead (memWrite m b (rowsAt d c orch o k n)) x = if b ≤ x ∧ x < b + 512 * n then
      byteAt (rowAt d c orch (o + (x - b) / 512) (k + (x - b) / 512)) ((x - b) % 512) else memRead m x := by
  rw [memRead_memWrite_byteAt, rowsAt_length]
  by_cases h : b ≤ x ∧ x < b + 512 * n
  · rw [if_pos h, if_pos h, byteAt_rowsAt _ _ _ _ _ (by omega)]
  · rw [if_neg h, if_neg h]

theorem wfillMe_reads (run : Bool) :
    { wfillMe s i f run with wh := (coreOf s i.core).me.wh, whScale := (coreOf s i.core).me.whScale } = { (coreOf s i.core).me with
      fillIdle := max (coreOf s i.core).me.fillIdle (s.dp.cycle + (f.nrows1.toNat + 1 + f.srows.toNat + 6)) } ∧
    (∀ k, memRead (wfillMe s i f run).wh k =
      if run = true ∧ 65536 * f.wh.toNat + 512 * f.wrow.toNat ≤ k ∧ k < 65536 * f.wh.toNat + 512 * f.wrow.toNat + 512 * (f.nrows1.toNat + 1) then
        byteAt (rowAt s.dp i.core false (wfillRow s i f + (k - (65536 * f.wh.toNat + 512 * f.wrow.toNat)) / 512)
          ((k - (65536 * f.wh.toNat + 512 * f.wrow.toNat)) / 512)) ((k - (65536 * f.wh.toNat + 512 * f.wrow.toNat)) % 512)
      else memRead (coreOf s i.core).me.wh k) ∧
    (∀ k, memRead (wfillMe s i f run).whScale k =
      if run = true ∧ 16384 * f.wh.toNat + 512 * f.swrow.toNat ≤ k ∧ k < 16384 * f.wh.toNat + 512 * f.swrow.toNat + 512 * f.srows.toNat then
        byteAt (rowAt s.dp i.core false (wfillRow s i f + (f.nrows1.toNat + 1) + (k - (16384 * f.wh.toNat + 512 * f.swrow.toNat)) / 512)
          (f.nrows1.toNat + 1 + (k - (16384 * f.wh.toNat + 512 * f.swrow.toNat)) / 512)) ((k - (16384 * f.wh.toNat + 512 * f.swrow.toNat)) % 512)
      else memRead (coreOf s i.core).me.whScale k) := by
  cases run with
  | false => exact ⟨rfl, fun k => (if_neg (fun h => absurd h.1 (by decide))).symm, fun k => (if_neg (fun h => absurd h.1 (by decide))).symm⟩
  | true =>
    refine ⟨rfl, fun k => ?_, fun k => ?_⟩
    · refine (memRead_memWrite_rowsAt _ _ _ _ _ _ _ _ k).trans ?_
      simp only [true_and, Nat.zero_add]
    · refine (memRead_memWrite_rowsAt _ _ _ _ _ _ _ _ k).trans ?_
      simp only [true_and]

end fill

/-! ### TLOAD -/

theorem effTload_doing {f : TloadF} (hcl : runs s i = true → cleanRow s.dp i.core false (f.addr.toNat + xkValue (coreOf s i.core) f.xk) 0 = true) :
    Doing s i.core .me { (coreOf s i.core).pop .me with me := { (coreOf s i.core).me with fillIdle := max (coreOf s i.core).me.fillIdle (s.dp.cycle + 8) } }
      (if runs s i then [(9, .tables i.core (rowAt s.dp i.core false (f.addr.toNat + xkValue (coreOf s i.core) f.xk) 0))] else [])
      (effTload i f (runs s i) (workOf s i.core .me false)) := by
  have h1 := (doing_start s i.core .me).fillBusy 8
  have hk : xkValue ((workOf s i.core .me false).fillBusy 8).me f.xk = xkValue (coreOf s i.core) f.xk := by
    rw [h1.me]
    rfl
  unfold effTload
  dsimp only
  cases hr : runs s i with
  | false => exact h1
  | true =>
    rw [if_pos rfl, if_neg (by decide), hk, h1.readRef rfl (hcl hr)]
    exact h1.landIn 9 (.tables i.core (rowAt s.dp i.core false (f.addr.toNat + xkValue (coreOf s i.core) f.xk) 0))

/-- Settles O28. -/
theorem fillsCopyRows : Obligations.FillsCopyRows := by
  unfold Obligations.FillsCopyRows
  refine ⟨?wfill, ?tload⟩
  case wfill =>
    intro s i f hdue hwf hswf x n m o hcl
    obtain ⟨t, p, hx, hside, honly, hcore⟩ := exec_doing (keep := fun y z => { keepEnds y z with me := y.me })
      (rfl : exec (.wfill i f) s = issueEngine (.wfill i f) i .me (effWfill i f) s) hdue (effWfill_doing hcl) rfl (fun p => rfl)
    obtain ⟨h1, h2, h3⟩ := wfillMe_reads (s := s) (i := i) (f := f) (runs s i)
    refine ⟨t, hx, hside, honly, ?_, ?_, ?_⟩
    · rw [hcore]
      exact h1
    · rw [hcore]
      exact h2
    · rw [hcore]
      exact h3
  case tload =>
    intro s i f hdue x o hcl
    obtain ⟨t, p, hx, hside, honly, -⟩ := exec_doing
      (keep := fun y z => { keepEnds y z with me := { z.me with fillIdle := max z.me.fillIdle (s.dp.cycle + 8) } })
      (rfl : exec (.tload i f) s = issueEngine (.tload i f) i .me (effTload i f) s) hdue (effTload_doing hcl) rfl (fun p => rfl)
    exact ⟨t, hx, hside, honly⟩

end Sys2Proof.Machine
end

section
/-!
DREMOTE and DCRET (R27, R200, R213, R214, R229): remote writes, their credits, and what a command that reports a fault leaves.
-/
namespace Sys2Proof.Machine
-- one proof after the other: the check compiles one text, and its memory holds few threads
set_option Elab.async false
open Sys2Proof.Safety

variable {s t : State} {c : BitVec 3} {q : Queue} {y : Core} {l : List (Nat × Landing)} {w : Work} {i : Iss}

/-! ### A row on its way to another core -/

theorem arriveAt_free {d : Dp} {k : BitVec 3} {n : Nat} (h : ∀ x ∈ d.landings, ∀ r, x.2 = .inRow k r → x.1 ≠ n) : d.arriveAt k n = n := by
  unfold Dp.arriveAt
  dsimp only
  rw [List.range_succ_eq_map, List.find?_cons_of_pos]
  · rfl
  · rw [Bool.not_eq_true', ← Bool.not_eq_true, List.contains_iff_mem, List.mem_filterMap]
    rintro ⟨x, hx, he⟩
    split at he
    · next k' r hl =>
      split_ifs at he with hk
      subst hk
      exact h x hx r hl (Option.some.inj he)
    · exact absurd he (by simp)

/-- Row k as the target's inbound buffer takes it, the last of the rows ks with the flag. -/
def sentRow (c : BitVec 3) (rflg : BitVec 6) (ks : List Nat) (g : Nat → Nat) (data : Nat → List Byte) (k : Nat) : InRow :=
  { src := .core c, row := some (g k), data := data k, flag := if ks.getLast? = some k then some rflg else none }

/-- Rows of different numbers each arrive in their cycle where no other row does. -/
theorem Doing.sendRows {tgt : BitVec 3} {rflg : BitVec 6} {g : Nat → Nat} {data : Nat → List Byte} (ks : List Nat) (hn : ks.Nodup) (h : Doing s c q y l w)
    (hfree : ∀ k ∈ ks, ∀ x ∈ w.d.landings, ∀ r, x.2 = .inRow tgt r → x.1 ≠ k + 3) {m : Nat} (hm : ∀ k ∈ ks, k + 3 ≤ m) :
    Doing s c q y (l ++ ks.map (fun k => (k + 3, .inRow tgt (sentRow c rflg ks g data k)))) (w.sendRows tgt rflg (ks.map (fun k => (k, g k, data k)))).2 ∧
      (w.sendRows tgt rflg (ks.map (fun k => (k, g k, data k)))).1 ≤ m := by
  induction ks generalizing l w with
  | nil =>
    rw [List.map_nil, List.map_nil, List.append_nil]
    exact ⟨h, Nat.zero_le m⟩
  | cons k ks ih =>
    obtain ⟨hk, hn⟩ := List.nodup_cons.1 hn
    have hat : w.d.arriveAt tgt (k + 3) = k + 3 := arriveAt_free (hfree k List.mem_cons_self)
    have hrow : InRow.mk (.core w.core) (some (g k)) (data k) (if (ks.map (fun k => (k, g k, data k))).isEmpty then some rflg else none) = sentRow c rflg (k :: ks) g data k := by
      unfold sentRow
      rw [h.core]
      cases ks with
      | nil => simp
      | cons j ks =>
        have hne : (k :: j :: ks).getLast? ≠ some k := fun he => hk (by
          rw [List.getLast?_cons_cons] at he
          exact List.mem_of_getLast? he)
        rw [if_neg hne]
        rfl
    have hrest : ∀ j ∈ ks, sentRow c rflg ks g data j = sentRow c rflg (k :: ks) g data j := by
      intro j hj
      unfold sentRow
      cases ks with
      | nil => exact absurd hj List.not_mem_nil
      | cons a ks => rw [List.getLast?_cons_cons]
    rw [List.map_cons, List.map_cons]
    unfold Work.sendRows
    dsimp only
    rw [hat, hrow]
    have h' := h.landIn (k + 3) (.inRow tgt (sentRow c rflg (k :: ks) g data k))
    obtain ⟨h1, h2⟩ := ih hn h' (by
      intro j hj x hx r hr
      rcases List.mem_append.1 (show x ∈ w.d.landings ++ [(k + 3, Landing.inRow tgt (sentRow c rflg (k :: ks) g data k))] from hx) with hx | hx
      · exact hfree j (List.mem_cons_of_mem _ hj) x hx r hr
      · rw [List.mem_singleton.1 hx]
        intro he
        have : k = j := by omega
        exact hk (this ▸ hj)) (fun j hj => hm j (List.mem_cons_of_mem _ hj))
    refine ⟨?_, Nat.max_le.2 ⟨hm k List.mem_cons_self, h2⟩⟩
    rw [List.append_assoc, List.map_congr_left (fun j hj => by rw [hrest j hj])] at h1
    exact h1

/-! ### DREMOTE -/

section remote
variable (s i) (f : DremoteF)

/-- The channel DREMOTE writes to. -/
def remoteChan : Chan := vget (coreOf s i.core).cm.chans f.cch

/-- The rows it sends. -/
def remoteOn : List Nat :=
  if runs s i then (List.range (f.nrows1.toNat + 1)).filter (fun k => rowOn (coreOf s i.core) i.hdr.mask i.pkt (k % 64)) else []

/-- Where row k goes, and its bytes. -/
def remoteAt (k : Nat) : Option Nat := cmRow s.dp (remoteChan s i f).tgt ((remoteChan s i f).rbase.toNat + f.rofs.toNat + k)
def remoteData (k : Nat) : List Byte := rowAt s.dp i.core (adrOrch f.sadr) (adrOff f.sadr + k) k

/-- The core with the credits of its rows taken. -/
def remoteCore : Core :=
  { (coreOf s i.core).pop .de with cm := { (coreOf s i.core).cm with
    chans := vset (coreOf s i.core).cm.chans f.cch { remoteChan s i f with credit := (remoteChan s i f).credit - (f.nrows1.toNat + 1) } } }

variable {s i f}

theorem Doing.deEnds (h : Doing s c q y l w) (n : Nat) (b : BitVec 7) : Doing s c q y (l ++ [(n, .deDone c b)]) (w.deEnds n b) := by
  unfold Work.deEnds
  rw [show Landing.deDone w.core b = .deDone c b from congrArg (Landing.deDone · b) h.core]
  exact h.landIn n _

theorem Doing.takeCredit : Doing s i.core .de (remoteCore s i f) [] ((workOf s i.core .de false).takeCredit f.cch (f.nrows1.toNat + 1)) :=
  (doing_start s i.core .de).modMe (fun c => { c with cm := { c.cm with
    chans := vset c.cm.chans f.cch { vget c.cm.chans f.cch with credit := (vget c.cm.chans f.cch).credit - (f.nrows1.toNat + 1) } } })

/-- A row of a level at an offset that is no less than 0. -/
theorem Doing.readLoc (h : Doing s c q y [] w) (hb : SameBounds y (coreOf s c)) {adr : BitVec 18} {k n : Nat}
    (hcl : Safety.cleanRow s.dp c (adrOrch adr) (adrOff adr + k) n = true) :
    w.readLoc 0 adr (k : Int) n = (some (Safety.rowAt s.dp c (adrOrch adr) (adrOff adr + k) n), w) := by
  unfold Work.readLoc moveOff
  rw [if_neg (by decide), if_pos (by omega)]
  dsimp only
  rw [show ((adrOff adr : Int) + (k : Int)).toNat = adrOff adr + k by omega, h.readRef hb hcl]

theorem remoteRows_eq (h : Doing s i.core .de (remoteCore s i f) [] w) (hr : runs s i = true) (x : Chan) (m : Nat) (hm : m ≤ f.nrows1.toNat + 1)
    (hcl : ∀ k ∈ remoteOn s i f, cleanRow s.dp i.core (adrOrch f.sadr) (adrOff f.sadr + k) k = true) :
    w.remoteRows i f x m = (((List.range m).filter (fun k => rowOn (coreOf s i.core) i.hdr.mask i.pkt (k % 64))).map
      (fun k => (k, x.rbase.toNat + f.rofs.toNat + k, remoteData s i f k)), w) := by
  induction m with
  | zero => rfl
  | succ m ih =>
    unfold Work.remoteRows
    rw [ih (by omega)]
    dsimp only
    have hon : deRowOn w.me i m = rowOn (coreOf s i.core) i.hdr.mask i.pkt (m % 64) := by
      rw [h.me]
      rfl
    rw [hon, List.range_succ, List.filter_append, List.map_append]
    by_cases hrow : rowOn (coreOf s i.core) i.hdr.mask i.pkt (m % 64) = true
    · have hfil : [m].filter (fun k => rowOn (coreOf s i.core) i.hdr.mask i.pkt (k % 64)) = [m] := List.filter_cons_of_pos (l := []) hrow
      have hmem : m ∈ remoteOn s i f := by
        unfold remoteOn
        rw [if_pos hr]
        exact List.mem_filter.2 ⟨List.mem_range.2 (by omega), hrow⟩
      rw [if_pos hrow, hfil, h.readLoc rfl (hcl m hmem)]
      rfl
    · have hfil : [m].filter (fun k => rowOn (coreOf s i.core) i.hdr.mask i.pkt (k % 64)) = [] := List.filter_cons_of_neg (l := []) hrow
      rw [if_neg hrow, hfil, List.map_nil, List.append_nil]

theorem remoteOn_le {k : Nat} (h : k ∈ remoteOn s i f) : k < f.nrows1.toNat + 1 := by
  unfold remoteOn at h
  split at h
  · exact List.mem_range.1 (List.mem_filter.1 h).1
  · exact absurd h List.not_mem_nil

theorem remoteOn_nodup : (remoteOn s i f).Nodup := by
  unfold remoteOn
  split
  · exact List.nodup_range.filter _
  · exact List.nodup_nil

/-- Rows of a remote write that its target takes all go out. -/
theorem sendAll_doing (h : Doing s i.core .de (remoteCore s i f) [] w)
    (hflags : Doing s i.core .de (remoteCore s i f) [(f.nrows1.toNat + 1 + 2, .deDone i.core f.cflg),
      (f.nrows1.toNat + 1 + 3, .flag (remoteChan s i f).tgt f.rflg true)] (w.remoteFlags (remoteChan s i f).tgt f))
    (hfree : ∀ x ∈ s.dp.landings, ∀ r, x.2 ≠ .inRow (remoteChan s i f).tgt r) (hat : ∀ k ∈ remoteOn s i f, (remoteAt s i f k).isSome = true) :
    Doing s i.core .de (remoteCore s i f)
      ((remoteOn s i f).map (fun k => (k + 3, .inRow (remoteChan s i f).tgt (sentRow i.core f.rflg (remoteOn s i f)
          (fun k => ((remoteAt s i f k).getD 0) % 0x4000) (remoteData s i f) k))) ++
        [(f.nrows1.toNat + 1 + 2, .deDone i.core f.cflg)] ++
        (if remoteOn s i f = [] then [(f.nrows1.toNat + 1 + 3, .flag (remoteChan s i f).tgt f.rflg true)] else []))
      (w.sendAll f (remoteChan s i f).tgt ((remoteOn s i f).map (fun k => (k, (remoteChan s i f).rbase.toNat + f.rofs.toNat + k, remoteData s i f k)))) := by
  have hrow : ∀ k, cmRow w.d (remoteChan s i f).tgt ((remoteChan s i f).rbase.toNat + f.rofs.toNat + k) = remoteAt s i f k := fun k =>
    h.refRow rfl (remoteChan s i f).tgt false _
  have hnone : ((remoteOn s i f).map (fun k => (k, (remoteChan s i f).rbase.toNat + f.rofs.toNat + k, remoteData s i f k))).filter
      (fun x => (cmRow w.d (remoteChan s i f).tgt x.2.1).isNone) = [] := by
    rw [List.filter_eq_nil_iff]
    intro x hx
    obtain ⟨k, hk, rfl⟩ := List.mem_map.1 hx
    dsimp only
    rw [hrow, ← Option.not_isSome, hat k hk]
    decide
  have hsome : ((remoteOn s i f).map (fun k => (k, (remoteChan s i f).rbase.toNat + f.rofs.toNat + k, remoteData s i f k))).filterMap
      (fun x => (cmRow w.d (remoteChan s i f).tgt x.2.1).map (fun r => (x.1, r % 0x4000, x.2.2))) =
      (remoteOn s i f).map (fun k => (k, ((remoteAt s i f k).getD 0) % 0x4000, remoteData s i f k)) := by
    rw [List.filterMap_map, ← List.filterMap_eq_map]
    refine List.filterMap_congr (fun k hk => ?_)
    obtain ⟨r, hr⟩ := Option.isSome_iff_exists.1 (hat k hk)
    dsimp only [Function.comp]
    rw [hrow, hr]
    rfl
  unfold Work.sendAll
  rw [hnone, List.foldl_nil]
  dsimp only
  rw [hsome]
  by_cases hon : remoteOn s i f = []
  · rw [hon, if_pos rfl]
    exact hflags
  · obtain ⟨h2, hmax⟩ := h.sendRows (tgt := (remoteChan s i f).tgt) (rflg := f.rflg) (g := fun k => ((remoteAt s i f k).getD 0) % 0x4000)
      (data := remoteData s i f) (remoteOn s i f) remoteOn_nodup (m := f.nrows1.toNat + 1 + 2) (by
        intro k _ x hx r hr
        rw [h.d, List.append_nil] at hx
        exact absurd hr (hfree x hx r)) (fun k hk => by have := remoteOn_le hk; omega)
    rw [if_neg hon, List.append_nil]
    have h3 := h2.deEnds (max (w.sendRows (remoteChan s i f).tgt f.rflg ((remoteOn s i f).map
      (fun k => (k, ((remoteAt s i f k).getD 0) % 0x4000, remoteData s i f k)))).1 (f.nrows1.toNat + 3)) f.cflg
    rw [Nat.max_eq_right (by omega)] at h3
    split
    · next he => exact absurd (List.map_eq_nil_iff.1 he) hon
    · rw [Nat.max_eq_right (by omega)]
      exact h3

/-- What a remote write with its credits does. -/
theorem effDremote_doing (hcr : f.nrows1.toNat + 1 ≤ (remoteChan s i f).credit) (hrows : f.rofs.toNat + (f.nrows1.toNat + 1) ≤ (remoteChan s i f).rrows.toNat)
    (hfree : ∀ x ∈ s.dp.landings, ∀ r, x.2 ≠ .inRow (remoteChan s i f).tgt r)
    (hcl : ∀ k ∈ remoteOn s i f, cleanRow s.dp i.core (adrOrch f.sadr) (adrOff f.sadr + k) k = true ∧ (remoteAt s i f k).isSome = true) :
    Doing s i.core .de (remoteCore s i f)
      ((remoteOn s i f).map (fun k => (k + 3, .inRow (remoteChan s i f).tgt (sentRow i.core f.rflg (remoteOn s i f)
          (fun k => ((remoteAt s i f k).getD 0) % 0x4000) (remoteData s i f) k))) ++
        [(f.nrows1.toNat + 1 + 2, .deDone i.core f.cflg)] ++
        (if remoteOn s i f = [] then [(f.nrows1.toNat + 1 + 3, .flag (remoteChan s i f).tgt f.rflg true)] else []))
      (effDremote i f (runs s i) (workOf s i.core .de false)) := by
  have h1 : Doing s i.core .de (remoteCore s i f) [] _ := Doing.takeCredit
  have hflags : Doing s i.core .de (remoteCore s i f) [(f.nrows1.toNat + 1 + 2, .deDone i.core f.cflg),
      (f.nrows1.toNat + 1 + 3, .flag (remoteChan s i f).tgt f.rflg true)]
      (((workOf s i.core .de false).takeCredit f.cch (f.nrows1.toNat + 1)).remoteFlags (remoteChan s i f).tgt f) :=
    (h1.deEnds (f.nrows1.toNat + 3) f.cflg).landIn (f.nrows1.toNat + 1 + 3) (.flag (remoteChan s i f).tgt f.rflg true)
  have hchan : vget (workOf s i.core .de false).me.cm.chans f.cch = remoteChan s i f := by
    rw [(doing_start s i.core .de).me]
    rfl
  unfold effDremote
  dsimp only
  rw [hchan, if_neg (show ¬(remoteChan s i f).credit < f.nrows1.toNat + 1 by omega),
    if_neg (show ¬(remoteChan s i f).rrows.toNat < f.rofs.toNat + (f.nrows1.toNat + 1) by omega)]
  generalize (workOf s i.core .de false).takeCredit f.cch (f.nrows1.toNat + 1) = w at *
  cases hr : runs s i with
  | false =>
    have hoff : remoteOn s i f = [] := by
      unfold remoteOn
      rw [hr]
      rfl
    rw [hoff]
    exact hflags
  | true =>
    rw [if_neg (show ¬(!true) = true by decide), remoteRows_eq h1 hr (remoteChan s i f) (f.nrows1.toNat + 1) (le_refl _) (fun k hk => (hcl k hk).1),
      show (List.range (f.nrows1.toNat + 1)).filter (fun k => rowOn (coreOf s i.core) i.hdr.mask i.pkt (k % 64)) = remoteOn s i f by
        unfold remoteOn
        rw [if_pos hr]]
    dsimp only
    exact sendAll_doing h1 hflags hfree (fun k hk => (hcl k hk).2)

end remote

/-! ### A command that reports a fault -/

/-- A report leaves a core as it is, or halts it for its chain's restart. -/
theorem takeReport_core (s : State) (r : Report) (k : BitVec 3) :
    coreOf (takeReport s r) k = coreOf s k ∨ ∃ n, coreOf (takeReport s r) k = (coreOf s k).halted n := by
  have hlose : ∀ (n : W64) (l : List W16) (u : State), (l.foldl (loseStream n) u).dp = u.dp := fun n l u =>
    List.foldlRecOn (motive := fun v : State => v.dp = u.dp) _ _ rfl fun v hv x _ => (loseStream_dp v n x).trans hv
  rcases takeReport_cases s r with ⟨n, l, h⟩ | ⟨n, h⟩ | h | ⟨c, h⟩ | ⟨v, c, n, b, hv, h⟩
  · left
    rw [h, coreOf, hlose, recordReport_dp]
  · left
    rw [h, coreOf, loseJournal_dp, recordReport_dp]
  · left
    rw [h, coreOf, recordReport_dp]
  · left
    rw [h, coreOf, rollChain_dp, recordReport_dp]
  · have hd : coreOf v k = coreOf s k := by rcases hv with rfl | rfl <;> simp [coreOf]
    rw [h, callRestart_core, hd]
    split
    · exact Or.inr ⟨n, rfl⟩
    · exact Or.inl rfl

/-- The issue of a command whose work ends with one report. -/
theorem issueNow_reported {eff : Bool → Work → Work} {r : Report} (hearly : noEarlyWork s = true) (hcp : (coreOf s i.core).cpWait = [])
    (hd : (eff (runs s i) (workOf s i.core q false)).d = { s.dp.setCore i.core y with landings := s.dp.landings ++ l })
    (hl : (eff (runs s i) (workOf s i.core q false)).lateRows = []) (hr : (eff (runs s i) (workOf s i.core q false)).reps = [r])
    (hy : y.cpWait = (coreOf s i.core).cpWait) (h0 : r.cls ≠ 0) (h1 : r.cls ≠ 1) :
    (∃ p, coreOf (issueNow s i q false eff) i.core = { y with pktEnds := p } ∨
        ∃ n, coreOf (issueNow s i q false eff) i.core = Core.halted n { y with pktEnds := p }) ∧
      (issueNow s i q false eff).dp.dev = s.dp.dev ∧ (issueNow s i q false eff).dp.landings = s.dp.landings ++ l ∧
      (vget (issueNow s i q false eff).err.cls r.cls).cnt = satInc (vget s.err.cls r.cls).cnt := by
  unfold issueNow
  dsimp only
  rw [show predOn (vget s.dp.cores i.core) i.hdr = runs s i from rfl, dropLate_nil _ _ hl, hl, hr, lateWrites_nil]
  obtain ⟨p, hp⟩ := exists_pktEnds (eff (runs s i) (workOf s i.core q false)).d i.core ((eff (runs s i) (workOf s i.core q false)).endsIn s.dp.landings.length)
    (eff (runs s i) (workOf s i.core q false)).tick i.pkt
    (s.dp.cycle + (eff (runs s i) (workOf s i.core q false)).endsIn s.dp.landings.length)
  rw [hp, hd]
  obtain ⟨d, hdd⟩ : ∃ d, d = Dp.modCore { s.dp.setCore i.core y with landings := s.dp.landings ++ l } i.core (fun x => { x with pktEnds := p }) := ⟨_, rfl⟩
  have hcore : coreOf { s with dp := d } i.core = { y with pktEnds := p } := by
    rw [hdd]
    simp [coreOf, Dp.modCore, Dp.setCore]
  rw [← hdd, show takeReports { s with dp := d } [r] = takeReport { s with dp := d } r from rfl]
  have hc := takeReport_core { s with dp := d } r i.core
  have hf := takeReport_dp { s with dp := d } r
  have hcnt := takeReport_cnt { s with dp := d } r h0 h1
  have hearly' : noEarlyWork (takeReport { s with dp := d } r) = true :=
    (queuesKept_takeReports { s with dp := d } [r]).early hearly
  generalize takeReport { s with dp := d } r = u at *
  obtain ⟨g, n, hb⟩ := bpMatch_eq u (bpsWhere u (bpIssue u i.core q (eff (runs s i) (workOf s i.core q false)).idx)) (isSpec s i.core)
  have hwait : (coreOf u i.core).cpWait = [] := by
    rcases hc with hc | ⟨n, hc⟩ <;> rw [hc, hcore] <;> exact hy.trans hcp
  rw [hb, drainCp_nil _ _ (by exact hwait), startEarly_of_noEarlyWork _ _ (by exact hearly')]
  refine ⟨⟨p, ?_⟩, (congrArg Dp.dev hf :).trans (by rw [hdd]; rfl), (congrArg Dp.landings hf :).trans (by rw [hdd]; rfl), hcnt⟩
  rw [← hcore]
  exact hc

/-! ### Remote writes without credits, and credits returned -/

/-- R213: without its credits a remote write sends nothing, sets its flags and is reported. -/
theorem exec_dremote_violation {f : DremoteF} (hdue : dueNow s (.dremote i f) i .de = true) (hcr : (remoteChan s i f).credit < f.nrows1.toNat + 1) :
    ∃ t, exec (.dremote i f) s = .next t ∧ vget (coreOf t i.core).cm.chans f.cch = remoteChan s i f ∧ t.dp.dev = s.dp.dev ∧
      t.dp.landings = s.dp.landings ++ [(f.nrows1.toNat + 1 + 2, .deDone i.core f.cflg), (f.nrows1.toNat + 1 + 3, .flag (remoteChan s i f).tgt f.rflg true)] ∧
      (vget t.err.cls 4).cnt = satInc (vget s.err.cls 4).cnt := by
  obtain ⟨hissue, hearly, hcp⟩ := issueEngine_of_dueNow hdue (effDremote i f)
  have hchan : vget (workOf s i.core .de false).me.cm.chans f.cch = remoteChan s i f := by
    rw [(doing_start s i.core .de).me]
    rfl
  obtain ⟨r, hrep⟩ : ∃ r, r = (workOf s i.core .de false).mkReport 4 0xA f.cch.toNat
    ((remoteChan s i f).credit % 65536 + 65536 * (f.nrows1.toNat + 1)) true true false := ⟨_, rfl⟩
  have heff : effDremote i f (runs s i) (workOf s i.core .de false) = ((workOf s i.core .de false).report r).remoteFlags (remoteChan s i f).tgt f := by
    unfold effDremote
    dsimp only
    rw [hchan, if_pos hcr, hrep]
  have hflags := ((doing_start s i.core .de).deEnds (f.nrows1.toNat + 3) f.cflg).landIn (f.nrows1.toNat + 1 + 3) (.flag (remoteChan s i f).tgt f.rflg true)
  obtain ⟨⟨p, hcore⟩, hdev, hland, hcnt⟩ := issueNow_reported (eff := effDremote i f) (r := r) hearly hcp
    ((congrArg Work.d heff :).trans hflags.d) (congrArg Work.lateRows heff :) (congrArg Work.reps heff :) rfl
    (by rw [hrep]; exact (show (4 : BitVec 4) ≠ 0 by decide)) (by rw [hrep]; exact (show (4 : BitVec 4) ≠ 1 by decide))
  refine ⟨_, hissue, ?_, hdev, hland, by rw [hrep] at hcnt; exact hcnt⟩
  rcases hcore with hcore | ⟨n, hcore⟩ <;> rw [hcore] <;> rfl

/-- R214: credits that come back. -/
theorem land_creditReturn (d : Dp) (p ch : BitVec 3) (n : Nat) (k : BitVec 3) :
    ((vget (vget d.cores p).cm.chans ch).credit + n ≤ (vget (vget d.cores p).cm.chans ch).init → (land d (.creditReturn p ch n k)).2 = []) ∧
      ((vget (vget d.cores p).cm.chans ch).init < (vget (vget d.cores p).cm.chans ch).credit + n →
        (land d (.creditReturn p ch n k)).2.map (fun e => (e.cls, e.status, e.core, e.info0)) = [(4, 0xA, some k, ch.zeroExtend 32)]) := by
  have hx : ∀ b, (land d (.creditReturn p ch n k)).2 = b ↔ (landCredit d p ch n k).2 = b := fun b => Iff.rfl
  refine ⟨fun h => ?_, fun h => ?_⟩
  · rw [hx]
    unfold landCredit
    dsimp only
    rw [if_neg (by simpa using h)]
  · rw [show land d (.creditReturn p ch n k) = landCredit d p ch n k from rfl]
    unfold landCredit
    dsimp only
    rw [if_pos (by simpa using h)]
    have hch : BitVec.ofNat 32 ch.toNat = ch.zeroExtend 32 := by
      refine BitVec.eq_of_toNat_eq ?_
      have := ch.isLt
      simp
    rw [List.map_cons, List.map_nil, hch]

/-- Settles O30. -/
theorem remoteWritesAndCredits : Obligations.RemoteWritesAndCredits := by
  unfold Obligations.RemoteWritesAndCredits
  refine ⟨?write, ?violation, ?back, ?credit⟩
  case write =>
    intro s i f hdue x n ch on at_ row hcr hrows hfree hcl
    obtain ⟨t, p, hx, hside, honly, -⟩ := exec_doing
      (keep := fun y z => { keepEnds y z with cm := { z.cm with chans := vset z.cm.chans f.cch { ch with credit := ch.credit - n } } })
      (rfl : exec (.dremote i f) s = issueEngine (.dremote i f) i .de (effDremote i f) s) hdue (effDremote_doing hcr hrows hfree hcl) rfl (fun p => rfl)
    refine ⟨t, hx, hside, ?_⟩
    have hland : (remoteOn s i f).map (fun k => (k + 3, Landing.inRow (remoteChan s i f).tgt (sentRow i.core f.rflg (remoteOn s i f)
        (fun k => ((remoteAt s i f k).getD 0) % 0x4000) (remoteData s i f) k))) = on.map (fun k => (k + 3, Landing.inRow ch.tgt (row k))) := by
      refine List.map_congr_left (fun k hk => ?_)
      obtain ⟨r, hr⟩ := Option.isSome_iff_exists.1 (hcl k hk).2
      have hat : remoteAt s i f k = some r := hr
      have hrow : row k = InRow.mk (.core i.core) ((remoteAt s i f k).map (fun r => r % 0x4000)) (remoteData s i f k)
        (if (remoteOn s i f).getLast? = some k then some f.rflg else none) := rfl
      rw [hrow, sentRow, hat]
      rfl
    rw [hland] at honly
    exact honly
  case violation =>
    intro s i f hdue n ch hcr
    exact exec_dremote_violation hdue hcr
  case back =>
    intro s i f hdue
    exact exec_landOpt (some (5, .creditReturn f.tcore f.cch (f.nrows1.toNat + 1) i.core))
      (rfl : exec (.dcret i f) s = issueEngine (.dcret i f) i .de (effDcret i f) s) hdue (fun x hx => by cases hx; rfl) rfl
  case credit =>
    intro d p ch n k x c r
    obtain ⟨h1, h2⟩ := land_creditReturn d p ch n k
    exact ⟨rfl, h1, h2⟩

end Sys2Proof.Machine
end

section
/-!
VIB, VFT and VCTL (R182, R183, R184, R190): staging of input slots, finished tiles and curve tables.
-/
namespace Sys2Proof.Machine
-- one proof after the other: the check compiles one text, and its memory holds few threads
set_option Elab.async false
open Sys2Proof.Safety

variable {s t : State} {c : BitVec 3} {q : Queue} {y : Core} {l : List (Nat × Landing)} {w : Work} {i : Iss}

/-! ### VIB -/

section vib
variable (s i) (f : VibF)

/-- The lanes VIB packs, and whether any is enabled; their bytes, scales and flags. -/
def vibLanes : List Dec × Bool := storeLanes (seenAt s i.core) i f.va.toNat (f.cnt1.toNat + 1) (f.sym == 1) f.qa.toInt
def vibStore : List Byte × List Byte × NFlags :=
  storeElems (fmtGet (coreOf s i.core) f.fmti).op (fmtGet (coreOf s i.core) f.fmti).fixs ((fmtGet (coreOf s i.core) f.fmti).fq + f.qd.toInt)
    (slotBlock (fmtGet (coreOf s i.core) f.fmti).op) (vibLanes s i f).1

/-- Where they begin in the slot and in its scale store. -/
def vibAt : Nat := 8192 * f.slot.toNat + 512 * f.srow.toNat
def vibScaleAt : Nat := 2048 * f.slot.toNat + f.srow.toNat * slotRowBlocks (fmtGet (coreOf s i.core) f.fmti).op

/-- The ME with the bytes in the slot. -/
def vibMe (b : Bool) : Me :=
  if b then { (coreOf s i.core).me with
    ib := memWrite (coreOf s i.core).me.ib (vibAt f) ((vibStore s i f).1.take (8192 - 512 * f.srow.toNat)),
    ibScale := memWrite (coreOf s i.core).me.ibScale (vibScaleAt s i f)
      ((vibStore s i f).2.1.take (2048 - f.srow.toNat * slotRowBlocks (fmtGet (coreOf s i.core) f.fmti).op)) }
  else (coreOf s i.core).me

/-- Whether VIB packs anything. -/
def vibLive : Bool := runs s i && (vibLanes s i f).2

/-- The slot's ready bit on its way where LAST is set. -/
def vibReady : List (Nat × Landing) := if f.last = 1 then [(f.cnt1.toNat + 3, .ready i.core (1#6 <<< f.slot.toNat) true)] else []

variable {s i f}

/-- LAST readies the slot. -/
theorem Doing.slotLast (h : Doing s i.core q y l w) :
    Doing s i.core q y (l ++ vibReady i f) (if f.last = 1 then w.slotReady f.slot.toNat (f.cnt1.toNat + 1 + 1) else w) := by
  unfold vibReady
  split
  · unfold Work.slotReady
    rw [show Landing.ready w.core (1#6 <<< f.slot.toNat) true = .ready i.core (1#6 <<< f.slot.toNat) true from congrArg (Landing.ready · _ _) h.core]
    exact h.landIn _ _
  · rw [List.append_nil]
    exact h

theorem effVib_doing : Doing s i.core .ve (flagged s i.core .ve (vibLive s i f) (vibStore s i f).2.2
      { (coreOf s i.core).pop .ve with ve := veBusyWith (coreOf s i.core).ve s.dp.cycle (f.cnt1.toNat + 1) 2, me := vibMe s i f (vibLive s i f) })
    (vibReady i f) (effVib i f (runs s i) (workOf s i.core .ve false)) := by
  have h0 := doing_start s i.core .ve
  have h1 := h0.veBusy (f.cnt1.toNat + 1) 2
  have hlanes := h1.storeLanes rfl rfl f.va.toNat (f.cnt1.toNat + 1) (f.sym == 1) f.qa.toInt
  have hfmt : fmtGet ((coreOf s i.core).pop .ve) f.fmti = fmtGet (coreOf s i.core) f.fmti := rfl
  unfold effVib
  dsimp only
  rw [h0.me, hfmt]
  generalize (workOf s i.core .ve false).veBusy (f.cnt1.toNat + 1) 2 = w at *
  rw [hlanes, show storeLanes (seenAt s i.core) i f.va.toNat (f.cnt1.toNat + 1) (f.sym == 1) f.qa.toInt = vibLanes s i f from rfl]
  cases hst : vibLive s i f with
  | false =>
    rw [if_pos (show (!runs s i || !(vibLanes s i f).2) = true by rw [← Bool.not_and, ← vibLive, hst]; rfl)]
    exact h1.slotLast
  | true =>
    rw [if_neg (show ¬(!runs s i || !(vibLanes s i f).2) = true by rw [← Bool.not_and, ← vibLive, hst]; decide)]
    exact ((h1.modMe (fun c => { c with me := { c.me with
      ib := memWrite c.me.ib (vibAt f) ((vibStore s i f).1.take (8192 - 512 * f.srow.toNat)),
      ibScale := memWrite c.me.ibScale (vibScaleAt s i f)
        ((vibStore s i f).2.1.take (2048 - f.srow.toNat * slotRowBlocks (fmtGet (coreOf s i.core) f.fmti).op)) } })).raise (vibStore s i f).2.2).slotLast

/-- A string cut off at a bound, written into a memory, byte by byte. -/
theorem memRead_memWrite_take (m : Mem) (a n k : Nat) (b : List Byte) :
    memRead (memWrite m a (b.take n)) k = if a ≤ k ∧ k < a + b.length ∧ k < a + n then byteAt b (k - a) else memRead m k := by
  rw [memRead_memWrite_byteAt, List.length_take]
  by_cases h : a ≤ k ∧ k < a + b.length ∧ k < a + n
  · rw [if_pos (by omega), if_pos h]
    unfold byteAt
    rw [List.getD_eq_getElem?_getD, List.getD_eq_getElem?_getD, List.getElem?_take_of_lt (by omega)]
  · rw [if_neg (by omega), if_neg h]

theorem vibMe_reads (b : Bool) :
    { vibMe s i f b with ib := (coreOf s i.core).me.ib, ibScale := (coreOf s i.core).me.ibScale } = (coreOf s i.core).me ∧
    (∀ k, memRead (vibMe s i f b).ib k =
      if b = true ∧ vibAt f ≤ k ∧ k < vibAt f + (vibStore s i f).1.length ∧ k < 8192 * (f.slot.toNat + 1) then byteAt (vibStore s i f).1 (k - vibAt f)
      else memRead (coreOf s i.core).me.ib k) ∧
    (∀ k, memRead (vibMe s i f b).ibScale k =
      if b = true ∧ vibScaleAt s i f ≤ k ∧ k < vibScaleAt s i f + (vibStore s i f).2.1.length ∧ k < 2048 * (f.slot.toNat + 1) then
        byteAt (vibStore s i f).2.1 (k - vibScaleAt s i f) else memRead (coreOf s i.core).me.ibScale k) := by
  cases b with
  | false => exact ⟨rfl, fun k => (if_neg (fun h => absurd h.1 (by decide))).symm, fun k => (if_neg (fun h => absurd h.1 (by decide))).symm⟩
  | true =>
    refine ⟨rfl, fun k => ?_, fun k => ?_⟩
    · have hrow : f.srow.toNat < 16 := f.srow.isLt
      refine (memRead_memWrite_take _ _ _ k _).trans (if_congr ?_ rfl rfl)
      simp only [true_and, vibAt]
      omega
    · refine (memRead_memWrite_take _ _ _ k _).trans (if_congr ?_ rfl rfl)
      simp only [true_and, vibScaleAt]
      omega

end vib

/-! ### VFT -/

section vft
variable (s i) (f : VftF)

/-- The enabled lanes of the sixteen registers. -/
def vftOn : List (Nat × Nat) :=
  (List.range 16).flatMap (fun r => ((List.range 64).filter (fun j => laneOn (coreOf s i.core) i.hdr.mask i.pkt r j)).map (fun j => (r, j)))

/-- Whether VFT moves anything. -/
def vftMoves : Bool := runs s i && !(vftOn s i).isEmpty

/-- What a lane stores of the tile. -/
def vftStore (u : Tile) (y : Nat × Nat) : Nat × NFlags := storeElem .i32 false (tileElem (coreOf s i.core) u (64 * y.1 + y.2)).2.1 f.qd.toInt

/-- The lanes that take a tile's elements. -/
def vftTaken (u : Tile) : List (Nat × Nat × Nat) := (vftOn s i).map (fun y =>
  (f.vd.toNat + y.1, y.2, if f.raw = 1 then (tileElem (coreOf s i.core) u (64 * y.1 + y.2)).1 else (vftStore s i f u y).1))

/-- Their flags: a raw move has none. -/
def vftFlags (u : Tile) : NFlags :=
  if f.raw = 0 then flagsAll ((vftOn s i).map (fun y => { (vftStore s i f u y).2 with
    inv := (vftStore s i f u y).2.inv || (tileElem (coreOf s i.core) u (64 * y.1 + y.2)).2.2 })) else .none

variable {s i f}

theorem any_isEmpty_flatMap {α β : Type} (l : List α) (p : α → List β) : l.any (fun x => !(p x).isEmpty) = !(l.flatMap p).isEmpty := by
  induction l with
  | nil => rfl
  | cons x l ih =>
    rw [List.any_cons, ih, List.flatMap_cons]
    cases hp : p x <;> simp

theorem any_eq_filter {α : Type} (l : List α) (p : α → Bool) : l.any p = !(l.filter p).isEmpty := by
  induction l with
  | nil => rfl
  | cons x l ih =>
    rw [List.any_cons, ih]
    cases hp : p x
    · rw [List.filter_cons_of_neg (by simp [hp])]
      rfl
    · rw [List.filter_cons_of_pos hp]
      rfl

theorem vftLive_eq {z : Core} (hz : laneOn z = laneOn (coreOf s i.core)) : vftLive z i = !(vftOn s i).isEmpty := by
  unfold vftLive vftOn
  rw [hz, ← any_isEmpty_flatMap]
  refine congrArg (List.any _) (funext fun r => ?_)
  rw [any_eq_filter]
  simp

theorem flagsAll_none {α : Type} (l : List α) : flagsAll (l.map (fun _ => NFlags.none)) = .none := by
  induction l with
  | nil => rfl
  | cons x l ih => rw [List.map_cons, flagsAll_cons, ih, NFlags.or_none]

/-- The lanes of the sixteen registers, one after the other. -/
theorem flatMap_vftOn {α : Type} (g : Nat × Nat → α) : (List.range 16).flatMap (fun r =>
    ((List.range 64).filter (fun j => laneOn (coreOf s i.core) i.hdr.mask i.pkt r j)).map (fun j => g (r, j))) = (vftOn s i).map g := by
  unfold vftOn
  rw [List.map_flatMap]
  exact List.flatMap_congr (fun r _ => List.map_map.symm)

/-- What a lane takes of a tile, with its flags. -/
def vftCell (s : State) (i : Iss) (f : VftF) (u : Tile) (y : Nat × Nat) : (Nat × Nat × Nat) × NFlags :=
  if f.raw = 1 then ((f.vd.toNat + y.1, y.2, (tileElem (coreOf s i.core) u (64 * y.1 + y.2)).1), .none)
  else ((f.vd.toNat + y.1, y.2, (vftStore s i f u y).1),
    { (vftStore s i f u y).2 with inv := (vftStore s i f u y).2.inv || (tileElem (coreOf s i.core) u (64 * y.1 + y.2)).2.2 })

theorem vftLanes_some {z : Core} (hz : laneOn z = laneOn (coreOf s i.core)) (he : tileElem z = tileElem (coreOf s i.core)) (u : Tile) :
    vftLanes z i f (some u) = (vftTaken s i f u, vftFlags s i f u) := by
  have hcells : vftLanes z i f (some u) = (((vftOn s i).map (vftCell s i f u)).map (fun x => x.1), flagsAll (((vftOn s i).map (vftCell s i f u)).map (fun x => x.2))) := by
    rw [← flatMap_vftOn]
    unfold vftLanes
    dsimp only
    rw [hz, he]
    rfl
  rw [hcells, List.map_map, List.map_map]
  by_cases hraw : f.raw = 1
  · have hc : vftCell s i f u = fun y => ((f.vd.toNat + y.1, y.2, (tileElem (coreOf s i.core) u (64 * y.1 + y.2)).1), .none) :=
      funext fun y => if_pos hraw
    unfold vftTaken vftFlags
    rw [hc, if_neg (by rw [hraw]; decide)]
    simp only [if_pos hraw]
    exact congrArg₂ Prod.mk rfl (flagsAll_none _)
  · have hc : vftCell s i f u = fun y => ((f.vd.toNat + y.1, y.2, (vftStore s i f u y).1),
        { (vftStore s i f u y).2 with inv := (vftStore s i f u y).2.inv || (tileElem (coreOf s i.core) u (64 * y.1 + y.2)).2.2 }) :=
      funext fun y => if_neg hraw
    unfold vftTaken vftFlags
    rw [hc, if_pos (by bv_omega)]
    simp only [if_neg hraw]
    rfl

theorem vftLanes_none {z : Core} (hz : laneOn z = laneOn (coreOf s i.core)) :
    (vftLanes z i f none).1 = (vftOn s i).map (fun y => (f.vd.toNat + y.1, y.2, 0)) := by
  have hcells : (vftLanes z i f none).1 = ((vftOn s i).map (fun y => ((f.vd.toNat + y.1, y.2, 0), NFlags.none))).map (fun x => x.1) := by
    rw [← flatMap_vftOn (s := s) (i := i)]
    unfold vftLanes
    dsimp only
    rw [hz]
  rw [hcells, List.map_map]
  rfl

/-- The core once VFT has taken the head tile. -/
def vftCore (s : State) (i : Iss) (us : List Tile) : Core :=
  { (coreOf s i.core).pop .ve with
    me := { (coreOf s i.core).me with ftq := us ++ (coreOf s i.core).me.outq.take 1, outq := (coreOf s i.core).me.outq.drop 1 },
    ve := { (coreOf s i.core).ve with ftPend := none } }

/-- Rows of the tile that VFT takes, and the effects on their way. -/
def vftTileRows (u : Tile) : Nat := rowsFor (tileRows u).length
def vftLands (s : State) (i : Iss) (f : VftF) (u : Tile) : List (Nat × Landing) :=
  if vftMoves s i = false then []
  else if f.dstw = 1 then rowsLanding s.dp i.core (adrOrch f.addr) (adrOff f.addr) (vftTileRows u) (tileRows u) (fun j => 6 + j)
  else [(19, .regs i.core (vftTaken s i f u))]

/-- R182: VFT takes the head tile. -/
theorem effVft_doing {u : Tile} {us : List Tile} (hq : (coreOf s i.core).me.ftq = u :: us)
    (hth : f.dstw = 1 → vftMoves s i = true → rowsThere s.dp i.core (adrOrch f.addr) (adrOff f.addr) (vftTileRows u) = true) :
    Doing s i.core .ve (flagged s i.core .ve (vftMoves s i && f.dstw == 0) (vftFlags s i f u) { vftCore s i us with
        ve := veBusyWith { (coreOf s i.core).ve with ftPend := none } s.dp.cycle (if f.dstw = 1 then vftTileRows u else 16) (if f.dstw = 1 then 6 else 3) })
      (vftLands s i f u) (effVft i f (runs s i) (workOf s i.core .ve false)) := by
  have h0 := doing_start s i.core .ve
  have hme : (workOf s i.core .ve false).me.me.ftq = u :: us := by
    rw [h0.me]
    exact hq
  have htake : effVft i f (runs s i) (workOf s i.core .ve false) = takeTile i f (runs s i) (workOf s i.core .ve false) := by
    unfold effVft
    rw [hme]
    exact if_pos rfl
  rw [htake]
  unfold takeTile
  rw [hme]
  dsimp only
  have h1 : Doing s i.core .ve (vftCore s i us) [] _ := h0.modMe (fun c => { c with
    me := { c.me with ftq := us ++ c.me.outq.take 1, outq := c.me.outq.drop 1 }, ve := { c.ve with ftPend := none } })
  generalize (workOf s i.core .ve false).modMe _ = w at *
  have hlive : (runs s i && vftLive w.me i) = vftMoves s i := by
    rw [h1.me, vftLive_eq (s := s) (i := i) (z := vftCore s i us) rfl]
    rfl
  rw [hlive]
  unfold vftLands
  by_cases hd : f.dstw = 1
  · have hd0 : (f.dstw == 0) = false := by rw [hd]; rfl
    rw [if_pos hd, if_pos hd, if_pos hd, if_pos hd, hd0, Bool.and_false]
    have h2 := h1.veBusy (vftTileRows u) 6
    cases hm : vftMoves s i with
    | false => exact h2
    | true => exact h2.writeRows (by decide) rfl (vftTileRows u) (tileRows u) 6 (hth hd hm)
  · have hd0 : (f.dstw == 0) = true := beq_iff_eq.2 (by bv_omega)
    rw [if_neg hd, if_neg hd, if_neg hd, if_neg hd, hd0, Bool.and_true]
    have h2 := h1.veBusy 16 3
    cases hm : vftMoves s i with
    | false => exact h2
    | true =>
      rw [if_neg (show ¬(!true) = true by decide), vftLanes_some (s := s) (by rw [h2.me]; rfl) (by rw [h2.me]; rfl)]
      exact (h2.regsLand 19 _).raise _

/-- A report beside the rows a command writes. -/
theorem writeRows_report (h : Doing s c q y l w) (hq : q ≠ .de) (hb : SameBounds y (coreOf s c)) (r : Report) {orch : Bool} (n : Nat) {o : Nat}
    (data : List Byte) (first : Nat) (hth : rowsThere s.dp c orch o n = true) :
    (w.report r).writeRows orch o data first n = (w.writeRows orch o data first n).report r := by
  induction n generalizing o l w data first with
  | zero => rfl
  | succ n ih =>
    obtain ⟨⟨row, hrow⟩, hth⟩ := rowsThere_succ hth
    have hw : (w.report r).writeRef orch o (data.take rowBytes) first = (w.writeRef orch o (data.take rowBytes) first).report r := by
      have h1 : refRow w.d w.core orch o = some row := by rw [h.core, h.refRow hb, hrow]
      have h2 : refRow (w.report r).d (w.report r).core orch o = some row := h1
      have hde : ∀ p, ¬((w.inArea row && w.queue == .de && p) = true) := fun p => by rw [h.queue]; simp [hq]
      unfold Work.writeRef
      rw [h1, h2]
      refine (if_neg (hde _)).trans ?_
      dsimp only
      rw [if_neg (hde _)]
      rfl
    unfold Work.writeRows
    rw [hw]
    exact ih (h.writeRef hq hb hrow (data.take rowBytes) first) (data.drop rowBytes) (first + 1) hth

/-- Rows the plan delivers to the VFT. -/
def vftPlanned (s : State) (i : Iss) : Nat := plannedRows (coreOf s i.core) (vget (coreOf s i.core).queues (queueIndex .ve)).issued

/-- The all-zeros code on its way. -/
def vftZeros (s : State) (i : Iss) (f : VftF) : List (Nat × Landing) :=
  if vftMoves s i = false then []
  else if f.dstw = 1 then rowsLanding s.dp i.core (adrOrch f.addr) (adrOff f.addr) (vftPlanned s i) [] (fun j => 6 + j)
  else [(19, .regs i.core ((vftOn s i).map (fun y => (f.vd.toNat + y.1, y.2, 0))))]

/-- The core once VFT has found its queue empty. -/
def vftUnderCore (s : State) (i : Iss) (f : VftF) : Core :=
  withFlags s i.core .ve { NFlags.none with inv := vftMoves s i }
    { (coreOf s i.core).pop .ve with
      ve := { (veBusyWith (coreOf s i.core).ve s.dp.cycle (if f.dstw = 1 then vftPlanned s i else 16) (if f.dstw = 1 then 6 else 3)) with
        ftUnder := (coreOf s i.core).ve.ftUnder + 1 } }

theorem laneOn_withFlags (fl : NFlags) (y : Core) : laneOn (withFlags s c q fl y) = laneOn y := by
  unfold withFlags
  split <;> rfl

theorem sameBounds_withFlags {x : Core} (fl : NFlags) (h : SameBounds y x) : SameBounds (withFlags s c q fl y) x := by
  unfold withFlags
  split <;> exact h

/-- An underflow counts, raises its flag and is reported. -/
theorem ftUnder_doing (h : Doing s c q y [] w) (b : Bool) : ∃ u r, w.ftUnder b = u.report r ∧ r.cls = 7 ∧
    Doing s c q (withFlags s c q { NFlags.none with inv := b } { y with ve := { y.ve with ftUnder := y.ve.ftUnder + 1 } }) [] u :=
  ⟨_, _, rfl, rfl, (h.modMe (fun c => { c with ve := { c.ve with ftUnder := c.ve.ftUnder + 1 } })).raise _⟩

/-- R183: VFT finds its queue empty. -/
theorem effVft_under (hq : (coreOf s i.core).me.ftq = [])
    (hth : f.dstw = 1 → vftMoves s i = true → rowsThere s.dp i.core (adrOrch f.addr) (adrOff f.addr) (vftPlanned s i) = true) :
    ∃ w r, effVft i f (runs s i) (workOf s i.core .ve false) = w.report r ∧ r.cls = 7 ∧ Doing s i.core .ve (vftUnderCore s i f) (vftZeros s i f) w := by
  have h0 := doing_start s i.core .ve
  have hme : (workOf s i.core .ve false).me.me.ftq = [] := by
    rw [h0.me]
    exact hq
  have hplan : plannedRows (workOf s i.core .ve false).me (workOf s i.core .ve false).idx = vftPlanned s i := by
    rw [h0.me]
    rfl
  have hlive : (runs s i && vftLive (workOf s i.core .ve false).me i) = vftMoves s i := by
    rw [h0.me, vftLive_eq (s := s) (i := i) (z := (coreOf s i.core).pop .ve) rfl]
    rfl
  unfold effVft
  rw [hme, if_neg (show ¬(!List.isEmpty ([] : List Tile)) = true by decide), if_neg (show ¬(workOf s i.core .ve false).step = true from Bool.false_ne_true)]
  dsimp only
  rw [hlive, hplan]
  have hbusy : Doing s i.core .ve { (coreOf s i.core).pop .ve with
        ve := veBusyWith (coreOf s i.core).ve s.dp.cycle (if f.dstw = 1 then vftPlanned s i else 16) (if f.dstw = 1 then 6 else 3) } [] (if f.dstw = 1 then (workOf s i.core .ve false).veBusy (vftPlanned s i) 6 else (workOf s i.core .ve false).veBusy 16 3) := by
    split
    · exact h0.veBusy (vftPlanned s i) 6
    · exact h0.veBusy 16 3
  obtain ⟨u, r, hu, hcls, hunder⟩ := ftUnder_doing hbusy (vftMoves s i)
  have hunder : Doing s i.core .ve (vftUnderCore s i f) [] u := hunder
  have hlane : laneOn (vftUnderCore s i f) = laneOn (coreOf s i.core) ∧ SameBounds (vftUnderCore s i f) (coreOf s i.core) := by
    exact ⟨laneOn_withFlags .., sameBounds_withFlags _ rfl⟩
  rw [hu]
  unfold vftZeros
  cases hm : vftMoves s i with
  | false => exact ⟨u, r, rfl, hcls, hunder⟩
  | true =>
    rw [if_neg (show ¬(!true) = true by decide), if_neg (show ¬true = false by decide)]
    by_cases hd : f.dstw = 1
    · rw [if_pos hd, if_pos hd]
      exact ⟨_, r, writeRows_report hunder (by decide) hlane.2 r _ _ _ (hth hd hm), hcls,
        hunder.writeRows (by decide) hlane.2 (vftPlanned s i) [] 6 (hth hd hm)⟩
    · rw [if_neg hd, if_neg hd]
      refine ⟨u.regsLand 19 (vftLanes u.me i f none).1, r, rfl, hcls, ?_⟩
      rw [← vftLanes_none (f := f) hlane.1, ← hunder.me]
      have := hunder.regsLand 19 (vftLanes u.me i f none).1
      rwa [hunder.me] at this ⊢

end vft

theorem withFlags_keep (fl : NFlags) (y : Core) : (withFlags s c q fl y).ve = y.ve ∧ (withFlags s c q fl y).me = y.me ∧ (withFlags s c q fl y).cpWait = y.cpWait := by
  unfold withFlags
  split <;> exact ⟨rfl, rfl, rfl⟩

theorem flagsRaised_congr {u : State} {fl : NFlags} (h1 : (coreOf t c).nflag = (coreOf u c).nflag) (h2 : (coreOf t c).nflagHeld = (coreOf u c).nflagHeld)
    (h : flagsRaised s u c q fl) : flagsRaised s t c q fl := by
  unfold flagsRaised flagsOfTick at h ⊢
  rwa [h1, h2]

/-- R183: VFT at an empty queue. -/
theorem exec_vft_under {f : VftF} (hdue : dueNow s (.vft i f) i .ve = true) (hq : (coreOf s i.core).me.ftq = [])
    (hth : f.dstw = 1 → vftMoves s i = true → rowsThere s.dp i.core (adrOrch f.addr) (adrOff f.addr) (vftPlanned s i) = true) :
    ∃ t, exec (.vft i f) s = .next t ∧ t.dp.dev = s.dp.dev ∧ (coreOf t i.core).ve.ftUnder = (coreOf s i.core).ve.ftUnder + 1 ∧
      (coreOf t i.core).ve.regs = (coreOf s i.core).ve.regs ∧ (coreOf t i.core).me = (coreOf s i.core).me ∧
      t.dp.landings = s.dp.landings ++ vftZeros s i f ∧ (vget t.err.cls 7).cnt = satInc (vget s.err.cls 7).cnt ∧
      flagsRaised s t i.core .ve { NFlags.none with inv := vftMoves s i } := by
  obtain ⟨hissue, hearly, hcp⟩ := issueEngine_of_dueNow hdue (effVft i f)
  obtain ⟨w, r, heff, hcls, hw⟩ := effVft_under hq hth
  obtain ⟨hve, hme, hwait⟩ := withFlags_keep (s := s) (c := i.core) (q := .ve) { NFlags.none with inv := vftMoves s i }
    { (coreOf s i.core).pop .ve with
      ve := { (veBusyWith (coreOf s i.core).ve s.dp.cycle (if f.dstw = 1 then vftPlanned s i else 16) (if f.dstw = 1 then 6 else 3)) with
        ftUnder := (coreOf s i.core).ve.ftUnder + 1 } }
  obtain ⟨⟨p, hcore⟩, hdev, hland, hcnt⟩ := issueNow_reported (eff := effVft i f) (r := r) hearly hcp ((congrArg Work.d heff :).trans hw.d)
    ((congrArg Work.lateRows heff :).trans hw.late) ((congrArg Work.reps heff :).trans (congrArg (· ++ [r]) hw.reps)) hwait
    (by rw [hcls]; decide) (by rw [hcls]; decide)
  rw [hcls] at hcnt
  have hfl := fun (t : State) (ht : coreOf t i.core = { vftUnderCore s i f with pktEnds := p }) =>
    flagsRaised_flagged (b := true) (fl := { NFlags.none with inv := vftMoves s i }) ht rfl rfl
  have hkeep : (coreOf (issueNow s i .ve false (effVft i f)) i.core).ve = (vftUnderCore s i f).ve ∧
      (coreOf (issueNow s i .ve false (effVft i f)) i.core).me = (vftUnderCore s i f).me ∧
      flagsRaised s (issueNow s i .ve false (effVft i f)) i.core .ve { NFlags.none with inv := vftMoves s i } := by
    rcases hcore with hcore | ⟨n, hcore⟩
    · exact ⟨by rw [hcore], by rw [hcore], hfl _ hcore⟩
    · refine ⟨by rw [hcore]; rfl, by rw [hcore]; rfl, ?_⟩
      have ht : coreOf { s with dp := s.dp.setCore i.core { vftUnderCore s i f with pktEnds := p } } i.core = { vftUnderCore s i f with pktEnds := p } :=
        vget_vset_same ..
      refine flagsRaised_congr (u := { s with dp := s.dp.setCore i.core { vftUnderCore s i f with pktEnds := p } }) ?_ ?_ (hfl _ ht) <;>
        rw [hcore, ht] <;> rfl
  obtain ⟨hkve, hkme, hkfl⟩ := hkeep
  rw [show (vftUnderCore s i f).ve = _ from hve] at hkve
  rw [show (vftUnderCore s i f).me = _ from hme] at hkme
  exact ⟨_, hissue, hdev, by rw [hkve], by rw [hkve]; rfl, hkme, hland, hcnt, hkfl⟩

/-! ### VCTL -/

section vctl
variable (s i) (f : VCtlF)

/-- The row VCTL reads. -/
def vctlRow : List Byte := rowAt s.dp i.core (adrOrch f.addr) (adrOff f.addr) 0

/-- The VE with the row in the pending copy. -/
def vctlVe (b : Bool) : Ve :=
  if b then { veBusyWith (coreOf s i.core).ve s.dp.cycle 1 8 with
    ctPending := memWrite (coreOf s i.core).ve.ctPending (512 * f.ct.toNat) (padTo 512 (vctlRow s i f)) }
  else veBusyWith (coreOf s i.core).ve s.dp.cycle 1 8

variable {s i f}

theorem effVctl_doing (hcl : runs s i = true → cleanRow s.dp i.core (adrOrch f.addr) (adrOff f.addr) 0 = true) :
    Doing s i.core .ve { (coreOf s i.core).pop .ve with ve := vctlVe s i f (runs s i) }
      (if runs s i then [(8, .curve i.core f.ct (vctlRow s i f))] else []) (effVctl i f (runs s i) (workOf s i.core .ve false)) := by
  have h1 := (doing_start s i.core .ve).veBusy 1 8
  unfold effVctl
  dsimp only
  cases hr : runs s i with
  | false => exact h1
  | true =>
    rw [if_pos rfl, if_neg (show ¬(!true) = true by decide), h1.readRef rfl (hcl hr)]
    exact (h1.modMe (fun c => { c with ve := { c.ve with ctPending := memWrite c.ve.ctPending (512 * f.ct.toNat) (padTo 512 (vctlRow s i f)) } })).landIn 8
      (.curve i.core f.ct (vctlRow s i f))

theorem vctlVe_reads (b : Bool) :
    { vctlVe s i f b with ctPending := (coreOf s i.core).ve.ctPending } = veBusyWith (coreOf s i.core).ve s.dp.cycle 1 8 ∧
    ∀ k, memRead (vctlVe s i f b).ctPending k = if b = true ∧ 512 * f.ct.toNat ≤ k ∧ k < 512 * f.ct.toNat + 512 then
      byteAt (vctlRow s i f) (k - 512 * f.ct.toNat) else memRead (coreOf s i.core).ve.ctPending k := by
  cases b with
  | false => exact ⟨rfl, fun k => (if_neg (fun h => absurd h.1 (by decide))).symm⟩
  | true =>
    refine ⟨rfl, fun k => ?_⟩
    have hl : (vctlRow s i f).length = 512 := rowAt_length ..
    refine (memRead_memWrite_byteAt _ _ _ k).trans ?_
    rw [padTo_of_length hl, hl]
    simp only [true_and]

end vctl

/-- R190: a curve table becomes active. -/
theorem land_curve (d : Dp) (c ct : BitVec 3) (b : List Byte) (hwf : memWf (vget d.cores c).ve.ctActive) :
    (vget (land d (.curve c ct b)).1.cores c).ve.ctValid.getLsbD ct.toNat = true ∧ activeCurve (vget (land d (.curve c ct b)).1.cores c) ct = padTo 512 b ∧
      ∀ n, n ≠ ct → activeCurve (vget (land d (.curve c ct b)).1.cores c) n = activeCurve (vget d.cores c) n := by
  have hcore : vget (land d (.curve c ct b)).1.cores c = { vget d.cores c with ve := { (vget d.cores c).ve with
      ctActive := memWrite (vget d.cores c).ve.ctActive (512 * ct.toNat) (padTo 512 b), ctValid := setBit (vget d.cores c).ve.ctValid ct.toNat true } } :=
    vget_vset_same ..
  have hl : (padTo 512 b).length = 512 := padTo_length ..
  rw [hcore]
  refine ⟨?_, ?_, fun n hn => ?_⟩
  · rw [getLsbD_setBit _ (by have := ct.isLt; omega), if_pos rfl]
  · have := memSlice_memWrite_same hwf (512 * ct.toNat) (padTo 512 b)
    rwa [hl] at this
  · have hne : n.toNat ≠ ct.toNat := fun e => hn (BitVec.eq_of_toNat_eq e)
    exact memSlice_memWrite_apart hwf _ _ _ _ (by rw [hl]; omega)

/-- Settles O33. -/
theorem stagingCommands : Obligations.StagingCommands := by
  unfold Obligations.StagingCommands
  refine ⟨?vib, ?vft, ?under, ?vctl, ?curve⟩
  case vib =>
    intro s i f hdue _ _ x sel l r a b
    obtain ⟨t, p, hx, hside, honly, hcore⟩ := exec_doing (keep := keepVeMe) (rfl : exec (.vib i f) s = issueEngine (.vib i f) i .ve (effVib i f) s) hdue
      effVib_doing (by rw [flagged_keep]; rfl) (fun p => by rw [flagged_keep]; rfl)
    obtain ⟨h1, h2, h3⟩ := vibMe_reads (s := s) (i := i) (f := f) (vibLive s i f)
    have hme : (coreOf t i.core).me = vibMe s i f (vibLive s i f) := by rw [hcore, flagged_keep]
    have hlive : vibLive s i f = true ↔ runs s i = true ∧ l.2 = true := Bool.and_eq_true_iff
    simp only [hlive, and_assoc] at h2 h3
    refine ⟨t, hx, hside, honly, ?_, ?_, ?_, ?_, flagsRaised_flagged hcore rfl rfl⟩
    · rw [hcore, flagged_keep]
    · rw [hme]
      exact h1
    · rw [hme]
      exact h2
    · rw [hme]
      exact h3
  case vft =>
    intro s i f u us hdue hq x on e st live n hth
    obtain ⟨t, p, hx, hside, honly, hcore⟩ := exec_doing (keep := keepVeMe) (rfl : exec (.vft i f) s = issueEngine (.vft i f) i .ve (effVft i f) s) hdue
      (effVft_doing hq hth) (by rw [flagged_keep]; rfl) (fun p => by rw [flagged_keep]; rfl)
    refine ⟨t, hx, hside, honly, ?_, ?_, ?_⟩
    · rw [hcore, flagged_keep]
      rfl
    · rw [hcore, flagged_keep]
      rfl
    · have hfl := flagsRaised_flagged hcore rfl rfl
      have hfl' : (if (vftMoves s i && f.dstw == 0) = true then vftFlags s i f u else .none) = if live = true ∧ f.dstw = 0 ∧ f.raw = 0 then
          flagsAll (on.map (fun y => { (st y).2 with inv := (st y).2.inv || (e y).2.2 })) else .none := by
        have hc : (vftMoves s i && f.dstw == 0) = true ↔ live = true ∧ f.dstw = 0 := by rw [Bool.and_eq_true, beq_iff_eq]; rfl
        unfold vftFlags
        rw [← ite_and, if_congr (and_congr_left' hc) rfl rfl, if_congr and_assoc rfl rfl]
        rfl
      rw [← hfl']
      exact hfl
  case under =>
    intro s i f hdue hq x on live n hth
    exact exec_vft_under hdue hq hth
  case vctl =>
    intro s i f hdue _ hcl x b
    obtain ⟨t, p, hx, hside, honly, hcore⟩ := exec_doing (keep := fun y z => { keepEnds y z with ve := y.ve })
      (rfl : exec (.vctl i f) s = issueEngine (.vctl i f) i .ve (effVctl i f) s) hdue (effVctl_doing hcl) rfl (fun p => rfl)
    obtain ⟨h1, h2⟩ := vctlVe_reads (s := s) (i := i) (f := f) (runs s i)
    refine ⟨t, hx, hside, honly, ?_, ?_⟩
    · rw [hcore]
      exact h1
    · rw [hcore]
      exact h2
  case curve =>
    intro d c ct b hwf y
    exact land_curve d c ct b hwf

end Sys2Proof.Machine
end

section
/-!
VCONV (R136, R137, R141, R174, R185, R186): the lanes it writes, each once.
-/
namespace Sys2Proof.Machine
-- one proof after the other: the check compiles one text, and its memory holds few threads
set_option Elab.async false
open Sys2Proof.Safety

/-! ### Codes of 32-bit lanes -/

theorem storeElem_i32_lt (sym : Bool) (d : Dec) (q : Int) : (storeElem .i32 sym d q).1 < 2 ^ 32 := by
  obtain ⟨cls, sig, exp⟩ := d
  cases cls with
  | finite => exact codeOf_lt 32 _
  | nan =>
    rw [show (storeElem .i32 sym ⟨.nan, sig, exp⟩ q).1 = (storeSpecial .i32 sym .nan).1 from rfl]
    cases sym <;> decide
  | posInf => exact codeOf_lt 32 (intBounds 32 sym).2
  | negInf => exact codeOf_lt 32 (intBounds 32 sym).1
  | satPos => exact codeOf_lt 32 (intBounds 32 sym).2
  | satNeg => exact codeOf_lt 32 (intBounds 32 sym).1

/-! ### What the filter reads -/

theorem rowOn_setLanes (c : Core) (l : List (Nat × Nat × Nat)) : rowOn (setLanes c l) = rowOn c := by
  rw [setLanes_eq]
  rfl

section congr
variable {v v' : Nat → Core} (hdec : ∀ n, laneDec (v n) = laneDec (v' n)) (hrow : rowOn (v 0) = rowOn (v' 0)) (hon : laneOn (v 0) = laneOn (v' 0))
include hdec hrow

omit hdec in
theorem resetIn_congr : resetIn (v 0) = resetIn (v' 0) := by
  funext i word base a b
  unfold resetIn convReset
  rw [hrow]

omit hrow in
theorem convInput_congr : convInput v = convInput v' := by
  funext f st t col
  unfold convInput convHalo
  simp only [hdec]

include hon in
theorem convOut_congr : convOut v = convOut v' := by
  funext i f word row col
  unfold convOut convIn
  simp only [hdec, hon, resetIn_congr hrow, convInput_congr hdec]

theorem convNewHalo_congr : convNewHalo v = convNewHalo v' := by
  funext i f word
  unfold convNewHalo streamMasked
  simp only [hrow, resetIn_congr hrow, convInput_congr hdec]

end congr

namespace Doing
variable {s : State} {c : BitVec 3} {q : Queue} {y : Core} {l : List (Nat × Landing)} {w : Work}

theorem meAt_rowOn (h : Doing s c q y l w) (hy : rowOn y = rowOn (coreOf s c)) (k : Nat) : rowOn (w.meAt k) = rowOn (seenAt s c 0) := by
  rw [Work.meAt, rowOn_setLanes, h.me, hy, seenAt, rowOn_setLanes]

/-- The command's word and state once its reset word is read. -/
theorem convResets (h : Doing s c q y [] w) (hcm : SameBounds y (coreOf s c)) (hrst : y.rstRow = (coreOf s c).rstRow)
    (hpkt : pktReset y = pktReset (coreOf s c)) {i : Iss}
    (hcl : ∀ a, (coreOf s c).rstRow = some a → Safety.cleanRow s.dp c false (a + i.pkt / 64) 0 = true) :
    w.convResets i = (match (coreOf s c).rstRow with
      | some a => resetWordIn (Safety.rowAt s.dp c false (a + i.pkt / 64) 0) i.pkt
      | none => pktReset (coreOf s c) i.pkt, w) := by
  unfold Work.convResets
  rw [h.me, hrst, hpkt]
  cases ha : (coreOf s c).rstRow with
  | none => rfl
  | some a =>
    dsimp only
    rw [h.readRef hcm (hcl a ha)]

end Doing

/-! ### The lanes of the halo -/

/-- The halo registers of one lag. -/
def haloRows (f : VConvF) : Nat := (64 / lcOf f.lc + 3) / 4

theorem haloRows_pos (f : VConvF) : 0 < haloRows f := by
  unfold haloRows lcOf
  generalize f.lc = lc
  revert lc
  decide

/-- A place of the new halo: its lag less one, its stream, its column. -/
def haloPlaces (f : VConvF) : List (Nat × Nat × Nat) :=
  List.range (f.kc2.toNat + 1) ×ˢ List.range (4 * haloRows f) ×ˢ List.range 16

/-- The register and the lane of a place. -/
def haloKey (f : VConvF) (p : Nat × Nat × Nat) : Nat × Nat := (f.vc.toNat + p.1 * haloRows f + p.2.1 / 4, 16 * (p.2.1 % 4) + p.2.2)

/-- The place is written: it lies in no stream, or in one that is not wholly masked. -/
def haloWritten (c : Core) (i : Iss) (f : VConvF) (p : Nat × Nat × Nat) : Bool :=
  decide (64 / lcOf f.lc ≤ p.2.1) || !streamMasked c i (lcOf f.lc) p.2.1

/-- The input kept there. -/
def haloInput (v : Nat → Core) (i : Iss) (f : VConvF) (word : W64) (p : Nat × Nat × Nat) : Dec :=
  if resetIn (v 0) i word (p.2.1 * lcOf f.lc) ((lcOf f.lc : Int) - p.1).toNat (lcOf f.lc) then .zero
  else convInput v f p.2.1 ((lcOf f.lc : Int) - p.1) p.2.2

/-- Its code and flags. -/
def haloCode (v : Nat → Core) (i : Iss) (f : VConvF) (word : W64) (p : Nat × Nat × Nat) : Nat × NFlags :=
  if 64 / lcOf f.lc ≤ p.2.1 then (0, .none) else storeElem .i32 (f.sym == 1) (haloInput v i f word p) f.qc.toInt

theorem filterMap_eq_map_filter {α β : Type} (l : List α) {g : α → Option β} {p : α → Bool} {k : α → β}
    (hg : ∀ a, g a = if p a then some (k a) else none) : l.filterMap g = (l.filter p).map k := by
  induction l with
  | nil => rfl
  | cons a l ih => cases hp : p a <;> simp [List.filterMap_cons, hg a, hp, ih]

theorem filterMap_flatMap_product {α β γ : Type} (l : List α) (l' : List β) (g : α × β → Option γ) :
    l.flatMap (fun a => l'.filterMap (fun b => g (a, b))) = (l ×ˢ l').filterMap g := by
  induction l with
  | nil => rfl
  | cons a l ih =>
    rw [List.flatMap_cons, ih, List.product_cons, List.filterMap_append, List.filterMap_map]
    rfl

/-- The new halo, place by place. -/
theorem convNewHalo_eq (v : Nat → Core) (i : Iss) (f : VConvF) (word : W64) : convNewHalo v i f word =
    ((haloPlaces f).filter (haloWritten (v 0) i f)).map
      (fun p => (((haloKey f p).1, (haloKey f p).2, (haloCode v i f word p).1), (haloCode v i f word p).2)) := by
  rw [← filterMap_eq_map_filter (g := fun p => if haloWritten (v 0) i f p then
    some (((haloKey f p).1, (haloKey f p).2, (haloCode v i f word p).1), (haloCode v i f word p).2) else none) _ (fun _ => rfl),
    haloPlaces, ← filterMap_flatMap_product]
  unfold convNewHalo
  dsimp only
  refine List.flatMap_congr (fun a _ => ?_)
  rw [← filterMap_flatMap_product]
  refine List.flatMap_congr (fun b _ => List.filterMap_congr (fun col _ => ?_))
  unfold haloWritten haloCode haloInput haloKey
  dsimp only
  by_cases hs : 64 / lcOf f.lc ≤ b
  · rw [if_pos hs, if_pos hs, if_pos (by simp [hs])]
    rfl
  · rw [if_neg hs, if_neg hs]
    cases streamMasked (v 0) i (lcOf f.lc) b with
    | true => simp [hs]
    | false => simp [haloRows]

theorem haloKey_inj (f : VConvF) {p p' : Nat × Nat × Nat} (hp : p ∈ haloPlaces f) (hp' : p' ∈ haloPlaces f) (h : haloKey f p = haloKey f p') : p = p' := by
  obtain ⟨a, b, col⟩ := p
  obtain ⟨a', b', col'⟩ := p'
  simp only [haloPlaces, List.mem_product, List.mem_range] at hp hp'
  simp only [haloKey, Prod.mk.injEq] at h
  have hb : b / 4 < haloRows f := by omega
  have hb' : b' / 4 < haloRows f := by omega
  have hreg : a * haloRows f + b / 4 = a' * haloRows f + b' / 4 := by omega
  have ha : a = a' := by
    have h1 := Nat.mul_add_div (haloRows_pos f) a (b / 4)
    have h2 := Nat.mul_add_div (haloRows_pos f) a' (b' / 4)
    rw [Nat.div_eq_of_lt hb, Nat.mul_comm, hreg] at h1
    rw [Nat.div_eq_of_lt hb', Nat.mul_comm, h1] at h2
    omega
  subst ha
  refine Prod.ext rfl (Prod.ext ?_ ?_) <;> dsimp only <;> omega

/-- The place of a lane of a halo register. -/
def haloAt (f : VConvF) (n j : Nat) : Nat × Nat × Nat :=
  ((n - f.vc.toNat) / haloRows f, (n - f.vc.toNat) % haloRows f * 4 + j / 16, j % 16)

section haloAt
variable {f : VConvF} {n j : Nat} (hj : j < 64) (hlo : f.vc.toNat ≤ n)
include hj hlo

theorem haloKey_haloAt : haloKey f (haloAt f n j) = (n, j) := by
  have := Nat.div_add_mod' (n - f.vc.toNat) (haloRows f)
  refine Prod.ext ?_ ?_ <;> simp only [haloKey, haloAt] <;> omega

omit hlo in
theorem haloAt_mem (hhi : n < f.vc.toNat + (f.kc2.toNat + 1) * haloRows f) : haloAt f n j ∈ haloPlaces f := by
  have hrows := haloRows_pos f
  have hlt := Nat.mod_lt (n - f.vc.toNat) (haloRows_pos f)
  have hdiv : (n - f.vc.toNat) / haloRows f < f.kc2.toNat + 1 := (Nat.div_lt_iff_lt_mul (haloRows_pos f)).2 (by
    have := Nat.mul_pos (show 0 < f.kc2.toNat + 1 by omega) hrows
    omega)
  simp only [haloPlaces, haloAt, List.mem_product, List.mem_range]
  omega

end haloAt

/-- Every place lies in a halo register. -/
theorem haloKey_bounds {f : VConvF} {p : Nat × Nat × Nat} (hp : p ∈ haloPlaces f) :
    f.vc.toNat ≤ (haloKey f p).1 ∧ (haloKey f p).1 < f.vc.toNat + (f.kc2.toNat + 1) * haloRows f ∧ (haloKey f p).2 < 64 := by
  obtain ⟨a, b, col⟩ := p
  simp only [haloPlaces, List.mem_product, List.mem_range] at hp
  obtain ⟨ha, hb, hcol⟩ := hp
  have hmul : (a + 1) * haloRows f ≤ (f.kc2.toNat + 1) * haloRows f := Nat.mul_le_mul_right _ ha
  rw [Nat.add_mul, Nat.one_mul] at hmul
  simp only [haloKey]
  refine ⟨?_, ?_, ?_⟩ <;> omega

/-! ### The lanes of the outputs -/

/-- The outputs of the enabled lanes: row and column. -/
def convCells (c : Core) (i : Iss) : List (Nat × Nat) :=
  (List.range 64 ×ˢ List.range 16).filter (fun x => laneOn c i.hdr.mask i.pkt (x.1 / 4) (16 * (x.1 % 4) + x.2))

/-- The register and the lane of an output. -/
def convKey (f : VConvF) (x : Nat × Nat) : Nat × Nat := (f.vd.toNat + x.1 / 4, 16 * (x.1 % 4) + x.2)

/-- Its code and flags. -/
def convCode (v : Nat → Core) (i : Iss) (f : VConvF) (word : W64) (x : Nat × Nat) : Nat × NFlags :=
  storeElem .i32 (f.sym == 1) (convOut v i f word x.1 x.2) f.qd.toInt

/-- The output of a lane. -/
def convAt (f : VConvF) (n j : Nat) : Nat × Nat := (4 * (n - f.vd.toNat) + j / 16, j % 16)

section convAt
variable {c : Core} {i : Iss} {f : VConvF} {x : Nat × Nat}

theorem mem_convCells : x ∈ convCells c i ↔
    (x.1 < 64 ∧ x.2 < 16) ∧ laneOn c i.hdr.mask i.pkt (x.1 / 4) (16 * (x.1 % 4) + x.2) = true := by
  obtain ⟨row, col⟩ := x
  simp only [convCells, List.mem_filter, List.mem_product, List.mem_range]

theorem convKey_inj {x' : Nat × Nat} (hx : x ∈ convCells c i) (hx' : x' ∈ convCells c i) (h : convKey f x = convKey f x') : x = x' := by
  obtain ⟨row, col⟩ := x
  obtain ⟨row', col'⟩ := x'
  have h1 := (mem_convCells.1 hx).1
  have h2 := (mem_convCells.1 hx').1
  simp only [convKey, Prod.mk.injEq] at h
  dsimp only at h1 h2
  refine Prod.ext ?_ ?_ <;> dsimp only <;> omega

theorem convKey_bounds (hx : x ∈ convCells c i) : f.vd.toNat ≤ (convKey f x).1 ∧ (convKey f x).1 < f.vd.toNat + 16 ∧ (convKey f x).2 < 64 ∧
    laneOn c i.hdr.mask i.pkt ((convKey f x).1 - f.vd.toNat) (convKey f x).2 = true := by
  obtain ⟨⟨hr, hc⟩, hon⟩ := mem_convCells.1 hx
  simp only [convKey]
  refine ⟨by omega, by omega, by omega, ?_⟩
  rwa [Nat.add_sub_cancel_left]

variable {n j : Nat} (hj : j < 64) (hlo : f.vd.toNat ≤ n) (hhi : n < f.vd.toNat + 16)
include hj hlo

theorem convKey_convAt : convKey f (convAt f n j) = (n, j) := by
  refine Prod.ext ?_ ?_ <;> simp only [convKey, convAt] <;> omega

include hhi in
theorem convAt_mem (hon : laneOn c i.hdr.mask i.pkt (n - f.vd.toNat) j = true) : convAt f n j ∈ convCells c i := by
  refine mem_convCells.2 ⟨⟨?_, ?_⟩, ?_⟩
  · simp only [convAt]; omega
  · simp only [convAt]; omega
  · have hrow : (4 * (n - f.vd.toNat) + j / 16) / 4 = n - f.vd.toNat := by omega
    have hlane : 16 * ((4 * (n - f.vd.toNat) + j / 16) % 4) + j % 16 = j := by omega
    simp only [convAt, hrow, hlane, hon]

end convAt

/-- A lane is enabled where VCONV computes. -/
theorem convCells_isEmpty (c : Core) (i : Iss) : (convCells c i).isEmpty = false ↔ ∃ r < 16, ∃ j < 64, laneOn c i.hdr.mask i.pkt r j = true := by
  rw [List.isEmpty_eq_false_iff_exists_mem]
  constructor
  · rintro ⟨x, hx⟩
    obtain ⟨⟨hr, hc⟩, hon⟩ := mem_convCells.1 hx
    exact ⟨x.1 / 4, by omega, 16 * (x.1 % 4) + x.2, by omega, hon⟩
  · rintro ⟨r, hr, j, hj, hon⟩
    refine ⟨(4 * r + j / 16, j % 16), mem_convCells.2 ⟨⟨by dsimp only; omega, by dsimp only; omega⟩, ?_⟩⟩
    have hrow : (4 * r + j / 16) / 4 = r := by omega
    have hlane : 16 * ((4 * r + j / 16) % 4) + j % 16 = j := by omega
    simp only [hrow, hlane, hon]

/-! ### Lanes with their keys -/

/-- Lanes written at the keys of a list. -/
def keyed {α : Type} (l : List α) (key : α → Nat × Nat) (code : α → Nat) : List (Nat × Nat × Nat) := l.map (fun a => ((key a).1, (key a).2, code a))

section keyed
variable {α β : Type} {l : List α} {l' : List β} {key : α → Nat × Nat} {key' : β → Nat × Nat} {code : α → Nat} {code' : β → Nat}

theorem mem_keyed {n j x : Nat} : (n, j, x) ∈ keyed l key code ↔ ∃ a ∈ l, key a = (n, j) ∧ code a = x := by
  simp only [keyed, List.mem_map, Prod.mk.injEq, Prod.ext_iff, and_assoc]

theorem keys_keyed : (keyed l key code).map (fun y => (y.1, y.2.1)) = l.map key := by
  unfold keyed
  rw [List.map_map]
  rfl

/-- Two lists of keys, each without a repetition and apart from each other, have none together. -/
theorem nodup_keyed (hl : l.Nodup) (hl' : l'.Nodup) (hi : ∀ a ∈ l, ∀ b ∈ l, key a = key b → a = b) (hi' : ∀ a ∈ l', ∀ b ∈ l', key' a = key' b → a = b)
    (hd : ∀ a ∈ l, ∀ b ∈ l', key a ≠ key' b) : ((keyed l key code ++ keyed l' key' code').map (fun y => (y.1, y.2.1))).Nodup := by
  rw [List.map_append, keys_keyed, keys_keyed, List.nodup_append]
  refine ⟨hl.map_on hi, hl'.map_on hi', ?_⟩
  intro p hp p' hp' he
  obtain ⟨a, ha, rfl⟩ := List.mem_map.1 hp
  obtain ⟨b, hb, rfl⟩ := List.mem_map.1 hp'
  exact hd a ha b hb he

end keyed

/-! ### VCONV -/

section vconv
variable (s : State) (i : Iss) (f : VConvF)

/-- The reset word. -/
def vconvWord : W64 :=
  match (coreOf s i.core).rstRow with
  | some a => resetWordIn (rowAt s.dp i.core false (a + i.pkt / 64) 0) i.pkt
  | none => pktReset (coreOf s i.core) i.pkt

/-- The places of the halo it writes. -/
def vconvHalo : List (Nat × Nat × Nat) := (haloPlaces f).filter (haloWritten (seenAt s i.core 0) i f)

/-- The lanes VCONV writes. -/
def vconvLanes : List (Nat × Nat × Nat) :=
  keyed (convCells (coreOf s i.core) i) (convKey f) (fun x => (convCode (seenAt s i.core) i f (vconvWord s i) x).1) ++
    keyed (vconvHalo s i f) (haloKey f) (fun p => (haloCode (seenAt s i.core) i f (vconvWord s i) p).1)

/-- The flags of what it writes. -/
def vconvFlags : NFlags :=
  (flagsAll ((convCells (coreOf s i.core) i).map (fun x => (convCode (seenAt s i.core) i f (vconvWord s i) x).2))).or
    (flagsAll ((vconvHalo s i f).map (fun p => (haloCode (seenAt s i.core) i f (vconvWord s i) p).2)))

/-- It computes: it runs and a lane is enabled. -/
def vconvWorks : Bool := runs s i && !(convCells (coreOf s i.core) i).isEmpty

variable {s i f}

theorem effVconv_doing (hcl : vconvWorks s i = true → ∀ a, (coreOf s i.core).rstRow = some a → cleanRow s.dp i.core false (a + i.pkt / 64) 0 = true) :
    Doing s i.core .ve (flagged s i.core .ve (vconvWorks s i) (vconvFlags s i f)
        { (coreOf s i.core).pop .ve with ve := veBusyWith (coreOf s i.core).ve s.dp.cycle 16 6 })
      (if vconvWorks s i then [(22, .regs i.core (vconvLanes s i f))] else []) (effVconv i f (runs s i) (workOf s i.core .ve false)) := by
  have h1 := (doing_start s i.core .ve).veBusy 16 6
  unfold effVconv
  dsimp only
  generalize (workOf s i.core .ve false).veBusy 16 6 = w at *
  have hcells : ((List.range 64).flatMap (fun row => (List.range 16).map (fun col => (row, col)))).filter
      (fun x => laneOn w.me i.hdr.mask i.pkt (x.1 / 4) (16 * (x.1 % 4) + x.2)) = convCells (coreOf s i.core) i := by
    rw [h1.me]
    rfl
  rw [hcells]
  unfold vconvWorks at *
  cases hr : runs s i with
  | false => exact h1
  | true =>
    rw [hr] at hcl
    cases he : (convCells (coreOf s i.core) i).isEmpty with
    | true => exact h1
    | false =>
      rw [he] at hcl
      rw [if_neg (show ¬(!true) = true by decide), if_neg (show ¬false = true by decide), if_pos (show (true && !false) = true by decide),
        h1.convResets rfl rfl rfl (hcl rfl)]
      dsimp only
      have hdec := h1.meAt_laneDec rfl
      have hrow := h1.meAt_rowOn rfl 0
      have hon : laneOn (w.meAt 0) = laneOn (seenAt s i.core 0) := by
        rw [h1.meAt_laneOn rfl 0]
        exact (laneOn_setLanes ..).symm
      rw [convOut_congr hdec hrow hon, convNewHalo_congr hdec hrow, convNewHalo_eq, List.map_map, List.map_map, List.map_map, List.map_map]
      exact (h1.regsLand 22 (vconvLanes s i f)).raise (vconvFlags s i f)

end vconv

section lanes
variable {s : State} {i : Iss} {f : VConvF}

theorem vconvWorks_iff : vconvWorks s i = true ↔ runs s i = true ∧ ∃ r < 16, ∃ j < 64, laneOn (coreOf s i.core) i.hdr.mask i.pkt r j = true := by
  rw [← convCells_isEmpty, vconvWorks, Bool.and_eq_true, Bool.not_eq_true']

theorem vconvLanes_lane {y : Nat × Nat × Nat} (hy : y ∈ vconvLanes s i f) : y.2.1 < 64 := by
  rcases List.mem_append.1 hy with hy | hy
  · obtain ⟨x, hx, rfl⟩ := List.mem_map.1 hy
    exact (convKey_bounds (f := f) hx).2.2.1
  · obtain ⟨p, hp, rfl⟩ := List.mem_map.1 hy
    exact (haloKey_bounds (List.mem_filter.1 hp).1).2.2

/-- A lane of an output. -/
theorem vconvLanes_out {n j x : Nat} : (n, j, x) ∈ keyed (convCells (coreOf s i.core) i) (convKey f)
    (fun x => (convCode (seenAt s i.core) i f (vconvWord s i) x).1) → f.vd.toNat ≤ n ∧ n < f.vd.toNat + 16 ∧
      laneOn (coreOf s i.core) i.hdr.mask i.pkt (n - f.vd.toNat) j = true := by
  intro h
  obtain ⟨a, ha, hkey, -⟩ := mem_keyed.1 h
  have hb := convKey_bounds (f := f) ha
  rw [hkey] at hb
  exact ⟨hb.1, hb.2.1, hb.2.2.2⟩

/-- A lane of the halo. -/
theorem vconvLanes_halo {n j x : Nat} (hj : j < 64) (h : (n, j, x) ∈ keyed (vconvHalo s i f) (haloKey f)
    (fun p => (haloCode (seenAt s i.core) i f (vconvWord s i) p).1)) :
    (f.vc.toNat ≤ n ∧ n < f.vc.toNat + (f.kc2.toNat + 1) * haloRows f) ∧ haloWritten (seenAt s i.core 0) i f (haloAt f n j) = true := by
  obtain ⟨p, hp, hkey, -⟩ := mem_keyed.1 h
  obtain ⟨hp, hw⟩ := List.mem_filter.1 hp
  have hb := haloKey_bounds hp
  rw [hkey] at hb
  refine ⟨⟨hb.1, hb.2.1⟩, ?_⟩
  rwa [← haloKey_inj f hp (haloAt_mem hj hb.2.1) (hkey.trans (haloKey_haloAt hj hb.1).symm)]

theorem haloCode_lt (v : Nat → Core) (word : W64) (p : Nat × Nat × Nat) : (haloCode v i f word p).1 < 2 ^ 32 := by
  unfold haloCode
  split
  · exact Nat.two_pow_pos 32
  · exact storeElem_i32_lt ..

section apart
variable (hapart : ∀ n, (f.vc.toNat ≤ n ∧ n < f.vc.toNat + (f.kc2.toNat + 1) * haloRows f) → ¬(f.vd.toNat ≤ n ∧ n < f.vd.toNat + 16))
  (hwf : memWf (coreOf s i.core).ve.regs)
include hapart

theorem vconvLanes_nodup : ((vconvLanes s i f).map (fun y => (y.1, y.2.1))).Nodup := by
  refine nodup_keyed ((List.nodup_range.product List.nodup_range).filter _)
    ((List.nodup_range.product (List.nodup_range.product List.nodup_range)).filter _) (fun a ha b hb => convKey_inj ha hb)
    (fun a ha b hb => haloKey_inj f (List.mem_filter.1 ha).1 (List.mem_filter.1 hb).1) (fun a ha b hb he => ?_)
  have h1 := convKey_bounds (f := f) ha
  have h2 := haloKey_bounds (List.mem_filter.1 hb).1
  rw [he] at h1
  exact hapart _ ⟨h2.1, h2.2.1⟩ ⟨h1.1, h1.2.1⟩

include hwf

/-- An enabled lane of VD takes its output. -/
theorem laneCode_vconv_out {n j : Nat} (hj : j < 64) (hlo : f.vd.toNat ≤ n) (hhi : n < f.vd.toNat + 16)
    (hon : laneOn (coreOf s i.core) i.hdr.mask i.pkt (n - f.vd.toNat) j = true) :
    laneCode (setLanes (coreOf s i.core) (vconvLanes s i f)) n j = (convCode (seenAt s i.core) i f (vconvWord s i) (convAt f n j)).1 := by
  rw [laneCode_setLanes_mem hwf (fun y hy => vconvLanes_lane hy) (vconvLanes_nodup hapart) (List.mem_append.2 (.inl (mem_keyed.2
    ⟨convAt f n j, convAt_mem hj hlo hhi hon, convKey_convAt hj hlo, rfl⟩)))]
  exact Nat.mod_eq_of_lt (storeElem_i32_lt ..)

/-- A lane of a halo register takes its input, or keeps its code where its stream is masked. -/
theorem laneCode_vconv_halo {n j : Nat} (hj : j < 64) (hlo : f.vc.toNat ≤ n) (hhi : n < f.vc.toNat + (f.kc2.toNat + 1) * haloRows f) :
    laneCode (setLanes (coreOf s i.core) (vconvLanes s i f)) n j =
      if haloWritten (seenAt s i.core 0) i f (haloAt f n j) then (haloCode (seenAt s i.core) i f (vconvWord s i) (haloAt f n j)).1
      else laneCode (coreOf s i.core) n j := by
  cases hw : haloWritten (seenAt s i.core 0) i f (haloAt f n j) with
  | true =>
    rw [if_pos rfl, laneCode_setLanes_mem hwf (fun y hy => vconvLanes_lane hy) (vconvLanes_nodup hapart) (List.mem_append.2 (.inr (mem_keyed.2
      ⟨haloAt f n j, List.mem_filter.2 ⟨haloAt_mem hj hhi, hw⟩, haloKey_haloAt hj hlo, rfl⟩)))]
    exact Nat.mod_eq_of_lt (haloCode_lt ..)
  | false =>
    rw [if_neg (by decide), laneCode_setLanes_notMem hwf (fun y hy => vconvLanes_lane hy) hj]
    intro x hx
    rcases List.mem_append.1 hx with hx | hx
    · obtain ⟨h1, h2, -⟩ := vconvLanes_out hx
      exact hapart n ⟨hlo, hhi⟩ ⟨h1, h2⟩
    · exact Bool.false_ne_true (hw.symm.trans (vconvLanes_halo hj hx).2)

omit hapart in
/-- Every other lane keeps its code. -/
theorem laneCode_vconv_other {n j : Nat} (hj : j < 64) (hh : ¬(f.vc.toNat ≤ n ∧ n < f.vc.toNat + (f.kc2.toNat + 1) * haloRows f))
    (ho : ¬(f.vd.toNat ≤ n ∧ n < f.vd.toNat + 16 ∧ laneOn (coreOf s i.core) i.hdr.mask i.pkt (n - f.vd.toNat) j = true)) :
    laneCode (setLanes (coreOf s i.core) (vconvLanes s i f)) n j = laneCode (coreOf s i.core) n j := by
  refine laneCode_setLanes_notMem hwf (fun y hy => vconvLanes_lane hy) hj (fun x hx => ?_)
  rcases List.mem_append.1 hx with hx | hx
  · exact ho (vconvLanes_out hx)
  · exact hh (vconvLanes_halo hj hx).1

end apart

/-- What a lane of the halo takes, in the words of the rule. -/
theorem haloCode_rule (n j : Nat) :
    (if haloWritten (seenAt s i.core 0) i f (haloAt f n j) then (haloCode (seenAt s i.core) i f (vconvWord s i) (haloAt f n j)).1
      else laneCode (coreOf s i.core) n j) =
    if 64 / lcOf f.lc ≤ (n - f.vc.toNat) % haloRows f * 4 + j / 16 then 0
    else if streamMasked (coreOf s i.core) i (lcOf f.lc) ((n - f.vc.toNat) % haloRows f * 4 + j / 16) = true then laneCode (coreOf s i.core) n j
    else (storeElem .i32 (f.sym == 1)
      (if resetIn (coreOf s i.core) i (vconvWord s i) (((n - f.vc.toNat) % haloRows f * 4 + j / 16) * lcOf f.lc)
          (lcOf f.lc - (n - f.vc.toNat) / haloRows f) (lcOf f.lc) then Dec.zero
        else convInput (seenAt s i.core) f ((n - f.vc.toNat) % haloRows f * 4 + j / 16) ((lcOf f.lc : Int) - ((n - f.vc.toNat) / haloRows f : Nat)) (j % 16))
      f.qc.toInt).1 := by
  have hrow : rowOn (seenAt s i.core 0) = rowOn (coreOf s i.core) := rowOn_setLanes ..
  have hmask : streamMasked (seenAt s i.core 0) = streamMasked (coreOf s i.core) := by
    funext i lc s
    unfold streamMasked
    rw [hrow]
  have hreset : resetIn (seenAt s i.core 0) = resetIn (coreOf s i.core) := resetIn_congr (v := seenAt s i.core) (v' := fun _ => coreOf s i.core) hrow
  unfold haloWritten haloCode haloInput haloAt
  dsimp only
  rw [hmask, hreset, Int.toNat_sub]
  by_cases hs : 64 / lcOf f.lc ≤ (n - f.vc.toNat) % haloRows f * 4 + j / 16
  · rw [if_pos hs, if_pos (by simp [hs]), if_pos hs]
  · rw [if_neg hs, if_neg hs]
    cases streamMasked (coreOf s i.core) i (lcOf f.lc) ((n - f.vc.toNat) % haloRows f * 4 + j / 16) with
    | true => simp [hs]
    | false => simp [hs]

end lanes

/-- Settles O36. -/
theorem vconvFilters : Obligations.VconvFilters := by
  unfold Obligations.VconvFilters
  intro s i f hdue hwf x v lc hr on works word lag st halo input hcl hapart
  obtain ⟨t, p, hx, hside, honly, hcore⟩ := exec_doing (keep := keepVe) (rfl : exec (.vconv i f) s = issueEngine (.vconv i f) i .ve (effVconv i f) s) hdue
    (effVconv_doing (fun hw => hcl (vconvWorks_iff.1 hw))) (by rw [flagged_keep]; rfl) (fun p => by rw [flagged_keep]; rfl)
  refine ⟨t, _, hx, hside, honly, by rw [hcore, flagged_keep], ?_, ?_⟩
  · intro hw
    exact if_neg (fun h => hw (vconvWorks_iff.1 h))
  · intro hw
    refine ⟨vconvLanes s i f, if_pos (vconvWorks_iff.2 hw), ?_, ?_, ?_⟩
    · intro n j hj hlo hhi hon
      exact laneCode_vconv_out hapart hwf hj hlo hhi hon
    · intro n j hj hh
      exact (laneCode_vconv_halo hapart hwf hj hh.1 hh.2).trans (haloCode_rule n j)
    · intro n j hj hh ho
      exact laneCode_vconv_other hwf hj hh ho

end Sys2Proof.Machine
end

section
/-!
MM (R87, R88, R110, R114, R116, R117, R120, R121, R123): the entries it writes, its tiles and its releases.
-/
namespace Sys2Proof.Machine
-- one proof after the other: the check compiles one text, and its memory holds few threads
set_option Elab.async false
open Sys2Proof.Safety

/-! ### Flags raised one after the other -/

theorem nflagBits_or (q : Queue) (a b : NFlags) : nflagBits q (a.or b) = nflagBits q a ||| nflagBits q b := by
  have hbits : (a.or b).bits = a.bits ||| b.bits := by
    obtain ⟨a1, a2, a3, a4⟩ := a
    obtain ⟨b1, b2, b3, b4⟩ := b
    revert a1 a2 a3 a4 b1 b2 b3 b4
    decide
  unfold nflagBits
  rw [hbits, BitVec.zeroExtend_eq_setWidth, BitVec.setWidth_or, BitVec.shiftLeft_or_distrib]

/-- Flags held twice for one tick are held together. -/
theorem holdFlags_holdFlags (k : W64) (a b : W16) (l : List (W64 × W16)) : holdFlags k b (holdFlags k a l) = holdFlags k (a ||| b) l := by
  by_cases ha : a = 0
  · simp [holdFlags, ha]
  by_cases hb : b = 0
  · simp [holdFlags, hb]
  have hab : a ||| b ≠ 0 := fun h => ha (BitVec.or_eq_zero_iff.1 h).1
  unfold holdFlags
  rw [if_neg ha, if_neg hb, if_neg hab]
  cases hl : l.any (fun x => x.1 == k) with
  | true =>
    rw [if_pos rfl, if_pos rfl, if_pos, List.map_map]
    · refine List.map_congr_left (fun x _ => ?_)
      by_cases hx : x.1 = k <;> simp [hx, BitVec.or_assoc]
    · obtain ⟨x, hx, hk⟩ := List.any_eq_true.1 hl
      exact List.any_eq_true.2 ⟨_, List.mem_map_of_mem hx, by simp [hk]⟩
  | false =>
    rw [if_neg (show ¬false = true by decide), if_neg (show ¬false = true by decide), if_pos (by simp), List.map_append]
    congr 1
    · refine (List.map_congr_left (fun x hx => ?_)).trans (List.map_id l)
      rw [if_neg (fun h => by simpa [h] using List.any_eq_false.1 hl x hx)]
      rfl
    · simp

theorem withFlags_withFlags (s : State) (c : BitVec 3) (q : Queue) (a b : NFlags) (y : Core) :
    withFlags s c q b (withFlags s c q a y) = withFlags s c q (a.or b) y := by
  unfold withFlags
  rw [nflagBits_or]
  split_ifs
  · rw [holdFlags_holdFlags]
  · simp only [Core.setNflag, BitVec.or_assoc, if_true]
    split_ifs <;> simp only [BitVec.or_assoc]

/-! ### A command that draws free values -/

/-- Free values drawn up to n. -/
def freed (s : State) (n : Nat) : State := { s with dp := { s.dp with free := n } }

namespace Doing
variable {s : State} {c : BitVec 3} {q : Queue} {y : Core} {l : List (Nat × Landing)} {w : Work}

theorem withFree (h : Doing s c q y l w) (n : Nat) : Doing (freed s n) c q y l { w with d := { w.d with free := n } } := by
  refine ⟨?_, h.core, h.queue, h.tick, h.spec, h.pit, h.areas, h.late, h.reps⟩
  rw [h.d]
  rfl

theorem landAll (h : Doing s c q y l w) (m : List (Nat × Landing)) :
    Doing s c q y (l ++ m) { w with d := { w.d with landings := w.d.landings ++ m } } := by
  refine ⟨?_, h.core, h.queue, h.tick, h.spec, h.pit, h.areas, h.late, h.reps⟩
  rw [h.d, ← List.append_assoc]

end Doing

/-- What the issue of such a command leaves. -/
theorem exec_doing_freed {s : State} {q : Queue} {y : Core} {l : List (Nat × Landing)} {ins : Instr} {i : Iss} {eff : Bool → Work → Work} {n : Nat}
    {keep : Core → Core → Core} (hexec : exec ins s = issueEngine ins i q eff s)
    (hdue : dueNow s ins i q = true) (hw : Doing (freed s n) i.core q y l (eff (runs s i) (workOf s i.core q false)))
    (hy : y.cpWait = (coreOf s i.core).cpWait) (hkeep : ∀ p, keep { y with pktEnds := p } ((coreOf s i.core).pop q) = { y with pktEnds := p }) :
    ∃ t p, exec ins s = .next t ∧ sameBeside s t ∧
      t.dp = { s.dp.setCore i.core (keep (coreOf t i.core) ((coreOf s i.core).pop q)) with landings := s.dp.landings ++ l, free := t.dp.free } ∧
      coreOf t i.core = { y with pktEnds := p } := by
  obtain ⟨hissue, hearly, hcp⟩ := issueEngine_of_dueNow hdue eff
  have hme : vget (eff (runs s i) (workOf s i.core q false)).d.cores i.core = y := by
    have := hw.me
    rwa [Work.me, hw.core] at this
  obtain ⟨hside, hdp⟩ := issueNow_plain s i q false eff hearly _ rfl hw.late hw.reps (by rw [hme, hy, hcp])
  obtain ⟨p, hp⟩ := exists_pktEnds (eff (runs s i) (workOf s i.core q false)).d i.core ((eff (runs s i) (workOf s i.core q false)).endsIn s.dp.landings.length)
    (eff (runs s i) (workOf s i.core q false)).tick i.pkt
    (s.dp.cycle + (eff (runs s i) (workOf s i.core q false)).endsIn s.dp.landings.length)
  rw [hp, hw.d] at hdp
  have hcore : coreOf (issueNow s i q false eff) i.core = { y with pktEnds := p } := by
    rw [coreOf, hdp]
    simp [Dp.modCore, Dp.setCore]
  refine ⟨_, p, hexec.trans hissue, hside, ?_, hcore⟩
  rw [hcore, hkeep, hdp]
  simp [Dp.modCore, Dp.setCore, freed]

/-! ### Rows that land together -/

theorem rowsThere_iff {d : Dp} {c : BitVec 3} {orch : Bool} {o n : Nat} : rowsThere d c orch o n = true ↔ ∀ k < n, (refRow d c orch (o + k)).isSome = true := by
  simp [rowsThere, rowList]

theorem rowsThere_split {d : Dp} {c : BitVec 3} {orch : Bool} {o n m : Nat} (h : rowsThere d c orch o (n + m) = true) :
    rowsThere d c orch o n = true ∧ rowsThere d c orch (o + n) m = true := by
  rw [rowsThere_iff] at h
  refine ⟨rowsThere_iff.2 (fun k hk => h k (by omega)), rowsThere_iff.2 (fun k hk => ?_)⟩
  rw [Nat.add_assoc]
  exact h _ (by omega)

namespace Doing
variable {s : State} {c : BitVec 3} {q : Queue} {y : Core} {l : List (Nat × Landing)} {w : Work}

/-- Rows of an engine other than the DE are on their way, all for one cycle. -/
theorem writeTogether (h : Doing s c q y l w) (hq : q ≠ .de) (hcm : SameBounds y (coreOf s c)) {orch : Bool} (n : Nat) {o : Nat} (data : List Byte) (land : Nat)
    (hth : rowsThere s.dp c orch o n = true) :
    Doing s c q y (l ++ rowsLanding s.dp c orch o n data (fun _ => land)) (w.writeTogether orch o data land n) := by
  induction n generalizing o l w data with
  | zero =>
    rw [show rowsLanding s.dp c orch o 0 data (fun _ => land) = [] from rfl, List.append_nil]
    exact h
  | succ n ih =>
    obtain ⟨⟨row, hrow⟩, hth⟩ := rowsThere_succ hth
    have := ih (h.writeRef hq hcm hrow (data.take rowBytes) land) (data.drop rowBytes) hth
    rw [List.append_assoc] at this
    rw [rowsLanding_succ hrow]
    exact this

/-- The rows of tiles are on their way, those of each in its cycle. -/
theorem writeTiles (h : Doing s c q y l w) (hq : q ≠ .de) (hcm : SameBounds y (coreOf s c)) (ts : List (Nat × Tile)) {o : Nat}
    (hth : rowsThere s.dp c false o (ts.map (fun u => rowsFor (tileRows u.2).length)).sum = true) :
    Doing s c q y (l ++ tilesLanding s.dp c o ts) (w.writeTiles o ts) := by
  induction ts generalizing o l w with
  | nil =>
    rw [show tilesLanding s.dp c o [] = [] from rfl, List.append_nil]
    exact h
  | cons u us ih =>
    rw [List.map_cons, List.sum_cons] at hth
    obtain ⟨h1, h2⟩ := rowsThere_split hth
    have := ih (h.writeTogether hq hcm _ (tileRows u.2) u.1 h1) h2
    rw [List.append_assoc] at this
    exact this

/-- Tiles are on their way to the queue. -/
theorem tilesEnter (h : Doing s c q y l w) (ts : List (Nat × Tile)) :
    Doing s c q y (l ++ ts.map (fun u => (u.1, Landing.tile c u.2))) (w.tilesEnter ts) := by
  induction ts generalizing l w with
  | nil =>
    rw [List.map_nil, List.append_nil]
    exact h
  | cons u us ih =>
    have := ih (h.landIn u.1 (.tile c u.2))
    rw [List.append_assoc] at this
    unfold Work.tilesEnter
    rw [show Landing.tile w.core u.2 = .tile c u.2 from congrArg (Landing.tile · u.2) h.core]
    exact this

/-- What REL names is released. -/
theorem mmRelease (h : Doing s c q y l w) (f : MmF) : Doing s c q y (l ++ releases c f) (w.mmRelease f) := by
  have := h.landAll (releases c f)
  unfold releases at this ⊢
  unfold Work.mmRelease
  dsimp only at this ⊢
  rw [List.append_assoc w.d.landings, h.core]
  rw [h.core] at this
  exact this

end Doing

/-! ### Accumulator entries -/

theorem accKey_inj {b b' : BitVec 1} {row col row' col' : Nat} (hr : row < 64) (hc : col < 128) (hr' : row' < 64) (hc' : col' < 128)
    (h : accKey b row col = accKey b' row' col') : b = b' ∧ row = row' ∧ col = col' := by
  unfold accKey at h
  have hb : b.toNat < 2 := b.isLt
  have hb' : b'.toNat < 2 := b'.isLt
  refine ⟨BitVec.eq_of_toNat_eq ?_, ?_, ?_⟩ <;> omega

theorem find_filter_other {α : Type} {l : List α} {p r : α → Bool} (h : ∀ a ∈ l, r a = true → p a = true) : (l.filter p).find? r = l.find? r := by
  rw [List.find?_filter]
  refine List.find?_congr (fun a ha => ?_)
  cases hr : r a with
  | true => simp [h a ha hr]
  | false => simp

section accWrite
variable {acc : List (Nat × A88)} {bank : BitVec 1} {rs : List (Nat × Nat × A88)} {key : Nat}

/-- An entry the results do not name stays. -/
theorem find_accWrite_other (h : ∀ r ∈ rs, accKey bank r.1 r.2.1 ≠ key) :
    (accWrite acc bank rs).find? (fun e => e.1 == key) = acc.find? (fun e => e.1 == key) := by
  unfold accWrite
  dsimp only
  rw [List.find?_append, find_filter_other, (List.find?_eq_none (l := rs.map _)).2, Option.or_none]
  · intro e he
    obtain ⟨r, hr, rfl⟩ := List.mem_map.1 he
    simpa using h r hr
  · intro e _ he
    simp only [Bool.not_eq_true', List.any_eq_false, beq_iff_eq, List.forall_mem_map]
    intro r hr hk
    exact h r hr (hk.trans (by simpa using he))

/-- An entry the results name takes their value. -/
theorem find_accWrite_mem {v : A88} (hm : ∃ r ∈ rs, accKey bank r.1 r.2.1 = key) (hv : ∀ r ∈ rs, accKey bank r.1 r.2.1 = key → r.2.2 = v) :
    ((accWrite acc bank rs).find? (fun e => e.1 == key)).map (fun e => e.2) = some v := by
  obtain ⟨r, hr, hk⟩ := hm
  unfold accWrite
  dsimp only
  rw [List.find?_append, List.find?_filter, List.find?_eq_none.2, Option.none_or]
  · obtain ⟨e, he⟩ := Option.isSome_iff_exists.1 (List.find?_isSome.2 ⟨_, List.mem_map_of_mem (f := fun r => (accKey bank r.1 r.2.1, r.2.2)) hr,
      by simpa using hk⟩ : ((rs.map (fun r => (accKey bank r.1 r.2.1, r.2.2))).find? (fun e => e.1 == key)).isSome = true)
    rw [he]
    obtain ⟨r', hr', rfl⟩ := List.mem_map.1 (List.mem_of_find?_eq_some he)
    exact congrArg some (hv r' hr' (by simpa using List.find?_some he))
  · intro e _ he
    simp only [Bool.and_eq_true, Bool.not_eq_true', List.any_eq_false, beq_iff_eq, List.forall_mem_map, decide_eq_true_eq] at he
    exact he.1 r hr (hk.trans he.2.symm)

end accWrite

/-! ### The entries a command writes -/

section jobs
variable {x : Core} {i : Iss} {f : MmF} {sa sw : FmtSel}

/-- Problem q, its row r and column n are those of an entry that the command computes. -/
def mmWritten (x : Core) (i : Iss) (f : MmF) (q r n : Nat) : Prop :=
  q < shapeSubs f.shape.toNat ∧ r < shapeRows f.shape.toNat ∧ n < mmColsN f ∧ rowOn x i.hdr.mask i.pkt (subRow f.shape.toNat q + r) = true

/-- The column of the bank of column n of problem q. -/
def mmCol (f : MmF) (q n : Nat) : Nat := subCol f.shape.toNat q + f.acol.toNat + n

/-- The pairs of an entry. -/
abbrev mmTerms (x : Core) (f : MmF) (sa sw : FmtSel) (q r n pa pw : Nat) (neg : Bool) : List (Dec × Dec) :=
  (mmPairs x f sa sw (meFactor sa.op sw.op) q r n pa pw neg).1

/-- An entry of row r and column n of problem q: its row and column in the bank, and its pairs in K order. -/
def isEntry (x : Core) (i : Iss) (f : MmF) (sa sw : FmtSel) (q r n row col : Nat) (ps : List (Dec × Dec)) : Prop :=
  row = subRow f.shape.toNat q + r ∧
    ((f.shape ≠ 4 ∧ colOn x i.hdr.mask (mmCol f q n) = true ∧ col = mmCol f q n ∧ ps = mmTerms x f sa sw q r n 0 0 false) ∨
     (f.shape = 4 ∧ colOn x i.hdr.mask (mmCol f q n) = true ∧ col = mmCol f q n ∧
        ps = mmTerms x f sa sw q r n 0 0 false ++ mmTerms x f sa sw q r n 1 1 true) ∨
     (f.shape = 4 ∧ colOn x i.hdr.mask (mmCol f q n + 64) = true ∧ col = mmCol f q n + 64 ∧
        ps = mmTerms x f sa sw q r n 0 1 false ++ mmTerms x f sa sw q r n 1 0 false))

theorem shape_toNat_eq_four : f.shape.toNat = 4 ↔ f.shape = 4 := by
  rw [← BitVec.toNat_inj]
  rfl

/-- Every job is one of an entry. -/
theorem isEntry_of_mem {j : AccJob} (hj : j ∈ mmJobs x i f sa sw) :
    ∃ q r n, mmWritten x i f q r n ∧ isEntry x i f sa sw q r n j.row j.col j.pairs := by
  unfold mmJobs at hj
  simp only [List.mem_flatMap, List.mem_range] at hj
  obtain ⟨q, hq, r, hr, hj⟩ := hj
  cases hrow : rowOn x i.hdr.mask i.pkt (subRow f.shape.toNat q + r) with
  | false => simp [hrow] at hj
  | true =>
    rw [if_neg (by simp [hrow]), List.mem_flatMap] at hj
    obtain ⟨n, hn, hj⟩ := hj
    refine ⟨q, r, n, ⟨hq, hr, List.mem_range.1 hn, hrow⟩, ?_⟩
    unfold isEntry mmCol
    by_cases h4 : f.shape = 4
    · rw [if_pos (shape_toNat_eq_four.2 h4), List.mem_append] at hj
      rcases hj with hj | hj <;> split at hj
      · next hc => rw [List.mem_singleton.1 hj]; exact ⟨rfl, .inr (.inl ⟨h4, hc, rfl, rfl⟩)⟩
      · cases hj
      · next hc => rw [List.mem_singleton.1 hj]; exact ⟨rfl, .inr (.inr ⟨h4, hc, rfl, rfl⟩)⟩
      · cases hj
    · rw [if_neg (fun h => h4 (shape_toNat_eq_four.1 h))] at hj
      split at hj
      · next hc => rw [List.mem_singleton.1 hj]; exact ⟨rfl, .inl ⟨h4, hc, rfl, rfl⟩⟩
      · cases hj

/-- Every entry has its job. -/
theorem mem_of_written {q r n : Nat} (hw : mmWritten x i f q r n) {row col : Nat} {ps : List (Dec × Dec)}
    (hj : isEntry x i f sa sw q r n row col ps) : ∃ j ∈ mmJobs x i f sa sw, j.row = row ∧ j.col = col := by
  obtain ⟨hq, hr, hn, hrow⟩ := hw
  have hmem : ∀ j, j ∈ (if f.shape.toNat = 4 then
        (if colOn x i.hdr.mask (mmCol f q n) then [AccJob.mk (subRow f.shape.toNat q + r) (mmCol f q n)
          (mmTerms x f sa sw q r n 0 0 false ++ mmTerms x f sa sw q r n 1 1 true) ((mmPairs x f sa sw (meFactor sa.op sw.op) q r n 0 0 false).2 ||
            (mmPairs x f sa sw (meFactor sa.op sw.op) q r n 1 1 true).2)] else []) ++
        (if colOn x i.hdr.mask (mmCol f q n + 64) then [AccJob.mk (subRow f.shape.toNat q + r) (mmCol f q n + 64)
          (mmTerms x f sa sw q r n 0 1 false ++ mmTerms x f sa sw q r n 1 0 false) ((mmPairs x f sa sw (meFactor sa.op sw.op) q r n 0 1 false).2 ||
            (mmPairs x f sa sw (meFactor sa.op sw.op) q r n 1 0 false).2)] else [])
      else if colOn x i.hdr.mask (mmCol f q n) then [AccJob.mk (subRow f.shape.toNat q + r) (mmCol f q n) (mmTerms x f sa sw q r n 0 0 false)
        (mmPairs x f sa sw (meFactor sa.op sw.op) q r n 0 0 false).2] else []) → j ∈ mmJobs x i f sa sw := by
    intro j hj
    unfold mmJobs
    refine List.mem_flatMap.2 ⟨q, List.mem_range.2 hq, List.mem_flatMap.2 ⟨r, List.mem_range.2 hr, ?_⟩⟩
    rw [if_neg (by simp [hrow])]
    exact List.mem_flatMap.2 ⟨n, List.mem_range.2 hn, hj⟩
  obtain ⟨rfl, hcol⟩ := hj
  rcases hcol with ⟨h4, hc, rfl, -⟩ | ⟨h4, hc, rfl, -⟩ | ⟨h4, hc, rfl, -⟩
  · rw [if_neg (fun h => h4 (shape_toNat_eq_four.1 h)), if_pos hc] at hmem
    exact ⟨_, hmem _ (List.mem_singleton_self _), rfl, rfl⟩
  · rw [if_pos (shape_toNat_eq_four.2 h4), if_pos hc] at hmem
    exact ⟨_, hmem _ (List.mem_append_left _ (List.mem_singleton_self _)), rfl, rfl⟩
  · rw [if_pos (shape_toNat_eq_four.2 h4), if_pos hc] at hmem
    exact ⟨_, hmem _ (List.mem_append_right _ (List.mem_singleton_self _)), rfl, rfl⟩

/-- What a legal command keeps to. -/
theorem mmCols_of_wf (hwf : f.wf = true) : f.shape.toNat ≤ 5 ∧ f.dst.toNat ≤ 2 ∧ (f.shape.toNat = 1 → f.acol.toNat + mmColsN f ≤ 64) ∧
    (f.shape.toNat = 2 → f.acol.toNat + mmColsN f ≤ 32) ∧ (f.shape.toNat = 4 → f.acol.toNat + mmColsN f ≤ 64) ∧ f.acol.toNat + mmColsN f ≤ 128 := by
  unfold MmF.wf at hwf
  unfold mmColsN
  simp only [Bool.and_eq_true, decide_eq_true_eq] at hwf
  obtain ⟨⟨⟨hs, hd⟩, hc⟩, -⟩ := hwf
  refine ⟨hs, hd, ?_⟩
  generalize f.shape.toNat = k at *
  interval_cases k <;> simp at hc <;> omega

/-- Where an entry lies: within its bank. -/
theorem written_bounds (hwf : f.wf = true) {q r n : Nat} (hw : mmWritten x i f q r n) :
    subRow f.shape.toNat q + r < 64 ∧ mmCol f q n < 128 ∧ (f.shape.toNat = 4 → mmCol f q n < 64) := by
  obtain ⟨hq, hr, hn, -⟩ := hw
  obtain ⟨hs, -, h1, h2, h4, h⟩ := mmCols_of_wf hwf
  unfold mmCol
  generalize f.shape.toNat = k at *
  interval_cases k <;> simp only [shapeSubs, shapeRows, subRow, subCol] at hq hr ⊢ <;> omega

/-- No two entries lie in one place. -/
theorem written_inj (hwf : f.wf = true) {q r n q' r' n' : Nat} (hw : mmWritten x i f q r n) (hw' : mmWritten x i f q' r' n')
    (hrow : subRow f.shape.toNat q + r = subRow f.shape.toNat q' + r') (hcol : mmCol f q n = mmCol f q' n') : q = q' ∧ r = r' ∧ n = n' := by
  obtain ⟨hq, hr, hn, -⟩ := hw
  obtain ⟨hq', hr', hn', -⟩ := hw'
  obtain ⟨hs, -, h1, h2, h4, h⟩ := mmCols_of_wf hwf
  unfold mmCol at hcol
  generalize f.shape.toNat = k at *
  interval_cases k <;> simp only [shapeSubs, shapeRows, subRow, subCol] at hq hr hq' hr' hrow hcol <;> omega

theorem isEntry_bounds (hwf : f.wf = true) {q r n row col : Nat} {ps : List (Dec × Dec)} (hw : mmWritten x i f q r n)
    (he : isEntry x i f sa sw q r n row col ps) : row < 64 ∧ col < 128 := by
  obtain ⟨hr, hc, h64⟩ := written_bounds hwf hw
  rw [shape_toNat_eq_four] at h64
  obtain ⟨rfl, ⟨-, -, rfl, -⟩ | ⟨-, -, rfl, -⟩ | ⟨h4, -, rfl, -⟩⟩ := he
  · exact ⟨hr, hc⟩
  · exact ⟨hr, hc⟩
  · exact ⟨hr, by have := h64 h4; omega⟩

/-- An entry's place gives its pairs. -/
theorem isEntry_unique (hwf : f.wf = true) {q r n q' r' n' row col : Nat} {ps ps' : List (Dec × Dec)} (hw : mmWritten x i f q r n)
    (hw' : mmWritten x i f q' r' n') (he : isEntry x i f sa sw q r n row col ps) (he' : isEntry x i f sa sw q' r' n' row col ps') : ps = ps' := by
  have hb := (written_bounds hwf hw).2.2
  have hb' := (written_bounds hwf hw').2.2
  rw [shape_toNat_eq_four] at hb hb'
  obtain ⟨hrow, he⟩ := he
  obtain ⟨hrow', he'⟩ := he'
  have hsame := written_inj hwf hw hw' (hrow.symm.trans hrow')
  rcases he with ⟨h4, -, hcol, rfl⟩ | ⟨h4, -, hcol, rfl⟩ | ⟨h4, -, hcol, rfl⟩
  · rcases he' with ⟨-, -, hcol', rfl⟩ | ⟨h4', -⟩ | ⟨h4', -⟩
    · obtain ⟨rfl, rfl, rfl⟩ := hsame (hcol.symm.trans hcol')
      rfl
    · exact absurd h4' h4
    · exact absurd h4' h4
  · rcases he' with ⟨h4', -⟩ | ⟨-, -, hcol', rfl⟩ | ⟨-, -, hcol', -⟩
    · exact absurd h4 h4'
    · obtain ⟨rfl, rfl, rfl⟩ := hsame (hcol.symm.trans hcol')
      rfl
    · have := hb h4
      omega
  · rcases he' with ⟨h4', -⟩ | ⟨-, -, hcol', -⟩ | ⟨-, -, hcol', rfl⟩
    · exact absurd h4 h4'
    · have := hb' h4
      omega
    · obtain ⟨rfl, rfl, rfl⟩ := hsame (by omega)
      rfl

end jobs

/-! ### The accumulator file it leaves -/

section results
variable {x : Core} {free : Nat} {i : Iss} {f : MmF}

/-- What an entry starts from. -/
def mmStart (x : Core) (free : Nat) (f : MmF) (row col : Nat) : A88 := if f.accAdd = 1 then accAt x free (accKey f.abank row col) else A88.zero

/-- The results, entry by entry. -/
theorem mem_mmResults {r : Nat × Nat × A88} : r ∈ (mmResults x free i f).1 ↔ ∃ j ∈ mmJobs x i f (fmtGet x f.fmtA) (fmtGet x f.fmtW),
    r = (j.row, j.col, (dotEntry (mmStart x free f j.row j.col) j.pairs f.accExp.toInt).1) := by
  unfold mmResults
  dsimp only
  rw [List.map_map, List.mem_map]
  simp only [Function.comp, mmStart, eq_comm]

/-- Each entry the command computes holds its result. -/
theorem accWrite_written (hwf : f.wf = true) {q r n row col : Nat} {ps : List (Dec × Dec)} {acc : List (Nat × A88)} (hw : mmWritten x i f q r n)
    (he : isEntry x i f (fmtGet x f.fmtA) (fmtGet x f.fmtW) q r n row col ps) :
    ((accWrite acc f.abank (mmResults x free i f).1).find? (fun e => e.1 == accKey f.abank row col)).map (fun e => e.2) =
      some (dotEntry (mmStart x free f row col) ps f.accExp.toInt).1 := by
  obtain ⟨j, hj, hrow, hcol⟩ := mem_of_written hw he
  refine find_accWrite_mem ⟨_, mem_mmResults.2 ⟨j, hj, rfl⟩, by dsimp only; rw [hrow, hcol]⟩ ?_
  intro r' hr' hk
  obtain ⟨j', hj', rfl⟩ := mem_mmResults.1 hr'
  obtain ⟨q', r', n', hw', he'⟩ := isEntry_of_mem hj'
  have hb := isEntry_bounds hwf hw he
  have hb' := isEntry_bounds hwf hw' he'
  obtain ⟨-, h1, h2⟩ := accKey_inj hb'.1 hb'.2 hb.1 hb.2 hk
  rw [h1, h2] at he' ⊢
  rw [isEntry_unique hwf hw hw' he he']

/-- Every other entry stays. -/
theorem accWrite_other (hwf : f.wf = true) {bank : BitVec 1} {row col : Nat} {acc : List (Nat × A88)} (hr : row < 64) (hc : col < 128)
    (h : ∀ q r n ps, mmWritten x i f q r n → bank = f.abank → ¬isEntry x i f (fmtGet x f.fmtA) (fmtGet x f.fmtW) q r n row col ps) :
    (accWrite acc f.abank (mmResults x free i f).1).find? (fun e => e.1 == accKey bank row col) = acc.find? (fun e => e.1 == accKey bank row col) := by
  refine find_accWrite_other (fun r' hr' hk => ?_)
  obtain ⟨j', hj', rfl⟩ := mem_mmResults.1 hr'
  obtain ⟨q', r', n', hw', he'⟩ := isEntry_of_mem hj'
  have hb' := isEntry_bounds hwf hw' he'
  obtain ⟨hbank, h1, h2⟩ := accKey_inj hb'.1 hb'.2 hr hc hk
  rw [h1, h2] at he'
  exact h q' r' n' _ hw' hbank.symm he'

end results

/-! ### MM -/

section mm
variable (s : State) (i : Iss) (f : MmF)

/-- It computes: it runs, and an entry is enabled. -/
def mmWorks : Bool := runs s i && !mmZeroShape (coreOf s i.core) i f

/-- Its tiles. -/
def mmFinished : List (Nat × Tile) := if mmWorks s i f then tilesOf (coreOf s i.core) s.dp.free i f else zeroTilesOf (coreOf s i.core) f

/-- The effects on their way: releases, tiles to the queue, rows. -/
def mmLandings : List (Nat × Landing) :=
  let entered := if f.dst = 1 then (mmFinished s i f).map (fun u => (u.1, Landing.tile i.core u.2)) else []
  if mmWorks s i f then releases i.core f ++ entered ++ (if f.dst = 2 ∧ mmWorks s i f = true then tilesLanding s.dp i.core f.addr.toNat (mmFinished s i f) else [])
  else entered ++ releases i.core f

/-- The flags of the tiles it stores. -/
def mmTileFlags : NFlags :=
  flagsAll ((tileGroups f).map (fun g => (groupTiles (coreOf s i.core) f f.accExp.toInt (tileValues (mmResults (coreOf s i.core) s.dp.free i f).1 g)).2))

/-- Its flags: those of its entries, and those of the tiles it stores. -/
def mmFlags : NFlags :=
  (mmResults (coreOf s i.core) s.dp.free i f).2.or (if f.dst = 0 then .none else mmTileFlags s i f)

/-- The ME while the array works on the command. -/
def meBusyWith (x : Me) (n : Nat) (f : MmF) : Me :=
  { x with busyCyc := x.busyCyc + BitVec.ofNat 32 (mmPasses f * (mmSegs f * mmColsN f)),
           runs := x.runs.filter (fun r => decide (n < r.2)) ++ [(n + 16, n + 16 + mmOccupancy f + 72)],
           arrayIdle := max x.arrayIdle (n + 16 + mmOccupancy f + 72) }

/-- The core while it works. -/
def mmCoreOf : Core :=
  { (coreOf s i.core).pop .me with
    me := { meBusyWith (coreOf s i.core).me s.dp.cycle f with
      acc := accWrite (coreOf s i.core).me.acc f.abank (mmResults (coreOf s i.core) s.dp.free i f).1 } }

variable {s i f}

theorem mmFinished_eq (hw : mmWorks s i f = true) : mmFinished s i f = tilesOf (coreOf s i.core) s.dp.free i f := by
  unfold mmFinished
  rw [if_pos hw]

theorem tilesLanding_freed (n : Nat) (c : BitVec 3) (ts : List (Nat × Tile)) (o : Nat) : tilesLanding (freed s n).dp c o ts = tilesLanding s.dp c o ts := by
  induction ts generalizing o with
  | nil => rfl
  | cons u us ih =>
    unfold tilesLanding
    dsimp only
    rw [ih]
    rfl

/-- The array takes up the command. -/
theorem Doing.meBusy {c : BitVec 3} {q : Queue} {y : Core} {l : List (Nat × Landing)} {w : Work} (h : Doing s c q y l w) (f : MmF) :
    Doing s c q { y with me := meBusyWith y.me s.dp.cycle f } l (w.meBusy f) := by
  have := h.modMe (fun c => { c with me := meBusyWith c.me w.d.cycle f })
  rw [h.cycle] at this
  unfold Work.meBusy
  rw [h.cycle]
  exact this

/-- A command that computes nothing sends its zero tiles and releases. -/
theorem effMm_idle (hw : mmWorks s i f = false) :
    Doing s i.core .me ((coreOf s i.core).pop .me) (mmLandings s i f) (effMm i f (runs s i) (workOf s i.core .me false)) := by
  have h0 := doing_start s i.core .me
  have hz : mmZeroShape ((coreOf s i.core).pop .me) i f = mmZeroShape (coreOf s i.core) i f := rfl
  have hg : zeroGroup ((coreOf s i.core).pop .me) f = zeroGroup (coreOf s i.core) f := rfl
  unfold effMm mmLandings mmFinished
  dsimp only
  rw [h0.me, hz, hg, if_pos (show (!runs s i || mmZeroShape (coreOf s i.core) i f) = true by
    unfold mmWorks at hw
    cases hr : runs s i <;> simp_all)]
  simp only [hw, Bool.false_eq_true, if_false]
  by_cases hd : f.dst = 1
  · rw [if_pos hd, if_pos hd]
    exact (h0.tilesEnter _).mmRelease f
  · rw [if_neg hd, if_neg hd]
    exact h0.mmRelease f

/-- A command that computes writes its entries, releases, and finishes its tiles. -/
theorem effMm_works (hw : mmWorks s i f = true) (hwf : f.wf = true)
    (hth : f.dst = 2 → rowsThere s.dp i.core false f.addr.toNat ((mmFinished s i f).map (fun u => rowsFor (tileRows u.2).length)).sum = true) :
    Doing (freed s (s.dp.free + 16384)) i.core .me (withFlags s i.core .me (mmFlags s i f) (mmCoreOf s i f)) (mmLandings s i f)
      (effMm i f (runs s i) (workOf s i.core .me false)) := by
  have h0 := doing_start s i.core .me
  have hz : mmZeroShape ((coreOf s i.core).pop .me) i f = mmZeroShape (coreOf s i.core) i f := rfl
  have hres : mmResults ((coreOf s i.core).pop .me) = mmResults (coreOf s i.core) := rfl
  have hgroup : groupTiles ((coreOf s i.core).pop .me) = groupTiles (coreOf s i.core) := rfl
  have hdst : f.dst = 0 ∨ f.dst = 1 ∨ f.dst = 2 := by
    have := (mmCols_of_wf hwf).2.1
    revert this
    generalize f.dst = d
    revert d
    decide
  have h1 := h0.meBusy f
  have h3 := (((h1.withFree (s.dp.free + 16384)).modMe (fun c => { c with me := { c.me with
    acc := accWrite c.me.acc f.abank (mmResults (coreOf s i.core) s.dp.free i f).1 } })).mmRelease f).raise (mmResults (coreOf s i.core) s.dp.free i f).2
  unfold effMm mmLandings
  dsimp only
  rw [h0.me, hz, hres, hgroup, if_neg (show ¬(!runs s i || mmZeroShape (coreOf s i.core) i f) = true by
    unfold mmWorks at hw
    cases hr : runs s i <;> simp_all), if_pos hw]
  rw [show ((workOf s i.core .me false).meBusy f).d.free = s.dp.free by rw [h1.d]; rfl]
  unfold mmFlags
  rcases hdst with hd | hd | hd
  · rw [if_pos hd, if_pos hd, if_neg (show ¬f.dst = 1 by rw [hd]; decide), if_neg (show ¬(f.dst = 2 ∧ mmWorks s i f = true) by rw [hd]; exact fun h => absurd h.1 (by decide)),
      NFlags.or_none, List.append_nil, List.append_nil]
    exact h3
  · have h4 := h3.raise (mmTileFlags s i f)
    rw [withFlags_withFlags] at h4
    rw [if_neg (show ¬f.dst = 0 by rw [hd]; decide), if_neg (show ¬f.dst = 0 by rw [hd]; decide), if_pos hd, if_pos hd,
      if_neg (show ¬(f.dst = 2 ∧ mmWorks s i f = true) by rw [hd]; exact fun h => absurd h.1 (by decide)), List.append_nil, mmFinished_eq hw, List.map_map, List.flatMap_map]
    exact h4.tilesEnter (tilesOf (coreOf s i.core) s.dp.free i f)
  · have h4 := h3.raise (mmTileFlags s i f)
    rw [withFlags_withFlags] at h4
    have h5 := h4.writeTiles (by decide) (sameBounds_withFlags _ rfl) (mmFinished s i f) (hth hd)
    rw [tilesLanding_freed, mmFinished_eq hw] at h5
    rw [if_neg (show ¬f.dst = 0 by rw [hd]; decide), if_neg (show ¬f.dst = 0 by rw [hd]; decide), if_neg (show ¬f.dst = 1 by rw [hd]; decide),
      if_neg (show ¬f.dst = 1 by rw [hd]; decide), if_pos (show f.dst = 2 ∧ mmWorks s i f = true from ⟨hd, hw⟩), List.append_nil, List.map_map, List.flatMap_map, mmFinished_eq hw]
    exact h5

/-- The core that MM leaves. -/
def mmAfter (s : State) (i : Iss) (f : MmF) : Core := flagged s i.core .me (mmWorks s i f) (mmFlags s i f)
  (if mmWorks s i f then mmCoreOf s i f else (coreOf s i.core).pop .me)

/-- The engine's record as MM leaves it. -/
def mmMe (s : State) (i : Iss) (f : MmF) : Me :=
  if mmWorks s i f then { meBusyWith (coreOf s i.core).me s.dp.cycle f with
    acc := accWrite (coreOf s i.core).me.acc f.abank (mmResults (coreOf s i.core) s.dp.free i f).1 } else (coreOf s i.core).me

/-- MM changes the engine's record and the flags of its core. -/
theorem mmAfter_keep : mmAfter s i f = { (coreOf s i.core).pop .me with
    nflag := (mmAfter s i f).nflag, nflagNew := (mmAfter s i f).nflagNew, nflagCyc := (mmAfter s i f).nflagCyc,
    nflagHeld := (mmAfter s i f).nflagHeld, me := mmMe s i f } := by
  unfold mmAfter mmMe
  rw [flagged_keep]
  split_ifs <;> rfl

theorem effMm_doing (hwf : f.wf = true) (hth : f.dst = 2 → mmWorks s i f = true →
      rowsThere s.dp i.core false f.addr.toNat ((mmFinished s i f).map (fun u => rowsFor (tileRows u.2).length)).sum = true) :
    ∃ n, Doing (freed s n) i.core .me (mmAfter s i f) (mmLandings s i f) (effMm i f (runs s i) (workOf s i.core .me false)) := by
  unfold mmAfter
  cases hw : mmWorks s i f with
  | false => exact ⟨s.dp.free, effMm_idle hw⟩
  | true => exact ⟨_, effMm_works hw hwf (fun hd => hth hd hw)⟩

theorem wf_of_dueNow {c : Instr} {q : Queue} (h : dueNow s c i q = true) : c.wf = true := by
  unfold dueNow at h
  simp only [Bool.and_eq_true] at h
  exact h.1.1.1.1.1.2

end mm

/-- Settles O27. -/
theorem matrixCommandAccumulates : Obligations.MatrixCommandAccumulates := by
  unfold Obligations.MatrixCommandAccumulates
  intro s i f hdue x sa sw works pairs start tiles n entered stored written col hth
  have hwf : f.wf = true := by
    have := wf_of_dueNow hdue
    rw [Instr.wf, Bool.and_eq_true] at this
    exact this.2
  have hworks : works = mmWorks s i f := rfl
  obtain ⟨n, hdoing⟩ := effMm_doing (s := s) (i := i) hwf hth
  obtain ⟨t, p, hx, hside, hdp, hcore⟩ := exec_doing_freed (keep := keepMe) (rfl : exec (.mm i f) s = issueEngine (.mm i f) i .me (effMm i f) s) hdue hdoing
    (by rw [mmAfter_keep]; rfl) (fun p => by rw [mmAfter_keep]; rfl)
  have hme : (coreOf t i.core).me = mmMe s i f := by rw [hcore, mmAfter_keep]
  have hentry : ∀ bank row k, accEntry (coreOf t i.core) bank row k =
      ((mmMe s i f).acc.find? (fun e => e.1 == accKey bank row k)).map (fun e => e.2) := by
    intro bank row k
    rw [accEntry, hme]
  have hwrite : ∀ {q r n row k ps}, written q r n → isEntry x i f sa sw q r n row k ps →
      accEntry (coreOf t i.core) f.abank row k = some (dotEntry (start row k) ps f.accExp.toInt).1 := by
    rintro q r n row k ps ⟨hq, hr, hn, hw, hrow⟩ he
    rw [hentry, mmMe, if_pos (hworks ▸ hw)]
    exact accWrite_written hwf ⟨hq, hr, hn, hrow⟩ he
  refine ⟨t, hx, hside, ?_, ?_, ?_, ?_, ?_, ?_, ?_, ?_⟩
  · exact hdp
  · rw [hme, mmMe]
    split_ifs <;> rfl
  · rw [hme, mmMe, hworks]
    cases mmWorks s i f
    · exact (BitVec.add_zero _).symm
    · rfl
  · intro q r n hw h4 hc
    exact hwrite hw ⟨rfl, .inl ⟨h4, hc, rfl, rfl⟩⟩
  · intro r n hw h4 hc
    have hrow : r = subRow f.shape.toNat 0 + r := by rw [h4]; exact (Nat.zero_add r).symm
    exact hwrite hw ⟨hrow, .inr (.inl ⟨h4, hc, rfl, rfl⟩)⟩
  · intro r n hw h4 hc
    have hrow : r = subRow f.shape.toNat 0 + r := by rw [h4]; exact (Nat.zero_add r).symm
    exact hwrite hw ⟨hrow, .inr (.inr ⟨h4, hc, rfl, rfl⟩)⟩
  · intro bank row k hr hk hother
    rw [hentry, mmMe]
    split_ifs with hw
    · rw [accWrite_other hwf hr hk, accEntry]
      rintro q r n ps ⟨hq, hr, hn, hrow⟩ hb ⟨hrow', he⟩
      obtain ⟨h1, h2⟩ := hother q r n ⟨hq, hr, hn, hworks.trans hw, hrow⟩ hb
      rcases he with ⟨-, hc, hcol, -⟩ | ⟨-, hc, hcol, -⟩ | ⟨h4, hc, hcol, -⟩
      · exact h1 hc ⟨hrow', hcol⟩
      · exact h1 hc ⟨hrow', hcol⟩
      · exact h2 h4 hc ⟨hrow', hcol⟩
    · rfl
  · exact flagsRaised_flagged hcore (by split_ifs <;> rfl) (by split_ifs <;> rfl)

end Sys2Proof.Machine
end

section
/-!
DMOVE (R258, R430) between rows of a state buffer that is not in its canonical form (log 5): what a write leaves of it depends on its order.
-/
namespace Sys2Proof.Machine
-- one proof after the other: the check compiles one text, and its memory holds few threads
set_option Elab.async false
open Sys2Proof.Safety

/-! ### A move over a state buffer out of order -/

/-- A move of rows 0 to 4 of the state buffer to its rows 5 to 9: row 4 is read in the cycle in which row 5 has landed. -/
def bufferMove : DmoveF := { sl := 1, dl := 1, sadr := 0, dadr := 5, nrows1 := 4, fmtS := 0, fmtD := 0, cflg := 0, bcnt1 := 0, bss := 0, bds := 0 }

/-- It issues on core 0. -/
def bufferIss : Iss := ⟨0, ⟨0, 0, false, 0, false⟩, 0⟩

/-- The cell of byte 5000 stands before that of byte 2048, the first byte of row 4: a read of row 4 meets the former and takes zeros. A write of
row 5 sorts the cells below it before those above it: a read of row 4 finds the 1. -/
def bufferUnsorted : Mem := [(5000, 1), (2048, 1)]

/-- A core that computes tick 1, with the move next in its DE queue. -/
def bufferCore : Core :=
  { coreReset with
    run := .computing, tick := 1, se := { seReset with buf := bufferUnsorted },
    queues := vset coreReset.queues (queueIndex .de)
      { engqReset with cmds := (encodeCmd (.dmove bufferIss bufferMove)).toList, blocks := [(1, 1)], got := true } }

/-- The device with that core and its clock running. -/
def bufferState : State :=
  { State.reset with
    pwr := { pwrReset with aclkRun := true, aclkHalf := false },
    fwr := { fwrReset with pending := false, fw := { fwrReset.fw with level := 2 } },
    sec := { secReset with idShown := true },
    dp := { dpReset with cores := vset dpReset.cores 0 bufferCore } }

theorem bufferMove_due : dueNow bufferState (.dmove bufferIss bufferMove) bufferIss .de = true := by decide +kernel

theorem bufferMove_places {k : Nat} (hk : k < 5) : srcPlace bufferState bufferIss (dmoveJob bufferMove) 0 k = some (.se k) ∧
    dstPlace bufferState bufferIss (dmoveJob bufferMove) 0 k = some (.se (k + 5)) := by
  interval_cases k <;> decide +kernel

theorem bufferMove_reads : batchReads bufferState bufferIss (dmoveJob bufferMove) 0 = [0, 1, 2, 3, 4] ∧
    (batchWrites bufferState bufferIss (dmoveJob bufferMove) 0).map (fun w => w.1) = [0, 1, 2, 3, 4] := by decide +kernel

/-- The move reads rows 0 to 4 and writes rows 5 to 9. -/
theorem bufferMove_plain : movesPlainly bufferState bufferIss (dmoveJob bufferMove) := by
  have hwrite : ∀ w ∈ batchWrites bufferState bufferIss (dmoveJob bufferMove) 0, w.1 < 5 := by
    intro w hw
    have hmem := List.mem_map_of_mem (f := fun w : Nat × Nat × List Byte => w.1) hw
    rw [bufferMove_reads.2] at hmem
    simp only [List.mem_cons, List.not_mem_nil, or_false] at hmem
    omega
  intro b hb
  obtain rfl : b = 0 := Nat.lt_one_iff.1 hb
  refine ⟨fun k hk => ?_, fun w hw => ⟨_, (bufferMove_places (hwrite w hw)).2, rfl⟩⟩
  rw [bufferMove_reads.1] at hk
  simp only [List.mem_cons, List.not_mem_nil, or_false] at hk
  have hk : k < 5 := by omega
  refine ⟨_, (bufferMove_places hk).1, rfl, fun b' hb' w hw => ?_⟩
  obtain rfl : b' = 0 := Nat.lt_one_iff.1 hb'
  rw [(bufferMove_places (hwrite w hw)).2]
  intro he
  injection he with he
  injection he with he
  omega

/-- The first byte that the fifth effect on its way leaves in a state buffer. -/
def fifthByte (l : List (Nat × Landing)) : Option Byte :=
  match l[4]?.map (fun x : Nat × Landing => x.2) with
  | some (Landing.sbuf _ [(_, b :: _)]) => some b
  | _ => none

/-- The move takes a 1 from row 4. -/
theorem bufferMove_moves {t : State} (h : exec (.dmove bufferIss bufferMove) bufferState = .next t) : fifthByte t.dp.landings = some 1 := by
  have hrun : (match exec (.dmove bufferIss bufferMove) bufferState with | .next t => fifthByte t.dp.landings | _ => none) = some 1 := by decide +kernel
  rwa [h] at hrun

/-- At the issue the row holds zeros. -/
theorem bufferMove_seen (l : List (Nat × Landing)) :
    fifthByte (moveLandings bufferState bufferIss (dmoveJob bufferMove) ++ l) = some 0 := by
  have hlen : (moveLandings bufferState bufferIss (dmoveJob bufferMove)).length = 5 := by decide +kernel
  have hbyte : fifthByte (moveLandings bufferState bufferIss (dmoveJob bufferMove)) = some 0 := by decide +kernel
  unfold fifthByte at hbyte ⊢
  rw [List.getElem?_append_left (by rw [hlen]; decide)]
  exact hbyte

/-- Refutes O29: the statement is for every state, also one whose state buffer is not in its canonical form (log 5). There a row that lands
while the move goes on changes what a later read of the move finds in another row, so the bytes sent are not those of the issue. -/
theorem not_movesCopyRows : ¬Obligations.MovesCopyRows := by
  unfold Obligations.MovesCopyRows
  rintro ⟨h, -⟩
  obtain ⟨t, hx, -, honly, -⟩ := h bufferState (.dmove bufferIss bufferMove) bufferIss (dmoveJob bufferMove) (.inl ⟨bufferMove, rfl, rfl⟩)
    bufferMove_due (fun _ => bufferMove_plain)
  have hl := congrArg Dp.landings honly
  have hrun : runs bufferState bufferIss = true := by decide +kernel
  have hnone : bufferState.dp.landings = [] := rfl
  dsimp only at hl
  rw [if_pos hrun, hnone, List.nil_append, List.append_assoc] at hl
  have hbyte := bufferMove_moves hx
  rw [hl, bufferMove_seen] at hbyte
  exact absurd hbyte (by decide)

end Sys2Proof.Machine
end

section
/-!
DMEM (R46, R229, R235, R257, R404, R429): what it takes from local rows, and what its completion lands.
-/
namespace Sys2Proof.Machine
-- one proof after the other: the check compiles one text, and its memory holds few threads
set_option Elab.async false
open Sys2Proof.Safety

variable {s t : State} {c : BitVec 3} {q : Queue} {y : Core} {l : List (Nat × Landing)} {w : Work} {i : Iss}

/-! ### The rows of a span -/

/-- Row j of n rows of a level is read in its cycle where it is enabled. -/
def spanRead (d : Dp) (c : BitVec 3) (adr : BitVec 18) (k0 from_ t n : Nat) (en : Nat → Bool) : List (Option (List Byte)) :=
  (List.range n).map (fun j => if en (from_ + j) then some (rowAt d c (adrOrch adr) (adrOff adr + (k0 + j)) (t + (from_ + j))) else none)

theorem spanRead_succ (d : Dp) (adr : BitVec 18) (k0 from_ t n : Nat) (en : Nat → Bool) : spanRead d c adr k0 from_ t (n + 1) en =
    (if en from_ then some (rowAt d c (adrOrch adr) (adrOff adr + k0) (t + from_)) else none) :: spanRead d c adr (k0 + 1) (from_ + 1) t n en := by
  unfold spanRead
  rw [List.range_succ_eq_map, List.map_cons, List.map_map]
  refine congrArg₂ _ rfl (List.map_congr_left (fun j _ => ?_))
  simp only [Function.comp, Nat.succ_eq_add_one, show from_ + (j + 1) = from_ + 1 + j by omega, show k0 + (j + 1) = k0 + 1 + j by omega]

theorem Doing.readSpan (h : Doing s c q y [] w) (hb : SameBounds y (coreOf s c)) {adr : BitVec 18} {en : Nat → Bool} (n : Nat) {k0 from_ t : Nat}
    (hcl : ∀ j < n, en (from_ + j) = true → Safety.cleanRow s.dp c (adrOrch adr) (adrOff adr + (k0 + j)) (t + (from_ + j)) = true) :
    w.readSpan 0 adr (k0 : Int) en from_ t n = (spanRead s.dp c adr k0 from_ t n en, w) := by
  induction n generalizing k0 from_ with
  | zero => rfl
  | succ n ih =>
    have hrest := ih (k0 := k0 + 1) (from_ := from_ + 1) (fun j hj he => by
      have := hcl (j + 1) (by omega)
      rw [show from_ + (j + 1) = from_ + 1 + j by omega, show k0 + (j + 1) = k0 + 1 + j by omega] at this
      exact this he)
    rw [Nat.cast_add, Nat.cast_one] at hrest
    rw [spanRead_succ]
    unfold Work.readSpan
    cases he : en from_ with
    | false =>
      rw [if_neg (by decide), if_neg (by decide)]
      dsimp only
      rw [hrest]
    | true =>
      rw [if_pos rfl, if_pos rfl, h.readLoc (k := k0) (n := t + from_) hb (hcl 0 (by omega) he)]
      dsimp only
      rw [hrest]

/-- The bytes of a span, a row left out as zeros. -/
theorem joinRows_spanRead (d : Dp) (adr : BitVec 18) (k0 from_ t n : Nat) (en : Nat → Bool) : joinRows (spanRead d c adr k0 from_ t n en) =
    (List.range n).flatMap (fun j => if en (from_ + j) then rowAt d c (adrOrch adr) (adrOff adr + (k0 + j)) (t + (from_ + j)) else List.replicate 512 0) := by
  unfold joinRows spanRead
  rw [List.flatMap_map]
  refine List.flatMap_congr (fun j _ => ?_)
  cases en (from_ + j) with
  | false => rfl
  | true => exact padTo_of_length (rowAt_length ..)

/-! ### Conversions of the same rows -/

theorem convRows_congr (sf df : FmtSel) (slot : Bool) {en en' : Nat → Bool} {n : Nat} (h : ∀ k < n, en k = en' k) (elems scales : List Byte) :
    convRows sf df slot en n elems scales = convRows sf df slot en' n elems scales := by
  have hlive : liveElems sf en n elems scales = liveElems sf en' n elems scales := by
    unfold liveElems
    refine List.map_congr_left (fun k hk => ?_)
    rw [h _ (Nat.div_lt_of_lt_mul (by rw [Nat.mul_comm]; exact List.mem_range.1 hk))]
  unfold convRows
  rw [hlive]

/-- A row of a reference is a device row. -/
theorem placeOf_zero (d : Dp) (c : BitVec 3) (adr : BitVec 18) (k : Nat) :
    Safety.placeOf d c 0 adr (k : Int) = (refRow d c (adrOrch adr) (adrOff adr + k)).map .dev := by
  unfold Safety.placeOf
  rw [if_neg (by decide), if_neg (by decide), if_pos (by omega), show ((adrOff adr : Int) + (k : Int)).toNat = adrOff adr + k by omega]

/-! ### What a write takes -/

section out
variable (s i) (f : DmemF)

/-- Row k of the transfer is enabled. -/
def dmemOn (k : Nat) : Bool := rowOn (coreOf s i.core) i.hdr.mask i.pkt (k % 64)

variable {s i f}

theorem mem_rowsOn {k : Nat} : k ∈ rowsOn s i (dmemJob f) 0 ↔ k < f.nrows1.toNat + 1 ∧ dmemOn s i k = true := by
  simp [rowsOn, dmemJob, dmemOn]

theorem contains_rowsOn {k : Nat} (hk : k < f.nrows1.toNat + 1) : (rowsOn s i (dmemJob f) 0).contains k = dmemOn s i k := by
  rw [Bool.eq_iff_iff, List.contains_iff_mem, mem_rowsOn]
  exact and_iff_right hk

/-- A row that is read is one that a reference finds. -/
theorem srcRow_dmemJob {k : Nat} (h : ∃ p, srcPlace s i (dmemJob f) 0 k = some p ∧ placeChecks s.dp i.core k p = true) :
    cleanRow s.dp i.core (adrOrch f.ladr) (adrOff f.ladr + k) k = true ∧
      srcRow s i (dmemJob f) 0 k = rowAt s.dp i.core (adrOrch f.ladr) (adrOff f.ladr + k) k := by
  obtain ⟨p, hp, hc⟩ := h
  have hplace : srcPlace s i (dmemJob f) 0 k = (refRow s.dp i.core (adrOrch f.ladr) (adrOff f.ladr + k)).map .dev := by
    rw [← placeOf_zero, show ((k : Int)) = 0 + ((0 : Nat) : Int) * 0 + k by omega]
    rfl
  have hcyc : readCycle s i (dmemJob f) 0 k = k := by simp [readCycle]
  unfold srcRow cleanRow rowAt
  rw [hcyc, hp]
  rw [hplace] at hp
  obtain ⟨row, hrow, rfl⟩ := Option.map_eq_some_iff.1 hp
  rw [hrow]
  exact ⟨hc, rfl⟩

/-- The rows of the elements, then those of the scales. -/
theorem mem_batchReads (hon : rowsOn s i (dmemJob f) 0 ≠ []) {k : Nat} : k ∈ batchReads s i (dmemJob f) 0 ↔
    (k < f.nrows1.toNat + 1 ∧ dmemOn s i k = true) ∨ ∃ j < scaleRowsIn (coreOf s i.core) (dmemJob f), f.nrows1.toNat + 1 + j = k := by
  unfold batchReads
  dsimp only
  rw [if_neg (by simpa using hon), List.mem_append, mem_rowsOn, List.mem_map]
  simp [dmemJob]

section reads
variable (hon : rowsOn s i (dmemJob f) 0 ≠ [])
  (hcl : ∀ k ∈ batchReads s i (dmemJob f) 0, ∃ p, srcPlace s i (dmemJob f) 0 k = some p ∧ placeChecks s.dp i.core k p = true)
include hon hcl

theorem srcElems_dmemJob : srcElems s i (dmemJob f) 0 = joinRows (spanRead s.dp i.core f.ladr 0 0 0 (f.nrows1.toNat + 1) (dmemOn s i)) := by
  rw [joinRows_spanRead]
  unfold srcElems
  refine List.flatMap_congr (fun k hk => ?_)
  have hk := List.mem_range.1 hk
  rw [contains_rowsOn hk, Nat.zero_add]
  cases he : dmemOn s i k with
  | false => rfl
  | true =>
    rw [if_pos rfl, if_pos rfl, (srcRow_dmemJob (hcl k ((mem_batchReads hon).2 (.inl ⟨hk, he⟩)))).2]
    simp only [Nat.zero_add]

theorem srcScales_dmemJob : srcScales s i (dmemJob f) 0 =
    joinRows (spanRead s.dp i.core f.ladr (f.nrows1.toNat + 1) 0 (f.nrows1.toNat + 1) (scaleRowsIn (coreOf s i.core) (dmemJob f)) (fun _ => true)) := by
  rw [joinRows_spanRead]
  unfold srcScales
  refine List.flatMap_congr (fun k hk => ?_)
  rw [if_pos rfl, Nat.zero_add]
  exact (srcRow_dmemJob (hcl _ ((mem_batchReads hon).2 (.inr ⟨k, List.mem_range.1 hk, rfl⟩)))).2

end reads

/-- The bytes a write sends. -/
def dmemBytes (s : State) (i : Iss) (f : DmemF) : List Byte :=
  if needsConv (coreOf s i.core) f.fmtS f.fmtD then
    padTo (512 * destRows (fmtGet (coreOf s i.core) f.fmtS) (fmtGet (coreOf s i.core) f.fmtD) (f.nrows1.toNat + 1)) (converted s i (dmemJob f) 0).1 ++
      padTo (512 * rowsFor (converted s i (dmemJob f) 0).2.1.length) (converted s i (dmemJob f) 0).2.1
  else srcElems s i (dmemJob f) 0 ++ srcScales s i (dmemJob f) 0

theorem dmemOut_doing (h : Doing s i.core .de ((coreOf s i.core).pop .de) [] w) (hon : rowsOn s i (dmemJob f) 0 ≠ [])
    (hcl : ∀ k ∈ batchReads s i (dmemJob f) 0, ∃ p, srcPlace s i (dmemJob f) 0 k = some p ∧ placeChecks s.dp i.core k p = true) :
    (w.dmemOut (dmemOn s i) f).1 = dmemBytes s i f ∧
      Doing s i.core .de (flagged s i.core .de (needsConv (coreOf s i.core) f.fmtS f.fmtD) (converted s i (dmemJob f) 0).2.2 ((coreOf s i.core).pop .de)) []
        (w.dmemOut (dmemOn s i) f).2 := by
  have helem := h.readSpan (k0 := 0) (from_ := 0) (t := 0) (adr := f.ladr) (en := dmemOn s i) rfl (f.nrows1.toNat + 1) (fun k hk he => by
    simp only [Nat.zero_add] at he ⊢
    exact (srcRow_dmemJob (hcl k ((mem_batchReads hon).2 (.inl ⟨hk, he⟩)))).1)
  have hscale := h.readSpan (k0 := f.nrows1.toNat + 1) (from_ := 0) (t := f.nrows1.toNat + 1) (adr := f.ladr) (en := fun _ => true) rfl
    (scaleRowsIn (coreOf s i.core) (dmemJob f)) (fun k hk _ => by
      rw [Nat.zero_add]
      exact (srcRow_dmemJob (hcl _ ((mem_batchReads hon).2 (.inr ⟨k, hk, rfl⟩)))).1)
  have hconv : converted s i (dmemJob f) 0 = convRows (fmtGet (coreOf s i.core) f.fmtS) (fmtGet (coreOf s i.core) f.fmtD) false (dmemOn s i)
      (f.nrows1.toNat + 1) (srcElems s i (dmemJob f) 0) (srcScales s i (dmemJob f) 0) :=
    convRows_congr _ _ _ (fun k hk => contains_rowsOn hk) _ _
  have hneeds : needsConv ((coreOf s i.core).pop .de) f.fmtS f.fmtD = needsConv (coreOf s i.core) f.fmtS f.fmtD := rfl
  have hfmt : fmtGet ((coreOf s i.core).pop .de) = fmtGet (coreOf s i.core) := rfl
  have hspan : spanRowsOf ((coreOf s i.core).pop .de) f.fmtS f.fmtD = spanRowsOf (coreOf s i.core) f.fmtS f.fmtD := rfl
  rw [Nat.cast_zero] at helem
  unfold Work.dmemOut dmemBytes
  dsimp only
  rw [helem]
  dsimp only
  rw [h.me, hneeds, hfmt, hspan]
  cases hn : needsConv (coreOf s i.core) f.fmtS f.fmtD with
  | true =>
    have hsr : scaleRowsIn (coreOf s i.core) (dmemJob f) =
        scaleRowsOf (fmtGet (coreOf s i.core) f.fmtS) ((f.nrows1.toNat + 1) * (fmtGet (coreOf s i.core) f.fmtS).op.fmt.perRow) := if_pos hn
    rw [if_pos rfl, if_pos rfl, ← hsr, hscale]
    dsimp only
    rw [← srcElems_dmemJob hon hcl, ← srcScales_dmemJob hon hcl, ← hconv]
    exact ⟨rfl, h.raise _⟩
  | false =>
    have hsr : (spanRowsOf (coreOf s i.core) f.fmtS f.fmtD (f.nrows1.toNat + 1)).1 - (f.nrows1.toNat + 1) = scaleRowsIn (coreOf s i.core) (dmemJob f) := by
      unfold spanRowsOf scaleRowsIn dmemJob
      dsimp only
      simp only [hn, Bool.false_eq_true, if_false]
      split_ifs
      · exact Nat.add_sub_cancel_left ..
      · exact Nat.sub_self _
    rw [if_neg (by decide), if_neg (by decide), hsr, hscale]
    dsimp only
    rw [← srcElems_dmemJob hon hcl, ← srcScales_dmemJob hon hcl]
    exact ⟨rfl, h⟩

end out

/-! ### The issue -/

/-- A meter does not look at cores and effects. -/
theorem meterOffer_frame (d : Dp) (cs : Vector Core (2 ^ 3)) (ls : List (Nat × Landing)) (m : BitVec 4) (n : Nat) (e : Bool) :
    meterOffer { d with cores := cs, landings := ls } m n e =
      ((meterOffer d m n e).1, { (meterOffer d m n e).2 with cores := cs, landings := ls }) := by
  unfold meterOffer
  dsimp only
  split_ifs <;> rfl

section offer
variable (m : BitVec 4) (n : Nat) (e : Bool)

/-- A unit offered to a meter before the command. -/
def offered (s : State) : State := { s with dp := (meterOffer s.dp m n e).2 }

/-- A meter's record and the tickets are all that an offer changes. -/
theorem offered_eq (s : State) : offered m n e s =
    { s with dp := { s.dp with meters := (meterOffer s.dp m n e).2.meters, tickets := (meterOffer s.dp m n e).2.tickets } } := by
  unfold offered
  refine congrArg (fun d => ({ s with dp := d } : State)) ?_
  unfold meterOffer
  dsimp only
  split_ifs <;> rfl

theorem Doing.offer (h : Doing s c q y l w) : (meterOffer w.d m n e).1 = (meterOffer s.dp m n e).1 ∧
    Doing (offered m n e s) c q y l { w with d := (meterOffer w.d m n e).2 } := by
  have hm : meterOffer w.d m n e = ((meterOffer s.dp m n e).1, { (meterOffer s.dp m n e).2 with
      cores := vset s.dp.cores c y, landings := s.dp.landings ++ l }) := by
    rw [h.d]
    exact meterOffer_frame s.dp _ _ m n e
  rw [hm, offered_eq]
  refine ⟨rfl, ?_, h.core, h.queue, h.tick, h.spec, h.pit, h.areas, h.late, h.reps⟩
  have hdp := congrArg State.dp (offered_eq m n e s)
  dsimp only [offered] at hdp ⊢
  rw [hdp]
  rfl

end offer

/-- What the issue leaves of a command that has changed the datapath of u, as it stood before, beside its core and its effects. -/
theorem exec_doing_from {u : State} {ins : Instr} {eff : Bool → Work → Work} (hexec : exec ins s = issueEngine ins i q eff s)
    (hdue : dueNow s ins i q = true) (hw : Doing u i.core q y l (eff (runs s i) (workOf s i.core q false)))
    (hy : y.cpWait = (coreOf s i.core).cpWait) :
    ∃ t p, exec ins s = .next t ∧ sameBeside s t ∧
      t.dp = { u.dp.setCore i.core { y with pktEnds := p } with landings := u.dp.landings ++ l } ∧ coreOf t i.core = { y with pktEnds := p } := by
  obtain ⟨hissue, hearly, hcp⟩ := issueEngine_of_dueNow hdue eff
  have hme : vget (eff (runs s i) (workOf s i.core q false)).d.cores i.core = y := by
    have := hw.me
    rwa [Work.me, hw.core] at this
  obtain ⟨hside, hdp⟩ := issueNow_plain s i q false eff hearly _ rfl hw.late hw.reps (by rw [hme, hy, hcp])
  obtain ⟨p, hp⟩ := exists_pktEnds (eff (runs s i) (workOf s i.core q false)).d i.core ((eff (runs s i) (workOf s i.core q false)).endsIn s.dp.landings.length)
    (eff (runs s i) (workOf s i.core q false)).tick i.pkt
    (s.dp.cycle + (eff (runs s i) (workOf s i.core q false)).endsIn s.dp.landings.length)
  rw [hp, hw.d] at hdp
  have hdp' : (issueNow s i q false eff).dp = { u.dp.setCore i.core { y with pktEnds := p } with landings := u.dp.landings ++ l } := by
    simpa [Dp.modCore, Dp.setCore] using hdp
  refine ⟨_, p, hexec.trans hissue, hside, hdp', ?_⟩
  rw [coreOf, hdp']
  exact vget_vset_same ..

/-- An issue that sends a completion alone leaves the marks of its packet's writes. -/
theorem exec_deEnds {ins : Instr} {eff : Bool → Work → Work} (hexec : exec ins s = issueEngine ins i .de eff s) (hdue : dueNow s ins i .de = true)
    {n : Nat} {b : BitVec 7} (hw : eff (runs s i) (workOf s i.core .de false) = (workOf s i.core .de false).deEnds n b) :
    ∃ t, exec ins s = .next t ∧ sameBeside s t ∧ t.dp = (popped s i.core .de).landIn n (.deDone i.core b) := by
  obtain ⟨hissue, hearly, hcp⟩ := issueEngine_of_dueNow hdue eff
  have hdo := (doing_start s i.core .de).deEnds n b
  obtain ⟨hside, hdp⟩ := issueNow_plain s i .de false eff hearly _ hw hdo.late hdo.reps (by
    have := hdo.me
    rw [Work.me, hdo.core] at this
    rw [this]
    exact hcp)
  have hends : ((workOf s i.core .de false).deEnds n b).endsIn s.dp.landings.length = 0 := by
    unfold Work.endsIn
    rw [hdo.d]
    dsimp only
    rw [List.drop_left]
    rfl
  rw [hends, if_pos rfl] at hdp
  exact ⟨_, hexec.trans hissue, hside, hdp⟩

/-! ### DMEM at its issue -/

section dmem
variable (s i) (f : DmemF)

/-- The offer of the transfer to its port's meter. -/
def dmemOffer : Option Nat × Dp :=
  meterOffer s.dp (8 + f.port.zeroExtend 4) (512 * dmemRows (coreOf s i.core) f (dmemOn s i) (f.nrows1.toNat + 1)) (inEarly s i.core)

/-- The transfer. -/
def dmemXfer : DmemXfer :=
  { port := f.port, dir := f.dir, mrow := f.mrow, ladr := f.ladr, nrows := f.nrows1.toNat + 1, fmtS := f.fmtS, fmtD := f.fmtD, cflg := f.cflg,
    rows := (List.range 64).foldl (fun (v : W64) k => setBit v k (dmemOn s i k)) 0,
    data := if f.dir = 1 then dmemBytes s i f else [], ticket := (dmemOffer s i f).1, tick := (coreOf s i.core).tick, pkt := i.pkt }

/-- A write in transit is converted. -/
def dmemConv : Bool := decide (f.dir = 1) && needsConv (coreOf s i.core) f.fmtS f.fmtD

variable {s i f}

theorem any_dmemOn : (List.range (f.nrows1.toNat + 1)).any (dmemOn s i) = true ↔ rowsOn s i (dmemJob f) 0 ≠ [] := by
  rw [Ne, List.eq_nil_iff_forall_not_mem, not_forall, List.any_eq_true]
  simp only [not_not, mem_rowsOn, List.mem_range]

/-- What the transfer takes along: the bytes of a write. -/
theorem dmemTaken (h : Doing s i.core .de ((coreOf s i.core).pop .de) [] w) (hon : rowsOn s i (dmemJob f) 0 ≠ [])
    (hcl : f.dir = 1 → ∀ k ∈ batchReads s i (dmemJob f) 0, ∃ p, srcPlace s i (dmemJob f) 0 k = some p ∧ placeChecks s.dp i.core k p = true) :
    (if f.dir = 1 then w.dmemOut (dmemOn s i) f else ([], w)).1 = (dmemXfer s i f).data ∧
      Doing s i.core .de (flagged s i.core .de (dmemConv s i f) (converted s i (dmemJob f) 0).2.2 ((coreOf s i.core).pop .de)) []
        (if f.dir = 1 then w.dmemOut (dmemOn s i) f else ([], w)).2 := by
  unfold dmemXfer dmemConv
  by_cases hd : f.dir = 1
  · rw [if_pos hd, decide_eq_true hd, Bool.true_and]
    dsimp only
    rw [if_pos hd]
    exact dmemOut_doing h hon (hcl hd)
  · rw [if_neg hd, decide_eq_false hd, Bool.false_and]
    dsimp only
    rw [if_neg hd]
    exact ⟨rfl, h⟩

/-- The transfer joins the core's outstanding ones. -/
theorem effDmem_doing (hr : runs s i = true) (hon : rowsOn s i (dmemJob f) 0 ≠ [])
    (hcl : f.dir = 1 → ∀ k ∈ batchReads s i (dmemJob f) 0, ∃ p, srcPlace s i (dmemJob f) 0 k = some p ∧ placeChecks s.dp i.core k p = true) :
    Doing { s with dp := (dmemOffer s i f).2 } i.core .de
      { flagged s i.core .de (dmemConv s i f) (converted s i (dmemJob f) 0).2.2 ((coreOf s i.core).pop .de) with
        dmem := (coreOf s i.core).dmem ++ [dmemXfer s i f] } [] (effDmem i f (runs s i) (workOf s i.core .de false)) := by
  have h0 := doing_start s i.core .de
  have hrows : dmemRows ((coreOf s i.core).pop .de) f = dmemRows (coreOf s i.core) f := rfl
  obtain ⟨hdata, h1⟩ := dmemTaken h0 hon hcl
  obtain ⟨hticket, h2⟩ := h1.offer (8 + f.port.zeroExtend 4) (512 * dmemRows (coreOf s i.core) f (dmemOn s i) (f.nrows1.toNat + 1)) (inEarly s i.core)
  have h3 := h2.modMe (fun c => { c with dmem := c.dmem ++ [dmemXfer s i f] })
  rw [flagged_keep] at h3
  unfold effDmem
  dsimp only
  rw [h0.me, hrows, hr, show (fun k => deRowOn ((coreOf s i.core).pop .de) i k) = dmemOn s i from rfl, if_neg (by rw [any_dmemOn.2 hon]; decide)]
  rw [hdata, show (workOf s i.core .de false).early = inEarly s i.core from rfl, hticket, flagged_keep]
  exact h3

end dmem

end Sys2Proof.Machine
end

section
/-!
DMEM_COMPLETE (R23, R101, R235, R257, R404, R429): rows that land, rows left in external memory, and a bad response.
-/
namespace Sys2Proof.Machine
-- one proof after the other: the check compiles one text, and its memory holds few threads
set_option Elab.async false
open Sys2Proof.Safety

variable {s t : State} {c : BitVec 3} {w : Work}

/-! ### Rows of a span written at once -/

/-- The enabled rows of a byte string, with their numbers. -/
def spanList (en : Nat → Bool) (from_ : Nat) (data : List Byte) (n : Nat) : List (Nat × List Byte) :=
  ((List.range n).filter (fun j => en (from_ + j))).map (fun j => (from_ + j, (data.drop (512 * j)).take 512))

theorem spanList_succ (en : Nat → Bool) (from_ : Nat) (data : List Byte) (n : Nat) : spanList en from_ data (n + 1) =
    (if en from_ then [(from_, data.take 512)] else []) ++ spanList en (from_ + 1) (data.drop 512) n := by
  unfold spanList
  rw [List.range_succ_eq_map, List.filter_cons, List.filter_map, Nat.add_zero]
  have hrest : List.map (fun j => (from_ + j, (data.drop (512 * j)).take 512)) (List.map Nat.succ
        (List.filter ((fun j => en (from_ + j)) ∘ Nat.succ) (List.range n))) =
      ((List.range n).filter (fun j => en (from_ + 1 + j))).map (fun j => (from_ + 1 + j, ((data.drop 512).drop (512 * j)).take 512)) := by
    rw [List.map_map, show ((fun j => en (from_ + j)) ∘ Nat.succ) = fun j => en (from_ + 1 + j) from funext fun j => by
      rw [Function.comp, Nat.succ_eq_add_one, Nat.add_right_comm, Nat.add_assoc]]
    refine List.map_congr_left (fun j _ => ?_)
    simp only [Function.comp, Nat.succ_eq_add_one, List.drop_drop, show from_ + (j + 1) = from_ + 1 + j by omega, Nat.mul_add, Nat.mul_one,
      Nat.add_comm (512 * j)]
  cases en from_ with
  | false => exact hrest
  | true => exact congrArg ((from_, data.take 512) :: ·) hrest

/-- Rows of a level, as effects on their way. -/
def landed (d : Dp) (c : BitVec 3) (adr : BitVec 18) (rows : List (Nat × List Byte)) : List (Nat × Landing) :=
  rows.flatMap (fun y => match Safety.placeOf d c 0 adr (y.1 : Int) with | some p => placeLanding d c 0 y.2 p | none => [])

theorem landed_append (d : Dp) (c : BitVec 3) (adr : BitVec 18) (a b : List (Nat × List Byte)) :
    landed d c adr (a ++ b) = landed d c adr a ++ landed d c adr b := List.flatMap_append

/-- A write of the DE that lands in its cycle is not too late for its tick's pit (R23). -/
def soonEnough (w : Work) (row : Nat) : Bool := !w.inArea row || (match w.pitIn with | some p => decide (0 < p) | none => true)

/-- The row of a number is there, and its write is in time. -/
def landsAt (w : Work) (d : Dp) (c : BitVec 3) (adr : BitVec 18) (k : Nat) : Prop :=
  ∃ row, refRow d c (adrOrch adr) (adrOff adr + k) = some row ∧ soonEnough w row = true

/-- A work with more effects on their way, up to some cycle. -/
def Work.sent (w : Work) (l : List (Nat × Landing)) (e : Nat) : Work := { w with d := { w.d with landings := w.d.landings ++ l }, ends := e }

theorem Work.sent_twice (w : Work) (l m : List (Nat × Landing)) (e e' : Nat) : (w.sent l e).sent m e' = w.sent (l ++ m) e' := by
  unfold Work.sent
  rw [List.append_assoc]

theorem writeLoc_lands {d : Dp} {adr : BitVec 18} {k : Nat} (hc : w.core = c) (href : ∀ o, refRow w.d c (adrOrch adr) o = refRow d c (adrOrch adr) o)
    (hacc : accessAt w.d = accessAt d) (h : landsAt w d c adr k) (data : List Byte) :
    ∃ e, w.writeLoc 0 adr (k : Int) data 0 = w.sent (landed d c adr [(k, data)]) e := by
  obtain ⟨row, hrow, hin⟩ := h
  have hland : landed d c adr [(k, data)] = [(accessAt d c row 0 + 1, .row row data)] := by
    unfold landed
    rw [List.flatMap_cons, List.flatMap_nil, List.append_nil, placeOf_zero, hrow]
    rfl
  unfold Work.writeLoc moveOff
  rw [if_neg (by decide), if_neg (by decide), if_pos (by omega)]
  dsimp only
  rw [show ((adrOff adr : Int) + (k : Int)).toNat = adrOff adr + k by omega]
  unfold Work.writeRef
  rw [hc, href, hrow]
  dsimp only
  rw [if_neg]
  · refine ⟨max w.ends (0 + 1), ?_⟩
    unfold Work.sent Dp.rowLands
    rw [hland, hacc, ← hc]
  · unfold soonEnough at hin
    cases ha : w.inArea row with
    | false => simp
    | true =>
      rw [ha] at hin
      cases hp : w.pitIn with
      | none => simp
      | some p =>
        rw [hp] at hin
        have : 0 < p := by simpa using hin
        simp
        omega

theorem writeSpan_lands {d : Dp} {adr : BitVec 18} {en : Nat → Bool} (n : Nat) {from_ : Nat} {data : List Byte} (hc : w.core = c)
    (href : ∀ o, refRow w.d c (adrOrch adr) o = refRow d c (adrOrch adr) o) (hacc : accessAt w.d = accessAt d)
    (h : ∀ y ∈ spanList en from_ data n, landsAt w d c adr y.1) :
    ∃ e, w.writeSpan 0 adr (from_ : Int) en from_ (fun _ => 0) data n = w.sent (landed d c adr (spanList en from_ data n)) e := by
  induction n generalizing w from_ data with
  | zero =>
    refine ⟨w.ends, ?_⟩
    rw [show landed d c adr (spanList en from_ data 0) = [] from rfl]
    unfold Work.sent
    rw [List.append_nil]
    rfl
  | succ n ih =>
    rw [spanList_succ] at h ⊢
    have hstep : ∃ e, (if en from_ then w.writeLoc 0 adr (from_ : Int) (data.take rowBytes) 0 else w) =
        w.sent (landed d c adr (if en from_ then [(from_, data.take 512)] else [])) e := by
      cases he : en from_ with
      | false => exact ⟨w.ends, by
          rw [if_neg (by decide), if_neg (by decide), show landed d c adr [] = [] from rfl]
          unfold Work.sent
          rw [List.append_nil]⟩
      | true => exact writeLoc_lands hc href hacc (h (from_, data.take 512) (List.mem_append_left _ (by rw [he]; exact List.mem_singleton_self _))) _
    obtain ⟨e, he⟩ := hstep
    obtain ⟨e', he'⟩ := ih (w := w.sent (landed d c adr (if en from_ then [(from_, data.take 512)] else [])) e) (from_ := from_ + 1) (data := data.drop 512)
      hc href hacc (fun y hy => h y (List.mem_append_right _ hy))
    refine ⟨e', ?_⟩
    unfold Work.writeSpan
    rw [he, landed_append, ← Work.sent_twice w _ _ e e', ← he', Nat.cast_add, Nat.cast_one]
    rfl

/-! ### Rows left in external memory -/

/-- Of n rows written from row j on, the bytes of those enabled take the string's. -/
theorem memRead_extRows (n : Nat) (m : Mem) (a : Nat) (on : Nat → Bool) (j : Nat) (data : List Byte) (x : Nat) :
    memRead (extRows m a on j data n) x =
      if a + 512 * j ≤ x ∧ x < a + 512 * j + data.length ∧ x < a + 512 * (j + n) ∧ on ((x - a) / 512) = true then byteAt data (x - (a + 512 * j))
      else memRead m x := by
  induction n generalizing m j data with
  | zero => rw [if_neg (by omega)]; rfl
  | succ n ih =>
    unfold extRows
    rw [ih]
    have hbyte : byteAt (data.drop rowBytes) (x - (a + 512 * (j + 1))) = byteAt data (512 + (x - (a + 512 * (j + 1)))) := by
      unfold byteAt
      rw [List.getD_eq_getElem?_getD, List.getD_eq_getElem?_getD, List.getElem?_drop]
      rfl
    have hlen : (data.drop rowBytes).length = data.length - 512 := List.length_drop
    rw [hbyte, hlen]
    by_cases hrow : a + 512 * j ≤ x ∧ x < a + 512 * (j + 1)
    · have hk : (x - a) / 512 = j := by omega
      rw [if_neg (by omega), hk]
      cases hon : on j with
      | true =>
        rw [if_pos rfl, memRead_memWrite_take]
        have hend : x < a + 512 * (j + (n + 1)) ∧ x < a + 512 * j + 512 := by omega
        refine if_congr ?_ rfl rfl
        exact ⟨fun h => ⟨h.1, h.2.1, hend.1, rfl⟩, fun h => ⟨h.1, h.2.1, hend.2⟩⟩
      | false => rw [if_neg (by decide), if_neg (fun h => absurd h.2.2.2 (by decide))]
    · have hm : memRead (if on j = true then memWrite m (a + rowBytes * j) (data.take rowBytes) else m) x = memRead m x := by
        split
        · rw [memRead_memWrite_take, if_neg]
          unfold rowBytes
          omega
        · rfl
      rw [hm]
      by_cases hx : a + 512 * (j + 1) ≤ x
      · rw [show x - (a + 512 * j) = 512 + (x - (a + 512 * (j + 1))) by omega]
        refine if_congr ?_ rfl rfl
        constructor
        · rintro ⟨h1, h2, h3, h4⟩
          exact ⟨by omega, by omega, by omega, h4⟩
        · rintro ⟨h1, h2, h3, h4⟩
          exact ⟨by omega, by omega, by omega, h4⟩
      · rw [if_neg (by omega), if_neg (by omega)]

/-! ### Rows that a read lands -/

section dmemIn
variable {x : DmemXfer} {data : List Byte}

/-- Where the formats call for a conversion its flags are raised. -/
def Work.raiseIf (w : Work) (b : Bool) (fl : NFlags) : Work := if b then w.raise fl else w

theorem spanList_zero (en : Nat → Bool) (data : List Byte) (n : Nat) :
    spanList en 0 data n = ((List.range n).filter en).map (fun k => (k, (data.drop (512 * k)).take 512)) := by
  unfold spanList
  simp only [Nat.zero_add]

theorem spanList_all (m : Nat) (data : List Byte) (n : Nat) :
    spanList (fun _ => true) m data n = (List.range n).map (fun k => (m + k, (data.drop (512 * k)).take 512)) := by
  unfold spanList
  rw [List.filter_true]

/-- The rows of a read, as they are or converted, are on their way. -/
theorem dmemIn_lands {d : Dp} (hc : w.core = c) (href : ∀ o, refRow w.d c (adrOrch x.ladr) o = refRow d c (adrOrch x.ladr) o) (hacc : accessAt w.d = accessAt d)
    (h : ∀ y ∈ (dmemRowsIn w.me x data).1, landsAt w d c x.ladr y.1) :
    ∃ e, w.dmemIn x data = (w.sent (landed d c x.ladr (dmemRowsIn w.me x data).1) e).raiseIf (needsConv w.me x.fmtS x.fmtD) (dmemRowsIn w.me x data).2 := by
  unfold Work.dmemIn Work.raiseIf
  unfold dmemRowsIn at h ⊢
  cases hn : needsConv w.me x.fmtS x.fmtD with
  | false =>
    simp only [hn, Bool.false_eq_true, if_false, ← spanList_zero] at h ⊢
    exact writeSpan_lands _ hc href hacc h
  | true =>
    simp only [hn, if_true, ← spanList_zero] at h ⊢
    obtain ⟨e, he⟩ := writeSpan_lands _ hc href hacc (fun y hy => h y (List.mem_append_left _ hy))
    by_cases hb : (fmtGet w.me x.fmtD).op.blk = 0
    · rw [if_pos hb, if_pos hb, List.append_nil]
      exact ⟨e, congrArg (Work.raise · _) he⟩
    · rw [if_neg hb] at h ⊢
      rw [← spanList_all] at h
      rw [if_neg hb, ← spanList_all]
      obtain ⟨e', he'⟩ := writeSpan_lands (w := w.sent _ e) (d := d) (adr := x.ladr) _ hc href hacc (fun y hy => h y (List.mem_append_right _ hy))
      refine ⟨e', congrArg (Work.raise · _) ?_⟩
      rw [landed_append, ← Work.sent_twice w _ _ e e', ← he']
      exact congrArg (Work.writeSpan · _ _ _ _ _ _ _ _) he

end dmemIn

/-! ### DMEM_COMPLETE -/

/-- What a completion leaves that writes no row too late. -/
theorem exec_dmemComplete {resp : BitVec 2} {data : List Byte} (hw : effDmemComplete resp data (dmemWork s c) = w) (hl : w.lateRows = []) :
    ∃ p, exec (.dmemComplete c resp data) s = .next (takeReports { s with dp := w.d.modCore c (fun x => { x with pktEnds := p }) } w.reps) := by
  obtain ⟨p, hp⟩ := exists_pktEnds w.d c (w.endsIn s.dp.landings.length) w.tick (dmemPkt s c) (s.dp.cycle + w.endsIn s.dp.landings.length)
  refine ⟨p, ?_⟩
  rw [show exec (.dmemComplete c resp data) s = execDmemComplete c resp data s from rfl]
  unfold execDmemComplete
  dsimp only
  rw [hw, dropLate_nil _ _ hl, hl, lateWrites_nil, hp]

/-- Flags that a command of tick k raises in its core's record. -/
def tickFlags (s : State) (k : W64) (fl : NFlags) (x : Core) : Core :=
  if specTick s k then { x with nflagHeld := holdFlags k (nflagBits .de fl) x.nflagHeld } else x.setNflag (nflagBits .de fl) s.dp.cycle

theorem tickFlags_keep (s : State) (k : W64) (fl : NFlags) (x : Core) : tickFlags s k fl x =
    { x with nflag := (tickFlags s k fl x).nflag, nflagNew := (tickFlags s k fl x).nflagNew, nflagCyc := (tickFlags s k fl x).nflagCyc,
             nflagHeld := (tickFlags s k fl x).nflagHeld } := by
  unfold tickFlags
  split <;> rfl

theorem flagsOfTick_tickFlags {k : W64} {b : Bool} {fl : NFlags} {y : Core} {p : List (W64 × Nat × Nat)}
    (ht : coreOf t c = { (if b then tickFlags s k fl y else y) with pktEnds := p })
    (hn : y.nflag = (coreOf s c).nflag) (hh : y.nflagHeld = (coreOf s c).nflagHeld) : flagsOfTick s t c .de k (if b then fl else .none) := by
  unfold flagsOfTick
  rw [ht]
  cases b with
  | true =>
    simp only [if_true]
    unfold tickFlags
    split_ifs <;> simp [Core.setNflag, hn, hh]
  | false => simp [holdFlags, nflagBits_none, hn, hh]

section complete
variable {x : DmemXfer} {rest : List DmemXfer} (htake : takeDmem s.dp (coreOf s c).dmem = some (x, rest))

/-- The core with its transfer taken. -/
def dmemRest (s : State) (c : BitVec 3) (rest : List DmemXfer) : Core := { coreOf s c with dmem := rest }

/-- The work of the completion, its transfer taken. -/
def dmemTook (s : State) (c : BitVec 3) (x : DmemXfer) (rest : List DmemXfer) : Work :=
  { eventWork s c .de with tick := x.tick, pitIn := pitOfTick s x.tick, spec := specTick s x.tick, d := s.dp.setCore c (dmemRest s c rest) }

theorem dmemTook_me : (dmemTook s c x rest).me = dmemRest s c rest := vget_vset_same ..

include htake

theorem effDmemComplete_eq (resp : BitVec 2) (data : List Byte) : effDmemComplete resp data (dmemWork s c) =
    (if 2 ≤ resp.toNat then (dmemTook s c x rest).report (memRespReport c x resp)
      else if x.dir = 0 then (dmemTook s c x rest).dmemIn x data
      else { dmemTook s c x rest with d := { (dmemTook s c x rest).d with
        ext := extRows s.dp.ext (512 * x.mrow.toNat) (destOn (coreOf s c) x.fmtS x.fmtD x.on x.nrows) 0 x.data (rowsFor x.data.length) } }).deEnds 1 x.cflg := by
  have hwork : dmemWork s c = { eventWork s c .de with tick := x.tick, pitIn := pitOfTick s x.tick, spec := specTick s x.tick } := by
    unfold dmemWork
    rw [show takeDmem s.dp (vget s.dp.cores c).dmem = some (x, rest) from htake]
  rw [hwork]
  unfold effDmemComplete
  dsimp only
  rw [show takeDmem (eventWork s c .de).d (Work.me { eventWork s c .de with tick := x.tick, pitIn := pitOfTick s x.tick, spec := specTick s x.tick }).dmem =
    some (x, rest) from htake]
  dsimp only
  have hdest : destOn (Work.me (dmemTook s c x rest)) = destOn (coreOf s c) := by
    rw [dmemTook_me]
    rfl
  split_ifs
  · rfl
  · rfl
  · rw [← hdest]
    rfl

/-- A read with OKAY lands its rows. -/
theorem dmem_read (hd : x.dir = 0) {data : List Byte}
    (hin : ∀ y ∈ (dmemRowsIn (coreOf s c) x data).1, ∃ p, Safety.placeOf s.dp c 0 x.ladr (y.1 : Int) = some p ∧ inTime s c (pitOfTick s x.tick) 0 p = true) :
    ∃ p, exec (.dmemComplete c 0 data) s = .next { s with dp := { s.dp.setCore c { (if needsConv (coreOf s c) x.fmtS x.fmtD then
          tickFlags s x.tick (dmemRowsIn (coreOf s c) x data).2 (dmemRest s c rest) else dmemRest s c rest) with pktEnds := p } with
        landings := s.dp.landings ++ landed s.dp c x.ladr (dmemRowsIn (coreOf s c) x data).1 ++ [(1, .deDone c x.cflg)] } } := by
  have hrows : dmemRowsIn (dmemTook s c x rest).me x data = dmemRowsIn (coreOf s c) x data := by
    rw [dmemTook_me]
    rfl
  have hneeds : needsConv (dmemTook s c x rest).me x.fmtS x.fmtD = needsConv (coreOf s c) x.fmtS x.fmtD := by
    rw [dmemTook_me]
    rfl
  obtain ⟨e, he⟩ := dmemIn_lands (w := dmemTook s c x rest) (c := c) (d := s.dp) (x := x) (data := data) rfl
    (fun o => refRow_setCore (y := dmemRest s c rest) rfl c _ o) rfl (by
      intro y hy
      rw [hrows] at hy
      obtain ⟨p, hp, ht⟩ := hin y hy
      rw [placeOf_zero] at hp
      obtain ⟨row, hrow, rfl⟩ := Option.map_eq_some_iff.1 hp
      exact ⟨row, hrow, ht⟩)
  rw [hrows, hneeds] at he
  obtain ⟨p, hp⟩ := exec_dmemComplete (effDmemComplete_eq htake 0 data) (by
    rw [if_neg (by decide), if_pos hd, he]
    unfold Work.raiseIf
    split <;> rfl)
  refine ⟨p, hp.trans ?_⟩
  rw [if_neg (by decide), if_pos hd, he]
  unfold Work.raiseIf
  cases needsConv (coreOf s c) x.fmtS x.fmtD with
  | false =>
    simp [Work.sent, Work.deEnds, Dp.landIn, dmemTook, Dp.modCore, Dp.setCore, eventWork]
  | true =>
    simp [Work.sent, Work.deEnds, Dp.landIn, dmemTook, Dp.modCore, Dp.setCore, eventWork, Work.raise, Work.modMe, tickFlags]

/-- A write with OKAY leaves its rows in external memory. -/
theorem dmem_write (hd : x.dir ≠ 0) (data : List Byte) :
    ∃ p, exec (.dmemComplete c 0 data) s = .next { s with dp := { s.dp.setCore c { dmemRest s c rest with pktEnds := p } with
      ext := extRows s.dp.ext (512 * x.mrow.toNat) (destOn (coreOf s c) x.fmtS x.fmtD x.on x.nrows) 0 x.data (rowsFor x.data.length)
      landings := s.dp.landings ++ [(1, .deDone c x.cflg)] } } := by
  obtain ⟨p, hp⟩ := exec_dmemComplete (effDmemComplete_eq htake 0 data) (by
    rw [if_neg (by decide), if_neg hd]
    rfl)
  refine ⟨p, hp.trans ?_⟩
  rw [if_neg (by decide), if_neg hd]
  simp [Work.deEnds, Dp.landIn, dmemTook, Dp.modCore, Dp.setCore, eventWork]

/-- A bad response lands nothing and is reported. -/
theorem dmem_fault {resp : BitVec 2} (hr : 2 ≤ resp.toNat) (data : List Byte) :
    ∃ p, exec (.dmemComplete c resp data) s = .next (takeReport { s with dp := { s.dp.setCore c { dmemRest s c rest with pktEnds := p } with
      landings := s.dp.landings ++ [(1, .deDone c x.cflg)] } } (memRespReport c x resp)) := by
  obtain ⟨p, hp⟩ := exec_dmemComplete (effDmemComplete_eq htake resp data) (by
    rw [if_pos hr]
    rfl)
  refine ⟨p, hp.trans ?_⟩
  rw [if_pos hr]
  simp [Work.report, Work.deEnds, Dp.landIn, dmemTook, Dp.modCore, Dp.setCore, eventWork]

end complete

/-! ### The clauses of O32 -/

theorem coreOf_completed (s : State) (c : BitVec 3) (z : Core) (e : Mem) (l : List (Nat × Landing)) :
    coreOf { s with dp := { s.dp.setCore c z with ext := e, landings := l } } c = z := vget_vset_same ..

/-- Rows that are not converted raise no flags. -/
theorem dmemRowsIn_flags (z : Core) (x : DmemXfer) (data : List Byte) :
    (if needsConv z x.fmtS x.fmtD then (dmemRowsIn z x data).2 else .none) = (dmemRowsIn z x data).2 := by
  split
  · rfl
  · next h =>
    unfold dmemRowsIn
    rw [if_neg h]

theorem dmem_read_flags {x : DmemXfer} {data : List Byte} {rest : List DmemXfer} {p : List (W64 × Nat × Nat)}
    (ht : coreOf t c = { (if needsConv (coreOf s c) x.fmtS x.fmtD then tickFlags s x.tick (dmemRowsIn (coreOf s c) x data).2 (dmemRest s c rest)
      else dmemRest s c rest) with pktEnds := p }) : flagsOfTick s t c .de x.tick (dmemRowsIn (coreOf s c) x data).2 := by
  rw [← dmemRowsIn_flags]
  exact flagsOfTick_tickFlags ht rfl rfl

/-- The bytes of external memory after a write, in the words of the rule. -/
theorem memRead_dmem_write (m : Mem) (row : Nat) (on : Nat → Bool) (data : List Byte) (a : Nat) {dir : BitVec 1} (hd : dir = 1) :
    memRead (extRows m (512 * row) on 0 data (rowsFor data.length)) a =
      if dir = 1 ∧ row ≤ a / 512 ∧ 512 * (a / 512 - row) + a % 512 < data.length ∧ on (a / 512 - row) = true
      then byteAt data (512 * (a / 512 - row) + a % 512) else memRead m a := by
  have hall : data.length ≤ 512 * rowsFor data.length := by
    unfold rowsFor rowBytes
    omega
  rw [memRead_extRows]
  by_cases hrow : row ≤ a / 512
  · have h1 : a - (512 * row + 512 * 0) = 512 * (a / 512 - row) + a % 512 := by omega
    have h2 : (a - 512 * row) / 512 = a / 512 - row := by omega
    rw [h1, h2]
    refine if_congr ?_ rfl rfl
    constructor
    · rintro ⟨h3, h4, h5, h6⟩
      exact ⟨hd, hrow, by omega, h6⟩
    · rintro ⟨-, h3, h4, h5⟩
      exact ⟨by omega, by omega, by omega, h5⟩
  · rw [if_neg (by omega), if_neg (fun h => hrow h.2.1)]

section issue
variable {i : Iss} {f : DmemF}

theorem dmem_issues (hdue : dueNow s (.dmem i f) i .de = true) (hr : runs s i = true) (hon : rowsOn s i (dmemJob f) 0 ≠ [])
    (hcl : f.dir = 1 → ∀ k ∈ batchReads s i (dmemJob f) 0, ∃ p, srcPlace s i (dmemJob f) 0 k = some p ∧ placeChecks s.dp i.core k p = true) :
    ∃ t, exec (.dmem i f) s = .next t ∧ sameBeside s t ∧
      t.dp = { (dmemOffer s i f).2.setCore i.core { keepFlags (coreOf t i.core) ((coreOf s i.core).pop .de) with
        dmem := (coreOf s i.core).dmem ++ [dmemXfer s i f] } with landings := s.dp.landings } ∧
      flagsRaised s t i.core .de (if f.dir = 1 ∧ needsConv (coreOf s i.core) f.fmtS f.fmtD = true then (converted s i (dmemJob f) 0).2.2 else .none) := by
  have hland : (dmemOffer s i f).2.landings = s.dp.landings := (congrArg Dp.landings (meterOffer_dp s.dp _ _ _) :)
  obtain ⟨t, p, hx, hside, hdp, hcore⟩ := exec_doing_from (rfl : exec (.dmem i f) s = issueEngine (.dmem i f) i .de (effDmem i f) s) hdue
    (effDmem_doing hr hon hcl) (by rw [flagged_keep]; rfl)
  rw [List.append_nil] at hdp
  refine ⟨t, hx, hside, ?_, ?_⟩
  · rw [hdp, hcore, flagged_keep]
    dsimp only
    rw [hland]
    rfl
  · have hflags := flagsRaised_flagged (y := { (coreOf s i.core).pop .de with dmem := (coreOf s i.core).dmem ++ [dmemXfer s i f] })
      (b := dmemConv s i f) (fl := (converted s i (dmemJob f) 0).2.2) (q := .de) (p := p) (t := t) (c := i.core) (s := s)
      (by rw [hcore]; unfold flagged withFlags; split_ifs <;> rfl) rfl rfl
    unfold dmemConv at hflags
    simpa only [Bool.and_eq_true, decide_eq_true_eq] using hflags

theorem dmem_skips (hdue : dueNow s (.dmem i f) i .de = true) (h : runs s i = false ∨ rowsOn s i (dmemJob f) 0 = []) :
    ∃ t, exec (.dmem i f) s = .next t ∧ sameBeside s t ∧
      t.dp = (popped s i.core .de).landIn (batchOcc (coreOf s i.core) f.fmtS f.fmtD (f.nrows1.toNat + 1) + 2) (.deDone i.core f.cflg) := by
  refine exec_deEnds (rfl : exec (.dmem i f) s = issueEngine (.dmem i f) i .de (effDmem i f) s) hdue ?_
  have h0 := doing_start s i.core .de
  have hocc : moveOcc ((coreOf s i.core).pop .de) f.fmtS f.fmtD (f.nrows1.toNat + 1) 1 = batchOcc (coreOf s i.core) f.fmtS f.fmtD (f.nrows1.toNat + 1) :=
    Nat.one_mul _
  have hskip : (!runs s i || !(List.range (f.nrows1.toNat + 1)).any (dmemOn s i)) = true := by
    rcases h with h | h
    · rw [h]
      rfl
    · have : (List.range (f.nrows1.toNat + 1)).any (dmemOn s i) = false := Bool.not_eq_true _ ▸ fun ha => any_dmemOn.1 ha h
      rw [this, Bool.not_false, Bool.or_true]
  unfold effDmem
  dsimp only
  rw [h0.me, hocc]
  exact if_pos hskip

end issue

/-- Settles O32. -/
theorem dmemTransfersRows : Obligations.DmemTransfersRows := by
  unfold Obligations.DmemTransfersRows
  refine ⟨?_, fun s i f => dmem_skips, ?_, ?_, ?_⟩
  · intro s i f hdue x j n on hr hon hcl m conv
    obtain ⟨t, hx, hside, hdp, hflags⟩ := dmem_issues hdue hr hon hcl
    refine ⟨t, dmemXfer s i f, hx, hside, hdp, rfl, rfl, rfl, rfl, rfl, rfl, rfl, rfl, rfl, rfl, rfl, ?_, ?_, hflags⟩
    · intro k hk
      unfold dmemXfer
      dsimp only
      rw [getLsbD_foldl_setBit _ _ (fun k hk => List.mem_range.1 hk), if_pos (List.mem_range.2 hk), dmemOn, Nat.mod_eq_of_lt hk]
    · have hdir : f.dir = 0 ∨ f.dir = 1 := by
        generalize f.dir = d
        revert d
        decide
      unfold dmemXfer
      dsimp only
      rcases hdir with hd | hd
      · rw [if_pos hd, if_neg (show ¬f.dir = 1 by rw [hd]; decide)]
      · rw [if_neg (show ¬f.dir = 0 by rw [hd]; decide), if_pos hd]
        rfl
  · intro s c data x rest hwf htake z pit rows hin
    by_cases hd : x.dir = 0
    · have hrows : rows = dmemRowsIn (coreOf s c) x data := if_pos hd
      rw [hrows] at hin ⊢
      obtain ⟨p, hx⟩ := dmem_read htake hd hin
      refine ⟨_, hx, rfl, ?_, ?_, ?_⟩
      · rw [coreOf_completed]
        dsimp only
        split_ifs
        · rw [tickFlags_keep]
          rfl
        · rfl
      · intro a
        exact (if_neg (fun h => absurd (hd.symm.trans h.1) (by decide))).symm
      · exact dmem_read_flags (coreOf_completed ..)
    · have hrows : rows = ([], .none) := if_neg hd
      have hdir : x.dir = 1 := by
        revert hd
        generalize x.dir = d
        revert d
        decide
      rw [hrows]
      obtain ⟨p, hx⟩ := dmem_write htake hd data
      refine ⟨_, hx, rfl, ?_, ?_, ?_⟩
      · rw [coreOf_completed, List.flatMap_nil, List.append_nil]
        rfl
      · intro a
        exact memRead_dmem_write _ _ _ _ _ hdir
      · exact flagsOfTick_tickFlags (s := s) (p := p) (b := false) (y := dmemRest s c rest) (k := x.tick) (fl := .none) (coreOf_completed ..) rfl rfl
  · intro s c resp data x rest hr htake
    obtain ⟨p, hx⟩ := dmem_fault htake hr data
    have hdp := takeReport_dp_same (s := { s with dp := { s.dp.setCore c { dmemRest s c rest with pktEnds := p } with
      landings := s.dp.landings ++ [(1, .deDone c x.cflg)] } }) (r := memRespReport c x resp) (show (0xB : BitVec 4) ≠ 1 by decide) rfl
    refine ⟨_, hx, ?_, ?_, ?_, ?_, ?_⟩
    · rw [coreOf, hdp]
      exact congrArg Core.dmem (vget_vset_same ..)
    · rw [hdp]
      rfl
    · rw [hdp]
      rfl
    · rw [hdp]
    · exact takeReport_cnt _ (memRespReport c x resp) (show (0xB : BitVec 4) ≠ 0 by decide) (show (0xB : BitVec 4) ≠ 1 by decide)
  · intro s c resp data htake
    have heff : effDmemComplete resp data (dmemWork s c) = eventWork s c .de := by
      have hwork : dmemWork s c = eventWork s c .de := by
        unfold dmemWork
        rw [show takeDmem s.dp (vget s.dp.cores c).dmem = none from htake]
      rw [hwork]
      unfold effDmemComplete
      rw [show takeDmem (eventWork s c .de).d (eventWork s c .de).me.dmem = none from htake]
    have hends : (eventWork s c .de).endsIn s.dp.landings.length = 0 := by
      unfold Work.endsIn
      rw [show (eventWork s c .de).d.landings = s.dp.landings from rfl, List.drop_length]
      rfl
    rw [show exec (.dmemComplete c resp data) s = execDmemComplete c resp data s from rfl]
    unfold execDmemComplete
    dsimp only
    rw [heff, dropLate_nil _ _ rfl, hends, if_pos rfl, show (eventWork s c .de).lateRows = [] from rfl, lateWrites_nil]
    rfl

end Sys2Proof.Machine
end

section
/-!
THE SCAN ENGINE AT WORK (R126, R140, R146): what its commands read in their issue cycle, and what they leave as they go.
-/
namespace Sys2Proof.Machine
-- one proof after the other: the check compiles one text, and its memory holds few threads
set_option Elab.async false
open Sys2Proof.Safety

variable {s : State} {c : BitVec 3} {q : Queue} {y : Core} {l : List (Nat × Landing)} {w : Work} {i : Iss}

/-! ### Rows read in the issue cycle -/

/-- Writes that land later do not show in this cycle. -/
theorem rowOnWay_later (d : Dp) {l : List (Nat × Landing)} (h : ∀ x ∈ l, 0 < x.1) (row : Nat) :
    rowOnWay { d with landings := d.landings ++ l } row 0 = rowOnWay d row 0 := by
  unfold rowOnWay
  dsimp only
  rw [List.foldl_append]
  refine congrArg (Option.map _) ?_
  generalize d.landings.foldl _ none = a
  induction l generalizing a with
  | nil => rfl
  | cons x l ih =>
    rw [List.foldl_cons, ih (fun z hz => h z (List.mem_cons_of_mem _ hz))]
    have hx : ¬x.1 ≤ 0 := Nat.not_le.2 (h x List.mem_cons_self)
    cases x.2 <;> simp [hx]

/-- A row of a core's memory is met in the cycle of its request. -/
theorem accessAt_cmRow {d d' : Dp} {k : BitVec 3} {o row : Nat} (h : cmRow d k o = some row) (n : Nat) : accessAt d' k row n = n := by
  unfold cmRow at h
  dsimp only at h
  split at h
  · obtain rfl := Option.some.inj h
    unfold accessAt isOrchard coreRow
    rw [if_neg]
    simp
    omega
  · exact absurd h (by simp)

/-- The rows of the core's memory that check are read as the issue cycle finds them. -/
def SeReads (s : State) (c : BitVec 3) (w : Work) : Prop := ∀ o, cleanRow s.dp c false o 0 = true → w.readRef false o 0 = (rowAt s.dp c false o 0, w)

theorem Doing.seReads (h : Doing s c q y l w) (hb : SameBounds y (coreOf s c)) (hl : ∀ x ∈ l, 0 < x.1) : SeReads s c w := by
  intro o hcl
  have hrow : Machine.refRow w.d w.core false o = Machine.refRow s.dp c false o := by rw [h.core, h.refRow hb]
  unfold Safety.cleanRow at hcl
  unfold Work.readRef Safety.rowAt
  rw [hrow]
  cases hr : Machine.refRow s.dp c false o with
  | none => rw [hr] at hcl; exact absurd hcl (by simp)
  | some row =>
    rw [hr] at hcl
    dsimp only at hcl ⊢
    have hat : ∀ d, Machine.accessAt d c row 0 = 0 := fun d => accessAt_cmRow hr 0
    have hway : rowOnWay w.d row (Machine.accessAt w.d c row 0) = rowOnWay s.dp row (Machine.accessAt s.dp c row 0) := by
      rw [hat, hat, h.d]
      exact rowOnWay_later (s.dp.setCore c y) hl row
    have hmarks : rowMarks w.d row = rowMarks s.dp row := by rw [h.d]; rfl
    have hdata : rowData w.d row = rowData s.dp row := by rw [h.d]; rfl
    have hclean : rowChecks w.d w.core row 0 = true := by
      unfold rowChecks at hcl ⊢
      rw [h.core, hway, hmarks]
      exact hcl
    rw [readDev_clean w row 0 hclean]
    refine Prod.ext ?_ rfl
    unfold Safety.rowSeen
    rw [h.core, hway, hdata] <;> rfl

/-- So are the rows of the device that check, while the command has sent nothing. -/
theorem Doing.readDev (h : Doing s c q y [] w) {row n : Nat} (hcl : rowChecks s.dp c row n = true) : w.readDev row n = (Safety.rowSeen s.dp c row n, w) := by
  obtain ⟨hseen, hchecks⟩ := h.rowSeen c row n
  rw [readDev_clean w row n (by rw [h.core, hchecks]; exact hcl), h.core, hseen]

/-! ### Rows by their offsets -/

/-- Rows of the core's memory as the issue cycle finds them, by their offsets. -/
def rowsBy (d : Dp) (c : BitVec 3) (os : List Nat) : List (Nat × List Byte) := os.map (fun o => (o, rowAt d c false o 0))

/-- A row that is read is found by its offset. -/
theorem rowOf_map {os : List Nat} {o : Nat} (h : o ∈ os) (g : Nat → List Byte) : rowOf (os.map (fun o => (o, g o))) o = g o := by
  unfold rowOf
  rw [List.find?_map]
  cases hf : os.find? ((fun x : Nat × List Byte => x.1 == o) ∘ fun o => (o, g o)) with
  | none => exact absurd (List.find?_eq_none.1 hf o h) (by simp)
  | some a =>
    have := List.find?_some hf
    simp only [Function.comp, beq_iff_eq] at this
    rw [Option.map_some]
    dsimp only
    rw [this]

theorem rowOf_rowsBy {d : Dp} {os : List Nat} {o : Nat} (h : o ∈ os) : rowOf (rowsBy d c os) o = rowAt d c false o 0 := rowOf_map h _

theorem rowTable_eq (d : Dp) (a n : Nat) : rowTable d c a n = rowsBy d c ((List.range n).map (a + ·)) := by
  unfold rowTable rowsBy
  rw [List.map_map]
  rfl

theorem mem_offs {a n k : Nat} (h : k < n) : a + k ∈ (List.range n).map (a + ·) := List.mem_map_of_mem (List.mem_range.2 h)

namespace SeReads

theorem readList (h : SeReads s c w) {os : List Nat} (hcl : offsClean s c os) : w.readList false (atOnce os) = (os.map (fun o => rowAt s.dp c false o 0), w) := by
  induction os with
  | nil => rfl
  | cons o os ih =>
    unfold atOnce at ih ⊢
    rw [List.map_cons]
    unfold Work.readList
    dsimp only
    rw [h o (hcl o List.mem_cons_self)]
    dsimp only
    rw [ih (fun x hx => hcl x (List.mem_cons_of_mem _ hx))]
    rfl

theorem readDistinct (h : SeReads s c w) {os : List Nat} (hcl : offsClean s c os) : w.readDistinct false (atOnce os) = (rowsBy s.dp c os, w) := by
  unfold Work.readDistinct
  rw [h.readList hcl]
  unfold atOnce rowsBy
  dsimp only
  rw [List.map_map, List.zip_map']
  rfl

/-- The rows of elements of an array. -/
theorem fetch (h : SeReads s c w) {a bits : Nat} {es : List Nat} (hcl : ∀ e ∈ es, cleanRow s.dp c false (a + e / (4096 / bits)) 0 = true) :
    w.fetch a bits es = (rowsBy s.dp c (distinct (es.map (fun e => a + e / (4096 / bits)))), w) := by
  refine h.readDistinct (fun o ho => ?_)
  obtain ⟨e, he, rfl⟩ := List.mem_map.1 (mem_distinct.1 ho)
  exact hcl e he

/-- The rows of elements of a formatted array. -/
theorem fetchFmt (h : SeReads s c w) {f : FmtSel} {a n : Nat} {es : List Nat} (hcl : offsClean s c ((spanRows f a (scaleBase f a n) es).1 ++
    (spanRows f a (scaleBase f a n) es).2)) : w.fetchFmt f a n es =
      (rowsBy s.dp c (distinct ((spanRows f a (scaleBase f a n) es).1 ++ (spanRows f a (scaleBase f a n) es).2)), w) :=
  h.readDistinct (fun o ho => hcl o (mem_distinct.1 ho))

end SeReads

/-- An element of an array, in the rows fetched for it or in the whole array's. -/
theorem fetched_rowsBy {d : Dp} {a bits e : Nat} {os : List Nat} (h : a + e / (4096 / bits) ∈ os) :
    fetched (rowsBy d c os) a bits e = elemAt bits (byteAt (rowAt d c false (a + e / (4096 / bits)) 0)) (e % (4096 / bits)) := by
  unfold fetched
  rw [rowOf_rowsBy h]

theorem fetched_eq {d : Dp} {a bits e n : Nat} {es : List Nat} (he : e ∈ es) (hn : e / (4096 / bits) < n) :
    fetched (rowsBy d c (distinct (es.map (fun e => a + e / (4096 / bits))))) a bits e = fetched (rowTable d c a n) a bits e := by
  rw [fetched_rowsBy (mem_distinct.2 (List.mem_map_of_mem (f := fun e => a + e / (4096 / bits)) he)), rowTable_eq, fetched_rowsBy (mem_offs hn)]

theorem div_lt_ceil {e n p : Nat} (hp : 0 < p) (h : e < n) : e / p < (n + p - 1) / p := by
  refine (Nat.le_div_iff_mul_le hp).2 ?_
  have := Nat.div_mul_le_self e p
  rw [Nat.succ_mul]
  omega

/-- A format of a parameter block is none of the reserved ones. -/
theorem spbFmt_blk (e : FmtEntry) : (spbFmt e).op.blk ≠ 7 := by
  unfold spbFmt
  cases h : OpFmt.ofField e.fmt with
  | none => exact (by decide : fmtNone.op.blk ≠ 7)
  | some o =>
    dsimp only
    unfold OpFmt.ofField at h
    dsimp only at h
    split at h
    · exact absurd h (by simp)
    · next hb =>
      obtain rfl := Option.some.inj h
      exact fun h7 => hb (.inl h7)

theorem block_pos {o : OpFmt} {n : Nat} (h7 : o.blk ≠ 7) (h0 : o.blk ≠ 0) (hn : 0 < n) : 0 < o.block n := by
  unfold OpFmt.block
  generalize o.blk = b at *
  have hb : b = 1 ∨ b = 2 ∨ b = 3 ∨ b = 4 ∨ b = 5 ∨ b = 6 := by
    revert h7 h0
    revert b
    decide
  rcases hb with rfl | rfl | rfl | rfl | rfl | rfl
  · exact (by decide : 0 < 8)
  · exact (by decide : 0 < 16)
  · exact (by decide : 0 < 32)
  · exact (by decide : 0 < 64)
  · exact (by decide : 0 < 128)
  · exact hn

/-- The rows of elements of a formatted array lie in it. -/
theorem spanRows_offs {f : FmtSel} (hf : f.op.blk ≠ 7) {a n : Nat} {es : List Nat} (hes : ∀ e ∈ es, e < n) {o : Nat}
    (ho : o ∈ (spanRows f a (scaleBase f a n) es).1 ++ (spanRows f a (scaleBase f a n) es).2) : o ∈ fmtOffs f a n := by
  have hper : 0 < f.op.fmt.perRow := by
    unfold Fmt.perRow
    cases f.op.fmt <;> decide
  unfold fmtOffs rowsOfFmt
  rcases List.mem_append.1 ho with ho | ho
  · obtain ⟨e, he, rfl⟩ := List.mem_map.1 (mem_distinct.1 ho)
    have := div_lt_ceil hper (hes e he)
    exact mem_offs (by omega)
  · unfold spanRows at ho
    dsimp only at ho
    by_cases hb : f.op.blk = 0
    · rw [if_pos hb] at ho
      exact absurd ho List.not_mem_nil
    · rw [if_neg hb] at ho ⊢
      obtain ⟨e, he, rfl⟩ := List.mem_map.1 (mem_distinct.1 ho)
      have hblock : 0 < f.op.block f.op.fmt.perRow := block_pos hf hb hper
      have hmax : max 1 (f.op.block f.op.fmt.perRow) = f.op.block f.op.fmt.perRow := Nat.max_eq_right hblock
      have hlt := div_lt_ceil hblock (hes e he)
      rw [hmax]
      unfold scaleBase rowsOf rowBytes
      rw [Nat.add_assoc]
      exact mem_offs (by omega)

/-- An element of a formatted array, in the rows fetched for it. -/
theorem fetchedFmt_eq {f : FmtSel} {a n e : Nat} {es : List Nat} (he : e ∈ es) :
    fetchedFmt f (rowsBy s.dp c (distinct ((spanRows f a (scaleBase f a n) es).1 ++ (spanRows f a (scaleBase f a n) es).2))) a n e = scanElem s c f a n e := by
  unfold fetchedFmt scanElem spanElem elemSeen
  dsimp only
  rw [rowOf_rowsBy (mem_distinct.2 (List.mem_append_left _ (row_mem_spanRows he)))]
  by_cases hb : f.op.blk = 0
  · rw [if_pos hb, if_pos hb]
  · rw [if_neg hb, if_neg hb, rowOf_rowsBy (mem_distinct.2 (List.mem_append_right _ (scaleRow_mem_spanRows he hb)))]
    rfl

/-! ### What a command leaves as it goes -/

/-- The core y is b, n log-decays clamped more, with flags f raised by the command. -/
structure SeAfter (s : State) (c : BitVec 3) (b : Core) (f : NFlags) (n : Nat) (y : Core) : Prop where
  core : y = { b with se := { b.se with lamClamp := b.se.lamClamp + BitVec.ofNat 32 n }, nflag := y.nflag, nflagNew := y.nflagNew,
                      nflagCyc := y.nflagCyc, nflagHeld := y.nflagHeld }
  flags : if isSpec s c then y.nflag = b.nflag ∧ y.nflagHeld = holdFlags (coreOf s c).tick (nflagBits .se f) b.nflagHeld
    else y.nflag = b.nflag ||| nflagBits .se f ∧ y.nflagHeld = b.nflagHeld

namespace SeAfter
variable {b : Core} {f g : NFlags} {n m : Nat}

theorem refl (s : State) (c : BitVec 3) (b : Core) : SeAfter s c b .none 0 b := by
  refine ⟨?_, ?_⟩
  · rw [BitVec.add_zero]
  · split_ifs <;> simp [nflagBits_none, holdFlags]

/-- What neither flags nor the SE's record enter stays. -/
theorem same {α : Type} (h : SeAfter s c b f n y) (F : Core → α) (hF : ∀ (z : Se) (f1 f2 : W16) (k : Nat) (hd : List (W64 × W16)),
    F { b with se := z, nflag := f1, nflagNew := f2, nflagCyc := k, nflagHeld := hd } = F b) : F y = F b :=
  (congrArg F h.core).trans (hF ..)

theorem buf (h : SeAfter s c b f n y) : y.se.buf = b.se.buf := (congrArg (fun y : Core => y.se.buf) h.core :)

theorem raise (h : SeAfter s c b f n y) (g : NFlags) : SeAfter s c b (f.or g) n (withFlags s c .se g y) := by
  obtain ⟨hcore, hflags⟩ := h
  refine ⟨?_, ?_⟩
  · unfold withFlags
    split_ifs
    · exact congrArg (fun z : Core => { z with nflagHeld := holdFlags (coreOf s c).tick (nflagBits .se g) y.nflagHeld }) hcore
    · exact congrArg (fun z : Core =>
        { z with
          nflag := (y.setNflag (nflagBits .se g) s.dp.cycle).nflag
          nflagNew := (y.setNflag (nflagBits .se g) s.dp.cycle).nflagNew
          nflagCyc := s.dp.cycle }) hcore
  · unfold withFlags
    rw [nflagBits_or]
    split_ifs at hflags ⊢
    · exact ⟨hflags.1, by dsimp only; rw [hflags.2, holdFlags_holdFlags]⟩
    · exact ⟨by rw [← BitVec.or_assoc, ← hflags.1]; rfl, hflags.2⟩

theorem clamp (h : SeAfter s c b f n y) (m : Nat) : SeAfter s c b f (n + m) { y with se := { y.se with lamClamp := y.se.lamClamp + BitVec.ofNat 32 m } } := by
  obtain ⟨hcore, hflags⟩ := h
  refine ⟨?_, hflags⟩
  rw [BitVec.ofNat_add, ← BitVec.add_assoc]
  exact congrArg (fun z : Core => { z with se := { z.se with lamClamp := z.se.lamClamp + BitVec.ofNat 32 m } }) hcore

end SeAfter

/-- A command of the SE at work over the core b. -/
def SeDoing (s : State) (c : BitVec 3) (b : Core) (f : NFlags) (n : Nat) (l : List (Nat × Landing)) (w : Work) : Prop :=
  (∀ x ∈ l, 0 < x.1) ∧ ∃ y, SeAfter s c b f n y ∧ Doing s c .se y l w

namespace SeDoing
variable {b : Core} {f g : NFlags} {n m : Nat}

theorem start (h : Doing s c .se b [] w) : SeDoing s c b .none 0 [] w := ⟨by simp, b, SeAfter.refl s c b, h⟩

theorem raise (h : SeDoing s c b f n l w) (g : NFlags) : SeDoing s c b (f.or g) n l (w.raise g) := by
  obtain ⟨hl, y, hy, hw⟩ := h
  exact ⟨hl, _, hy.raise g, hw.raise g⟩

/-- Codes above 0 are counted and flagged. -/
theorem lamClamp (h : SeDoing s c b f n l w) (m : Nat) :
    SeDoing s c b (f.or { NFlags.none with inv := decide (0 < m) }) (n + m) l (w.lamClamp m) := by
  unfold Work.lamClamp
  by_cases hm : m = 0
  · rw [if_pos hm, hm]
    exact (NFlags.or_none f).symm ▸ h
  · obtain ⟨hl, y, hy, hw⟩ := h
    rw [if_neg hm, decide_eq_true (Nat.pos_of_ne_zero hm)]
    exact ⟨hl, _, (hy.clamp m).raise _, (hw.modMe (fun c => { c with se := { c.se with lamClamp := c.se.lamClamp + BitVec.ofNat 32 m } })).raise _⟩

theorem seReads (h : SeDoing s c b f n l w) (hb : b.cm = (coreOf s c).cm) : SeReads s c w := by
  obtain ⟨hl, y, hy, hw⟩ := h
  refine hw.seReads ?_ hl
  have hcm : y.cm = (coreOf s c).cm := (hy.same Core.cm (fun _ _ _ _ _ => rfl)).trans hb
  unfold SameBounds
  rw [hcm]

/-- Rows of the core's memory are on their way. -/
theorem writeTogether (h : SeDoing s c b f n l w) (hb : b.cm = (coreOf s c).cm) {o k : Nat} (data : List Byte) (land : Nat)
    (hth : rowsThere s.dp c false o k = true) :
    SeDoing s c b f n (l ++ rowsLanding s.dp c false o k data (fun _ => land)) (w.writeTogether false o data land k) := by
  obtain ⟨hl, y, hy, hw⟩ := h
  have hcm : y.cm = (coreOf s c).cm := (hy.same Core.cm (fun _ _ _ _ _ => rfl)).trans hb
  refine ⟨fun x hx => ?_, y, hy, hw.writeTogether (by decide) (by unfold SameBounds; rw [hcm]) k data land hth⟩
  rcases List.mem_append.1 hx with hx | hx
  · exact hl x hx
  · obtain ⟨j, -, hj⟩ := List.mem_filterMap.1 hx
    obtain ⟨row, -, rfl⟩ := Option.map_eq_some_iff.1 hj
    exact Nat.succ_pos _

/-- A step for each of a list. -/
theorem foldl {α : Type} {step : Work → α → Work} {L : α → List (Nat × Landing)} {F : α → NFlags} {N : α → Nat} (as : List α)
    (hstep : ∀ a ∈ as, ∀ f n l w, SeDoing s c b f n l w → SeDoing s c b (f.or (F a)) (n + N a) (l ++ L a) (step w a)) (h : SeDoing s c b f n l w) :
    SeDoing s c b (f.or (flagsAll (as.map F))) (n + (as.map N).sum) (l ++ as.flatMap L) (as.foldl step w) := by
  induction as generalizing f n l w with
  | nil => simpa [NFlags.or_none] using h
  | cons a as ih =>
    have := ih (fun x hx => hstep x (List.mem_cons_of_mem _ hx)) (hstep a List.mem_cons_self f n l w h)
    rw [List.map_cons, List.map_cons, flagsAll_cons, List.sum_cons, List.flatMap_cons, ← NFlags.or_assoc, ← Nat.add_assoc, ← List.append_assoc]
    exact this

/-- Rows written for each of a list. -/
theorem foldlRows {α : Type} {step : Work → α → Work} {L : α → List (Nat × Landing)} (as : List α)
    (hstep : ∀ a ∈ as, ∀ l w, SeDoing s c b f n l w → SeDoing s c b f n (l ++ L a) (step w a)) (h : SeDoing s c b f n l w) :
    SeDoing s c b f n (l ++ as.flatMap L) (as.foldl step w) := by
  induction as generalizing l w with
  | nil => rwa [List.flatMap_nil, List.append_nil]
  | cons a as ih =>
    have := ih (fun x hx => hstep x (List.mem_cons_of_mem _ hx)) (hstep a List.mem_cons_self l w h)
    rwa [List.append_assoc] at this

/-- What the issue leaves. -/
theorem exec {ins : Instr} {eff : Bool → Work → Work} (hexec : Machine.exec ins s = issueEngine ins i .se eff s) (hdue : dueNow s ins i .se = true)
    (hb : b = { (coreOf s i.core).pop .se with se := b.se }) (hw : SeDoing s i.core b f n l (eff (runs s i) (workOf s i.core .se false))) :
    ∃ t, Machine.exec ins s = .next t ∧ sameBeside s t ∧ onlyCore s t i.core .se keepSe l ∧
      (coreOf t i.core).se = { b.se with lamClamp := b.se.lamClamp + BitVec.ofNat 32 n } ∧ flagsRaised s t i.core .se f := by
  obtain ⟨-, y, hy, hdo⟩ := hw
  have hkeep : y = { (coreOf s i.core).pop .se with se := y.se, nflag := y.nflag, nflagNew := y.nflagNew, nflagCyc := y.nflagCyc, nflagHeld := y.nflagHeld } :=
    calc y = { b with se := y.se, nflag := y.nflag, nflagNew := y.nflagNew, nflagCyc := y.nflagCyc, nflagHeld := y.nflagHeld } :=
          hy.core.trans (congrArg (fun z : Se => { b with se := z, nflag := y.nflag, nflagNew := y.nflagNew, nflagCyc := y.nflagCyc, nflagHeld := y.nflagHeld })
            (congrArg Core.se hy.core).symm)
      _ = _ := congrArg (fun z : Core => { z with se := y.se, nflag := y.nflag, nflagNew := y.nflagNew, nflagCyc := y.nflagCyc, nflagHeld := y.nflagHeld }) hb
  have hflag : b.nflag = (coreOf s i.core).nflag ∧ b.nflagHeld = (coreOf s i.core).nflagHeld :=
    ⟨(congrArg Core.nflag hb :), (congrArg Core.nflagHeld hb :)⟩
  obtain ⟨t, p, hx, hside, honly, hcore⟩ := exec_doing (keep := keepSe) hexec hdue hdo (congrArg Core.cpWait hkeep :) (fun p =>
    (congrArg (fun z : Core => { z with pktEnds := p }) hkeep).symm)
  refine ⟨t, hx, hside, honly, ?_, ?_⟩
  · rw [hcore]
    exact congrArg Core.se hy.core
  · have hf := hy.flags
    unfold flagsRaised flagsOfTick
    rw [hcore]
    rw [hflag.1, hflag.2] at hf
    exact hf

end SeDoing

end Sys2Proof.Machine
end

section
/-!
SMIX (R126, R131, R139, R140, R141): the steps of the heads of a range, and their decay-weighted tiles.
-/
namespace Sys2Proof.Machine
-- one proof after the other: the check compiles one text, and its memory holds few threads
set_option Elab.async false
open Sys2Proof.Safety

variable {s : State} {i : Iss} {f : SeF} {b : Spb} {w : Work}

/-! ### The command's start -/

/-- The core while the SE is occupied by a command of an operation code and a count of terms. -/
def seCore (s : State) (c : BitVec 3) (op : BitVec 2) (terms : Nat) (works : Bool) : Core :=
  { (coreOf s c).pop .se with se := { (coreOf s c).se with
    op := op, busyCyc := if works then (coreOf s c).se.busyCyc + BitVec.ofNat 32 (seOcc terms) else (coreOf s c).se.busyCyc,
    idle := max (coreOf s c).se.idle (s.dp.cycle + seOcc terms + 25) } }

theorem seBusy_doing (c : BitVec 3) (op : BitVec 2) (terms : Nat) (works : Bool) :
    SeDoing s c (seCore s c op terms works) .none 0 [] ((workOf s c .se false).seBusy op terms works) := by
  have h0 := doing_start s c .se
  refine SeDoing.start ?_
  unfold Work.seBusy
  rw [h0.cycle]
  exact h0.modMe (fun c => { c with se := { c.se with
    op := op, busyCyc := if works then c.se.busyCyc + BitVec.ofNat 32 (seOcc terms) else c.se.busyCyc, idle := max c.se.idle (s.dp.cycle + seOcc terms + 25) } })

/-- The command finds its parameter block. -/
theorem readSpb_eq (h : cleanRow s.dp i.core false f.spb.toNat 0 = true) :
    (workOf s i.core .se false).readSpb f.spb = (spbSeen s i f, workOf s i.core .se false) := by
  unfold Work.readSpb spbSeen
  rw [(doing_start s i.core .se).seReads rfl (by simp) _ h]

namespace SeDoing
variable {c : BitVec 3} {op : BitVec 2} {terms n : Nat} {works : Bool} {fl : NFlags} {l : List (Nat × Landing)}

/-- What neither flags nor the SE's record enter is that of the core before the issue. -/
theorem me {α : Type} (h : SeDoing s c (seCore s c op terms works) fl n l w) (F : Core → α)
    (hF : ∀ (z : Se) (f1 f2 : W16) (k : Nat) (hd : List (W64 × W16)),
      F { (coreOf s c).pop .se with se := z, nflag := f1, nflagNew := f2, nflagCyc := k, nflagHeld := hd } = F (coreOf s c)) : F w.me = F (coreOf s c) := by
  obtain ⟨-, y, hy, hw⟩ := h
  rw [hw.me, ← hF (seCore s c op terms works).se (coreOf s c).nflag (coreOf s c).nflagNew (coreOf s c).nflagCyc (coreOf s c).nflagHeld]
  exact hy.same F (fun z f1 f2 k hd => (hF z f1 f2 k hd).trans (hF (seCore s c op terms works).se (coreOf s c).nflag (coreOf s c).nflagNew
    (coreOf s c).nflagCyc (coreOf s c).nflagHeld).symm)

theorem buf (h : SeDoing s c (seCore s c op terms works) fl n l w) : w.me.se.buf = (coreOf s c).se.buf := by
  obtain ⟨-, y, hy, hw⟩ := h
  rw [hw.me]
  exact hy.buf

end SeDoing

/-! ### The steps of a head -/

theorem headSteps_congr {c c' : Core} (hrow : rowOn c = rowOn c') {lam lam' theta theta' rst rst' : List (Nat × List Byte)} {h : Nat}
    (hl : ∀ r < 64, fetched lam b.aLam 32 (r * spbHeads b + h) = fetched lam' b.aLam 32 (r * spbHeads b + h))
    (ht : b.complex = true → ∀ r < 64, fetched theta b.aTheta 32 (r * spbHeads b + h) = fetched theta' b.aTheta 32 (r * spbHeads b + h))
    (hr : rowOf rst (b.aRst + i.pkt / 64) = rowOf rst' (b.aRst + i.pkt / 64)) : headSteps c i b lam theta rst h = headSteps c' i b lam' theta' rst' h := by
  have hraw : (List.range 64).map (fun r => signedOf 32 (fetched lam b.aLam 32 (r * spbHeads b + h))) =
      (List.range 64).map (fun r => signedOf 32 (fetched lam' b.aLam 32 (r * spbHeads b + h))) :=
    List.map_congr_left (fun r hr => by rw [hl r (List.mem_range.1 hr)])
  have htheta : ∀ on : List Bool, b.complex = true → ((List.range 64).zip on).map (fun x => if x.2 then signedOf 32 (fetched theta b.aTheta 32 (x.1 * spbHeads b + h)) else 0) =
      ((List.range 64).zip on).map (fun x => if x.2 then signedOf 32 (fetched theta' b.aTheta 32 (x.1 * spbHeads b + h)) else 0) :=
    fun on hc => List.map_congr_left (fun x hx => by rw [ht hc x.1 (List.mem_range.1 (List.of_mem_zip hx).1)])
  unfold headSteps
  dsimp only
  rw [hrow, hr, hraw]
  cases hc : b.complex with
  | false => simp only [Bool.false_eq_true, if_false]
  | true => simp only [if_true, htheta _ hc]

theorem step_lt {h r : Nat} (hh : h < spbHeads b) (hr : r < 64) : r * spbHeads b + h < 64 * spbHeads b := by
  have : (r + 1) * spbHeads b ≤ 64 * spbHeads b := Nat.mul_le_mul_right _ hr
  rw [Nat.add_mul, Nat.one_mul] at this
  omega

/-- The rows of a step's log-decay or angle. -/
theorem stepRow_lt {e : Nat} (he : e < 64 * spbHeads b) : e / (4096 / 32) < rowsOf (64 * spbHeads b) 32 := by
  unfold rowsOf
  omega

theorem fetchSteps_eq {c : BitVec 3} (hr : SeReads s c w) (hc : c = i.core) (hcl : offsClean s i.core (stepOffs i b)) {hs : List Nat} (hhs : ∀ h ∈ hs, h < spbHeads b) :
    ∃ a, w.fetchSteps i b hs = (a, w) ∧ ∀ h ∈ hs, ∀ y : Core, rowOn y = rowOn (coreOf s i.core) →
      headSteps y i b a.1 a.2.1 a.2.2 h = scanSteps s i b h := by
  subst hc
  have hes : ∀ e ∈ hs.flatMap (fun h => (List.range 64).map (fun r => r * spbHeads b + h)), e < 64 * spbHeads b := by
    intro e he
    obtain ⟨h, hh, he⟩ := List.mem_flatMap.1 he
    obtain ⟨r, hr, rfl⟩ := List.mem_map.1 he
    exact step_lt (hhs h hh) (List.mem_range.1 hr)
  have hlam : ∀ e ∈ hs.flatMap (fun h => (List.range 64).map (fun r => r * spbHeads b + h)), cleanRow s.dp i.core false (b.aLam + e / (4096 / 32)) 0 = true :=
    fun e he => hcl _ (List.mem_append_left _ (List.mem_append_left _ (mem_offs (stepRow_lt (hes e he)))))
  have htheta : b.complex = true → ∀ e ∈ hs.flatMap (fun h => (List.range 64).map (fun r => r * spbHeads b + h)),
      cleanRow s.dp i.core false (b.aTheta + e / (4096 / 32)) 0 = true := by
    intro hx e he
    refine hcl _ (List.mem_append_left _ (List.mem_append_right _ ?_))
    rw [if_pos hx]
    exact mem_offs (stepRow_lt (hes e he))
  have hrst : offsClean s i.core [b.aRst + i.pkt / 64] := fun o ho => hcl o (List.mem_append_right _ ho)
  have hrow : rowOf (rowsBy s.dp i.core [b.aRst + i.pkt / 64]) (b.aRst + i.pkt / 64) = rowOf (rowTable s.dp i.core (b.aRst + i.pkt / 64) 1) (b.aRst + i.pkt / 64) := by
    rw [rowTable_eq]
    rfl
  have hin : ∀ h ∈ hs, ∀ r < 64, r * spbHeads b + h ∈ hs.flatMap (fun h => (List.range 64).map (fun r => r * spbHeads b + h)) :=
    fun h hh r hr => List.mem_flatMap.2 ⟨h, hh, List.mem_map_of_mem (f := fun r => r * spbHeads b + h) (List.mem_range.2 hr)⟩
  unfold Work.fetchSteps
  dsimp only
  rw [hr.fetch hlam]
  dsimp only
  cases hx : b.complex with
  | false =>
    rw [if_neg (by decide), hr.readDistinct hrst]
    refine ⟨_, rfl, fun h hh y hy => headSteps_congr hy ?_ ?_ hrow⟩
    · exact fun r hr => fetched_eq (hin h hh r hr) (stepRow_lt (step_lt (hhs h hh) hr))
    · exact fun h => absurd (hx.symm.trans h) (by decide)
  | true =>
    rw [if_pos rfl, hr.fetch (htheta hx)]
    dsimp only
    rw [hr.readDistinct hrst]
    refine ⟨_, rfl, fun h hh y hy => headSteps_congr hy ?_ ?_ hrow⟩
    · exact fun r hr => fetched_eq (hin h hh r hr) (stepRow_lt (step_lt (hhs h hh) hr))
    · exact fun _ r hr => fetched_eq (hin h hh r hr) (stepRow_lt (step_lt (hhs h hh) hr))

/-! ### SMIX -/

section smix
variable (s i b)

/-- A tile of head h: its real part, or the part with cosines, and that with sines. -/
def smixTile (h : Nat) : List Byte × NFlags :=
  mixTile b (scanCurves (coreOf s i.core) b) (scanSteps s i b h) (rowTable s.dp i.core b.aG 32) b.aG (if b.complex then 1 else 0)
def smixTileI (h : Nat) : List Byte × NFlags :=
  mixTile b (scanCurves (coreOf s i.core) b) (scanSteps s i b h) (rowTable s.dp i.core b.aGi 32) b.aGi 2

/-- The rows of head h on their way, for a cycle. -/
def smixLandings (at_ h : Nat) : List (Nat × Landing) :=
  rowsLanding s.dp i.core false (b.aM + 17 * h) 17 (smixTile s i b h).1 (fun _ => at_) ++
    (if b.complex then rowsLanding s.dp i.core false (b.aMi + 17 * h) 17 (smixTileI s i b h).1 (fun _ => at_) else [])

/-- The flags of head h. -/
def smixFlags (h : Nat) : NFlags :=
  (NFlags.or { NFlags.none with inv := decide (0 < (scanSteps s i b h).clamped) } (smixTile s i b h).2).or (if b.complex then (smixTileI s i b h).2 else .none)

/-- The offsets SMIX reads. -/
def smixReads : List Nat :=
  stepOffs i b ++ (List.range 32).map (b.aG + ·) ++ (if b.complex then (List.range 32).map (b.aGi + ·) else [])

variable {s i b}

theorem smixHead_doing {op : BitVec 2} {terms n m h : Nat} {works : Bool} {fl : NFlags} {l : List (Nat × Landing)}
    (hw : SeDoing s i.core (seCore s i.core op terms works) fl n l w) (hcl : offsClean s i.core (smixReads i b)) (hh : h < spbHeads b)
    (hth : rowsThere s.dp i.core false (b.aM + 17 * h) 17 = true) (hthI : b.complex = true → rowsThere s.dp i.core false (b.aMi + 17 * h) 17 = true) :
    SeDoing s i.core (seCore s i.core op terms works) (fl.or (smixFlags s i b h)) (n + (scanSteps s i b h).clamped)
      (l ++ smixLandings s i b m h) (smixHead i b (m + 1) w h) := by
  have hsteps : offsClean s i.core (stepOffs i b) := fun o ho => hcl o (List.mem_append_left _ (List.mem_append_left _ ho))
  have hG : offsClean s i.core ((List.range 32).map (b.aG + ·)) := fun o ho => hcl o (List.mem_append_left _ (List.mem_append_right _ ho))
  obtain ⟨a, ha, hscan⟩ := fetchSteps_eq (hw.seReads rfl) rfl hsteps (hs := [h]) (by simpa using hh)
  have hhead := hscan h (List.mem_singleton_self h) w.me (hw.me rowOn (fun _ _ _ _ _ => rfl))
  have hcurves : scanCurves w.me b = scanCurves (coreOf s i.core) b := hw.me (scanCurves · b) (fun _ _ _ _ _ => rfl)
  have hclamp := hw.lamClamp (scanSteps s i b h).clamped
  have htable : ∀ a, rowsBy s.dp i.core ((List.range 32).map (fun r => a + r)) = rowTable s.dp i.core a 32 := fun a => (rowTable_eq s.dp a 32).symm
  unfold smixHead smixLandings smixFlags
  dsimp only
  rw [ha, Nat.add_sub_cancel]
  dsimp only
  rw [hhead, hcurves, (hw.seReads rfl).readDistinct hG]
  dsimp only
  rw [htable]
  cases hx : b.complex with
  | false =>
    have ht : smixTile s i b h = mixTile b (scanCurves (coreOf s i.core) b) (scanSteps s i b h) (rowTable s.dp i.core b.aG 32) b.aG 0 := by
      unfold smixTile
      rw [hx]
      rfl
    rw [if_neg (by decide), if_neg (by decide), if_neg (by decide), ← ht, List.append_nil, NFlags.or_none, ← NFlags.or_assoc]
    exact (hclamp.writeTogether rfl _ _ hth).raise _
  | true =>
    have ht : smixTile s i b h = mixTile b (scanCurves (coreOf s i.core) b) (scanSteps s i b h) (rowTable s.dp i.core b.aG 32) b.aG 1 := by
      unfold smixTile
      rw [hx]
      rfl
    have hGi : offsClean s i.core ((List.range 32).map (b.aGi + ·)) := fun o ho => hcl o (List.mem_append_right _ (by rw [if_pos hx]; exact ho))
    rw [if_pos rfl, if_pos rfl, if_pos rfl, (hclamp.seReads rfl).readDistinct hGi]
    dsimp only
    rw [htable, ← ht, ← List.append_assoc, NFlags.or_assoc, ← NFlags.or_assoc]
    exact ((hclamp.writeTogether rfl _ _ hth).writeTogether rfl _ _ (hthI hx)).raise _

theorem noRows_congr {x y : Core} (h : rowOn y = rowOn x) : noRows y i = noRows x i := by
  unfold noRows
  rw [h]

/-- The heads of the range. -/
def smixHeads (s : State) (i : Iss) (f : SeF) (b : Spb) : List Nat :=
  if runs s i && !noRows (coreOf s i.core) i then seRange (coreOf s i.core) f (spbHeads b) else []

theorem seRange_lt {x : Core} {limit k : Nat} (h : k ∈ seRange x f limit) : k < limit := by
  unfold seRange at h
  obtain ⟨j, -, hj⟩ := List.mem_filterMap.1 h
  split at hj
  · next hlt => exact Option.some.inj hj ▸ hlt
  · exact absurd hj (by simp)

theorem effSmix_doing (hspb : cleanRow s.dp i.core false f.spb.toNat 0 = true)
    (hcl : (runs s i && !noRows (coreOf s i.core) i) = true → offsClean s i.core (smixReads i (spbSeen s i f)))
    (hth : ∀ h ∈ smixHeads s i f (spbSeen s i f), rowsThere s.dp i.core false ((spbSeen s i f).aM + 17 * h) 17 = true ∧
      ((spbSeen s i f).complex = true → rowsThere s.dp i.core false ((spbSeen s i f).aMi + 17 * h) 17 = true)) :
    SeDoing s i.core (seCore s i.core 1 (smixTerms (spbSeen s i f) f) (runs s i && !noRows (coreOf s i.core) i))
      (flagsAll ((smixHeads s i f (spbSeen s i f)).map (smixFlags s i (spbSeen s i f)))) (clampedOf s i (spbSeen s i f) (smixHeads s i f (spbSeen s i f)))
      ((smixHeads s i f (spbSeen s i f)).flatMap (smixLandings s i (spbSeen s i f) (seOcc (smixTerms (spbSeen s i f) f) + 24)))
      (effSmix i f (runs s i) (workOf s i.core .se false)) := by
  have hno : noRows (workOf s i.core .se false).me i = noRows (coreOf s i.core) i := noRows_congr (by
    rw [(doing_start s i.core .se).me]
    rfl)
  unfold effSmix
  dsimp only
  rw [readSpb_eq hspb]
  dsimp only
  rw [hno]
  generalize spbSeen s i f = b at *
  have h0 := seBusy_doing (s := s) i.core 1 (smixTerms b f) (runs s i && !noRows (coreOf s i.core) i)
  generalize (workOf s i.core .se false).seBusy 1 (smixTerms b f) (runs s i && !noRows (coreOf s i.core) i) = w at *
  have hno' : noRows w.me i = noRows (coreOf s i.core) i := noRows_congr (h0.me rowOn (fun _ _ _ _ _ => rfl))
  have hrange : seRange w.me f (spbHeads b) = seRange (coreOf s i.core) f (spbHeads b) := h0.me (seRange · f (spbHeads b)) (fun _ _ _ _ _ => rfl)
  rw [hno', hrange]
  unfold smixHeads clampedOf at *
  cases hworks : runs s i && !noRows (coreOf s i.core) i with
  | false =>
    rw [hworks] at h0
    rw [if_pos (show (!runs s i || noRows (coreOf s i.core) i) = true by
      cases hr : runs s i <;> simp_all), if_neg (by decide)]
    exact h0
  | true =>
    rw [hworks] at h0 hth
    rw [if_neg (show ¬(!runs s i || noRows (coreOf s i.core) i) = true by
      cases hr : runs s i <;> simp_all), if_pos rfl]
    rw [if_pos rfl] at hth
    have := SeDoing.foldl (L := smixLandings s i b (seOcc (smixTerms b f) + 24)) (F := smixFlags s i b) (N := fun h => (scanSteps s i b h).clamped)
      (step := smixHead i b (seOcc (smixTerms b f) + 24 + 1)) (seRange (coreOf s i.core) f (spbHeads b))
      (fun h hh fl n l w hw => smixHead_doing hw (hcl hworks) (seRange_lt hh) (hth h hh).1 (hth h hh).2) h0
    rwa [NFlags.none_or, Nat.zero_add, List.nil_append] at this

/-- The first clause of O37. -/
theorem smix_command (hdue : dueNow s (.smix i f) i .se = true) (hspb : cleanRow s.dp i.core false f.spb.toNat 0 = true)
    (hcl : (runs s i && !noRows (coreOf s i.core) i) = true → offsClean s i.core (smixReads i (spbSeen s i f)))
    (hth : ∀ h ∈ smixHeads s i f (spbSeen s i f), rowsThere s.dp i.core false ((spbSeen s i f).aM + 17 * h) 17 = true ∧
      ((spbSeen s i f).complex = true → rowsThere s.dp i.core false ((spbSeen s i f).aMi + 17 * h) 17 = true)) :
    ∃ t, exec (.smix i f) s = .next t ∧ sameBeside s t ∧
      onlyCore s t i.core .se keepSe
        ((smixHeads s i f (spbSeen s i f)).flatMap (smixLandings s i (spbSeen s i f) (seOcc (smixTerms (spbSeen s i f) f) + 24))) ∧
      (coreOf t i.core).se = seBusyWith (coreOf s i.core).se s.dp.cycle 1 (smixTerms (spbSeen s i f) f) (runs s i && !noRows (coreOf s i.core) i)
        (clampedOf s i (spbSeen s i f) (smixHeads s i f (spbSeen s i f))) ∧
      flagsRaised s t i.core .se (flagsAll ((smixHeads s i f (spbSeen s i f)).map (smixFlags s i (spbSeen s i f)))) :=
  SeDoing.exec rfl hdue rfl (effSmix_doing hspb hcl hth)

end smix

end Sys2Proof.Machine
end

section
/-!
SOUT AND SCARRY (06_scan_engine R131, R140 to R143): start states, the sums of terms, and the carried state.
-/
namespace Sys2Proof.Machine
-- one proof after the other: the check compiles one text, and its memory holds few threads
set_option Elab.async false
open Sys2Proof.Safety

variable {s : State} {i : Iss} {f : SeF} {b : Spb} {w : Work} {c : BitVec 3}

/-! ### Lists of results -/

theorem flatMap_map_congr {α β γ : Type} (as : List α) (bs : List β) {f g : α → β → γ} (h : ∀ a ∈ as, ∀ b ∈ bs, f a b = g a b) :
    as.flatMap (fun a => bs.map (fun b => f a b)) = as.flatMap (fun a => bs.map (fun b => g a b)) :=
  List.flatMap_congr (fun a ha => List.map_congr_left (h a ha))

/-- A result kept with its name is found by it. -/
theorem find?_named {α : Type} {hs : List Nat} {h : Nat} (hh : h ∈ hs) (g : Nat → α) :
    (hs.map (fun h => (h, g h))).find? (fun x => x.1 == h) = some (h, g h) := by
  rw [List.find?_map]
  cases hf : hs.find? ((fun x : Nat × α => x.1 == h) ∘ fun h => (h, g h)) with
  | none => exact absurd (List.find?_eq_none.1 hf h hh) (by simp)
  | some a =>
    have := List.find?_some hf
    simp only [Function.comp, beq_iff_eq] at this
    rw [Option.map_some, this]

/-- A result kept with its row and channel is found by them. -/
theorem find?_placed {α : Type} (rows chs : List Nat) (g : Nat → Nat → α) (r ch : Nat) :
    (rows.flatMap (fun r => chs.map (fun ch => ((r, ch), g r ch)))).find? (fun x => x.1 == (r, ch)) =
      if ch ∈ chs ∧ r ∈ rows then some ((r, ch), g r ch) else none := by
  cases hf : (rows.flatMap (fun r => chs.map (fun ch => ((r, ch), g r ch)))).find? (fun x => x.1 == (r, ch)) with
  | none =>
    rw [if_neg]
    rintro ⟨hch, hr⟩
    exact absurd (List.find?_eq_none.1 hf ((r, ch), g r ch) (List.mem_flatMap.2 ⟨r, hr, List.mem_map_of_mem (f := fun ch => ((r, ch), g r ch)) hch⟩)) (by simp)
  | some x =>
    obtain ⟨r', hr, hx⟩ := List.mem_flatMap.1 (List.mem_of_find?_eq_some hf)
    obtain ⟨ch', hch, rfl⟩ := List.mem_map.1 hx
    have := List.find?_some hf
    simp only [beq_iff_eq, Prod.mk.injEq] at this
    obtain ⟨rfl, rfl⟩ := this
    rw [if_pos ⟨hch, hr⟩]

/-- Rows read one after another, the machine standing still. -/
theorem foldl_read {α β : Type} (rd : Work → α → β × Work) (g : α → β) (as : List α) (h : ∀ a ∈ as, rd w a = (g a, w)) (acc : List β) :
    as.foldl (fun acc a => (acc.1 ++ [(rd acc.2 a).1], (rd acc.2 a).2)) (acc, w) = (acc ++ as.map g, w) := by
  induction as generalizing acc with
  | nil => simp
  | cons a as ih =>
    rw [List.foldl_cons]
    dsimp only
    rw [h a List.mem_cons_self, ih (fun x hx => h x (List.mem_cons_of_mem _ hx))]
    simp

/-! ### Start states -/

/-- The rows of a stream's init image that hold the given elements. -/
def initRows (s : State) (c : BitVec 3) (b : Spb) (slot : Option Nat) (es : List Nat) : List (Nat × List Byte) :=
  match slot with
  | none => []
  | some r0 => (distinct (es.map (fun e => r0 + b.initOfs + e / 128))).map (fun row => (row, rowSeen s.dp c row 0))

/-- The elements of the state that the channels have. -/
def stateElems (b : Spb) (chs : List Nat) : List Nat :=
  chs.flatMap (fun ch => (List.range b.n).flatMap (fun n => if b.complex then [stateIdx b ch n 0, stateIdx b ch n 1] else [stateIdx b ch n 0]))

/-- A state element has a second part where the state is complex. -/
def IsPart (b : Spb) (part : Nat) : Prop := part = 0 ∨ b.complex = true ∧ part = 1

theorem mem_stateElems {chs : List Nat} {ch n part : Nat} (hch : ch ∈ chs) (hn : n < b.n) (hp : IsPart b part) : stateIdx b ch n part ∈ stateElems b chs := by
  refine List.mem_flatMap.2 ⟨ch, hch, List.mem_flatMap.2 ⟨n, List.mem_range.2 hn, ?_⟩⟩
  rcases hp with rfl | ⟨hc, rfl⟩
  · split <;> simp
  · rw [if_pos hc]
    simp

theorem stateElems_lt {chs : List Nat} (hchs : ∀ ch ∈ chs, ch < b.c) {e : Nat} (he : e ∈ stateElems b chs) : e < stateIdx b b.c 0 0 := by
  obtain ⟨ch, hch, he⟩ := List.mem_flatMap.1 he
  obtain ⟨n, hn, he⟩ := List.mem_flatMap.1 he
  have hlt : ch * b.n + n < b.c * b.n :=
    calc ch * b.n + n < (ch + 1) * b.n := by rw [Nat.add_mul, Nat.one_mul]; exact Nat.add_lt_add_left (List.mem_range.1 hn) _
      _ ≤ _ := Nat.mul_le_mul_right _ (hchs ch hch)
  unfold stateIdx at he ⊢
  cases hc : b.complex <;> rw [hc] at he <;> simp only [Bool.false_eq_true, if_false, if_true, List.mem_cons, List.not_mem_nil, or_false] at he ⊢ <;> omega

/-- Element rows of an init image lie in it. -/
theorem initRow_lt {e n : Nat} (he : e < n) : e / 128 < rowsOf n 32 := by
  unfold rowsOf
  omega

theorem Doing.fetchInit {y : Core} (h : Doing s c .se y [] w) {slot : Option Nat} {es : List Nat}
    (hcl : ∀ r, slot = some r → ∀ e ∈ es, rowChecks s.dp c (r + b.initOfs + e / 128) 0 = true) : w.fetchInit b slot es = (initRows s c b slot es, w) := by
  cases slot with
  | none => rfl
  | some r =>
    unfold Work.fetchInit initRows
    exact foldl_read (fun w row => ((row, (w.readDev row 0).1), (w.readDev row 0).2)) (fun row => (row, Safety.rowSeen s.dp c row 0)) _ (fun row hrow => by
      obtain ⟨e, he, rfl⟩ := List.mem_map.1 (mem_distinct.1 hrow)
      rw [h.readDev (hcl r rfl e he)]) []

/-- The init images that the channels need, stream by stream. -/
def initImages (s : State) (i : Iss) (b : Spb) (chs : List Nat) : List (Option Nat × List (Nat × List Byte)) :=
  (List.range (spbStreams b)).map (fun st => (initSlot (coreOf s i.core) i b st, initRows s i.core b (initSlot (coreOf s i.core) i b st) (stateElems b chs)))

theorem SeDoing.fetchInits {op : BitVec 2} {terms n : Nat} {works : Bool} {fl : NFlags} (h : SeDoing s i.core (seCore s i.core op terms works) fl n [] w)
    {chs : List Nat} (hchs : ∀ ch ∈ chs, ch < b.c) (hcl : initsClean s i b) : w.fetchInits i b chs = (initImages s i b chs, w) := by
  have hslot : ∀ st, initSlot w.me i b st = initSlot (coreOf s i.core) i b st := fun st => h.me (initSlot · i b st) (fun _ _ _ _ _ => rfl)
  obtain ⟨-, y, -, hw⟩ := h
  refine foldl_read (fun w st => ((initSlot w.me i b st, (w.fetchInit b (initSlot w.me i b st) (stateElems b chs)).1),
    (w.fetchInit b (initSlot w.me i b st) (stateElems b chs)).2)) _ _ (fun st hst => ?_) []
  rw [hslot, hw.fetchInit (fun r hr e he => ?_)]
  exact hcl st (List.mem_range.1 hst) r hr _ (initRow_lt (stateElems_lt hchs he))

theorem initImages_getD {chs : List Nat} {st : Nat} (hst : st < spbStreams b) : (initImages s i b chs).getD st (none, []) =
    (initSlot (coreOf s i.core) i b st, initRows s i.core b (initSlot (coreOf s i.core) i b st) (stateElems b chs)) := by
  unfold initImages
  rw [List.getD_eq_getElem?_getD, List.getElem?_map, List.getElem?_range hst]
  rfl

/-- An element of an init image, in the rows fetched for it. -/
theorem initCode_initRows {slot : Option Nat} {es : List Nat} {e : Nat} (he : e ∈ es) (hlt : e < stateIdx b b.c 0 0) :
    initCode (initRows s c b slot es) b slot e = initCode (initTable s c b slot) b slot e := by
  cases slot with
  | none => rfl
  | some r =>
    have hrow := rowOf_map (mem_distinct.2 (List.mem_map_of_mem (f := fun e => r + b.initOfs + e / 128) he)) (fun row => rowSeen s.dp c row 0)
    have htab := rowOf_map (mem_offs (a := r + b.initOfs) (initRow_lt hlt)) (fun row => rowSeen s.dp c row 0)
    rw [List.map_map] at htab
    unfold initCode fetched
    exact congrArg (fun row => elemAt 32 (byteAt row) (e % (4096 / 32))) (hrow.trans htab.symm)

theorem SeDoing.startVal {op : BitVec 2} {terms m : Nat} {works : Bool} {fl : NFlags} {l : List (Nat × Landing)}
    (h : SeDoing s i.core (seCore s i.core op terms works) fl m l w) {chs : List Nat} (hchs : ∀ ch ∈ chs, ch < b.c) {st ch n part : Nat} (hch : ch ∈ chs)
    (hn : n < b.n) (hp : IsPart b part) {q : Int} (hq : q = scanQh s i.core b ch) (base : Nat) :
    Machine.startVal w.me b (initSlot (coreOf s i.core) i b st) (initRows s i.core b (initSlot (coreOf s i.core) i b st) (stateElems b chs)) q base st ch n part =
      scanStart s i b base st ch n part := by
  have he := mem_stateElems hch hn hp
  have hbuf : bufCode w.me b st ch n part = bufCode (coreOf s i.core) b st ch n part := by
    unfold bufCode
    rw [h.buf]
  unfold scanStart Machine.startVal
  dsimp only
  rw [hq, hbuf, initCode_initRows he (stateElems_lt hchs he)]

/-- The exponent of a channel's state, in the rows fetched for it. -/
theorem qhOf_eq {chs : List Nat} {ch : Nat} (hch : ch ∈ chs) (hlt : ch < b.c) :
    qhOf (rowsBy s.dp c (distinct (chs.map (fun e => b.aQh + e / (4096 / 8))))) b ch = scanQh s c b ch := by
  have hrow : ch / (4096 / 8) < rowsOf b.c 8 := by
    unfold rowsOf
    omega
  unfold scanQh qhOf
  rw [fetched_eq hch hrow]

/-! ### What the terms depend on -/

theorem outTerms_congr {k : ScanCurves} {h : HeadSteps} {row : Nat} {cr cr' ci ci' : Nat → Dec} {st st' : Nat → Nat → Dec}
    (hcr : ∀ n < b.n, cr n = cr' n) (hci : b.complex = true → ∀ n < b.n, ci n = ci' n) (hst : ∀ n < b.n, ∀ part, IsPart b part → st n part = st' n part) :
    outTerms b k h row cr ci st = outTerms b k h row cr' ci' st' := by
  unfold outTerms
  dsimp only
  cases hc : b.complex with
  | false =>
    rw [if_neg (by decide), if_neg (by decide)]
    refine List.map_congr_left (fun n hn => ?_)
    rw [hcr n (List.mem_range.1 hn), hst n (List.mem_range.1 hn) 0 (.inl rfl)]
  | true =>
    rw [if_pos rfl, if_pos rfl]
    refine List.flatMap_congr (fun n hn => ?_)
    rw [hcr n (List.mem_range.1 hn), hci hc n (List.mem_range.1 hn), hst n (List.mem_range.1 hn) 0 (.inl rfl), hst n (List.mem_range.1 hn) 1 (.inr ⟨hc, rfl⟩)]

theorem carryVal_congr {k : ScanCurves} {h : HeadSteps} {st part : Nat} {start start' bx bx' : Nat → Dec}
    (hstart : ∀ p, IsPart b p → start p = start' p) (hbx : ∀ t < b.l, h.on.getD (st * b.l + t) false = true → bx (st * b.l + t) = bx' (st * b.l + t)) :
    carryVal b k h st part start bx = carryVal b k h st part start' bx' := by
  unfold carryVal
  dsimp only
  rw [hstart 0 (.inl rfl)]
  refine congrArg sumExact (congrArg₂ _ ?_ (List.map_congr_left (fun t ht => ?_)))
  · cases hc : b.complex with
    | false => rfl
    | true => rw [hstart 1 (.inr ⟨hc, rfl⟩)]
  · obtain ⟨hlt, hon⟩ := List.mem_filter.1 ht
    rw [hbx t (List.mem_range.1 hlt) (Bool.and_eq_true_iff.1 hon).2]

/-! ### Heads, rows and streams of a channel -/

theorem head_lt {ch : Nat} (hp : 0 < b.p) (hdvd : b.c % b.p = 0) (h : ch < b.c) : ch / max 1 b.p < spbHeads b := by
  unfold spbHeads
  rw [Nat.max_eq_right hp]
  exact Nat.div_lt_div_of_lt_of_dvd (Nat.dvd_of_mod_eq_zero hdvd) h

theorem stream_lt {r : Nat} (hl : 0 < b.l) (hdvd : 64 % b.l = 0) (h : r < 64) : r / b.l < spbStreams b := by
  unfold spbStreams
  rw [Nat.max_eq_right hl]
  exact Nat.div_lt_div_of_lt_of_dvd (Nat.dvd_of_mod_eq_zero hdvd) h

/-- The enabled rows of the packet. -/
def scanRows (s : State) (i : Iss) : List Nat := (List.range 64).filter (fun r => rowOn (coreOf s i.core) i.hdr.mask i.pkt r)

theorem mem_scanRows {r : Nat} : r ∈ scanRows s i ↔ r < 64 ∧ rowOn (coreOf s i.core) i.hdr.mask i.pkt r = true := by
  unfold scanRows
  rw [List.mem_filter, List.mem_range]

/-- A step runs on the enabled rows. -/
theorem scanSteps_on {h r : Nat} (hr : (scanSteps s i b h).on.getD r false = true) : r ∈ scanRows s i := by
  have hon : (scanSteps s i b h).on = (List.range 64).map (fun r => rowOn (coreOf s i.core) i.hdr.mask i.pkt r) := by
    unfold scanSteps headSteps
    rfl
  rw [hon, List.getD_eq_getElem?_getD, List.getElem?_map] at hr
  refine mem_scanRows.2 ?_
  by_cases hlt : r < 64
  · rw [List.getElem?_range hlt] at hr
    exact ⟨hlt, hr⟩
  · rw [List.getElem?_eq_none (by simpa using hlt)] at hr
    exact absurd hr (by simp)

theorem foldl_add_eq_sum (l : List Nat) : l.foldl (· + ·) 0 = l.sum := by
  rw [List.sum_eq_foldl]

/-- Element n of row r of an array of 64 rows of m elements. -/
theorem rowElem_lt {r n m : Nat} (hr : r < 64) (hn : n < m) : r * m + n < 64 * m :=
  calc r * m + n < (r + 1) * m := by rw [Nat.add_mul, Nat.one_mul]; exact Nat.add_lt_add_left hn _
    _ ≤ _ := Nat.mul_le_mul_right _ hr

end Sys2Proof.Machine
end

section
/-!
SOUT (R131, R139, R143): the sums of terms of the enabled rows and the named channels, group by group and plane by plane.
-/
namespace Sys2Proof.Machine
-- one proof after the other: the check compiles one text, and its memory holds few threads
set_option Elab.async false
open Sys2Proof.Safety

variable {s : State} {i : Iss} {f : SeF} {b : Spb} {w : Work}

/-! ### What SOUT and SCARRY read -/

theorem SeReads.fetchSpb {c : BitVec 3} (hr : SeReads s c w) (ent : FmtEntry) {a n : Nat} {es : List Nat} (hes : ∀ e ∈ es, e < n)
    (hcl : offsClean s c (fmtOffs (spbFmt ent) a n)) :
    ∃ rows, w.fetchFmt (spbFmt ent) a n es = (rows, w) ∧ ∀ e ∈ es, fetchedFmt (spbFmt ent) rows a n e = scanElem s c (spbFmt ent) a n e :=
  ⟨_, hr.fetchFmt (fun o ho => hcl o (spanRows_offs (spbFmt_blk ent) hes ho)), fun _ he => fetchedFmt_eq he⟩

theorem SeReads.fetchQh {c : BitVec 3} (hr : SeReads s c w) {chs : List Nat} (hchs : ∀ ch ∈ chs, ch < b.c)
    (hcl : offsClean s c ((List.range (rowsOf b.c 8)).map (b.aQh + ·))) :
    ∃ rows, w.fetch b.aQh 8 chs = (rows, w) ∧ ∀ ch ∈ chs, qhOf rows b ch = scanQh s c b ch := by
  refine ⟨_, hr.fetch (fun ch hch => hcl _ (mem_offs ?_)), fun ch hch => qhOf_eq hch (hchs ch hch)⟩
  have := hchs ch hch
  unfold rowsOf
  omega

theorem SeDoing.fetchStarts {op : BitVec 2} {terms m : Nat} {works : Bool} {fl : NFlags} (h : SeDoing s i.core (seCore s i.core op terms works) fl m [] w)
    {chs : List Nat} (hchs : ∀ ch ∈ chs, ch < b.c) (hcl : initsClean s i b) :
    ∃ inits, w.fetchInits i b chs = (inits, w) ∧ ∀ st < spbStreams b, ∀ ch ∈ chs, ∀ n < b.n, ∀ part, IsPart b part → ∀ base,
      Machine.startVal w.me b (inits.getD st (none, [])).1 (inits.getD st (none, [])).2 (scanQh s i.core b ch) base st ch n part =
        scanStart s i b base st ch n part := by
  refine ⟨_, h.fetchInits hchs hcl, fun st hst ch hch n hn part hp base => ?_⟩
  rw [initImages_getD hst]
  exact h.startVal hchs hch hn hp rfl base

/-- The steps of the channels' heads. -/
theorem SeDoing.fetchHeads {op : BitVec 2} {terms m : Nat} {works : Bool} {fl : NFlags} (h : SeDoing s i.core (seCore s i.core op terms works) fl m [] w)
    (hcl : offsClean s i.core (stepOffs i b)) {hs : List Nat} (hhs : ∀ h ∈ hs, h < spbHeads b) :
    ∃ a, w.fetchSteps i b hs = (a, w) ∧
      hs.map (fun h => (h, headSteps w.me i b a.1 a.2.1 a.2.2 h)) = hs.map (fun h => (h, scanSteps s i b h)) := by
  obtain ⟨a, ha, hscan⟩ := fetchSteps_eq (h.seReads rfl) rfl hcl hhs
  exact ⟨a, ha, List.map_congr_left (fun h' hh => by rw [hscan h' hh w.me (h.me rowOn (fun _ _ _ _ _ => rfl))])⟩

/-! ### What the command finds of its core -/

namespace SeDoing
variable {op : BitVec 2} {terms n : Nat} {works : Bool} {fl : NFlags} {l : List (Nat × Landing)}

/-- Whether the command has nothing to do. -/
theorem idle (h : SeDoing s i.core (seCore s i.core op terms works) fl n l w) : (!runs s i || noRows w.me i) = !(runs s i && !noRows (coreOf s i.core) i) := by
  rw [noRows_congr (h.me rowOn (fun _ _ _ _ _ => rfl)), Bool.not_and, Bool.not_not]

theorem seRange (h : SeDoing s i.core (seCore s i.core op terms works) fl n l w) (limit : Nat) :
    Machine.seRange w.me f limit = Machine.seRange (coreOf s i.core) f limit :=
  h.me (Machine.seRange · f limit) (fun _ _ _ _ _ => rfl)

theorem scanRows (h : SeDoing s i.core (seCore s i.core op terms works) fl n l w) :
    (List.range 64).filter (fun r => rowOn w.me i.hdr.mask i.pkt r) = Machine.scanRows s i := by
  rw [h.me rowOn (fun _ _ _ _ _ => rfl)]
  rfl

theorem scanCurves (h : SeDoing s i.core (seCore s i.core op terms works) fl n l w) : Machine.scanCurves w.me b = Machine.scanCurves (coreOf s i.core) b :=
  h.me (Machine.scanCurves · b) (fun _ _ _ _ _ => rfl)

end SeDoing

theorem noRows_start : noRows (workOf s i.core .se false).me i = noRows (coreOf s i.core) i := noRows_congr (by
  rw [(doing_start s i.core .se).me]
  rfl)

/-- The heads of the channels. -/
theorem scanHeads_lt {chs : List Nat} (hp : 0 < b.p) (hpc : b.c % b.p = 0) (hchs : ∀ ch ∈ chs, ch < b.c) :
    ∀ h ∈ distinct (chs.map (fun ch => ch / b.p)), h < spbHeads b := by
  intro h hh
  obtain ⟨ch, hch, rfl⟩ := List.mem_map.1 (mem_distinct.1 hh)
  have := head_lt hp hpc (hchs ch hch)
  rwa [show max 1 b.p = b.p from Nat.max_eq_right hp] at this

/-- The steps of a channel's head are found among those of all heads. -/
theorem find?_head {chs : List Nat} {ch : Nat} (hch : ch ∈ chs) :
    ((distinct (chs.map (fun ch => ch / b.p))).map (fun h => (h, scanSteps s i b h))).find? (fun x => x.1 == ch / b.p) =
      some (ch / b.p, scanSteps s i b (ch / b.p)) :=
  find?_named (mem_distinct.2 (List.mem_map_of_mem (f := fun ch => ch / b.p) hch)) _

/-! ### What SOUT computes -/

section sout
variable (s i b)

/-- The offsets SOUT reads. -/
def soutReads : List Nat :=
  stepOffs i b ++ fmtOffs (spbFmt b.fc) b.aC (64 * b.n) ++ (if b.complex then fmtOffs (spbFmt b.fc) b.aCi (64 * b.n) else []) ++
    (List.range (rowsOf b.c 8)).map (b.aQh + ·)

/-- Element n of a row of C. -/
def soutC (a r n : Nat) : Dec × Bool := scanElem s i.core (spbFmt b.fc) a (64 * b.n) (r * b.n + n)

/-- The sum of a row and channel. -/
def soutVal (r ch : Nat) : A88 × NFlags :=
  sumTerms b.ey (outTerms b (scanCurves (coreOf s i.core) b) (scanSteps s i b (ch / b.p)) r (fun n => (soutC s i b b.aC r n).1)
    (fun n => (soutC s i b b.aCi r n).1)
    (fun n part => scanStart s i b (baseOf (scanSteps s i b (ch / b.p)) (r / b.l * b.l) (r % b.l + 1)) (r / b.l) ch n part))

def soutPoisoned (rows : List Nat) : Bool :=
  rows.any (fun r => (List.range b.n).any (fun n => (soutC s i b b.aC r n).2 || (b.complex && (soutC s i b b.aCi r n).2)))

/-- Plane p of group g. -/
def soutPlane (chs : List Nat) (g p : Nat) : List Byte :=
  packCodes 32 ((List.range 64).flatMap (fun r => (List.range 16).map (fun q =>
    if chs.contains (16 * g + q) ∧ rowOn (coreOf s i.core) i.hdr.mask i.pkt r = true then (soutVal s i b r (16 * g + q)).1.words.getD p 0 else 0)))

/-- The rows of group g on their way, for a cycle. -/
def soutLandings (chs : List Nat) (at_ g : Nat) : List (Nat × Landing) :=
  (List.range 3).flatMap (fun p => rowsLanding s.dp i.core false (b.aOut + 24 * g + 8 * p) 8 (soutPlane s i b chs g p) (fun _ => at_))

/-- Log-decays above 0 of the channels' heads. -/
def scanClamped (chs : List Nat) : Nat := clampedOf s i b (distinct (chs.map (fun ch => ch / b.p)))

def soutFlags (rows chs : List Nat) : NFlags :=
  NFlags.or { NFlags.none with inv := decide (0 < scanClamped s i b chs) || soutPoisoned s i b rows }
    (flagsAll (rows.flatMap (fun r => chs.map (fun ch => (soutVal s i b r ch).2))))

variable {s i b}

/-- The clamped log-decays and the poisoned blocks both raise INV. -/
theorem or_invs (fl : NFlags) (x y : Bool) : NFlags.or { NFlags.none with inv := x } { fl with inv := fl.inv || y } =
    NFlags.or { NFlags.none with inv := x || y } fl := by
  simp [NFlags.or, NFlags.none]
  cases x <;> cases y <;> simp

theorem any_congr_left {α : Type} {l : List α} {p q : α → Bool} (h : ∀ a ∈ l, p a = q a) : l.any p = l.any q := by
  rw [Bool.eq_iff_iff, List.any_eq_true, List.any_eq_true]
  exact exists_congr (fun a => and_congr_right (fun ha => by rw [h a ha]))

/-- The elements of C in the enabled rows. -/
def soutElems (b : Spb) (rows : List Nat) : List Nat := rows.flatMap (fun r => (List.range b.n).map (fun n => r * b.n + n))

theorem mem_soutElems {rows : List Nat} {r n : Nat} (hr : r ∈ rows) (hn : n < b.n) : r * b.n + n ∈ soutElems b rows :=
  List.mem_flatMap.2 ⟨r, hr, List.mem_map_of_mem (f := fun n => r * b.n + n) (List.mem_range.2 hn)⟩

theorem soutElems_lt {rows : List Nat} (hrows : ∀ r ∈ rows, r < 64) {e : Nat} (he : e ∈ soutElems b rows) : e < 64 * b.n := by
  obtain ⟨r, hr, he⟩ := List.mem_flatMap.1 he
  obtain ⟨n, hn, rfl⟩ := List.mem_map.1 he
  exact rowElem_lt (hrows r hr) (List.mem_range.1 hn)

theorem any_soutElems (rows : List Nat) (p : Nat → Bool) : (soutElems b rows).any p = rows.any (fun r => (List.range b.n).any (fun n => p (r * b.n + n))) := by
  unfold soutElems
  rw [List.any_flatMap]
  exact any_congr_left (fun r _ => List.any_map ..)

/-- The elements of C that a poisoned block holds. -/
theorem soutPoisoned_eq {rows : List Nat} {rb rbi : List (Nat × List Byte)}
    (hb : ∀ e ∈ soutElems b rows, fetchedFmt (spbFmt b.fc) rb b.aC (64 * b.n) e = scanElem s i.core (spbFmt b.fc) b.aC (64 * b.n) e)
    (hbi : b.complex = true → ∀ e ∈ soutElems b rows, fetchedFmt (spbFmt b.fc) rbi b.aCi (64 * b.n) e = scanElem s i.core (spbFmt b.fc) b.aCi (64 * b.n) e) :
    (soutElems b rows).any (fun e => (fetchedFmt (spbFmt b.fc) rb b.aC (64 * b.n) e).2 || (b.complex && (fetchedFmt (spbFmt b.fc) rbi b.aCi (64 * b.n) e).2)) =
      soutPoisoned s i b rows := by
  unfold soutPoisoned soutC
  rw [← any_soutElems rows (fun e => (scanElem s i.core (spbFmt b.fc) b.aC (64 * b.n) e).2 || (b.complex && (scanElem s i.core (spbFmt b.fc) b.aCi (64 * b.n) e).2))]
  refine any_congr_left (fun e he => ?_)
  rw [hb e he]
  cases hc : b.complex with
  | false => rfl
  | true => rw [hbi hc e he]

/-- The results that SOUT finds among those of the enabled rows and the named channels. -/
theorem soutPlane_eq (chs : List Nat) (g p : Nat) :
    packCodes 32 ((List.range 64).flatMap (fun r => (List.range 16).map (fun q =>
      match ((scanRows s i).flatMap (fun r => chs.map (fun ch => ((r, ch), soutVal s i b r ch)))).find? (fun x => x.1 == (r, 16 * g + q)) with
      | some x => x.2.1.words.getD p 0
      | none => 0))) = soutPlane s i b chs g p := by
  unfold soutPlane
  refine congrArg (packCodes 32) (flatMap_map_congr _ _ (fun r hr q _ => ?_))
  rw [find?_placed]
  by_cases h : 16 * g + q ∈ chs ∧ r ∈ scanRows s i
  · rw [if_pos h, if_pos ⟨List.contains_iff_mem.2 h.1, (mem_scanRows.1 h.2).2⟩] <;> rfl
  · rw [if_neg h, if_neg (fun h' => h ⟨List.contains_iff_mem.1 h'.1, mem_scanRows.2 ⟨List.mem_range.1 hr, h'.2⟩⟩)] <;> rfl

/-- The groups' planes are on their way. -/
theorem sout_groups {op : BitVec 2} {terms n m : Nat} {works : Bool} {fl : NFlags} {l : List (Nat × Landing)}
    (hw : SeDoing s i.core (seCore s i.core op terms works) fl n l w) {chs groups : List Nat}
    (hth : ∀ g ∈ groups, rowsThere s.dp i.core false (b.aOut + 24 * g) 24 = true) {plane : Nat → Nat → List Byte} (hplane : ∀ g p, plane g p = soutPlane s i b chs g p) :
    SeDoing s i.core (seCore s i.core op terms works) fl n (l ++ groups.flatMap (soutLandings s i b chs m))
      (groups.foldl (fun w g => (List.range 3).foldl (fun (w : Work) p => w.writeTogether false (b.aOut + 24 * g + 8 * p) (plane g p) m 8) w) w) := by
  refine SeDoing.foldlRows groups (fun g hg l w hw => SeDoing.foldlRows (List.range 3) (fun p hp l w hw => ?_) hw) hw
  rw [hplane]
  refine hw.writeTogether rfl _ _ (rowsThere_iff.2 (fun k hk => ?_))
  rw [Nat.add_assoc]
  have := List.mem_range.1 hp
  exact rowsThere_iff.1 (hth g hg) _ (by omega)

/-- The planes written and the flags raised. -/
theorem sout_finish {op : BitVec 2} {terms m : Nat} {works : Bool} (hw : SeDoing s i.core (seCore s i.core op terms works) .none 0 [] w) {chs : List Nat}
    (hth : ∀ g ∈ distinct (chs.map (fun ch => ch / 16)), rowsThere s.dp i.core false (b.aOut + 24 * g) 24 = true)
    {plane : Nat → Nat → List Byte} (hplane : ∀ g p, plane g p = soutPlane s i b chs g p)
    {fl : NFlags} (hfl : fl = flagsAll ((scanRows s i).flatMap (fun r => chs.map (fun ch => (soutVal s i b r ch).2)))) :
    SeDoing s i.core (seCore s i.core op terms works) (soutFlags s i b (scanRows s i) chs) (scanClamped s i b chs)
      ((distinct (chs.map (fun ch => ch / 16))).flatMap (soutLandings s i b chs m))
      (((distinct (chs.map (fun ch => ch / 16))).foldl (fun w g =>
        (List.range 3).foldl (fun (w : Work) p => w.writeTogether false (b.aOut + 24 * g + 8 * p) (plane g p) m 8) w)
          (w.lamClamp (scanClamped s i b chs))).raise { fl with inv := fl.inv || soutPoisoned s i b (scanRows s i) }) := by
  have := (sout_groups (m := m) (hw.lamClamp (scanClamped s i b chs)) hth hplane).raise { fl with inv := fl.inv || soutPoisoned s i b (scanRows s i) }
  rw [NFlags.none_or, Nat.zero_add, List.nil_append, or_invs, hfl] at this
  rw [hfl]
  exact this

theorem scanClamped_eq (chs : List Nat) :
    (((distinct (chs.map (fun ch => ch / b.p))).map (fun h => (h, scanSteps s i b h))).map (fun x => x.2.clamped)).foldl (· + ·) 0 = scanClamped s i b chs := by
  unfold scanClamped clampedOf
  rw [List.map_map, foldl_add_eq_sum]
  rfl

/-- SOUT where it works. -/
theorem effSout_doing (hspb : cleanRow s.dp i.core false f.spb.toNat 0 = true) (hworks : (runs s i && !noRows (coreOf s i.core) i) = true)
    (hb : b = spbSeen s i f) (hl : 0 < b.l) (hl64 : 64 % b.l = 0) (hp : 0 < b.p) (hpc : b.c % b.p = 0)
    (hcl : offsClean s i.core (soutReads i b)) (hini : initsClean s i b)
    (hth : ∀ g ∈ distinct ((seRange (coreOf s i.core) f b.c).map (fun ch => ch / 16)), rowsThere s.dp i.core false (b.aOut + 24 * g) 24 = true) :
    SeDoing s i.core (seCore s i.core 2 (soutTerms b f) true) (soutFlags s i b (scanRows s i) (seRange (coreOf s i.core) f b.c))
      (scanClamped s i b (seRange (coreOf s i.core) f b.c))
      ((distinct ((seRange (coreOf s i.core) f b.c).map (fun ch => ch / 16))).flatMap
        (soutLandings s i b (seRange (coreOf s i.core) f b.c) (seOcc (soutTerms b f) + 24)))
      (effSout i f (runs s i) (workOf s i.core .se false)) := by
  unfold effSout
  dsimp only
  rw [readSpb_eq hspb]
  dsimp only
  rw [noRows_start, ← hb, hworks]
  have h0 := seBusy_doing (s := s) i.core 2 (soutTerms b f) true
  generalize (workOf s i.core .se false).seBusy 2 (soutTerms b f) true = w at *
  rw [h0.idle, hworks, if_neg (by decide), h0.seRange, h0.scanRows]
  have hchs : ∀ ch ∈ seRange (coreOf s i.core) f b.c, ch < b.c := fun _ h => seRange_lt h
  generalize seRange (coreOf s i.core) f b.c = chs at *
  rw [show max 1 b.p = b.p from Nat.max_eq_right hp]
  have hlt : ∀ r ∈ scanRows s i, r < 64 := fun r hr => (mem_scanRows.1 hr).1
  have hr := h0.seReads rfl
  obtain ⟨a, ha, hsteps⟩ := h0.fetchHeads (fun o ho => hcl o (List.mem_append_left _ (List.mem_append_left _ (List.mem_append_left _ ho)))) (scanHeads_lt hp hpc hchs)
  obtain ⟨rb, hrb, hC⟩ := hr.fetchSpb b.fc (es := soutElems b (scanRows s i)) (fun e he => soutElems_lt hlt he)
    (fun o ho => hcl o (List.mem_append_left _ (List.mem_append_left _ (List.mem_append_right _ ho))))
  obtain ⟨rbi, hrbi, hCi⟩ : ∃ rbi, (if b.complex then w.fetchFmt (spbFmt b.fc) b.aCi (64 * b.n) (soutElems b (scanRows s i)) else ([], w)) = (rbi, w) ∧
      (b.complex = true → ∀ e ∈ soutElems b (scanRows s i), fetchedFmt (spbFmt b.fc) rbi b.aCi (64 * b.n) e = scanElem s i.core (spbFmt b.fc) b.aCi (64 * b.n) e) := by
    cases hc : b.complex with
    | false => exact ⟨[], if_neg (by decide), fun h => absurd h (by decide)⟩
    | true =>
      obtain ⟨rbi, hrbi, hCi⟩ := hr.fetchSpb b.fc (a := b.aCi) (es := soutElems b (scanRows s i)) (fun e he => soutElems_lt hlt he)
        (fun o ho => hcl o (List.mem_append_left _ (List.mem_append_right _ (by rw [if_pos hc]; exact ho))))
      exact ⟨rbi, (if_pos rfl).trans hrbi, fun _ => hCi⟩
  obtain ⟨rq, hrq, hqh⟩ := hr.fetchQh hchs (fun o ho => hcl o (List.mem_append_right _ ho))
  obtain ⟨inits, hinits, hstart⟩ := h0.fetchStarts hchs hini
  have hpois := soutPoisoned_eq hC hCi
  have hes : (scanRows s i).flatMap (fun r => (List.range b.n).map (fun n => r * b.n + n)) = soutElems b (scanRows s i) := rfl
  rw [hes, ha]
  dsimp only
  rw [hrb]
  dsimp only
  rw [hrbi]
  dsimp only
  rw [hrq]
  dsimp only
  rw [hinits]
  dsimp only
  rw [hsteps, h0.scanCurves, hpois]
  rw [scanClamped_eq, flatMap_map_congr (scanRows s i) chs (g := fun r ch => ((r, ch), soutVal s i b r ch)) (fun r hr ch hch => ?hval)]
  case hval =>
    rw [find?_head hch]
    unfold soutVal soutC
    refine congrArg (fun x => ((r, ch), sumTerms b.ey x)) (outTerms_congr (fun n hn => ?_) (fun hc n hn => ?_) (fun n hn part hp => ?_))
    · rw [hC _ (mem_soutElems hr hn)]
    · rw [hCi hc _ (mem_soutElems hr hn)]
    · rw [hqh ch hch, hstart _ (stream_lt hl hl64 (hlt r hr)) ch hch n hn part hp]
  refine sout_finish h0 hth (fun g p => soutPlane_eq chs g p) ?_
  rw [List.map_flatMap]
  refine congrArg flagsAll (List.flatMap_congr (fun r _ => ?_))
  rw [List.map_map]
  rfl

/-- The channels of the range, and the enabled rows, where the command works. -/
def scanChs (s : State) (i : Iss) (f : SeF) (b : Spb) : List Nat :=
  if runs s i && !noRows (coreOf s i.core) i then seRange (coreOf s i.core) f b.c else []
def workRows (s : State) (i : Iss) : List Nat := if runs s i && !noRows (coreOf s i.core) i then scanRows s i else []

/-- Where SOUT does not work, it occupies the SE and does nothing. -/
theorem effSout_idle (hspb : cleanRow s.dp i.core false f.spb.toNat 0 = true) (hworks : (runs s i && !noRows (coreOf s i.core) i) = false) :
    SeDoing s i.core (seCore s i.core 2 (soutTerms (spbSeen s i f) f) false) .none 0 [] (effSout i f (runs s i) (workOf s i.core .se false)) := by
  have h0 := seBusy_doing (s := s) i.core 2 (soutTerms (spbSeen s i f) f) false
  unfold effSout
  dsimp only
  rw [readSpb_eq hspb]
  dsimp only
  rw [noRows_start, hworks]
  rw [h0.idle, hworks, if_pos (by decide)]
  exact h0

/-- The second clause of O37. -/
theorem sout_command (hdue : dueNow s (.sout i f) i .se = true) (hspb : cleanRow s.dp i.core false f.spb.toNat 0 = true) (hb : b = spbSeen s i f)
    (hl : 0 < b.l) (hl64 : 64 % b.l = 0) (hp : 0 < b.p) (hpc : b.c % b.p = 0)
    (hcl : (runs s i && !noRows (coreOf s i.core) i) = true → offsClean s i.core (soutReads i b) ∧ initsClean s i b)
    (hth : ∀ g ∈ distinct ((scanChs s i f b).map (fun ch => ch / 16)), rowsThere s.dp i.core false (b.aOut + 24 * g) 24 = true) :
    ∃ t, exec (.sout i f) s = .next t ∧ sameBeside s t ∧
      onlyCore s t i.core .se keepSe ((distinct ((scanChs s i f b).map (fun ch => ch / 16))).flatMap
        (soutLandings s i b (scanChs s i f b) (seOcc (soutTerms b f) + 24))) ∧
      (coreOf t i.core).se = seBusyWith (coreOf s i.core).se s.dp.cycle 2 (soutTerms b f) (runs s i && !noRows (coreOf s i.core) i)
        (scanClamped s i b (scanChs s i f b)) ∧
      flagsRaised s t i.core .se (soutFlags s i b (workRows s i) (scanChs s i f b)) := by
  unfold scanChs workRows at *
  cases hworks : runs s i && !noRows (coreOf s i.core) i with
  | false =>
    rw [if_neg (by decide), if_neg (by decide)]
    exact hb ▸ SeDoing.exec rfl hdue rfl (effSout_idle hspb hworks)
  | true =>
    rw [if_pos hworks] at hth
    rw [if_pos rfl, if_pos rfl]
    exact SeDoing.exec rfl hdue rfl (effSout_doing hspb hworks hb hl hl64 hp hpc (hcl hworks).1 (hcl hworks).2 hth)

end sout

end Sys2Proof.Machine
end

section
/-!
SCARRY (R131, R133, R139, R142): the carried state of the streams with an enabled row; and O37 from the three commands.
-/
namespace Sys2Proof.Machine
-- one proof after the other: the check compiles one text, and its memory holds few threads
set_option Elab.async false
open Sys2Proof.Safety

variable {s : State} {i : Iss} {f : SeF} {b : Spb} {w : Work}

/-- A landing is on its way. -/
theorem SeDoing.landIn {c : BitVec 3} {y : Core} {fl : NFlags} {n : Nat} {l : List (Nat × Landing)} (h : SeDoing s c y fl n l w) {k : Nat} (hk : 0 < k) (x : Landing) :
    SeDoing s c y fl n (l ++ [(k, x)]) { w with d := w.d.landIn k x } := by
  obtain ⟨hl, z, hz, hw⟩ := h
  refine ⟨fun a ha => ?_, z, hz, hw.landIn k x⟩
  rcases List.mem_append.1 ha with ha | ha
  · exact hl a ha
  · obtain rfl := List.mem_singleton.1 ha
    exact hk

/-! ### What SCARRY computes -/

section scarry
variable (s i b)

/-- The offsets SCARRY reads. -/
def scarryReads : List Nat :=
  stepOffs i b ++ fmtOffs (spbFmt b.fb) b.aB (64 * b.n) ++ fmtOffs (spbFmt b.fx) b.aX (64 * b.c) ++ (List.range (rowsOf b.c 8)).map (b.aQh + ·)

/-- Element n of a row of B, and that of a channel of a row of X. -/
def scarryB (r n : Nat) : Dec × Bool := scanElem s i.core (spbFmt b.fb) b.aB (64 * b.n) (r * b.n + n)
def scarryX (r ch : Nat) : Dec × Bool := scanElem s i.core (spbFmt b.fx) b.aX (64 * b.c) (r * b.c + ch)

/-- The stored code of a state element, and the flags of its store. -/
def scarryVal (st ch n part : Nat) : Nat × NFlags :=
  storeElem .i32 b.symState (carryVal b (scanCurves (coreOf s i.core) b) (scanSteps s i b (ch / b.p)) st part
    (fun p => scanStart s i b (baseOf (scanSteps s i b (ch / b.p)) (st * b.l) b.l) st ch n p)
    (fun r => prodExact [(scarryB s i b r n).1, (scarryX s i b r ch).1])) (scanQh s i.core b ch)

def scarryPoisoned (rows chs : List Nat) : Bool :=
  rows.any (fun r => (List.range b.n).any (fun n => (scarryB s i b r n).2) || chs.any (fun ch => (scarryX s i b r ch).2))

/-- The streams with an enabled row. -/
def liveStreams (b : Spb) (rows : List Nat) : List Nat := (List.range (spbStreams b)).filter (fun st => rows.any (fun r => r / b.l == st))

/-- The state elements that SCARRY stores. -/
def scarryCells (b : Spb) (rows chs : List Nat) : List (Nat × Nat × Nat × Nat) :=
  (liveStreams b rows).flatMap (fun st => chs.flatMap (fun ch => (List.range b.n).flatMap (fun n =>
    (if b.complex then [0, 1] else [0]).map (fun part => (st, ch, n, part)))))

def scarryLanding (rows chs : List Nat) : Landing :=
  .sbuf i.core ((scarryCells b rows chs).map (fun y => (stateAt b y.1 y.2.1 y.2.2.1 y.2.2.2, leBytes 4 (scarryVal s i b y.1 y.2.1 y.2.2.1 y.2.2.2).1)))

def scarryFlags (rows chs : List Nat) : NFlags :=
  NFlags.or { NFlags.none with inv := decide (0 < scanClamped s i b chs) || scarryPoisoned s i b rows chs }
    (flagsAll ((scarryCells b rows chs).map (fun y => (scarryVal s i b y.1 y.2.1 y.2.2.1 y.2.2.2).2)))

variable {s i b}

theorem isPart_of_mem {part : Nat} (h : part ∈ (if b.complex then [0, 1] else [0])) : IsPart b part := by
  unfold IsPart
  cases hc : b.complex <;> rw [hc] at h <;> simp at h <;> simp [h]

/-- What each state element gives, element by element. -/
theorem cells_congr {α : Type} {rows chs : List Nat} {g : Nat → Nat → Nat → Nat → α} {g' : Nat × Nat × Nat × Nat → α}
    (h : ∀ st < spbStreams b, ∀ ch ∈ chs, ∀ n < b.n, ∀ part, IsPart b part → g st ch n part = g' (st, ch, n, part)) :
    (liveStreams b rows).flatMap (fun st => chs.flatMap (fun ch => (List.range b.n).flatMap (fun n => (if b.complex then [0, 1] else [0]).map (fun part => g st ch n part)))) =
      (scarryCells b rows chs).map g' := by
  unfold scarryCells
  rw [List.map_flatMap]
  refine List.flatMap_congr (fun st hst => ?_)
  rw [List.map_flatMap]
  refine List.flatMap_congr (fun ch hch => ?_)
  rw [List.map_flatMap]
  refine List.flatMap_congr (fun n hn => ?_)
  rw [List.map_map]
  exact List.map_congr_left (fun part hpart => h st (List.mem_range.1 (List.mem_filter.1 hst).1) ch hch n (List.mem_range.1 hn) part (isPart_of_mem hpart))

/-- The elements of X in the enabled rows and the named channels. -/
def scarryElems (b : Spb) (rows chs : List Nat) : List Nat := rows.flatMap (fun r => chs.map (fun ch => r * b.c + ch))

theorem mem_scarryElems {rows chs : List Nat} {r ch : Nat} (hr : r ∈ rows) (hch : ch ∈ chs) : r * b.c + ch ∈ scarryElems b rows chs :=
  List.mem_flatMap.2 ⟨r, hr, List.mem_map_of_mem (f := fun ch => r * b.c + ch) hch⟩

theorem scarryElems_lt {rows chs : List Nat} (hrows : ∀ r ∈ rows, r < 64) (hchs : ∀ ch ∈ chs, ch < b.c) {e : Nat} (he : e ∈ scarryElems b rows chs) : e < 64 * b.c := by
  obtain ⟨r, hr, he⟩ := List.mem_flatMap.1 he
  obtain ⟨ch, hch, rfl⟩ := List.mem_map.1 he
  exact rowElem_lt (hrows r hr) (hchs ch hch)

theorem any_scarryElems (rows chs : List Nat) (p : Nat → Bool) : (scarryElems b rows chs).any p = rows.any (fun r => chs.any (fun ch => p (r * b.c + ch))) := by
  unfold scarryElems
  rw [List.any_flatMap]
  exact any_congr_left (fun r _ => List.any_map ..)

theorem any_or {α : Type} (l : List α) (p q : α → Bool) : (l.any p || l.any q) = l.any (fun a => p a || q a) := by
  induction l with
  | nil => rfl
  | cons a l ih =>
    rw [List.any_cons, List.any_cons, List.any_cons, ← ih]
    ac_rfl

/-- The elements of B and X that a poisoned block holds. -/
theorem scarryPoisoned_eq {rows chs : List Nat} {rb rx : List (Nat × List Byte)}
    (hb : ∀ e ∈ soutElems b rows, fetchedFmt (spbFmt b.fb) rb b.aB (64 * b.n) e = scanElem s i.core (spbFmt b.fb) b.aB (64 * b.n) e)
    (hx : ∀ e ∈ scarryElems b rows chs, fetchedFmt (spbFmt b.fx) rx b.aX (64 * b.c) e = scanElem s i.core (spbFmt b.fx) b.aX (64 * b.c) e) :
    ((soutElems b rows).any (fun e => (fetchedFmt (spbFmt b.fb) rb b.aB (64 * b.n) e).2) ||
      (scarryElems b rows chs).any (fun e => (fetchedFmt (spbFmt b.fx) rx b.aX (64 * b.c) e).2)) = scarryPoisoned s i b rows chs := by
  rw [any_congr_left (fun e he => congrArg Prod.snd (hb e he)), any_congr_left (fun e he => congrArg Prod.snd (hx e he)), any_soutElems, any_scarryElems, any_or]
  rfl

/-- The state sent to the buffer and the flags raised. -/
theorem scarry_finish {op : BitVec 2} {terms m : Nat} {works : Bool} (hw : SeDoing s i.core (seCore s i.core op terms works) .none 0 [] w) {rows chs : List Nat}
    {x : Landing} (hx : x = scarryLanding s i b rows chs) {fl : NFlags}
    (hfl : fl = flagsAll ((scarryCells b rows chs).map (fun y => (scarryVal s i b y.1 y.2.1 y.2.2.1 y.2.2.2).2))) :
    SeDoing s i.core (seCore s i.core op terms works) (scarryFlags s i b rows chs) (scanClamped s i b chs) [(m + 1, scarryLanding s i b rows chs)]
      (Work.raise { w.lamClamp (scanClamped s i b chs) with d := (w.lamClamp (scanClamped s i b chs)).d.landIn (m + 1) x }
        { fl with inv := fl.inv || scarryPoisoned s i b rows chs }) := by
  have := ((hw.lamClamp (scanClamped s i b chs)).landIn (Nat.succ_pos m) x).raise { fl with inv := fl.inv || scarryPoisoned s i b rows chs }
  rw [NFlags.none_or, Nat.zero_add, List.nil_append, or_invs, hx, hfl] at this
  rw [hx, hfl]
  exact this

/-- SCARRY where it works. -/
theorem effScarry_doing (hspb : cleanRow s.dp i.core false f.spb.toNat 0 = true) (hworks : (runs s i && !noRows (coreOf s i.core) i) = true)
    (hb : b = spbSeen s i f) (hl : 0 < b.l) (hl64 : 64 % b.l = 0) (hp : 0 < b.p) (hpc : b.c % b.p = 0)
    (hcl : offsClean s i.core (scarryReads i b)) (hini : initsClean s i b) :
    SeDoing s i.core (seCore s i.core 3 (scarryTerms b f) true) (scarryFlags s i b (scanRows s i) (seRange (coreOf s i.core) f b.c))
      (scanClamped s i b (seRange (coreOf s i.core) f b.c))
      [(seOcc (scarryTerms b f) + 24 + 1, scarryLanding s i b (scanRows s i) (seRange (coreOf s i.core) f b.c))]
      (effScarry i f (runs s i) (workOf s i.core .se false)) := by
  unfold effScarry
  dsimp only
  rw [readSpb_eq hspb]
  dsimp only
  rw [noRows_start, ← hb, hworks]
  have h0 := seBusy_doing (s := s) i.core 3 (scarryTerms b f) true
  generalize (workOf s i.core .se false).seBusy 3 (scarryTerms b f) true = w at *
  rw [h0.idle, hworks, if_neg (by decide), h0.seRange, h0.scanRows]
  have hchs : ∀ ch ∈ seRange (coreOf s i.core) f b.c, ch < b.c := fun _ h => seRange_lt h
  generalize seRange (coreOf s i.core) f b.c = chs at *
  rw [show max 1 b.p = b.p from Nat.max_eq_right hp]
  have hlt : ∀ r ∈ scanRows s i, r < 64 := fun r hr => (mem_scanRows.1 hr).1
  have hr := h0.seReads rfl
  obtain ⟨a, ha, hsteps⟩ := h0.fetchHeads (fun o ho => hcl o (List.mem_append_left _ (List.mem_append_left _ (List.mem_append_left _ ho)))) (scanHeads_lt hp hpc hchs)
  obtain ⟨rb, hrb, hB⟩ := hr.fetchSpb b.fb (es := soutElems b (scanRows s i)) (fun e he => soutElems_lt hlt he)
    (fun o ho => hcl o (List.mem_append_left _ (List.mem_append_left _ (List.mem_append_right _ ho))))
  obtain ⟨rx, hrx, hX⟩ := hr.fetchSpb b.fx (es := scarryElems b (scanRows s i) chs) (fun e he => scarryElems_lt hlt hchs he)
    (fun o ho => hcl o (List.mem_append_left _ (List.mem_append_right _ ho)))
  obtain ⟨rq, hrq, hqh⟩ := hr.fetchQh hchs (fun o ho => hcl o (List.mem_append_right _ ho))
  obtain ⟨inits, hinits, hstart⟩ := h0.fetchStarts hchs hini
  have hpois := scarryPoisoned_eq hB hX
  have hes : (scanRows s i).flatMap (fun r => (List.range b.n).map (fun n => r * b.n + n)) = soutElems b (scanRows s i) := rfl
  have hxs : (scanRows s i).flatMap (fun r => chs.map (fun ch => r * b.c + ch)) = scarryElems b (scanRows s i) chs := rfl
  have hlive : (List.range (spbStreams b)).filter (fun st => (scanRows s i).any (fun r => r / b.l == st)) = liveStreams b (scanRows s i) := rfl
  rw [hes, hxs, hlive, ha]
  dsimp only
  rw [hrb]
  dsimp only
  rw [hrx]
  dsimp only
  rw [hrq]
  dsimp only
  rw [hinits]
  dsimp only
  rw [hsteps, h0.scanCurves, hpois]
  rw [scanClamped_eq, cells_congr (g' := fun y => (stateAt b y.1 y.2.1 y.2.2.1 y.2.2.2, scarryVal s i b y.1 y.2.1 y.2.2.1 y.2.2.2))
    (fun st hst ch hch n hn part hpart => ?hval)]
  case hval =>
    rw [find?_head hch]
    dsimp only
    rw [hqh ch hch]
    unfold scarryVal scarryB scarryX
    have hval := carryVal_congr (b := b) (k := scanCurves (coreOf s i.core) b) (h := scanSteps s i b (ch / b.p)) (st := st) (part := part)
      (fun p hp => hstart st hst ch hch n hn p hp (baseOf (scanSteps s i b (ch / b.p)) (st * b.l) b.l))
      (bx := fun row => prodExact [(fetchedFmt (spbFmt b.fb) rb b.aB (64 * b.n) (row * b.n + n)).1,
          (fetchedFmt (spbFmt b.fx) rx b.aX (64 * b.c) (row * b.c + ch)).1])
      (bx' := fun r => prodExact [(scanElem s i.core (spbFmt b.fb) b.aB (64 * b.n) (r * b.n + n)).1,
          (scanElem s i.core (spbFmt b.fx) b.aX (64 * b.c) (r * b.c + ch)).1])
      (fun t _ hon => by
        rw [hB _ (mem_soutElems (scanSteps_on hon) hn), hX _ (mem_scarryElems (scanSteps_on hon) hch)])
    rw [hval]
    rfl
  refine scarry_finish h0 ?_ ?_
  · unfold scarryLanding
    obtain ⟨-, y, -, hw⟩ := h0.lamClamp (scanClamped s i b chs)
    rw [hw.core, List.map_map]
    rfl
  · rw [List.map_map]
    rfl

theorem scarryFlags_nil : scarryFlags s i b [] [] = .none := by
  have hcells : scarryCells b [] [] = [] := by
    unfold scarryCells liveStreams
    rw [List.filter_eq_nil_iff.2 (by simp)]
    rfl
  unfold scarryFlags
  rw [hcells]
  rfl

/-- Where SCARRY does not work, it occupies the SE and does nothing. -/
theorem effScarry_idle (hspb : cleanRow s.dp i.core false f.spb.toNat 0 = true) (hworks : (runs s i && !noRows (coreOf s i.core) i) = false) :
    SeDoing s i.core (seCore s i.core 3 (scarryTerms (spbSeen s i f) f) false) .none 0 [] (effScarry i f (runs s i) (workOf s i.core .se false)) := by
  have h0 := seBusy_doing (s := s) i.core 3 (scarryTerms (spbSeen s i f) f) false
  unfold effScarry
  dsimp only
  rw [readSpb_eq hspb]
  dsimp only
  rw [noRows_start, hworks]
  rw [h0.idle, hworks, if_pos (by decide)]
  exact h0

/-- The third clause of O37. -/
theorem scarry_command (hdue : dueNow s (.scarry i f) i .se = true) (hspb : cleanRow s.dp i.core false f.spb.toNat 0 = true) (hb : b = spbSeen s i f)
    (hl : 0 < b.l) (hl64 : 64 % b.l = 0) (hp : 0 < b.p) (hpc : b.c % b.p = 0)
    (hcl : (runs s i && !noRows (coreOf s i.core) i) = true → offsClean s i.core (scarryReads i b) ∧ initsClean s i b) :
    ∃ t, exec (.scarry i f) s = .next t ∧ sameBeside s t ∧
      onlyCore s t i.core .se keepSe (if runs s i && !noRows (coreOf s i.core) i then
        [(seOcc (scarryTerms b f) + 25, scarryLanding s i b (workRows s i) (scanChs s i f b))] else []) ∧
      (coreOf t i.core).se = seBusyWith (coreOf s i.core).se s.dp.cycle 3 (scarryTerms b f) (runs s i && !noRows (coreOf s i.core) i)
        (scanClamped s i b (scanChs s i f b)) ∧
      flagsRaised s t i.core .se (scarryFlags s i b (workRows s i) (scanChs s i f b)) := by
  unfold scanChs workRows at *
  cases hworks : runs s i && !noRows (coreOf s i.core) i with
  | false =>
    rw [if_neg (by decide), if_neg (by decide), if_neg (by decide)]
    have := SeDoing.exec (ins := .scarry i f) rfl hdue rfl (effScarry_idle hspb hworks)
    rw [← hb] at this
    refine this.imp (fun t => ?_)
    rintro ⟨hx, hside, honly, hse, hfl⟩
    exact ⟨hx, hside, honly, hse, scarryFlags_nil (s := s) (i := i) (b := b) ▸ hfl⟩
  | true =>
    rw [if_pos rfl, if_pos rfl, if_pos rfl]
    exact SeDoing.exec rfl hdue rfl (effScarry_doing hspb hworks hb hl hl64 hp hpc (hcl hworks).1 (hcl hworks).2)

end scarry

/-- Settles O37: SMIX, SOUT and SCARRY, clause by clause. -/
theorem scanCommands : Obligations.ScanCommands := by
  unfold Obligations.ScanCommands
  refine ⟨fun s i f hdue hspb => ?_, fun s i f hdue hspb => ?_, fun s i f hdue hspb => ?_⟩
  · exact smix_command hdue hspb
  · intro x b k fc works chs rows reads groups cr ci val poisoned plane clamped hl hl64 hp hpc hcl hth
    exact sout_command hdue hspb rfl hl hl64 hp hpc hcl hth
  · intro x b k fb fx works chs rows reads live vb vx val poisoned cells clamped hl hl64 hp hpc hcl
    exact scarry_command hdue hspb rfl hl hl64 hp hpc hcl

end Sys2Proof.Machine
end
